-- ==== Sys2Proof/Word.lean ====
section
/-! DEFINITION. The word types of the ZK960 model: what the manual itself treats as bits. -/
namespace Sys2Proof

/-- One byte of any memory. -/
abbrev Byte := BitVec 8
/-- A 16-bit half, the width of an Iambel memory half (R328). -/
abbrev Half := BitVec 16
/-- A 32-bit control register (R19). -/
abbrev Word := BitVec 32
/-- A 128-bit tensor-core command word (R89). -/
abbrev CmdWord := BitVec 128

end Sys2Proof
end

