-- ==== Sys2Proof/Syntax.lean ====
section
/-! DEFINITION. The commands of the block: one constructor per row of spec/opcode_table.json, with the row's
operands. Values that come from outside the ZK960 (a written value, a packet, a reading) are operands. -/
namespace Sys2Proof

/-- The two stream slots of a tensor core (R92). -/
inductive Slot where
  | a | b
deriving DecidableEq, Repr

/-- 0 for slot A, 1 for slot B (R96). -/
def Slot.idx : Slot → Nat
  | .a => 0
  | .b => 1

/-- The core's other slot. -/
def Slot.other : Slot → Slot
  | .a => .b
  | .b => .a

/-- Who reads or writes a register (R436, R437, R420): the host physical function, a lodging's virtual function,
the SMBus port (the board controller), the Innkeeper, an Iambel core by CREG, the debug port. -/
inductive Requester where
  | pf
  | vf (l : Fin 16)
  | smbus
  | innkeeper
  | ibc (n : Fin 18)
  | dbg
deriving DecidableEq, Repr

/-- What a received fronthaul frame shows of R263 beyond its fields: bytes, 802.1Q tags, EtherType, the C-plane section type of a
type 2 message, any other feature that R263 does not list. -/
structure FhFrame where
  len : Nat
  tags : Nat
  ether : Nat
  sect : Nat
  other : Bool
deriving DecidableEq, Repr

/-- What the hardware does about a lasting tier fault: soft post-package repair, or no repair resource left (R212, R213). -/
inductive TierFix where
  | ppr
  | exhausted
deriving DecidableEq, Repr

/-- A unit in which a fault is detected (R467), by its logical number: a lane group of a core, a core, an operand-store
bank, an SRAM word (device address, two bits wrong, the repair the hardware finds for a stuck cell, if any), a fabric port
or ring hop (with the core that uses it, none for the hall ring), an Iambel core, a decode engine's position, an encode
engine, a CRC unit, a sample decoder, a sync object, a tier unit (device address, uncorrectable, the repair), the Porter
or Steward. -/
inductive RelUnit where
  | lane (c : Fin 32) (g : Fin 8)
  | core (c : Fin 32)
  | bank (c b : Fin 32)
  | word (a : Nat) (dbl : Bool) (fix : Option Nat)
  | ring (c : Option (Fin 32))
  | iambel (n : Fin 16)
  | engine (p : Fin 4)
  | encode (e : Fin 2)
  | crc (n : Fin 18)
  | decoder (d : Fin 2)
  | object (o : Fin 4096)
  | tier (a : Nat) (dbl : Bool) (fix : TierFix)
  | firmware (steward : Bool)
deriving DecidableEq, Repr

/-- How the replay of R470 ends: it passes, or it fails; and whether the replay on the spare fails too. -/
inductive Replay where
  | passes
  | lasting (spareFails : Bool)
deriving DecidableEq, Repr

/-- A host ring (R584, R592): the submission ring of a lodging, its completion ring, the PTP rings of a port. -/
inductive HRing where
  | sq (l : Fin 16)
  | cq (l : Fin 16)
  | ptp (p : Fin 12)
deriving DecidableEq, Repr

/-- What the Innkeeper's lockstep does about a disagreement (R476): the repeated interval agrees, one physical core is
outvoted, or all three disagree. -/
inductive Vote where
  | agrees
  | outvoted (core : Fin 3)
  | allDiffer
deriving DecidableEq, Repr

/-- What a start meets outside the registers (R547 to R553): the flash answers in quad SPI only; the signatures of slot A and
slot B verify, and their firmware starts; the units that fail self-test; the PCIe link's width and speed, 0 while it is down;
READ_VOUT in mV. -/
structure StartIn where
  quad : Bool
  sigA : Bool
  sigB : Bool
  fwA : Bool
  fwB : Bool
  bad : List RelUnit
  width : Nat
  speed : Nat
  vout : Nat
deriving DecidableEq, Repr
/-- The commands of the ZK960: one constructor per row of the opcode table, in the table's order. -/
inductive Instr where
  /-- REGISTER_WRITE (R19): A write to a register field with no behaviour of its own takes effect by the field's access type (RW, W1C, W1S, RWL), with reserved bits discarded. -/
  | registerWrite (who : Requester) (off : BitVec 24) (be : BitVec 4) (v : Word)
  /-- NOP (R99): Tensor-core NOP completes at issue. -/
  | nop (c : Fin 32) (sl : Slot) (w : CmdWord)
  /-- WAIT (R99): WAIT blocks its slot until a sync object's count reaches THRESH. -/
  | wait (c : Fin 32) (sl : Slot) (w : CmdWord)
  /-- WAIT_SATISFIED (R99): A waiting WAIT completes once its object's count is at least THRESH, and its slot resumes issuing. -/
  | waitSatisfied (c : Fin 32) (p : Fin 4) (sl : Slot)
  /-- SIGNAL (R99): SIGNAL adds N to a sync object's count at issue and completes. -/
  | signal (c : Fin 32) (sl : Slot) (w : CmdWord)
  /-- ARM (R99): ARM sets a sync object's armed threshold at issue and completes. -/
  | arm (c : Fin 32) (sl : Slot) (w : CmdWord)
  /-- FENCE (R99): FENCE completes once every earlier command of the slot, moves included, has completed. -/
  | fence (c : Fin 32) (sl : Slot) (w : CmdWord)
  /-- END (R99): END completes as FENCE does, writes a record and ends the slot's stream. -/
  | endStream (c : Fin 32) (sl : Slot) (w : CmdWord)
  /-- MARK (R99): MARK completes as FENCE does and writes a record that carries TAG. -/
  | mark (c : Fin 32) (sl : Slot) (w : CmdWord)
  /-- MOV (R111): MOV enters a move into the slot's move queue, to copy data between two of the lodging's regions. -/
  | mov (c : Fin 32) (sl : Slot) (w : CmdWord)
  /-- MOVE_START (R112): A queued move starts transferring once its WAIT object reaches its threshold and the move before it has read its last unit. -/
  | moveStart (c : Fin 32) (p : Fin 4) (sl : Slot)
  /-- ROT (R117): ROT joins its weight-ring round; once all n ROTs are issued, the round sends each shard to the predecessor core. -/
  | rot (c : Fin 32) (sl : Slot) (w : CmdWord)
  /-- PAGE_PUT (R257): PAGE_PUT copies a local KV page to a page of a peer lodging over a device link. -/
  | pagePut (c : Fin 32) (sl : Slot) (w : CmdWord)
  /-- PAGE_GET (R257): PAGE_GET copies a peer's KV page into a local page over a device link. -/
  | pageGet (c : Fin 32) (sl : Slot) (w : CmdWord)
  /-- PASS (R62): PASS streams M vectors against a stationary bank and accumulates into accumulator rows. -/
  | pass (c : Fin 32) (sl : Slot) (w : CmdWord)
  /-- TILE (R80): TILE folds a whole matrix product into LDS, PASS and DRAIN operations. -/
  | tile (c : Fin 32) (sl : Slot) (w : CmdWord)
  /-- LDS (R59): LDS loads a stationary tile into a bank lane by lane. -/
  | lds (c : Fin 32) (sl : Slot) (w : CmdWord)
  /-- DRAIN (R74): DRAIN converts accumulator rows into a tile buffer and pushes a finished-tile entry. -/
  | drain (c : Fin 32) (sl : Slot) (w : CmdWord)
  /-- DRAIN_BUFFER_FREED (R133): A drain waiting on a tile buffer begins once the buffer becomes FREE. -/
  | drainBufferFreed (c : Fin 32) (p : Fin 4) (sl : Slot) (i : Nat)
  /-- VLD (R145): VLD reads rows from the operand store into a tile buffer, converting between formats. -/
  | vld (c : Fin 32) (sl : Slot) (w : CmdWord)
  /-- VST (R145): VST writes tile-buffer rows into the operand store, converting between formats. -/
  | vst (c : Fin 32) (sl : Slot) (w : CmdWord)
  /-- VBIN (R141): VBIN computes an element-wise binary operation, with an optional broadcast of B. -/
  | vbin (c : Fin 32) (sl : Slot) (w : CmdWord)
  /-- VUN (R143): VUN computes a unary function of A (MOV, NEG, ABS, CONJ, FILL or EMPTYBITS). -/
  | vun (c : Fin 32) (sl : Slot) (w : CmdWord)
  /-- VFMA (R142): VFMA computes a fused multiply-add, rounded once. -/
  | vfma (c : Fin 32) (sl : Slot) (w : CmdWord)
  /-- VCVT (R144): VCVT converts A to FD, optionally scaling by a power of two first. -/
  | vcvt (c : Fin 32) (sl : Slot) (w : CmdWord)
  /-- VFREE (R146): VFREE frees a tile buffer and pops its queued finished-tile entry. -/
  | vfree (c : Fin 32) (sl : Slot) (w : CmdWord)
  /-- RED (R149): RED reduces each row by MAX, MIN, SUM, SUMSQ or ARGMAX. -/
  | red (c : Fin 32) (sl : Slot) (w : CmdWord)
  /-- TOPK (R151): TOPK writes the k largest values of each row with their indices. -/
  | topk (c : Fin 32) (sl : Slot) (w : CmdWord)
  /-- SMX1 (R164): SMX1 updates each row's running softmax maximum and sum. -/
  | smx1 (c : Fin 32) (sl : Slot) (w : CmdWord)
  /-- SMX2 (R165): SMX2 normalises a chunk against the final softmax state and sets EMPTY bits. -/
  | smx2 (c : Fin 32) (sl : Slot) (w : CmdWord)
  /-- SFN (R153): SFN evaluates a table-driven special function on every element of a range. -/
  | sfn (c : Fin 32) (sl : Slot) (w : CmdWord)
  /-- TLOAD (R160): TLOAD writes the inactive table bank and its directory from a descriptor. -/
  | tload (c : Fin 32) (sl : Slot) (w : CmdWord)
  /-- TSWAP (R161): TSWAP makes the inactive table bank active after every earlier TLOAD completes. -/
  | tswap (c : Fin 32) (sl : Slot) (w : CmdWord)
  /-- QNT (R178): QNT quantises a wide tensor into codes and group scales, in DYNAMIC or HISTORY mode. -/
  | qnt (c : Fin 32) (sl : Slot) (w : CmdWord)
  /-- DEQUANT (R182): DQNT DEQUANT turns codes, scales and side values back into a wide tensor. -/
  | dequant (c : Fin 32) (sl : Slot) (w : CmdWord)
  /-- ATTACH (R184): DQNT ATTACH gives the slot a scale attachment for its later LDS, PASS and TILE. -/
  | attach (c : Fin 32) (sl : Slot) (w : CmdWord)
  /-- DETACH (R184): DQNT DETACH removes the slot's scale attachment. -/
  | detach (c : Fin 32) (sl : Slot) (w : CmdWord)
  /-- RECORD (R183): QMAX RECORD writes a tensor's step maxima into a history record without producing codes. -/
  | recordMax (c : Fin 32) (sl : Slot) (w : CmdWord)
  /-- QMAX_CLEAR (R183): QMAX CLEAR resets a history record's header and zeroes its entries. -/
  | qmaxClear (c : Fin 32) (sl : Slot) (w : CmdWord)
  /-- OSIDE (R188): OSIDE performs outlier side passes into explicit accumulator rows. -/
  | oside (c : Fin 32) (sl : Slot) (w : CmdWord)
  /-- ATT (R243): ATT computes attention over the selected KV pages of a sequence, chunk by chunk. -/
  | att (c : Fin 32) (sl : Slot) (w : CmdWord)
  /-- POOL (R228): KVAPP POOL creates a KV pool and lays out its structures. -/
  | poolCreate (c : Fin 32) (sl : Slot) (w : CmdWord)
  /-- JOIN (R233): KVAPP JOIN queues a sequence, optionally matching its prompt against the prefix table. -/
  | join (c : Fin 32) (sl : Slot) (w : CmdWord)
  /-- LEAVE (R233): KVAPP LEAVE marks a sequence LEAVING. -/
  | leave (c : Fin 32) (sl : Slot) (w : CmdWord)
  /-- KVAPP_STEP (R254): KVAPP STEP runs the step boundary: leaves, growth, pauses, resumes and joins, and writes a step record. -/
  | kvappStep (c : Fin 32) (sl : Slot) (w : CmdWord)
  /-- SPILL_COMPLETE (R250): A spill write completes; the page becomes SPILLED and its slot is freed. -/
  | spillComplete (l : Fin 16) (pool : Fin 4) (page : Fin 4194304)
  /-- FETCH_COMPLETE (R253): A page fetch completes, the page becomes RESIDENT and a waiting chunk or APPEND may proceed. -/
  | fetchComplete (l : Fin 16) (pool : Fin 4) (page : Fin 4194304)
  /-- APPEND (R236): KVAPP APPEND writes the keys and values of COUNT tokens into a sequence's pages. -/
  | append (c : Fin 32) (sl : Slot) (w : CmdWord)
  /-- FORK (R237): KVAPP FORK makes SEQ2 a sharing copy of SEQ. -/
  | fork (c : Fin 32) (sl : Slot) (w : CmdWord)
  /-- PIN (R238): KVAPP PIN pins the pages of the named blocks and fetches any that are spilled. -/
  | pinBlocks (c : Fin 32) (sl : Slot) (w : CmdWord)
  /-- UNPIN (R233): KVAPP UNPIN clears PIN on the named blocks' pages. -/
  | unpinBlocks (c : Fin 32) (sl : Slot) (w : CmdWord)
  /-- GROW (R233): KVAPP GROW sets a sequence's GROW. -/
  | grow (c : Fin 32) (sl : Slot) (w : CmdWord)
  /-- CLOSE (R228): KVAPP CLOSE deletes a pool whose sequences are all NONE. -/
  | close (c : Fin 32) (sl : Slot) (w : CmdWord)
  /-- LOOKUP (R249): PFX LOOKUP computes a prefix match and writes the matched block count. -/
  | lookup (c : Fin 32) (sl : Slot) (w : CmdWord)
  /-- PUBLISH (R249): PFX PUBLISH enters a sequence's full blocks into the prefix chain. -/
  | publish (c : Fin 32) (sl : Slot) (w : CmdWord)
  /-- PFX_FLUSH (R233): PFX FLUSH frees every retained group of the pool and removes its entries. -/
  | pfxFlush (c : Fin 32) (sl : Slot) (w : CmdWord)
  /-- CMUL (R282): CMUL computes complex products, optionally conjugated and accumulated. -/
  | cmul (c : Fin 32) (sl : Slot) (w : CmdWord)
  /-- CINV (R283): CINV inverts a batch of Hermitian matrices by Cholesky factorisation. -/
  | cinv (c : Fin 32) (sl : Slot) (w : CmdWord)
  /-- LLRPK (R284): LLRPK converts values into clamped INT8 LLR codes. -/
  | llrpk (c : Fin 32) (sl : Slot) (w : CmdWord)
  /-- BRK (R637): Tensor-core BRK halts the slot when BRK_EN is set, and otherwise completes as NOP. -/
  | brk (c : Fin 32) (sl : Slot) (w : CmdWord)
  /-- COMMAND_COMPLETION (R98): A command completes: it writes its completion record, signals SOBJ on success and stops its slot on failure. -/
  | commandCompletion (c : Fin 32) (p : Fin 4) (sl : Slot) (i : Nat)
  /-- CRING_HEAD_WRITE (R128): A write of a slot's completion-ring HEAD frees entries and lets a stalled slot continue. -/
  | cringHeadWrite (who : Requester) (c : Fin 32) (sl : Slot) (v : Word)
  /-- SLICE_END (R405): A pooled lodging's deficit reaches 0, or it has had no work for 64 cycles, ending its run in the round. -/
  | sliceEnd (c : Fin 32) (eng vec busy : Nat)
  /-- ROUND (R405): A pooled core starts a deficit round-robin round and adds quanta to the lodgings with work. -/
  | round (c : Fin 32)
  /-- SWITCH (R407): A pooled core switches from one lodging to another once the non-preemptible unit ends and the engine empties. -/
  | switchLdg (c : Fin 32) (eng vec busy : Nat)
  /-- REFILL (R215): Every 600 CTL cycles, a lodging's regulator buckets gain tokens up to DEPTH. -/
  | refill (l : Fin 16)
  /-- TIER_REFRESH (R210): A per-bank LPDDR refresh stalls a channel. -/
  | tierRefresh (ch : Fin 8)
  /-- TIER_SCRUB (R211): The patrol scrub reads and corrects tier units from unassigned slots, covering the tier every 24 hours. -/
  | tierScrub (a : BitVec 48) (ce : Bool)
  /-- SRAM_SCRUB (R219): The scrubber reads on-chip SRAM words in idle port cycles, every 6 hours. -/
  | sramScrub (a : BitVec 48) (ce last : Bool)
  /-- FH_UPLANE_RX (R264): The fronthaul engine receives an eCPRI U-plane message, maps it to a carrier and stream, and decompresses it. -/
  | fhUplaneRx (p : Fin 12) (bad : Bool) (frame : FhFrame) (ty eaxc seq : Nat) (sfn : Fin 1024) (slot : Fin 80) (k : Fin 14) (prb0 meth width : Nat) (data : List Byte)
  /-- ARR_MAX_EXPIRY (R269): At air(k) + ARR_MAX, the missing PRBs of symbol k are written as 0 and MISSING_PRB is set. -/
  | arrMaxExpiry (a : Fin 8) (sfn : Fin 1024) (slot : Fin 80) (k : Fin 14)
  /-- SLOT_ORDER (R276): A slot order is taken from the submission ring and checked, or ends late with TIMEOUT. -/
  | slotOrder (l : Fin 16)
  /-- UPLINK_STAGE_END (R278): An uplink stage S1 to S8 ends, signals its sync object and lets the next stage begin. -/
  | uplinkStageEnd (a : Fin 8) (sfn : Fin 1024) (slot : Fin 80) (k : Fin 9) (sym : Fin 14) (res foff sroff : Int)
  /-- DOWNLINK_STAGE_END (R287): A downlink stage D1 or D2 ends and hands on to the next stage. -/
  | downlinkStageEnd (a : Fin 8) (sfn : Fin 1024) (slot : Fin 80) (d2 : Bool) (k : Fin 14)
  /-- CPLANE_SEND (R288): At slot start minus CP_ADV, the slot's C-plane is sent. -/
  | cplaneSend (a : Fin 8) (ul : Bool) (sfn : Fin 1024) (slot : Fin 80)
  /-- DL_SYMBOL_SEND (R288): At a symbol's send time its U-plane is sent, or the symbol is not sent and DL_LATE is set. -/
  | dlSymbolSend (a : Fin 8) (sfn : Fin 1024) (slot : Fin 80)
  /-- DEADLINE (R291): At an uplink slot's deadline, undelivered blocks are delivered with TIMEOUT and DEADLINE_MISS is set. -/
  | deadline (a : Fin 8) (sfn : Fin 1024) (slot : Fin 80)
  /-- REACQ (R285): A write of REACQ makes a tracking carrier enter ACQUIRE. -/
  | reacq (who : Requester) (a : Fin 8)
  /-- TBL_LOAD (R309): A write of LDPC.TBL_CTL GO loads a decoder weight table into the inactive copy of a slot. -/
  | tblLoad (who : Requester) (slot : Fin 16)
  /-- TBL_LOAD_DONE (R309): A decoder table load ends and reports its status in LDPC.TBL_STAT. -/
  | tblLoadDone
  /-- CODE_BLOCK_DECODE (R305): A decode engine takes a waiting code block and runs layered min-sum on it. -/
  | codeBlockDecode (p : Fin 4)
  /-- CODE_BLOCK_DONE (R306): A code block stops decoding at a zero syndrome or I_max, and its CRC is checked. -/
  | codeBlockDone (p : Fin 4)
  /-- CODE_BLOCK_ENCODE (R318): An encode engine takes a downlink block and encodes, rate-matches and scrambles it. -/
  | codeBlockEncode (e : Fin 2)
  /-- CRC_CMD (R321): A write of CRC_CMD starts a CRC job over a memory range. -/
  | crcCmd (who : Requester) (n : Fin 18) (poly : Fin 8) (len : Fin 131072)
  /-- CRC_DONE (R321): A CRC job completes, writes CRC_RES and sets the core's CRC interrupt pending. -/
  | crcDone (n : Fin 18)
  /-- IBC_NOP (R340): Iambel NOP issues, with its bundled moves if any. -/
  | ibcNop (n : Fin 18) (w mv : Word)
  /-- FTAP (R342): FTAP performs one filter tap, with an optional delay-line write. -/
  | ftap (n : Fin 18) (w mv : Word)
  /-- MAC (R343): MAC multiplies two D registers into an accumulator. -/
  | macIns (n : Fin 18) (w mv : Word)
  /-- CMAC (R344): CMAC performs a complex multiply-accumulate into an accumulator pair. -/
  | cmac (n : Fin 18) (w mv : Word)
  /-- ALU (R345): ALU computes a register function of two D registers. -/
  | alu (n : Fin 18) (w mv : Word)
  /-- ALUI (R345): ALUI computes a register function of a D register and an immediate. -/
  | alui (n : Fin 18) (w mv : Word)
  /-- LDI (R346): LDI writes an immediate into a D register or its half. -/
  | ldi (n : Fin 18) (w mv : Word)
  /-- ACOP (R347): ACOP performs an accumulator-to-accumulator operation. -/
  | acop (n : Fin 18) (w mv : Word)
  /-- MV (R348): MV copies one register to another, scaling accumulator reads. -/
  | mv (n : Fin 18) (w mv : Word)
  /-- LDST (R352): LDST moves a word or half between a D register and X, Y or P. -/
  | ldst (n : Fin 18) (w mv : Word)
  /-- LOOP (R354): LOOP runs the following body COUNT times using LC and the loop cache. -/
  | loopIns (n : Fin 18) (w mv : Word)
  /-- REP (R356): REP issues the next instruction N times from the repeat register. -/
  | repIns (n : Fin 18) (w mv : Word)
  /-- BR (R357): BR branches when its condition holds. -/
  | br (n : Fin 18) (w mv : Word)
  /-- CALL (R357): CALL pushes the return address and branches. -/
  | call (n : Fin 18) (w mv : Word)
  /-- RET (R358): RET pops the return stack and branches. -/
  | retIns (n : Fin 18) (w mv : Word)
  /-- RETI (R364): RETI restores what its interrupt level saved and resumes. -/
  | reti (n : Fin 18) (w mv : Word)
  /-- EI (R358): EI enables interrupt levels. -/
  | ei (n : Fin 18) (w mv : Word)
  /-- DI (R358): DI disables interrupt levels. -/
  | di (n : Fin 18) (w mv : Word)
  /-- IDLE (R358): IDLE stops issuing until an enabled interrupt is taken. -/
  | idleIbc (n : Fin 18) (w mv : Word)
  /-- STOP (R358): STOP ends the program; the core becomes STOPPED and DONE is set. -/
  | stopIbc (n : Fin 18) (w mv : Word)
  /-- TRAP (R358): CTL TRAP traps SWTRAP with a code. -/
  | trapIbc (n : Fin 18) (w mv : Word)
  /-- IBC_BRK (R633): CTL BRK halts the Iambel core when BRK_EN is set, and otherwise completes as NOP. -/
  | ibcBrk (n : Fin 18) (w mv : Word)
  /-- BLKEND (R351): BLK BLKEND updates BEXP, adapts SHIFT in AUTO mode and resets the tracker. -/
  | blkend (n : Fin 18) (w mv : Word)
  /-- BLKCLR (R351): BLK BLKCLR sets BEXP to 0 and resets the tracker. -/
  | blkclr (n : Fin 18) (w mv : Word)
  /-- CHKPT (R368): BLK CHKPT takes a checkpoint. -/
  | chkpt (n : Fin 18) (w mv : Word)
  /-- SIG (R359): Iambel SYNC SIG adds Dn to a sync object's count. -/
  | sig (n : Fin 18) (w mv : Word)
  /-- WAITS (R359): Iambel SYNC WAITS stops issuing until an object's count reaches Dn. -/
  | waits (n : Fin 18) (w mv : Word)
  /-- WAITS_SATISFIED (R359): A waiting Iambel core resumes once its object's count is at least Dn. -/
  | waitsSatisfied (n : Fin 18)
  /-- SYNC_ARM (R359): Iambel SYNC ARM sets an object's armed threshold. -/
  | syncArm (n : Fin 18) (w mv : Word)
  /-- XFER (R360): XFER queues a copy between core memory and a region of the lodging. -/
  | xfer (n : Fin 18) (w mv : Word)
  /-- XFER_DONE (R360): A transfer completes, signals its object and sets XDONE pending, or traps on failure. -/
  | xferDone (n : Fin 18)
  /-- CREG (R361): CREG reads or posts a write to a 32-bit control register. -/
  | creg (n : Fin 18) (w mv : Word)
  /-- CREG_READ_LAND (R361): A CREG read lands in Dn, at most 32 cycles after issue. -/
  | cregReadLand (n : Fin 18)
  /-- INTERRUPT (R364): An Iambel core takes a pending enabled interrupt, saves state or swaps register sets, and branches to its vector. -/
  | interruptIbc (n : Fin 18)
  /-- CHECKPOINT (R368): An Iambel core takes a checkpoint when 4,096 cycles have passed or its undo log is full. -/
  | checkpoint (n : Fin 18)
  /-- IBC_RUN (R370): A write of IBC.CTL.RUN = 1 starts a STOPPED or TRAPPED core at ENTRY. -/
  | ibcRun (who : Requester) (n : Fin 18)
  /-- IBC_RUN_STOP (R370): A write of IBC.CTL.RUN = 0 stops the core at the next instruction boundary after any REP. -/
  | ibcRunStop (who : Requester) (n : Fin 18)
  /-- IRQ_SET (R372): A write of 1 to IBC.IRQ_SET sets interrupt sources 5 to 7 pending. -/
  | irqSet (who : Requester) (n : Fin 18) (v : Word)
  /-- MBOX (R362): A write to IBC.MBOX by a requester other than the core sets source MBOX pending. -/
  | mbox (who : Requester) (n : Fin 18) (v : Word)
  /-- ST_TAIL (R375): A write of SMP.ST_TAIL posts input entries of a stream. -/
  | stTail (who : Requester) (st : Fin 64) (v : Word)
  /-- FRAME_TAKE (R377): A free sample decoder takes the oldest posted frame once its batch queue has 8 free slots, reserves them and checks the headers. -/
  | frameTake (d : Fin 2)
  /-- FRAME_READY (R390): A decoded frame's outputs are written into their slots and become ready together. -/
  | frameReady (d : Fin 2)
  /-- TAKE (R391): A write of TAKE forms a batch on a MODE 1 queue and writes its record. -/
  | takeBatch (who : Requester) (l : Fin 16) (q : Fin 4)
  /-- BQ_RELEASE (R391): A write of RELEASE frees a MODE 1 queue's held batch. -/
  | bqRelease (who : Requester) (l : Fin 16) (q : Fin 4)
  /-- WAYBILL (R410): A WAYBILL submission entry is admitted and queued, or refused with a code. -/
  | waybill (l : Fin 16)
  /-- DISPATCH (R411): The Innkeeper dispatches the oldest queued waybill once the lodging is IDLE, checking it against the live bindings. -/
  | dispatch (l : Fin 16)
  /-- WAYBILL_END (R412): Every slot has completed END and every Iambel core has stopped; outputs are marked OK and the lodging becomes IDLE. -/
  | waybillEnd (l : Fin 16)
  /-- LIMIT_EXPIRY (R415): LIMIT µs pass from dispatch and the waybill is torn down. -/
  | limitExpiry (l : Fin 16)
  /-- CANCEL (R419): A write of LDG.CTL.CANCEL tears down the running waybill. -/
  | cancel (who : Requester) (l : Fin 16)
  /-- LDG_RESET (R419): A write of LDG.CTL.RESET makes a partial reset of the lodging. -/
  | ldgReset (who : Requester) (l : Fin 16)
  /-- BEGIN (R420): STG.CTL BEGIN opens a staging and makes the requester its owner. -/
  | beginStg (who : Requester)
  /-- CHECK (R422): STG.CTL CHECK checks the whole staged configuration without changing anything. -/
  | checkStg (who : Requester)
  /-- COMMIT (R424): STG.CTL COMMIT checks the staging and makes it live at once or at its instant. -/
  | commitStg (who : Requester)
  /-- COMMIT_INSTANT (R424): At the MODE 1 or 2 instant, after the second check, every staged value becomes live. -/
  | commitInstant
  /-- ABANDON (R421): STG.CTL ABANDON discards every staged value and closes the staging. -/
  | abandonStg (who : Requester)
  /-- AUTO_ABANDON (R421): A staging left OPEN for 1 s is abandoned by the ZK960. -/
  | autoAbandon
  /-- RESOURCE_RELEASE (R425): A resource leaving a lodging is released once its hold or yield ends, and cleared for its new lodging. -/
  | resourceRelease (i : Nat)
  /-- YIELD_LIMIT_EXPIRY (R425): The yield limit passes and the yielding waybill is torn down with CAUSE 4. -/
  | yieldLimitExpiry (l : Fin 16)
  /-- NOW_FRAC_READ (R436): A read of TB.NOW_FRAC latches the whole time for the reading requester. -/
  | nowFracRead (who : Requester) (t : Fin 4)
  /-- INCR_LO_WRITE (R438): A write of TB.INCR_LO is held pending. -/
  | incrLoWrite (who : Requester) (t : Fin 4) (v : Word)
  /-- INCR_HI_WRITE (R438): A write of TB.INCR_HI applies a new increment, or refuses it. -/
  | incrHiWrite (who : Requester) (t : Fin 4) (v : Word)
  /-- ADJUST (R439): TB.OP ADJUST steps, slews or refuses a phase adjustment. -/
  | adjust (who : Requester) (t : Fin 4)
  /-- SET (R435): TB.OP SET starts a STOPPED time base, or adjusts a running one to the SET time. -/
  | setTb (who : Requester) (t : Fin 4)
  /-- ARM_OVR (R440): A write of ARM_OVR arms the override for the next adjustment. -/
  | armOvr (who : Requester) (t : Fin 4)
  /-- OVERRIDE_EXPIRY (R440): An armed override disarms 10 s after arming. -/
  | overrideExpiry (t : Fin 4)
  /-- SLEW_COMPLETE (R439): The remaining slew reaches zero and SLEWING clears. -/
  | slewComplete (t : Fin 4)
  /-- CMP_ARM (R443): A write of TB.CMP_CTL.ARM loads the pending values and arms the comparator. -/
  | cmpArm (who : Requester) (k : Fin 32)
  /-- CMP_DISARM (R443): A write of TB.CMP_CTL.DISARM stops the comparator. -/
  | cmpDisarm (who : Requester) (k : Fin 32)
  /-- CMP_FIRE (R443): A comparator fires: it pulses its pin, signals its object, sets the interrupt pending and advances its period. -/
  | cmpFire (k : Fin 32)
  /-- TRIG_PULSE_END (R445): A TRIG pulse ends after WIDTH ns. -/
  | trigPulseEnd (k : Fin 32)
  /-- CAPT_EDGE (R447): An edge on a CAPT input is timestamped into the FIFO and performs the unit's actions. -/
  | captEdge (i : Fin 8) (fall : Bool)
  /-- POP (R447): A write of TB.CAPT_CTL.POP removes the head capture entry. -/
  | popCapt (who : Requester) (i : Fin 8)
  /-- XCAP (R448): A write of TB.XCAP.GO latches all four time bases in one cycle. -/
  | xcap (who : Requester)
  /-- PTP_RX (R449): A received PTP frame is timestamped, forwarded and delivered to the port's receive ring. -/
  | ptpRx (p : Fin 12) (frame : List Byte)
  /-- PTP_TX (R450): A PTP transmit entry is sent, with origin or correction written according to MODE. -/
  | ptpTx (p : Fin 12)
  /-- BLOCK_LOCK_LOSS (R453): A fronthaul port loses block lock; LINK_DOWN is set and its SyncE outputs are squelched. -/
  | blockLockLoss (p : Fin 12)
  /-- BLOCK_LOCK_RETURN (R453): A fronthaul port regains block lock and its SyncE outputs resume. -/
  | blockLockReturn (p : Fin 12)
  /-- SYNC_SIGNAL (R454): A write of SYNC.SIGNAL adds N to an object's count. -/
  | syncSignal (who : Requester) (o : Fin 4096) (n : Fin 1048576)
  /-- SYNC_CLEAR (R454): A write of SYNC.CLEAR sets an object's count and threshold to 0. -/
  | syncClear (who : Requester) (o : Fin 4096)
  /-- SYNC_ARMED_WRITE (R465): A write of SYNC.ARMED sets an object's armed threshold, as ARM does. -/
  | syncArmedWrite (who : Requester) (o : Fin 4096) (v : Word)
  /-- RECOVER (R470): A detected fault is recovered by one replay, then by a remap to a spare, or by escalation. -/
  | recover (u : RelUnit) (mech : Fin 7) (r : Replay)
  /-- WATCHDOG (R468): A watchdog expires and raises a fault into the retry rule. -/
  | watchdog (u : RelUnit) (r : Replay)
  /-- MARGIN_CHECK (R475): Every 10 ms, Steward measures the monitors and raises VWEAR or asks for a planned remap. -/
  | marginCheck (margin : Int) (u : RelUnit)
  /-- LOCKSTEP_MISMATCH (R476): The Innkeeper pair disagrees; it rolls back, votes with the standby and retires a core. -/
  | lockstepMismatch (v : Vote)
  /-- FWUPD (R477): A write of REL.FWUPD_CTL.GO starts an in-service firmware update. -/
  | fwupd (who : Requester) (t : Fin 4) (sig : Bool) (digest : BitVec 384)
  /-- FWUPD_PHASE_END (R477): A firmware-update phase ends and the update moves to its next phase. -/
  | fwupdPhaseEnd (ok : Bool)
  /-- WEAR_RECORD_WRITE (R479): Within 1 s of a change, or hourly, the wear record is written into the other bank and checked. -/
  | wearRecordWrite (out : Fin 3)
  /-- SNAPSHOT (R501): Every INTERVAL µs, the Ledger samples every SNAP counter and writes records into its ring and copy rings. -/
  | snapshot
  /-- CNT_LO_READ (R500): A read of CNT_LO latches the counter's high bits for the requester. -/
  | cntLoRead (who : Requester) (b : Fin 66) (i : Fin 8)
  /-- CNT_HI_WRITE (R500): A write of CNT_HI loads the pending low word and the high word together. -/
  | cntHiWrite (who : Requester) (b : Fin 66) (i : Fin 8) (v : Word)
  /-- ATTEST (R531): Mailbox ATTEST returns a signed attestation certificate. -/
  | attest (who : Requester)
  /-- ID_CERT (R540): Mailbox ID_CERT returns the identity or link key certificate. -/
  | idCert (who : Requester)
  /-- SESSION_OPEN (R528): Mailbox SESSION_OPEN derives confidential host session keys and answers N_D with a certificate. -/
  | sessionOpen (who : Requester)
  /-- SESSION_CLOSE (R540): Mailbox SESSION_CLOSE closes a lodging's host session. -/
  | sessionClose (who : Requester)
  /-- ROTATE (R520): Mailbox ROTATE makes CUR the OLD epoch and derives a new current tier key. -/
  | rotate (who : Requester)
  /-- DBG_CHALLENGE (R535): Mailbox DBG_CHALLENGE returns a 128-byte debug challenge. -/
  | dbgChallenge (who : Requester)
  /-- DBG_RESPONSE (R535): Mailbox DBG_RESPONSE verifies a signed response and grants debug scope. -/
  | dbgResponse (who : Requester)
  /-- DBG_REVOKE (R640): Mailbox DBG_REVOKE ends the debug grant and releases every halt. -/
  | dbgRevoke (who : Requester)
  /-- LC_REQ (R538): Mailbox LC_REQ verifies a lifecycle transition token and burns the fuses. -/
  | lcReq (who : Requester)
  /-- SWEEP (R521): The Porter's sweep converts a frame tagged with a live OLD epoch to CUR. -/
  | sweep
  /-- RESET_N (R614): Reset release after RESET_N, the supplies and REFCLK are all good makes a cold reset and starts the device. -/
  | resetN (straps : Byte)
  /-- START (R553): A start runs the steps from ROM through image verification, self-test and configuration to service. -/
  | startUp (x : StartIn)
  /-- TIER_TRAINED (R553): LPDDR5 training and metadata initialisation complete, or fail with TIER_FAIL. -/
  | tierTrained (ok : Bool)
  /-- SUPPLY_FAULT (R615): A monitored supply falls out of range and the device enters reset. -/
  | supplyFault
  /-- REFCLK_LOSS (R559): REFCLK is lost or off frequency; the switched domains are powered off and REFCLK_LOSS is set. -/
  | refclkLoss
  /-- REFCLK_RETURN (R559): REFCLK is within limits for 1 ms and the device starts as from a cold reset. -/
  | refclkReturn
  /-- RESTART (R545): A write of PWR.CTL.RESTART makes a full restart. -/
  | restart (who : Requester)
  /-- CONFIRM (R549): A write of PWR.BOOT_CTL.CONFIRM writes the boot directory with TRIAL 0. -/
  | confirm (who : Requester)
  /-- STBY_ENTER (R572): A write of PWR.CTL.STBY_ENTER enters deep standby when no lodging is bound. -/
  | stbyEnter (who : Requester)
  /-- STBY_EXIT (R572): STBY_EXIT, or a PCIe access, returns the device from deep standby to service. -/
  | stbyExit (who : Requester) (reg : Bool)
  /-- VSET_UPDATE (R564): Every 1 ms, Steward computes the VDD_CORE set-point and steps the voltage over PMBus. -/
  | vsetUpdate (vout iout : Nat) (confirmed : Bool)
  /-- PMB_ALERT (R623): PMB_ALERT_N falls, and Steward reads STATUS_WORD. -/
  | pmbAlert (ok : Bool)
  /-- SENSOR_READ (R567): Every 100 µs the thermal sensors are read, disagreeing sensors are retired and T_hot is updated. -/
  | sensorRead (t : List Int)
  /-- THROTTLE_UPDATE (R568): Steward lowers or raises the engine duty by 1/16 according to T_hot. -/
  | throttleUpdate
  /-- DOM_REQ_WRITE (R561): A write of PWR.DOM_REQ requests a domain AUTO, ON or OFF. -/
  | domReqWrite (who : Requester) (k : Fin 11) (v : Word)
  /-- DOMAIN_SWITCHED (R562): A domain's power-up or power-down completes. -/
  | domainSwitched (d : Fin 176)
  /-- FLR (R582): A function-level reset of a VF makes a partial reset of its lodging and disables its rings. -/
  | flr (fn : Option (Fin 16))
  /-- SQ_CFG_WRITE (R584): A write of a ring's CFG with EN = 1 enables the ring and sets its pointers to 0. -/
  | sqCfgWrite (who : Requester) (r : HRing) (v : Word)
  /-- SQ_TAIL_WRITE (R585): A write of SQ_PTR.TAIL posts submission entries for the device to take. -/
  | sqTailWrite (who : Requester) (l : Fin 16) (v : Word)
  /-- SLOT_ORDER_ENTRY (R587): A SLOT_ORDER submission entry passes its order to the AIR block. -/
  | slotOrderEntry (l : Fin 16)
  /-- H2D (R588): An H2D entry copies bytes from host memory into a region of the lodging. -/
  | h2d (l : Fin 16)
  /-- D2H (R588): A D2H entry copies bytes from a region of the lodging into host memory. -/
  | d2h (l : Fin 16)
  /-- SQ_NOP (R587): A NOP submission entry completes once every earlier entry has completed. -/
  | sqNop (l : Fin 16)
  /-- COPY_COMPLETE (R588): A host copy completes, signals SIG and writes a completion entry. -/
  | copyComplete (l : Fin 16) (hs units : Nat)
  /-- BOUNCE_RECORD (R530): A confidential bounce record is verified and decrypted before its entries or data take effect. -/
  | bounceRecord (l : Fin 16)
  /-- CQ_HEAD_WRITE (R590): A write of CQ_PTR.HEAD frees completion-ring entries and lets held completions be written. -/
  | cqHeadWrite (who : Requester) (l : Fin 16) (v : Word)
  /-- COMPLETION_WRITE (R590): A completion entry is written from the hold into the completion ring. -/
  | completionWrite (l : Fin 16)
  /-- MSIX_MODERATION (R583): At the end of the moderation interval, a pending completion interrupt message is sent. -/
  | msixModeration (l : Fin 16)
  /-- PTX_TAIL_WRITE (R592): A write of the PTP transmit-ring TAIL posts PTP frames for sending. -/
  | ptxTailWrite (who : Requester) (p : Fin 12) (v : Word)
  /-- LINK_TRAIN (R596): An enabled device link trains, authenticates its peer and opens a session, or fails. -/
  | linkTrain (k : Fin 4) (ppm : Int) (lanesOk certs mfg : Bool) (digest peerS : Nat)
  /-- LINK_TRAIN_RETRY (R596): A FAILED link with EN set trains again every 100 ms. -/
  | linkTrainRetry (k : Fin 4)
  /-- RETRAIN (R605): A write of DLK.CTL.RETRAIN retrains the link. -/
  | retrain (who : Requester) (k : Fin 4)
  /-- DATA_FLIT_RX (R598): A data flit is received and checked by CRC; a failure discards it and sends a NAK. -/
  | dataFlitRx (k : Fin 4) (ok : Bool) (seq ack : BitVec 12) (idle : Bool) (lane : Option (Fin 9))
  /-- CONTROL_FLIT_RX (R597): A control flit delivers ACK, NAK, credits and key phase. -/
  | controlFlitRx (k : Fin 4) (ok : Bool) (ack : BitVec 12) (nak : Bool) (c0 c1 : Nat)
  /-- ACK_TIMEOUT (R598): No ACK advances for 4 µs and the transmitter resends from the oldest unacknowledged flit. -/
  | ackTimeout (k : Fin 4)
  /-- LINK_RECORD_RX (R601): A whole link record is authenticated and applied as a remote write, read, page or control operation. -/
  | linkRecordRx (k : Fin 4) (tag : Bool) (seq kind : Nat) (last : Bool) (src dst : Fin 16) (reg status op addr : Nat) (data : List Byte)
  /-- LINK_OP_TIMEOUT (R601): A remote operation receives no answer within 1 ms and ends with TIMEOUT. -/
  | linkOpTimeout (k : Fin 4) (op : Nat)
  /-- IDENT (R607): SMBus IDENT returns the identity, lifecycle and boot state. -/
  | ident (pec : Bool)
  /-- TELEMETRY (R607): SMBus TELEMETRY returns thermal, voltage, power and flag registers. -/
  | telemetry (pec : Bool)
  /-- REG_READ (R607): SMBus REG_READ reads a control register as the board controller. -/
  | regRead (pec : Bool) (off : Word)
  /-- REG_WRITE (R607): SMBus REG_WRITE writes a control register as the board controller. -/
  | regWrite (pec : Bool) (off v : Word)
  /-- FLASH_READ (R607): SMBus FLASH_READ returns flash bytes. -/
  | flashRead (pec : Bool) (off : Word) (n : Byte)
  /-- FLASH_PROGRAM (R608): SMBus FLASH_PROGRAM starts programming bytes within one flash page. -/
  | flashProgram (pec : Bool) (off : Word) (data : List Byte)
  /-- FLASH_ERASE (R608): SMBus FLASH_ERASE starts erasing a 4 KiB sector. -/
  | flashErase (pec : Bool) (off : Word)
  /-- FLASH_OP_DONE (R608): A flash program or erase ends and records its status. -/
  | flashOpDone (ok : Bool)
  /-- FLASH_STATUS (R607): SMBus FLASH_STATUS returns the state of the last program or erase. -/
  | flashStatus (pec : Bool)
  /-- WAKE (R607): SMBus WAKE leaves deep standby. -/
  | wake (pec : Bool)
  /-- TAP_RESET (R628): TRST_N low, or five TCK cycles with TMS high, resets the TAP to IDCODE. -/
  | tapReset
  /-- EXTEST (R629): TAP EXTEST drives pins from the boundary register when allowed. -/
  | extest (bits : List Bool)
  /-- SAMPLE_PRELOAD (R628): TAP SAMPLE/PRELOAD selects the boundary register. -/
  | samplePreload (bits : List Bool)
  /-- IDCODE (R628): TAP IDCODE selects the 32-bit identity register. -/
  | idcode
  /-- CLAMP (R629): TAP CLAMP holds pins from the boundary register when allowed. -/
  | clamp
  /-- HIGHZ (R629): TAP HIGHZ releases every CMOS output when allowed. -/
  | highz
  /-- BYPASS (R628): TAP BYPASS selects the 1-bit bypass register. -/
  | bypass
  /-- DBGACC_READ (R630): DBGACC OP 1 reads a device address as the debug port. -/
  | dbgaccRead (a : BitVec 48)
  /-- DBGACC_WRITE (R630): DBGACC OP 2 writes DATA to a device address as the debug port. -/
  | dbgaccWrite (a : BitVec 48) (v : Word)
  /-- DBGACC_READ_NEXT (R630): DBGACC OP 3 reads the previous address plus 4. -/
  | dbgaccReadNext
  /-- IBC_HALT (R633): A debug halt request halts an Iambel core at an instruction boundary. -/
  | ibcHalt (n : Fin 16)
  /-- BREAKPOINT (R634): An Iambel core halts before issuing an instruction at a breakpoint address. -/
  | breakpoint (n : Fin 16)
  /-- WATCHPOINT (R634): An Iambel core halts after an access that matches a watchpoint. -/
  | watchpoint (n : Fin 16)
  /-- IBC_STEP (R635): Debug STEP issues one Iambel instruction or REP and halts again. -/
  | ibcStep (n : Fin 16)
  /-- IBC_RESUME (R635): Debug RESUME lets a halted Iambel core run. -/
  | ibcResume (n : Fin 16)
  /-- TC_HALT (R637): A debug halt request or SEQ match halts a tensor-core slot at a command boundary. -/
  | tcHalt (c : Fin 32) (sl : Slot)
  /-- TC_STEP (R637): Debug STEP decodes and issues one command of a halted slot. -/
  | tcStep (c : Fin 32) (sl : Slot)
  /-- TC_RESUME (R637): Debug RESUME lets a halted slot continue. -/
  | tcResume (c : Fin 32) (sl : Slot)
  /-- RESET_N_LOW (R614): RESET_N held low for 10 µs or longer puts the device into reset, with every pin in its reset state, until reset release. -/
  | resetNLow
  /-- CNT_LO_WRITE (R500): A write of BLOCK.CNT_LOn is held pending until a write of CNT_HIn loads it together with the high word. -/
  | cntLoWrite (who : Requester) (b : Fin 66) (i : Fin 8) (v : Word)
  /-- VREQ_WRITE (R566): A write of PWR.VREQ requests a fixed voltage; it sets POLICY_OVERRIDE outside MANUFACTURE, sets the voltage exactly in MANUFACTURE, and discards values out of range. -/
  | vreqWrite (who : Requester) (v : Word)
  /-- CYCLE_COUNTER_WRAP (R496): A counter that counts clock cycles wraps from 2^48 − 1 to 0 after 312,750 s and sets its CNT_OVF bit. -/
  | cycleCounterWrap (b : Fin 66) (i : Fin 8)
  /-- ALERT_RESPONSE (R609): The SMBus port answers a read of the SMBus Alert Response Address with its own address. -/
  | alertResponse
  /-- CONFIGURATION_REQUEST (R580): A PCIe configuration request is completed with Configuration Request Retry Status until the end of step 2 of R553, and normally after that. -/
  | configurationRequest
  /-- CONTROL_PROCESSOR_HALT (R638): With SCOPE bit 3 or 4 granted, the debug port halts the Innkeeper (the pair together, with the standby stopped) or the Porter, whose mailboxes then answer BUSY. -/
  | controlProcessorHalt (porter : Bool)
  /-- CONTROL_PROCESSOR_STEP (R638): With SCOPE bit 3 or 4 granted, the debug port steps a halted Innkeeper or Porter. -/
  | controlProcessorStep (porter : Bool)
deriving DecidableEq, Repr

end Sys2Proof
end

