-- ==== Sys2Proof/Decode.lean ====
section
/-! DEFINITION. The commands that a word spells by the opcode table's bits. No row of spec/opcode_table.json gives bits (every
row's field list is empty): the block takes commands, and a word alone spells none. The words of the two command streams the spec
does encode (tensor-core command words, Iambel instructions) are operands of their rows. -/
namespace Sys2Proof

/-- The command that a word of a table row spells: none, for the table gives no row any bits. -/
def decodeTableWord (_nbits _w : Nat) : Option Instr := none

end Sys2Proof
end

