-- ==== Sys2Proof/Config.lean ====
section
/-! DEFINITION. What an implementation fixes and the values the spec leaves open. A constant without a body is a
free value: no proof can see what it is, so a claim is true whatever it is. -/
namespace Sys2Proof

/-- An exact binary value, as lane arithmetic uses it (R28): NaN, an infinity, or (−1)^neg · m · 2^e with m a
natural number. A zero keeps its sign. -/
inductive FV where
  | nan
  | inf (neg : Bool)
  | fin (neg : Bool) (m : Nat) (e : Int)
deriving DecidableEq, Repr, Inhabited

/-- Fresh free values, one per counter reading: draws whose source the spec does not fix (log 4). -/
opaque Config.fresh : Nat → Nat
/-- How a value that the spec holds to 64 bits (R153, R154), and an offset it holds as a 24-bit fraction (R155), drops what
does not fit: 0 mod 3 cut, 1 to nearest even, 2 up (log 5). -/
opaque Config.hold64 : Nat
opaque Config.hold24 : Nat
/-- Coefficients C0, C1, C2, Y0 of each segment of Harord's built-in EXP2 and RECIP tables, which the fixed exponential and
reciprocal of R163 hold and the spec does not print (log 6). -/
opaque Config.expCoef : Nat → Nat → Word
opaque Config.recipCoef : Nat → Nat → Word
/-- The scale a history group takes when software has left a negative base value in its record (R174 gives no
case; log 8). -/
opaque Config.negRange : Nat → Nat
/-- LC when a loop's end lowers it from 0, which a body can bring about by a write of LC, at the core's cycle (log 11). -/
opaque Config.lcBelow : Nat → Nat
/-- The prefix-hash key of lodging l under binding nonce bn (R514): a secret of the part (log 10). -/
opaque Config.prefixKey : Nat → Nat → Nat

/-- Shift value of an entry of a 3GPP base graph (TS 38.212 Tables 5.3.2-2 and 5.3.2-3): base graph, row, column, set
index of the lifting size; none where the graph has no entry. The spec cites the tables and prints none (log 13). -/
opaque Config.baseGraph : Nat → Nat → Nat → Nat → Option Nat
/-- Seed of the Gold sequence of an RE-mode map's pilots from DMRS_ID and NSCID (R273 gives no formula; log 17). -/
opaque Config.pilotSeed : Nat → Nat → Nat
/-- What a stage program of the Quoxel image makes (R278, R280): the tensor, the tensors and values it is made from, the element
(log 18). -/
opaque Config.stage : Nat → List Nat → Nat → Nat
/-- Bits per RE that rate matching uses for a block whose REs carry several constellations (RE mode; log 15). -/
opaque Config.mixedQm : List Nat → Nat
/-- Byte offset in the wing stores at which the Quoxel image places a tensor of a carrier's air buffer: carrier, tensor,
block (R280; log 16). -/
opaque Config.airPlace : Nat → Nat → Nat → Nat

/-- The fixed integer IDCT of the sample decoders (R374): 64 dequantised coefficients in zigzag order to 64 samples. The
spec prints no algorithm (log 27). -/
opaque Config.idct : List Int → List Int
/-- Byte offset of a sample in a stream's reference frame (R380): width, height, component, column, row of the component's
plane. The spec gives the size and no layout (log 25). -/
opaque Config.refPlace : List Nat → Nat

/-- SHA-384 (R515, R528, R531 to R535, FIPS 180-4): the spec names the function (log 36). -/
opaque Config.sha384 : List Byte → BitVec 384
/-- An ECDSA P-384 signature r ‖ s by the identity key: the message, a fresh value (R531; log 36). -/
opaque Config.ecdsa : List Byte → Nat → BitVec 768
/-- The identity public key, uncompressed: 97 bytes fused at manufacture (R512; log 36). -/
opaque Config.identityKey : BitVec 776
/-- Device identity certificate and link key certificate (R512): the harness of their issue is outside the spec (log 36). -/
opaque Config.deviceCert : List Byte
opaque Config.linkCert : List Byte
/-- The bytes are a point of P-384 (R528; log 36). -/
opaque Config.onCurve : List Byte → Bool
/-- A signature over a message verifies under an authority of R537: 0 Harord manufacturing key, 1 owner key, 2 operator debug
key, 3 Harord debug key, 4 Harord RMA key (log 36). -/
opaque Config.verify : Nat → List Byte → List Byte → Bool
/-- The lifecycle state a transition token asks for, and whether its signatures verify from the present state (R538; the
spec gives the token no layout; log 36). -/
opaque Config.tokenTo : List Byte → Nat
opaque Config.tokenOk : Nat → List Byte → Bool

/-- Opening a bounce record of R529 with what a session's keys and salts are drawn from: its 4,096 bytes to its 4,048 bytes
of data, none when the tag fails; sealing 32 header bytes and 4,048 data bytes to ciphertext and tag (log 36). -/
opaque Config.bounceOpen : Nat → List Byte → Option (List Byte)
opaque Config.bounceSeal : Nat → List Byte → List Byte → List Byte

/-- The fused voltage table VTAB of R564: millivolts at point 0 to 7 (log 42). -/
opaque Config.vtab : Nat → Nat
/-- What interpolation gives outside VTAB's temperatures, which R564 does not say: millivolts at a temperature in 0.125 °C (log 42). -/
opaque Config.vtabOut : Int → Nat
/-- Whether sensor A of a site is the one further from the mean of the neighbouring sites (R567), from all 32 readings: the
spec does not say which sites are neighbours (log 43). -/
opaque Config.farA : Nat → List Int → Bool

end Sys2Proof
end

