-- ==== Sys2Proof/Machine/Num.lean ====
section
/-! DEFINITION. Number formats and exact arithmetic (spec/01_lane_arithmetic.md): decoding of the format codes of
R25, conversion under R45 and R46, sums and products rounded once, the group value of R37. -/
namespace Sys2Proof

/-! The arithmetic events of R50, as a mask in the bit positions of TC.AFLAG. -/

def Ev.none : Nat := 0
def Ev.accSat : Nat := 1
def Ev.fpOvf : Nat := 2
def Ev.nanGen : Nat := 4
def Ev.nanCvt : Nat := 8
def Ev.cvtSat : Nat := 16
def Ev.flush : Nat := 32
def Ev.residue : Nat := 64
/-- Beside the events of R50: a row came out EMPTY (R132). -/
def Ev.emptyRow : Nat := 128

/-- A binary float format: exponent and fraction field widths, bias, and how its top exponent field reads. -/
structure FFmt where
  ebits : Nat
  mbits : Nat
  bias : Nat
  /-- 0: IEEE infinities and NaNs; 1: E4M3 (only all ones is NaN); 2: E2M1 (every code a number). -/
  special : Nat
deriving DecidableEq, Repr

/-- FP32 (R28). -/
def fp32 : FFmt := ⟨8, 23, 127, 0⟩
/-- FP16 (R28). -/
def fp16 : FFmt := ⟨5, 10, 15, 0⟩
/-- BF16 (R28). -/
def bf16 : FFmt := ⟨8, 7, 127, 0⟩
/-- FP8 E5M2 (R28). -/
def e5m2 : FFmt := ⟨5, 2, 15, 0⟩
/-- FP8 E4M3 (R28). -/
def e4m3 : FFmt := ⟨4, 3, 7, 1⟩
/-- FP4 E2M1 (R29). -/
def e2m1 : FFmt := ⟨2, 1, 1, 2⟩

/-- The float format of a code of R25, for the real float codes. -/
def floatFmt (f : Nat) : Option FFmt :=
  match f with
  | 4 => some e4m3
  | 5 => some e5m2
  | 6 => some bf16
  | 7 => some fp16
  | 8 => some fp32
  | 13 => some e2m1
  | _ => none

/-- Width in bits of one element (R25); 0 for a reserved code. A complex element counts whole. -/
def fmtBits (f : Nat) : Nat :=
  match f with
  | 0 => 4 | 1 => 8 | 2 => 8 | 3 => 16 | 4 => 8 | 5 => 8 | 6 => 16 | 7 => 16 | 8 => 32 | 9 => 32
  | 10 => 16 | 11 => 32 | 12 => 32 | 13 => 4
  | _ => 0

/-- Integer formats of R25. -/
def isInt (f : Nat) : Bool := f == 0 || f == 1 || f == 2 || f == 3 || f == 9
/-- Complex formats of R31. -/
def isCplx (f : Nat) : Bool := f == 10 || f == 11 || f == 12
/-- Real float formats. -/
def isFloat (f : Nat) : Bool := (floatFmt f).isSome
/-- Formats marked "Engine" in R25. -/
def isEngine (f : Nat) : Bool :=
  f == 0 || f == 1 || f == 2 || f == 4 || f == 5 || f == 6 || f == 7 || f == 10 || f == 11 || f == 13
/-- Reserved format codes (R26). -/
def isReservedFmt (f : Nat) : Bool := f == 14 || decide (15 ≤ f)
/-- INT4 and FP4, the formats packed two per byte. -/
def isNibble (f : Nat) : Bool := f == 0 || f == 13
/-- Formats whose subnormals are flushed at input ports and on conversion (R44). -/
def isFlushed (f : Nat) : Bool := f == 4 || f == 5 || f == 6
/-- Part format of a complex format (R31). -/
def partFmt (f : Nat) : Nat :=
  match f with
  | 10 => 1 | 11 => 3 | 12 => 7 | n => n

/-- The two's-complement value of the low n bits. -/
def sext (n : Nat) (x : Nat) : Int :=
  let y := x % 2 ^ n
  if y < 2 ^ (n - 1) then (y : Int) else (y : Int) - (2 : Int) ^ n

/-- The low n bits of an integer's two's complement. -/
def wrapN (n : Nat) (v : Int) : Nat := (v % (2 : Int) ^ n).toNat

/-- An integer as an exact value. -/
def FV.ofInt (v : Int) : FV := .fin (decide (v < 0)) v.natAbs 0

/-- Positive zero. -/
def FV.zero : FV := .fin false 0 0

/-- The exact value of a float pattern (R28, R29). -/
def decFloat (F : FFmt) (x : Nat) : FV :=
  let man := x % 2 ^ F.mbits
  let ex := (x / 2 ^ F.mbits) % 2 ^ F.ebits
  let sg := decide ((x / 2 ^ (F.mbits + F.ebits)) % 2 = 1)
  let top := 2 ^ F.ebits - 1
  if F.special = 0 ∧ ex = top then (if man = 0 then .inf sg else .nan)
  else if F.special = 1 ∧ ex = top ∧ man = 2 ^ F.mbits - 1 then .nan
  else if ex = 0 then .fin sg man (1 - (F.bias : Int) - F.mbits)
  else .fin sg (2 ^ F.mbits + man) ((ex : Int) - F.bias - F.mbits)

/-- The exact value of an integer pattern of a code of R25 (R27). -/
def decInt (f x : Nat) : Int :=
  match f with
  | 0 => sext 4 x | 1 => sext 8 x | 2 => ((x % 256 : Nat) : Int) | 3 => sext 16 x | 9 => sext 32 x
  | _ => 0

/-- The exact value of a real element, with no flush (R27 to R29). -/
def decRaw (f x : Nat) : FV :=
  match floatFmt f with
  | some F => decFloat F x
  | none => FV.ofInt (decInt f x)

/-- Whether a pattern is a subnormal of a flushed format (R44). -/
def isSubnormal (f x : Nat) : Bool :=
  match floatFmt f with
  | some F => isFlushed f && decide ((x / 2 ^ F.mbits) % 2 ^ F.ebits = 0) && !decide (x % 2 ^ F.mbits = 0)
  | none => false

/-- The value an engine input port takes (R44), with its event. -/
def decIn (f x : Nat) : FV × Nat :=
  if isSubnormal f x then
    (match floatFmt f with
     | some F => .fin (decide ((x / 2 ^ (F.mbits + F.ebits)) % 2 = 1)) 0 0
     | none => .zero, Ev.flush)
  else (decRaw f x, Ev.none)

/-- Division by 2^k rounded to nearest, ties to even. -/
def rneShift (m k : Nat) : Nat :=
  let q := m / 2 ^ k
  let r := m % 2 ^ k
  let h := 2 ^ k
  if 2 * r < h then q else if h < 2 * r then q + 1 else if q % 2 = 0 then q else q + 1

/-- m · 2^e as a multiple of 2^q, rounded to nearest even. -/
def rneAt (m : Nat) (e q : Int) : Nat :=
  if q ≤ e then m * 2 ^ (e - q).toNat else rneShift m (q - e).toNat

/-- Pattern of n · 2^q, n below 2^(mbits+1), at an exponent the format holds. -/
def packFloat (F : FFmt) (sg : Bool) (n : Nat) (q : Int) : Nat :=
  let s := if sg then 2 ^ (F.mbits + F.ebits) else 0
  if n = 0 then s
  else if n < 2 ^ F.mbits then s + n
  else
    let (n', q') := if n < 2 ^ (F.mbits + 1) then (n, q) else (n / 2, q + 1)
    s + (q' + F.mbits + F.bias).toNat * 2 ^ F.mbits + (n' - 2 ^ F.mbits)

/-- The canonical NaN of a float format (R28). -/
def canonNaN (F : FFmt) : Nat :=
  if F.special = 1 then 2 ^ (F.ebits + F.mbits) - 1
  else (2 ^ F.ebits - 1) * 2 ^ F.mbits + 2 ^ (F.mbits - 1)

/-- The infinity pattern, or the largest finite of a format without one. -/
def overflowPat (F : FFmt) (sg : Bool) : Nat :=
  (if sg then 2 ^ (F.mbits + F.ebits) else 0) +
    (if F.special = 0 then (2 ^ F.ebits - 1) * 2 ^ F.mbits
     else if F.special = 1 then 2 ^ (F.ebits + F.mbits) - 2
     else 2 ^ (F.ebits + F.mbits) - 1)

/-- Exponent of the largest finite magnitude's leading bit. -/
def topExp (F : FFmt) : Int :=
  if F.special = 0 then (2 ^ F.ebits : Int) - 2 - F.bias else (2 ^ F.ebits : Int) - 1 - F.bias

/-- Conversion into a float format, round to nearest even (R45), with its events. `fl` says whether tiny results
flush to zero (BF16, FP8) or become subnormal (FP32, FP16, E2M1). -/
def toFloat (F : FFmt) (fl : Bool) (v : FV) : Nat × Nat :=
  let ovf := if F.special = 0 then Ev.fpOvf else Ev.cvtSat
  match v with
  | .nan => (canonNaN F, Ev.none)
  | .inf sg => (overflowPat F sg, if F.special = 0 then Ev.none else Ev.cvtSat)
  | .fin sg m e =>
    if m = 0 then (packFloat F sg 0 0, Ev.none)
    else
      let lead : Int := e + (Nat.log2 m : Int)
      let emin : Int := 1 - (F.bias : Int)
      let q := if fl then lead - F.mbits else max (lead - F.mbits) (emin - F.mbits)
      let n := rneAt m e q
      let lead' : Int := if n = 0 then emin - F.mbits - 1 else q + (Nat.log2 n : Int)
      if fl ∧ lead' < emin then (packFloat F sg 0 0, Ev.flush)
      else if topExp F < lead' then (overflowPat F sg, ovf)
      else if F.special = 1 ∧ lead' = topExp F ∧ 2 ^ F.mbits - 1 ≤ (n / 2 ^ (Nat.log2 n - F.mbits)) - 2 ^ F.mbits then
        (overflowPat F sg, ovf)
      else (packFloat F sg n q, Ev.none)

/-- The nearest integer, ties to even. -/
def rneInt (sg : Bool) (m : Nat) (e : Int) : Int :=
  let n : Int := (rneAt m e 0 : Nat)
  if sg then -n else n

/-- Range of an integer format (R27). -/
def intRange (f : Nat) : Int × Int :=
  match f with
  | 0 => (-8, 7) | 1 => (-128, 127) | 2 => (0, 255) | 3 => (-32768, 32767)
  | _ => (-2147483648, 2147483647)

/-- Clamp into a closed range, saying whether it clamped. -/
def clampTo (lo hi v : Int) : Int × Bool :=
  if v < lo then (lo, true) else if hi < v then (hi, true) else (v, false)

/-- Conversion into an integer format (R46), with its events. -/
def toIntFmt (f : Nat) (v : FV) : Nat × Nat :=
  let (lo, hi) := intRange f
  match v with
  | .nan => (0, Ev.nanCvt)
  | .inf sg => (wrapN (fmtBits f) (if sg then lo else hi), Ev.cvtSat)
  | .fin sg m e =>
    let (c, sat) := clampTo lo hi (rneInt sg m e)
    (wrapN (fmtBits f) c, if sat then Ev.cvtSat else Ev.none)

/-- Conversion of an exact value into a real format (R45, R46). -/
def convTo (f : Nat) (v : FV) : Nat × Nat :=
  match floatFmt f with
  | some F => toFloat F (isFlushed f) v
  | none => toIntFmt f v

/-- Exact negation. -/
def FV.neg : FV → FV
  | .nan => .nan
  | .inf s => .inf (!s)
  | .fin s m e => .fin (!s) m e

/-- Signed mantissa at a given smaller exponent. -/
def FV.at : FV → Int → Int
  | .fin s m e, q =>
    let n : Int := ((m * 2 ^ (e - q).toNat : Nat) : Int)
    if s then -n else n
  | _, _ => 0

/-- Exponent of a finite value, 0 otherwise. -/
def FV.exp : FV → Int
  | .fin _ _ e => e
  | _ => 0

/-- Exact sum, with NAN_GEN for opposite infinities (R40) and the signed zeros of R41. -/
def FV.add : FV → FV → FV × Nat
  | .nan, _ => (.nan, Ev.none)
  | _, .nan => (.nan, Ev.none)
  | .inf a, .inf b => if a = b then (.inf a, Ev.none) else (.nan, Ev.nanGen)
  | .inf a, _ => (.inf a, Ev.none)
  | _, .inf b => (.inf b, Ev.none)
  | .fin sa ma ea, .fin sb mb eb =>
    let q := min ea eb
    let t := (FV.fin sa ma ea).at q + (FV.fin sb mb eb).at q
    if t = 0 then (.fin (sa && sb && decide (ma = 0) && decide (mb = 0)) 0 0, Ev.none)
    else (.fin (decide (t < 0)) t.natAbs q, Ev.none)

/-- Exact product, with NAN_GEN for infinity times zero (R37, R139). -/
def FV.mul : FV → FV → FV × Nat
  | .nan, _ => (.nan, Ev.none)
  | _, .nan => (.nan, Ev.none)
  | .inf a, .inf b => (.inf (a != b), Ev.none)
  | .inf a, .fin b m _ => if m = 0 then (.nan, Ev.nanGen) else (.inf (a != b), Ev.none)
  | .fin b m _, .inf a => if m = 0 then (.nan, Ev.nanGen) else (.inf (a != b), Ev.none)
  | .fin sa ma ea, .fin sb mb eb => (.fin (sa != sb) (ma * mb) (ea + eb), Ev.none)

/-- A value times 2^k. -/
def FV.scale2 : FV → Int → FV
  | .fin s m e, k => .fin s m (e + k)
  | v, _ => v

/-- a < b on exact values; false when either is NaN. -/
def FV.lt : FV → FV → Bool
  | .nan, _ => false
  | _, .nan => false
  | .inf a, .inf b => a && !b
  | .inf a, _ => a
  | _, .inf b => !b
  | .fin sa ma ea, .fin sb mb eb =>
    let q := min ea eb
    decide ((FV.fin sa ma ea).at q < (FV.fin sb mb eb).at q)

/-- NaN test. -/
def FV.isNaN : FV → Bool
  | .nan => true
  | _ => false

/-- Equality of values: +0 equals −0, NaN equals nothing. -/
def FV.eqv (a b : FV) : Bool := !a.isNaN && !b.isNaN && !a.lt b && !b.lt a

/-- Zero test, either sign. -/
def FV.isZero : FV → Bool
  | .fin _ 0 _ => true
  | _ => false

/-- Sign bit. -/
def FV.isNeg : FV → Bool
  | .fin s _ _ => s
  | .inf s => s
  | .nan => false

/-- An FP32 pattern's exact value. -/
def f32 (w : Nat) : FV := decFloat fp32 w

/-- One rounding to FP32 (R37, R40, R139). -/
def round32 (v : FV) : Nat × Nat := toFloat fp32 false v

/-- The FP32 addition of R40 and R150 on patterns. -/
def add32 (a b : Nat) : Nat × Nat :=
  let (v, ev) := FV.add (f32 a) (f32 b)
  let (r, ev') := round32 v
  (r, ev ||| ev')

/-- floor(log2 |p|) of a nonzero finite value. -/
def FV.lead : FV → Int
  | .fin _ m e => e + (Nat.log2 m : Int)
  | _ => 0

/-- A product truncated toward zero to a multiple of 2^q (R37), as a count of 2^q. -/
def truncAt (q : Int) : FV → Int
  | .fin s m e =>
    let n : Nat := if q ≤ e then m * 2 ^ (e - q).toNat else m / 2 ^ (q - e).toNat
    if s then -(n : Int) else (n : Int)
  | _ => 0

/-- The largest leading exponent over the nonzero products. -/
def maxLead : List FV → Option Int
  | [] => none
  | p :: ps =>
    match maxLead ps, p.isZero with
    | r, true => r
    | none, false => some p.lead
    | some x, false => some (max x p.lead)

/-- The group value of R37 from the exact products, with `nanIn` when any operand or scale is NaN and `bad` when
some product is infinity times zero. Returns the FP32 pattern and its events. The tree of R38 drops nothing, so its
value is the exact sum of the truncated products. -/
def groupValue (nanIn bad : Bool) (ps : List FV) : Nat × Nat :=
  let anyInf (s : Bool) := ps.any fun p => decide (p = .inf s)
  if nanIn then (canonNaN fp32, Ev.none)
  else if bad || (anyInf false && anyInf true) then (canonNaN fp32, Ev.nanGen)
  else if anyInf false then (overflowPat fp32 false, Ev.none)
  else if anyInf true then (overflowPat fp32 true, Ev.none)
  else
    match maxLead ps with
    | none => (if ps.all FV.isNeg then 2 ^ 31 else 0, Ev.none)
    | some emax =>
      let q := emax - 63
      let t := ps.foldl (fun acc p => acc + truncAt q p) 0
      if t = 0 then (0, Ev.none) else round32 (.fin (decide (t < 0)) t.natAbs q)

/-- The fixed binary tree of R150 over FP32 patterns: adjacent pairs are added, an unpaired last one passes up. -/
def treeLevel : List Nat → List Nat × Nat
  | [] => ([], 0)
  | [a] => ([a], 0)
  | a :: b :: t =>
    let (s, ev) := add32 a b
    let (r, ev') := treeLevel t
    (s :: r, ev ||| ev')

/-- Levels of the tree until one value remains; `fuel` bounds the levels. -/
def treeSum : Nat → List Nat → Nat × Nat
  | _, [] => (0, 0)
  | _, [a] => (a, 0)
  | 0, a :: _ => (a, 0)
  | fuel + 1, xs =>
    let (ys, ev) := treeLevel xs
    let (r, ev') := treeSum fuel ys
    (r, ev ||| ev')

end Sys2Proof
end

