-- ==== Sys2Proof/Machine/Phy.lean ====
section
/-! DEFINITION. Channel coding as the spec takes it from 3GPP TS 38.211 and TS 38.212: cyclic checks (R320),
segmentation, rate matching and scrambling (R300 to R303), the layered min-sum decoder (R304 to R306). -/
namespace Sys2Proof.Machine
open Sys2Proof

/-! ### Cyclic checks (R320) -/

/-- Width and polynomial, top bit omitted, of a POLY code. -/
def crcPoly (p : Nat) : Nat × Nat :=
  match p with
  | 0 => (24, 0x864CFB)
  | 1 => (24, 0x800063)
  | 2 => (24, 0xB2B117)
  | 3 => (16, 0x1021)
  | 4 => (11, 0x621)
  | _ => (6, 0x21)

/-- One bit through a CRC register. -/
def crcStep (w poly reg : Nat) (b : Bool) : Nat :=
  let top := reg.testBit (w - 1) != b
  let r := reg * 2 % 2 ^ w
  if top then r ^^^ poly else r

/-- Remainder of a bit sequence. -/
def crcBits (p : Nat) (bits : List Bool) : Nat :=
  let (w, poly) := crcPoly p
  bits.foldl (fun r b => crcStep w poly r b) 0

/-- The low n bits of a number, most significant first. -/
def bitsOf (n v : Nat) : List Bool := (List.range n).map fun i => v.testBit (n - 1 - i)

/-! ### Scrambling -/

/-- One step of the Gold sequence's registers (TS 38.211 clause 5.2.1): 31 bits each, bit 0 the oldest. -/
def goldStep (x : Nat × Nat) : Nat × Nat :=
  let f1 := x.1.testBit 3 != x.1.testBit 0
  let f2 := (x.2.testBit 3 != x.2.testBit 2) != (x.2.testBit 1 != x.2.testBit 0)
  (x.1 / 2 + (if f1 then 2 ^ 30 else 0), x.2 / 2 + (if f2 then 2 ^ 30 else 0))

/-- Run the registers n steps. -/
def goldRun : Nat → Nat × Nat → Nat × Nat
  | 0, x => x
  | n + 1, x => goldRun n (goldStep x)

/-- n bits from a state of the registers. -/
def goldOut : Nat → Nat × Nat → List Bool
  | 0, _ => []
  | n + 1, x => (x.1.testBit 0 != x.2.testBit 0) :: goldOut n (goldStep x)

/-- The first n bits of the sequence of a c_init. -/
def gold (cinit n : Nat) : List Bool := goldOut n (goldRun 1600 (1, cinit % 2 ^ 31))

/-! ### Segmentation (TS 38.212 clause 5.2.2) -/

/-- Lifting sizes by set index (TS 38.212 Table 5.3.2-1). -/
def liftSets : List (List Nat) :=
  [[2, 4, 8, 16, 32, 64, 128, 256], [3, 6, 12, 24, 48, 96, 192, 384], [5, 10, 20, 40, 80, 160, 320],
   [7, 14, 28, 56, 112, 224], [9, 18, 36, 72, 144, 288], [11, 22, 44, 88, 176, 352], [13, 26, 52, 104, 208],
   [15, 30, 60, 120, 240]]

/-- Set index of a lifting size. -/
def liftSet (z : Nat) : Nat := ((List.range 8).find? fun i => (liftSets[i]?.getD []).contains z).getD 0

/-- The smallest lifting size of at least a bound; 384 when there is none. -/
def liftFor (need : Nat) : Nat :=
  (liftSets.flatten.filter fun z => decide (need ≤ z)).foldl (fun a b => min a b) 384

/-- How a transport block is coded. -/
structure Coding where
  bg : Nat
  tbs : Nat
  /-- transport-block CRC: POLY and bits -/
  tcrc : Nat × Nat
  /-- code blocks, bits of each with CRC and without filler, columns, lifting size -/
  c : Nat
  kq : Nat
  z : Nat
deriving DecidableEq, Repr

/-- Systematic columns (R304). -/
def cs (bg : Nat) : Nat := if bg = 1 then 22 else 10
/-- Rows and columns of a base graph (R300). -/
def bgRows (bg : Nat) : Nat := if bg = 1 then 46 else 42
def bgCols (bg : Nat) : Nat := if bg = 1 then 68 else 52

/-- Segmentation of a block (R300). -/
def Coding.of (bg tbs : Nat) : Coding :=
  let tcrc := if 3824 < tbs then (0, 24) else (3, 16)
  let b := tbs + tcrc.2
  let kcb := if bg = 1 then 8448 else 3840
  let c := if b ≤ kcb then 1 else (b + (kcb - 24) - 1) / (kcb - 24)
  let bq := if c = 1 then b else b + 24 * c
  let kq := (bq + c - 1) / c
  let kb := if bg = 1 then 22 else if 640 < b then 10 else if 560 < b then 9 else if 192 < b then 8 else 6
  ⟨bg, tbs, tcrc, c, kq, liftFor ((kq + kb - 1) / kb)⟩

/-- Bits of a code block with filler, and of the circular buffer (R302). -/
def Coding.k (x : Coding) : Nat := cs x.bg * x.z
def Coding.n (x : Coding) : Nat := (if x.bg = 1 then 66 else 50) * x.z
/-- N_cb (R302). -/
def Coding.ncb (x : Coding) (limited : Bool) (lbrm : Nat) : Nat :=
  if limited then min x.n (lbrm * 3 / (2 * x.c)) else x.n
/-- k0 by redundancy version (TS 38.212 Table 5.4.2.1-2). -/
def Coding.k0 (x : Coding) (ncb rv : Nat) : Nat :=
  let a := if x.bg = 1 then (match rv with
    | 0 => 0 | 1 => 17 | 2 => 33 | _ => 56) else (match rv with
    | 0 => 0 | 1 => 13 | 2 => 25 | _ => 43)
  a * ncb / x.n * x.z

/-- Coded bits of code block r (TS 38.212 clause 5.4.2.1). -/
def Coding.e (x : Coding) (g nl qm r : Nat) : Nat :=
  let u := nl * qm
  let q := g / u
  if r + q % x.c < x.c then u * (q / x.c) else u * ((q + x.c - 1) / x.c)

/-- First coded bit of code block r. -/
def Coding.e0 (x : Coding) (g nl qm r : Nat) : Nat := (List.range r).foldl (fun a i => a + x.e g nl qm i) 0

/-- Positions of the circular buffer that hold filler: bit index in the code block less the 2Z punctured ones. -/
def Coding.filler (x : Coding) (p : Nat) : Bool := decide (x.kq ≤ p + 2 * x.z) && decide (p + 2 * x.z < x.k)

/-- Buffer positions in output order, from k0, filler skipped; `fuel` bounds the walk. -/
def Coding.walk (x : Coding) (ncb : Nat) : Nat → Nat → Nat → List Nat
  | 0, _, _ => []
  | fuel + 1, p, e =>
    if e = 0 then []
    else if x.filler p then Coding.walk x ncb fuel ((p + 1) % ncb) e
    else p :: Coding.walk x ncb fuel ((p + 1) % ncb) (e - 1)

/-- Buffer positions of a code block's selected bits. -/
def Coding.positions (x : Coding) (ncb rv e : Nat) : List Nat := x.walk ncb (e + e * x.k + ncb) (x.k0 ncb rv % ncb) e

/-- Index, before interleaving, of output bit i of a block of e bits (TS 38.212 clause 5.4.2.2). -/
def deint (e qm i : Nat) : Nat := (i % qm) * (e / qm) + i / qm

/-! ### Rate recovery (R303) -/

/-- Clamp to −127 to 127. -/
def clamp127 (v : Int) : Int := max (-127) (min 127 v)

/-- Add a value at a position of a list. -/
def addAt (p : Nat) (v : Int) : List Int → List Int
  | [] => []
  | x :: t => if p = 0 then clamp127 (x + v) :: t else x :: addAt (p - 1) v t

/-- The circular buffer of a code block from its descrambled LLRs, in output order. -/
def Coding.recover (x : Coding) (ncb rv qm : Nat) (llr : List Int) : List Int :=
  let e := llr.length
  let sel := (List.range e).map fun j => (llr[(j % (e / qm)) * qm + j / (e / qm)]?).getD 0
  let buf := ((x.positions ncb rv e).zip sel).foldl (fun b (p, v) => addAt p v b) (List.replicate ncb 0)
  buf.zipIdx.map fun (v, p) => if x.filler p then 127 else v

/-! ### Layered min-sum (R304 to R306) -/

/-- The decoder's inputs by lifted column: 2Z punctured bits, then the buffer, then 0; every filler bit, also one that a limited
buffer does not reach, holds +127 (R303). -/
def Coding.inputs (x : Coding) (buf : List Int) : List Int :=
  let l := List.replicate (2 * x.z) 0 ++ buf
  (l ++ List.replicate (bgCols x.bg * x.z - l.length) 0).zipIdx.map fun (v, j) =>
    if decide (x.kq ≤ j) && decide (j < x.k) then 127 else v

/-- Active layers m (R304). -/
def Coding.layers (x : Coding) (ins : List Int) : Nat :=
  let hi := (ins.zipIdx.filter fun y => y.1 != 0).foldl (fun a y => max a (y.2 / x.z)) 0
  max 4 (hi + 1 - cs x.bg)

/-- Edges of lifted row t of base-graph row r, in ascending column order: column and lifted variable node. -/
def Coding.edges (x : Coding) (r t : Nat) : List (Nat × Nat) :=
  (List.range (bgCols x.bg)).filterMap fun c =>
    (Config.baseGraph x.bg r c (liftSet x.z)).map fun v => (c, c * x.z + (t + v % x.z) % x.z)

/-- Set a value at a position of a list. -/
def putAt (p : Nat) (v : Int) : List Int → List Int
  | [] => []
  | x :: t => if p = 0 then v :: t else x :: putAt (p - 1) v t

/-- Decoder state: posteriors by lifted node, messages by (row, column, lifted row). -/
structure Dec where
  l : List Int
  r : List ((Nat × Nat × Nat) × Int)

/-- A message. -/
def Dec.msg (d : Dec) (k : Nat × Nat × Nat) : Int := ((d.r.find? fun x => x.1 == k).map fun x => x.2).getD 0

/-- The magnitude a row sends on an edge (R305). -/
def rowMag (m a w b : Nat) : Int := max 0 ((((m * a * w + 16384) / 32768 : Nat) : Int) - b)

/-- Update one lifted row (R305). -/
def Coding.row (x : Coding) (r t a b w : Nat) (d : Dec) : Dec :=
  let es := x.edges r t
  let q := es.map fun (c, j) => (c, j, max (-511) (min 511 ((d.l[j]?).getD 0 - d.msg (r, c, t))))
  let mags := q.map fun (_, _, v) => min v.natAbs 127
  let min1 := mags.foldl min 127
  let idx := (mags.zipIdx.find? fun y => y.1 == min1).map fun y => y.2
  let min2 := ((mags.zipIdx.filter fun y => some y.2 != idx).map fun y => y.1).foldl min 127
  let sgn : Int := if (q.filter fun (_, _, v) => decide (v < 0)).length % 2 = 0 then 1 else -1
  q.zipIdx.foldl (fun d ((c, j, v), i) =>
    let m := if some i = idx then min2 else min1
    let msg := sgn * (if v < 0 then -1 else 1) * min (rowMag m a w b) 127
    { l := putAt j (max (-511) (min 511 (v + msg))) d.l
      r := ((r, c, t), msg) :: d.r.filter fun y => y.1 != (r, c, t) }) d

/-- Fields of a table (R308). -/
def tblByte (tbl o : Nat) : Nat := tbl / 256 ^ o % 256

/-- One iteration: the layers in ascending order. -/
def Coding.iter (x : Coding) (tbl m i : Nat) (d : Dec) : Dec :=
  (List.range m).foldl (fun d r => (List.range x.z).foldl (fun d t =>
    x.row r t (tblByte tbl (0x40 + 2 * (i - 1))) (tblByte tbl (0x41 + 2 * (i - 1))) (tblByte tbl (0x80 + r)) d) d) d

/-- The syndrome over the active layers is zero (R306). -/
def Coding.clean (x : Coding) (m : Nat) (d : Dec) : Bool :=
  (List.range m).all fun r => (List.range x.z).all fun t =>
    ((x.edges r t).filter fun (_, j) => decide ((d.l[j]?).getD 0 < 0)).length % 2 == 0

/-- Iterate until the syndrome is zero or I_max (R306): the posteriors, the iterations run, whether it ended clean. -/
def Coding.run (x : Coding) (tbl m : Nat) : Nat → Nat → Dec → Dec × Nat × Bool
  | 0, i, d => (d, i - 1, false)
  | fuel + 1, i, d =>
    let d := x.iter tbl m i d
    if x.clean m d then (d, i, true) else Coding.run x tbl m fuel (i + 1) d

/-- Decode a code block from its combined LLRs: its bits without filler, iterations, syndrome zero (R306). -/
def Coding.decode (x : Coding) (tbl imax : Nat) (buf : List Int) : List Bool × Nat × Bool :=
  let ins := x.inputs buf
  let (d, i, ok) := x.run tbl (x.layers ins) imax 1 ⟨ins, []⟩
  ((d.l.take x.kq).map fun v => decide (v < 0), i, ok)

/-! ### Encoding (R318) -/

/-- Bits as a number, bit i the i-th. -/
def packBits : List Bool → Nat
  | [] => 0
  | b :: t => (if b then 1 else 0) + 2 * packBits t

/-- Parity of the bits of a codeword, as far as it is made, that lifted row t of row r checks. -/
def Coding.rowSum (x : Coding) (w : List Bool) (r t : Nat) : Bool :=
  ((x.edges r t).filter fun (_, j) => (w[j]?).getD false).length % 2 == 1

/-- Shift of an entry of the base graph, within Z; 0 where the graph has none. -/
def Coding.shift (x : Coding) (r c : Nat) : Nat := ((Config.baseGraph x.bg r c (liftSet x.z)).getD 0) % x.z

/-- Shift of the first parity column in the sum of the first four rows, in which the other three parity columns cancel: the one
that occurs there an odd number of times (TS 38.212 clause 5.3.2). -/
def Coding.coreShift (x : Coding) : Nat :=
  let vs := (List.range 4).filterMap fun r => (Config.baseGraph x.bg r (cs x.bg) (liftSet x.z)).map (· % x.z)
  (vs.find? fun v => vs.count v % 2 == 1).getD 0

/-- The bits of parity column cs + i, from the codeword as far as it is made: the first from the sum of rows 0 to 3, each later one
from the row that it is the only unknown of. -/
def Coding.parityCol (x : Coding) (w : List Bool) (i : Nat) : List Bool :=
  (List.range x.z).map fun j =>
    if i = 0 then
      let t := (j + x.z - x.coreShift) % x.z
      (List.range 4).foldl (fun b r => b != x.rowSum w r t) false
    else
      let r := if i < 4 then i - 1 else i
      x.rowSum w r ((j + x.z - x.shift r (cs x.bg + i)) % x.z)

/-- The codeword of the systematic bits: every check of the base graph holds of it (R300, TS 38.212 clause 5.3.2). Z columns of
each base-graph column. -/
def Coding.codeword (x : Coding) (sys : List Bool) : List Bool :=
  (List.range (bgRows x.bg)).foldl (fun w i => w ++ x.parityCol w i) sys

/-- Encode, rate-match and scramble a block: the codeword's bits in order. -/
def Coding.encode (x : Coding) (bits : List Bool) (ncb rv g nl qm cinit : Nat) : List Bool :=
  let all := bits ++ bitsOf x.tcrc.2 (crcBits x.tcrc.1 bits)
  let len := if x.c = 1 then x.kq else x.kq - 24
  let cws := (List.range x.c).flatMap fun r =>
    let part := (all.drop (len * r)).take len
    let info := if x.c = 1 then part else part ++ bitsOf 24 (crcBits 1 part)
    let sys := info ++ List.replicate (x.k - info.length) false
    let buf := (x.codeword sys).drop (2 * x.z)
    let e := x.e g nl qm r
    let sel := (x.positions ncb rv e).map fun p => (buf[p]?).getD false
    (List.range e).map fun i => (sel[deint e qm i]?).getD false
  (cws.zip (gold cinit cws.length)).map fun (b, k) => b != k

end Sys2Proof.Machine
end

