-- ==== Sys2Proof/Machine/Regs.lean ====
section
/-! DEFINITION. The register map of the control-register space: where every register of the spec lies, its fields,
their access types (R19) and their reset values (R21). Written from the register tables of spec/ (R50 to R643). -/
namespace Sys2Proof.Machine

/-- A bit field of a register: msb and lsb. -/
structure Fld where
  hi : Nat
  lo : Nat
deriving DecidableEq, Repr

/-- The access types of R19. -/
inductive Acc where
  | rw | ro | wo | w1c | w1s | rwl
deriving DecidableEq, Repr

/-- One field as its register table gives it. Bits in no field are reserved and read 0 (R21). -/
structure FieldDesc where
  hi : Nat
  lo : Nat
  acc : Acc
  reset : Nat
deriving DecidableEq, Repr

/-- One register, or an array of like registers: its first offset in the block, its dimensions (count, stride), its fields. -/
structure RegDesc where
  off : Nat
  dims : List (Nat × Nat)
  fields : List FieldDesc
deriving DecidableEq, Repr

/-! Offsets in the control-register space: block number × 0x1_0000 + the offset in the block (R194). -/

/-- TC.AFLAG (R50). -/
def Reg.TC_AFLAG (c : Nat) : Nat := 0x100080 + 0x10000 * c
/-- TC.ENG_STATE (R77). -/
def Reg.TC_ENG_STATE (c : Nat) : Nat := 0x100090 + 0x10000 * c
/-- TC.ENG_BANK (R78). -/
def Reg.TC_ENG_BANK (c : Nat) (b : Nat) : Nat := 0x100094 + 0x10000 * c + 0x4 * b
/-- TC.SLOT_CTL (R125). -/
def Reg.TC_SLOT_CTL (c : Nat) : Nat := 0x1000a0 + 0x10000 * c
/-- TC.SLOT_STAT (R126). -/
def Reg.TC_SLOT_STAT (c : Nat) (sl : Nat) : Nat := 0x1000a4 + 0x10000 * c + 0x4 * sl
/-- TC.SLOT_SEQ (R127). -/
def Reg.TC_SLOT_SEQ (c : Nat) (sl : Nat) : Nat := 0x1000ac + 0x10000 * c + 0x4 * sl
/-- TC.SLOT_CRING (R128). -/
def Reg.TC_SLOT_CRING (c : Nat) (sl : Nat) : Nat := 0x1000b4 + 0x10000 * c + 0x4 * sl
/-- TC.SLOT_FLAG (R129). -/
def Reg.TC_SLOT_FLAG (c : Nat) : Nat := 0x1000c0 + 0x10000 * c
/-- TC.TBUF_STATE (R166). -/
def Reg.TC_TBUF_STATE (c : Nat) : Nat := 0x100100 + 0x10000 * c
/-- TC.FTQ_HEAD (R167). -/
def Reg.TC_FTQ_HEAD (c : Nat) : Nat := 0x100104 + 0x10000 * c
/-- TC.SFN_STATE (R168). -/
def Reg.TC_SFN_STATE (c : Nat) : Nat := 0x100108 + 0x10000 * c
/-- TC.SFN_DIR (R169). -/
def Reg.TC_SFN_DIR (c : Nat) (k : Nat) : Nat := 0x100110 + 0x10000 * c + 0x4 * k
/-- TC.VFLAG (R170). -/
def Reg.TC_VFLAG (c : Nat) : Nat := 0x100130 + 0x10000 * c
/-- TC.QFLAG (R190). -/
def Reg.TC_QFLAG (c : Nat) : Nat := 0x100140 + 0x10000 * c
/-- TC.QATTACH (R192). -/
def Reg.TC_QATTACH (c : Nat) : Nat := 0x100148 + 0x10000 * c
/-- MEM.CAP (R220). -/
def Reg.MEM_CAP : Nat := 0xe0000
/-- MEM.USABLE (R221). -/
def Reg.MEM_USABLE : Nat := 0xe0004
/-- MEM.BW (R221). -/
def Reg.MEM_BW : Nat := 0xe0008
/-- MEM.HALL_SYS (R221). -/
def Reg.MEM_HALL_SYS : Nat := 0xe000c
/-- MEM.FLAG (R222). -/
def Reg.MEM_FLAG : Nat := 0xe0040
/-- MEM.UE_ADDR_LO (R223). -/
def Reg.MEM_UE_ADDR_LO : Nat := 0xe0048
/-- MEM.UE_ADDR_HI (R223). -/
def Reg.MEM_UE_ADDR_HI : Nat := 0xe004c
/-- MEM.SHARE (R224). -/
def Reg.MEM_SHARE (l : Nat) : Nat := 0xe0100 + 0x20 * l
/-- MEM.DEPTH (R224). -/
def Reg.MEM_DEPTH (l : Nat) : Nat := 0xe0104 + 0x20 * l
/-- MEM.LVL_READ (R224). -/
def Reg.MEM_LVL_READ (l : Nat) : Nat := 0xe0108 + 0x20 * l
/-- MEM.LVL_WRITE (R224). -/
def Reg.MEM_LVL_WRITE (l : Nat) : Nat := 0xe010c + 0x20 * l
/-- MEM.LVL_REMOTE (R224). -/
def Reg.MEM_LVL_REMOTE (l : Nat) : Nat := 0xe0110 + 0x20 * l
/-- MEM.WAIT_US (R224). -/
def Reg.MEM_WAIT_US (l : Nat) : Nat := 0xe0114 + 0x20 * l
/-- AIR.FLAG (R295). -/
def Reg.AIR_FLAG : Nat := 0xb0000
/-- AIR.CAR_CFG0 (R296). -/
def Reg.AIR_CAR_CFG0 (a : Nat) : Nat := 0xb0100 + 0x40 * a
/-- AIR.CAR_CFG1 (R296). -/
def Reg.AIR_CAR_CFG1 (a : Nat) : Nat := 0xb0104 + 0x40 * a
/-- AIR.CAR_CFG2 (R296). -/
def Reg.AIR_CAR_CFG2 (a : Nat) : Nat := 0xb0108 + 0x40 * a
/-- AIR.CAR_CFG3 (R296). -/
def Reg.AIR_CAR_CFG3 (a : Nat) : Nat := 0xb010c + 0x40 * a
/-- AIR.CAR_OFFSET (R296). -/
def Reg.AIR_CAR_OFFSET (a : Nat) : Nat := 0xb0110 + 0x40 * a
/-- AIR.CAR_STAT (R296). -/
def Reg.AIR_CAR_STAT (a : Nat) : Nat := 0xb0114 + 0x40 * a
/-- AIR.CAR_FOFF (R296). -/
def Reg.AIR_CAR_FOFF (a : Nat) : Nat := 0xb0118 + 0x40 * a
/-- AIR.CAR_SROFF (R296). -/
def Reg.AIR_CAR_SROFF (a : Nat) : Nat := 0xb011c + 0x40 * a
/-- AIR.CAR_CTL (R296). -/
def Reg.AIR_CAR_CTL (a : Nat) : Nat := 0xb0120 + 0x40 * a
/-- AIR.CAR_SLOT (R296). -/
def Reg.AIR_CAR_SLOT (a : Nat) : Nat := 0xb0124 + 0x40 * a
/-- FH.MODE (R297). -/
def Reg.FH_MODE : Nat := 0xa0000
/-- FH.EAXC (R298). -/
def Reg.FH_EAXC : Nat := 0xa0004
/-- FH.FLAG (R299). -/
def Reg.FH_FLAG : Nat := 0xa0040
/-- LDPC.ENG_OWNER (R322). -/
def Reg.LDPC_ENG_OWNER : Nat := 0xc0000
/-- LDPC.POOL_MASK (R323). -/
def Reg.LDPC_POOL_MASK : Nat := 0xc0004
/-- LDPC.ENG_STAT (R323). -/
def Reg.LDPC_ENG_STAT : Nat := 0xc0008
/-- LDPC.TBL_SEL (R323). -/
def Reg.LDPC_TBL_SEL : Nat := 0xc000c
/-- LDPC.TBL_SRC_LO (R324). -/
def Reg.LDPC_TBL_SRC_LO : Nat := 0xc0010
/-- LDPC.TBL_SRC_HI (R324). -/
def Reg.LDPC_TBL_SRC_HI : Nat := 0xc0014
/-- LDPC.TBL_CTL (R324). -/
def Reg.LDPC_TBL_CTL : Nat := 0xc0018
/-- LDPC.TBL_STAT (R324). -/
def Reg.LDPC_TBL_STAT : Nat := 0xc001c
/-- LDPC.FLAG (R325). -/
def Reg.LDPC_FLAG : Nat := 0xc0040
/-- LDPC.CAR_CFG (R326). -/
def Reg.LDPC_CAR_CFG (a : Nat) : Nat := 0xc0100 + 0x10 * a
/-- LDPC.CAR_LBRM (R326). -/
def Reg.LDPC_CAR_LBRM (a : Nat) : Nat := 0xc0104 + 0x10 * a
/-- LDPC.HARQ (R326). -/
def Reg.LDPC_HARQ (l : Nat) : Nat := 0xc0200 + 0x10 * l
/-- LDPC.HARQ_SIZE (R326). -/
def Reg.LDPC_HARQ_SIZE (l : Nat) : Nat := 0xc0204 + 0x10 * l
/-- LDPC.CRC_ADDR_LO (R327). -/
def Reg.LDPC_CRC_ADDR_LO (n : Nat) : Nat := 0xc0400 + 0x20 * n
/-- LDPC.CRC_ADDR_HI (R327). -/
def Reg.LDPC_CRC_ADDR_HI (n : Nat) : Nat := 0xc0404 + 0x20 * n
/-- LDPC.CRC_CMD (R327). -/
def Reg.LDPC_CRC_CMD (n : Nat) : Nat := 0xc0408 + 0x20 * n
/-- LDPC.CRC_RES (R327). -/
def Reg.LDPC_CRC_RES (n : Nat) : Nat := 0xc040c + 0x20 * n
/-- LDPC.CRC_STAT (R327). -/
def Reg.LDPC_CRC_STAT (n : Nat) : Nat := 0xc0410 + 0x20 * n
/-- IBC.CTL (R370). -/
def Reg.IBC_CTL (n : Nat) : Nat := 0x300000 + 0x10000 * n
/-- IBC.ENTRY (R370). -/
def Reg.IBC_ENTRY (n : Nat) : Nat := 0x300004 + 0x10000 * n
/-- IBC.VEC (R370). -/
def Reg.IBC_VEC (n : Nat) : Nat := 0x30000c + 0x10000 * n
/-- IBC.STAT (R371). -/
def Reg.IBC_STAT (n : Nat) : Nat := 0x300008 + 0x10000 * n
/-- IBC.IRQ_EN (R372). -/
def Reg.IBC_IRQ_EN (n : Nat) : Nat := 0x300010 + 0x10000 * n
/-- IBC.IRQ_LVL (R372). -/
def Reg.IBC_IRQ_LVL (n : Nat) : Nat := 0x300014 + 0x10000 * n
/-- IBC.IRQ_PEND (R372). -/
def Reg.IBC_IRQ_PEND (n : Nat) : Nat := 0x300018 + 0x10000 * n
/-- IBC.IRQ_SET (R372). -/
def Reg.IBC_IRQ_SET (n : Nat) : Nat := 0x300020 + 0x10000 * n
/-- IBC.IRQ_SOBJ (R372). -/
def Reg.IBC_IRQ_SOBJ (n : Nat) : Nat := 0x300024 + 0x10000 * n
/-- IBC.MBOX (R372). -/
def Reg.IBC_MBOX (n : Nat) : Nat := 0x300028 + 0x10000 * n
/-- IBC.TRAP (R373). -/
def Reg.IBC_TRAP (n : Nat) : Nat := 0x30002c + 0x10000 * n
/-- IBC.FLAG (R373). -/
def Reg.IBC_FLAG (n : Nat) : Nat := 0x300040 + 0x10000 * n
/-- IBC.XQ (R373). -/
def Reg.IBC_XQ (n : Nat) : Nat := 0x300048 + 0x10000 * n
/-- SMP.FLAG (R394). -/
def Reg.SMP_FLAG : Nat := 0xd0000
/-- SMP.DEC_STAT (R395). -/
def Reg.SMP_DEC_STAT : Nat := 0xd0008
/-- SMP.LDG_MAX (R396). -/
def Reg.SMP_LDG_MAX (l : Nat) : Nat := 0xd0100 + 0x20 * l
/-- SMP.BQ_DESC (R396). -/
def Reg.SMP_BQ_DESC (l : Nat) (q : Nat) : Nat := 0xd0104 + 0x20 * l + 0x4 * q
/-- SMP.BQ_CTL (R396). -/
def Reg.SMP_BQ_CTL (l : Nat) : Nat := 0xd0114 + 0x20 * l
/-- SMP.BQ_STAT (R396). -/
def Reg.SMP_BQ_STAT (l : Nat) : Nat := 0xd0118 + 0x20 * l
/-- SMP.ST_BIND (R397). -/
def Reg.SMP_ST_BIND (st : Nat) : Nat := 0xd1000 + 0x20 * st
/-- SMP.ST_DOFF (R397). -/
def Reg.SMP_ST_DOFF (st : Nat) : Nat := 0xd1004 + 0x20 * st
/-- SMP.ST_TAIL (R397). -/
def Reg.SMP_ST_TAIL (st : Nat) : Nat := 0xd1008 + 0x20 * st
/-- SMP.ST_HEAD (R397). -/
def Reg.SMP_ST_HEAD (st : Nat) : Nat := 0xd100c + 0x20 * st
/-- SMP.ST_FRAME (R397). -/
def Reg.SMP_ST_FRAME (st : Nat) : Nat := 0xd1010 + 0x20 * st
/-- LDG.FLAG (R427). -/
def Reg.LDG_FLAG : Nat := 0x0
/-- LDG.SLICE (R427). -/
def Reg.LDG_SLICE : Nat := 0x8
/-- LDG.CFG (R428). -/
def Reg.LDG_CFG (l : Nat) : Nat := 0x100 + 0x40 * l
/-- LDG.CORES (R428). -/
def Reg.LDG_CORES (l : Nat) : Nat := 0x104 + 0x40 * l
/-- LDG.POOLED (R428). -/
def Reg.LDG_POOLED (l : Nat) : Nat := 0x108 + 0x40 * l
/-- LDG.IAMBEL (R428). -/
def Reg.LDG_IAMBEL (l : Nat) : Nat := 0x10c + 0x40 * l
/-- LDG.SYNC_LO (R428). -/
def Reg.LDG_SYNC_LO (l : Nat) : Nat := 0x110 + 0x40 * l
/-- LDG.SYNC_HI (R428). -/
def Reg.LDG_SYNC_HI (l : Nat) : Nat := 0x114 + 0x40 * l
/-- LDG.QUOTA (R428). -/
def Reg.LDG_QUOTA (l : Nat) : Nat := 0x118 + 0x40 * l
/-- LDG.SHARE (R428). -/
def Reg.LDG_SHARE (l : Nat) : Nat := 0x11c + 0x40 * l
/-- LDG.YIELD (R428). -/
def Reg.LDG_YIELD (l : Nat) : Nat := 0x120 + 0x40 * l
/-- LDG.STAT (R428). -/
def Reg.LDG_STAT (l : Nat) : Nat := 0x124 + 0x40 * l
/-- LDG.WB_ID (R428). -/
def Reg.LDG_WB_ID (l : Nat) : Nat := 0x128 + 0x40 * l
/-- LDG.ENG_BUSY (R428). -/
def Reg.LDG_ENG_BUSY (l : Nat) : Nat := 0x12c + 0x40 * l
/-- LDG.VEC_BUSY (R428). -/
def Reg.LDG_VEC_BUSY (l : Nat) : Nat := 0x130 + 0x40 * l
/-- LDG.CTL (R428). -/
def Reg.LDG_CTL (l : Nat) : Nat := 0x134 + 0x40 * l
/-- TC.PART (R429). -/
def Reg.TC_PART (c : Nat) (p : Nat) : Nat := 0x100180 + 0x10000 * c + 0x4 * p
/-- TC.POOL_STAT (R430). -/
def Reg.TC_POOL_STAT (c : Nat) : Nat := 0x100190 + 0x10000 * c
/-- TC.DEFICIT (R430). -/
def Reg.TC_DEFICIT (c : Nat) (p : Nat) : Nat := 0x1001a0 + 0x10000 * c + 0x4 * p
/-- STG.CTL (R431). -/
def Reg.STG_CTL : Nat := 0x10000
/-- STG.STAT (R431). -/
def Reg.STG_STAT : Nat := 0x10004
/-- STG.WHEN (R431). -/
def Reg.STG_WHEN : Nat := 0x10008
/-- STG.TIME_SLO (R432). -/
def Reg.STG_TIME_SLO : Nat := 0x1000c
/-- STG.TIME_SHI (R432). -/
def Reg.STG_TIME_SHI : Nat := 0x10010
/-- STG.TIME_NS (R432). -/
def Reg.STG_TIME_NS : Nat := 0x10014
/-- STG.FAIL (R432). -/
def Reg.STG_FAIL : Nat := 0x10018
/-- STG.SEQ (R432). -/
def Reg.STG_SEQ : Nat := 0x1001c
/-- STG.FLAG (R433). -/
def Reg.STG_FLAG : Nat := 0x10040
/-- TB.FLAG (R460). -/
def Reg.TB_FLAG : Nat := 0x20000
/-- TB.XCAP (R461). -/
def Reg.TB_XCAP : Nat := 0x20008
/-- TB.XCAP_FRAC (R461). -/
def Reg.TB_XCAP_FRAC (t : Nat) : Nat := 0x20010 + 0x10 * t
/-- TB.XCAP_NS (R461). -/
def Reg.TB_XCAP_NS (t : Nat) : Nat := 0x20014 + 0x10 * t
/-- TB.XCAP_SLO (R461). -/
def Reg.TB_XCAP_SLO (t : Nat) : Nat := 0x20018 + 0x10 * t
/-- TB.XCAP_SHI (R461). -/
def Reg.TB_XCAP_SHI (t : Nat) : Nat := 0x2001c + 0x10 * t
/-- TB.NOW_FRAC (R462). -/
def Reg.TB_NOW_FRAC (t : Nat) : Nat := 0x20100 + 0x40 * t
/-- TB.NOW_NS (R462). -/
def Reg.TB_NOW_NS (t : Nat) : Nat := 0x20104 + 0x40 * t
/-- TB.NOW_SLO (R462). -/
def Reg.TB_NOW_SLO (t : Nat) : Nat := 0x20108 + 0x40 * t
/-- TB.NOW_SHI (R462). -/
def Reg.TB_NOW_SHI (t : Nat) : Nat := 0x2010c + 0x40 * t
/-- TB.INCR_LO (R462). -/
def Reg.TB_INCR_LO (t : Nat) : Nat := 0x20110 + 0x40 * t
/-- TB.INCR_HI (R462). -/
def Reg.TB_INCR_HI (t : Nat) : Nat := 0x20114 + 0x40 * t
/-- TB.ADJ_NS (R462). -/
def Reg.TB_ADJ_NS (t : Nat) : Nat := 0x20118 + 0x40 * t
/-- TB.OPFRAC (R462). -/
def Reg.TB_OPFRAC (t : Nat) : Nat := 0x2011c + 0x40 * t
/-- TB.SET_NS (R462). -/
def Reg.TB_SET_NS (t : Nat) : Nat := 0x20120 + 0x40 * t
/-- TB.SET_SLO (R462). -/
def Reg.TB_SET_SLO (t : Nat) : Nat := 0x20124 + 0x40 * t
/-- TB.SET_SHI (R462). -/
def Reg.TB_SET_SHI (t : Nat) : Nat := 0x20128 + 0x40 * t
/-- TB.OP (R462). -/
def Reg.TB_OP (t : Nat) : Nat := 0x2012c + 0x40 * t
/-- TB.STAT (R462). -/
def Reg.TB_STAT (t : Nat) : Nat := 0x20130 + 0x40 * t
/-- TB.SLEW_REM (R462). -/
def Reg.TB_SLEW_REM (t : Nat) : Nat := 0x20134 + 0x40 * t
/-- TB.CFG (R462). -/
def Reg.TB_CFG (t : Nat) : Nat := 0x20138 + 0x40 * t
/-- TB.SLEW (R462). -/
def Reg.TB_SLEW (t : Nat) : Nat := 0x2013c + 0x40 * t
/-- TB.CMP_CFG (R463). -/
def Reg.TB_CMP_CFG (k : Nat) : Nat := 0x20400 + 0x20 * k
/-- TB.CMP_NS (R463). -/
def Reg.TB_CMP_NS (k : Nat) : Nat := 0x20404 + 0x20 * k
/-- TB.CMP_SLO (R463). -/
def Reg.TB_CMP_SLO (k : Nat) : Nat := 0x20408 + 0x20 * k
/-- TB.CMP_SHI (R463). -/
def Reg.TB_CMP_SHI (k : Nat) : Nat := 0x2040c + 0x20 * k
/-- TB.CMP_PER_NS (R463). -/
def Reg.TB_CMP_PER_NS (k : Nat) : Nat := 0x20410 + 0x20 * k
/-- TB.CMP_PER_FRAC (R463). -/
def Reg.TB_CMP_PER_FRAC (k : Nat) : Nat := 0x20414 + 0x20 * k
/-- TB.CMP_WIDTH (R463). -/
def Reg.TB_CMP_WIDTH (k : Nat) : Nat := 0x20418 + 0x20 * k
/-- TB.CMP_CTL (R463). -/
def Reg.TB_CMP_CTL (k : Nat) : Nat := 0x2041c + 0x20 * k
/-- TB.CAPT_CFG (R463). -/
def Reg.TB_CAPT_CFG (i : Nat) : Nat := 0x20800 + 0x20 * i
/-- TB.CAPT_FRAC (R463). -/
def Reg.TB_CAPT_FRAC (i : Nat) : Nat := 0x20804 + 0x20 * i
/-- TB.CAPT_NS (R463). -/
def Reg.TB_CAPT_NS (i : Nat) : Nat := 0x20808 + 0x20 * i
/-- TB.CAPT_SLO (R463). -/
def Reg.TB_CAPT_SLO (i : Nat) : Nat := 0x2080c + 0x20 * i
/-- TB.CAPT_SHI (R463). -/
def Reg.TB_CAPT_SHI (i : Nat) : Nat := 0x20810 + 0x20 * i
/-- TB.CAPT_CTL (R463). -/
def Reg.TB_CAPT_CTL (i : Nat) : Nat := 0x20814 + 0x20 * i
/-- TB.PTP_CFG (R464). -/
def Reg.TB_PTP_CFG (p : Nat) : Nat := 0x20a00 + 0x10 * p
/-- TB.PTP_RX_ADJ (R464). -/
def Reg.TB_PTP_RX_ADJ (p : Nat) : Nat := 0x20a04 + 0x10 * p
/-- TB.PTP_TX_ADJ (R464). -/
def Reg.TB_PTP_TX_ADJ (p : Nat) : Nat := 0x20a08 + 0x10 * p
/-- TB.SYNCE (R464). -/
def Reg.TB_SYNCE (k : Nat) : Nat := 0x20c00 + 0x4 * k
/-- SYNC.FLAG (R465). -/
def Reg.SYNC_FLAG : Nat := 0x30000
/-- SYNC.SIGNAL (R465). -/
def Reg.SYNC_SIGNAL : Nat := 0x30010
/-- SYNC.CLEAR (R465). -/
def Reg.SYNC_CLEAR : Nat := 0x30014
/-- SYNC.COUNT (R465). -/
def Reg.SYNC_COUNT (o : Nat) : Nat := 0x38000 + 0x8 * o
/-- SYNC.ARMED (R465). -/
def Reg.SYNC_ARMED (o : Nat) : Nat := 0x38004 + 0x8 * o
/-- REL.FLAG (R482). -/
def Reg.REL_FLAG : Nat := 0x70000
/-- REL.LAST (R483). -/
def Reg.REL_LAST : Nat := 0x70010
/-- REL.LAST_MS (R483). -/
def Reg.REL_LAST_MS : Nat := 0x70014
/-- REL.CE_CNT (R483). -/
def Reg.REL_CE_CNT : Nat := 0x70020
/-- REL.CE_ADDR_LO (R483). -/
def Reg.REL_CE_ADDR_LO : Nat := 0x70024
/-- REL.CE_ADDR_HI (R483). -/
def Reg.REL_CE_ADDR_HI : Nat := 0x70028
/-- REL.SCRUB (R483). -/
def Reg.REL_SCRUB : Nat := 0x7002c
/-- REL.TRANS (R484). -/
def Reg.REL_TRANS (k : Nat) : Nat := 0x70100 + 0x10 * k
/-- REL.LAST_CNT (R484). -/
def Reg.REL_LAST_CNT (k : Nat) : Nat := 0x70104 + 0x10 * k
/-- REL.CORE_MAP (R485). -/
def Reg.REL_CORE_MAP (w : Nat) : Nat := 0x70200 + 0x4 * w
/-- REL.IBC_MAP (R485). -/
def Reg.REL_IBC_MAP : Nat := 0x70220
/-- REL.LG_MAP (R485). -/
def Reg.REL_LG_MAP (c : Nat) : Nat := 0x70240 + 0x4 * c
/-- REL.WEAR (R486). -/
def Reg.REL_WEAR : Nat := 0x70300
/-- REL.WEAR_CFG (R486). -/
def Reg.REL_WEAR_CFG : Nat := 0x70304
/-- REL.WREC_SEQ (R486). -/
def Reg.REL_WREC_SEQ : Nat := 0x70308
/-- REL.WREC_STAT (R486). -/
def Reg.REL_WREC_STAT : Nat := 0x7030c
/-- REL.POH (R486). -/
def Reg.REL_POH : Nat := 0x70310
/-- REL.TCYC (R486). -/
def Reg.REL_TCYC : Nat := 0x70314
/-- REL.FWUPD_CTL (R486). -/
def Reg.REL_FWUPD_CTL : Nat := 0x70400
/-- REL.FWUPD_SRC_LO (R486). -/
def Reg.REL_FWUPD_SRC_LO : Nat := 0x70404
/-- REL.FWUPD_SRC_HI (R486). -/
def Reg.REL_FWUPD_SRC_HI : Nat := 0x70408
/-- REL.FWUPD_STAT (R486). -/
def Reg.REL_FWUPD_STAT : Nat := 0x7040c
/-- CNT_SEL (R506). -/
def Reg.CNT_SEL (b : Nat) (n : Nat) : Nat := 0x3000 + 0x10000 * b + 0x10 * n
/-- CNT_LO (R507). -/
def Reg.CNT_LO (b : Nat) (n : Nat) : Nat := 0x3004 + 0x10000 * b + 0x10 * n
/-- CNT_HI (R507). -/
def Reg.CNT_HI (b : Nat) (n : Nat) : Nat := 0x3008 + 0x10000 * b + 0x10 * n
/-- CNT_OVF (R508). -/
def Reg.CNT_OVF (b : Nat) : Nat := 0x3080 + 0x10000 * b
/-- LEDG.FLAG (R509). -/
def Reg.LEDG_FLAG : Nat := 0x40000
/-- LEDG.CFG (R510). -/
def Reg.LEDG_CFG : Nat := 0x40008
/-- LEDG.RING_HEAD (R510). -/
def Reg.LEDG_RING_HEAD : Nat := 0x4000c
/-- LEDG.RING_TAIL (R510). -/
def Reg.LEDG_RING_TAIL : Nat := 0x40010
/-- LEDG.SEQ (R510). -/
def Reg.LEDG_SEQ : Nat := 0x40014
/-- LEDG.LDG_DEST (R511). -/
def Reg.LEDG_LDG_DEST (l : Nat) : Nat := 0x40100 + 0x20 * l
/-- LEDG.LDG_SIZE (R511). -/
def Reg.LEDG_LDG_SIZE (l : Nat) : Nat := 0x40104 + 0x20 * l
/-- LEDG.LDG_HEAD (R511). -/
def Reg.LEDG_LDG_HEAD (l : Nat) : Nat := 0x40108 + 0x20 * l
/-- LEDG.LDG_TAIL (R511). -/
def Reg.LEDG_LDG_TAIL (l : Nat) : Nat := 0x4010c + 0x20 * l
/-- SEC.FLAG (R541). -/
def Reg.SEC_FLAG : Nat := 0x60000
/-- SEC.LC (R542). -/
def Reg.SEC_LC : Nat := 0x60008
/-- SEC.LDG_MODE (R543). -/
def Reg.SEC_LDG_MODE (l : Nat) : Nat := 0x60100 + 0x20 * l
/-- SEC.EPOCH (R543). -/
def Reg.SEC_EPOCH (l : Nat) : Nat := 0x60104 + 0x20 * l
/-- SEC.CNT_CUR (R543). -/
def Reg.SEC_CNT_CUR (l : Nat) : Nat := 0x60108 + 0x20 * l
/-- SEC.CNT_OLD (R543). -/
def Reg.SEC_CNT_OLD (l : Nat) : Nat := 0x6010c + 0x20 * l
/-- SEC.SESS (R543). -/
def Reg.SEC_SESS (l : Nat) : Nat := 0x60110 + 0x20 * l
/-- SEC.LINK (R544). -/
def Reg.SEC_LINK (k : Nat) : Nat := 0x60200 + 0x10 * k
/-- SEC.LINK_S (R544). -/
def Reg.SEC_LINK_S (k : Nat) : Nat := 0x60204 + 0x10 * k
/-- PWR.FLAG (R574). -/
def Reg.PWR_FLAG : Nat := 0x50000
/-- PWR.BOOT (R575). -/
def Reg.PWR_BOOT : Nat := 0x50008
/-- PWR.BOOT_CTL (R575). -/
def Reg.PWR_BOOT_CTL : Nat := 0x5000c
/-- PWR.STRAP (R575). -/
def Reg.PWR_STRAP : Nat := 0x50010
/-- PWR.CTL (R575). -/
def Reg.PWR_CTL : Nat := 0x50014
/-- PWR.OPSTAT (R575). -/
def Reg.PWR_OPSTAT : Nat := 0x50018
/-- PWR.VDD (R576). -/
def Reg.PWR_VDD : Nat := 0x50020
/-- PWR.VREQ (R576). -/
def Reg.PWR_VREQ : Nat := 0x50024
/-- PWR.POWER (R576). -/
def Reg.PWR_POWER : Nat := 0x50028
/-- PWR.THERM (R576). -/
def Reg.PWR_THERM : Nat := 0x50030
/-- PWR.THERM_CFG (R576). -/
def Reg.PWR_THERM_CFG : Nat := 0x50034
/-- PWR.FLOOR (R576). -/
def Reg.PWR_FLOOR : Nat := 0x50038
/-- PWR.SITE (R576). -/
def Reg.PWR_SITE (s : Nat) : Nat := 0x50040 + 0x4 * s
/-- PWR.DOM_REQ (R577). -/
def Reg.PWR_DOM_REQ (k : Nat) : Nat := 0x50100 + 0x4 * k
/-- PWR.DOM_STAT (R577). -/
def Reg.PWR_DOM_STAT (k : Nat) : Nat := 0x50140 + 0x4 * k
/-- HIF.FLAG (R593). -/
def Reg.HIF_FLAG : Nat := 0x80000
/-- HIF.PCIE (R594). -/
def Reg.HIF_PCIE : Nat := 0x80008
/-- HIF.SMB_ALERT (R594). -/
def Reg.HIF_SMB_ALERT : Nat := 0x8000c
/-- HIF.SQ_BASE_LO (R595). -/
def Reg.HIF_SQ_BASE_LO (l : Nat) : Nat := 0x80100 + 0x20 * l
/-- HIF.CQ_BASE_LO (R595). -/
def Reg.HIF_CQ_BASE_LO (l : Nat) : Nat := 0x80110 + 0x20 * l
/-- HIF.PRX_BASE_LO (R595). -/
def Reg.HIF_PRX_BASE_LO (p : Nat) : Nat := 0x80400 + 0x20 * p
/-- HIF.PTX_BASE_LO (R595). -/
def Reg.HIF_PTX_BASE_LO (p : Nat) : Nat := 0x80408 + 0x20 * p
/-- HIF.SQ_BASE_HI (R595). -/
def Reg.HIF_SQ_BASE_HI (l : Nat) : Nat := 0x80104 + 0x20 * l
/-- HIF.CQ_BASE_HI (R595). -/
def Reg.HIF_CQ_BASE_HI (l : Nat) : Nat := 0x80114 + 0x20 * l
/-- HIF.PRX_BASE_HI (R595). -/
def Reg.HIF_PRX_BASE_HI (p : Nat) : Nat := 0x80404 + 0x20 * p
/-- HIF.PTX_BASE_HI (R595). -/
def Reg.HIF_PTX_BASE_HI (p : Nat) : Nat := 0x8040c + 0x20 * p
/-- HIF.SQ_CFG (R595). -/
def Reg.HIF_SQ_CFG (l : Nat) : Nat := 0x80108 + 0x20 * l
/-- HIF.SQ_PTR (R595). -/
def Reg.HIF_SQ_PTR (l : Nat) : Nat := 0x8010c + 0x20 * l
/-- HIF.CQ_CFG (R595). -/
def Reg.HIF_CQ_CFG (l : Nat) : Nat := 0x80118 + 0x20 * l
/-- HIF.CQ_PTR (R595). -/
def Reg.HIF_CQ_PTR (l : Nat) : Nat := 0x8011c + 0x20 * l
/-- HIF.PTP_CFG (R595). -/
def Reg.HIF_PTP_CFG (p : Nat) : Nat := 0x80410 + 0x20 * p
/-- HIF.PRX_PTR (R595). -/
def Reg.HIF_PRX_PTR (p : Nat) : Nat := 0x80414 + 0x20 * p
/-- HIF.PTX_PTR (R595). -/
def Reg.HIF_PTX_PTR (p : Nat) : Nat := 0x80418 + 0x20 * p
/-- DLK.FLAG (R604). -/
def Reg.DLK_FLAG : Nat := 0x90000
/-- DLK.CFG (R605). -/
def Reg.DLK_CFG (k : Nat) : Nat := 0x90100 + 0x40 * k
/-- DLK.STAT (R605). -/
def Reg.DLK_STAT (k : Nat) : Nat := 0x90104 + 0x40 * k
/-- DLK.RETRY (R605). -/
def Reg.DLK_RETRY (k : Nat) : Nat := 0x90108 + 0x40 * k
/-- DLK.CRC_ERR (R605). -/
def Reg.DLK_CRC_ERR (k : Nat) : Nat := 0x9010c + 0x40 * k
/-- DLK.REFOFF (R605). -/
def Reg.DLK_REFOFF (k : Nat) : Nat := 0x90110 + 0x40 * k
/-- DLK.CTL (R605). -/
def Reg.DLK_CTL (k : Nat) : Nat := 0x90114 + 0x40 * k
/-- DBG.FLAG (R641). -/
def Reg.DBG_FLAG : Nat := 0xf0000
/-- DBG.IBC_CTL (R642). -/
def Reg.DBG_IBC_CTL (n : Nat) : Nat := 0xf0100 + 0x80 * n
/-- DBG.IBC_CAUSE (R642). -/
def Reg.DBG_IBC_CAUSE (n : Nat) : Nat := 0xf0104 + 0x80 * n
/-- DBG.IBC_REG_SEL (R642). -/
def Reg.DBG_IBC_REG_SEL (n : Nat) : Nat := 0xf0108 + 0x80 * n
/-- DBG.IBC_REG_DATA (R642). -/
def Reg.DBG_IBC_REG_DATA (n : Nat) : Nat := 0xf010c + 0x80 * n
/-- DBG.IBC_BP (R642). -/
def Reg.DBG_IBC_BP (n : Nat) (k : Nat) : Nat := 0xf0120 + 0x80 * n + 0x4 * k
/-- DBG.IBC_WP (R642). -/
def Reg.DBG_IBC_WP (n : Nat) (k : Nat) : Nat := 0xf0140 + 0x80 * n + 0x8 * k
/-- DBG.IBC_WM (R642). -/
def Reg.DBG_IBC_WM (n : Nat) (k : Nat) : Nat := 0xf0144 + 0x80 * n + 0x8 * k
/-- DBG.TC_CTL (R643). -/
def Reg.DBG_TC_CTL (c : Nat) : Nat := 0xf0a00 + 0x10 * c
/-- DBG.TC_SEQA (R643). -/
def Reg.DBG_TC_SEQA (c : Nat) : Nat := 0xf0a04 + 0x10 * c
/-- DBG.TC_SEQB (R643). -/
def Reg.DBG_TC_SEQB (c : Nat) : Nat := 0xf0a08 + 0x10 * c
/-- DBG.TC_CAUSE (R643). -/
def Reg.DBG_TC_CAUSE (c : Nat) : Nat := 0xf0a0c + 0x10 * c
/-- LDG.REGION0 (R202). -/
def Reg.LDG_REGION0 (l : Nat) (i : Nat) : Nat := 0x4000 + 0x400 * l + 0x10 * i
/-- LDG.REGION1 (R202). -/
def Reg.LDG_REGION1 (l : Nat) (i : Nat) : Nat := 0x4004 + 0x400 * l + 0x10 * i
/-- LDG.REGION2 (R202). -/
def Reg.LDG_REGION2 (l : Nat) (i : Nat) : Nat := 0x4008 + 0x400 * l + 0x10 * i
/-- LDG.REGION3 (R202). -/
def Reg.LDG_REGION3 (l : Nat) (i : Nat) : Nat := 0x400c + 0x400 * l + 0x10 * i
/-- REL.SPARES of class k (R484). -/
def Reg.REL_SPARES (k : Nat) : Nat := 0x70108 + 0x10 * k
/-- SEC.MB_CMD, the requester's mailbox command register (R545). -/
def Reg.SEC_MB_CMD : Nat := 0x60010
/-- SEC.MB_STAT, the requester's mailbox status register (R545). -/
def Reg.SEC_MB_STAT : Nat := 0x60014

/-! The fields, named as the register tables name them. -/

def Fld.TC_AFLAG_RESIDUE : Fld := ⟨6, 6⟩
def Fld.TC_AFLAG_FLUSH : Fld := ⟨5, 5⟩
def Fld.TC_AFLAG_CVT_SAT : Fld := ⟨4, 4⟩
def Fld.TC_AFLAG_NAN_CVT : Fld := ⟨3, 3⟩
def Fld.TC_AFLAG_NAN_GEN : Fld := ⟨2, 2⟩
def Fld.TC_AFLAG_FP_OVF : Fld := ⟨1, 1⟩
def Fld.TC_AFLAG_ACC_SAT : Fld := ⟨0, 0⟩
def Fld.TC_ENG_STATE_IDLE_CNT : Fld := ⟨16, 8⟩
def Fld.TC_ENG_STATE_BANK1_VALID : Fld := ⟨4, 4⟩
def Fld.TC_ENG_STATE_BANK0_VALID : Fld := ⟨3, 3⟩
def Fld.TC_ENG_STATE_DOWN : Fld := ⟨2, 2⟩
def Fld.TC_ENG_STATE_RAMP : Fld := ⟨1, 1⟩
def Fld.TC_ENG_STATE_BUSY : Fld := ⟨0, 0⟩
def Fld.TC_ENG_BANK_OWNER : Fld := ⟨28, 25⟩
def Fld.TC_ENG_BANK_LANES : Fld := ⟨23, 16⟩
def Fld.TC_ENG_BANK_DEPTH : Fld := ⟨15, 8⟩
def Fld.TC_ENG_BANK_FMT : Fld := ⟨3, 0⟩
def Fld.TC_SLOT_CTL_MODE : Fld := ⟨0, 0⟩
def Fld.TC_SLOT_STAT_LAST_OP : Fld := ⟨31, 24⟩
def Fld.TC_SLOT_STAT_STOP_STATUS : Fld := ⟨23, 16⟩
def Fld.TC_SLOT_STAT_MOVEQ : Fld := ⟨15, 8⟩
def Fld.TC_SLOT_STAT_STATE : Fld := ⟨2, 0⟩
def Fld.TC_SLOT_SEQ_SEQ : Fld := ⟨31, 0⟩
def Fld.TC_SLOT_CRING_TAIL : Fld := ⟨31, 16⟩
def Fld.TC_SLOT_CRING_HEAD : Fld := ⟨15, 0⟩
def Fld.TC_SLOT_FLAG_B_CRFULL : Fld := ⟨3, 3⟩
def Fld.TC_SLOT_FLAG_A_CRFULL : Fld := ⟨2, 2⟩
def Fld.TC_SLOT_FLAG_B_STOP : Fld := ⟨1, 1⟩
def Fld.TC_SLOT_FLAG_A_STOP : Fld := ⟨0, 0⟩
def Fld.TC_TBUF_STATE_FTQ_COUNT : Fld := ⟨10, 8⟩
def Fld.TC_TBUF_STATE_TB3 : Fld := ⟨7, 6⟩
def Fld.TC_TBUF_STATE_TB2 : Fld := ⟨5, 4⟩
def Fld.TC_TBUF_STATE_TB1 : Fld := ⟨3, 2⟩
def Fld.TC_TBUF_STATE_TB0 : Fld := ⟨1, 0⟩
def Fld.TC_FTQ_HEAD_VALID : Fld := ⟨31, 31⟩
def Fld.TC_FTQ_HEAD_ENTRY : Fld := ⟨24, 0⟩
def Fld.TC_SFN_STATE_OWNER : Fld := ⟨11, 8⟩
def Fld.TC_SFN_STATE_SWAP_PEND : Fld := ⟨4, 4⟩
def Fld.TC_SFN_STATE_TLOAD_BUSY : Fld := ⟨3, 3⟩
def Fld.TC_SFN_STATE_BANK1_LOADED : Fld := ⟨2, 2⟩
def Fld.TC_SFN_STATE_BANK0_LOADED : Fld := ⟨1, 1⟩
def Fld.TC_SFN_STATE_ACTIVE : Fld := ⟨0, 0⟩
def Fld.TC_SFN_DIR_MONO : Fld := ⟨15, 15⟩
def Fld.TC_SFN_DIR_NSEG : Fld := ⟨14, 8⟩
def Fld.TC_SFN_DIR_KIND : Fld := ⟨7, 0⟩
def Fld.TC_VFLAG_TBL_RELOAD : Fld := ⟨2, 2⟩
def Fld.TC_VFLAG_TB_WAIT : Fld := ⟨1, 1⟩
def Fld.TC_VFLAG_EMPTY_ROW : Fld := ⟨0, 0⟩
def Fld.TC_QFLAG_HIST_BOOT : Fld := ⟨1, 1⟩
def Fld.TC_QFLAG_ZERO_RANGE : Fld := ⟨0, 0⟩
def Fld.TC_QATTACH_B_P : Fld := ⟨23, 17⟩
def Fld.TC_QATTACH_B_BON : Fld := ⟨16, 16⟩
def Fld.TC_QATTACH_B_AON : Fld := ⟨15, 15⟩
def Fld.TC_QATTACH_A_P : Fld := ⟨14, 8⟩
def Fld.TC_QATTACH_A_BON : Fld := ⟨1, 1⟩
def Fld.TC_QATTACH_A_AON : Fld := ⟨0, 0⟩
def Fld.MEM_CAP_SPARE_FRAMES : Fld := ⟨24, 8⟩
def Fld.MEM_CAP_ATTACHED : Fld := ⟨3, 0⟩
def Fld.MEM_USABLE_FRAMES : Fld := ⟨23, 0⟩
def Fld.MEM_BW_PRESET : Fld := ⟨1, 0⟩
def Fld.MEM_HALL_SYS_GRANULES : Fld := ⟨9, 0⟩
def Fld.MEM_FLAG_TIER_FAIL : Fld := ⟨5, 5⟩
def Fld.MEM_FLAG_FRAME_REMAP : Fld := ⟨4, 4⟩
def Fld.MEM_FLAG_PPR_EXHAUSTED : Fld := ⟨3, 3⟩
def Fld.MEM_FLAG_PPR_SOFT : Fld := ⟨2, 2⟩
def Fld.MEM_FLAG_UE : Fld := ⟨1, 1⟩
def Fld.MEM_FLAG_CE : Fld := ⟨0, 0⟩
def Fld.MEM_UE_ADDR_LO_ADDR_LO : Fld := ⟨31, 6⟩
def Fld.MEM_UE_ADDR_HI_ADDR_HI : Fld := ⟨15, 0⟩
def Fld.MEM_SHARE_REMOTE : Fld := ⟨29, 20⟩
def Fld.MEM_SHARE_WRITE : Fld := ⟨19, 10⟩
def Fld.MEM_SHARE_READ : Fld := ⟨9, 0⟩
def Fld.MEM_DEPTH_DEPTH : Fld := ⟨3, 0⟩
def Fld.MEM_LVL_READ_TOKENS : Fld := ⟨15, 0⟩
def Fld.MEM_LVL_WRITE_TOKENS : Fld := ⟨15, 0⟩
def Fld.MEM_LVL_REMOTE_TOKENS : Fld := ⟨15, 0⟩
def Fld.MEM_WAIT_US_COUNT : Fld := ⟨31, 0⟩
def Fld.AIR_FLAG_UNSCHED : Fld := ⟨7, 7⟩
def Fld.AIR_FLAG_TB_STEP : Fld := ⟨6, 6⟩
def Fld.AIR_FLAG_DL_LATE : Fld := ⟨5, 5⟩
def Fld.AIR_FLAG_STAGE_LATE : Fld := ⟨4, 4⟩
def Fld.AIR_FLAG_TRACK_LOST : Fld := ⟨3, 3⟩
def Fld.AIR_FLAG_MISSING_PRB : Fld := ⟨2, 2⟩
def Fld.AIR_FLAG_LATE_ORDER : Fld := ⟨1, 1⟩
def Fld.AIR_FLAG_DEADLINE_MISS : Fld := ⟨0, 0⟩
def Fld.AIR_CAR_CFG0_CC_ID : Fld := ⟨31, 24⟩
def Fld.AIR_CAR_CFG0_FH_PORT : Fld := ⟨23, 20⟩
def Fld.AIR_CAR_CFG0_TB : Fld := ⟨19, 18⟩
def Fld.AIR_CAR_CFG0_LODGING : Fld := ⟨17, 14⟩
def Fld.AIR_CAR_CFG0_NPRB : Fld := ⟨13, 4⟩
def Fld.AIR_CAR_CFG0_REMAP : Fld := ⟨3, 3⟩
def Fld.AIR_CAR_CFG0_NUM : Fld := ⟨2, 1⟩
def Fld.AIR_CAR_CFG0_ENABLE : Fld := ⟨0, 0⟩
def Fld.AIR_CAR_CFG1_LAST_DMRS : Fld := ⟨25, 22⟩
def Fld.AIR_CAR_CFG1_SOBJ_BLK : Fld := ⟨21, 16⟩
def Fld.AIR_CAR_CFG1_STATIC : Fld := ⟨10, 10⟩
def Fld.AIR_CAR_CFG1_CMP : Fld := ⟨9, 8⟩
def Fld.AIR_CAR_CFG1_DL_S : Fld := ⟨7, 4⟩
def Fld.AIR_CAR_CFG1_UL_S : Fld := ⟨3, 0⟩
def Fld.AIR_CAR_CFG2_LEAD : Fld := ⟨31, 16⟩
def Fld.AIR_CAR_CFG2_DEADLINE : Fld := ⟨15, 0⟩
def Fld.AIR_CAR_CFG3_CP_ADV : Fld := ⟨29, 20⟩
def Fld.AIR_CAR_CFG3_DL_ADV : Fld := ⟨19, 10⟩
def Fld.AIR_CAR_CFG3_ARR_MAX : Fld := ⟨9, 0⟩
def Fld.AIR_CAR_OFFSET_OFFSET : Fld := ⟨31, 0⟩
def Fld.AIR_CAR_STAT_SLACK : Fld := ⟨31, 16⟩
def Fld.AIR_CAR_STAT_STATE : Fld := ⟨1, 0⟩
def Fld.AIR_CAR_FOFF_FOFF : Fld := ⟨31, 0⟩
def Fld.AIR_CAR_SROFF_SROFF : Fld := ⟨31, 0⟩
def Fld.AIR_CAR_CTL_REACQ : Fld := ⟨0, 0⟩
def Fld.AIR_CAR_SLOT_SLOT : Fld := ⟨22, 16⟩
def Fld.AIR_CAR_SLOT_SFN : Fld := ⟨9, 0⟩
def Fld.FH_MODE_FEC108 : Fld := ⟨12, 1⟩
def Fld.FH_MODE_LANES : Fld := ⟨0, 0⟩
def Fld.FH_EAXC_RU_BITS : Fld := ⟨15, 12⟩
def Fld.FH_EAXC_CC_BITS : Fld := ⟨11, 8⟩
def Fld.FH_EAXC_BS_BITS : Fld := ⟨7, 4⟩
def Fld.FH_EAXC_DU_BITS : Fld := ⟨3, 0⟩
def Fld.FH_FLAG_IQ_SAT : Fld := ⟨7, 7⟩
def Fld.FH_FLAG_LATE_PKT : Fld := ⟨6, 6⟩
def Fld.FH_FLAG_EARLY_PKT : Fld := ⟨5, 5⟩
def Fld.FH_FLAG_UNSUP : Fld := ⟨4, 4⟩
def Fld.FH_FLAG_UNKNOWN_EAXC : Fld := ⟨3, 3⟩
def Fld.FH_FLAG_SEQ_GAP : Fld := ⟨2, 2⟩
def Fld.FH_FLAG_FCS_ERR : Fld := ⟨1, 1⟩
def Fld.FH_FLAG_LINK_DOWN : Fld := ⟨0, 0⟩
def Fld.LDPC_ENG_OWNER_E3 : Fld := ⟨19, 15⟩
def Fld.LDPC_ENG_OWNER_E2 : Fld := ⟨14, 10⟩
def Fld.LDPC_ENG_OWNER_E1 : Fld := ⟨9, 5⟩
def Fld.LDPC_ENG_OWNER_E0 : Fld := ⟨4, 0⟩
def Fld.LDPC_POOL_MASK_MASK : Fld := ⟨15, 0⟩
def Fld.LDPC_ENG_STAT_SPARE_POS : Fld := ⟨6, 4⟩
def Fld.LDPC_ENG_STAT_BUSY : Fld := ⟨3, 0⟩
def Fld.LDPC_TBL_SEL_SEL : Fld := ⟨15, 0⟩
def Fld.LDPC_TBL_SRC_LO_ADDR_LO : Fld := ⟨31, 0⟩
def Fld.LDPC_TBL_SRC_HI_ADDR_HI : Fld := ⟨15, 0⟩
def Fld.LDPC_TBL_CTL_SLOT : Fld := ⟨11, 8⟩
def Fld.LDPC_TBL_CTL_GO : Fld := ⟨0, 0⟩
def Fld.LDPC_TBL_STAT_BUSY : Fld := ⟨9, 9⟩
def Fld.LDPC_TBL_STAT_DONE : Fld := ⟨8, 8⟩
def Fld.LDPC_TBL_STAT_STATUS : Fld := ⟨7, 0⟩
def Fld.LDPC_FLAG_HARQ_CONFLICT : Fld := ⟨2, 2⟩
def Fld.LDPC_FLAG_HARQ_MISMATCH : Fld := ⟨1, 1⟩
def Fld.LDPC_FLAG_ITER_LIMIT : Fld := ⟨0, 0⟩
def Fld.LDPC_CAR_CFG_MAX_ITER : Fld := ⟨14, 9⟩
def Fld.LDPC_CAR_CFG_BG2_TBL : Fld := ⟨7, 4⟩
def Fld.LDPC_CAR_CFG_BG1_TBL : Fld := ⟨3, 0⟩
def Fld.LDPC_CAR_LBRM_LBRM_TBS : Fld := ⟨21, 0⟩
def Fld.LDPC_HARQ_HREG : Fld := ⟨21, 16⟩
def Fld.LDPC_HARQ_NBUF : Fld := ⟨15, 0⟩
def Fld.LDPC_HARQ_SIZE_BUF_KIB : Fld := ⟨15, 0⟩
def Fld.LDPC_CRC_ADDR_LO_ADDR_LO : Fld := ⟨31, 0⟩
def Fld.LDPC_CRC_ADDR_HI_ADDR_HI : Fld := ⟨15, 0⟩
def Fld.LDPC_CRC_CMD_POLY : Fld := ⟨19, 17⟩
def Fld.LDPC_CRC_CMD_LEN : Fld := ⟨16, 0⟩
def Fld.LDPC_CRC_RES_BUSY : Fld := ⟨31, 31⟩
def Fld.LDPC_CRC_RES_CRC : Fld := ⟨23, 0⟩
def Fld.LDPC_CRC_STAT_STATUS : Fld := ⟨7, 0⟩
def Fld.IBC_CTL_REP_LIMIT : Fld := ⟨31, 16⟩
def Fld.IBC_CTL_RUN : Fld := ⟨0, 0⟩
def Fld.IBC_ENTRY_ENTRY : Fld := ⟨13, 0⟩
def Fld.IBC_VEC_HIGH : Fld := ⟨29, 16⟩
def Fld.IBC_VEC_LOW : Fld := ⟨13, 0⟩
def Fld.IBC_STAT_PC : Fld := ⟨29, 16⟩
def Fld.IBC_STAT_LEV : Fld := ⟨6, 5⟩
def Fld.IBC_STAT_STATE : Fld := ⟨2, 0⟩
def Fld.IBC_IRQ_EN_EN : Fld := ⟨7, 0⟩
def Fld.IBC_IRQ_LVL_HIGH : Fld := ⟨7, 0⟩
def Fld.IBC_IRQ_PEND_PEND : Fld := ⟨7, 0⟩
def Fld.IBC_IRQ_SET_SET : Fld := ⟨7, 0⟩
def Fld.IBC_IRQ_SOBJ_OBJ : Fld := ⟨11, 0⟩
def Fld.IBC_MBOX_DATA : Fld := ⟨31, 0⟩
def Fld.IBC_TRAP_CAUSE : Fld := ⟨31, 28⟩
def Fld.IBC_TRAP_STATUS : Fld := ⟨27, 20⟩
def Fld.IBC_TRAP_PC : Fld := ⟨13, 0⟩
def Fld.IBC_FLAG_REPLAY : Fld := ⟨2, 2⟩
def Fld.IBC_FLAG_DONE : Fld := ⟨1, 1⟩
def Fld.IBC_FLAG_TRAP : Fld := ⟨0, 0⟩
def Fld.IBC_XQ_QUEUED : Fld := ⟨3, 0⟩
def Fld.SMP_FLAG_CVT : Fld := ⟨7, 7⟩
def Fld.SMP_FLAG_TAKE_BUSY : Fld := ⟨6, 6⟩
def Fld.SMP_FLAG_ROI_STALE : Fld := ⟨5, 5⟩
def Fld.SMP_FLAG_SLOT_WAIT : Fld := ⟨4, 4⟩
def Fld.SMP_FLAG_REJECT : Fld := ⟨3, 3⟩
def Fld.SMP_FLAG_DROP : Fld := ⟨2, 2⟩
def Fld.SMP_FLAG_CONCEAL : Fld := ⟨1, 1⟩
def Fld.SMP_FLAG_DROP_OVF : Fld := ⟨0, 0⟩
def Fld.SMP_DEC_STAT_D1_BUSY : Fld := ⟨31, 31⟩
def Fld.SMP_DEC_STAT_D1_STREAM : Fld := ⟨29, 24⟩
def Fld.SMP_DEC_STAT_D0_BUSY : Fld := ⟨15, 15⟩
def Fld.SMP_DEC_STAT_D0_STREAM : Fld := ⟨13, 8⟩
def Fld.SMP_LDG_MAX_MAX_SAMPLES : Fld := ⟨27, 0⟩
def Fld.SMP_BQ_DESC_VALID : Fld := ⟨31, 31⟩
def Fld.SMP_BQ_DESC_DESC_REG : Fld := ⟨29, 24⟩
def Fld.SMP_BQ_DESC_DESC_OFF : Fld := ⟨23, 0⟩
def Fld.SMP_BQ_CTL_RELEASE : Fld := ⟨7, 4⟩
def Fld.SMP_BQ_CTL_TAKE : Fld := ⟨3, 0⟩
def Fld.SMP_BQ_STAT_HELD : Fld := ⟨3, 0⟩
def Fld.SMP_ST_BIND_ENABLE : Fld := ⟨31, 31⟩
def Fld.SMP_ST_BIND_LODGING : Fld := ⟨27, 24⟩
def Fld.SMP_ST_BIND_DESC_REG : Fld := ⟨21, 16⟩
def Fld.SMP_ST_DOFF_DESC_OFF : Fld := ⟨23, 0⟩
def Fld.SMP_ST_TAIL_TAIL : Fld := ⟨11, 0⟩
def Fld.SMP_ST_HEAD_HEAD : Fld := ⟨11, 0⟩
def Fld.SMP_ST_FRAME_FRAME : Fld := ⟨31, 0⟩
def Fld.LDG_FLAG_OVERRUN : Fld := ⟨3, 3⟩
def Fld.LDG_FLAG_YIELD_TD : Fld := ⟨2, 2⟩
def Fld.LDG_FLAG_TEARDOWN : Fld := ⟨1, 1⟩
def Fld.LDG_FLAG_WB_REJECT : Fld := ⟨0, 0⟩
def Fld.LDG_SLICE_SLICE : Fld := ⟨10, 0⟩
def Fld.LDG_CFG_BOUND : Fld := ⟨31, 31⟩
def Fld.LDG_CFG_ROLE : Fld := ⟨30, 29⟩
def Fld.LDG_CFG_CNT_RD : Fld := ⟨28, 28⟩
def Fld.LDG_CFG_TBM : Fld := ⟨27, 24⟩
def Fld.LDG_CFG_FH_PORTS : Fld := ⟨23, 12⟩
def Fld.LDG_CORES_DED : Fld := ⟨31, 0⟩
def Fld.LDG_POOLED_POOL : Fld := ⟨31, 0⟩
def Fld.LDG_IAMBEL_IBC : Fld := ⟨15, 0⟩
def Fld.LDG_SYNC_LO_BLK : Fld := ⟨31, 0⟩
def Fld.LDG_SYNC_HI_BLK : Fld := ⟨31, 0⟩
def Fld.LDG_QUOTA_HALL : Fld := ⟨25, 16⟩
def Fld.LDG_QUOTA_WING : Fld := ⟨11, 0⟩
def Fld.LDG_SHARE_SHARE : Fld := ⟨9, 0⟩
def Fld.LDG_YIELD_LIMIT : Fld := ⟨10, 0⟩
def Fld.LDG_STAT_LAST_STATUS : Fld := ⟨31, 24⟩
def Fld.LDG_STAT_QUEUED : Fld := ⟨22, 16⟩
def Fld.LDG_STAT_STATE : Fld := ⟨2, 0⟩
def Fld.LDG_WB_ID_WB_ID : Fld := ⟨31, 0⟩
def Fld.LDG_ENG_BUSY_COUNT : Fld := ⟨31, 0⟩
def Fld.LDG_VEC_BUSY_COUNT : Fld := ⟨31, 0⟩
def Fld.LDG_CTL_RESET : Fld := ⟨1, 1⟩
def Fld.LDG_CTL_CANCEL : Fld := ⟨0, 0⟩
def Fld.TC_PART_VALID : Fld := ⟨25, 25⟩
def Fld.TC_PART_LODGING : Fld := ⟨24, 21⟩
def Fld.TC_PART_OS_BASE : Fld := ⟨20, 16⟩
def Fld.TC_PART_OS_N : Fld := ⟨15, 11⟩
def Fld.TC_PART_ACC_BASE : Fld := ⟨10, 9⟩
def Fld.TC_PART_ACC_N : Fld := ⟨8, 7⟩
def Fld.TC_PART_TB_BASE : Fld := ⟨6, 4⟩
def Fld.TC_PART_TB_N : Fld := ⟨3, 1⟩
def Fld.TC_POOL_STAT_SWITCHING : Fld := ⟨5, 5⟩
def Fld.TC_POOL_STAT_POOLED : Fld := ⟨4, 4⟩
def Fld.TC_POOL_STAT_HOLDER : Fld := ⟨1, 0⟩
def Fld.TC_DEFICIT_DEFICIT : Fld := ⟨31, 0⟩
def Fld.STG_CTL_OP : Fld := ⟨2, 0⟩
def Fld.STG_STAT_STATUS : Fld := ⟨31, 24⟩
def Fld.STG_STAT_OWNER : Fld := ⟨19, 16⟩
def Fld.STG_STAT_RELEASING : Fld := ⟨3, 3⟩
def Fld.STG_STAT_STATE : Fld := ⟨2, 0⟩
def Fld.STG_WHEN_CAR : Fld := ⟨15, 8⟩
def Fld.STG_WHEN_TB : Fld := ⟨3, 2⟩
def Fld.STG_WHEN_MODE : Fld := ⟨1, 0⟩
def Fld.STG_TIME_SLO_SEC_LO : Fld := ⟨31, 0⟩
def Fld.STG_TIME_SHI_SEC_HI : Fld := ⟨15, 0⟩
def Fld.STG_TIME_NS_NS : Fld := ⟨31, 0⟩
def Fld.STG_FAIL_BLOCK : Fld := ⟨27, 16⟩
def Fld.STG_FAIL_OFFSET : Fld := ⟨15, 0⟩
def Fld.STG_SEQ_SEQ : Fld := ⟨31, 0⟩
def Fld.STG_FLAG_FOREIGN : Fld := ⟨4, 4⟩
def Fld.STG_FLAG_AUTO_ABANDON : Fld := ⟨3, 3⟩
def Fld.STG_FLAG_RELEASED : Fld := ⟨2, 2⟩
def Fld.STG_FLAG_REFUSED : Fld := ⟨1, 1⟩
def Fld.STG_FLAG_COMMITTED : Fld := ⟨0, 0⟩
def Fld.TB_FLAG_SYNCE_SQUELCH : Fld := ⟨13, 13⟩
def Fld.TB_FLAG_PTP_DROP : Fld := ⟨12, 12⟩
def Fld.TB_FLAG_INCR_REFUSED : Fld := ⟨11, 11⟩
def Fld.TB_FLAG_STEER_DENIED : Fld := ⟨10, 10⟩
def Fld.TB_FLAG_CAPT_OVF : Fld := ⟨9, 9⟩
def Fld.TB_FLAG_CMP_MISSED : Fld := ⟨8, 8⟩
def Fld.TB_FLAG_STEPPED : Fld := ⟨7, 4⟩
def Fld.TB_FLAG_JUMP_REFUSED : Fld := ⟨3, 0⟩
def Fld.TB_XCAP_GO : Fld := ⟨0, 0⟩
def Fld.TB_XCAP_FRAC_FRAC : Fld := ⟨15, 0⟩
def Fld.TB_XCAP_NS_NS : Fld := ⟨31, 0⟩
def Fld.TB_XCAP_SLO_SEC_LO : Fld := ⟨31, 0⟩
def Fld.TB_XCAP_SHI_SEC_HI : Fld := ⟨15, 0⟩
def Fld.TB_NOW_FRAC_FRAC : Fld := ⟨15, 0⟩
def Fld.TB_NOW_NS_NS : Fld := ⟨31, 0⟩
def Fld.TB_NOW_SLO_SEC_LO : Fld := ⟨31, 0⟩
def Fld.TB_NOW_SHI_SEC_HI : Fld := ⟨15, 0⟩
def Fld.TB_INCR_LO_FRAC : Fld := ⟨31, 0⟩
def Fld.TB_INCR_HI_NS : Fld := ⟨7, 0⟩
def Fld.TB_ADJ_NS_ADJ : Fld := ⟨31, 0⟩
def Fld.TB_OPFRAC_FRAC : Fld := ⟨15, 0⟩
def Fld.TB_SET_NS_NS : Fld := ⟨31, 0⟩
def Fld.TB_SET_SLO_SEC_LO : Fld := ⟨31, 0⟩
def Fld.TB_SET_SHI_SEC_HI : Fld := ⟨15, 0⟩
def Fld.TB_OP_ARM_OVR : Fld := ⟨8, 8⟩
def Fld.TB_OP_OP : Fld := ⟨1, 0⟩
def Fld.TB_STAT_LAST_STATUS : Fld := ⟨31, 24⟩
def Fld.TB_STAT_SLEWING : Fld := ⟨1, 1⟩
def Fld.TB_STAT_RUNNING : Fld := ⟨0, 0⟩
def Fld.TB_SLEW_REM_REM : Fld := ⟨31, 0⟩
def Fld.TB_CFG_STEER_EN : Fld := ⟨31, 31⟩
def Fld.TB_CFG_STEER_LDG : Fld := ⟨30, 27⟩
def Fld.TB_CFG_JUMP_LIMIT : Fld := ⟨19, 0⟩
def Fld.TB_SLEW_SLEW : Fld := ⟨13, 0⟩
def Fld.TB_CMP_CFG_VALID : Fld := ⟨31, 31⟩
def Fld.TB_CMP_CFG_HOST : Fld := ⟨30, 30⟩
def Fld.TB_CMP_CFG_OWNER : Fld := ⟨29, 26⟩
def Fld.TB_CMP_CFG_TB : Fld := ⟨25, 24⟩
def Fld.TB_CMP_CFG_PIN_EN : Fld := ⟨23, 23⟩
def Fld.TB_CMP_CFG_PIN : Fld := ⟨22, 20⟩
def Fld.TB_CMP_CFG_POL : Fld := ⟨19, 19⟩
def Fld.TB_CMP_CFG_SIG_EN : Fld := ⟨18, 18⟩
def Fld.TB_CMP_CFG_IRQ_EN : Fld := ⟨17, 17⟩
def Fld.TB_CMP_CFG_IBC : Fld := ⟨16, 12⟩
def Fld.TB_CMP_CFG_OBJ : Fld := ⟨11, 0⟩
def Fld.TB_CMP_NS_NS : Fld := ⟨31, 0⟩
def Fld.TB_CMP_SLO_SEC_LO : Fld := ⟨31, 0⟩
def Fld.TB_CMP_SHI_SEC_HI : Fld := ⟨15, 0⟩
def Fld.TB_CMP_PER_NS_NS : Fld := ⟨31, 0⟩
def Fld.TB_CMP_PER_FRAC_FRAC : Fld := ⟨15, 0⟩
def Fld.TB_CMP_WIDTH_WIDTH : Fld := ⟨15, 0⟩
def Fld.TB_CMP_CTL_MISSED : Fld := ⟨31, 16⟩
def Fld.TB_CMP_CTL_ARMED : Fld := ⟨8, 8⟩
def Fld.TB_CMP_CTL_DISARM : Fld := ⟨1, 1⟩
def Fld.TB_CMP_CTL_ARM : Fld := ⟨0, 0⟩
def Fld.TB_CAPT_CFG_VALID : Fld := ⟨31, 31⟩
def Fld.TB_CAPT_CFG_HOST : Fld := ⟨30, 30⟩
def Fld.TB_CAPT_CFG_OWNER : Fld := ⟨29, 26⟩
def Fld.TB_CAPT_CFG_TB : Fld := ⟨25, 24⟩
def Fld.TB_CAPT_CFG_EDGE : Fld := ⟨23, 22⟩
def Fld.TB_CAPT_CFG_SIG_EN : Fld := ⟨18, 18⟩
def Fld.TB_CAPT_CFG_IRQ_EN : Fld := ⟨17, 17⟩
def Fld.TB_CAPT_CFG_IBC : Fld := ⟨16, 12⟩
def Fld.TB_CAPT_CFG_OBJ : Fld := ⟨11, 0⟩
def Fld.TB_CAPT_FRAC_FRAC : Fld := ⟨15, 0⟩
def Fld.TB_CAPT_NS_NS : Fld := ⟨31, 0⟩
def Fld.TB_CAPT_SLO_SEC_LO : Fld := ⟨31, 0⟩
def Fld.TB_CAPT_SHI_SEC_HI : Fld := ⟨15, 0⟩
def Fld.TB_CAPT_CTL_SEQ : Fld := ⟨31, 16⟩
def Fld.TB_CAPT_CTL_FALL : Fld := ⟨12, 12⟩
def Fld.TB_CAPT_CTL_LEVEL : Fld := ⟨11, 8⟩
def Fld.TB_CAPT_CTL_POP : Fld := ⟨0, 0⟩
def Fld.TB_PTP_CFG_EN : Fld := ⟨31, 31⟩
def Fld.TB_PTP_CFG_TB : Fld := ⟨30, 29⟩
def Fld.TB_PTP_CFG_L2 : Fld := ⟨28, 28⟩
def Fld.TB_PTP_CFG_UDP4 : Fld := ⟨27, 27⟩
def Fld.TB_PTP_CFG_UDP6 : Fld := ⟨26, 26⟩
def Fld.TB_PTP_CFG_COPY : Fld := ⟨25, 25⟩
def Fld.TB_PTP_CFG_FWD : Fld := ⟨23, 12⟩
def Fld.TB_PTP_RX_ADJ_ADJ : Fld := ⟨15, 0⟩
def Fld.TB_PTP_TX_ADJ_ADJ : Fld := ⟨15, 0⟩
def Fld.TB_SYNCE_EN : Fld := ⟨31, 31⟩
def Fld.TB_SYNCE_PORT : Fld := ⟨27, 24⟩
def Fld.TB_SYNCE_DIV : Fld := ⟨17, 16⟩
def Fld.TB_SYNCE_SQUELCHED : Fld := ⟨8, 8⟩
def Fld.SYNC_FLAG_DENIED : Fld := ⟨1, 1⟩
def Fld.SYNC_FLAG_SAT : Fld := ⟨0, 0⟩
def Fld.SYNC_SIGNAL_OBJ : Fld := ⟨31, 20⟩
def Fld.SYNC_SIGNAL_N : Fld := ⟨19, 0⟩
def Fld.SYNC_CLEAR_OBJ : Fld := ⟨11, 0⟩
def Fld.SYNC_COUNT_COUNT : Fld := ⟨31, 0⟩
def Fld.SYNC_ARMED_THRESH : Fld := ⟨31, 0⟩
def Fld.REL_FLAG_WEAR_LOST : Fld := ⟨11, 11⟩
def Fld.REL_FLAG_WEAR_WRITE_FAIL : Fld := ⟨10, 10⟩
def Fld.REL_FLAG_WEAR_CRIT : Fld := ⟨9, 9⟩
def Fld.REL_FLAG_WEAR_REMAP : Fld := ⟨8, 8⟩
def Fld.REL_FLAG_WEAR_VOLT : Fld := ⟨7, 7⟩
def Fld.REL_FLAG_SCRUB_LATE : Fld := ⟨6, 6⟩
def Fld.REL_FLAG_SPARE_LOW : Fld := ⟨5, 5⟩
def Fld.REL_FLAG_DOUBLE_FAIL : Fld := ⟨4, 4⟩
def Fld.REL_FLAG_DATA_LOSS : Fld := ⟨3, 3⟩
def Fld.REL_FLAG_NO_SPARE : Fld := ⟨2, 2⟩
def Fld.REL_FLAG_LASTING : Fld := ⟨1, 1⟩
def Fld.REL_FLAG_TRANSIENT : Fld := ⟨0, 0⟩
def Fld.REL_LAST_OUTCOME : Fld := ⟨31, 28⟩
def Fld.REL_LAST_MECH : Fld := ⟨27, 24⟩
def Fld.REL_LAST_CLASS : Fld := ⟨23, 20⟩
def Fld.REL_LAST_UNIT : Fld := ⟨19, 8⟩
def Fld.REL_LAST_LODGING : Fld := ⟨7, 0⟩
def Fld.REL_LAST_MS_MS : Fld := ⟨31, 0⟩
def Fld.REL_CE_CNT_COUNT : Fld := ⟨31, 0⟩
def Fld.REL_CE_ADDR_LO_ADDR_LO : Fld := ⟨31, 0⟩
def Fld.REL_CE_ADDR_HI_ADDR_HI : Fld := ⟨15, 0⟩
def Fld.REL_SCRUB_PASS_MIN : Fld := ⟨15, 0⟩
def Fld.REL_TRANS_COUNT : Fld := ⟨31, 0⟩
def Fld.REL_LAST_CNT_COUNT : Fld := ⟨31, 0⟩
def Fld.REL_CORE_MAP_FAILED : Fld := ⟨19, 16⟩
def Fld.REL_CORE_MAP_PHYS : Fld := ⟨11, 0⟩
def Fld.REL_IBC_MAP_FAILED : Fld := ⟨31, 16⟩
def Fld.REL_IBC_MAP_SUB1 : Fld := ⟨12, 8⟩
def Fld.REL_IBC_MAP_SUB0 : Fld := ⟨4, 0⟩
def Fld.REL_LG_MAP_BANK : Fld := ⟨13, 8⟩
def Fld.REL_LG_MAP_LG : Fld := ⟨3, 0⟩
def Fld.REL_WEAR_MARGIN_MIN : Fld := ⟨31, 16⟩
def Fld.REL_WEAR_VWEAR : Fld := ⟨15, 0⟩
def Fld.REL_WEAR_CFG_MARGIN_TGT : Fld := ⟨23, 16⟩
def Fld.REL_WEAR_CFG_WEAR_VMAX : Fld := ⟨15, 0⟩
def Fld.REL_WREC_SEQ_SEQ : Fld := ⟨31, 0⟩
def Fld.REL_WREC_STAT_STATUS : Fld := ⟨15, 8⟩
def Fld.REL_WREC_STAT_B_VALID : Fld := ⟨4, 4⟩
def Fld.REL_WREC_STAT_A_VALID : Fld := ⟨3, 3⟩
def Fld.REL_WREC_STAT_WRITING : Fld := ⟨2, 2⟩
def Fld.REL_WREC_STAT_BANK : Fld := ⟨1, 0⟩
def Fld.REL_POH_HOURS : Fld := ⟨31, 0⟩
def Fld.REL_TCYC_CYCLES : Fld := ⟨31, 0⟩
def Fld.REL_FWUPD_CTL_GO : Fld := ⟨4, 4⟩
def Fld.REL_FWUPD_CTL_TARGET : Fld := ⟨1, 0⟩
def Fld.REL_FWUPD_SRC_LO_ADDR_LO : Fld := ⟨31, 0⟩
def Fld.REL_FWUPD_SRC_HI_ADDR_HI : Fld := ⟨15, 0⟩
def Fld.REL_FWUPD_STAT_STATUS : Fld := ⟨15, 8⟩
def Fld.REL_FWUPD_STAT_PHASE : Fld := ⟨2, 0⟩
def Fld.CNT_SEL_SNAP : Fld := ⟨21, 21⟩
def Fld.CNT_SEL_FILT : Fld := ⟨20, 20⟩
def Fld.CNT_SEL_LODGING : Fld := ⟨19, 16⟩
def Fld.CNT_SEL_EVENT : Fld := ⟨15, 0⟩
def Fld.CNT_LO_VALUE_LO : Fld := ⟨31, 0⟩
def Fld.CNT_HI_VALUE_HI : Fld := ⟨15, 0⟩
def Fld.CNT_OVF_OVF : Fld := ⟨7, 0⟩
def Fld.LEDG_FLAG_LDG_RING_FULL : Fld := ⟨3, 3⟩
def Fld.LEDG_FLAG_RING_FULL : Fld := ⟨2, 2⟩
def Fld.LEDG_FLAG_SKIP : Fld := ⟨1, 1⟩
def Fld.LEDG_FLAG_DENIED : Fld := ⟨0, 0⟩
def Fld.LEDG_CFG_EN : Fld := ⟨31, 31⟩
def Fld.LEDG_CFG_TB : Fld := ⟨29, 28⟩
def Fld.LEDG_CFG_RING_GRAN : Fld := ⟨25, 16⟩
def Fld.LEDG_CFG_INTERVAL : Fld := ⟨9, 0⟩
def Fld.LEDG_RING_HEAD_HEAD : Fld := ⟨18, 0⟩
def Fld.LEDG_RING_TAIL_TAIL : Fld := ⟨18, 0⟩
def Fld.LEDG_SEQ_SEQ : Fld := ⟨31, 0⟩
def Fld.LEDG_LDG_DEST_VALID : Fld := ⟨31, 31⟩
def Fld.LEDG_LDG_DEST_REG : Fld := ⟨29, 24⟩
def Fld.LEDG_LDG_DEST_OFF : Fld := ⟨23, 0⟩
def Fld.LEDG_LDG_SIZE_SIZE : Fld := ⟨15, 0⟩
def Fld.LEDG_LDG_HEAD_HEAD : Fld := ⟨15, 0⟩
def Fld.LEDG_LDG_TAIL_TAIL : Fld := ⟨15, 0⟩
def Fld.SEC_FLAG_ZERO_READ : Fld := ⟨9, 9⟩
def Fld.SEC_FLAG_SIG_FAIL : Fld := ⟨8, 8⟩
def Fld.SEC_FLAG_DBG_LOCK : Fld := ⟨7, 7⟩
def Fld.SEC_FLAG_DBG_FAIL : Fld := ⟨6, 6⟩
def Fld.SEC_FLAG_DBG_GRANT : Fld := ⟨5, 5⟩
def Fld.SEC_FLAG_SESSION_DEAD : Fld := ⟨4, 4⟩
def Fld.SEC_FLAG_SESS_FAIL : Fld := ⟨3, 3⟩
def Fld.SEC_FLAG_LINK_AUTH : Fld := ⟨2, 2⟩
def Fld.SEC_FLAG_ROTATED : Fld := ⟨1, 1⟩
def Fld.SEC_FLAG_EPOCH_RETIRED : Fld := ⟨0, 0⟩
def Fld.SEC_LC_REVISION : Fld := ⟨31, 24⟩
def Fld.SEC_LC_SVN : Fld := ⟨16, 10⟩
def Fld.SEC_LC_DBG_ACTIVE : Fld := ⟨9, 9⟩
def Fld.SEC_LC_DBG_SINCE_START : Fld := ⟨8, 8⟩
def Fld.SEC_LC_STATE : Fld := ⟨1, 0⟩
def Fld.SEC_LDG_MODE_CONF : Fld := ⟨0, 0⟩
def Fld.SEC_EPOCH_SWEEP : Fld := ⟨25, 25⟩
def Fld.SEC_EPOCH_OLD_LIVE : Fld := ⟨24, 24⟩
def Fld.SEC_EPOCH_CUR : Fld := ⟨23, 0⟩
def Fld.SEC_CNT_CUR_COUNT : Fld := ⟨31, 0⟩
def Fld.SEC_CNT_OLD_COUNT : Fld := ⟨31, 0⟩
def Fld.SEC_SESS_FAILS : Fld := ⟨7, 4⟩
def Fld.SEC_SESS_OPEN : Fld := ⟨0, 0⟩
def Fld.SEC_LINK_KEY_PHASE : Fld := ⟨1, 1⟩
def Fld.SEC_LINK_AUTH_OK : Fld := ⟨0, 0⟩
def Fld.SEC_LINK_S_S_LO : Fld := ⟨31, 0⟩
def Fld.PWR_FLAG_RESTARTED : Fld := ⟨10, 10⟩
def Fld.PWR_FLAG_TRIAL_ABANDONED : Fld := ⟨9, 9⟩
def Fld.PWR_FLAG_FALLBACK : Fld := ⟨8, 8⟩
def Fld.PWR_FLAG_DOM_REFUSED : Fld := ⟨7, 7⟩
def Fld.PWR_FLAG_REFCLK_LOSS : Fld := ⟨6, 6⟩
def Fld.PWR_FLAG_PMBUS_FAIL : Fld := ⟨5, 5⟩
def Fld.PWR_FLAG_THERM_TRIP : Fld := ⟨4, 4⟩
def Fld.PWR_FLAG_PROTECT_GATED : Fld := ⟨3, 3⟩
def Fld.PWR_FLAG_THROTTLE : Fld := ⟨2, 2⟩
def Fld.PWR_FLAG_SENSOR_RETIRED : Fld := ⟨1, 1⟩
def Fld.PWR_FLAG_POLICY_OVERRIDE : Fld := ⟨0, 0⟩
def Fld.PWR_BOOT_SERVICE_MS : Fld := ⟨31, 16⟩
def Fld.PWR_BOOT_STATUS : Fld := ⟨15, 8⟩
def Fld.PWR_BOOT_TRIAL : Fld := ⟨5, 5⟩
def Fld.PWR_BOOT_QUAD : Fld := ⟨4, 4⟩
def Fld.PWR_BOOT_SLOT : Fld := ⟨3, 3⟩
def Fld.PWR_BOOT_STATE : Fld := ⟨2, 0⟩
def Fld.PWR_BOOT_CTL_CONFIRM : Fld := ⟨0, 0⟩
def Fld.PWR_STRAP_BOOTSRC : Fld := ⟨7, 6⟩
def Fld.PWR_STRAP_SMBADDR : Fld := ⟨5, 3⟩
def Fld.PWR_STRAP_PMBADDR : Fld := ⟨2, 0⟩
def Fld.PWR_CTL_STBY_EXIT : Fld := ⟨2, 2⟩
def Fld.PWR_CTL_STBY_ENTER : Fld := ⟨1, 1⟩
def Fld.PWR_CTL_RESTART : Fld := ⟨0, 0⟩
def Fld.PWR_OPSTAT_STATUS : Fld := ⟨7, 0⟩
def Fld.PWR_VDD_MEAS : Fld := ⟨31, 16⟩
def Fld.PWR_VDD_SET : Fld := ⟨15, 0⟩
def Fld.PWR_VREQ_REQ : Fld := ⟨15, 0⟩
def Fld.PWR_POWER_IOUT : Fld := ⟨31, 16⟩
def Fld.PWR_POWER_WATTS : Fld := ⟨15, 0⟩
def Fld.PWR_THERM_DP : Fld := ⟨28, 24⟩
def Fld.PWR_THERM_DU : Fld := ⟨20, 16⟩
def Fld.PWR_THERM_T_HOT : Fld := ⟨15, 0⟩
def Fld.PWR_THERM_CFG_TRIP : Fld := ⟨23, 16⟩
def Fld.PWR_THERM_CFG_THR : Fld := ⟨7, 0⟩
def Fld.PWR_FLOOR_FLOOR : Fld := ⟨4, 0⟩
def Fld.PWR_SITE_STATE : Fld := ⟨31, 30⟩
def Fld.PWR_SITE_T : Fld := ⟨15, 0⟩
def Fld.PWR_DOM_REQ_REQ : Fld := ⟨31, 0⟩
def Fld.PWR_DOM_STAT_ON : Fld := ⟨31, 0⟩
def Fld.HIF_FLAG_SMB_PEC : Fld := ⟨7, 7⟩
def Fld.HIF_FLAG_FLR : Fld := ⟨6, 6⟩
def Fld.HIF_FLAG_PTP_RX_FULL : Fld := ⟨5, 5⟩
def Fld.HIF_FLAG_DMA_ERR : Fld := ⟨4, 4⟩
def Fld.HIF_FLAG_VF_DENIED : Fld := ⟨3, 3⟩
def Fld.HIF_FLAG_CQ_LOST : Fld := ⟨2, 2⟩
def Fld.HIF_FLAG_CQ_STALL : Fld := ⟨1, 1⟩
def Fld.HIF_FLAG_SQ_BAD : Fld := ⟨0, 0⟩
def Fld.HIF_PCIE_L1 : Fld := ⟨10, 10⟩
def Fld.HIF_PCIE_WIDTH : Fld := ⟨9, 4⟩
def Fld.HIF_PCIE_SPEED : Fld := ⟨3, 0⟩
def Fld.HIF_SMB_ALERT_MASK : Fld := ⟨10, 0⟩
def Fld.HIF_SQ_BASE_LO_ADDR_LO : Fld := ⟨31, 12⟩
def Fld.HIF_CQ_BASE_LO_ADDR_LO : Fld := ⟨31, 12⟩
def Fld.HIF_PRX_BASE_LO_ADDR_LO : Fld := ⟨31, 12⟩
def Fld.HIF_PTX_BASE_LO_ADDR_LO : Fld := ⟨31, 12⟩
def Fld.HIF_SQ_BASE_HI_ADDR_HI : Fld := ⟨31, 0⟩
def Fld.HIF_CQ_BASE_HI_ADDR_HI : Fld := ⟨31, 0⟩
def Fld.HIF_PRX_BASE_HI_ADDR_HI : Fld := ⟨31, 0⟩
def Fld.HIF_PTX_BASE_HI_ADDR_HI : Fld := ⟨31, 0⟩
def Fld.HIF_SQ_CFG_EN : Fld := ⟨31, 31⟩
def Fld.HIF_SQ_CFG_LOG2 : Fld := ⟨4, 0⟩
def Fld.HIF_SQ_PTR_HEAD : Fld := ⟨31, 16⟩
def Fld.HIF_SQ_PTR_TAIL : Fld := ⟨15, 0⟩
def Fld.HIF_CQ_CFG_EN : Fld := ⟨31, 31⟩
def Fld.HIF_CQ_CFG_MOD : Fld := ⟨23, 16⟩
def Fld.HIF_CQ_CFG_LOG2 : Fld := ⟨4, 0⟩
def Fld.HIF_CQ_PTR_TAIL : Fld := ⟨31, 16⟩
def Fld.HIF_CQ_PTR_HEAD : Fld := ⟨15, 0⟩
def Fld.HIF_PTP_CFG_EN : Fld := ⟨31, 31⟩
def Fld.HIF_PTP_CFG_TX_LOG2 : Fld := ⟨12, 8⟩
def Fld.HIF_PTP_CFG_RX_LOG2 : Fld := ⟨4, 0⟩
def Fld.HIF_PRX_PTR_TAIL : Fld := ⟨31, 16⟩
def Fld.HIF_PRX_PTR_HEAD : Fld := ⟨15, 0⟩
def Fld.HIF_PTX_PTR_HEAD : Fld := ⟨31, 16⟩
def Fld.HIF_PTX_PTR_TAIL : Fld := ⟨15, 0⟩
def Fld.DLK_FLAG_REF_OFFSET : Fld := ⟨5, 5⟩
def Fld.DLK_FLAG_FAILED : Fld := ⟨4, 4⟩
def Fld.DLK_FLAG_DOWNSHIFT : Fld := ⟨3, 3⟩
def Fld.DLK_FLAG_LANE_SPARED : Fld := ⟨2, 2⟩
def Fld.DLK_FLAG_RETRY : Fld := ⟨1, 1⟩
def Fld.DLK_FLAG_LINK_DOWN : Fld := ⟨0, 0⟩
def Fld.DLK_CFG_EN : Fld := ⟨31, 31⟩
def Fld.DLK_CFG_PIN : Fld := ⟨30, 30⟩
def Fld.DLK_STAT_LAST_STATUS : Fld := ⟨31, 24⟩
def Fld.DLK_STAT_SPARED : Fld := ⟨23, 20⟩
def Fld.DLK_STAT_WIDTH : Fld := ⟨11, 8⟩
def Fld.DLK_STAT_STATE : Fld := ⟨2, 0⟩
def Fld.DLK_RETRY_COUNT : Fld := ⟨31, 0⟩
def Fld.DLK_CRC_ERR_COUNT : Fld := ⟨31, 0⟩
def Fld.DLK_REFOFF_PPM : Fld := ⟨15, 0⟩
def Fld.DLK_CTL_RETRAIN : Fld := ⟨0, 0⟩
def Fld.DBG_FLAG_REVOKED : Fld := ⟨4, 4⟩
def Fld.DBG_FLAG_BSCAN_REFUSED : Fld := ⟨3, 3⟩
def Fld.DBG_FLAG_ACC_ERR : Fld := ⟨2, 2⟩
def Fld.DBG_FLAG_LDG_DEBUG : Fld := ⟨1, 1⟩
def Fld.DBG_FLAG_HALTED : Fld := ⟨0, 0⟩
def Fld.DBG_IBC_CTL_IS_HALTED : Fld := ⟨8, 8⟩
def Fld.DBG_IBC_CTL_STEP_IRQ : Fld := ⟨4, 4⟩
def Fld.DBG_IBC_CTL_BRK_EN : Fld := ⟨3, 3⟩
def Fld.DBG_IBC_CTL_STEP : Fld := ⟨2, 2⟩
def Fld.DBG_IBC_CTL_RESUME : Fld := ⟨1, 1⟩
def Fld.DBG_IBC_CTL_HALT : Fld := ⟨0, 0⟩
def Fld.DBG_IBC_CAUSE_PC : Fld := ⟨29, 16⟩
def Fld.DBG_IBC_CAUSE_INDEX : Fld := ⟨6, 4⟩
def Fld.DBG_IBC_CAUSE_CAUSE : Fld := ⟨2, 0⟩
def Fld.DBG_IBC_REG_SEL_SHADOW : Fld := ⟨6, 6⟩
def Fld.DBG_IBC_REG_SEL_NUM : Fld := ⟨5, 0⟩
def Fld.DBG_IBC_REG_DATA_DATA : Fld := ⟨31, 0⟩
def Fld.DBG_IBC_BP_EN : Fld := ⟨31, 31⟩
def Fld.DBG_IBC_BP_ADDR : Fld := ⟨13, 0⟩
def Fld.DBG_IBC_WP_EN : Fld := ⟨31, 31⟩
def Fld.DBG_IBC_WP_MEM : Fld := ⟨30, 29⟩
def Fld.DBG_IBC_WP_KIND : Fld := ⟨28, 27⟩
def Fld.DBG_IBC_WP_ADDR : Fld := ⟨14, 0⟩
def Fld.DBG_IBC_WM_MASK : Fld := ⟨14, 0⟩
def Fld.DBG_TC_CTL_B_HALTED : Fld := ⟨17, 17⟩
def Fld.DBG_TC_CTL_A_HALTED : Fld := ⟨16, 16⟩
def Fld.DBG_TC_CTL_B_SEQ_EN : Fld := ⟨12, 12⟩
def Fld.DBG_TC_CTL_B_BRK_EN : Fld := ⟨11, 11⟩
def Fld.DBG_TC_CTL_B_OP : Fld := ⟨10, 8⟩
def Fld.DBG_TC_CTL_A_SEQ_EN : Fld := ⟨4, 4⟩
def Fld.DBG_TC_CTL_A_BRK_EN : Fld := ⟨3, 3⟩
def Fld.DBG_TC_CTL_A_OP : Fld := ⟨2, 0⟩
def Fld.DBG_TC_SEQA_SEQ : Fld := ⟨31, 0⟩
def Fld.DBG_TC_SEQB_SEQ : Fld := ⟨31, 0⟩
def Fld.DBG_TC_CAUSE_B_CAUSE : Fld := ⟨6, 4⟩
def Fld.DBG_TC_CAUSE_A_CAUSE : Fld := ⟨2, 0⟩
def Fld.LDG_REGION0_BASE_LO : Fld := ⟨31, 0⟩
def Fld.LDG_REGION1_BASE_HI : Fld := ⟨15, 0⟩
def Fld.LDG_REGION2_LEN : Fld := ⟨23, 0⟩
def Fld.LDG_REGION3_EXPORT : Fld := ⟨21, 21⟩
def Fld.LDG_REGION3_PEER_REG : Fld := ⟨20, 15⟩
def Fld.LDG_REGION3_PEER_LDG : Fld := ⟨14, 11⟩
def Fld.LDG_REGION3_LINK : Fld := ⟨10, 9⟩
def Fld.LDG_REGION3_KIND : Fld := ⟨8, 5⟩
def Fld.LDG_REGION3_CMD : Fld := ⟨4, 4⟩
def Fld.LDG_REGION3_WR : Fld := ⟨3, 3⟩
def Fld.LDG_REGION3_RD : Fld := ⟨2, 2⟩
def Fld.LDG_REGION3_VALID : Fld := ⟨1, 1⟩
def Fld.REL_SPARES_TOTAL : Fld := ⟨31, 16⟩
def Fld.REL_SPARES_LEFT : Fld := ⟨15, 0⟩

/-! The descriptors, block by block. -/

/-- Registers of block TC, part 0. -/
def RegMap.dTC0 : List RegDesc := [
  ⟨0x80, [], [⟨6, 6, .w1c, 0⟩, ⟨5, 5, .w1c, 0⟩, ⟨4, 4, .w1c, 0⟩, ⟨3, 3, .w1c, 0⟩, ⟨2, 2, .w1c, 0⟩, ⟨1, 1, .w1c, 0⟩, ⟨0, 0, .w1c, 0⟩]⟩,
  ⟨0x84, [], [⟨31, 0, .ro, 0⟩]⟩,
  ⟨0x90, [], [⟨16, 8, .ro, 256⟩, ⟨4, 4, .ro, 0⟩, ⟨3, 3, .ro, 0⟩, ⟨2, 2, .ro, 1⟩, ⟨1, 1, .ro, 0⟩, ⟨0, 0, .ro, 0⟩]⟩,
  ⟨0x94, [(2, 0x4)], [⟨28, 25, .ro, 0⟩, ⟨23, 16, .ro, 0⟩, ⟨15, 8, .ro, 0⟩, ⟨3, 0, .ro, 0⟩]⟩,
  ⟨0xa0, [], [⟨0, 0, .rw, 0⟩]⟩,
  ⟨0xa4, [(2, 0x4)], [⟨31, 24, .ro, 0⟩, ⟨23, 16, .ro, 0⟩, ⟨15, 8, .ro, 0⟩, ⟨2, 0, .ro, 0⟩]⟩,
  ⟨0xac, [(2, 0x4)], [⟨31, 0, .ro, 0⟩]⟩,
  ⟨0xb4, [(2, 0x4)], [⟨31, 16, .ro, 0⟩, ⟨15, 0, .rw, 0⟩]⟩,
  ⟨0xc0, [], [⟨3, 3, .w1c, 0⟩, ⟨2, 2, .w1c, 0⟩, ⟨1, 1, .w1c, 0⟩, ⟨0, 0, .w1c, 0⟩]⟩,
  ⟨0xc4, [], [⟨31, 0, .ro, 0⟩]⟩,
  ⟨0x100, [], [⟨10, 8, .ro, 0⟩, ⟨7, 6, .ro, 0⟩, ⟨5, 4, .ro, 0⟩, ⟨3, 2, .ro, 0⟩, ⟨1, 0, .ro, 0⟩]⟩,
  ⟨0x104, [], [⟨31, 31, .ro, 0⟩, ⟨24, 0, .ro, 0⟩]⟩,
  ⟨0x108, [], [⟨11, 8, .ro, 0⟩, ⟨4, 4, .ro, 0⟩, ⟨3, 3, .ro, 0⟩, ⟨2, 2, .ro, 0⟩, ⟨1, 1, .ro, 0⟩, ⟨0, 0, .ro, 0⟩]⟩,
  ⟨0x110, [(8, 0x4)], [⟨15, 15, .ro, 0⟩, ⟨14, 8, .ro, 0⟩, ⟨7, 0, .ro, 0⟩]⟩,
  ⟨0x130, [], [⟨2, 2, .w1c, 0⟩, ⟨1, 1, .w1c, 0⟩, ⟨0, 0, .w1c, 0⟩]⟩,
  ⟨0x134, [], [⟨31, 0, .ro, 0⟩]⟩,
  ⟨0x140, [], [⟨1, 1, .w1c, 0⟩, ⟨0, 0, .w1c, 0⟩]⟩,
  ⟨0x144, [], [⟨31, 0, .ro, 0⟩]⟩,
  ⟨0x148, [], [⟨23, 17, .ro, 0⟩, ⟨16, 16, .ro, 0⟩, ⟨15, 15, .ro, 0⟩, ⟨14, 8, .ro, 0⟩, ⟨1, 1, .ro, 0⟩, ⟨0, 0, .ro, 0⟩]⟩,
  ⟨0x180, [(4, 0x4)], [⟨25, 25, .rwl, 0⟩, ⟨24, 21, .rwl, 0⟩, ⟨20, 16, .rwl, 0⟩, ⟨15, 11, .rwl, 0⟩, ⟨10, 9, .rwl, 0⟩, ⟨8, 7, .rwl, 0⟩, ⟨6, 4, .rwl, 0⟩, ⟨3, 1, .rwl, 0⟩]⟩,
  ⟨0x190, [], [⟨5, 5, .ro, 0⟩, ⟨4, 4, .ro, 0⟩, ⟨1, 0, .ro, 0⟩]⟩,
  ⟨0x1a0, [(4, 0x4)], [⟨31, 0, .ro, 0⟩]⟩]
/-- Every register of block TC. -/
def RegMap.bTC : List RegDesc := RegMap.dTC0
/-- Registers of block MEM, part 0. -/
def RegMap.dMEM0 : List RegDesc := [
  ⟨0x0, [], [⟨24, 8, .ro, 0⟩, ⟨3, 0, .ro, 0⟩]⟩,
  ⟨0x4, [], [⟨23, 0, .ro, 0⟩]⟩,
  ⟨0x8, [], [⟨1, 0, .ro, 0⟩]⟩,
  ⟨0xc, [], [⟨9, 0, .ro, 0⟩]⟩,
  ⟨0x40, [], [⟨5, 5, .w1c, 0⟩, ⟨4, 4, .w1c, 0⟩, ⟨3, 3, .w1c, 0⟩, ⟨2, 2, .w1c, 0⟩, ⟨1, 1, .w1c, 0⟩, ⟨0, 0, .w1c, 0⟩]⟩,
  ⟨0x44, [], [⟨31, 0, .ro, 0⟩]⟩,
  ⟨0x48, [], [⟨31, 6, .ro, 0⟩]⟩,
  ⟨0x4c, [], [⟨15, 0, .ro, 0⟩]⟩,
  ⟨0x100, [(16, 0x20)], [⟨29, 20, .rwl, 0⟩, ⟨19, 10, .rwl, 0⟩, ⟨9, 0, .rwl, 0⟩]⟩,
  ⟨0x104, [(16, 0x20)], [⟨3, 0, .rwl, 3⟩]⟩,
  ⟨0x108, [(16, 0x20)], [⟨15, 0, .ro, 0⟩]⟩,
  ⟨0x10c, [(16, 0x20)], [⟨15, 0, .ro, 0⟩]⟩,
  ⟨0x110, [(16, 0x20)], [⟨15, 0, .ro, 0⟩]⟩,
  ⟨0x114, [(16, 0x20)], [⟨31, 0, .ro, 0⟩]⟩]
/-- Every register of block MEM. -/
def RegMap.bMEM : List RegDesc := RegMap.dMEM0
/-- Registers of block AIR, part 0. -/
def RegMap.dAIR0 : List RegDesc := [
  ⟨0x0, [], [⟨7, 7, .w1c, 0⟩, ⟨6, 6, .w1c, 0⟩, ⟨5, 5, .w1c, 0⟩, ⟨4, 4, .w1c, 0⟩, ⟨3, 3, .w1c, 0⟩, ⟨2, 2, .w1c, 0⟩, ⟨1, 1, .w1c, 0⟩, ⟨0, 0, .w1c, 0⟩]⟩,
  ⟨0x4, [], [⟨31, 0, .ro, 0⟩]⟩,
  ⟨0x100, [(8, 0x40)], [⟨31, 24, .rwl, 0⟩, ⟨23, 20, .rwl, 0⟩, ⟨19, 18, .rwl, 0⟩, ⟨17, 14, .rwl, 0⟩, ⟨13, 4, .rwl, 0⟩, ⟨3, 3, .rwl, 0⟩, ⟨2, 1, .rwl, 0⟩, ⟨0, 0, .rwl, 0⟩]⟩,
  ⟨0x104, [(8, 0x40)], [⟨25, 22, .rwl, 0⟩, ⟨21, 16, .rwl, 0⟩, ⟨10, 10, .rwl, 0⟩, ⟨9, 8, .rwl, 0⟩, ⟨7, 4, .rwl, 0⟩, ⟨3, 0, .rwl, 0⟩]⟩,
  ⟨0x108, [(8, 0x40)], [⟨31, 16, .rwl, 0⟩, ⟨15, 0, .rwl, 0⟩]⟩,
  ⟨0x10c, [(8, 0x40)], [⟨29, 20, .rwl, 0⟩, ⟨19, 10, .rwl, 0⟩, ⟨9, 0, .rwl, 0⟩]⟩,
  ⟨0x110, [(8, 0x40)], [⟨31, 0, .rwl, 0⟩]⟩,
  ⟨0x114, [(8, 0x40)], [⟨31, 16, .ro, 0⟩, ⟨1, 0, .ro, 0⟩]⟩,
  ⟨0x118, [(8, 0x40)], [⟨31, 0, .ro, 0⟩]⟩,
  ⟨0x11c, [(8, 0x40)], [⟨31, 0, .ro, 0⟩]⟩,
  ⟨0x120, [(8, 0x40)], [⟨0, 0, .wo, 0⟩]⟩,
  ⟨0x124, [(8, 0x40)], [⟨22, 16, .ro, 0⟩, ⟨9, 0, .ro, 0⟩]⟩]
/-- Every register of block AIR. -/
def RegMap.bAIR : List RegDesc := RegMap.dAIR0
/-- Registers of block FH, part 0. -/
def RegMap.dFH0 : List RegDesc := [
  ⟨0x0, [], [⟨12, 1, .rwl, 0⟩, ⟨0, 0, .rwl, 0⟩]⟩,
  ⟨0x4, [], [⟨15, 12, .rwl, 4⟩, ⟨11, 8, .rwl, 4⟩, ⟨7, 4, .rwl, 4⟩, ⟨3, 0, .rwl, 4⟩]⟩,
  ⟨0x40, [], [⟨7, 7, .w1c, 0⟩, ⟨6, 6, .w1c, 0⟩, ⟨5, 5, .w1c, 0⟩, ⟨4, 4, .w1c, 0⟩, ⟨3, 3, .w1c, 0⟩, ⟨2, 2, .w1c, 0⟩, ⟨1, 1, .w1c, 0⟩, ⟨0, 0, .w1c, 0⟩]⟩,
  ⟨0x44, [], [⟨31, 0, .ro, 0⟩]⟩]
/-- Every register of block FH. -/
def RegMap.bFH : List RegDesc := RegMap.dFH0
/-- Registers of block LDPC, part 0. -/
def RegMap.dLDPC0 : List RegDesc := [
  ⟨0x0, [], [⟨19, 15, .rwl, 31⟩, ⟨14, 10, .rwl, 31⟩, ⟨9, 5, .rwl, 31⟩, ⟨4, 0, .rwl, 31⟩]⟩,
  ⟨0x4, [], [⟨15, 0, .rwl, 0⟩]⟩,
  ⟨0x8, [], [⟨6, 4, .ro, 7⟩, ⟨3, 0, .ro, 0⟩]⟩,
  ⟨0xc, [], [⟨15, 0, .rwl, 0⟩]⟩,
  ⟨0x10, [], [⟨31, 0, .rw, 0⟩]⟩,
  ⟨0x14, [], [⟨15, 0, .rw, 0⟩]⟩,
  ⟨0x18, [], [⟨11, 8, .wo, 0⟩, ⟨0, 0, .wo, 0⟩]⟩,
  ⟨0x1c, [], [⟨9, 9, .ro, 0⟩, ⟨8, 8, .ro, 0⟩, ⟨7, 0, .ro, 0⟩]⟩,
  ⟨0x40, [], [⟨2, 2, .w1c, 0⟩, ⟨1, 1, .w1c, 0⟩, ⟨0, 0, .w1c, 0⟩]⟩,
  ⟨0x44, [], [⟨31, 0, .ro, 0⟩]⟩,
  ⟨0x100, [(8, 0x10)], [⟨14, 9, .rwl, 0⟩, ⟨7, 4, .rwl, 0⟩, ⟨3, 0, .rwl, 0⟩]⟩,
  ⟨0x104, [(8, 0x10)], [⟨21, 0, .rwl, 0⟩]⟩,
  ⟨0x200, [(16, 0x10)], [⟨21, 16, .rwl, 0⟩, ⟨15, 0, .rwl, 0⟩]⟩,
  ⟨0x204, [(16, 0x10)], [⟨15, 0, .rwl, 0⟩]⟩,
  ⟨0x400, [(18, 0x20)], [⟨31, 0, .rw, 0⟩]⟩,
  ⟨0x404, [(18, 0x20)], [⟨15, 0, .rw, 0⟩]⟩,
  ⟨0x408, [(18, 0x20)], [⟨19, 17, .wo, 0⟩, ⟨16, 0, .wo, 0⟩]⟩,
  ⟨0x40c, [(18, 0x20)], [⟨31, 31, .ro, 0⟩, ⟨23, 0, .ro, 0⟩]⟩,
  ⟨0x410, [(18, 0x20)], [⟨7, 0, .ro, 0⟩]⟩]
/-- Every register of block LDPC. -/
def RegMap.bLDPC : List RegDesc := RegMap.dLDPC0
/-- Registers of block IBC, part 0. -/
def RegMap.dIBC0 : List RegDesc := [
  ⟨0x0, [], [⟨31, 16, .rwl, 64⟩, ⟨0, 0, .rw, 0⟩]⟩,
  ⟨0x4, [], [⟨13, 0, .rwl, 0⟩]⟩,
  ⟨0x8, [], [⟨29, 16, .ro, 0⟩, ⟨6, 5, .ro, 0⟩, ⟨2, 0, .ro, 0⟩]⟩,
  ⟨0xc, [], [⟨29, 16, .rwl, 0⟩, ⟨13, 0, .rwl, 0⟩]⟩,
  ⟨0x10, [], [⟨7, 0, .rw, 0⟩]⟩,
  ⟨0x14, [], [⟨7, 0, .rw, 0⟩]⟩,
  ⟨0x18, [], [⟨7, 0, .w1c, 0⟩]⟩,
  ⟨0x1c, [], [⟨31, 0, .ro, 0⟩]⟩,
  ⟨0x20, [], [⟨7, 0, .w1s, 0⟩]⟩,
  ⟨0x24, [], [⟨11, 0, .rwl, 0⟩]⟩,
  ⟨0x28, [], [⟨31, 0, .rw, 0⟩]⟩,
  ⟨0x2c, [], [⟨31, 28, .ro, 0⟩, ⟨27, 20, .ro, 0⟩, ⟨13, 0, .ro, 0⟩]⟩,
  ⟨0x40, [], [⟨2, 2, .w1c, 0⟩, ⟨1, 1, .w1c, 0⟩, ⟨0, 0, .w1c, 0⟩]⟩,
  ⟨0x44, [], [⟨31, 0, .ro, 0⟩]⟩,
  ⟨0x48, [], [⟨3, 0, .ro, 0⟩]⟩]
/-- Every register of block IBC. -/
def RegMap.bIBC : List RegDesc := RegMap.dIBC0
/-- Registers of block SMP, part 0. -/
def RegMap.dSMP0 : List RegDesc := [
  ⟨0x0, [], [⟨7, 7, .w1c, 0⟩, ⟨6, 6, .w1c, 0⟩, ⟨5, 5, .w1c, 0⟩, ⟨4, 4, .w1c, 0⟩, ⟨3, 3, .w1c, 0⟩, ⟨2, 2, .w1c, 0⟩, ⟨1, 1, .w1c, 0⟩, ⟨0, 0, .w1c, 0⟩]⟩,
  ⟨0x4, [], [⟨31, 0, .ro, 0⟩]⟩,
  ⟨0x8, [], [⟨31, 31, .ro, 0⟩, ⟨29, 24, .ro, 0⟩, ⟨15, 15, .ro, 0⟩, ⟨13, 8, .ro, 0⟩]⟩,
  ⟨0x100, [(16, 0x20)], [⟨27, 0, .rwl, 0⟩]⟩,
  ⟨0x104, [(16, 0x20), (4, 0x4)], [⟨31, 31, .rwl, 0⟩, ⟨29, 24, .rwl, 0⟩, ⟨23, 0, .rwl, 0⟩]⟩,
  ⟨0x114, [(16, 0x20)], [⟨7, 4, .wo, 0⟩, ⟨3, 0, .wo, 0⟩]⟩,
  ⟨0x118, [(16, 0x20)], [⟨3, 0, .ro, 0⟩]⟩,
  ⟨0x1000, [(64, 0x20)], [⟨31, 31, .rwl, 0⟩, ⟨27, 24, .rwl, 0⟩, ⟨21, 16, .rwl, 0⟩]⟩,
  ⟨0x1004, [(64, 0x20)], [⟨23, 0, .rwl, 0⟩]⟩,
  ⟨0x1008, [(64, 0x20)], [⟨11, 0, .rw, 0⟩]⟩,
  ⟨0x100c, [(64, 0x20)], [⟨11, 0, .ro, 0⟩]⟩,
  ⟨0x1010, [(64, 0x20)], [⟨31, 0, .ro, 0⟩]⟩]
/-- Every register of block SMP. -/
def RegMap.bSMP : List RegDesc := RegMap.dSMP0
/-- Registers of block LDG, part 0. -/
def RegMap.dLDG0 : List RegDesc := [
  ⟨0x0, [], [⟨3, 3, .w1c, 0⟩, ⟨2, 2, .w1c, 0⟩, ⟨1, 1, .w1c, 0⟩, ⟨0, 0, .w1c, 0⟩]⟩,
  ⟨0x4, [], [⟨31, 0, .ro, 0⟩]⟩,
  ⟨0x8, [], [⟨10, 0, .rwl, 250⟩]⟩,
  ⟨0x100, [(16, 0x40)], [⟨31, 31, .rwl, 0⟩, ⟨30, 29, .rwl, 0⟩, ⟨28, 28, .rwl, 0⟩, ⟨27, 24, .rwl, 0⟩, ⟨23, 12, .rwl, 0⟩]⟩,
  ⟨0x104, [(16, 0x40)], [⟨31, 0, .rwl, 0⟩]⟩,
  ⟨0x108, [(16, 0x40)], [⟨31, 0, .rwl, 0⟩]⟩,
  ⟨0x10c, [(16, 0x40)], [⟨15, 0, .rwl, 0⟩]⟩,
  ⟨0x110, [(16, 0x40)], [⟨31, 0, .rwl, 0⟩]⟩,
  ⟨0x114, [(16, 0x40)], [⟨31, 0, .rwl, 0⟩]⟩,
  ⟨0x118, [(16, 0x40)], [⟨25, 16, .rwl, 0⟩, ⟨11, 0, .rwl, 0⟩]⟩,
  ⟨0x11c, [(16, 0x40)], [⟨9, 0, .rwl, 0⟩]⟩,
  ⟨0x120, [(16, 0x40)], [⟨10, 0, .rwl, 1000⟩]⟩,
  ⟨0x124, [(16, 0x40)], [⟨31, 24, .ro, 0⟩, ⟨22, 16, .ro, 0⟩, ⟨2, 0, .ro, 0⟩]⟩,
  ⟨0x128, [(16, 0x40)], [⟨31, 0, .ro, 0⟩]⟩,
  ⟨0x12c, [(16, 0x40)], [⟨31, 0, .ro, 0⟩]⟩,
  ⟨0x130, [(16, 0x40)], [⟨31, 0, .ro, 0⟩]⟩,
  ⟨0x134, [(16, 0x40)], [⟨1, 1, .wo, 0⟩, ⟨0, 0, .wo, 0⟩]⟩,
  ⟨0x4000, [(16, 0x400), (64, 0x10)], [⟨31, 0, .rwl, 0⟩]⟩,
  ⟨0x4004, [(16, 0x400), (64, 0x10)], [⟨15, 0, .rwl, 0⟩]⟩,
  ⟨0x4008, [(16, 0x400), (64, 0x10)], [⟨23, 0, .rwl, 0⟩]⟩,
  ⟨0x400c, [(16, 0x400), (64, 0x10)], [⟨21, 21, .rwl, 0⟩, ⟨20, 15, .rwl, 0⟩, ⟨14, 11, .rwl, 0⟩, ⟨10, 9, .rwl, 0⟩, ⟨8, 5, .rwl, 0⟩, ⟨4, 4, .rwl, 0⟩, ⟨3, 3, .rwl, 0⟩, ⟨2, 2, .rwl, 0⟩, ⟨1, 1, .rwl, 0⟩]⟩]
/-- Every register of block LDG. -/
def RegMap.bLDG : List RegDesc := RegMap.dLDG0
/-- Registers of block STG, part 0. -/
def RegMap.dSTG0 : List RegDesc := [
  ⟨0x0, [], [⟨2, 0, .wo, 0⟩]⟩,
  ⟨0x4, [], [⟨31, 24, .ro, 0⟩, ⟨19, 16, .ro, 0⟩, ⟨3, 3, .ro, 0⟩, ⟨2, 0, .ro, 0⟩]⟩,
  ⟨0x8, [], [⟨15, 8, .rw, 0⟩, ⟨3, 2, .rw, 0⟩, ⟨1, 0, .rw, 0⟩]⟩,
  ⟨0xc, [], [⟨31, 0, .rw, 0⟩]⟩,
  ⟨0x10, [], [⟨15, 0, .rw, 0⟩]⟩,
  ⟨0x14, [], [⟨31, 0, .rw, 0⟩]⟩,
  ⟨0x18, [], [⟨27, 16, .ro, 0⟩, ⟨15, 0, .ro, 0⟩]⟩,
  ⟨0x1c, [], [⟨31, 0, .ro, 0⟩]⟩,
  ⟨0x40, [], [⟨4, 4, .w1c, 0⟩, ⟨3, 3, .w1c, 0⟩, ⟨2, 2, .w1c, 0⟩, ⟨1, 1, .w1c, 0⟩, ⟨0, 0, .w1c, 0⟩]⟩,
  ⟨0x44, [], [⟨31, 0, .ro, 0⟩]⟩]
/-- Every register of block STG. -/
def RegMap.bSTG : List RegDesc := RegMap.dSTG0
/-- Registers of block TB, part 0. -/
def RegMap.dTB0 : List RegDesc := [
  ⟨0x0, [], [⟨13, 13, .w1c, 0⟩, ⟨12, 12, .w1c, 0⟩, ⟨11, 11, .w1c, 0⟩, ⟨10, 10, .w1c, 0⟩, ⟨9, 9, .w1c, 0⟩, ⟨8, 8, .w1c, 0⟩, ⟨7, 4, .w1c, 0⟩, ⟨3, 0, .w1c, 0⟩]⟩,
  ⟨0x4, [], [⟨31, 0, .ro, 0⟩]⟩,
  ⟨0x8, [], [⟨0, 0, .wo, 0⟩]⟩,
  ⟨0x10, [(4, 0x10)], [⟨15, 0, .ro, 0⟩]⟩,
  ⟨0x14, [(4, 0x10)], [⟨31, 0, .ro, 0⟩]⟩,
  ⟨0x18, [(4, 0x10)], [⟨31, 0, .ro, 0⟩]⟩,
  ⟨0x1c, [(4, 0x10)], [⟨15, 0, .ro, 0⟩]⟩,
  ⟨0x100, [(4, 0x40)], [⟨15, 0, .ro, 0⟩]⟩,
  ⟨0x104, [(4, 0x40)], [⟨31, 0, .ro, 0⟩]⟩,
  ⟨0x108, [(4, 0x40)], [⟨31, 0, .ro, 0⟩]⟩,
  ⟨0x10c, [(4, 0x40)], [⟨15, 0, .ro, 0⟩]⟩,
  ⟨0x110, [(4, 0x40)], [⟨31, 0, .rw, 2863311531⟩]⟩,
  ⟨0x114, [(4, 0x40)], [⟨7, 0, .rw, 1⟩]⟩,
  ⟨0x118, [(4, 0x40)], [⟨31, 0, .rw, 0⟩]⟩,
  ⟨0x11c, [(4, 0x40)], [⟨15, 0, .rw, 0⟩]⟩,
  ⟨0x120, [(4, 0x40)], [⟨31, 0, .rw, 0⟩]⟩,
  ⟨0x124, [(4, 0x40)], [⟨31, 0, .rw, 0⟩]⟩,
  ⟨0x128, [(4, 0x40)], [⟨15, 0, .rw, 0⟩]⟩,
  ⟨0x12c, [(4, 0x40)], [⟨8, 8, .w1s, 0⟩, ⟨1, 0, .wo, 0⟩]⟩,
  ⟨0x130, [(4, 0x40)], [⟨31, 24, .ro, 0⟩, ⟨1, 1, .ro, 0⟩, ⟨0, 0, .ro, 0⟩]⟩,
  ⟨0x134, [(4, 0x40)], [⟨31, 0, .ro, 0⟩]⟩]
/-- Registers of block TB, part 1. -/
def RegMap.dTB1 : List RegDesc := [
  ⟨0x138, [(4, 0x40)], [⟨31, 31, .rwl, 0⟩, ⟨30, 27, .rwl, 0⟩, ⟨19, 0, .rwl, 1000⟩]⟩,
  ⟨0x13c, [(4, 0x40)], [⟨13, 0, .rwl, 1000⟩]⟩,
  ⟨0x400, [(32, 0x20)], [⟨31, 31, .rwl, 0⟩, ⟨30, 30, .rwl, 0⟩, ⟨29, 26, .rwl, 0⟩, ⟨25, 24, .rwl, 0⟩, ⟨23, 23, .rwl, 0⟩, ⟨22, 20, .rwl, 0⟩, ⟨19, 19, .rwl, 0⟩, ⟨18, 18, .rwl, 0⟩, ⟨17, 17, .rwl, 0⟩, ⟨16, 12, .rwl, 0⟩, ⟨11, 0, .rwl, 0⟩]⟩,
  ⟨0x404, [(32, 0x20)], [⟨31, 0, .rw, 0⟩]⟩,
  ⟨0x408, [(32, 0x20)], [⟨31, 0, .rw, 0⟩]⟩,
  ⟨0x40c, [(32, 0x20)], [⟨15, 0, .rw, 0⟩]⟩,
  ⟨0x410, [(32, 0x20)], [⟨31, 0, .rw, 0⟩]⟩,
  ⟨0x414, [(32, 0x20)], [⟨15, 0, .rw, 0⟩]⟩,
  ⟨0x418, [(32, 0x20)], [⟨15, 0, .rw, 10⟩]⟩,
  ⟨0x41c, [(32, 0x20)], [⟨31, 16, .ro, 0⟩, ⟨8, 8, .ro, 0⟩, ⟨1, 1, .wo, 0⟩, ⟨0, 0, .wo, 0⟩]⟩,
  ⟨0x800, [(8, 0x20)], [⟨31, 31, .rwl, 0⟩, ⟨30, 30, .rwl, 0⟩, ⟨29, 26, .rwl, 0⟩, ⟨25, 24, .rwl, 0⟩, ⟨23, 22, .rwl, 0⟩, ⟨18, 18, .rwl, 0⟩, ⟨17, 17, .rwl, 0⟩, ⟨16, 12, .rwl, 0⟩, ⟨11, 0, .rwl, 0⟩]⟩,
  ⟨0x804, [(8, 0x20)], [⟨15, 0, .ro, 0⟩]⟩,
  ⟨0x808, [(8, 0x20)], [⟨31, 0, .ro, 0⟩]⟩,
  ⟨0x80c, [(8, 0x20)], [⟨31, 0, .ro, 0⟩]⟩,
  ⟨0x810, [(8, 0x20)], [⟨15, 0, .ro, 0⟩]⟩,
  ⟨0x814, [(8, 0x20)], [⟨31, 16, .ro, 0⟩, ⟨12, 12, .ro, 0⟩, ⟨11, 8, .ro, 0⟩, ⟨0, 0, .wo, 0⟩]⟩,
  ⟨0xa00, [(12, 0x10)], [⟨31, 31, .rwl, 0⟩, ⟨30, 29, .rwl, 0⟩, ⟨28, 28, .rwl, 0⟩, ⟨27, 27, .rwl, 0⟩, ⟨26, 26, .rwl, 0⟩, ⟨25, 25, .rwl, 0⟩, ⟨23, 12, .rwl, 0⟩]⟩,
  ⟨0xa04, [(12, 0x10)], [⟨15, 0, .rw, 0⟩]⟩,
  ⟨0xa08, [(12, 0x10)], [⟨15, 0, .rw, 0⟩]⟩,
  ⟨0xc00, [(2, 0x4)], [⟨31, 31, .rwl, 0⟩, ⟨27, 24, .rwl, 0⟩, ⟨17, 16, .rwl, 0⟩, ⟨8, 8, .ro, 0⟩]⟩]
/-- Every register of block TB. -/
def RegMap.bTB : List RegDesc := RegMap.dTB0 ++ RegMap.dTB1
/-- Registers of block SYNC, part 0. -/
def RegMap.dSYNC0 : List RegDesc := [
  ⟨0x0, [], [⟨1, 1, .w1c, 0⟩, ⟨0, 0, .w1c, 0⟩]⟩,
  ⟨0x4, [], [⟨31, 0, .ro, 0⟩]⟩,
  ⟨0x10, [], [⟨31, 20, .wo, 0⟩, ⟨19, 0, .wo, 0⟩]⟩,
  ⟨0x14, [], [⟨11, 0, .wo, 0⟩]⟩,
  ⟨0x8000, [(4096, 0x8)], [⟨31, 0, .ro, 0⟩]⟩,
  ⟨0x8004, [(4096, 0x8)], [⟨31, 0, .rw, 0⟩]⟩]
/-- Every register of block SYNC. -/
def RegMap.bSYNC : List RegDesc := RegMap.dSYNC0
/-- Registers of block REL, part 0. -/
def RegMap.dREL0 : List RegDesc := [
  ⟨0x0, [], [⟨11, 11, .w1c, 0⟩, ⟨10, 10, .w1c, 0⟩, ⟨9, 9, .w1c, 0⟩, ⟨8, 8, .w1c, 0⟩, ⟨7, 7, .w1c, 0⟩, ⟨6, 6, .w1c, 0⟩, ⟨5, 5, .w1c, 0⟩, ⟨4, 4, .w1c, 0⟩, ⟨3, 3, .w1c, 0⟩, ⟨2, 2, .w1c, 0⟩, ⟨1, 1, .w1c, 0⟩, ⟨0, 0, .w1c, 0⟩]⟩,
  ⟨0x4, [], [⟨31, 0, .ro, 0⟩]⟩,
  ⟨0x10, [], [⟨31, 28, .ro, 0⟩, ⟨27, 24, .ro, 0⟩, ⟨23, 20, .ro, 0⟩, ⟨19, 8, .ro, 0⟩, ⟨7, 0, .ro, 0⟩]⟩,
  ⟨0x14, [], [⟨31, 0, .ro, 0⟩]⟩,
  ⟨0x20, [], [⟨31, 0, .ro, 0⟩]⟩,
  ⟨0x24, [], [⟨31, 0, .ro, 0⟩]⟩,
  ⟨0x28, [], [⟨15, 0, .ro, 0⟩]⟩,
  ⟨0x2c, [], [⟨15, 0, .ro, 0⟩]⟩,
  ⟨0x100, [(16, 0x10)], [⟨31, 0, .ro, 0⟩]⟩,
  ⟨0x104, [(16, 0x10)], [⟨31, 0, .ro, 0⟩]⟩,
  ⟨0x108, [], [⟨31, 16, .ro, 40⟩, ⟨15, 0, .ro, 40⟩]⟩,
  ⟨0x118, [], [⟨31, 16, .ro, 8⟩, ⟨15, 0, .ro, 8⟩]⟩,
  ⟨0x128, [], [⟨31, 16, .ro, 40⟩, ⟨15, 0, .ro, 40⟩]⟩,
  ⟨0x138, [], [⟨31, 16, .ro, 24576⟩, ⟨15, 0, .ro, 24576⟩]⟩,
  ⟨0x148, [], [⟨31, 16, .ro, 0⟩, ⟨15, 0, .ro, 0⟩]⟩,
  ⟨0x158, [], [⟨31, 16, .ro, 2⟩, ⟨15, 0, .ro, 2⟩]⟩,
  ⟨0x168, [], [⟨31, 16, .ro, 1⟩, ⟨15, 0, .ro, 1⟩]⟩,
  ⟨0x178, [], [⟨31, 16, .ro, 0⟩, ⟨15, 0, .ro, 0⟩]⟩,
  ⟨0x188, [], [⟨31, 16, .ro, 0⟩, ⟨15, 0, .ro, 0⟩]⟩,
  ⟨0x198, [], [⟨31, 16, .ro, 4⟩, ⟨15, 0, .ro, 4⟩]⟩,
  ⟨0x1a8, [], [⟨31, 16, .ro, 128⟩, ⟨15, 0, .ro, 128⟩]⟩]
/-- Registers of block REL, part 1. -/
def RegMap.dREL1 : List RegDesc := [
  ⟨0x1b8, [], [⟨31, 16, .ro, 1⟩, ⟨15, 0, .ro, 1⟩]⟩,
  ⟨0x1c8, [], [⟨31, 16, .ro, 0⟩, ⟨15, 0, .ro, 0⟩]⟩,
  ⟨0x1d8, [], [⟨31, 16, .ro, 16⟩, ⟨15, 0, .ro, 16⟩]⟩,
  ⟨0x1e8, [], [⟨31, 16, .ro, 0⟩, ⟨15, 0, .ro, 0⟩]⟩,
  ⟨0x1f8, [], [⟨31, 16, .ro, 0⟩, ⟨15, 0, .ro, 0⟩]⟩,
  ⟨0x200, [(8, 0x4)], [⟨19, 16, .ro, 0⟩, ⟨11, 0, .ro, 1672⟩]⟩,
  ⟨0x220, [], [⟨31, 16, .ro, 0⟩, ⟨12, 8, .ro, 31⟩, ⟨4, 0, .ro, 31⟩]⟩,
  ⟨0x240, [(32, 0x4)], [⟨13, 8, .ro, 63⟩, ⟨3, 0, .ro, 15⟩]⟩,
  ⟨0x300, [], [⟨31, 16, .ro, 0⟩, ⟨15, 0, .ro, 0⟩]⟩,
  ⟨0x304, [], [⟨23, 16, .rwl, 50⟩, ⟨15, 0, .rwl, 880⟩]⟩,
  ⟨0x308, [], [⟨31, 0, .ro, 0⟩]⟩,
  ⟨0x30c, [], [⟨15, 8, .ro, 0⟩, ⟨4, 4, .ro, 0⟩, ⟨3, 3, .ro, 0⟩, ⟨2, 2, .ro, 0⟩, ⟨1, 0, .ro, 0⟩]⟩,
  ⟨0x310, [], [⟨31, 0, .ro, 0⟩]⟩,
  ⟨0x314, [], [⟨31, 0, .ro, 0⟩]⟩,
  ⟨0x400, [], [⟨4, 4, .wo, 0⟩, ⟨1, 0, .rw, 0⟩]⟩,
  ⟨0x404, [], [⟨31, 0, .rw, 0⟩]⟩,
  ⟨0x408, [], [⟨15, 0, .rw, 0⟩]⟩,
  ⟨0x40c, [], [⟨15, 8, .ro, 0⟩, ⟨2, 0, .ro, 0⟩]⟩]
/-- Every register of block REL. -/
def RegMap.bREL : List RegDesc := RegMap.dREL0 ++ RegMap.dREL1
/-- Registers of block CNT, part 0. -/
def RegMap.dCNT0 : List RegDesc := [
  ⟨0x3000, [(8, 0x10)], [⟨21, 21, .rw, 0⟩, ⟨20, 20, .rw, 0⟩, ⟨19, 16, .rw, 0⟩, ⟨15, 0, .rw, 0⟩]⟩,
  ⟨0x3004, [(8, 0x10)], [⟨31, 0, .rw, 0⟩]⟩,
  ⟨0x3008, [(8, 0x10)], [⟨15, 0, .rw, 0⟩]⟩,
  ⟨0x3080, [], [⟨7, 0, .w1c, 0⟩]⟩,
  ⟨0x3084, [], [⟨31, 0, .ro, 0⟩]⟩]
/-- Every register of block CNT. -/
def RegMap.bCNT : List RegDesc := RegMap.dCNT0
/-- Registers of block LEDG, part 0. -/
def RegMap.dLEDG0 : List RegDesc := [
  ⟨0x0, [], [⟨3, 3, .w1c, 0⟩, ⟨2, 2, .w1c, 0⟩, ⟨1, 1, .w1c, 0⟩, ⟨0, 0, .w1c, 0⟩]⟩,
  ⟨0x4, [], [⟨31, 0, .ro, 0⟩]⟩,
  ⟨0x8, [], [⟨31, 31, .rwl, 0⟩, ⟨29, 28, .rwl, 0⟩, ⟨25, 16, .rwl, 0⟩, ⟨9, 0, .rwl, 1000⟩]⟩,
  ⟨0xc, [], [⟨18, 0, .rw, 0⟩]⟩,
  ⟨0x10, [], [⟨18, 0, .ro, 0⟩]⟩,
  ⟨0x14, [], [⟨31, 0, .ro, 0⟩]⟩,
  ⟨0x100, [(16, 0x20)], [⟨31, 31, .rwl, 0⟩, ⟨29, 24, .rwl, 0⟩, ⟨23, 0, .rwl, 0⟩]⟩,
  ⟨0x104, [(16, 0x20)], [⟨15, 0, .rwl, 0⟩]⟩,
  ⟨0x108, [(16, 0x20)], [⟨15, 0, .rw, 0⟩]⟩,
  ⟨0x10c, [(16, 0x20)], [⟨15, 0, .ro, 0⟩]⟩]
/-- Every register of block LEDG. -/
def RegMap.bLEDG : List RegDesc := RegMap.dLEDG0
/-- Registers of block SEC, part 0. -/
def RegMap.dSEC0 : List RegDesc := [
  ⟨0x0, [], [⟨9, 9, .w1c, 0⟩, ⟨8, 8, .w1c, 0⟩, ⟨7, 7, .w1c, 0⟩, ⟨6, 6, .w1c, 0⟩, ⟨5, 5, .w1c, 0⟩, ⟨4, 4, .w1c, 0⟩, ⟨3, 3, .w1c, 0⟩, ⟨2, 2, .w1c, 0⟩, ⟨1, 1, .w1c, 0⟩, ⟨0, 0, .w1c, 0⟩]⟩,
  ⟨0x4, [], [⟨31, 0, .ro, 0⟩]⟩,
  ⟨0x8, [], [⟨31, 24, .ro, 176⟩, ⟨16, 10, .ro, 0⟩, ⟨9, 9, .ro, 0⟩, ⟨8, 8, .ro, 0⟩, ⟨1, 0, .ro, 0⟩]⟩,
  ⟨0x100, [(16, 0x20)], [⟨0, 0, .rwl, 0⟩]⟩,
  ⟨0x104, [(16, 0x20)], [⟨25, 25, .ro, 0⟩, ⟨24, 24, .ro, 0⟩, ⟨23, 0, .ro, 0⟩]⟩,
  ⟨0x108, [(16, 0x20)], [⟨31, 0, .ro, 0⟩]⟩,
  ⟨0x10c, [(16, 0x20)], [⟨31, 0, .ro, 0⟩]⟩,
  ⟨0x110, [(16, 0x20)], [⟨7, 4, .ro, 0⟩, ⟨0, 0, .ro, 0⟩]⟩,
  ⟨0x200, [(4, 0x10)], [⟨1, 1, .ro, 0⟩, ⟨0, 0, .ro, 0⟩]⟩,
  ⟨0x204, [(4, 0x10)], [⟨31, 0, .ro, 0⟩]⟩]
/-- Every register of block SEC. -/
def RegMap.bSEC : List RegDesc := RegMap.dSEC0
/-- Registers of block PWR, part 0. -/
def RegMap.dPWR0 : List RegDesc := [
  ⟨0x0, [], [⟨10, 10, .w1c, 0⟩, ⟨9, 9, .w1c, 0⟩, ⟨8, 8, .w1c, 0⟩, ⟨7, 7, .w1c, 0⟩, ⟨6, 6, .w1c, 0⟩, ⟨5, 5, .w1c, 0⟩, ⟨4, 4, .w1c, 0⟩, ⟨3, 3, .w1c, 0⟩, ⟨2, 2, .w1c, 0⟩, ⟨1, 1, .w1c, 0⟩, ⟨0, 0, .w1c, 0⟩]⟩,
  ⟨0x4, [], [⟨31, 0, .ro, 0⟩]⟩,
  ⟨0x8, [], [⟨31, 16, .ro, 0⟩, ⟨15, 8, .ro, 0⟩, ⟨5, 5, .ro, 0⟩, ⟨4, 4, .ro, 0⟩, ⟨3, 3, .ro, 0⟩, ⟨2, 0, .ro, 0⟩]⟩,
  ⟨0xc, [], [⟨0, 0, .wo, 0⟩]⟩,
  ⟨0x10, [], [⟨7, 6, .ro, 0⟩, ⟨5, 3, .ro, 0⟩, ⟨2, 0, .ro, 0⟩]⟩,
  ⟨0x14, [], [⟨2, 2, .wo, 0⟩, ⟨1, 1, .wo, 0⟩, ⟨0, 0, .wo, 0⟩]⟩,
  ⟨0x18, [], [⟨7, 0, .ro, 0⟩]⟩,
  ⟨0x20, [], [⟨31, 16, .ro, 0⟩, ⟨15, 0, .ro, 0⟩]⟩,
  ⟨0x24, [], [⟨15, 0, .rw, 0⟩]⟩,
  ⟨0x28, [], [⟨31, 16, .ro, 0⟩, ⟨15, 0, .ro, 0⟩]⟩,
  ⟨0x30, [], [⟨28, 24, .ro, 16⟩, ⟨20, 16, .ro, 16⟩, ⟨15, 0, .ro, 0⟩]⟩,
  ⟨0x34, [], [⟨23, 16, .ro, 115⟩, ⟨7, 0, .rwl, 105⟩]⟩,
  ⟨0x38, [], [⟨4, 0, .rw, 1⟩]⟩,
  ⟨0x40, [(16, 0x4)], [⟨31, 30, .ro, 0⟩, ⟨15, 0, .ro, 0⟩]⟩,
  ⟨0x100, [(11, 0x4)], [⟨31, 0, .rw, 0⟩]⟩,
  ⟨0x140, [(6, 0x4)], [⟨31, 0, .ro, 0⟩]⟩]
/-- Every register of block PWR. -/
def RegMap.bPWR : List RegDesc := RegMap.dPWR0
/-- Registers of block HIF, part 0. -/
def RegMap.dHIF0 : List RegDesc := [
  ⟨0x0, [], [⟨7, 7, .w1c, 0⟩, ⟨6, 6, .w1c, 0⟩, ⟨5, 5, .w1c, 0⟩, ⟨4, 4, .w1c, 0⟩, ⟨3, 3, .w1c, 0⟩, ⟨2, 2, .w1c, 0⟩, ⟨1, 1, .w1c, 0⟩, ⟨0, 0, .w1c, 0⟩]⟩,
  ⟨0x4, [], [⟨31, 0, .ro, 0⟩]⟩,
  ⟨0x8, [], [⟨10, 10, .ro, 0⟩, ⟨9, 4, .ro, 0⟩, ⟨3, 0, .ro, 0⟩]⟩,
  ⟨0xc, [], [⟨10, 0, .rw, 16⟩]⟩,
  ⟨0x100, [(16, 0x20)], [⟨31, 12, .rw, 0⟩]⟩,
  ⟨0x104, [(16, 0x20)], [⟨31, 0, .rw, 0⟩]⟩,
  ⟨0x108, [(16, 0x20)], [⟨31, 31, .rw, 0⟩, ⟨4, 0, .rw, 4⟩]⟩,
  ⟨0x10c, [(16, 0x20)], [⟨31, 16, .ro, 0⟩, ⟨15, 0, .rw, 0⟩]⟩,
  ⟨0x110, [(16, 0x20)], [⟨31, 12, .rw, 0⟩]⟩,
  ⟨0x114, [(16, 0x20)], [⟨31, 0, .rw, 0⟩]⟩,
  ⟨0x118, [(16, 0x20)], [⟨31, 31, .rw, 0⟩, ⟨23, 16, .rw, 0⟩, ⟨4, 0, .rw, 4⟩]⟩,
  ⟨0x11c, [(16, 0x20)], [⟨31, 16, .ro, 0⟩, ⟨15, 0, .rw, 0⟩]⟩,
  ⟨0x400, [(12, 0x20)], [⟨31, 12, .rw, 0⟩]⟩,
  ⟨0x404, [(12, 0x20)], [⟨31, 0, .rw, 0⟩]⟩,
  ⟨0x408, [(12, 0x20)], [⟨31, 12, .rw, 0⟩]⟩,
  ⟨0x40c, [(12, 0x20)], [⟨31, 0, .rw, 0⟩]⟩,
  ⟨0x410, [(12, 0x20)], [⟨31, 31, .rw, 0⟩, ⟨12, 8, .rw, 4⟩, ⟨4, 0, .rw, 4⟩]⟩,
  ⟨0x414, [(12, 0x20)], [⟨31, 16, .ro, 0⟩, ⟨15, 0, .rw, 0⟩]⟩,
  ⟨0x418, [(12, 0x20)], [⟨31, 16, .ro, 0⟩, ⟨15, 0, .rw, 0⟩]⟩]
/-- Every register of block HIF. -/
def RegMap.bHIF : List RegDesc := RegMap.dHIF0
/-- Registers of block DLK, part 0. -/
def RegMap.dDLK0 : List RegDesc := [
  ⟨0x0, [], [⟨5, 5, .w1c, 0⟩, ⟨4, 4, .w1c, 0⟩, ⟨3, 3, .w1c, 0⟩, ⟨2, 2, .w1c, 0⟩, ⟨1, 1, .w1c, 0⟩, ⟨0, 0, .w1c, 0⟩]⟩,
  ⟨0x4, [], [⟨31, 0, .ro, 0⟩]⟩,
  ⟨0x100, [(4, 0x40)], [⟨31, 31, .rwl, 0⟩, ⟨30, 30, .rwl, 0⟩]⟩,
  ⟨0x104, [(4, 0x40)], [⟨31, 24, .ro, 0⟩, ⟨23, 20, .ro, 15⟩, ⟨11, 8, .ro, 0⟩, ⟨2, 0, .ro, 0⟩]⟩,
  ⟨0x108, [(4, 0x40)], [⟨31, 0, .ro, 0⟩]⟩,
  ⟨0x10c, [(4, 0x40)], [⟨31, 0, .ro, 0⟩]⟩,
  ⟨0x110, [(4, 0x40)], [⟨15, 0, .ro, 0⟩]⟩,
  ⟨0x114, [(4, 0x40)], [⟨0, 0, .wo, 0⟩]⟩]
/-- Every register of block DLK. -/
def RegMap.bDLK : List RegDesc := RegMap.dDLK0
/-- Registers of block DBG, part 0. -/
def RegMap.dDBG0 : List RegDesc := [
  ⟨0x0, [], [⟨4, 4, .w1c, 0⟩, ⟨3, 3, .w1c, 0⟩, ⟨2, 2, .w1c, 0⟩, ⟨1, 1, .w1c, 0⟩, ⟨0, 0, .w1c, 0⟩]⟩,
  ⟨0x4, [], [⟨31, 0, .ro, 0⟩]⟩,
  ⟨0x100, [(16, 0x80)], [⟨8, 8, .ro, 0⟩, ⟨4, 4, .rw, 0⟩, ⟨3, 3, .rw, 0⟩, ⟨2, 2, .wo, 0⟩, ⟨1, 1, .wo, 0⟩, ⟨0, 0, .wo, 0⟩]⟩,
  ⟨0x104, [(16, 0x80)], [⟨29, 16, .ro, 0⟩, ⟨6, 4, .ro, 0⟩, ⟨2, 0, .ro, 0⟩]⟩,
  ⟨0x108, [(16, 0x80)], [⟨6, 6, .rw, 0⟩, ⟨5, 0, .rw, 0⟩]⟩,
  ⟨0x10c, [(16, 0x80)], [⟨31, 0, .rw, 0⟩]⟩,
  ⟨0x120, [(16, 0x80), (8, 0x4)], [⟨31, 31, .rw, 0⟩, ⟨13, 0, .rw, 0⟩]⟩,
  ⟨0x140, [(16, 0x80), (4, 0x8)], [⟨31, 31, .rw, 0⟩, ⟨30, 29, .rw, 0⟩, ⟨28, 27, .rw, 0⟩, ⟨14, 0, .rw, 0⟩]⟩,
  ⟨0x144, [(16, 0x80), (4, 0x8)], [⟨14, 0, .rw, 32767⟩]⟩,
  ⟨0xa00, [(32, 0x10)], [⟨17, 17, .ro, 0⟩, ⟨16, 16, .ro, 0⟩, ⟨12, 12, .rw, 0⟩, ⟨11, 11, .rw, 0⟩, ⟨10, 8, .wo, 0⟩, ⟨4, 4, .rw, 0⟩, ⟨3, 3, .rw, 0⟩, ⟨2, 0, .wo, 0⟩]⟩,
  ⟨0xa04, [(32, 0x10)], [⟨31, 0, .rw, 0⟩]⟩,
  ⟨0xa08, [(32, 0x10)], [⟨31, 0, .rw, 0⟩]⟩,
  ⟨0xa0c, [(32, 0x10)], [⟨6, 4, .ro, 0⟩, ⟨2, 0, .ro, 0⟩]⟩]
/-- Every register of block DBG. -/
def RegMap.bDBG : List RegDesc := RegMap.dDBG0

/-- The registers of block b (R194): its own, and the counter window every block holds (R494). -/
def RegMap.ofBlock (b : Nat) : List RegDesc :=
  match b with
  | 0 => RegMap.bLDG ++ RegMap.bCNT
  | 1 => RegMap.bSTG ++ RegMap.bCNT
  | 2 => RegMap.bTB ++ RegMap.bCNT
  | 3 => RegMap.bSYNC ++ RegMap.bCNT
  | 4 => RegMap.bLEDG ++ RegMap.bCNT
  | 5 => RegMap.bPWR ++ RegMap.bCNT
  | 6 => RegMap.bSEC ++ RegMap.bCNT
  | 7 => RegMap.bREL ++ RegMap.bCNT
  | 8 => RegMap.bHIF ++ RegMap.bCNT
  | 9 => RegMap.bDLK ++ RegMap.bCNT
  | 10 => RegMap.bFH ++ RegMap.bCNT
  | 11 => RegMap.bAIR ++ RegMap.bCNT
  | 12 => RegMap.bLDPC ++ RegMap.bCNT
  | 13 => RegMap.bSMP ++ RegMap.bCNT
  | 14 => RegMap.bMEM ++ RegMap.bCNT
  | 15 => RegMap.bDBG ++ RegMap.bCNT
  | b + 16 =>
    if b < 0x20 then RegMap.bTC ++ RegMap.bCNT
    else if b < 0x32 then RegMap.bIBC ++ RegMap.bCNT
    else []

/-- Whether an offset, taken from the register's first one, is one of an array's registers. -/
def RegMap.hits : List (Nat × Nat) → Nat → Bool
  | [], o => o == 0
  | (n, st) :: ds, o => decide (o / st < n) && RegMap.hits ds (o % st)

/-- The descriptor of the register at a byte offset of the control-register space, when a register lies there. -/
def RegMap.find (a : Nat) : Option RegDesc :=
  (RegMap.ofBlock (a / 0x10000)).find? fun d => decide (d.off ≤ a % 0x10000) && RegMap.hits d.dims (a % 0x10000 - d.off)

/-- The reset value of a register from its fields (R21). -/
def RegDesc.resetVal (d : RegDesc) : Nat := d.fields.foldl (fun n f => n + f.reset * 2 ^ f.lo) 0

/-- What a register reads as at reset: the value its table gives; 0 where no register lies. -/
def RegMap.reset (a : Nat) : Word :=
  match RegMap.find a with
  | some d => BitVec.ofNat 32 d.resetVal
  | none => 0

end Sys2Proof.Machine
end

