-- ==== Sys2Proof/Machine/Tbl.lean ====
section
/-! DEFINITION. Sparse tables in one canonical form: a list of (key, value) pairs with strictly rising keys and
no entry equal to what an unlisted key reads as. Every memory and every bank of like registers of the model is
one of these, so that equal contents are equal data. -/
namespace Sys2Proof

/-- A sparse table. What an unlisted key reads as is the default function given to each operation. -/
abbrev Tbl (α : Type) := List (Nat × α)

/-- Read the value at a key. -/
def tget {α : Type} (d : Nat → α) : Tbl α → Nat → α
  | [], k => d k
  | (j, v) :: t, k => if k = j then v else tget d t k

/-- Remove every entry of a key. -/
def tdel {α : Type} : Tbl α → Nat → Tbl α
  | [], _ => []
  | (j, v) :: t, k => if k = j then tdel t k else (j, v) :: tdel t k

/-- Put an entry in front of the first entry with a larger key. -/
def tins {α : Type} : Tbl α → Nat → α → Tbl α
  | [], k, v => [(k, v)]
  | (j, w) :: t, k, v => if k < j then (k, v) :: (j, w) :: t else (j, w) :: tins t k v

/-- Write the value at a key: the entry goes when the value is what an unlisted key reads as. -/
def tput {α : Type} [DecidableEq α] (d : Nat → α) (t : Tbl α) (k : Nat) (v : α) : Tbl α :=
  if v = d k then tdel t k else tins (tdel t k) k v

/-- Change the value at a key. -/
def tmod {α : Type} [DecidableEq α] (d : Nat → α) (t : Tbl α) (k : Nat) (f : α → α) : Tbl α :=
  tput d t k (f (tget d t k))

/-- The canonical form: every key above the bound, keys strictly rising, no entry at its default. -/
def twfFrom {α : Type} [DecidableEq α] (d : Nat → α) : Option Nat → Tbl α → Bool
  | _, [] => true
  | b, (j, v) :: t =>
    (match b with
     | none => true
     | some m => decide (m < j)) && !decide (v = d j) && twfFrom d (some j) t

/-- The canonical form of a whole table. -/
def twf {α : Type} [DecidableEq α] (d : Nat → α) (t : Tbl α) : Bool := twfFrom d none t

/-- Write n consecutive keys from a function of the index. -/
def tputN {α : Type} [DecidableEq α] (d : Nat → α) (f : Nat → α) (k : Nat) : Nat → Tbl α → Tbl α
  | 0, t => t
  | n + 1, t => tput d (tputN d f k n t) (k + n) (f n)

/-- Return every key from lo up to (not including) hi to its default. -/
def tclear {α : Type} (lo hi : Nat) : Tbl α → Tbl α
  | [] => []
  | (j, v) :: t => if lo ≤ j ∧ j < hi then tclear lo hi t else (j, v) :: tclear lo hi t

end Sys2Proof
end

