-- ==== Sys2Proof/Machine/State.lean ====
section
/-! DEFINITION. The state of the ZK960 as plain data, what it holds at reset, and the reasons a step can stop.
Everything that has a control register lives in the register file `regs`, keyed by its offset in the control-register
space; an unlisted register reads its reset value (R21). The rest of the state is in the structures below. -/
namespace Sys2Proof.Machine
open Sys2Proof

/-! ### Tensor cores (spec/02 to spec/05) -/

/-- The record of a stationary bank (R61) with the scales a load brought (R185). -/
structure BankRec where
  valid : Bool
  fmt : Nat
  n : Nat
  kp : Nat
  owner : Nat
  slot : Slot
  scaled : Bool
  gsize : Nat
  sfmt : Nat
  mxi8 : Bool
  koff : Nat
deriving DecidableEq, Repr

/-- No tile: the record after reset, teardown and binding (R61). -/
def BankRec.empty : BankRec := ⟨false, 0, 0, 0, 0, .a, false, 0, 0, false, 0⟩

/-- A slot's scale attachment (R184): the fields of its descriptor. -/
structure Attach where
  aScales : Nat
  aStride : Nat
  bScales : Nat
  bStride : Nat
  koff : Nat
  aSide : Nat
  aSideStride : Nat
  bSide : Nat
  bSideStride : Nat
  gsize : Nat
  sfmt : Nat
  aOn : Bool
  bOn : Bool
  aMxi8 : Bool
  bMxi8 : Bool
  p : Nat
deriving DecidableEq, Repr

/-- No attachment. -/
def Attach.off : Attach := ⟨0, 0, 0, 0, 0, 0, 0, 0, 0, 0, 0, false, false, false, false, 0⟩

/-- Running state of one row of an ATT between chunks (R243): m, s and o of att_row, tokens seen. -/
structure RowSt where
  m : Nat
  sum : Nat
  o : List Nat
  seen : Nat
deriving DecidableEq, Repr

/-- A command that a slot has issued and that has not completed (R94 to R98). -/
structure CmdEntry where
  /-- position in the slot's stream -/
  seq : Nat
  /-- the command word -/
  w : CmdWord
  /-- the 64-byte descriptor read at decode (R105, R109) -/
  desc : Nat
  /-- the attachment at issue (R184) -/
  att : Attach
  /-- the status it will end with -/
  st : Nat
  /-- its arithmetic events -/
  ev : Nat
  /-- its effect has been made -/
  done : Bool
  /-- units of it that are finished: output blocks of a TILE, chunks of an ATT, tokens of an APPEND, rows -/
  prog : Nat
  /-- a drain of it is writing into its buffer (R133) -/
  passed : Bool
  /-- a ring entry was claimed at issue (R97) -/
  claimed : Bool
  /-- for a waiting drain: TB_WAIT has been set (R133); for a waiting APPEND or ATT chunk: its stall is counted -/
  warned : Bool
  /-- the blocks an ATT attends over (R241); the step maxima of a QNT or RECORD, FP32 patterns (R179) -/
  sel : List Nat
  /-- LEN sampled when an ATT began (R240) -/
  len : Nat
  /-- place in the core's order of issue (R161) -/
  stamp : Nat
  /-- the bank a TILE's first load goes into (R82); the table bank of an SFN (R161) -/
  bank : Nat
  /-- the rows of an ATT, as far as its chunks have run (R243) -/
  rows : List RowSt
  /-- it has begun on its unit (R95, R119) -/
  begun : Bool
  /-- pass groups a TILE has run (R86) -/
  grp : Nat
  /-- the finished-tile entry of the drain in progress (R135) -/
  ent : Nat
  /-- a non-preemptible unit of it ran past the slice (R124, R408) -/
  ovr : Bool
  /-- lane groups whose residue or parity check failed: its attempt waits for recovery (R54) -/
  fault : Nat
  /-- it has ended and waits for a ring entry (R97) -/
  ended : Bool
deriving DecidableEq, Repr

/-- A move in a slot's move queue (R111, R112, R115, R118). -/
structure MoveEntry where
  seq : Nat
  w : CmdWord
  src : Nat
  dst : Nat
  /-- length in 64-byte units -/
  units : Nat
  /-- units read and written so far -/
  done : Nat
  /-- regulator classes its route touches: bit 0 read, 1 write, 2 remote (R113) -/
  classes : Nat
  /-- its WAIT object has reached its threshold, or it has no WAIT (R111, R456) -/
  released : Bool
  started : Bool
  st : Nat
  /-- the round of a ROT, from 0 (R116) -/
  round : Nat
  claimed : Bool
  /-- word 3 of the source and destination descriptors, read at decode (R206) -/
  sw : Word
  dw : Word
  /-- remote units, or the page transfer, answered by the peer (R601) -/
  acked : Nat
deriving DecidableEq, Repr

/-- What a slot waits for in WAIT, FENCE, MARK or END (R99). -/
inductive SlotWait where
  | none
  | obj (o : Nat) (thresh : Nat) (seq : Nat) (w : CmdWord)
  | drain (seq : Nat) (w : CmdWord)
deriving DecidableEq, Repr

/-- One stream slot of one partition (R92 to R98). TC.SLOT_STAT, TC.SLOT_SEQ, TC.SLOT_CRING and TC.QATTACH are views of
the slots of the lodging that holds the core. -/
structure TcSlot where
  /-- named by the running waybill of `ldg` -/
  active : Bool
  /-- STATE of R126: 0 IDLE, 1 RUN, 2 WAITING, 3 STOPPED, 4 HALTED -/
  st : Nat
  lastOp : Nat
  stopStatus : Nat
  /-- SEQ of the next command (R127) -/
  seq : Nat
  /-- HEAD and TAIL of the completion ring (R128) -/
  head : Nat
  tail : Nat
  ldg : Nat
  /-- device address of the command buffer -/
  buf : Nat
  /-- device address and records of the completion ring (R96) -/
  ring : Nat
  ringN : Nat
  /-- ring entries claimed at issue and not yet written (R97) -/
  claimed : Nat
  inflight : List CmdEntry
  moves : List MoveEntry
  wait : SlotWait
  /-- the slot has completed END -/
  ended : Bool
  att : Attach
  /-- the bank its next macro load goes into (R82) -/
  nextBank : Nat
  /-- resumed or stepped at a SEQ match: the match does not halt again (R637) -/
  skipSeq : Bool
  /-- a debug step lets one command through (R637) -/
  step : Bool
  /-- stalled for want of a ring entry (R97) -/
  stalled : Bool
deriving DecidableEq, Repr

/-- A slot no waybill has started. -/
def TcSlot.idle : TcSlot :=
  ⟨false, 0, 0, 0, 0, 0, 0, 0, 0, 0, 0, 0, [], [], .none, false, Attach.off, 0, false, false, false⟩

/-- One cell of an accumulator row in one lane: 40 bits, the mode tag FLT (R36), the stored residue modulo 3 (R52). -/
structure AccCell where
  v : BitVec 40
  flt : Bool
  res : BitVec 2
deriving DecidableEq, Repr

/-- A cell set to 0 (R36). -/
def AccCell.zero : AccCell := ⟨0, false, 0⟩

/-- The last command the engine began was this LDS of a slot; `seq` is the next command's (R120). -/
structure LdsHold where
  p : Nat
  sl : Slot
  seq : Nat
  bank : Nat
deriving DecidableEq, Repr

/-- One table-directory entry (R160). -/
structure DirEnt where
  kind : Nat
  nseg : Nat
  mono : Bool
  lo : Word
  hi : Word
deriving DecidableEq, Repr

/-- An unused table slot. -/
def DirEnt.unused : DirEnt := ⟨0, 0, false, 0, 0⟩

/-- A tensor core's state beyond its registers. -/
structure Tc where
  /-- stream slots: key 2 · partition + slot (0 A, 1 B); a dedicated core uses partition 0 -/
  slots : Tbl TcSlot
  /-- accumulators: key 128 · row + lane (R56) -/
  acc : Tbl AccCell
  /-- stationary banks: key 8192 · bank + 64 · lane + byte (R56) -/
  bank : Tbl Byte
  /-- scales a bank holds: key 1024 · bank + 8 · lane + group (R185) -/
  bankScale : Tbl Half
  rec0 : BankRec
  rec1 : BankRec
  /-- issue records of the banks: the last load issued on each (R61, R121) -/
  iss0 : BankRec
  iss1 : BankRec
  /-- tile buffers: key (256 · buffer + row) · 128 + column (R130) -/
  tbuf : Tbl Word
  /-- EMPTY bits: key 256 · buffer + row (R132) -/
  empty : Tbl Bool
  /-- buffer states 0 FREE, 1 DRAINING, 2 HELD: key 4 · partition + buffer (R131, R133) -/
  tbState : Tbl Nat
  /-- finished-tile queues: key partition (R134) -/
  ftq : Tbl (List Nat)
  /-- table banks: key 4096 · bank + offset (R159) -/
  table : Tbl Byte
  /-- table directories: key 4 · bank + slot (R159) -/
  dir : Tbl DirEnt
  /-- stationary shadows of pooled partitions: key 16384 · partition + bank key (R79) -/
  shBank : Tbl Byte
  shScale : Tbl Half
  shRec : Tbl BankRec
  /-- table shadows of pooled partitions: key 8192 · partition + table key (R162) -/
  shTable : Tbl Byte
  shDir : Tbl DirEnt
  /-- active bank and loaded bits of a partition's shadow: key partition (R162) -/
  shAct : Tbl Nat
  /-- pooled core: lodgings of the round still to run (R405) -/
  round : List Nat
  /-- the slot each unit served last: key unit (R119) -/
  served : Tbl Slot
  /-- the LDS the engine does not leave before the slot's PASS on its bank (R120) -/
  hold : Option LdsHold
  /-- ENG cycles left of the ramp (R75, R77) -/
  ramp : Nat
  /-- commands entered in flight so far -/
  issued : Nat
  /-- ROTs the core has issued since its lodging's waybill was dispatched (R116) -/
  rots : Nat
  /-- pooled core: commands whose unit in progress has run past the end of the slice (R408): slot and position -/
  late : List (Slot × Nat)
deriving DecidableEq, Repr

/-- A tensor core after reset: every cell 0 (R36, R138), every buffer FREE, no tile, no table. -/
def Tc.reset : Tc :=
  ⟨[], [], [], [], BankRec.empty, BankRec.empty, BankRec.empty, BankRec.empty, [], [], [], [], [], [], [], [], [], [], [], [],
    [], [], none, 0, 0, 0, []⟩


/-! ### Page manager (spec/07) -/

/-- A pool of a lodging (R228): everything else of it lies in its control record and structures in memory. -/
structure KvPool where
  live : Bool
  /-- the software fields of its configuration, 56 bytes, as POOL read them -/
  cfg : Nat
  /-- device address of its control record -/
  meta_ : Nat
  /-- next ORDER and ARRIVAL (R231) -/
  order : Nat
  arrival : Nat
deriving DecidableEq, Repr

/-- No pool. -/
def KvPool.none : KvPool := ⟨false, 0, 0, 0, 0⟩

/-- What the page-manager queue of a lodging carries (R251). -/
inductive KvKind where
  | fetch | prefetch | spill
deriving DecidableEq, Repr

/-- A spill, fetch or prefetch under way or waiting for a slot (R250 to R252). -/
structure KvMove where
  l : Nat
  pool : Nat
  page : Nat
  kind : KvKind
  /-- spill unit written, or vacated by a fetch -/
  unit : Nat
  /-- it has a slot and its data moves -/
  started : Bool
  /-- spill: its slot already serves a new page; fetch: its unit already serves a spill -/
  taken : Bool
  units : Nat
  done : Nat
  /-- its page was released while it moves: it is freed when the move ends (R235) -/
  dead : Bool
deriving DecidableEq, Repr

/-- A page that a transfer sends or writes: it shows MOVING, and is spilled, freed or replaced only afterwards (R230, R235). -/
structure KvXfer where
  l : Nat
  pool : Nat
  page : Nat
  /-- the place it had and goes back to: 1 its slot, 2 its spill unit, 0 a spill or fetch settles it -/
  st : Nat
  slot : Nat
  unit : Nat
  /-- it was released meanwhile -/
  dead : Bool
  /-- a copy that has arrived whole: its place, FILL and summary (R257) -/
  swap : Option (Nat × List Byte)
deriving DecidableEq, Repr

/-- A page-manager function that has begun and whose waybill has been torn down: it completes (R234, R416). -/
structure KvRest where
  c : Nat
  p : Nat
  l : Nat
  sl : Slot
  e : CmdEntry
deriving DecidableEq, Repr

/-- A page-manager function waiting for its turn (R234). -/
structure KvWait where
  l : Nat
  pool : Nat
  c : Nat
  p : Nat
  sl : Slot
  seq : Nat
deriving DecidableEq, Repr

/-! ### Device links (spec/18) -/

/-- Which operation a link operation serves. -/
inductive LinkSrc where
  | move (c p : Nat) (sl : Slot) (seq addr : Nat)
  | page (c p : Nat) (sl : Slot) (seq : Nat)
  | xfer (n id addr : Nat)
  /-- a page that a peer is putting: the pool and page it names here, the status its checks gave -/
  | peer (pool page st : Nat)
deriving DecidableEq, Repr

/-- An operation this end has asked of a peer (R601). -/
structure LinkOp where
  link : Nat
  op : Nat
  kind : Nat
  ldg : Nat
  src : LinkSrc
  /-- CTL cycle of its request -/
  since : Nat
  /-- page bytes received so far (KIND 7) -/
  got : Nat
  /-- landing place of a PAGE_GET: a device address, 0 before the first record -/
  land : Nat
deriving DecidableEq, Repr

/-- A record handed to a link's transmitter and not yet acknowledged (R598, R600). -/
structure LinkRec where
  kind : Nat
  last : Bool
  src : Nat
  dst : Nat
  reg : Nat
  status : Nat
  op : Nat
  addr : Nat
  data : List Byte
  seq : Nat
  /-- count of data flits sent up to and with its last flit -/
  flit : Nat
deriving DecidableEq, Repr

/-! ### Time bases, comparators, captures (spec/13) -/

/-- A time base (R434 to R440). Times are in units of 2⁻³² ns, seconds included. -/
structure TimeBase where
  running : Bool
  t : Nat
  /-- increment in use -/
  incr : Nat
  /-- a low word written and not yet applied (R438) -/
  lo : Option Nat
  /-- an increment to apply, and in how many ticks (R438) -/
  next : Option (Nat × Nat)
  /-- remaining slew (R439) -/
  rem : Int
  /-- CTL cycle at which the override was armed (R440) -/
  ovr : Option Nat
  /-- a SET that starts it in the next tick (R435) -/
  start : Option Nat
deriving DecidableEq, Repr

/-- A time base after reset: STOPPED, 0, the nominal increment (R435, R438). -/
def TimeBase.reset : TimeBase := ⟨false, 0, 0x1AAAAAAAB, none, none, 0, none, none⟩

/-- A comparator's live arming (R443). -/
structure Cmp where
  armed : Bool
  due : Nat
  per : Nat
  missed : Nat
deriving DecidableEq, Repr

/-- A disarmed comparator. -/
def Cmp.off : Cmp := ⟨false, 0, 0, 0⟩

/-- A pulse in progress on a TRIG pin (R445): its comparator, its pin, its end in CTL cycles. -/
structure Pulse where
  k : Nat
  pin : Nat
  fin : Nat
deriving DecidableEq, Repr

/-- One captured edge (R447). -/
structure Edge where
  t : Nat
  seq : Nat
  fall : Bool
deriving DecidableEq, Repr

/-- A capture unit (R447). -/
structure Capt where
  seq : Nat
  fifo : List Edge
  /-- CTL cycle of the previous detected edge -/
  last : Option Nat
deriving DecidableEq, Repr

/-- A capture unit after reset. -/
def Capt.reset : Capt := ⟨0, [], none⟩

/-! ### Host rings (spec/18) -/

/-- A completion in the hold (R589, R590): kind, the 32 record bytes as one number, the submission index. -/
structure Cpl where
  kind : Nat
  body : Nat
  idx : Nat
deriving DecidableEq, Repr

/-- A submission entry taken or delivered by a bounce record (R586, R591): its 64 bytes as one number, its index. -/
structure Sub where
  bytes : Nat
  idx : Nat
deriving DecidableEq, Repr

/-- A host copy under way (R588): the number of its entry in the order of taking, the entry, the bytes a confidential
device-to-host copy has handed to bounce records (R591). -/
structure HCopy where
  no : Nat
  e : Sub
  done : Nat
  /-- its units have been put to the regulator (R216, R588) -/
  paid : Bool
deriving DecidableEq, Repr

/-- What the device keeps of a lodging's rings beyond their registers. -/
structure Rings where
  /-- completions held (R590) -/
  hold : List Cpl
  /-- completion number (R589) -/
  seq : Nat
  /-- entries taken so far -/
  taken : Nat
  /-- entries taken and not completed -/
  open_ : List Nat
  /-- NOP entries waiting: number, index, tag (R587) -/
  nops : List (Nat × Nat × Nat)
  /-- entries a bounce record brought (R591) -/
  subs : List Sub
  copies : List HCopy
  /-- CTL cycle of the last completion message, and an entry not yet signalled (R583) -/
  msgAt : Option Nat
  msgDue : Bool
  /-- the head record waited for ring room: CQ_STALL is set -/
  stalled : Bool
  /-- PHASE of the present pass through the completion ring (R589) -/
  phase : Bool
deriving DecidableEq, Repr

/-- Rings nothing has used. -/
def Rings.none : Rings := ⟨[], 0, 0, [], [], [], [], Option.none, false, false, true⟩

/-! ### Iambel cores (spec/10) -/

/-- The registers that exist twice (R333). -/
structure IbSet where
  /-- D0 to D15 -/
  d : Tbl Word
  /-- address generators: key 8 · field + generator (AX0–3, AY0–3); fields address, step, base, length -/
  ag : Tbl Half
  agmode : Half
  st : Word
deriving DecidableEq, Repr

/-- A register set after reset. -/
def IbSet.reset : IbSet := ⟨[], [], 0, 0⟩

/-- A running loop (R354, R355): first and last word, the words cached at its start. -/
structure IbLoop where
  first : Nat
  last : Nat
  words : List Word
  /-- a body of at most 32 entries issues from the cache after its first iteration -/
  small : Bool
  again : Bool
deriving DecidableEq, Repr

/-- What an interrupt saves (R364). -/
structure IbSave where
  pc : Nat
  st : Word
  lc : Nat
  loop : Option IbLoop
deriving DecidableEq, Repr

/-- Nothing saved. -/
def IbSave.none : IbSave := ⟨0, 0, 0, Option.none⟩

/-- Where a result in flight lands (R335, R337). -/
inductive IbDst where
  | d (k : Nat)
  | dL (k : Nat)
  | dH (k : Nat)
  | ac (k : Nat)
  | acHi (k : Nat)
  | acLo (k : Nat)
  | acGuard (k : Nat)
  | ag (key : Nat)
  | agmode
  | st
  | stOr (mask : Nat)
  | flags (nz cv : Bool)
  | shift
  | lc
  | bexp
deriving DecidableEq, Repr

/-- A result in flight: the cycle it is seen from, its place in R339's order, the set that issued it. -/
structure IbWrite where
  due : Nat
  cls : Nat
  set : Bool
  dst : IbDst
  v : Int
deriving DecidableEq, Repr

/-- A CREG read that has not landed (R361, R365): its register set, Dn, the value read, the cycle of its issue. -/
structure IbRead where
  set : Bool
  d : Nat
  v : Word
  since : Nat
deriving DecidableEq, Repr

/-- A transfer in the queue (R360). -/
structure IbXfer where
  /-- its number in the core's order of issue -/
  id : Nat
  toCore : Bool
  /-- device addresses -/
  local_ : Nat
  addr : Nat
  /-- length in 16-byte units, and units moved -/
  units : Nat
  done : Nat
  obj : Nat
  sig : Bool
  /-- word 3 of the region descriptor -/
  w3 : Word
  started : Bool
  st : Nat
  acked : Nat
  pc : Nat
deriving DecidableEq, Repr

/-- Everything a checkpoint holds (R368). -/
structure IbArch where
  base : IbSet
  shadow : IbSet
  /-- the high handler's set is the active one -/
  high : Bool
  acc : Tbl Int
  lc : Nat
  loop : Option IbLoop
  ras : List Nat
  bexp : Int
  /-- least headroom tracked, if any (R351) -/
  head : Option Int
  /-- repetitions still to issue and the words of the repeat register (R356) -/
  rep : Option (Nat × Word × Word)
  pc : Nat
  /-- FAB cycle of the next issue -/
  cyc : Nat
  flight : List IbWrite
  low : IbSave
  hi : IbSave
deriving DecidableEq, Repr

/-- A core's registers after reset. -/
def IbArch.reset : IbArch :=
  ⟨IbSet.reset, IbSet.reset, false, [], 0, none, [], 0, none, none, 0, 0, [], IbSave.none, IbSave.none⟩

/-- An Iambel core's state beyond its registers and memories. -/
structure Ibc where
  a : IbArch
  /-- STATE of R371: 0 STOPPED, 1 RUN, 2 WAITING, 3 IDLE, 4 TRAPPED, 5 HALTED -/
  st : Nat
  /-- the last checkpoint, its cycle, and the undo log since, newest first: each byte written, its old and its new
  value (R368) -/
  ck : IbArch
  ckAt : Nat
  undo : List (Nat × Byte × Byte)
  xq : List IbXfer
  xno : Nat
  reads : List IbRead
  /-- the object and threshold of a WAITS (R359) -/
  waits : Nat × Nat
  /-- CTL.RUN = 0 written inside a REP (R370) -/
  stopReq : Bool
  /-- debug (R633 to R635): a halt asked for inside a REP, STATE before the halt, a step under way, the breakpoint at
  PC has halted already, a watchpoint that matched -/
  haltReq : Bool
  preHalt : Nat
  stepping : Bool
  skipBp : Bool
  wp : Option Nat
deriving DecidableEq, Repr

/-- An Iambel core after reset: STOPPED. -/
def Ibc.reset : Ibc := ⟨IbArch.reset, 0, IbArch.reset, 0, [], [], 0, [], (0, 0), false, false, 0, false, false, none⟩

/-! ### Lodgings and staging (spec/12) -/

/-- A slot entry of a waybill (R409). -/
structure WbSlot where
  core : Nat
  sl : Slot
  buf : Nat
  ring : Nat
  ringN : Nat
deriving DecidableEq, Repr

/-- An admitted waybill (R409, R410). -/
structure Wb where
  id : Nat
  /-- its submission entry: number and index -/
  no : Nat
  idx : Nat
  slots : List WbSlot
  ibc : Nat
  yieldObj : Option Nat
  doneObj : Option Nat
  /-- device addresses of its output markers -/
  outs : List Nat
  limit : Nat
  bq : Nat
deriving DecidableEq, Repr

/-- A lodging's waybills. -/
structure Lodge where
  queue : List Wb
  run : Option Wb
  /-- CTL cycle of dispatch; CTL cycles spent in DEBUG since; when the lodging entered DEBUG (R415, R639) -/
  since : Nat
  inDebug : Nat
  dbgAt : Option Nat
  /-- CTL cycle of the instant from which it yields (R425) -/
  yieldAt : Option Nat
  /-- Iambel cores of the running waybill that have ended through STOP (R412) -/
  stopped : Nat
deriving DecidableEq, Repr

/-- A lodging without waybills. -/
def Lodge.idle : Lodge := ⟨[], none, 0, 0, none, none, 0⟩

/-- A resource that a commit moves (R401, R425). -/
inductive Res where
  | core (c : Nat)
  | part (c p : Nat)
  | iambel (n : Nat)
  | sync (k : Nat)
  | granule (a : Nat)
  | port (p : Nat)
  | engine (k : Nat)
deriving DecidableEq, Repr

/-- A resource still held for the lodging it leaves (R425). -/
structure Release where
  res : Res
  from_ : Nat
  /-- the waybill of the lodging that holds it: number of its submission entry -/
  wb : Option Nat
  /-- carriers hold it until these times (2⁻³² ns) of their time bases: time base, time -/
  car : List (Nat × Nat)
  /-- the address range of a partition when it left (R401) -/
  lo : Nat
  hi : Nat
  rows : Nat × Nat
  tb : Nat × Nat
  /-- staged values of an Iambel core's registers, which replace the reset values of its clearing (R329, R553) -/
  vals : List (Nat × Word)
deriving DecidableEq, Repr

/-- The staging (R420 to R424). -/
structure Staging where
  /-- staged values by register -/
  vals : List (Nat × Word)
  /-- CTL cycle of the last write or operation -/
  at_ : Nat
  releases : List Release
  /-- partitions (core, partition) to clear for their new lodging once nothing of their core is held -/
  enter : List (Nat × Nat)
  /-- the first commit since the start was applied: the window of R20 is closed -/
  closed : Bool
deriving DecidableEq, Repr

/-- No staging. -/
def Staging.none : Staging := ⟨[], 0, [], [], false⟩

/-! ### Air path (spec/08, spec/09) -/

/-- A transport block of a slot order (R275) and what has become of it. -/
structure Blk where
  tbs : Nat
  rnti : Nat
  nid : Nat
  prb0 : Nat
  nprb : Nat
  sym0 : Nat
  nsym : Nat
  layer0 : Nat
  nlt : Nat
  code : Nat
  harq : Nat
  /-- device address of the payload -/
  data : Nat
  /-- coded bits and bits per RE (R275) -/
  g : Nat
  qm : Nat
  /-- soft buffer: 0 S7 not begun, 1 alone (R314), 2 from zeros, 3 combining (R312) -/
  mode : Nat
  /-- code blocks done: number, iterations, CRC passed, decoded bits with bit i the i-th; encoded: number, length, -, bits -/
  cbs : List (Nat × Nat × Bool × Nat)
  delivered : Bool
deriving DecidableEq, Repr

/-- An accepted slot order (R274 to R278, R287, R288). Times are of the carrier's time base, in 2⁻³² ns. -/
structure SlotOrd where
  l : Nat
  no : Nat
  idx : Nat
  car : Nat
  ul : Bool
  sfn : Nat
  slot : Nat
  start : Nat
  /-- the 64 bytes of its header -/
  hdr : Nat
  /-- the bytes of each layer's map, as one number -/
  maps : List Nat
  /-- device address of the downlink precoders (R274) -/
  prec : Nat
  blks : List Blk
  /-- what ended when: 0 taken, 1 to 8 uplink stages, 1 the downlink's codewords, 100 + k symbol k ingested or ready
  to send, 200 + k the last arrival for symbol k -/
  ends : List (Nat × Nat)
  /-- downlink symbols sent or passed over -/
  syms : Nat
  late : Bool
  /-- PRBs received: key (stream · 14 + symbol) · 1024 + PRB (R264, R269) -/
  got : List Nat
  /-- the C-plane of the slot was sent -/
  cplane : Bool
  /-- what S3 found: the slot's residual, the carrier's frequency and sample-rate offsets (R286) -/
  off : Int × Int × Int
  /-- a slot that had begun when a commit changed its carrier: the registers it is served under (R262) -/
  cfg : List (Nat × Word)
deriving DecidableEq, Repr

/-- What the AIR block keeps of a carrier beyond its registers (R285). -/
structure Car where
  good : Nat
  bad : Nat
  /-- start of the last slot that carried pilots; 0 when none has since the state was entered -/
  pilotAt : Nat
  /-- start of the last slot in TRACK whose residual was too large -/
  badAt : Nat
  orders : List SlotOrd
  /-- starts of slots of which an order was accepted: uplink, downlink -/
  seen : List (Nat × Bool)
deriving DecidableEq, Repr

/-- A carrier nothing has used. -/
def Car.none : Car := ⟨0, 0, 0, 0, [], []⟩

/-- A message handed to a fronthaul port (R265, R287, R288, R450): port, plane (0 C, 1 U, 2 PTP), eAxC ID, carrier, stream, symbol,
sequence ID, bytes. -/
structure FhMsg where
  port : Nat
  plane : Nat
  eaxc : Nat
  car : Nat
  stream : Nat
  sym : Nat
  seq : Nat
  data : List Byte
deriving DecidableEq, Repr

/-- A decode engine's work (R305, R315): the order, the block, the code block, its combined LLRs, its table. -/
structure EngJob where
  car : Nat
  start : Nat
  tbi : Nat
  cb : Nat
  llr : List Int
  table : Nat
  imax : Nat
deriving DecidableEq, Repr

/-- A CRC job (R321). -/
structure CrcJob where
  /-- lodging that held the core when it started the job -/
  l : Nat
  poly : Nat
  len : Nat
  addr : Nat
deriving DecidableEq, Repr

/-! ### Sample decoders (spec/11) -/

/-- A ready sample (R390, R392). -/
structure Sample where
  stream : Nat
  part : Nat
  st : Nat
  frame : Nat
  slot : Nat
  tag : Nat
deriving DecidableEq, Repr

/-- A batch queue (R388 to R392). -/
structure BatchQ where
  /-- its descriptor as the last commit read it -/
  desc : Nat
  /-- samples ready and not batched, in ready order -/
  ready : List Sample
  /-- slots of the batch held -/
  held : Option (List Nat)
  /-- slots a frame in decode, a ready sample or the held batch occupies -/
  used : List Nat
  /-- slots a decoder has reserved: decoder, slots -/
  resv : List (Nat × List Nat)
  /-- outcomes decided since the last formation: stream, status, frame, cause, tag -/
  drops : List (Nat × Nat × Nat × Nat × Nat)
  dropOvf : Nat
  seq : Nat
deriving DecidableEq, Repr

/-- A batch queue after reset. -/
def BatchQ.none : BatchQ := ⟨0, [], Option.none, [], [], [], 0, 0⟩

/-- A stream beyond its registers (R375, R376, R380). -/
structure Strm where
  /-- its descriptor as the last commit read it -/
  desc : Nat
  /-- CTL cycles of the tail writes of the entries posted and not taken -/
  posts : List Nat
  /-- width, height, components and luma sampling of the frame in the reference; none when there is none -/
  ref : Option (Nat × Nat × Nat × Nat × Nat)
deriving DecidableEq, Repr

/-- A stream after reset. -/
def Strm.none : Strm := ⟨0, [], Option.none⟩

/-- A frame in decode (R377, R389). -/
structure SmpJob where
  stream : Nat
  l : Nat
  q : Nat
  /-- the compressed frame, as the take read it -/
  bytes : List Byte
  tag : Nat
  frame : Nat
  /-- the stream's descriptor -/
  desc : Nat
  /-- usable regions of interest (R386): index, X0, Y0, X1, Y1, clipped to the frame -/
  rois : List (Nat × Nat × Nat × Nat × Nat)
  stale : Bool
  slots : List Nat
deriving DecidableEq, Repr

/-! ### Device links (spec/18), beyond their registers -/

/-- One end of a device link (R524, R525, R597 to R599). -/
structure Link where
  /-- last session number S -/
  s : Nat
  /-- CTL cycle at which the link entered its present state -/
  at_ : Nat
  /-- retraining: the session's traffic is kept (R525) -/
  re : Bool
  /-- data flits received in order since training, and acknowledged by the peer -/
  rx : Nat
  ack : Nat
  /-- CTL cycle at which the acknowledgement last advanced (R598) -/
  ackAt : Nat
  /-- a flit has failed its CRC and is awaited again (R598, R599) -/
  nak : Bool
  /-- next record sequence number expected; the expected record has failed once (R526) -/
  rxRec : Nat
  badRec : Bool
  /-- credits of VC 0 and VC 1 that the peer last gave (R597, R601) -/
  credit : Nat × Nat
  /-- lanes that have failed (R599) -/
  lanes : List Nat
  /-- identity digests of the peers the image allows; none listed allows any (R523, R551) -/
  peers : List Nat
deriving DecidableEq, Repr

/-- A link after reset. -/
def Link.reset : Link := ⟨0, 0, false, 0, 0, 0, false, 0, false, (0, 0), [], []⟩

/-! ### Flash and start (spec/17, spec/18) -/

/-- A program or an erase of the flash under way (R608). -/
inductive FlashOp where
  | program (a : Nat) (data : List Byte)
  | erase (a : Nat)
deriving DecidableEq, Repr

/-- A taken image between the steps of R553: its flash offset, slot, whether it fell back, whether its trial was given
up, whether service waits for the tier (step 9), whether the start is the one full restart from the other slot (R552),
whether the start follows a full restart (R545). -/
structure Boot where
  at_ : Nat
  slot : Nat
  fallback : Bool
  abandoned : Bool
  waits : Bool
  other : Bool
  again : Bool
deriving DecidableEq, Repr

/-- No image taken. -/
def Boot.none : Boot := ⟨0, 0, false, false, false, false, false⟩

/-! ### The Porter (spec/16) -/

/-- A host session of a lodging (R528 to R530): what its keys and salts are drawn from, the next record number from the
host and to it, failures in a row. -/
structure Sess where
  key : Nat
  rx : Nat
  tx : Nat
  fails : Nat
deriving DecidableEq, Repr

/-! ### The test port (spec/20) -/

/-- DBGACC (R630): address, data and status of the last access. -/
structure DbgAcc where
  addr : Nat
  data : Word
  st : Nat
deriving DecidableEq, Repr
/-! ### Why a step can stop -/

/-- The faults. -/
inductive Fault where
  /-- Raised by the decode of a command row whose operand word carries another opcode: the queue holds a command that is not this row. Safe: nothing is claimed of it. -/
  | notThisRow
deriving DecidableEq, Repr

/-- The refusals. -/
inductive Refusal where
  /-- Raised by the dispatch for a command that has no meaning yet. Safe. -/
  | notModelled (mnemonic : String)
deriving DecidableEq, Repr

/-- The state of the ZK960. -/
structure State where
  /-- commands that are waiting, first in first out -/
  pending : List Instr
  /-- CTL cycles since reset release (R501) -/
  cycle : Nat
  /-- readings taken of the free values (the model's own counter; log 4) -/
  free : Nat
  /-- the register file, keyed by offset in the control-register space (R19, R21) -/
  regs : Tbl Word
  /-- device memory outside the control-register space (R193) -/
  mem : Tbl Byte
  /-- host memory as PCIe reaches it (the environment's, the model's own field; log 7) -/
  host : Tbl Byte
  /-- poisoned words, keyed by device address / 8 (R211, R471) -/
  poison : Tbl Bool
  /-- tensor cores (R56, R92, R130) -/
  tc : Tbl Tc
  /-- frame tags of the tier, keyed by frame number (R517) -/
  tags : Tbl Word
  /-- binding nonces of the lodgings (R515) -/
  bn : Tbl Nat
  /-- KV pools: key 4 · lodging + pool (R228) -/
  kv : Tbl KvPool
  /-- the page-manager move queues, oldest first (R251) -/
  kvMoves : List KvMove
  /-- page-manager functions waiting for their turn, in issue order (R234) -/
  kvq : List KvWait
  /-- pages in use by transfers (R235) -/
  kvXfer : List KvXfer
  /-- begun functions that complete after a teardown (R234) -/
  kvRest : List KvRest
  /-- CTL cycle of a lodging's next refill (R215) -/
  refillAt : Tbl Nat
  /-- units of priority traffic that still wait for a token: key 32 · lodging + 4 · payer + class (R216) -/
  due : Tbl Nat
  /-- the move queue of a lodging that was admitted last in its round robin, numbered from 1 (R216) -/
  rrAt : Tbl Nat
  /-- operations asked of peers and not yet answered (R601) -/
  linkOps : List LinkOp
  /-- records sent on a link and not yet acknowledged (R598) -/
  linkTx : Tbl (List LinkRec)
  /-- next operation number of a link (R600) -/
  linkOpNo : Tbl Nat
  /-- next record sequence number sent on a link (R525) -/
  linkSeq : Tbl Nat
  /-- data flits sent on a link since training (R598) -/
  linkFlit : Tbl Nat
  /-- device addresses of slots and spill units held by page transfers under way (R257) -/
  landing : List Nat
  /-- time bases (R434) -/
  tb : Tbl TimeBase
  /-- time latches: key 64 · time base + requester (R436) -/
  tbLatch : Tbl Nat
  /-- comparators (R443) -/
  cmp : Tbl Cmp
  /-- pulses in progress on the TRIG pins (R445) -/
  pulses : List Pulse
  /-- capture units (R447) -/
  capt : Tbl Capt
  /-- the lodgings' host rings (R585 to R591) -/
  rings : Tbl Rings
  /-- interrupt messages sent to the host: function (0 PF, 1 + l VF l) and vector (R583) -/
  msgs : List (Nat × Nat)
  /-- Iambel cores (R333) -/
  ibc : Tbl Ibc
  /-- the lodgings' waybills (R410 to R418) -/
  lodge : Tbl Lodge
  /-- the staging and the resources still held (R420, R425) -/
  stg : Staging
  /-- carriers (R285) -/
  car : Tbl Car
  /-- messages handed to the fronthaul ports, oldest first (R288, R450) -/
  fhTx : List FhMsg
  /-- sequence IDs: key 2 · (carrier · 16 + stream) + direction, 0 received, 1 sent (R263, R264) -/
  fhSeq : Tbl Nat
  /-- decoder tables: key 2 · slot + copy; 192 bytes as one number, 0 never loaded (R308) -/
  ldpcTbl : Tbl Nat
  /-- the table load in progress: slot, source (R309) -/
  ldpcLoad : Option (Nat × Nat)
  /-- decode engines by position (R315) -/
  ldpcEng : Tbl (Option EngJob)
  /-- CRC jobs by Iambel core (R321) -/
  crcJobs : Tbl (Option CrcJob)
  /-- the debug grant: SCOPE and LODGINGS (R535, R536) -/
  grant : Option (Nat × Nat)
  /-- batch queues: key 4 · lodging + queue (R388) -/
  bq : Tbl BatchQ
  /-- streams (R375) -/
  strm : Tbl Strm
  /-- the frame each sample decoder holds (R377) -/
  smp : Tbl (Option SmpJob)
  /-- the debug port has halted the Innkeeper (R638) -/
  innHalt : Bool
  /-- the debug port has halted the Porter (R638) -/
  porterHalt : Bool
  /-- slot orders handed to the AIR block and not yet checked: lodging, entry number and index, region, offset (R276, R587) -/
  airIn : List (Nat × Nat × Nat × Nat × Nat)
  /-- what the last register read of each requester returned: key as in `tbLatch` without the time base (the model's own field; log 23) -/
  rdata : Tbl Word
  /-- fronthaul ports without block lock (R453) -/
  unlocked : List Nat
  /-- frames waiting in a port's PTP transmit queue: CTL cycle of ingress, bytes (R451) -/
  ptpQ : Tbl (List (Nat × List Byte))
  /-- functions whose MSI-X vectors are masked: 0 PF, 1 + l VF l (R582) -/
  masked : List Nat
  /-- units without a REL map that have become FAILED: class of R484, unit (R474) -/
  failed : List (Nat × Nat)
  /-- what the last SMBus command, test-port access or configuration request answered (the model's own field; log 23) -/
  answer : List Byte
  /-- epoch numbers a lodging has used since the start (R515) -/
  epochs : Tbl Nat
  /-- the lodging whose region last covered a WING or HALL granule, plus 1, keyed by device address / 65536 (R401) -/
  cover : Tbl Nat
  /-- device links (R596 to R601) -/
  links : Tbl Link
  /-- history of the wear record: entry number, its 32 bytes as one number (R478) -/
  wearHist : Tbl Nat
  /-- HIST_NEXT (R478) -/
  wearNext : Nat
  /-- HIST_COUNT (R478) -/
  wearN : Nat
  /-- SRAM repairs of the wear record (R471, R478) -/
  repairs : List Nat
  /-- tier repairs of the wear record (R212, R213, R478) -/
  tierFix : List Nat
  /-- logical object served by a spare object, plus 1 (R455, R478) -/
  objMap : Tbl Nat
  /-- TRANS and LAST counts of the wear record: key 2 · class, 2 · class + 1 (R478) -/
  wearCnt : Tbl Nat
  /-- physical units taken out of service: class of R484, physical index (R473) -/
  retired : List (Nat × Nat)
  /-- the disabled-unit map, a repair list or VWEAR has changed since the last record (R479) -/
  wearDirty : Bool
  /-- CTL cycle of the last wear-record write, or of the start (R479) -/
  wearAt : Nat
  /-- CTL cycle of the last wear voltage step (R475) -/
  wearStep : Option Nat
  /-- CTL cycle of the last planned remap (R475) -/
  wearMap : Option Nat
  /-- thermal-cycle tracker: last minimum, maximum since, risen 40 °C (R478; 0.125 °C) -/
  therm : Option (Int × Int × Bool)
  /-- flash offsets of the wear-record banks (R550) -/
  wrec : Nat × Nat
  /-- SHA-384 of the committed firmware of Innkeeper, Porter, Steward (R477, R532) -/
  fw : Tbl Nat
  /-- an update in progress: target, SHA-384 of the new firmware (R477) -/
  fwNew : Option (Nat × Nat)
  /-- the attached flash; an erased byte reads 0xFF (R547; log 32) -/
  flash : Tbl Byte
  /-- bytes of the attached flash (the board's, the model's own field; log 32) -/
  flashSize : Nat
  /-- a program or erase under way (R608) -/
  flashOp : Option FlashOp
  /-- status of the last program or erase (R607) -/
  flashStat : Nat
  /-- lifecycle state and security version in fuses (R537, R539; log 33) -/
  fuses : Nat × Nat
  /-- the image being started or running (R553) -/
  boot : Boot
  /-- SHA-384 of the Quoxel image as read at start (R532) -/
  quoxel : Nat
  /-- LPDDR5 training has ended: passed or failed (R553) -/
  trained : Option Bool
  /-- a condition of R614 fails: the device is held in reset -/
  inReset : Bool
  /-- REFCLK is lost and not yet back (R559) -/
  refLoss : Bool
  /-- a VDD_CORE change stands unconfirmed: duties are held at 8/16 (R565) -/
  pmbFail : Bool
  /-- CTL cycles at which D and D_p were last raised (R568) -/
  dutyUp : Nat × Nat
  /-- last reading of each thermal sensor: key 2 · site + sensor, 0.125 °C (R567) -/
  sensors : Tbl Int
  /-- mailbox windows: key 4096 · requester + offset (R540) -/
  mbData : Tbl Byte
  /-- SEC.MB_STAT by requester (R540, R542) -/
  mbStat : Tbl Word
  /-- host sessions by lodging (R528) -/
  sess : Tbl (Option Sess)
  /-- attestations since start (R531) -/
  attests : Nat
  /-- the debug challenge in force: its 128 bytes as one number, CTL cycle (R535) -/
  chal : Option (Nat × Nat)
  /-- consecutive refused debug responses (R535) -/
  dbgFails : Nat
  /-- debug responses are locked out until reset (R535) -/
  dbgLock : Bool
  /-- next frame the sweep visits (R521) -/
  sweepAt : Nat
  /-- CTL cycle of the next snapshot (R501) -/
  ledgDue : Nat
  /-- rings whose next record carries GAP: bit l the copy ring of lodging l, bit 16 the Ledger ring (R502) -/
  ledgGap : Nat
  /-- bits [47:32] latched by a read of CNT_LO: key requester · 2²⁴ + offset (R500) -/
  cntLatch : Tbl Nat
  /-- a low word written to CNT_LO and not yet loaded, by offset (R500) -/
  cntPend : Tbl (Option Nat)
  /-- instruction in force in the TAP (R628) -/
  tapIr : Nat
  /-- boundary register as last shifted in (R629) -/
  bsr : List Bool
  /-- the access register (R630) -/
  dbgAcc : DbgAcc
  /-- CTL cycle at which the present SRAM scrub pass began (R219) -/
  scrubAt : Nat
  /-- step 2 of R553 has ended since the reset release: configuration requests are answered (R580) -/
  step2 : Bool
deriving DecidableEq, Repr

/-- The state right after reset: nothing queued, every table at its reset contents. -/
def State.reset : State where
  pending := []
  cycle := 0
  free := 0
  regs := []
  mem := []
  host := []
  poison := []
  tc := []
  tags := []
  bn := []
  kv := []
  kvMoves := []
  kvq := []
  kvXfer := []
  kvRest := []
  refillAt := []
  due := []
  rrAt := []
  linkOps := []
  linkTx := []
  linkOpNo := []
  linkSeq := []
  linkFlit := []
  landing := []
  tb := []
  tbLatch := []
  cmp := []
  pulses := []
  capt := []
  rings := []
  msgs := []
  ibc := []
  lodge := []
  stg := Staging.none
  car := []
  fhTx := []
  fhSeq := []
  ldpcTbl := []
  ldpcLoad := none
  ldpcEng := []
  crcJobs := []
  grant := none
  bq := []
  strm := []
  smp := []
  innHalt := false
  porterHalt := false
  airIn := []
  rdata := []
  unlocked := []
  ptpQ := []
  masked := []
  failed := []
  answer := []
  epochs := []
  cover := []
  links := []
  wearHist := []
  wearNext := 0
  wearN := 0
  repairs := []
  tierFix := []
  objMap := []
  wearCnt := []
  retired := []
  wearDirty := false
  wearAt := 0
  wearStep := none
  wearMap := none
  therm := none
  wrec := (0, 0)
  fw := []
  fwNew := none
  flash := []
  flashSize := 0x10000000
  flashOp := none
  flashStat := 0
  fuses := (0, 0)
  boot := Boot.none
  quoxel := 0
  trained := none
  inReset := false
  refLoss := false
  pmbFail := false
  dutyUp := (0, 0)
  sensors := []
  mbData := []
  mbStat := []
  sess := []
  attests := 0
  chal := none
  dbgFails := 0
  dbgLock := false
  sweepAt := 0
  ledgDue := 0
  ledgGap := 0
  cntLatch := []
  cntPend := []
  tapIr := 2
  bsr := []
  dbgAcc := ⟨0, 0, 0⟩
  scrubAt := 0
  step2 := false

end Sys2Proof.Machine
end

