-- ==== Sys2Proof/Machine/Flags.lean ====
section
/-! DEFINITION. Registers, their fields, status flags with companion counts (R13 to R15), event counters (R495 to
R498) and the shared status codes (R10, R12). -/
namespace Sys2Proof.Machine
open Sys2Proof

/-! ### Status codes (R10) -/

def St.ok : Nat := 0x00
def St.state : Nat := 0x01
def St.format : Nat := 0x02
def St.bounds : Nat := 0x03
def St.permission : Nat := 0x04
def St.busy : Nat := 0x05
def St.deferred : Nat := 0x06
def St.paused : Nat := 0x07
def St.notReady : Nat := 0x08
def St.dimension : Nat := 0x09
def St.concealed : Nat := 0x0A
def St.dropped : Nat := 0x0B
def St.tornDown : Nat := 0x0C
def St.timeout : Nat := 0x0D
def St.integrity : Nat := 0x0E
def St.jumpRefused : Nat := 0x0F
def St.overrun : Nat := 0x10
def St.failed : Nat := 0x11

/-- The order in which a request that breaks several checks is answered (R12). -/
def St.order : List Nat :=
  [St.permission, St.format, St.bounds, St.dimension, St.jumpRefused, St.notReady, St.state, St.busy]

/-- The code of a request from its checks, each (broken, code): the first of R12's order that is broken, OK when
none is. -/
def pick (checks : List (Bool × Nat)) : Nat :=
  match St.order.find? fun st => checks.any fun c => c.1 && c.2 == st with
  | some st => st
  | none => St.ok

/-! ### Registers -/

/-- Read a register's stored value. -/
def State.rr (s : State) (a : Nat) : Word := tget RegMap.reset s.regs a

/-- Store a register's value. -/
def State.wr (s : State) (a : Nat) (v : Word) : State := { s with regs := tput RegMap.reset s.regs a v }

/-- The value of a field in a word. -/
def getF (w : Word) (f : Fld) : Nat := (w.toNat / 2 ^ f.lo) % 2 ^ (f.hi - f.lo + 1)

/-- A word with one field replaced by the low bits of a value. -/
def setF (w : Word) (f : Fld) (v : Nat) : Word :=
  BitVec.ofNat 32 (w.toNat - getF w f * 2 ^ f.lo + (v % 2 ^ (f.hi - f.lo + 1)) * 2 ^ f.lo)

/-- Read a register field. -/
def State.gf (s : State) (a : Nat) (f : Fld) : Nat := getF (s.rr a) f

/-- Write a register field. -/
def State.sf (s : State) (a : Nat) (f : Fld) (v : Nat) : State := s.wr a (setF (s.rr a) f v)

/-- One bit of a word. -/
def wbit (w : Word) (i : Nat) : Bool := w.toNat.testBit i

/-- One bit of a register. -/
def State.rbit (s : State) (a i : Nat) : Bool := wbit (s.rr a) i

/-! ### Flags and counters -/

/-- Block of a register (R194). -/
def blockOf (a : Nat) : Nat := a / 0x10000

/-- Number of a flag register among those of its block with companion counts, in ascending offset order (R497). -/
def flagNum (a : Nat) : Nat :=
  let o := a % 0x10000
  let b := blockOf a
  if 0x10 ≤ b ∧ b < 0x30 then (if o = 0x80 then 0 else if o = 0xC0 then 1 else if o = 0x130 then 2 else if o = 0x140 then 3 else 4)
  else if 0x30 ≤ b then (if o = 0x18 then 0 else if o = 0x40 then 1 else 2)
  else if o = 0x3080 then 1 else 0

/-- Send an interrupt message of a function (0 PF, 1 + l VF l) unless its vectors are masked (R582, R583). -/
def State.msg (s : State) (fn vec : Nat) : State := if s.masked.contains fn then s else { s with msgs := s.msgs ++ [(fn, vec)] }

/-- Set a flag bit and add one to the companion count at the register's offset plus 4 (R15); the set event is a message
of the physical function: vector 1 for PWR.FLAG and REL.FLAG, 2 for any other (R583). -/
def State.raise (s : State) (a bit : Nat) : State :=
  let s1 := s.wr a (s.rr a ||| BitVec.ofNat 32 (2 ^ bit))
  (s1.wr (a + 4) (s1.rr (a + 4) + 1)).msg 0 (if blockOf a = 5 ∨ blockOf a = 7 then 1 else 2)

/-- Whether counter i of a block counts an event attributed to a lodging (R497). -/
def State.counts (s : State) (blk i ev : Nat) (ldg : Option Nat) : Bool :=
  let sel := Reg.CNT_SEL blk i
  s.gf sel Fld.CNT_SEL_EVENT == ev && ev != 0 &&
    (s.gf sel Fld.CNT_SEL_FILT == 0 || ldg == some (s.gf sel Fld.CNT_SEL_LODGING))

/-- The 48-bit value of a counter (R494). -/
def State.cntVal (s : State) (blk i : Nat) : Nat :=
  (s.rr (Reg.CNT_LO blk i)).toNat + 2 ^ 32 * s.gf (Reg.CNT_HI blk i) Fld.CNT_HI_VALUE_HI

/-- Load a counter's value. -/
def State.setCnt (s : State) (blk i v : Nat) : State :=
  (s.wr (Reg.CNT_LO blk i) (BitVec.ofNat 32 v)).sf (Reg.CNT_HI blk i) Fld.CNT_HI_VALUE_HI (v / 2 ^ 32)

/-- Add n occurrences of an event to every counter of a block that counts it; a wrap sets the counter's OVF bit
(R495, R496), which is itself a flag event of the block (R497). `fuel` bounds that nesting. -/
def State.count (s : State) : Nat → Nat → Nat → Option Nat → Nat → State
  | 0, _, _, _, _ => s
  | fuel + 1, blk, ev, ldg, n =>
    (List.range 8).foldl (fun (s : State) i =>
      if s.counts blk i ev ldg then
        let v := s.cntVal blk i + n
        let s := s.setCnt blk i (v % 2 ^ 48)
        if 2 ^ 48 ≤ v then
          State.count (s.raise (Reg.CNT_OVF blk) i) fuel blk
            (0x1000 + 0x100 * flagNum (Reg.CNT_OVF blk) + i) ldg 1
        else s
      else s) s

/-- Count one block event. -/
def State.event (s : State) (blk ev : Nat) (ldg : Option Nat) (n : Nat := 1) : State := s.count 2 blk ev ldg n

/-- Hardware sets a status flag: the bit, its companion count, and the block's counters that count the event
(R14, R15, R497). -/
def State.setFlag (s : State) (a bit : Nat) (ldg : Option Nat := none) : State :=
  (s.raise a bit).event (blockOf a) (0x1000 + 0x100 * flagNum a + bit) ldg

/-- Set a flag when a condition holds. -/
def State.setFlagIf (s : State) (p : Bool) (a bit : Nat) (ldg : Option Nat := none) : State :=
  if p then s.setFlag a bit ldg else s

/-- Count a request a block completed with a status (R497, R11). -/
def State.countStatus (s : State) (blk st : Nat) (ldg : Option Nat) : State := s.event blk (0x2000 + st) ldg

/-- A reading of a fresh free value, and the state that has taken it. -/
def State.draw (s : State) : Nat × State := (Config.fresh s.free, { s with free := s.free + 1 })

end Sys2Proof.Machine
end

