-- ==== Sys2Proof/Machine/Ops.lean ====
section
/-! DEFINITION. Named operations over memory, region descriptors, lodging bindings and sync objects. -/
namespace Sys2Proof.Machine
open Sys2Proof

/-! ### Device memory (R193) -/

/-- What lies at a device address. -/
inductive Place where
  | operand (c : Nat)
  | wing (w : Nat)
  | hall
  | iambel (n : Nat)
  | control
  | tier
  | hole
deriving DecidableEq, Repr

/-- Device address of byte 0 of an operand store. -/
def osAddr (c : Nat) : Nat := 0x1000000000 + c * 0x200000
/-- Device address of byte 0 of a wing store. -/
def wingAddr (w : Nat) : Nat := 0x1100000000 + w * 0x1000000
/-- Device address of the hall store. -/
def hallAddr : Nat := 0x1200000000
/-- Device address of an Iambel core's memories. -/
def iamAddr (n : Nat) : Nat := 0x1300000000 + n * 0x40000
/-- Device address of the control-register space. -/
def ctlAddr : Nat := 0x2000000000
/-- Device address of the tier. -/
def tierAddr : Nat := 0x10000000000

/-- Bytes of usable tier (R209, MEM.USABLE). -/
def State.tierBytes (s : State) : Nat := s.gf Reg.MEM_USABLE Fld.MEM_USABLE_FRAMES * 4096

/-- The address map of R193; the number a spare Iambel core left is a hole (R328). -/
def State.place (s : State) (a : Nat) : Place :=
  if 0x1000000000 ≤ a ∧ a < 0x1000000000 + 32 * 0x200000 then .operand ((a - 0x1000000000) / 0x200000)
  else if 0x1100000000 ≤ a ∧ a < 0x1100000000 + 8 * 0x1000000 then .wing ((a - 0x1100000000) / 0x1000000)
  else if hallAddr ≤ a ∧ a < hallAddr + 0x2000000 then .hall
  else if 0x1300000000 ≤ a ∧ a < 0x1300000000 + 18 * 0x40000 then
    let n := (a - 0x1300000000) / 0x40000
    if (n = 16 ∧ s.gf Reg.REL_IBC_MAP Fld.REL_IBC_MAP_SUB0 ≠ 31) ∨ (n = 17 ∧ s.gf Reg.REL_IBC_MAP Fld.REL_IBC_MAP_SUB1 ≠ 31) then .hole
    else .iambel n
  else if ctlAddr ≤ a ∧ a < ctlAddr + 0x1000000 then .control
  else if tierAddr ≤ a ∧ a < tierAddr + s.tierBytes then .tier
  else .hole

/-- What a byte of memory that nothing has written reads as: 0 (R193, R553, R562). -/
def memInit : Nat → Byte := fun _ => 0

/-- The stored byte at a device address. -/
def State.rb (s : State) (a : Nat) : Byte := tget memInit s.mem a

/-- Store one byte. -/
def State.wb (s : State) (a : Nat) (v : Byte) : State := { s with mem := tput memInit s.mem a v }

/-- n bytes, little-endian (R24). -/
def State.rdLE (s : State) (a : Nat) : Nat → Nat
  | 0 => 0
  | n + 1 => (s.rb a).toNat + 256 * State.rdLE s (a + 1) n

/-- Store the low n bytes of a value, little-endian (R24). -/
def State.wrLE (s : State) (a : Nat) : Nat → Nat → State
  | 0, _ => s
  | n + 1, v => State.wrLE (s.wb a (BitVec.ofNat 8 v)) (a + 1) n (v / 256)

/-- Store zeros over n bytes. -/
def State.zero (s : State) (a n : Nat) : State := { s with mem := tclear a (a + n) s.mem }

/-- Host memory byte. -/
def State.hb (s : State) (a : Nat) : Byte := tget memInit s.host a
/-- n host bytes, little-endian. -/
def State.hrdLE (s : State) (a : Nat) : Nat → Nat
  | 0 => 0
  | n + 1 => (s.hb a).toNat + 256 * State.hrdLE s (a + 1) n
/-- Store n host bytes, little-endian. -/
def State.hwrLE (s : State) (a : Nat) : Nat → Nat → State
  | 0, _ => s
  | n + 1, v =>
    State.hwrLE { s with host := tput memInit s.host a (BitVec.ofNat 8 v) } (a + 1) n (v / 256)

/-- Copy n bytes inside device memory, lowest first. -/
def State.copy (s : State) (dst src : Nat) : Nat → State
  | 0 => s
  | n + 1 => State.copy (s.wb dst (s.rb src)) (dst + 1) (src + 1) n

/-- Whether any 64-bit word under a byte range is poisoned (R211, R471). -/
def State.poisoned (s : State) (a n : Nat) : Bool :=
  s.poison.any fun (k, p) => p && decide (k * 8 < a + n) && decide (a < k * 8 + 8)

/-- Poison the words under a byte range (R211, R471). -/
def State.addPoison (s : State) (a n : Nat) : State :=
  { s with poison := tputN (fun _ => false) (fun _ => true) (a / 8) ((a % 8 + n + 7) / 8) s.poison }

/-- A write of whole words, or of a whole tier unit, clears their poison (R211, R471). -/
def State.clearPoison (s : State) (a n : Nat) : State :=
  if s.poison = [] then s
  else
    let g := if s.place a = .tier then 64 else 8
    let lo := (a + g - 1) / g * g
    let hi := (a + n) / g * g
    { s with poison := tclear (lo / 8) (hi / 8) s.poison }

/-- Little-endian field of a descriptor held as one number: `n` bytes from offset `o`. -/
def dfield (d o n : Nat) : Nat := (d / 256 ^ o) % 256 ^ n

/-- Bits [hi:lo] of a number. -/
def nbits (x hi lo : Nat) : Nat := (x / 2 ^ lo) % 2 ^ (hi - lo + 1)

/-- Bits [hi:lo] of a command word. -/
def cbits (w : CmdWord) (hi lo : Nat) : Nat := nbits w.toNat hi lo

/-- ⌈a / b⌉. -/
def cdiv (a b : Nat) : Nat := (a + b - 1) / b

/-! ### Region descriptors (R202, R203) -/

/-- A region descriptor's fields. -/
structure Region where
  valid : Bool
  rd : Bool
  wr : Bool
  cmd : Bool
  kind : Nat
  link : Nat
  pldg : Nat
  preg : Nat
  export_ : Bool
  base : Nat
  len : Nat
deriving DecidableEq, Repr

/-- A region from its four words. -/
def Region.ofWords (w0 w1 w2 w3 : Word) : Region :=
  ⟨wbit w3 1, wbit w3 2, wbit w3 3, wbit w3 4, getF w3 Fld.LDG_REGION3_KIND, getF w3 Fld.LDG_REGION3_LINK,
    getF w3 Fld.LDG_REGION3_PEER_LDG, getF w3 Fld.LDG_REGION3_PEER_REG, wbit w3 21,
    w0.toNat + 2 ^ 32 * getF w1 Fld.LDG_REGION1_BASE_HI, getF w2 Fld.LDG_REGION2_LEN⟩

/-- Descriptor i of lodging l. -/
def State.region (s : State) (l i : Nat) : Region :=
  Region.ofWords (s.rr (Reg.LDG_REGION0 l i)) (s.rr (Reg.LDG_REGION1 l i)) (s.rr (Reg.LDG_REGION2 l i))
    (s.rr (Reg.LDG_REGION3 l i))

/-- The granule of a region's KIND (R203); 0 for a reserved KIND. -/
def granule (kind : Nat) : Nat :=
  match kind with
  | 0 => 0x10000 | 1 => 0x10000 | 2 => 0x10000 | 3 => 0x40000 | 4 => 0x1000 | 5 => 0x1000
  | _ => 0

/-- Length of a region in bytes. -/
def Region.bytes (r : Region) : Nat := (r.len + 1) * granule r.kind

/-- A byte range from an offset lies inside the region. -/
def Region.holds (r : Region) (off n : Nat) : Bool := r.valid && decide (off + n ≤ r.bytes)

/-! ### Bindings (R398) -/

/-- The lodging a commit has taken a resource from, while that lodging still holds it (R262, R425; log 31). -/
def State.heldFor (s : State) (r : Res) : Option Nat := (s.stg.releases.find? fun x => x.res == r).map fun x => x.from_

/-- What a lodging still holds of a tensor core that a commit has taken from it. -/
def State.heldCore (s : State) (l c : Nat) : Option Release :=
  s.stg.releases.find? fun x => x.from_ == l && (match x.res with
    | .core d => d == c
    | .part d _ => d == c
    | _ => false)

/-- A lodging holds a dedicated core. -/
def State.dedicated (s : State) (l c : Nat) : Bool := s.rbit (Reg.LDG_CORES l) c
/-- A lodging names a pooled core. -/
def State.poolNamed (s : State) (l c : Nat) : Bool := s.rbit (Reg.LDG_POOLED l) c
/-- A core is pooled while any lodging's LDG.POOLED names it (R403). -/
def State.pooled (s : State) (c : Nat) : Bool := (List.range 16).any fun l => s.poolNamed l c
/-- The partition of a lodging on a core (R403, R429). -/
def State.partOf (s : State) (l c : Nat) : Option Nat :=
  (List.range 4).find? fun p =>
    s.gf (Reg.TC_PART c p) Fld.TC_PART_VALID == 1 && s.gf (Reg.TC_PART c p) Fld.TC_PART_LODGING == l
/-- Partition index under which a lodging's state on a core is kept: 0 on a dedicated core. -/
def State.partIx (s : State) (l c : Nat) : Nat :=
  match s.heldCore l c with
  | some x => (match x.res with
    | .part _ p => p
    | _ => 0)
  | none => if s.dedicated l c then 0 else (s.partOf l c).getD 0
/-- Accumulator rows bound to the lodging on the core: first row and count (R402, R403). -/
def State.accRows (s : State) (l c : Nat) : Nat × Nat :=
  match s.heldCore l c with
  | some x => x.rows
  | none =>
    if s.dedicated l c then (0, 256)
    else match s.partOf l c with
      | some p => (64 * s.gf (Reg.TC_PART c p) Fld.TC_PART_ACC_BASE, 64 * (s.gf (Reg.TC_PART c p) Fld.TC_PART_ACC_N + 1))
      | none => (0, 0)
/-- Tile-buffer rows bound to the lodging on the core: first row and count (R402, R403). -/
def State.tbRows (s : State) (l c : Nat) : Nat × Nat :=
  match s.heldCore l c with
  | some x => x.tb
  | none =>
    if s.dedicated l c then (0, 256)
    else match s.partOf l c with
      | some p => (32 * s.gf (Reg.TC_PART c p) Fld.TC_PART_TB_BASE, 32 * (s.gf (Reg.TC_PART c p) Fld.TC_PART_TB_N + 1))
      | none => (0, 0)
/-- Operand-store bytes of a lodging's partition that hold its shadow area: the top 32 KiB (R205). -/
def State.shadowArea (s : State) (l c : Nat) : Option (Nat × Nat) :=
  match s.heldCore l c with
  | some x => (match x.res with
    | .part _ _ => some (x.hi - osAddr c - 0x8000, x.hi - osAddr c)
    | _ => none)
  | none =>
    if s.dedicated l c then none
    else match s.partOf l c with
      | some p =>
        let hi := 0x10000 * (s.gf (Reg.TC_PART c p) Fld.TC_PART_OS_BASE + s.gf (Reg.TC_PART c p) Fld.TC_PART_OS_N + 1)
        some (hi - 0x8000, hi)
      | none => none

/-- The lodging that holds a sync object's block (R398, R454). -/
def State.syncBound (s : State) (o : Nat) : Option Nat :=
  let k := o / 64
  (List.range 16).find? fun l =>
    if k < 32 then s.rbit (Reg.LDG_SYNC_LO l) k else k < 64 && s.rbit (Reg.LDG_SYNC_HI l) (k - 32)
/-- The lodging that uses the block now: until its release, the one it was taken from (R425). -/
def State.syncHolder (s : State) (o : Nat) : Option Nat :=
  match s.heldFor (.sync (o / 64)) with
  | some l => some l
  | none => s.syncBound o
/-- A lodging's blocks hold the object (R90). -/
def State.holdsObj (s : State) (l o : Nat) : Bool := s.syncHolder o == some l
/-- The lodging an Iambel core is bound to. -/
def State.ibcBound (s : State) (n : Nat) : Option Nat :=
  if n < 16 then (List.range 16).find? fun l => s.rbit (Reg.LDG_IAMBEL l) n else none
/-- The lodging an Iambel core serves now: until its release, the one it was taken from (R425). -/
def State.ibcHolder (s : State) (n : Nat) : Option Nat :=
  match s.heldFor (.iambel n) with
  | some l => some l
  | none => s.ibcBound n
/-- The lodging that holds a tensor core: its dedicated holder, else the holder of the pooled core (R430). -/
def State.tcHolder (s : State) (c : Nat) : Option Nat :=
  match (match s.heldFor (.core c) with
    | some l => some l
    | none => (List.range 16).find? fun l => s.dedicated l c) with
  | some l => some l
  | none =>
    if s.pooled c then
      let p := s.gf (Reg.TC_POOL_STAT c) Fld.TC_POOL_STAT_HOLDER
      if s.gf (Reg.TC_PART c p) Fld.TC_PART_VALID == 1 then some (s.gf (Reg.TC_PART c p) Fld.TC_PART_LODGING) else none
    else none
/-- The lodging that holds a fronthaul port. -/
def State.portHolder (s : State) (p : Nat) : Option Nat :=
  match s.heldFor (.port p) with
  | some l => some l
  | none => (List.range 16).find? fun l => (s.gf (Reg.LDG_CFG l) Fld.LDG_CFG_FH_PORTS).testBit p
/-- The lodging a requester speaks for (R459, R499). -/
def State.reqLodging (s : State) (who : Requester) : Option Nat :=
  match who with
  | .vf l => some l.val
  | .ibc n => s.ibcHolder n.val
  | _ => none
/-- The lodging is bound (R400). -/
def State.bound (s : State) (l : Nat) : Bool := s.gf (Reg.LDG_CFG l) Fld.LDG_CFG_BOUND == 1

/-- The end of the lodging's operand-store regions that covers a device address, when one does. -/
def State.coverEnd (s : State) (l a : Nat) : Option Nat :=
  (List.range 64).foldl (fun best i =>
    let r := s.region l i
    if r.valid && r.kind == 0 && decide (r.base ≤ a) && decide (a < r.base + r.bytes) then
      some (max (best.getD 0) (r.base + r.bytes))
    else best) none

/-- A device range is covered by the lodging's OPERAND regions taken together; `fuel` bounds the regions used. -/
def State.covered (s : State) (l : Nat) : Nat → Nat → Nat → Bool
  | 0, _, _ => false
  | fuel + 1, a, hi =>
    if hi ≤ a then true
    else match s.coverEnd l a with
      | some e => State.covered s l fuel e hi
      | none => false

/-- A byte range of the core's operand store lies in the lodging's operand-store regions and off its shadow area
(R105, R110, R205). -/
def State.osOk (s : State) (l c off n : Nat) : Bool :=
  decide (off + n ≤ 0x200000) &&
    (s.covered l 65 (osAddr c + off) (osAddr c + off + n) || (match s.heldCore l c with
      | some x => decide (x.lo ≤ osAddr c + off) && decide (osAddr c + off + n ≤ x.hi)
      | none => false)) &&
    (match s.shadowArea l c with
     | some (lo, hi) => decide (off + n ≤ lo) || decide (hi ≤ off)
     | none => true)

/-- Rows of bytes at a stride all lie in the regions. -/
def State.osRows (s : State) (l c addr stride n rows : Nat) : Bool :=
  (List.range rows).all fun i => s.osOk l c (addr + i * stride) n

/-! ### Decode engines (R315, R323, R474) -/

/-- Physical decode engine of a position (R315, R323). -/
def State.physEng (s : State) (p : Nat) : Nat := if s.gf Reg.LDPC_ENG_STAT Fld.LDPC_ENG_STAT_SPARE_POS = p then 4 else p
/-- A position is FAILED: its engine found no spare (R474). -/
def State.engFailed (s : State) (p : Nat) : Bool := s.failed.contains (6, s.physEng p)
/-- An encode engine is FAILED (R474). -/
def State.encFailed (s : State) (e : Nat) : Bool := s.failed.contains (7, e)

/-! ### Tensor cores and slots -/

/-- A tensor core's state. -/
def State.tcOf (s : State) (c : Nat) : Tc := tget (fun _ => Tc.reset) s.tc c
/-- Change a tensor core's state. -/
def State.setTc (s : State) (c : Nat) (f : Tc → Tc) : State := { s with tc := tmod (fun _ => Tc.reset) s.tc c f }
/-- One slot of a partition of a core. -/
def Tc.slot (t : Tc) (p : Nat) (sl : Slot) : TcSlot := tget (fun _ => TcSlot.idle) t.slots (2 * p + sl.idx)
/-- Change one slot of a partition of a core. -/
def Tc.setSlot (t : Tc) (p : Nat) (sl : Slot) (f : TcSlot → TcSlot) : Tc :=
  { t with slots := tmod (fun _ => TcSlot.idle) t.slots (2 * p + sl.idx) f }
/-- One slot of a partition of a core. -/
def State.slotOf (s : State) (c p : Nat) (sl : Slot) : TcSlot := (s.tcOf c).slot p sl
/-- Change one slot of a partition of a core. -/
def State.setSlot (s : State) (c p : Nat) (sl : Slot) (f : TcSlot → TcSlot) : State :=
  s.setTc c fun t => t.setSlot p sl f
/-- The partition whose slots the core serves now: the holder's on a pooled core, 0 on a dedicated one (R430). -/
def State.curPart (s : State) (c : Nat) : Nat :=
  if s.pooled c then s.gf (Reg.TC_POOL_STAT c) Fld.TC_POOL_STAT_HOLDER
  else ((List.range 4).find? fun p => (s.heldFor (.part c p)).isSome).getD 0

/-! ### Iambel interrupt lines (R362) -/

/-- Set an interrupt source pending on an Iambel core. -/
def State.irqPend (s : State) (n src : Nat) : State :=
  if n < 18 then s.setFlag (Reg.IBC_IRQ_PEND n) src (s.ibcHolder n) else s

/-! ### Sync objects (R454 to R457) -/

/-- A move that waits on an object has its threshold reached (R111, R456). -/
def MoveEntry.release (m : MoveEntry) (o : Nat) : MoveEntry :=
  if cbits m.w 105 105 = 1 ∧ cbits m.w 104 93 = o then { m with released := true } else m

/-- The moves of a slot see an object's passage. -/
def TcSlot.release (t : TcSlot) (o : Nat) : TcSlot := { t with moves := t.moves.map fun m => m.release o }

/-- An object's count reaches its armed threshold (R456): waiting moves may start and Iambel source 1 becomes pending
on every core whose IRQ_SOBJ names the object and whose lodging holds it (R362, R372). -/
def State.passage (s : State) (o : Nat) : State :=
  let s := { s with tc := s.tc.map fun (c, t) =>
    (c, { t with slots := t.slots.map fun (k, u) => (k, u.release o) }) }
  (List.range 18).foldl (fun (s : State) n =>
    if s.gf (Reg.IBC_IRQ_SOBJ n) Fld.IBC_IRQ_SOBJ_OBJ = o ∧ (s.ibcHolder n).isSome ∧ s.ibcHolder n = s.syncHolder o then
      s.irqPend n 1
    else s) s

/-- Count and armed threshold of an object. -/
def State.syncCount (s : State) (o : Nat) : Nat := (s.rr (Reg.SYNC_COUNT o)).toNat
def State.syncArmed (s : State) (o : Nat) : Nat := (s.rr (Reg.SYNC_ARMED o)).toNat

/-- SIGNAL: the count becomes min(count + n, 2³² − 1), SAT when it clamps; the passage of the armed threshold when
(count ≥ threshold) passes from false to true (R454, R456, R498). -/
def State.signal (s : State) (o n : Nat) : State :=
  let old := s.syncCount o
  let new := min (old + n) (2 ^ 32 - 1)
  let s1 := s.wr (Reg.SYNC_COUNT o) (BitVec.ofNat 32 new)
  let s2 := s1.setFlagIf (decide (2 ^ 32 - 1 < old + n)) Reg.SYNC_FLAG 0 (s.syncHolder o)
  let s3 := s2.event 3 0x3000 (s.syncHolder o)
  if old < s.syncArmed o ∧ s.syncArmed o ≤ new then s3.passage o else s3

/-- ARM: the armed threshold is set; a passage when the comparison becomes true (R454, R456). -/
def State.arm (s : State) (o th : Nat) : State :=
  let s1 := s.wr (Reg.SYNC_ARMED o) (BitVec.ofNat 32 th)
  if s.syncCount o < s.syncArmed o ∧ th % 2 ^ 32 ≤ s.syncCount o then s1.passage o else s1

/-- CLEAR: count and armed threshold 0, which is no passage (R454, R456). -/
def State.syncClear (s : State) (o : Nat) : State :=
  (s.wr (Reg.SYNC_COUNT o) 0).wr (Reg.SYNC_ARMED o) 0

/-- Clear every object of a sync block (R401, R416). -/
def State.clearBlock (s : State) (k : Nat) : State :=
  { s with regs := tclear (Reg.SYNC_COUNT (64 * k)) (Reg.SYNC_COUNT (64 * k + 64)) s.regs }

/-- An access of a requester was refused: VF_DENIED for a virtual function (R581), ACC_ERR for the debug port (R631). -/
def State.deny (s : State) (who : Requester) : State :=
  match who with
  | .vf l => s.setFlag Reg.HIF_FLAG 3 (some l.val)
  | .dbg => s.setFlag Reg.DBG_FLAG 2 none
  | _ => s

/-- The debug grant reaches a lodging under a SCOPE bit (R632). -/
def State.grants (s : State) (bit : Nat) (l : Option Nat) : Bool :=
  match s.grant, l with
  | some (sc, ls), some l => sc.testBit bit && ls.testBit l
  | _, _ => false

end Sys2Proof.Machine
end

