-- ==== Sys2Proof/Machine/Reach.lean ====
section
/-! DEFINITION. Who reaches which register: the host's functions (R580, R581), Iambel cores by CREG (R361, R459), the debug
port (R632). Rules of a register's own chapter that only discard some writes stand with that register. -/
namespace Sys2Proof.Machine
open Sys2Proof

/-- The device is in service (R554, R575). -/
def State.inService (s : State) : Bool := s.gf Reg.PWR_BOOT Fld.PWR_BOOT_STATE == 1

/-- An offset lies in a window. -/
def inWin (off lo n : Nat) : Bool := decide (lo ≤ off) && decide (off < lo + n)

/-- A counter register of a block of R194 (R494): block, counter; counter 8 is CNT_OVF and its companion. -/
def cntOf (off : Nat) : Option (Nat × Nat) :=
  if decide (off < 0x420000) && inWin (off % 0x10000) 0x3000 0x88 then some (off / 0x10000, (off % 0x10000 - 0x3000) / 0x10) else none

/-- A counter is a lodging's own (R499). -/
def State.ownCnt (s : State) (l b i : Nat) : Bool :=
  (i < 8 && s.gf (Reg.CNT_SEL b i) Fld.CNT_SEL_FILT == 1 && s.gf (Reg.CNT_SEL b i) Fld.CNT_SEL_LODGING == l) ||
    (decide (0x10 ≤ b) && decide (b < 0x30) && s.dedicated l (b - 0x10)) ||
    (decide (0x30 ≤ b) && s.ibcHolder (b - 0x30) == some l)

/-- The lodging's LDG.CFG.TBM holds a time base. -/
def State.hasTb (s : State) (l t : Nat) : Bool := (s.gf (Reg.LDG_CFG l) Fld.LDG_CFG_TBM).testBit t

/-- A NOW register: its time base (R436). -/
def nowReg (off : Nat) : Option Nat :=
  if inWin off 0x20100 0x100 && decide ((off - 0x20100) % 0x40 < 0x10) then some ((off - 0x20100) / 0x40) else none

/-- A steering register: its time base (R437). -/
def steerReg (off : Nat) : Option Nat :=
  let o := (off - 0x20100) % 0x40
  if inWin off 0x20100 0x100 && decide (0x10 ≤ o) && decide (o < 0x30) then some ((off - 0x20100) / 0x40) else none

/-- A lodging may steer a time base (R437). -/
def State.mayTbSteer (s : State) (l t : Nat) : Bool :=
  s.gf (Reg.TB_CFG t) Fld.TB_CFG_STEER_EN == 1 && s.gf (Reg.TB_CFG t) Fld.TB_CFG_STEER_LDG == l

/-- A requester may steer a time base (R437). -/
def State.steers (s : State) (who : Requester) (t : Nat) : Bool :=
  match who with
  | .pf => true
  | _ => match s.reqLodging who with
    | some l => s.mayTbSteer l t
    | none => false

/-- A lodging owns comparator k, capture i (R442, R447). -/
def State.ownsCmp (s : State) (l k : Nat) : Bool :=
  let r := Reg.TB_CMP_CFG k
  s.gf r Fld.TB_CMP_CFG_VALID == 1 && s.gf r Fld.TB_CMP_CFG_HOST == 0 && s.gf r Fld.TB_CMP_CFG_OWNER == l
def State.ownsCapt (s : State) (l i : Nat) : Bool :=
  let r := Reg.TB_CAPT_CFG i
  s.gf r Fld.TB_CAPT_CFG_VALID == 1 && s.gf r Fld.TB_CAPT_CFG_HOST == 0 && s.gf r Fld.TB_CAPT_CFG_OWNER == l

/-- Time registers a lodging's function or Iambel core reaches (R459, R581). -/
def State.reachTb (s : State) (l off : Nat) : Bool :=
  (match nowReg off with
   | some t => s.hasTb l t
   | none => false) ||
  (match steerReg off with
   | some t => s.mayTbSteer l t
   | none => false) ||
  (inWin off 0x20400 0x400 && decide ((off - 0x20400) % 0x20 ≠ 0) && s.ownsCmp l ((off - 0x20400) / 0x20)) ||
  (inWin off 0x20800 0x200 && decide ((off - 0x20800) % 0x20 ≠ 0) && s.ownsCapt l ((off - 0x20800) / 0x20))

/-- Sync registers a lodging reaches (R459). -/
def State.reachSync (s : State) (l off : Nat) : Bool :=
  off == Reg.SYNC_SIGNAL || off == Reg.SYNC_CLEAR || (inWin off 0x38000 0x8000 && s.holdsObj l ((off - 0x38000) / 8))

/-- The lodging's ledger pointers (R511). -/
def ledgReg (l off : Nat) : Bool := off == Reg.LEDG_LDG_HEAD l || off == Reg.LEDG_LDG_TAIL l

/-- A requester's mailbox (R540). -/
def mbReg (off : Nat) : Bool := off == Reg.SEC_MB_CMD || off == Reg.SEC_MB_STAT || inWin off 0x68000 0x1000

/-- PTP ring registers of a port (R592). -/
def ptpReg (off : Nat) : Option Nat := if inWin off 0x80400 0x180 then some ((off - 0x80400) / 0x20) else none

/-- The lodging is in confidential host mode: its rings are bounce rings (R527, R591). -/
def State.conf (s : State) (l : Nat) : Bool := s.gf (Reg.SEC_LDG_MODE l) Fld.SEC_LDG_MODE_CONF == 1

/-- Registers of lodging l that its virtual function reaches (R581); in confidential mode only its doorbells and its
mailbox (R527, R584). -/
def State.reachVf (s : State) (l off : Nat) : Bool :=
  inWin off (0x80100 + 0x20 * l) 0x20 || mbReg off || (!s.conf l && (off == Reg.LDG_STAT l || off == Reg.LDG_WB_ID l || off == Reg.LDG_CTL l ||
    s.reachSync l off || s.reachTb l off ||
    (match cntOf off with
     | some (b, i) => if i < 8 then s.ownCnt l b i else (List.range 8).any fun j => s.ownCnt l b j
     | none => false) ||
    ledgReg l off || inWin off (0x60104 + 0x20 * l) 0x10 ||
    (match ptpReg off with
     | some p => s.portHolder p == some l
     | none => false)))

/-- The tail of a stream of the lodging (R375). -/
def State.reachTail (s : State) (l off : Nat) : Bool :=
  inWin off 0xD1000 0x800 && off % 0x20 == 8 &&
    s.gf (Reg.SMP_ST_BIND ((off - 0xD1000) / 0x20)) Fld.SMP_ST_BIND_LODGING == l

/-- Registers Iambel core n reaches by CREG (R361, R375, R459, R499, R511). -/
def State.reachCreg (s : State) (n off : Nat) : Bool :=
  blockOf off == 0x30 + n || inWin off (0xC0400 + 0x20 * n) 0x14 ||
    (match s.ibcHolder n with
     | some l => s.reachSync l off || s.reachTb l off || (cntOf off).isSome || ledgReg l off || s.reachTail l off
     | none => false)

/-- The debug port reaches the port's own registers without a grant (R632). -/
def dbgOpen (off : Nat) (write : Bool) : Bool :=
  blockOf off == 0xF || mbReg off || (!write && (off == Reg.SEC_LC || off == Reg.PWR_BOOT || off == Reg.REL_FLAG))

/-- A tensor core of a lodging in the grant: dedicated to it, or holding a partition of it (R632). -/
def State.grantsTc (s : State) (c : Nat) : Bool :=
  (List.range 16).any fun l => s.grants 1 (some l) && (s.dedicated l c || (s.partOf l c).isSome)

/-- SCOPE bit 2 reaches a block: not the blocks of units of lodgings outside the grant, and not the Porter's (R632). -/
def State.reachAll (s : State) (b : Nat) : Bool :=
  match s.grant with
  | some (sc, ls) =>
    sc.testBit 2 && b != 6 &&
      (if 0x30 ≤ b then (match s.ibcHolder (b - 0x30) with
          | some l => ls.testBit l
          | none => true)
       else if 0x10 ≤ b then (List.range 16).all fun l =>
          !(s.dedicated l (b - 0x10) || (s.partOf l (b - 0x10)).isSome) || ls.testBit l
       else true)
  | none => false

/-- Registers the debug port reaches (R632). -/
def State.reachDbg (s : State) (off : Nat) (write : Bool) : Bool :=
  let b := blockOf off
  dbgOpen off write || s.reachAll b ||
    (if 0x30 ≤ b then s.grants 0 (s.ibcHolder (b - 0x30)) else decide (0x10 ≤ b) && s.grantsTc (b - 0x10))

/-- No register access is made while the device is held in reset or REFCLK is lost (R559, R614). -/
def State.alive (s : State) : Bool := !s.inReset && !s.refLoss

/-- A requester reaches a register. -/
def State.reach (s : State) (who : Requester) (off : Nat) (write : Bool) : Bool :=
  s.alive && match who with
  | .pf => s.inService || blockOf off == 5 || blockOf off == 6 || blockOf off == 7 || blockOf off == 0xF
  | .vf l => s.inService && s.reachVf l.val off
  | .ibc n => s.reachCreg n.val off
  | .dbg => s.reachDbg off write
  | .smbus => true
  | .innkeeper => true

/-- A write that a requester makes when it reaches the register, and its refusal when it does not (R581, R631). -/
def State.asWrite (s : State) (who : Requester) (off : Nat) (eff : State → State) : State :=
  if s.reach who off true then eff s else s.deny who

end Sys2Proof.Machine
end

