-- ==== Sys2Proof/Machine/Tier.lean ====
section
/-! DEFINITION. The LPDDR tier under encryption (R516 to R522): frame tags, reads that return zeros, rewrites of a
frame under the current epoch; one 64-byte unit of a move; the regulator's tokens (R213 to R216). The model keeps
each frame's plaintext and its tag: AES-XTS itself is not observable at a device address. -/
namespace Sys2Proof.Machine
open Sys2Proof

/-- Frame number of a tier address (R516). -/
def frameOf (a : Nat) : Nat := (a - tierAddr) / 4096

/-- An address in the tier's range. -/
def State.inTier (s : State) (a : Nat) : Bool := s.place a == .tier

/-- Tag of a frame (R517). -/
def State.tag (s : State) (f : Nat) : Word := tget (fun _ => 0) s.tags f

/-- CUR and the liveness of OLD of a lodging (R543). -/
def State.curEpoch (s : State) (l : Nat) : Nat := s.gf (Reg.SEC_EPOCH l) Fld.SEC_EPOCH_CUR
def State.oldLive (s : State) (l : Nat) : Bool := s.gf (Reg.SEC_EPOCH l) Fld.SEC_EPOCH_OLD_LIVE == 1

/-- The lodging a tag names under one of its two epochs, and whether that is OLD (R517, R518). -/
def State.tagLive (s : State) (f : Nat) : Option (Nat × Bool) :=
  let t := (s.tag f).toNat
  let l := t / 2 % 16
  let e := t / 32 % 2 ^ 24
  if t % 2 = 0 ∨ s.curEpoch l = 0 then none
  else if e = s.curEpoch l then some (l, false)
  else if s.oldLive l ∧ e + 1 = s.curEpoch l then some (l, true)
  else none

/-- A tier read of a unit by a lodging returns zeros (R518). -/
def State.readsZero (s : State) (l a : Nat) : Bool :=
  match s.tagLive (frameOf a) with
  | some (m, _) => m != l
  | none => true

/-- One frame less is tagged OLD; the epoch is retired at 0 (R522). -/
def State.oldLess (s : State) (l : Nat) : State :=
  let n := (s.rr (Reg.SEC_CNT_OLD l)).toNat - 1
  let s := s.wr (Reg.SEC_CNT_OLD l) (BitVec.ofNat 32 n)
  if n = 0 ∧ s.oldLive l then
    let s := (s.sf (Reg.SEC_EPOCH l) Fld.SEC_EPOCH_OLD_LIVE 0).sf (Reg.SEC_EPOCH l) Fld.SEC_EPOCH_SWEEP 0
    s.setFlag Reg.SEC_FLAG 0 (some l)
  else s

/-- Change CNT_CUR. -/
def State.curMore (s : State) (l : Nat) : State := s.wr (Reg.SEC_CNT_CUR l) (s.rr (Reg.SEC_CNT_CUR l) + 1)
def State.curLess (s : State) (l : Nat) : State := s.wr (Reg.SEC_CNT_CUR l) (s.rr (Reg.SEC_CNT_CUR l) - 1)

/-- Tag a frame with a lodging's current epoch. -/
def State.retag (s : State) (l f : Nat) : State :=
  { s with tags := tput (fun _ => 0) s.tags f (BitVec.ofNat 32 (1 + 2 * l + 32 * s.curEpoch l)) }

/-- Make a frame ready for a write by a lodging: rewritten whole under CUR unless its tag already says so
(R519, R522). -/
def State.rewrite (s : State) (l f : Nat) : State :=
  let fresh (s : State) : State :=
    let a := tierAddr + 4096 * f
    (((s.zero a 4096).clearPoison a 4096).retag l f).curMore l
  match s.tagLive f with
  | some (m, old) =>
    if m = l then (if old then ((s.retag l f).curMore l).oldLess l else s)
    else fresh (if old then s.oldLess m else s.curLess m)
  | none => fresh s

/-- Make every frame under a range of the tier ready for a write. -/
def State.tierReady (s : State) (l a n : Nat) : State :=
  if n = 0 then s
  else (List.range (frameOf (a + n - 1) + 1 - frameOf a)).foldl (fun s i => s.rewrite l (frameOf a + i)) s

/-- Store bytes for a lodging anywhere: the tier's frames are made ready first, whole words clear their poison. -/
def State.put (s : State) (l a n v : Nat) : State :=
  let s := if s.inTier a then s.tierReady l a n else s
  (s.wrLE a n v).clearPoison a n

/-- Read one 64-byte unit for a lodging: the state (ZERO_READ may be set), the unit as a number, and whether it is
uncorrectable. -/
def State.getUnit (s : State) (l a : Nat) : State × Nat × Bool :=
  if s.poisoned a 64 then (s, 0, true)
  else if s.inTier a && s.readsZero l a then (s.setFlag Reg.SEC_FLAG 9 (some l), 0, false)
  else (s, s.rdLE a 64, false)

/-- Bytes of a range for a lodging: the state, the value, whether it is uncorrectable. -/
def State.getBytes (s : State) (l a n : Nat) : State × Nat × Bool :=
  if s.poisoned a n then (s, 0, true)
  else if s.inTier a then
    let fs := (List.range (frameOf (a + n - 1) + 1 - frameOf a)).map fun i => frameOf a + i
    let zero (b : Nat) : Bool := s.readsZero l b
    let s1 := s.setFlagIf (fs.any fun f => zero (tierAddr + 4096 * f)) Reg.SEC_FLAG 9 (some l)
    let v := (List.range n).foldl (fun v i => v + (if zero (a + i) then 0 else (s.rb (a + i)).toNat) * 256 ^ i) 0
    (s1, v, false)
  else (s, s.rdLE a n, false)

/-- Move one unit inside the device for a lodging; true when the source is uncorrectable. -/
def State.moveUnit (s : State) (l dst src : Nat) : State × Bool :=
  let (s, v, bad) := s.getUnit l src
  if bad then (s, true) else (s.put l dst 64 v, false)

/-- Move n units; stops at an uncorrectable one. -/
def State.moveUnits (s : State) (l dst src : Nat) : Nat → State × Bool
  | 0 => (s, false)
  | n + 1 =>
    let (s, bad) := State.moveUnits s l dst src n
    if bad then (s, true) else s.moveUnit l (dst + 64 * n) (src + 64 * n)

/-! ### The regulator -/

/-- Capacity of a class in bytes per µs under a preset (R214): class 0 read, 1 write, 2 remote. -/
def capacity (preset cls : Nat) : Nat :=
  match preset, cls with
  | 0, 0 => 50000 | 0, 1 => 30000 | 0, _ => 20000
  | 1, 0 => 55000 | 1, 1 => 25000 | 1, _ => 20000
  | 2, 0 => 40000 | 2, 1 => 20000 | 2, _ => 40000
  | _, 0 => 30000 | _, 1 => 20000 | _, _ => 50000

/-- Share of a lodging in a class (R224). -/
def State.share (s : State) (l cls : Nat) : Nat :=
  s.gf (Reg.MEM_SHARE l) (if cls = 0 then Fld.MEM_SHARE_READ else if cls = 1 then Fld.MEM_SHARE_WRITE else Fld.MEM_SHARE_REMOTE)

/-- Units a refill adds (R215). -/
def State.refillUnits (s : State) (l cls : Nat) : Nat :=
  capacity (s.gf Reg.MEM_BW Fld.MEM_BW_PRESET) cls * s.share l cls / 64000

/-- Most tokens a bucket holds. -/
def State.bucketCap (s : State) (l cls : Nat) : Nat :=
  s.refillUnits l cls * (s.gf (Reg.MEM_DEPTH l) Fld.MEM_DEPTH_DEPTH + 1)

/-- The level register of a class. -/
def lvlReg (l cls : Nat) : Nat := if cls = 0 then Reg.MEM_LVL_READ l else if cls = 1 then Reg.MEM_LVL_WRITE l else Reg.MEM_LVL_REMOTE l

/-- Tokens of a bucket. -/
def State.tokens (s : State) (l cls : Nat) : Nat := (s.rr (lvlReg l cls)).toNat
/-- Set a bucket. -/
def State.setTokens (s : State) (l cls n : Nat) : State := s.wr (lvlReg l cls) (BitVec.ofNat 32 n)

/-- Every bucket of a lodging full (R215). -/
def State.fillBuckets (s : State) (l : Nat) : State :=
  (List.range 3).foldl (fun s k => s.setTokens l k (s.bucketCap l k)) s

/-- Admit n units in a class: their tokens are taken, MEM events 0x3000 to 0x3002 count them (R216, R498). -/
def State.take (s : State) (l cls n : Nat) : State :=
  (s.setTokens l cls (s.tokens l cls - n)).event 8 (0x3000 + cls) (some l) n

/-- Every class of a set holds a token (R216). -/
def State.affords (s : State) (l classes : Nat) : Bool :=
  (List.range 3).all fun k => !classes.testBit k || decide (0 < s.tokens l k)

/-- Take one token from every class of a set. -/
def State.pay (s : State) (l classes : Nat) : State :=
  (List.range 3).foldl (fun s k => if classes.testBit k then s.take l k 1 else s) s

/-- Requesters of a lodging beside its move queues (R207, R216, R360, R588). -/
inductive Payer where
  | air | ldpc | sample | host | peer
deriving DecidableEq, Repr

/-- Number of a payer. -/
def Payer.idx : Payer → Nat
  | .air => 0
  | .ldpc => 1
  | .sample => 2
  | .host => 3
  | .peer => 4

/-- Key of a payer's class in the table of what is due. -/
def dueKey (l : Nat) (r : Payer) (cls : Nat) : Nat := 32 * l + 4 * r.idx + cls

/-- Units of a payer that wait for a token. -/
def State.owed (s : State) (l : Nat) (r : Payer) (cls : Nat) : Nat := tget (fun _ => 0) s.due (dueKey l r cls)
/-- Set them. -/
def State.setOwed (s : State) (l : Nat) (r : Payer) (cls n : Nat) : State :=
  { s with due := tput (fun _ => 0) s.due (dueKey l r cls) n }
/-- A payer has units that wait. -/
def State.owes (s : State) (l : Nat) (r : Payer) : Bool := (List.range 3).any fun k => decide (0 < s.owed l r k)

/-- n units of a payer ask for their tokens: what the bucket holds admits them now, the rest waits (R216). Whatever waited
before has left the bucket without a token. -/
def State.charge (s : State) (l : Nat) (r : Payer) (cls n : Nat) : State :=
  let k := min n (s.tokens l cls)
  (if k = 0 then s else s.take l cls k).setOwed l r cls (s.owed l r cls + (n - k))

/-- n bytes at an address that a lodging's traffic reads or writes: those in the tier are put to its regulator (R113, R216). -/
def State.tierCharge (s : State) (l : Nat) (r : Payer) (a n : Nat) (wr : Bool) : State :=
  if s.inTier a then s.charge l r (if wr then 1 else 0) (cdiv n 64) else s

/-- The payers in their order in a round. -/
def payers : List Payer := [.air, .ldpc, .sample, .host, .peer]

/-- One unit of each payer is admitted, ahead of the moves of the round (R216). -/
def State.dueRound (s : State) (l : Nat) : State × Bool :=
  (payers.flatMap fun r => (List.range 3).map fun k => (r, k)).foldl (fun (x : State × Bool) (r, k) =>
    if 0 < x.1.owed l r k ∧ 0 < x.1.tokens l k then
      ((x.1.take l k 1).setOwed l r k (x.1.owed l r k - 1), true)
    else x) (s, false)

/-- Units that wait, of every payer. -/
def State.owedAll (s : State) (l : Nat) : Nat :=
  payers.foldl (fun n r => (List.range 3).foldl (fun n k => n + s.owed l r k) n) 0

/-! ### Operations asked of a peer (R600, R601) -/

/-- A link is not FAILED: operations may be asked over it (R258, R599). One that is not up answers nothing, and they end
with TIMEOUT (R601). -/
def State.linkUp (s : State) (k : Nat) : Bool := s.gf (Reg.DLK_STAT k) Fld.DLK_STAT_STATE != 4

/-- A device link's end. -/
def State.linkOf (s : State) (k : Nat) : Link := tget (fun _ => Link.reset) s.links k
/-- Change a device link's end. -/
def State.setLink (s : State) (k : Nat) (f : Link → Link) : State := { s with links := tmod (fun _ => Link.reset) s.links k f }

/-- Hand a record to a link's transmitter: its record and flit numbers follow on (R525, R597, R600); the first one
unacknowledged starts the 4 µs of R598. -/
def State.linkSend (s : State) (k : Nat) (r : LinkRec) : State :=
  let n := tget (fun _ => 0) s.linkSeq k
  let f := tget (fun _ => 0) s.linkFlit k + cdiv (48 + r.data.length) 244
  let s := if tget (fun _ => []) s.linkTx k = [] then s.setLink k fun l => { l with ackAt := s.cycle } else s
  { s with
    linkSeq := tput (fun _ => 0) s.linkSeq k (n + 1)
    linkFlit := tput (fun _ => 0) s.linkFlit k f
    linkTx := tmod (fun _ => []) s.linkTx k fun t => t ++ [{ r with seq := n, flit := f }] }

/-- Ask an operation of the peer on a link: its number, its first record. -/
def State.linkAsk (s : State) (k kind ldg : Nat) (src : LinkSrc) (recs : List LinkRec) : State :=
  let n := tget (fun _ => 0) s.linkOpNo k
  let s := { s with
    linkOpNo := tput (fun _ => 0) s.linkOpNo k ((n + 1) % 2 ^ 32)
    linkOps := s.linkOps ++ [⟨k, n, kind, ldg, src, s.cycle, 0, 0⟩] }
  recs.foldl (fun s r => s.linkSend k { r with op := n }) s

/-- KIND, LINK, peer lodging and peer descriptor in a descriptor's word 3 (R202). -/
def w3Remote (w : Word) : Bool := getF w Fld.LDG_REGION3_KIND == 5
def w3Link (w : Word) : Nat := getF w Fld.LDG_REGION3_LINK
def w3Ldg (w : Word) : Nat := getF w Fld.LDG_REGION3_PEER_LDG
def w3Reg (w : Word) : Nat := getF w Fld.LDG_REGION3_PEER_REG

/-- A record of this end for a remote region. -/
def remoteRec (kind l : Nat) (w3 : Word) (addr : Nat) (data : List Byte) : LinkRec :=
  ⟨kind, true, l, w3Ldg w3, w3Reg w3, 0, 0, addr, data, 0, 0⟩

/-- n bytes of memory as a list. -/
def State.bytesAt (s : State) (a n : Nat) : List Byte := (List.range n).map fun i => s.rb (a + i)

end Sys2Proof.Machine
end

