-- ==== Sys2Proof/Machine/HostQ.lean ====
section
/-! DEFINITION. Completions toward the host (R587, R589, R590): the hold of each lodging, the entries that are open,
the NOP entries that wait for them. -/
namespace Sys2Proof.Machine
open Sys2Proof

/-- A lodging's rings. -/
def State.ringsOf (s : State) (l : Nat) : Rings := tget (fun _ => Rings.none) s.rings l
/-- Change a lodging's rings. -/
def State.setRings (s : State) (l : Nat) (f : Rings → Rings) : State :=
  { s with rings := tmod (fun _ => Rings.none) s.rings l f }

/-- A completion enters the hold; one that finds it full is lost (R590). -/
def State.hold (s : State) (l : Nat) (c : Cpl) : State :=
  if 256 ≤ (s.ringsOf l).hold.length then s.setFlag Reg.HIF_FLAG 2 (some l)
  else s.setRings l fun r => { r with hold := r.hold ++ [c] }

/-- The record of a KIND 4 completion: STATUS and TAG (R589). -/
def kind4 (st tag : Nat) : Nat := st + 2 ^ 32 * (tag % 2 ^ 32)

/-- NOP entries with no earlier entry open complete, in order (R587). -/
def State.flushNops (s : State) (l : Nat) : State :=
  let r := s.ringsOf l
  let ready := r.nops.filter fun (n, _, _) => r.open_.all fun m => decide (n ≤ m)
  let s := s.setRings l fun r =>
    { r with
      nops := r.nops.filter fun x => !ready.contains x
      open_ := r.open_.filter fun m => !(ready.any fun (n, _, _) => n == m) }
  ready.foldl (fun s (_, i, tag) => (s.countStatus 8 St.ok (some l)).hold l ⟨4, kind4 St.ok tag, i⟩) s

/-- An entry is open no more. -/
def State.closeEntry (s : State) (l no : Nat) : State :=
  (s.setRings l fun r => { r with open_ := r.open_.filter fun m => m != no }).flushNops l

/-- The work of an entry completes with one record. -/
def State.hostDone (s : State) (l no idx kind body : Nat) : State := (s.hold l ⟨kind, body, idx⟩).closeEntry l no

/-! ### Taking submission entries (R585, R586, R591) -/

/-- Entries of a ring of LOG2. -/
def ringLen (log2 : Nat) : Nat := 2 ^ log2

/-- Host address in a pair of base registers (R584). -/
def State.hostBase (s : State) (lo hi : Nat) : Nat := (s.rr lo).toNat / 4096 * 4096 + 2 ^ 32 * (s.rr hi).toNat

/-- The entry the device takes next from a lodging's submission ring, or from the entries a bounce record brought. No
entry is taken while the hold has 192 or more (R585). -/
def State.nextSub (s : State) (l : Nat) : Option Sub :=
  let r := s.ringsOf l
  if 192 ≤ r.hold.length then none
  else if s.conf l then r.subs.head?
  else
    let p := Reg.HIF_SQ_PTR l
    let head := s.gf p Fld.HIF_SQ_PTR_HEAD
    if s.gf (Reg.HIF_SQ_CFG l) Fld.HIF_SQ_CFG_EN = 1 ∧ head ≠ s.gf p Fld.HIF_SQ_PTR_TAIL then
      some ⟨s.hrdLE (s.hostBase (Reg.HIF_SQ_BASE_LO l) (Reg.HIF_SQ_BASE_HI l) + 64 * head) 64, head⟩
    else none

/-- Take the next entry: HEAD moves past it; the entry is open until its work completes. -/
def State.tookSub (s : State) (l : Nat) : State :=
  let s := s.setRings l fun r => { r with taken := r.taken + 1, open_ := r.open_ ++ [r.taken] }
  if s.conf l then s.setRings l fun r => { r with subs := r.subs.drop 1 }
  else
    let p := Reg.HIF_SQ_PTR l
    let n := ringLen (s.gf (Reg.HIF_SQ_CFG l) Fld.HIF_SQ_CFG_LOG2)
    s.sf p Fld.HIF_SQ_PTR_HEAD ((s.gf p Fld.HIF_SQ_PTR_HEAD + 1) % n)

/-- Fields of a submission entry (R586). -/
def Sub.ty (e : Sub) : Nat := dfield e.bytes 0 1
def Sub.reg (e : Sub) : Nat := dfield e.bytes 1 1
def Sub.sig (e : Sub) : Nat := dfield e.bytes 2 2
def Sub.len (e : Sub) : Nat := dfield e.bytes 4 4
def Sub.off (e : Sub) : Nat := dfield e.bytes 8 8
def Sub.host (e : Sub) : Nat := dfield e.bytes 0x10 8
def Sub.tag (e : Sub) : Nat := dfield e.bytes 0x18 4

/-- Reserved bytes that are not 0, for an entry that is no copy (R586, R587). -/
def Sub.badPlain (e : Sub) : Bool := dfield e.bytes 0x1C 36 != 0 || e.sig != 0 || e.len != 0

/-- An entry that is refused outright completes as KIND 4 (R587, R589), counted in the block (R11, R497). -/
def State.refuseSub (s : State) (l : Nat) (e : Sub) (no st : Nat) : State :=
  (s.countStatus 8 st (some l)).hostDone l no e.idx 4 (kind4 st e.tag)

/-- A row that takes the next entry of a lodging's ring when it is of the row's type. A confidential lodging's entry completes
with NOT_READY while no session is open (R527). -/
def subRow (l : Fin 16) (isTy : Nat → Bool) (s : State) (body : Sub → Nat → State → State) :
    Host.Outcome State Fault Refusal :=
  match s.nextSub l.val with
  | none => .next s
  | some e =>
    if isTy e.ty then
      let no := (s.ringsOf l.val).taken
      let t := s.tookSub l.val
      .next (if s.conf l.val && (tget (fun _ => none) s.sess l.val).isNone then t.refuseSub l.val e no St.notReady else body e no t)
    else .next s

end Sys2Proof.Machine
end

