-- ==== Sys2Proof/Machine/Batch.lean ====
section
/-! DEFINITION. Batch queues of the sample decoders (R388 to R392): formation, release, the batch record. -/
namespace Sys2Proof.Machine
open Sys2Proof

/-- A batch queue. -/
def State.bqOf (s : State) (l q : Nat) : BatchQ := tget (fun _ => BatchQ.none) s.bq (4 * l + q)
/-- Change a batch queue. -/
def State.setBq (s : State) (l q : Nat) (f : BatchQ → BatchQ) : State :=
  { s with bq := tmod (fun _ => BatchQ.none) s.bq (4 * l + q) f }

/-- The queue is valid (R396). -/
def State.bqValid (s : State) (l q : Nat) : Bool := wbit (s.rr (Reg.SMP_BQ_DESC l q)) 31

/-- Fields of a queue's descriptor (R388). -/
def bqMode (d : Nat) : Nat := dfield d 2 1
def bqSlotBytes (d : Nat) : Nat := dfield d 8 4
def bqNslot (d : Nat) : Nat := dfield d 0xC 2
def bqBmax (d : Nat) : Nat := dfield d 0xE 2

/-- Device address of a slot (R389). -/
def State.bqSlotAddr (s : State) (l : Nat) (d k : Nat) : Nat := (s.region l (dfield d 0 1)).base + dfield d 4 4 + k * bqSlotBytes d
/-- Device address of the record area. -/
def State.bqRecAddr (s : State) (l : Nat) (d : Nat) : Nat := (s.region l (dfield d 1 1)).base + dfield d 0x10 4

/-- Free slots of a queue, lowest first. -/
def BatchQ.freeSlots (b : BatchQ) : List Nat :=
  (List.range (bqNslot b.desc)).filter fun k => !b.used.contains k && !(b.resv.any fun r => r.2.contains k)

/-- An entry of the batch record (R392) as a number. -/
def recEntry (stream part st frame slot tag : Nat) : Nat :=
  stream + 2 ^ 16 * part + 2 ^ 24 * st + 2 ^ 32 * (frame % 2 ^ 32) + 2 ^ 64 * slot + 2 ^ 96 * tag

/-- Form a batch (R391, R392): the ready samples in ready order up to BMAX; the record is written. -/
def State.formBatch (s : State) (l q : Nat) : State :=
  let b := s.bqOf l q
  let take := b.ready.take (bqBmax b.desc)
  let a := s.bqRecAddr l b.desc
  let head := b.seq + 2 ^ 32 * take.length + 2 ^ 48 * b.drops.length + 2 ^ 64 * b.dropOvf
  let s := s.put l a 64 head
  let es := (take.map fun x => recEntry x.stream x.part x.st x.frame x.slot x.tag) ++
    b.drops.map fun (st, status, fr, cause, tag) => recEntry st 0xFF status fr cause tag
  let s := es.zipIdx.foldl (fun s (e, i) => s.put l (a + 64 + 16 * i) 16 e) s
  (s.setBq l q fun b =>
    { b with
      ready := b.ready.drop take.length, held := some (take.map fun x => x.slot), drops := [], dropOvf := 0,
      seq := (b.seq + 1) % 2 ^ 32 }).sf (Reg.SMP_BQ_STAT l) Fld.SMP_BQ_STAT_HELD
        (s.gf (Reg.SMP_BQ_STAT l) Fld.SMP_BQ_STAT_HELD ||| 2 ^ q)

/-- Free the slots of a held batch (R391). -/
def State.freeBatch (s : State) (l q : Nat) : State :=
  match (s.bqOf l q).held with
  | some ks =>
    (s.setBq l q fun b => { b with held := none, used := b.used.filter fun k => !ks.contains k }).sf (Reg.SMP_BQ_STAT l)
      Fld.SMP_BQ_STAT_HELD (s.gf (Reg.SMP_BQ_STAT l) Fld.SMP_BQ_STAT_HELD &&& (15 - 2 ^ q))
  | none => s

/-- Write of TAKE (R391): forms batches on the MODE 1 queues of a mask; a queue that holds one forms nothing. -/
def State.takeMask (s : State) (l mask : Nat) : State :=
  (List.range 4).foldl (fun (s : State) q =>
    if mask.testBit q ∧ s.bqValid l q ∧ bqMode (s.bqOf l q).desc = 1 then
      if (s.bqOf l q).held.isSome then s.setFlag Reg.SMP_FLAG 6 (some l) else s.formBatch l q
    else s) s

/-- Write of RELEASE (R391). -/
def State.releaseMask (s : State) (l mask : Nat) : State :=
  (List.range 4).foldl (fun (s : State) q =>
    if mask.testBit q ∧ bqMode (s.bqOf l q).desc = 1 then s.freeBatch l q else s) s

/-- TAKE (R391). -/
def execTakeBatch (who : Requester) (l : Fin 16) (q : Fin 4) (s : State) : Host.Outcome State Fault Refusal :=
  .next (s.asWrite who (Reg.SMP_BQ_CTL l.val) fun s => s.takeMask l.val (2 ^ q.val))

/-- BQ_RELEASE (R391). -/
def execBqRelease (who : Requester) (l : Fin 16) (q : Fin 4) (s : State) : Host.Outcome State Fault Refusal :=
  .next (s.asWrite who (Reg.SMP_BQ_CTL l.val) fun s => s.releaseMask l.val (2 ^ q.val))

end Sys2Proof.Machine
end

