-- ==== Sys2Proof/Machine/Teardown.lean ====
section
/-! DEFINITION. A lodging's waybill at its end: output markers, the completion record (R413, R414), clearing (R401,
R138, R61) and teardown (R416). -/
namespace Sys2Proof.Machine
open Sys2Proof

/-! ### Waybills and Iambel cores -/

/-- A lodging's waybills. -/
def State.lodgeOf (s : State) (l : Nat) : Lodge := tget (fun _ => Lodge.idle) s.lodge l
/-- Change a lodging's waybills. -/
def State.setLodge (s : State) (l : Nat) (f : Lodge → Lodge) : State :=
  { s with lodge := tmod (fun _ => Lodge.idle) s.lodge l f }

/-- An Iambel core. -/
def State.ibcOf (s : State) (n : Nat) : Ibc := tget (fun _ => Ibc.reset) s.ibc n
/-- Change an Iambel core. -/
def State.setIbc (s : State) (n : Nat) (f : Ibc → Ibc) : State := { s with ibc := tmod (fun _ => Ibc.reset) s.ibc n f }

/-- Write an output marker (R413). -/
def State.marker (s : State) (l a id st : Nat) : State := s.put l a 16 (id + 2 ^ 32 * st)

/-- The waybill completion record (R414) as one number. -/
def wbRecord (st cause unit slot id seq cstat : Nat) : Nat :=
  st + 2 ^ 8 * cause + 2 ^ 16 * unit + 2 ^ 24 * slot + 2 ^ 32 * id + 2 ^ 64 * (seq % 2 ^ 32) + 2 ^ 96 * cstat

/-- A waybill ends with a record: LDG.STAT.LAST_STATUS holds its STATUS (R428). -/
def State.wbDone (s : State) (l : Nat) (w : Wb) (st cause unit slot seq cstat : Nat) : State :=
  ((s.sf (Reg.LDG_STAT l) Fld.LDG_STAT_LAST_STATUS st).countStatus 0 st (some l)).hostDone l w.no w.idx 1 (wbRecord st cause unit slot w.id seq cstat)

/-! ### Tensor cores -/

/-- Record of a bank as its loads have been made; issue record of a bank (R61). -/
def Tc.record (t : Tc) (b : Nat) : BankRec := if b = 0 then t.rec0 else t.rec1
def Tc.issRec (t : Tc) (b : Nat) : BankRec := if b = 0 then t.iss0 else t.iss1

/-- Set the issue record of a bank (R61). -/
def State.setIss (s : State) (c b : Nat) (r : BankRec) : State :=
  s.setTc c fun t => if b = 0 then { t with iss0 := r } else { t with iss1 := r }

/-- A record that is no longer valid: OWNER and FMT stay those of the last load (R78). -/
def BankRec.dropped (r : BankRec) : BankRec := { r with valid := false }

/-- Set the record of a bank and its view in TC.ENG_BANK and TC.ENG_STATE (R61, R77, R78). -/
def State.setRecord (s : State) (c b : Nat) (r : BankRec) : State :=
  let s := s.setTc c fun t => if b = 0 then { t with rec0 := r } else { t with rec1 := r }
  let a := Reg.TC_ENG_BANK c b
  let s := s.sf a Fld.TC_ENG_BANK_OWNER r.owner
  let s := s.sf a Fld.TC_ENG_BANK_LANES (if r.valid then r.n else 0)
  let s := s.sf a Fld.TC_ENG_BANK_DEPTH (if r.valid then r.kp else 0)
  let s := s.sf a Fld.TC_ENG_BANK_FMT r.fmt
  s.sf (Reg.TC_ENG_STATE c) (if b = 0 then Fld.TC_ENG_STATE_BANK0_VALID else Fld.TC_ENG_STATE_BANK1_VALID)
    (if r.valid then 1 else 0)

/-- The tile buffers of a partition: FREE, contents 0, EMPTY clear, queue empty (R138). -/
def State.clearTiles (s : State) (c p r0 n : Nat) : State :=
  s.setTc c fun t =>
    { t with
      tbuf := (List.range 4).foldl (fun m b => tclear (128 * (256 * b + r0)) (128 * (256 * b + r0 + n)) m) t.tbuf
      empty := (List.range 4).foldl (fun m b => tclear (256 * b + r0) (256 * b + r0 + n) m) t.empty
      tbState := tclear (4 * p) (4 * p + 4) t.tbState
      ftq := tclear p (p + 1) t.ftq }

/-- Accumulator rows set to 0. -/
def State.clearAcc (s : State) (c r0 n : Nat) : State :=
  s.setTc c fun t => { t with acc := tclear (128 * r0) (128 * (r0 + n)) t.acc }

/-- Banks of a lodging not valid, its shadows too (R61, R79). -/
def State.dropBanks (s : State) (c p l : Nat) : State :=
  let s := s.setTc c fun t => { t with shRec := tclear (2 * p) (2 * p + 2) t.shRec }
  (List.range 2).foldl (fun s b =>
    let i := (s.tcOf c).issRec b
    let r := (s.tcOf c).record b
    let s := if i.owner = l then s.setIss c b i.dropped else s
    if r.owner = l then s.setRecord c b r.dropped else s) s

/-- Both banks not valid (R61). -/
def State.clearBanks (s : State) (c : Nat) : State :=
  let t := s.tcOf c
  (((s.setRecord c 0 t.rec0.dropped).setRecord c 1 t.rec1.dropped).setIss c 0 t.iss0.dropped).setIss c 1 t.iss1.dropped

/-- Attachments removed (R184). -/
def State.dropAttach (s : State) (c p : Nat) : State :=
  (s.setSlot c p .a fun t => { t with att := Attach.off }).setSlot c p .b fun t => { t with att := Attach.off }

/-- What a core loses at teardown: R138, both banks, attachments, accumulator rows. -/
def State.clearUnits (s : State) (c p l : Nat) (acc tb : Nat × Nat) : State :=
  (((s.clearTiles c p tb.1 tb.2).dropBanks c p l).dropAttach c p).clearAcc c acc.1 acc.2

/-- A page-manager function that has begun and whose work is not made: a teardown lets it complete (R234). -/
def CmdEntry.mustEnd (e : CmdEntry) : Bool :=
  e.begun && !e.done && (nbits e.w.toNat 127 120 == 0x71 || nbits e.w.toNat 127 120 == 0x72)

/-- The begun page-manager functions of a slot go on without it (R234, R416). -/
def State.keepRest (s : State) (c p : Nat) (sl : Slot) : State :=
  let t := s.slotOf c p sl
  { s with kvRest := s.kvRest ++ (t.inflight.filter CmdEntry.mustEnd).map fun e => ⟨c, p, t.ldg, sl, e⟩ }

/-- A slot of a waybill stops issuing: its commands in flight and its moves are dropped; a slot that stopped under R98
keeps STOPPED, any other is IDLE (R416 steps 1 and 2). -/
def TcSlot.quit (t : TcSlot) : TcSlot :=
  { t with
    active := false, st := if t.st = 3 then 3 else 0, inflight := [], moves := [], wait := .none, claimed := 0,
    ended := false, skipSeq := false, step := false, stalled := false }

/-! ### Iambel cores -/

/-- An Iambel core becomes STOPPED and its transfer queue empty (R416). -/
def Ibc.quit (b : Ibc) : Ibc :=
  { b with st := 0, xq := [], reads := [], stopReq := false, haltReq := false, stepping := false, wp := none }

/-! ### DEBUG (R285, R418, R639) -/

/-- What the AIR block keeps of a carrier. -/
def State.carOf (s : State) (a : Nat) : Car := tget (fun _ => Car.none) s.car a
/-- Change what the AIR block keeps of a carrier. -/
def State.setCar (s : State) (a : Nat) (f : Car → Car) : State := { s with car := tmod (fun _ => Car.none) s.car a f }

/-- An enabled carrier enters ACQUIRE (R285). -/
def State.acquire (s : State) (a : Nat) : State :=
  if s.gf (Reg.AIR_CAR_CFG0 a) Fld.AIR_CAR_CFG0_ENABLE = 1 then
    (s.sf (Reg.AIR_CAR_STAT a) Fld.AIR_CAR_STAT_STATE 1).setCar a fun c => { c with good := 0, bad := 0, pilotAt := 0 }
  else s

/-- A carrier is served by the lodging. -/
def State.serves (s : State) (l a : Nat) : Bool :=
  s.gf (Reg.AIR_CAR_CFG0 a) Fld.AIR_CAR_CFG0_ENABLE == 1 && s.gf (Reg.AIR_CAR_CFG0 a) Fld.AIR_CAR_CFG0_LODGING == l

/-- A core of the lodging is halted. -/
def State.anyHalted (s : State) (l : Nat) : Bool :=
  ((List.range 16).any fun n => s.rbit (Reg.LDG_IAMBEL l) n && (s.ibcOf n).st == 5) ||
    s.tc.any fun (_, t) => t.slots.any fun (_, u) => u.active && u.ldg == l && u.st == 4

/-- A unit of a lodging has halted: HALTED is set; the first one puts the lodging into DEBUG (R639, R641). -/
def State.enterDebug (s : State) (l : Option Nat) : State :=
  let s := s.setFlag Reg.DBG_FLAG 0 l
  match l with
  | some l =>
    if (s.lodgeOf l).dbgAt.isSome then s
    else (s.setFlag Reg.DBG_FLAG 1 (some l)).setLodge l fun g => { g with dbgAt := some s.cycle }
  | none => s

/-- A unit of a lodging runs again: the last one ends DEBUG, and the lodging's carriers enter ACQUIRE (R639). -/
def State.leaveDebug (s : State) (l : Nat) : State :=
  match (s.lodgeOf l).dbgAt with
  | some t =>
    if s.anyHalted l then s
    else
      let s := s.setLodge l fun g => { g with dbgAt := none, inDebug := g.inDebug + (s.cycle - t) }
      (List.range 8).foldl (fun s a => if s.serves l a then s.acquire a else s) s
  | none => s

/-- A CREG read lands in the set it was issued from (R361, R365). -/
def IbArch.landRead (a : IbArch) (r : IbRead) : IbArch :=
  let put (b : IbSet) : IbSet := { b with d := tput (fun _ => 0) b.d r.d r.v }
  if r.set then { a with shadow := put a.shadow } else { a with base := put a.base }

/-- A CREG read of a core lands; one issued before the last checkpoint lands in the checkpoint too, for a replay does not
issue it again (R368, R369). -/
def Ibc.landRead (b : Ibc) (r : IbRead) : Ibc :=
  { b with a := b.a.landRead r, ck := if r.since < b.ckAt then b.ck.landRead r else b.ck }

/-- An Iambel core has halted with a cause of R642; every result in flight has landed, CREG reads included (R633). -/
def State.ibHalted (s : State) (n cause : Nat) (index : Nat := 0) : State :=
  let s := s.setIbc n fun b => { b.reads.foldl Ibc.landRead b with reads := [] }
  let b := s.ibcOf n
  let r := Reg.DBG_IBC_CAUSE n
  let s := ((s.sf r Fld.DBG_IBC_CAUSE_CAUSE cause).sf r Fld.DBG_IBC_CAUSE_INDEX index).sf r Fld.DBG_IBC_CAUSE_PC b.a.pc
  s.enterDebug (s.ibcHolder n)

/-! ### Teardown -/

/-- The slot entries of a waybill whose slots still serve it, each with its partition: a core that has passed to another
lodging serves it no more. -/
def State.liveSlots (s : State) (l : Nat) (w : Wb) : List (WbSlot × Nat) :=
  (w.slots.map fun e => (e, s.partIx l e.core)).filter fun (e, p) =>
    (s.slotOf e.core p e.sl).active && (s.slotOf e.core p e.sl).ldg == l

/-- Free the batches formed at a waybill's dispatch (R391). -/
def State.freeBatches (s : State) (l bq : Nat) : State :=
  (List.range 4).foldl (fun s q => if bq.testBit q then s.freeBatch l q else s) s

/-- Tear a lodging's running waybill down (R416): the cause is a CAUSE of R414 with its UNIT, SLOT, SEQ and CSTAT. -/
def State.teardown (s : State) (l cause unit slot seq cstat : Nat) : State :=
  match (s.lodgeOf l).run with
  | none => s
  | some w =>
    let es := s.liveSlots l w
    let s := es.foldl (fun s (e, p) => (s.keepRest e.core p e.sl).setSlot e.core p e.sl TcSlot.quit) s
    let dead (o : LinkOp) : Bool := match o.src with
      | .move c p sl _ _ => (s.slotOf c p sl).ldg == l && (s.slotOf c p sl).moves == []
      | .page c p sl _ => (s.slotOf c p sl).ldg == l && (s.slotOf c p sl).moves == []
      | .xfer n _ _ => w.ibc.testBit n
      | .peer _ _ _ => false
    let s := { s with
      kvq := s.kvq.filter fun q => q.l != l
      landing := s.landing.filter fun a => !(s.linkOps.any fun o => dead o && o.land == a)
      linkOps := s.linkOps.filter fun o => !dead o }
    let s := (List.range 16).foldl (fun s n => if w.ibc.testBit n then s.setIbc n Ibc.quit else s) s
    let s := (List.range 64).foldl (fun s k => if s.syncHolder (64 * k) = some l then s.clearBlock k else s) s
    let s := es.foldl (fun s (e, p) => s.clearUnits e.core p l (s.accRows l e.core) (s.tbRows l e.core)) s
    let s := w.outs.foldl (fun s a => s.marker l a w.id 0x0C) s
    let s := s.freeBatches l w.bq
    let s := s.wbDone l w St.tornDown cause unit slot seq cstat
    let s := s.setFlag Reg.LDG_FLAG 1 (some l)
    (s.setLodge l fun g => { g with run := none, yieldAt := none, inDebug := 0, stopped := 0 }).leaveDebug l

end Sys2Proof.Machine
end

