-- ==== Sys2Proof/Machine/Iambel.lean ====
section
/-! DEFINITION. Iambel signal cores: registers and results in flight (R333 to R339), address generators (R336),
scaled moves (R350), the frame of every instruction: fetch, loops, repeats, traps, checkpoints. -/
namespace Sys2Proof.Machine
open Sys2Proof

/-! ### Registers -/

/-- One of the two register sets. -/
def IbArch.set (a : IbArch) (sh : Bool) : IbSet := if sh then a.shadow else a.base
/-- Change one of the two register sets. -/
def IbArch.modSet (a : IbArch) (sh : Bool) (f : IbSet → IbSet) : IbArch :=
  if sh then { a with shadow := f a.shadow } else { a with base := f a.base }
/-- The active set. -/
def IbArch.cur (a : IbArch) : IbSet := a.set a.high
/-- Dk of a set. -/
def IbSet.dReg (b : IbSet) (k : Nat) : Word := tget (fun _ => 0) b.d k
/-- Dk of the active set. -/
def IbArch.d (a : IbArch) (k : Nat) : Word := a.cur.dReg k
/-- An address-generator field: 0 address, 1 step, 2 base, 3 length; generators 0–3 AX, 4–7 AY. -/
def IbArch.agF (a : IbArch) (f g : Nat) : Nat := (tget (fun _ => 0) a.cur.ag (8 * f + g)).toNat
/-- An accumulator as reads see it: 72 bits, two's complement. -/
def IbArch.ac (a : IbArch) (k : Nat) : Int := tget (fun _ => 0) a.acc k
/-- ST of the active set. -/
def IbArch.st (a : IbArch) : Nat := a.cur.st.toNat
/-- Signed SHIFT (R334). -/
def IbArch.shift (a : IbArch) : Int := (BitVec.ofNat 4 a.st).toInt
/-- LEV (R334). -/
def IbArch.lev (a : IbArch) : Nat := nbits a.st 16 15
/-- AGMODE of a generator (R335). -/
def IbArch.mode (a : IbArch) (g : Nat) : Nat := nbits a.cur.agmode.toNat (2 * g + 1) (2 * g)

/-- Signed value of the low w bits. -/
def sgn (w : Nat) (v : Nat) : Int := (BitVec.ofNat w v).toInt

/-- Replace the bits of a mask in a word. -/
def maskIn (old mask v : Nat) : Nat := (old &&& (2 ^ 32 - 1 - mask % 2 ^ 32)) ||| (v &&& mask)

/-- The bits of ST that a write reaches: not LEV, not the reserved bits (R334). -/
def stMask : Nat := 0x7FFF

/-- A result lands (R335, R337). -/
def IbArch.apply (a : IbArch) (w : IbWrite) : IbArch :=
  let put (k : Nat) (f : Nat → Nat) : IbArch :=
    a.modSet w.set fun b => { b with d := tput (fun _ => 0) b.d k (BitVec.ofNat 32 (f (b.dReg k).toNat)) }
  let stw (f : Nat → Nat) : IbArch := a.modSet w.set fun b => { b with st := BitVec.ofNat 32 (f b.st.toNat) }
  let acc (k : Nat) (v : Int) : IbArch := { a with acc := tput (fun _ => 0) a.acc k v }
  let v32 := (BitVec.ofInt 32 w.v).toNat
  match w.dst with
  | .d k => put k fun _ => v32
  | .dL k => put k fun o => maskIn o 0xFFFF v32
  | .dH k => put k fun o => maskIn o 0xFFFF0000 (v32 * 65536)
  | .ac k => acc k w.v
  | .acHi k => acc k (w.v * 2 ^ 32)
  | .acLo k => acc k (a.ac k - a.ac k % 2 ^ 32 + w.v % 2 ^ 32)
  | .acGuard k => acc k (sgn 8 (w.v % 256).toNat * 2 ^ 64 + a.ac k % 2 ^ 64)
  | .ag key => a.modSet w.set fun b => { b with ag := tput (fun _ => 0) b.ag key (BitVec.ofInt 16 w.v) }
  | .agmode => a.modSet w.set fun b => { b with agmode := BitVec.ofInt 16 w.v }
  | .st => stw fun o => maskIn o stMask v32
  | .stOr m => stw fun o => o ||| m
  | .flags nz cv => stw fun o => maskIn o ((if nz then 0x600 else 0) + (if cv then 0x1800 else 0)) v32
  | .shift => stw fun o => maskIn o 0xF (BitVec.ofInt 4 w.v).toNat
  | .lc => { a with lc := min v32 65536 }
  | .bexp => { a with bexp := (BitVec.ofInt 16 w.v).toInt }

/-- Order of landing: the cycle, then compute operation, X move, Y move (R339). -/
def IbWrite.key (w : IbWrite) : Nat := 4 * w.due + w.cls

/-- Put a result in its place; results of equal order keep their order of issue. -/
def insWrite (w : IbWrite) : List IbWrite → List IbWrite
  | [] => [w]
  | x :: t => if w.key < x.key then w :: x :: t else x :: insWrite w t

/-- Land every result seen from this cycle or earlier. -/
def IbArch.land (a : IbArch) : IbArch :=
  let (now, later) := a.flight.partition fun w => decide (w.due ≤ a.cyc)
  (now.foldl (fun l w => insWrite w l) []).foldl (fun a w => a.apply w) { a with flight := later }

/-- Land every result in flight. -/
def IbArch.landAll (a : IbArch) : IbArch :=
  (a.flight.foldl (fun l w => insWrite w l) []).foldl (fun a w => a.apply w) { a with flight := [] }

/-- The value an accumulation starts from: the result before it in issue order (R338). -/
def IbArch.accIn (a : IbArch) (k : Nat) : Int :=
  match a.flight.reverse.find? fun w => w.dst == .ac k with
  | some w => w.v
  | none => a.ac k

/-! ### Address generators (R336) -/

/-- Reverse the low q bits. -/
def revBits (q x : Nat) : Nat := (List.range q).foldl (fun r i => r + (if x.testBit i then 2 ^ (q - 1 - i) else 0)) 0

/-- q when L = 2^q with q from 1 to 15. -/
def logOf (len : Nat) : Option Nat := (List.range 16).find? fun q => 0 < q && 2 ^ q == len

/-- A post-modified address for a signed step. -/
def postMod (mode addr : Nat) (step : Int) (base len : Nat) : Nat :=
  let lin := (((addr : Int) + step) % 65536).toNat
  let circ := if len = 0 then lin else (((base : Int) + ((addr : Int) - base + step) % len) % 65536).toNat
  if mode = 0 then lin
  else if mode = 2 then
    match logOf len with
    | some q =>
      let x := revBits q (((addr : Int) - base) % len).toNat + (step % len).toNat
      (base + revBits q (x % len)) % 65536
    | none => circ
  else circ

/-- A generator's next address for a step of its own sign. -/
def IbArch.next (a : IbArch) (g : Nat) (neg : Bool) : Nat :=
  let st := sgn 16 (a.agF 1 g)
  postMod (a.mode g) (a.agF 0 g) (if neg then -st else st) (a.agF 2 g) (a.agF 3 g)

/-! ### Memories (R330) -/

/-- Words of X (0), Y (1), P (2). -/
def ibWords (m : Nat) : Nat := if m = 2 then 16384 else 24576
/-- Device address of a word of X (0), Y (1), P (2). -/
def ibWord (n m w : Nat) : Nat := iamAddr n + (if m = 0 then 0x10000 else if m = 1 then 0x28000 else 0) + 4 * w

/-! ### What an instruction does -/

/-- The effect of the parts of an instruction: results with their latency, memory writes (device address, bytes,
value), headrooms tracked, a read that found poison. -/
structure IbOut where
  ws : List IbWrite
  mem : List (Nat × Nat × Nat)
  track : List Int
  bad : Bool
deriving DecidableEq, Repr

/-- No effect. -/
def IbOut.none : IbOut := ⟨[], [], [], false⟩
/-- Two parts together. -/
def IbOut.add (x y : IbOut) : IbOut := ⟨x.ws ++ y.ws, x.mem ++ y.mem, x.track ++ y.track, x.bad || y.bad⟩

/-- Causes of R367. -/
def Trap.illegal : Nat := 1
def Trap.memFault : Nat := 2
def Trap.repLimit : Nat := 3
def Trap.perm : Nat := 4
def Trap.stack : Nat := 5
def Trap.sw : Nat := 6
def Trap.xfer : Nat := 7

/-- The status a cause records (R367); SWTRAP, XFER record their own. -/
def Trap.status (c : Nat) : Nat := if c = 1 then St.format else if c = 4 then St.permission else St.bounds

/-- The result of a part: its effect, or the cause of its trap. -/
abbrev IbRes := Except Nat IbOut

/-- Both parts, or the first trap: ILLEGAL before MEMFAULT. -/
def both (x y : IbRes) : IbRes :=
  match x, y with
  | .ok a, .ok b => .ok (a.add b)
  | .ok _, .error e => .error e
  | .error e, .ok _ => .error e
  | .error e, .error f => .error (min e f)

/-- A result of the instruction issued now, seen `lat` cycles on. -/
def IbArch.out (a : IbArch) (lat cls : Nat) (dst : IbDst) (v : Int) : IbWrite := ⟨a.cyc + lat, cls, a.high, dst, v⟩

/-! ### Arithmetic -/

/-- Round v / 2^k to nearest, ties to even. -/
def rneI (v : Int) (k : Nat) : Int :=
  let q := v / 2 ^ k
  let r := v % 2 ^ k
  if 2 * r < 2 ^ k then q else if 2 ^ k < 2 * r then q + 1 else if q % 2 = 0 then q else q + 1

/-- v × 2^e, rounded when e is negative. -/
def scaleI (v e : Int) : Int := if 0 ≤ e then v * 2 ^ e.toNat else rneI v (-e).toNat

/-- Clamp to w bits of two's complement; true when it clamps. -/
def satI (w : Nat) (v : Int) : Int × Bool :=
  if v < -(2 ^ (w - 1)) then (-(2 ^ (w - 1)), true) else if 2 ^ (w - 1) ≤ v then (2 ^ (w - 1) - 1, true) else (v, false)

/-- Leading bits equal to the sign bit, minus 1 (R345 CLS, R351). -/
def signRun (w : Nat) (v : Int) : Nat :=
  let u := if v < 0 then (-v - 1).toNat else v.toNat
  w - 1 - (if u = 0 then 0 else Nat.log2 u + 1)

/-- A scaled move to w bits (R350): the result, whether it clamped, the headroom it counts with (R351). -/
def scaled (a : IbArch) (k w : Nat) : Int × Bool × Int :=
  let (v, c) := satI w (scaleI (a.ac k) (a.shift - (w - 1)))
  (v, c, if c then -1 else signRun w v)

/-- An accumulator result, held to 72 bits with GOV (R333). -/
def IbArch.accOut (a : IbArch) (k : Nat) (v : Int) : List IbWrite :=
  let (x, c) := satI 72 v
  a.out 2 0 (.ac k) x :: (if c then [a.out 2 0 (.stOr 0x100) 0] else [])

/-! ### The frame of an instruction -/

/-- What the issue of an instruction needs. -/
structure IbEnv where
  s : State
  n : Nat
  a : IbArch

/-- A word of memory for a read: the value, and whether it is poisoned. -/
def IbEnv.word (e : IbEnv) (m w : Nat) : Nat × Bool :=
  let x := ibWord e.n m w
  (e.s.rdLE x 4, e.s.poisoned x 4)

/-- Words from a program address to another; the PC has 14 bits and wraps (R333). -/
def pcOff (a b : Nat) : Nat := (b + 2 ^ 14 - a) % 2 ^ 14

/-- A word of the program at an address, as the running loop's body or P gives it (R355). -/
def IbEnv.fetch (e : IbEnv) (pc : Nat) : Nat × Bool :=
  match e.a.loop with
  | some l =>
    match l.words[pcOff l.first pc]? with
    | some w => (w.toNat, false)
    | none => e.word 2 pc
  | none => e.word 2 pc

/-- OP and BND of an instruction word (R340). -/
def iOp (w : Word) : Nat := nbits w.toNat 30 26
def iBnd (w : Word) : Bool := wbit w 31
/-- Bits of an instruction word. -/
def ib (w : Word) (hi lo : Nat) : Nat := nbits w.toNat hi lo

/-- The address after the instruction (14 bits). -/
def pcNext (pc : Nat) (w : Word) : Nat := (pc + (if iBnd w then 2 else 1)) % 2 ^ 14

/-- Bytes a core write changes, for the undo log. -/
def logOfWrite (s : State) (a n v : Nat) : List (Nat × Byte × Byte) :=
  (List.range n).map fun i => (a + i, s.rb (a + i), BitVec.ofNat 8 (v / 256 ^ i))

/-- 64-bit words in the undo log (R368). -/
def Ibc.undoWords (b : Ibc) : Nat := (b.undo.map fun x => x.1 / 8).eraseDups.length

/-- A checkpoint is due: the log is full or 4,096 cycles have passed (R368). -/
def Ibc.ckDue (b : Ibc) : Bool := decide (256 ≤ b.undoWords) || decide (b.ckAt + 4096 ≤ b.a.cyc)

/-- Take a checkpoint (R368). -/
def Ibc.checkpoint (b : Ibc) : Ibc := { b with ck := b.a, ckAt := b.a.cyc, undo := [] }

/-- A core's write to its own memory: undo log, merge into the 64-bit word (R331, R368). -/
def State.ibStore (s : State) (n : Nat) (w : Nat × Nat × Nat) : State :=
  let (a, k, v) := w
  let log := logOfWrite s a k v
  ((s.wrLE a k v).clearPoison a k).setIbc n fun b => { b with undo := log.reverse ++ b.undo }

/-- A trap (R367): TRAPPED, the cause, FLAG.TRAP; the waybill that started the core is torn down (R415). -/
def State.ibTrap (s : State) (n cause st pc : Nat) : State :=
  let l := s.ibcHolder n
  let s := s.setIbc n fun b => { b with st := 4, stepping := false, stopReq := false }
  let r := Reg.IBC_TRAP n
  let s := ((s.sf r Fld.IBC_TRAP_CAUSE cause).sf r Fld.IBC_TRAP_STATUS st).sf r Fld.IBC_TRAP_PC pc
  let s := s.setFlag (Reg.IBC_FLAG n) 0 l
  match l with
  | some l =>
    match (s.lodgeOf l).run with
    | some w => if w.ibc.testBit n then s.teardown l 1 n 0xFF pc st else s
    | none => s
  | none => s

/-- Where the program goes on after an instruction at pc with next address nx: a loop's end repeats the body while LC,
lowered by 1, is not 0 (R354); LC lowered from 0 is a free value (log 11). -/
def IbArch.goOn (a : IbArch) (pc nx : Nat) : IbArch :=
  match a.loop with
  | some l =>
    let len := pcOff l.first l.last + 1
    let k := pcOff l.first pc
    if k < len ∧ len ≤ k + pcOff pc nx then
      let lc := if a.lc = 0 then Config.lcBelow a.cyc % 65537 else a.lc - 1
      if lc = 0 then { a with lc := 0, loop := none, pc := nx }
      else { a with lc := lc, pc := l.first, loop := some { l with again := true } }
    else { a with pc := nx }
  | none => { a with pc := nx }

/-- The boundary after an instruction (R370, R635): a stop asked for inside a REP, the end of a debug step. The halt of a
step is recorded by `ibEdge`. -/
def Ibc.boundary (b : Ibc) : Ibc :=
  if b.a.rep.isSome then b
  else if b.stopReq then { b with st := 0, stopReq := false, stepping := false }
  else if b.haltReq then { b with st := 5, preHalt := b.st, haltReq := false, stepping := false, a := b.a.landAll }
  else if b.stepping then { b with st := 5, preHalt := b.st, stepping := false, a := b.a.landAll }
  else b

/-- The instruction at the core's PC, as it would issue now. -/
def State.ibNow (s : State) (n : Nat) : IbEnv := ⟨s, n, (s.ibcOf n).a.land⟩

/-- The two words that issue now, and whether one is poisoned. -/
def IbEnv.words (e : IbEnv) : Nat × Nat × Bool :=
  match e.a.rep with
  | some (_, w, m) => (w.toNat, m.toNat, false)
  | none =>
    let (w, b) := e.fetch e.a.pc
    if w / 2 ^ 31 % 2 = 1 then
      let (m, c) := e.fetch ((e.a.pc + 1) % 2 ^ 14)
      (w, m, b || c)
    else (w, 0, b)

/-- Cycles an instruction takes beyond its first: the fetch that a PC-mode coefficient read delays (R342). -/
def IbEnv.fetchWait (e : IbEnv) (w : Word) : Nat :=
  let cached := match e.a.loop with
    | some l => l.small && l.again
    | none => false
  if iOp w = 1 ∧ ib w 18 18 = 1 ∧ e.a.rep = none ∧ !cached then 1 else 0

/-- The boundary after an instruction, in the state: a debug step that ended halts the core with CAUSE 2 (R635). -/
def State.ibEdge (s : State) (n : Nat) : State :=
  let req := (s.ibcOf n).haltReq
  let s := s.setIbc n Ibc.boundary
  if (s.ibcOf n).st == 5 then s.ibHalted n (if req then 1 else 2) else s

/-- Commit the effect of an instruction that does not redirect the program: memory, results in flight, headroom,
repeat and loop state, PC. -/
def State.ibCommit (s : State) (e : IbEnv) (w : Word) (o : IbOut) : State :=
  let a := { e.a with
    flight := e.a.flight ++ o.ws
    head := o.track.foldl (fun h x => some (match h with
      | some y => min x y
      | none => x)) e.a.head
    cyc := e.a.cyc + 1 + e.fetchWait w }
  let nx := pcNext a.pc w
  let a := match a.rep with
    | some (k, x, m) => if 1 < k then { a with rep := some (k - 1, x, m) } else { a with rep := none }.goOn a.pc nx
    | none => a.goOn a.pc nx
  let s := s.setIbc e.n fun b => { b with a := a }
  let s := o.mem.foldl (fun s x => s.ibStore e.n x) s
  s.ibEdge e.n

/-- Commit an instruction that sets the architectural state itself. -/
def State.ibSet (s : State) (n : Nat) (a : IbArch) : State :=
  (s.setIbc n fun b => { b with a := a }).ibEdge n

/-- A breakpoint that stands at the core's PC (R634): not on a REP's later repetitions, nor again after a resume. -/
def State.bpAt (s : State) (n pc : Nat) : Option Nat :=
  if 16 ≤ n ∨ (s.ibcOf n).skipBp then none
  else (List.range 8).find? fun k =>
    s.gf (Reg.DBG_IBC_BP n k) Fld.DBG_IBC_BP_EN == 1 && s.gf (Reg.DBG_IBC_BP n k) Fld.DBG_IBC_BP_ADDR == pc

/-- The watchpoint an access matches (R634): memory, word, whether it writes. -/
def State.wpAt (s : State) (n m w : Nat) (wr : Bool) : Option Nat :=
  if 16 ≤ n then none
  else (List.range 4).find? fun k =>
    let r := Reg.DBG_IBC_WP n k
    let mask := s.gf (Reg.DBG_IBC_WM n k) Fld.DBG_IBC_WM_MASK
    let kind := s.gf r Fld.DBG_IBC_WP_KIND
    s.gf r Fld.DBG_IBC_WP_EN == 1 && s.gf r Fld.DBG_IBC_WP_MEM == m && m != 3 && kind.testBit (if wr then 1 else 0) &&
      w &&& mask == s.gf r Fld.DBG_IBC_WP_ADDR &&& mask

/-- What an issue counts: IBC events 0x3000 and, for a fetch that a coefficient read delays, 0x3002 (R342, R498). -/
def State.ibIssued (s : State) (n : Nat) (e : IbEnv) (w : Word) : State :=
  let s := s.event (0x30 + n) 0x3000 (s.ibcHolder n)
  if e.fetchWait w = 1 then s.event (0x30 + n) 0x3002 (s.ibcHolder n) else s

/-- Issue an instruction of a row: the word must be the row's, the core must run and stand at it, with no breakpoint
there and no watchpoint to halt on; a due checkpoint is taken. `reads` gives the D registers it reads (R361). -/
def ibRow (n : Fin 18) (w mv : Word) (isRow : Bool) (reads : IbEnv → List Nat) (s : State)
    (body : State → IbEnv → State) : Host.Outcome State Fault Refusal :=
  if !isRow then .fault .notThisRow
  else
    let b := s.ibcOf n.val
    let e := s.ibNow n.val
    let (w0, m0, bad) := e.words
    if b.st != 1 || (s.bpAt n.val e.a.pc).isSome || (b.wp.isSome && b.a.rep.isNone) then .next s
    else if bad then .next (s.ibTrap n.val Trap.xfer St.integrity e.a.pc)
    else if w0 != w.toNat || m0 != (if iBnd w then mv.toNat else 0) then .next s
    else if b.reads.any fun r => r.set == e.a.high && (reads e).contains r.d then .next s
    else
      let rep := e.a.rep.isSome
      let s := (s.ibIssued n.val e w).setIbc n.val fun b => (if b.ckDue then Ibc.checkpoint { b with a := e.a } else { b with a := e.a })
      .next ((body s { e with s := s }).setIbc n.val fun b => { b with skipBp := rep && b.a.rep.isSome })

/-- Commit a result, or trap. -/
def State.ibEnd (s : State) (e : IbEnv) (w : Word) (r : IbRes) : State :=
  match r with
  | .error c => s.ibTrap e.n c (Trap.status c) e.a.pc
  | .ok o => if o.bad then s.ibTrap e.n Trap.xfer St.integrity e.a.pc else s.ibCommit e w o

end Sys2Proof.Machine
end

