-- ==== Sys2Proof/Machine/IbExec.lean ====
section
/-! DEFINITION. Iambel instructions: compute operations (R342 to R348), moves (R349, R350), bundles (R341), memory
access (R352), loops and control (R354 to R358), block exponent and checkpoints (R351, R368). -/
namespace Sys2Proof.Machine
open Sys2Proof

/-! ### Moves (R349) -/

/-- A move field. -/
structure IbMove where
  kind : Nat
  reg : Nat
  part : Nat
  ag : Nat
  pm : Bool
deriving DecidableEq, Repr

/-- Parse a move field; none when it is not a legal one. An empty field gives `some none`. -/
def IbMove.parse (h : Nat) : Option (Option IbMove) :=
  if h / 2 ^ 15 % 2 = 0 then (if h = 0 then some none else none)
  else
    let m : IbMove := ⟨nbits h 14 13, nbits h 12 9, nbits h 8 7, nbits h 6 5, nbits h 4 4 == 1⟩
    let acm := m.kind = 2 ∨ m.kind = 3
    if nbits h 3 0 ≠ 0 ∨ (acm ∧ 4 ≤ m.reg) ∨ (m.part = 3 ∧ m.kind ≠ 2) ∨ (m.kind = 3 ∧ m.part ≠ 0) ∨
        (m.kind = 2 ∧ m.part = 3 ∧ m.reg % 2 = 1) then none
    else some (some m)

/-- The move writes memory. -/
def IbMove.stores (m : IbMove) : Bool := m.kind == 1 || m.kind == 2

/-- The two moves of a pair: X in bits [31:16], Y in bits [15:0]. -/
def IbMove.pair (mv : Word) : Option (Option IbMove × Option IbMove) :=
  match IbMove.parse (mv.toNat / 65536), IbMove.parse (mv.toNat % 65536) with
  | some x, some y => some (x, y)
  | _, _ => none

/-- Post-modify result of a generator. -/
def IbArch.bump (a : IbArch) (cls g : Nat) : IbWrite := a.out 1 cls (.ag g) (a.next g false)

/-- Write of a part of a D register. -/
def IbArch.toD (a : IbArch) (lat cls k part : Nat) (v : Nat) : IbWrite :=
  if part = 1 then a.out lat cls (.dL k) (v % 65536 : Nat)
  else if part = 2 then a.out lat cls (.dH k) (v / 65536 : Nat)
  else a.out lat cls (.d k) v

/-- Store of a part of a word: device address, bytes, value. -/
def storePart (x part v : Nat) : Nat × Nat × Nat :=
  if part = 1 then (x, 2, v % 65536) else if part = 2 then (x + 2, 2, v / 65536 % 65536) else (x, 4, v)

/-- The X move (slot 0) or Y move (slot 1). -/
def IbEnv.move (e : IbEnv) (slot : Nat) : Option IbMove → IbRes
  | none => .ok IbOut.none
  | some m =>
    let g := m.ag + 4 * slot
    let a := e.a
    let w := a.agF 0 g
    if a.mode g = 3 then .error Trap.illegal
    else if ibWords slot ≤ w then .error Trap.memFault
    else
      let cls := 1 + slot
      let x := ibWord e.n slot w
      let pm := if m.pm then [a.bump cls g] else []
      match m.kind with
      | 0 =>
        let (v, bad) := e.word slot w
        .ok ⟨a.toD 2 cls m.reg m.part v :: pm, [], [], bad⟩
      | 1 => .ok ⟨pm, [storePart x m.part (a.d m.reg).toNat], [], false⟩
      | 2 =>
        let sat (c : Bool) : List IbWrite := if c then [a.out 1 cls (.stOr 0x80) 0] else []
        if m.part = 0 then
          let (v, c, h) := scaled a m.reg 32
          .ok ⟨sat c ++ pm, [(x, 4, (v % 2 ^ 32).toNat)], [h], false⟩
        else if m.part = 3 then
          let (v, c, h) := scaled a m.reg 16
          let (v1, c1, h1) := scaled a (m.reg + 1) 16
          .ok ⟨sat (c || c1) ++ pm, [(x, 4, (v % 65536).toNat + 65536 * (v1 % 65536).toNat)], [h, h1], false⟩
        else
          let (v, c, h) := scaled a m.reg 16
          .ok ⟨sat c ++ pm, [(x + (if m.part = 2 then 2 else 0), 2, (v % 65536).toNat)], [h], false⟩
      | _ =>
        let (v, bad) := e.word slot w
        .ok ⟨a.out 2 cls (.acHi m.reg) (sgn 32 v) :: pm, [], [], bad⟩

/-- D registers a move reads. -/
def IbMove.reads : Option IbMove → List Nat
  | some m => if m.kind = 1 then [m.reg] else []
  | none => []

/-! ### Compute operations -/

/-- Signed 16-bit halves of a word. -/
def lo16 (w : Nat) : Int := sgn 16 (w % 65536)
def hi16 (w : Nat) : Int := sgn 16 (w / 65536)

/-- The accumulated value: set, add or subtract a product (R342 to R344). -/
def IbArch.mac (a : IbArch) (k : Nat) (sub clr : Bool) (p : Int) : List IbWrite :=
  let q := if sub then -p else p
  a.accOut k (if clr then q else a.accIn k + q)

/-- FTAP (R342). -/
def IbEnv.ftap (e : IbEnv) (w : Word) : IbRes :=
  let a := e.a
  let i := ib w 23 22
  let j := 4 + ib w 21 20
  let m := if ib w 18 18 = 1 then 2 else 1
  let wx := a.agF 0 i
  let wy := a.agF 0 j
  let wd := a.next i true
  let dly := ib w 19 19 = 1
  if ib w 14 0 ≠ 0 ∨ a.mode i = 3 ∨ a.mode j = 3 then .error Trap.illegal
  else if ibWords 0 ≤ wx ∨ ibWords m ≤ wy ∨ (dly ∧ ibWords 0 ≤ wd) then .error Trap.memFault
  else
    let (x, b1) := e.word 0 wx
    let (y, b2) := e.word m wy
    let p := if ib w 16 16 = 1 then lo16 x * lo16 y else sgn 32 x * sgn 32 y
    .ok ⟨a.mac (ib w 25 24) (ib w 17 17 == 1) (ib w 15 15 == 1) p ++ [a.bump 0 i, a.bump 0 j],
      if dly then [(ibWord e.n 0 wd, 4, x)] else [], [], b1 || b2⟩

/-- MAC (R343). -/
def IbEnv.macOp (e : IbEnv) (w : Word) : IbRes :=
  let a := e.a
  let x := (a.d (ib w 23 20)).toNat
  let y := (a.d (ib w 19 16)).toNat
  if ib w 11 0 ≠ 0 then .error Trap.illegal
  else
    let p := match ib w 13 12 with
      | 0 => sgn 32 x * sgn 32 y
      | 1 => lo16 x * lo16 y
      | 2 => hi16 x * hi16 y
      | _ => lo16 x * hi16 y
    .ok ⟨a.mac (ib w 25 24) (ib w 15 15 == 1) (ib w 14 14 == 1) p, [], [], false⟩

/-- CMAC (R344). -/
def IbEnv.cmac (e : IbEnv) (w : Word) : IbRes :=
  let a := e.a
  let k := ib w 25 24
  let i := ib w 23 22
  let j := 4 + ib w 21 20
  let wx := a.agF 0 i
  let wy := a.agF 0 j
  if ib w 16 0 ≠ 0 ∨ k % 2 = 1 ∨ a.mode i = 3 ∨ a.mode j = 3 then .error Trap.illegal
  else if ibWords 0 ≤ wx ∨ ibWords 1 ≤ wy then .error Trap.memFault
  else
    let (x, b1) := e.word 0 wx
    let (y, b2) := e.word 1 wy
    let (p, q, u, v) := (lo16 x, hi16 x, lo16 y, hi16 y)
    let conj := ib w 19 19 == 1
    let re := if conj then p * u + q * v else p * u - q * v
    let im := if conj then q * u - p * v else p * v + q * u
    let sub := ib w 18 18 == 1
    let clr := ib w 17 17 == 1
    .ok ⟨a.mac k sub clr re ++ a.mac (k + 1) sub clr im ++ [a.bump 0 i, a.bump 0 j], [], [], b1 || b2⟩

/-- Flags of ST as a word: N, Z, C, V in bits 9 to 12 (R334). -/
def nzcv (n z c v : Bool) : Nat :=
  (if n then 0x200 else 0) + (if z then 0x400 else 0) + (if c then 0x800 else 0) + (if v then 0x1000 else 0)

/-- An ALU function (R345): the result, carry and overflow when it sets them, whether it saturated. -/
structure AluOut where
  v : Nat
  cv : Option (Bool × Bool)
  sat : Bool
deriving DecidableEq, Repr

/-- The ALU functions on 32-bit words (R345); none for a reserved code. -/
def alu (fn x y : Nat) : Option AluOut :=
  let sx := sgn 32 x
  let sy := sgn 32 y
  let w32 (v : Int) : Nat := (v % 2 ^ 32).toNat
  let ovf (v : Int) : Bool := (satI 32 v).2
  let plain (v : Nat) : Option AluOut := some ⟨v % 2 ^ 32, none, false⟩
  let sats (v : Int) (cv : Option (Bool × Bool)) : Option AluOut := some ⟨w32 (satI 32 v).1, cv, ovf v⟩
  let addC := decide (2 ^ 32 ≤ x + y)
  let subC := decide (y ≤ x)
  let half (f : Int → Int → Int) : Option AluOut :=
    let l := satI 16 (f (lo16 x) (lo16 y))
    let h := satI 16 (f (hi16 x) (hi16 y))
    some ⟨(l.1 % 65536).toNat + 65536 * (h.1 % 65536).toNat, none, l.2 || h.2⟩
  let k := y % 64
  match fn with
  | 0 => some ⟨(x + y) % 2 ^ 32, some (addC, ovf (sx + sy)), false⟩
  | 1 => some ⟨w32 (sx - sy), some (subC, ovf (sx - sy)), false⟩
  | 2 => sats (sx + sy) (some (addC, ovf (sx + sy)))
  | 3 => sats (sx - sy) (some (subC, ovf (sx - sy)))
  | 4 => plain (x &&& y)
  | 5 => plain (x ||| y)
  | 6 => plain (x ^^^ y)
  | 7 => plain (if sx ≤ sy then x else y)
  | 8 => plain (if sx ≤ sy then y else x)
  | 9 => sats (if sx < 0 then -sx else sx) none
  | 10 => sats (-sx) none
  | 11 => plain (if 32 ≤ k then 0 else x * 2 ^ k)
  | 12 => plain (w32 (sx / 2 ^ k))
  | 13 => plain (x / 2 ^ k)
  | 14 => plain (signRun 32 sx)
  | 15 => half (· + ·)
  | 16 => half (· - ·)
  | 17 => some ⟨w32 (sx - sy), some (subC, ovf (sx - sy)), false⟩
  | 18 => plain (w32 (sx * sy))
  | 19 => plain (x % 65536 * 65536 + y % 65536)
  | _ => none

/-- The results of an ALU function into Dd. -/
def IbArch.aluOut (a : IbArch) (fn d x y : Nat) : IbRes :=
  match alu fn x y with
  | none => .error Trap.illegal
  | some o =>
    if fn = 17 ∧ d ≠ 0 then .error Trap.illegal
    else
      let (c, v) := o.cv.getD (false, false)
      let fl := a.out 1 0 (.flags true o.cv.isSome) (nzcv (o.v.testBit 31) (o.v == 0) c v)
      let res := if fn = 17 then [] else [a.out (if fn = 18 then 2 else 1) 0 (.d d) o.v]
      .ok ⟨res ++ fl :: (if o.sat then [a.out 1 0 (.stOr 0x80) 0] else []), [], [], false⟩

/-- ALU (R345). -/
def IbEnv.aluOp (e : IbEnv) (w : Word) : IbRes :=
  if ib w 8 0 ≠ 0 then .error Trap.illegal
  else e.a.aluOut (ib w 13 9) (ib w 25 22) (e.a.d (ib w 21 18)).toNat (e.a.d (ib w 17 14)).toNat

/-- ALUI (R345). -/
def IbEnv.aluiOp (e : IbEnv) (w : Word) : IbRes :=
  e.a.aluOut (ib w 17 13) (ib w 25 22) (e.a.d (ib w 21 18)).toNat (BitVec.ofInt 32 (sgn 13 (ib w 12 0))).toNat

/-- LDI (R346). -/
def IbEnv.ldi (e : IbEnv) (w : Word) : IbRes :=
  let d := ib w 25 22
  let v := ib w 15 0
  if ib w 19 16 ≠ 0 then .error Trap.illegal
  else match ib w 21 20 with
    | 0 => .ok ⟨[e.a.out 1 0 (.d d) (sgn 16 v)], [], [], false⟩
    | 1 => .ok ⟨[e.a.out 1 0 (.dL d) v], [], [], false⟩
    | 2 => .ok ⟨[e.a.out 1 0 (.dH d) v], [], [], false⟩
    | _ => .error Trap.illegal

/-- ACOP (R347). -/
def IbEnv.acop (e : IbEnv) (w : Word) : IbRes :=
  let a := e.a
  let k := ib w 25 24
  let b := a.ac (ib w 23 22)
  let ok (v : Int) : IbRes := .ok ⟨a.accOut k v, [], [], false⟩
  if ib w 11 0 ≠ 0 then .error Trap.illegal
  else match ib w 21 19 with
    | 0 => ok 0
    | 1 => ok b
    | 2 => ok (a.accIn k + b)
    | 3 => ok (a.accIn k - b)
    | 4 => ok (-a.accIn k)
    | 5 => ok (scaleI (a.accIn k) (sgn 7 (ib w 18 12)))
    | _ => .error Trap.illegal

/-- MV (R348, R335): the value read, SAT and the headroom of a scaled read. -/
def IbArch.mvRead (a : IbArch) (r : Nat) : Int × Bool × List Int :=
  let plain (v : Int) : Int × Bool × List Int := (v, false, [])
  if r < 16 then plain (a.d r).toNat
  else if r < 20 then
    let (v, c, h) := scaled a (r - 16) 32
    (v, c, [h])
  else if r < 24 then plain (a.ac (r - 20) % 2 ^ 32)
  else if r < 28 then plain (a.ac (r - 24) / 2 ^ 64)
  else if r < 60 then
    let f := (r - 28) / 8
    let v := a.agF f ((r - 28) % 8)
    plain (if f = 1 then sgn 16 v else v)
  else if r = 60 then plain a.st
  else if r = 61 then plain a.lc
  else if r = 62 then plain a.bexp
  else plain a.cur.agmode.toNat

/-- Where MV writes (R335). -/
def mvDst (r : Nat) : IbDst :=
  if r < 16 then .d r
  else if r < 20 then .acHi (r - 16)
  else if r < 24 then .acLo (r - 20)
  else if r < 28 then .acGuard (r - 24)
  else if r < 60 then .ag (r - 28)
  else if r = 60 then .st
  else if r = 61 then .lc
  else if r = 62 then .bexp
  else .agmode

/-- MV (R348). -/
def IbEnv.mvOp (e : IbEnv) (w : Word) : IbRes :=
  if ib w 13 0 ≠ 0 then .error Trap.illegal
  else
    let (v, c, h) := e.a.mvRead (ib w 19 14)
    let dst := ib w 25 20
    let v := if 16 ≤ dst ∧ dst < 20 then sgn 32 (v % 2 ^ 32).toNat else v
    .ok ⟨e.a.out 2 0 (mvDst dst) v :: (if c then [e.a.out 2 0 (.stOr 0x80) 0] else []), [], h, false⟩

/-- NOP (R340). -/
def ibNop (w : Word) : IbRes := if ib w 25 0 ≠ 0 then .error Trap.illegal else .ok IbOut.none

/-- A bundlable compute operation (R340). -/
def IbEnv.compute (e : IbEnv) (w : Word) : IbRes :=
  match iOp w with
  | 0 => ibNop w
  | 1 => e.ftap w
  | 2 => e.macOp w
  | 3 => e.cmac w
  | 4 => e.aluOp w
  | 5 => e.aluiOp w
  | 6 => e.ldi w
  | 7 => e.acop w
  | 8 => e.mvOp w
  | _ => .error Trap.illegal

/-- The conflicts of R341 between a compute operation and its moves. -/
def bundleBad (w : Word) (x y : Option IbMove) : Bool :=
  let op := iOp w
  let loads (m : Option IbMove) : Bool := match m with
    | some m => !m.stores
    | none => false
  let stores (m : Option IbMove) : Bool := match m with
    | some m => m.stores
    | none => false
  let bumps (m : Option IbMove) (g : Nat) : Bool := match m with
    | some m => m.pm && m.ag == g
    | none => false
  ((op == 1 || op == 3) && loads x) ||
    ((op == 3 || (op == 1 && ib w 18 18 == 0)) && loads y) ||
    (op == 1 && ib w 19 19 == 1 && stores x) ||
    ((op == 1 || op == 3) && (bumps x (ib w 23 22) || bumps y (ib w 21 20)))

/-- An instruction of an opcode that may be bundled, with its moves (R340, R341). -/
def IbEnv.bundle (e : IbEnv) (w mv : Word) : IbRes :=
  if !iBnd w then e.compute w
  else match IbMove.pair mv with
    | none => .error Trap.illegal
    | some (x, y) =>
      if bundleBad w x y then .error Trap.illegal
      else both (e.compute w) (both (e.move 0 x) (e.move 1 y))

/-- D registers a bundle reads. -/
def bundleReads (w mv : Word) : List Nat :=
  let mvs := if iBnd w then (match IbMove.pair mv with
    | some (x, y) => IbMove.reads x ++ IbMove.reads y
    | none => []) else []
  mvs ++ (match iOp w with
    | 2 => [ib w 23 20, ib w 19 16]
    | 4 => [ib w 21 18, ib w 17 14]
    | 5 => [ib w 21 18]
    | 8 => if ib w 19 14 < 16 then [ib w 19 14] else []
    | _ => [])

/-- Accesses of an instruction to the core's memories: memory, word, whether it writes (R634). -/
def IbEnv.accesses (e : IbEnv) (w mv : Word) : List (Nat × Nat × Bool) :=
  let a := e.a
  let own := match iOp w with
    | 1 => [(0, a.agF 0 (ib w 23 22), false), (if ib w 18 18 = 1 then 2 else 1, a.agF 0 (4 + ib w 21 20), false)] ++
        (if ib w 19 19 = 1 then [(0, a.next (ib w 23 22) true, true)] else [])
    | 3 => [(0, a.agF 0 (ib w 23 22), false), (1, a.agF 0 (4 + ib w 21 20), false)]
    | 9 => [(ib w 24 23, if ib w 16 16 = 1 then ib w 15 0 else a.agF 0 (ib w 15 13), ib w 25 25 == 1)]
    | _ => []
  let mvs := if !iBnd w then [] else match IbMove.pair mv with
    | some (x, y) =>
      (match x with
        | some m => [(0, a.agF 0 m.ag, m.stores)]
        | none => []) ++ (match y with
        | some m => [(1, a.agF 0 (4 + m.ag), m.stores)]
        | none => [])
    | none => []
  own ++ mvs

/-- End an instruction with accesses: a watchpoint that one of them matched is kept for the boundary (R634). -/
def State.ibEndW (s : State) (e : IbEnv) (w mv : Word) (r : IbRes) : State :=
  let hit := (e.accesses w mv).findSome? fun (m, x, wr) => e.s.wpAt e.n m x wr
  let s := s.ibEnd e w r
  match hit, r with
  | some k, .ok _ => s.setIbc e.n fun b => { b with wp := some (b.wp.getD k) }
  | _, _ => s

/-- A row of a bundlable opcode. -/
def bundleRow (op : Nat) (n : Fin 18) (w mv : Word) (s : State) : Host.Outcome State Fault Refusal :=
  ibRow n w mv (iOp w == op) (fun _ => bundleReads w mv) s fun s e => s.ibEndW e w mv (e.bundle w mv)

/-- The opcodes R340 assigns. -/
def ibAssigned (op : Nat) : Bool := decide (op ≤ 0x12)

/-- IBC_NOP (R340). An opcode R340 does not list is decoded here and traps ILLEGAL. -/
def execIbcNop (n : Fin 18) (w mv : Word) (s : State) : Host.Outcome State Fault Refusal :=
  ibRow n w mv (iOp w == 0 || !ibAssigned (iOp w)) (fun _ => bundleReads w mv) s fun s e => s.ibEndW e w mv (e.bundle w mv)
/-- FTAP (R342). -/
def execFtap (n : Fin 18) (w mv : Word) (s : State) : Host.Outcome State Fault Refusal := bundleRow 1 n w mv s
/-- MAC (R343). -/
def execMacIns (n : Fin 18) (w mv : Word) (s : State) : Host.Outcome State Fault Refusal := bundleRow 2 n w mv s
/-- CMAC (R344). -/
def execCmac (n : Fin 18) (w mv : Word) (s : State) : Host.Outcome State Fault Refusal := bundleRow 3 n w mv s
/-- ALU (R345). -/
def execAlu (n : Fin 18) (w mv : Word) (s : State) : Host.Outcome State Fault Refusal := bundleRow 4 n w mv s
/-- ALUI (R345). -/
def execAlui (n : Fin 18) (w mv : Word) (s : State) : Host.Outcome State Fault Refusal := bundleRow 5 n w mv s
/-- LDI (R346). -/
def execLdi (n : Fin 18) (w mv : Word) (s : State) : Host.Outcome State Fault Refusal := bundleRow 6 n w mv s
/-- ACOP (R347). -/
def execAcop (n : Fin 18) (w mv : Word) (s : State) : Host.Outcome State Fault Refusal := bundleRow 7 n w mv s
/-- MV (R348). -/
def execMv (n : Fin 18) (w mv : Word) (s : State) : Host.Outcome State Fault Refusal := bundleRow 8 n w mv s

/-! ### LDST (R352) -/

/-- LDST. -/
def IbEnv.ldst (e : IbEnv) (w : Word) : IbRes :=
  let a := e.a
  let m := ib w 24 23
  let part := ib w 18 17
  let d := ib w 22 19
  let imm := ib w 16 16 = 1
  let g := ib w 15 13
  let wa := if imm then ib w 15 0 else a.agF 0 g
  if iBnd w ∨ m = 3 ∨ part = 3 ∨ (¬imm ∧ (ib w 11 0 ≠ 0 ∨ a.mode g = 3)) then .error Trap.illegal
  else if ibWords m ≤ wa then .error Trap.memFault
  else
    let pm := if !imm && ib w 12 12 == 1 then [a.bump 0 g] else []
    if ib w 25 25 = 1 then .ok ⟨pm, [storePart (ibWord e.n m wa) part (a.d d).toNat], [], false⟩
    else
      let (v, bad) := e.word m wa
      .ok ⟨a.toD 2 0 d part v :: pm, [], [], bad⟩

/-- LDST (R352). -/
def execLdst (n : Fin 18) (w mv : Word) (s : State) : Host.Outcome State Fault Refusal :=
  ibRow n w mv (iOp w == 9) (fun _ => if ib w 25 25 = 1 then [ib w 22 19] else []) s fun s e =>
    s.ibEndW e w mv (e.ldst w)

/-! ### Loops and repeats -/

/-- Entries of a body: a bundle is one; the flag says that the first word is a bundle's second (R355). -/
def entries : Bool → List Word → Nat
  | _, [] => 0
  | true, _ :: t => entries false t
  | false, w :: t => 1 + entries (iBnd w) t

/-- The frame of an instruction that sets PC and state itself: its cycles pass. -/
def IbArch.after (a : IbArch) (cyc : Nat) : IbArch := { a with cyc := a.cyc + cyc }

/-- LOOP (R354, R355). -/
def execLoopIns (n : Fin 18) (w mv : Word) (s : State) : Host.Outcome State Fault Refusal :=
  ibRow n w mv (iOp w == 0x0A) (fun _ => []) s fun s e =>
    let a := e.a
    let len := ib w 25 20 + 1
    let src := ib w 3 3 = 1
    if iBnd w ∨ ib w 2 0 ≠ 0 ∨ (src ∧ ib w 19 4 ≠ 0) ∨ a.loop.isSome then s.ibTrap e.n Trap.illegal St.format a.pc
    else
      let count := if src then a.lc else ib w 19 4 + 1
      let a := a.after 1
      if count = 0 then s.ibSet e.n { a with pc := (a.pc + 1 + len) % 2 ^ 14 }
      else
        let ws := (List.range len).map fun i => BitVec.ofNat 32 (e.word 2 ((a.pc + 1 + i) % 2 ^ 14)).1
        s.ibSet e.n { a with
          lc := count, pc := (a.pc + 1) % 2 ^ 14
          loop := some ⟨(a.pc + 1) % 2 ^ 14, (a.pc + len) % 2 ^ 14, ws, decide (entries false ws ≤ 32), false⟩ }

/-- REP (R356). -/
def execRepIns (n : Fin 18) (w mv : Word) (s : State) : Host.Outcome State Fault Refusal :=
  ibRow n w mv (iOp w == 0x0B) (fun _ => []) s fun s e =>
    let a := e.a
    let src := ib w 25 25 = 1
    let p1 := (a.pc + 1) % 2 ^ 14
    let (x, b1) := e.fetch p1
    let xw : Word := BitVec.ofNat 32 x
    let (m, b2) := if iBnd xw then e.fetch ((a.pc + 2) % 2 ^ 14) else (0, false)
    let count := if src then a.lc else ib w 24 9 + 1
    if iBnd w ∨ ib w 8 0 ≠ 0 ∨ (src ∧ ib w 24 9 ≠ 0) ∨ 9 < iOp xw then s.ibTrap e.n Trap.illegal St.format a.pc
    else if s.gf (Reg.IBC_CTL e.n) Fld.IBC_CTL_REP_LIMIT < count ∧ (a.st.testBit 13 ∨ a.st.testBit 14) then
      s.ibTrap e.n Trap.repLimit St.bounds a.pc
    else if b1 || b2 then s.ibTrap e.n Trap.xfer St.integrity a.pc
    else
      let b := a.after 1
      if count = 0 then s.ibSet e.n (b.goOn a.pc (pcNext p1 xw))
      else s.ibSet e.n { b with pc := p1, rep := some (count, xw, BitVec.ofNat 32 m) }

/-! ### Branches (R357, R358) -/

/-- Whether a condition other than 13 holds (R357). -/
def IbArch.cond (a : IbArch) (c : Nat) : Bool :=
  let n := a.st.testBit 9
  let z := a.st.testBit 10
  let cy := a.st.testBit 11
  let v := a.st.testBit 12
  match c with
  | 0 => true
  | 1 => z
  | 2 => !z
  | 3 => n != v
  | 4 => n == v
  | 5 => !z && n == v
  | 6 => z || n != v
  | 7 => cy
  | 8 => !cy
  | 9 => v
  | 10 => !v
  | 11 => n
  | 12 => !n
  | _ => a.st.testBit 7

/-- A taken branch ends the loop; LC keeps its value (R354). -/
def IbArch.jump (a : IbArch) (target : Nat) : IbArch := { (a.after 3) with pc := target, loop := none }

/-- An instruction that only moves past itself. -/
def IbArch.step1 (a : IbArch) : IbArch := (a.after 1).goOn a.pc ((a.pc + 1) % 2 ^ 14)

/-- BR (R357). LC lowered from 0 is a free value (log 11). -/
def execBr (n : Fin 18) (w mv : Word) (s : State) : Host.Outcome State Fault Refusal :=
  ibRow n w mv (iOp w == 0x0C) (fun _ => []) s fun s e =>
    let a := e.a
    let c := ib w 25 22
    if iBnd w ∨ ib w 21 14 ≠ 0 ∨ c = 15 then s.ibTrap e.n Trap.illegal St.format a.pc
    else
      let (v, s) := if c = 13 ∧ a.lc = 0 then s.draw else (a.lc + 65536, s)
      let lc := if a.lc = 0 then v % 65537 else a.lc - 1
      let b := if c = 13 then { a with lc := lc } else a
      let taken := if c = 13 then decide (lc ≠ 0) else a.cond c
      s.ibSet e.n (if taken then b.jump (ib w 13 0) else b.step1)

/-- CALL (R357). -/
def execCall (n : Fin 18) (w mv : Word) (s : State) : Host.Outcome State Fault Refusal :=
  ibRow n w mv (iOp w == 0x0D) (fun _ => []) s fun s e =>
    let a := e.a
    if iBnd w ∨ ib w 25 14 ≠ 0 then s.ibTrap e.n Trap.illegal St.format a.pc
    else if 8 ≤ a.ras.length then s.ibTrap e.n Trap.stack St.bounds a.pc
    else s.ibSet e.n { a.jump (ib w 13 0) with ras := ((a.pc + 1) % 2 ^ 14) :: a.ras }

/-- A CTL row: FN and the bits of ARG that must be 0 (R358). -/
def ctlRow (fn argMask : Nat) (n : Fin 18) (w mv : Word) (s : State) (body : State → IbEnv → State) :
    Host.Outcome State Fault Refusal :=
  ibRow n w mv (iOp w == 0x0E && ib w 25 22 == fn) (fun _ => []) s fun s e =>
    if iBnd w ∨ ib w 21 0 &&& argMask ≠ 0 then s.ibTrap e.n Trap.illegal St.format e.a.pc else body s e

/-- RET (R358). -/
def execRetIns (n : Fin 18) (w mv : Word) (s : State) : Host.Outcome State Fault Refusal :=
  ctlRow 0 0x3FFFFF n w mv s fun s e =>
    match e.a.ras with
    | [] => s.ibTrap e.n Trap.stack St.bounds e.a.pc
    | r :: t => s.ibSet e.n { e.a.jump r with ras := t }

/-- RETI (R364): what the level saved is restored; a checkpoint is taken (R368). -/
def execReti (n : Fin 18) (w mv : Word) (s : State) : Host.Outcome State Fault Refusal :=
  ctlRow 1 0x3FFFFF n w mv s fun s e =>
    let a := e.a.after 3
    let lev := e.a.lev
    if lev = 0 then s.ibTrap e.n Trap.illegal St.format e.a.pc
    else
      let b := if lev = 2 then { a with high := false, pc := a.hi.pc, lc := a.hi.lc, loop := a.hi.loop }
        else { (a.modSet a.high fun r => { r with st := a.low.st }) with pc := a.low.pc, lc := a.low.lc, loop := a.low.loop }
      (s.ibSet e.n b).setIbc e.n Ibc.checkpoint

/-- Set or clear IEL and IEH (R358). -/
def IbArch.enables (a : IbArch) (on : Bool) (arg : Nat) : IbArch :=
  let m := (if arg % 2 = 1 then 0x2000 else 0) + (if arg / 2 % 2 = 1 then 0x4000 else 0)
  a.modSet a.high fun r => { r with st := BitVec.ofNat 32 (if on then r.st.toNat ||| m else maskIn r.st.toNat m 0) }

/-- EI (R358). -/
def execEi (n : Fin 18) (w mv : Word) (s : State) : Host.Outcome State Fault Refusal :=
  ctlRow 2 0x3FFFFC n w mv s fun s e => s.ibSet e.n (e.a.enables true (ib w 1 0)).step1
/-- DI (R358). -/
def execDi (n : Fin 18) (w mv : Word) (s : State) : Host.Outcome State Fault Refusal :=
  ctlRow 3 0x3FFFFC n w mv s fun s e => s.ibSet e.n (e.a.enables false (ib w 1 0)).step1

/-- IDLE (R358): the core stops issuing; an interrupt returns to the next instruction. -/
def execIdleIbc (n : Fin 18) (w mv : Word) (s : State) : Host.Outcome State Fault Refusal :=
  ctlRow 4 0x3FFFFF n w mv s fun s e =>
    (s.setIbc e.n fun b => { b with st := 3, a := e.a.step1 }).ibEdge e.n

/-- STOP (R358): a checkpoint, STOPPED, DONE; a waybill counts the core as ended (R412). -/
def execStopIbc (n : Fin 18) (w mv : Word) (s : State) : Host.Outcome State Fault Refusal :=
  ctlRow 5 0x3FFFFF n w mv s fun s e =>
    let s := s.setIbc e.n fun b => { b.checkpoint with st := 0, a := e.a.step1, stepping := false }
    let s := s.setFlag (Reg.IBC_FLAG e.n) 1 (s.ibcHolder e.n)
    match s.ibcHolder e.n with
    | some l => s.setLodge l fun g => match g.run with
      | some w => if w.ibc.testBit e.n then { g with stopped := g.stopped ||| 2 ^ e.n } else g
      | none => g
    | none => s

/-- TRAP (R358): traps SWTRAP with its code. A reserved FN of CTL is decoded here and traps ILLEGAL. -/
def execTrapIbc (n : Fin 18) (w mv : Word) (s : State) : Host.Outcome State Fault Refusal :=
  ibRow n w mv (iOp w == 0x0E && (ib w 25 22 == 6 || decide (7 < ib w 25 22))) (fun _ => []) s fun s e =>
    if iBnd w ∨ ib w 25 22 ≠ 6 ∨ ib w 21 8 ≠ 0 then s.ibTrap e.n Trap.illegal St.format e.a.pc
    else s.ibTrap e.n Trap.sw (ib w 7 0) e.a.pc

/-- CTL BRK (R633): halts the core when BRK_EN is set, else completes as NOP. -/
def execIbcBrk (n : Fin 18) (w mv : Word) (s : State) : Host.Outcome State Fault Refusal :=
  ctlRow 7 0x3FFFFF n w mv s fun s e =>
    if s.gf (Reg.DBG_IBC_CTL e.n) Fld.DBG_IBC_CTL_BRK_EN = 1 then
      let s := s.setIbc e.n fun b => { b with a := e.a.step1.landAll, st := 5, preHalt := 1, stepping := false }
      s.ibHalted e.n 5
    else s.ibSet e.n e.a.step1

/-! ### Block exponent and checkpoints -/

/-- A BLK row (R351). -/
def blkRow (isFn : Nat → Bool) (n : Fin 18) (w mv : Word) (s : State) (body : State → IbEnv → State) :
    Host.Outcome State Fault Refusal :=
  ibRow n w mv (iOp w == 0x0F && isFn (ib w 25 24)) (fun _ => []) s fun s e =>
    if iBnd w ∨ ib w 23 0 ≠ 0 ∨ ib w 25 24 = 3 then s.ibTrap e.n Trap.illegal St.format e.a.pc else body s e

/-- BLKEND (R351, R368). -/
def execBlkend (n : Fin 18) (w mv : Word) (s : State) : Host.Outcome State Fault Refusal :=
  blkRow (· == 0) n w mv s fun s e =>
    let a := e.a
    let bexp := (satI 16 (a.bexp - a.shift)).1
    let adapt := match a.head with
      | some h =>
        if a.st.testBit 4 then
          [a.out 2 0 .shift (max (-8) (min 7 (a.shift + h - (nbits a.st 6 5 : Nat))))]
        else []
      | none => []
    let b := { a with flight := a.flight ++ a.out 2 0 .bexp bexp :: adapt, head := none }
    (s.ibSet e.n b.step1).setIbc e.n Ibc.checkpoint

/-- BLKCLR (R351). -/
def execBlkclr (n : Fin 18) (w mv : Word) (s : State) : Host.Outcome State Fault Refusal :=
  blkRow (· == 1) n w mv s fun s e =>
    let a := e.a
    s.ibSet e.n { a with flight := a.flight ++ [a.out 2 0 .bexp 0], head := none }.step1

/-- CHKPT (R351, R368). A reserved FN of BLK is decoded here and traps ILLEGAL. -/
def execChkpt (n : Fin 18) (w mv : Word) (s : State) : Host.Outcome State Fault Refusal :=
  blkRow (fun f => f == 2 || f == 3) n w mv s fun s e => (s.ibSet e.n e.a.step1).setIbc e.n Ibc.checkpoint

end Sys2Proof.Machine
end

