-- ==== Sys2Proof/Machine/IbSys.lean ====
section
/-! DEFINITION. Iambel cores and the rest of the ZK960: sync objects (R359), transfers (R360), interrupts (R362 to R364),
checkpoints (R368), running and stopping (R370), the debug port (R633 to R635). -/
namespace Sys2Proof.Machine
open Sys2Proof

/-! ### SYNC (R359) -/

/-- A SYNC row: its object and Dn, after the checks every SYNC makes. -/
def syncRow (isFn : Nat → Bool) (ck : Bool) (n : Fin 18) (w mv : Word) (s : State)
    (body : State → IbEnv → Nat → Nat → State) : Host.Outcome State Fault Refusal :=
  ibRow n w mv (iOp w == 0x10 && isFn (ib w 25 24)) (fun _ => [ib w 23 20, ib w 19 16]) s fun s e =>
    let m := (e.a.d (ib w 23 20)).toNat
    if iBnd w ∨ ib w 15 0 ≠ 0 ∨ ib w 25 24 = 3 ∨ 4096 ≤ m then s.ibTrap e.n Trap.illegal St.format e.a.pc
    else if s.ibcHolder e.n = none ∨ s.syncHolder m ≠ s.ibcHolder e.n then s.ibTrap e.n Trap.perm St.permission e.a.pc
    else
      let s := if ck then s.setIbc e.n Ibc.checkpoint else s
      body s e m (e.a.d (ib w 19 16)).toNat

/-- SIG (R359). A reserved FN of SYNC is decoded here and traps ILLEGAL. -/
def execSig (n : Fin 18) (w mv : Word) (s : State) : Host.Outcome State Fault Refusal :=
  syncRow (fun f => f == 0 || f == 3) true n w mv s fun s e o v => (s.ibSet e.n e.a.step1).signal o v

/-- WAITS (R359): the core is WAITING, its PC at the WAITS, until the count is at least Dn. -/
def execWaits (n : Fin 18) (w mv : Word) (s : State) : Host.Outcome State Fault Refusal :=
  syncRow (· == 1) false n w mv s fun s e o v =>
    if v ≤ s.syncCount o then s.ibSet e.n e.a.step1
    else (s.setIbc e.n fun b => { b with st := 2, waits := (o, v), a := e.a.after 1 }).ibEdge e.n

/-- SYNC ARM (R359). -/
def execSyncArm (n : Fin 18) (w mv : Word) (s : State) : Host.Outcome State Fault Refusal :=
  syncRow (· == 2) true n w mv s fun s e o v => (s.ibSet e.n e.a.step1).arm o v

/-- WAITS_SATISFIED (R359): a waiting core goes on past its WAITS. -/
def execWaitsSatisfied (n : Fin 18) (s : State) : Host.Outcome State Fault Refusal :=
  let b := s.ibcOf n.val
  if b.st = 2 ∧ b.waits.2 ≤ s.syncCount b.waits.1 then
    let s := s.setIbc n.val fun b => { b with st := 1, a := b.a.landAll.step1 }
    .next (s.event 3 0x3001 (s.syncHolder b.waits.1))
  else .next s

/-! ### Transfers (R360) -/

/-- 64-byte units of the peer's region a remote transfer touches. -/
def IbXfer.pieces (x : IbXfer) : List Nat :=
  (List.range (cdiv (x.addr + 16 * x.units) 64 - x.addr / 64)).map fun i => 64 * (x.addr / 64 + i)

/-- Change a queued transfer. -/
def State.setXfer (s : State) (n id : Nat) (f : IbXfer → IbXfer) : State :=
  s.setIbc n fun b => { b with xq := b.xq.map fun x => if x.id = id then f x else x }

/-- The units of a transfer are air-path traffic of its lodging: read or write of the tier, or remote (R113, R216, R360). -/
def State.xferCharge (s : State) (l : Nat) (x : IbXfer) : State :=
  if w3Remote x.w3 then s.charge l .air 2 (cdiv (16 * x.units) 64) else s.tierCharge l .air x.addr (16 * x.units) !x.toCore

/-- The first transfer of a core's queue starts (R360): a remote one asks its peer for every unit. -/
def State.xferStart (s : State) (n : Nat) : State :=
  match (s.ibcOf n).xq with
  | [] => s
  | x :: _ =>
    if x.started then s
    else
      let s := (s.setXfer n x.id fun x => { x with started := true }).xferCharge ((s.ibcHolder n).getD 0) x
      if !w3Remote x.w3 then s
      else if !s.linkUp (w3Link x.w3) then s.setXfer n x.id fun x => { x with st := St.failed }
      else
        let l := (s.ibcHolder n).getD 0
        x.pieces.foldl (fun s u =>
          let lo := max u x.addr
          let hi := min (u + 64) (x.addr + 16 * x.units)
          let here := x.local_ + lo - x.addr
          if x.toCore then s.linkAsk (w3Link x.w3) 2 l (.xfer n x.id (x.local_ + u - x.addr)) [remoteRec 2 l x.w3 u []]
          else s.linkAsk (w3Link x.w3) 1 l (.xfer n x.id here) [remoteRec 1 l x.w3 lo (s.bytesAt here (hi - lo))]) s

/-- XFER (R360): it waits, not issued, while the queue of 8 is full. -/
def execXfer (n : Fin 18) (w mv : Word) (s : State) : Host.Outcome State Fault Refusal :=
  if iOp w = 0x11 ∧ 8 ≤ (s.ibcOf n.val).xq.length then .next s
  else ibRow n w mv (iOp w == 0x11) (fun _ => [ib w 16 13, ib w 12 9, ib w 8 5]) s fun s e =>
    let mem := ib w 24 23
    let l := (s.ibcHolder e.n).getD 0
    let r := s.region l (ib w 22 17)
    let off := (e.a.d (ib w 16 13)).toNat
    let dn := (e.a.d (ib w 12 9)).toNat
    let loc := dn % 65536
    let len := dn / 65536 + 1
    let obj := (e.a.d (ib w 8 5)).toNat % 4096
    let toCore := ib w 25 25 = 0
    let sig := ib w 4 4 = 1
    if iBnd w ∨ mem = 3 ∨ ib w 3 0 ≠ 0 then s.ibTrap e.n Trap.illegal St.format e.a.pc
    else
      let st := pick
        [((s.ibcHolder e.n).isNone, St.permission), (r.valid && toCore && !r.rd, St.permission),
         (r.valid && !toCore && !r.wr, St.permission), (sig && !s.holdsObj l obj, St.permission),
         (!r.holds off (16 * len), St.bounds), (decide (off % 16 ≠ 0), St.bounds), (decide (loc % 4 ≠ 0), St.bounds),
         (decide (ibWords mem < loc + 4 * len), St.bounds)]
      if st = St.permission then (s.countStatus (0x30 + e.n) st (s.ibcHolder e.n)).ibTrap e.n Trap.perm st e.a.pc
      else if st ≠ St.ok then (s.countStatus (0x30 + e.n) st (s.ibcHolder e.n)).ibTrap e.n Trap.xfer st e.a.pc
      else
        let s := s.setIbc e.n Ibc.checkpoint
        let x : IbXfer := ⟨(s.ibcOf e.n).xno, toCore, ibWord e.n mem loc, r.base + off, len, 0, obj, sig,
          s.rr (Reg.LDG_REGION3 l (ib w 22 17)), false, St.ok, 0, e.a.pc⟩
        ((s.ibSet e.n e.a.step1).setIbc e.n fun b => { b with xq := b.xq ++ [x], xno := b.xno + 1 }).xferStart e.n

/-- XFER_DONE (R360): the first transfer of the queue completes: its bytes are in place, its object is signalled, XDONE
becomes pending; or it traps the core with its status. One whose units wait for tokens is not done (R216). -/
def execXferDone (n : Fin 18) (s : State) : Host.Outcome State Fault Refusal :=
  match (s.ibcOf n.val).xq with
  | [] => .next s
  | x :: t =>
    let remote := w3Remote x.w3
    let l := (s.ibcHolder n.val).getD 0
    if x.st = St.ok ∧ ((remote ∧ x.acked < x.pieces.length) ∨ s.owes l .air) then .next s
    else
      let bytes := 16 * x.units
      let (s, st) :=
        if x.st ≠ St.ok ∨ remote then (s, x.st)
        else if x.toCore then
          let (s, v, bad) := s.getBytes l x.addr bytes
          if bad then (s, St.integrity) else (s.put l x.local_ bytes v, St.ok)
        else if s.poisoned x.local_ bytes then (s, St.integrity)
        else (s.put l x.addr bytes (s.rdLE x.local_ bytes), St.ok)
      let s := (s.setIbc n.val fun b => { b with xq := t }).countStatus (0x30 + n.val) st (s.ibcHolder n.val)
      if st ≠ St.ok then .next ((s.ibTrap n.val Trap.xfer st x.pc).xferStart n.val)
      else
        let s := if x.sig then (s.signal x.obj 1).irqPend n.val 4 else s
        .next (s.xferStart n.val)

/-! ### Interrupts (R362 to R364) -/

/-- The interrupt a core takes now: its source and whether it is of the high level (R363). -/
def State.irqPick (s : State) (n : Nat) : Option (Nat × Bool) :=
  let a := (s.ibcOf n).a
  let p := s.gf (Reg.IBC_IRQ_PEND n) Fld.IBC_IRQ_PEND_PEND &&& s.gf (Reg.IBC_IRQ_EN n) Fld.IBC_IRQ_EN_EN
  let hi := s.gf (Reg.IBC_IRQ_LVL n) Fld.IBC_IRQ_LVL_HIGH
  let first (v : Nat) : Option Nat := (List.range 8).find? fun i => v.testBit i
  match first (p &&& hi) with
  | some i =>
    if a.lev < 2 ∧ a.st.testBit 14 then some (i, true)
    else if a.lev = 0 ∧ a.st.testBit 13 then (first (p &&& (255 - hi))).map fun i => (i, false)
    else none
  | none => if a.lev = 0 ∧ a.st.testBit 13 then (first (p &&& (255 - hi))).map fun i => (i, false) else none

/-- ST with a new level and some enables cleared. -/
def stLevel (st : Word) (lev clear : Nat) : Word := BitVec.ofNat 32 (maskIn st.toNat (0x18000 + clear) (lev * 0x8000))

/-- INTERRUPT (R364): at an instruction boundary, never inside a REP (R363), nor in a debug step unless STEP_IRQ is 1
(R635); a checkpoint is taken (R368). -/
def execInterruptIbc (n : Fin 18) (s : State) : Host.Outcome State Fault Refusal :=
  let b := s.ibcOf n.val
  let runs := b.st = 1 ∨ b.st = 2 ∨ b.st = 3
  let stepIrq := s.gf (Reg.DBG_IBC_CTL n.val) Fld.DBG_IBC_CTL_STEP_IRQ = 1
  match s.irqPick n.val with
  | none => .next s
  | some (src, high) =>
    if ¬runs ∨ b.a.rep.isSome ∨ (b.stepping ∧ ¬stepIrq) ∨ b.wp.isSome then .next s
    else
      let a := b.a.landAll.after 12
      let save : IbSave := ⟨a.pc, a.cur.st, a.lc, a.loop⟩
      let vec := Reg.IBC_VEC n.val
      let a := if high then
          let a := { a with hi := save, high := true, loop := none, pc := s.gf vec Fld.IBC_VEC_HIGH }
          a.modSet true fun r => { r with st := stLevel r.st 2 0x6000 }
        else
          let a := { a with low := save, loop := none, pc := s.gf vec Fld.IBC_VEC_LOW }
          a.modSet a.high fun r => { r with st := stLevel r.st 1 0x2000 }
      let p := Reg.IBC_IRQ_PEND n.val
      let s := s.sf p Fld.IBC_IRQ_PEND_PEND (s.gf p Fld.IBC_IRQ_PEND_PEND &&& (255 - 2 ^ src))
      let s := s.setIbc n.val fun b => Ibc.checkpoint { b with a := a, st := 1, skipBp := false }
      .next (s.ibEdge n.val)

/-- CHECKPOINT (R368): taken when 4,096 cycles have passed since the last one, or the undo log is full. -/
def execCheckpoint (n : Fin 18) (s : State) : Host.Outcome State Fault Refusal :=
  let b := s.ibcOf n.val
  .next (if (b.st == 1 || b.st == 2 || b.st == 3) && b.ckDue then s.setIbc n.val Ibc.checkpoint else s)

/-- Restore the last checkpoint and undo the logged writes, newest first; a byte the fabric has written since keeps
the fabric's value (R332, R369). -/
def State.ibReplay (s : State) (n : Nat) : State :=
  let b := s.ibcOf n
  let s := b.undo.foldl (fun (s : State) (a, old, new) => if s.rb a = new then s.wb a old else s) s
  let s := s.setIbc n fun b => { b with a := b.ck, undo := [], st := if b.st = 2 then 1 else b.st, reads := b.reads.filter fun r => decide (r.since < b.ckAt) }
  s.setFlag (Reg.IBC_FLAG n) 2 (s.ibcHolder n)

/-! ### Running and stopping (R370), requests from outside -/

/-- A core starts at ENTRY: base level, no loop, no repeat, an empty return stack, registers as they are (log 12). -/
def State.ibStart (s : State) (n : Nat) : State :=
  s.setIbc n fun b =>
    let a := b.a.landAll
    let a := { a with high := false, loop := none, rep := none, ras := [], pc := s.gf (Reg.IBC_ENTRY n) Fld.IBC_ENTRY_ENTRY }
    let a := a.modSet false fun r => { r with st := stLevel r.st 0 0 }
    Ibc.checkpoint { b with a := a, st := 1, stopReq := false, haltReq := false, stepping := false, skipBp := false, wp := none }

/-- RUN = 1 (R370). -/
def State.ibRun (s : State) (n : Nat) : State :=
  if (s.ibcOf n).st = 0 ∨ (s.ibcOf n).st = 4 then s.ibStart n else s

/-- RUN = 0 (R370): STOPPED at the next boundary after any REP. -/
def State.ibStop (s : State) (n : Nat) : State :=
  let b := s.ibcOf n
  if b.st = 0 ∨ b.st = 4 then s
  else if b.a.rep.isSome ∧ b.st = 1 then s.setIbc n fun b => { b with stopReq := true }
  else
    let s := s.setIbc n fun b => { b with st := 0, stepping := false, haltReq := false }
    match s.ibcHolder n with
    | some l => s.leaveDebug l
    | none => s

/-- IBC_RUN (R370): a write of IBC.CTL.RUN = 1. -/
def execIbcRun (who : Requester) (n : Fin 18) (s : State) : Host.Outcome State Fault Refusal :=
  .next (s.asWrite who (Reg.IBC_CTL n.val) fun s => s.ibRun n.val)

/-- IBC_RUN_STOP (R370): a write of IBC.CTL.RUN = 0. -/
def execIbcRunStop (who : Requester) (n : Fin 18) (s : State) : Host.Outcome State Fault Refusal :=
  .next (s.asWrite who (Reg.IBC_CTL n.val) fun s => s.ibStop n.val)

/-- Set the sources 5 to 7 of a mask pending (R372). -/
def State.irqSet (s : State) (n v : Nat) : State :=
  [5, 6, 7].foldl (fun (s : State) i => if v.testBit i then s.irqPend n i else s) s

/-- IRQ_SET (R372). -/
def execIrqSet (who : Requester) (n : Fin 18) (v : Word) (s : State) : Host.Outcome State Fault Refusal :=
  .next (s.asWrite who (Reg.IBC_IRQ_SET n.val) fun s => s.irqSet n.val v.toNat)

/-- A write of IBC.MBOX (R362, R372). -/
def State.mbox (s : State) (who : Requester) (n : Nat) (v : Word) : State :=
  let s := s.wr (Reg.IBC_MBOX n) v
  match who with
  | .ibc m => if m.val = n then s else s.irqPend n 2
  | _ => s.irqPend n 2

/-- MBOX (R362). -/
def execMbox (who : Requester) (n : Fin 18) (v : Word) (s : State) : Host.Outcome State Fault Refusal :=
  .next (s.asWrite who (Reg.IBC_MBOX n.val) fun s => s.mbox who n.val v)

/-! ### The debug port (R633 to R635) -/

/-- A halt request (R633): at the boundary, after any REP. The status of the access. -/
def State.dbgIbHalt (s : State) (n : Nat) : State × Nat :=
  let b := s.ibcOf n
  if !s.grants 0 (s.ibcHolder n) then (s, St.permission)
  else if b.st = 1 ∧ b.a.rep.isSome then (s.setIbc n fun b => { b with haltReq := true }, St.ok)
  else if b.st = 1 ∨ b.st = 2 ∨ b.st = 3 then
    ((s.setIbc n fun b => { b with st := 5, preHalt := b.st, stepping := false, a := b.a.landAll }).ibHalted n 1, St.ok)
  else (s, St.ok)

/-- STEP (R635). -/
def State.dbgIbStep (s : State) (n : Nat) : State × Nat :=
  let b := s.ibcOf n
  if !s.grants 0 (s.ibcHolder n) then (s, St.permission)
  else if b.st ≠ 5 then (s, St.state)
  else (s.setIbc n fun b => { b with st := if b.preHalt = 3 then 3 else 1, stepping := true, skipBp := true, wp := none }, St.ok)

/-- Let a halted core run on. -/
def State.ibFree (s : State) (n : Nat) : State :=
  let s := s.setIbc n fun b => { b with st := if b.preHalt = 3 then 3 else 1, stepping := false, skipBp := true, wp := none }
  match s.ibcHolder n with
  | some l => s.leaveDebug l
  | none => s

/-- RESUME (R635). -/
def State.dbgIbResume (s : State) (n : Nat) : State × Nat :=
  if !s.grants 0 (s.ibcHolder n) then (s, St.permission)
  else if (s.ibcOf n).st ≠ 5 then (s, St.state)
  else (s.ibFree n, St.ok)

/-- An access of the debug port ends: its status is counted (R11), and ACC_ERR set for any but OK (R631). -/
def accEnd (r : State × Nat) : State := (r.1.countStatus 0xF r.2 none).setFlagIf (r.2 != St.ok) Reg.DBG_FLAG 2

/-- IBC_HALT (R633). -/
def execIbcHalt (n : Fin 16) (s : State) : Host.Outcome State Fault Refusal := .next (accEnd (s.dbgIbHalt n.val))
/-- IBC_STEP (R635). -/
def execIbcStep (n : Fin 16) (s : State) : Host.Outcome State Fault Refusal := .next (accEnd (s.dbgIbStep n.val))
/-- IBC_RESUME (R635). -/
def execIbcResume (n : Fin 16) (s : State) : Host.Outcome State Fault Refusal := .next (accEnd (s.dbgIbResume n.val))

/-- BREAKPOINT (R634): the core halts before it issues the instruction at an enabled breakpoint. -/
def execBreakpoint (n : Fin 16) (s : State) : Host.Outcome State Fault Refusal :=
  let b := s.ibcOf n.val
  match s.bpAt n.val b.a.pc with
  | some k =>
    if b.st = 1 then
      .next ((s.setIbc n.val fun b => { b with st := 5, preHalt := 1, stepping := false, a := b.a.landAll }).ibHalted n.val 3 k)
    else .next s
  | none => .next s

/-- WATCHPOINT (R634): the core halts after an instruction with a matching access, after any REP. -/
def execWatchpoint (n : Fin 16) (s : State) : Host.Outcome State Fault Refusal :=
  let b := s.ibcOf n.val
  match b.wp with
  | some k =>
    if b.st = 1 ∧ b.a.rep.isNone then
      .next ((s.setIbc n.val fun b =>
        { b with st := 5, preHalt := 1, stepping := false, wp := none, a := b.a.landAll }).ibHalted n.val 4 k)
    else .next s
  | none => .next s

end Sys2Proof.Machine
end

