-- ==== Sys2Proof/Machine/Lane.lean ====
section
/-! DEFINITION. One lane of the matrix engine (R34 to R41): the group value, the accumulation, the drain's conversion, and
the residue and parity checks that go with each stage (R52 to R54). A check that fails shows as RESIDUE among the events. -/
namespace Sys2Proof.Machine
open Sys2Proof

/-! ### Residues (R52) -/

/-- Residue modulo 3 of an integer. -/
def res3 (v : Int) : Nat := (v % 3).toNat

/-- Residue of a cell's bits [39:0] as INT40 (R52); in the float mode bits [39:32] are 0 (R36), so it is that of the bits (R53). -/
def AccCell.residue (c : AccCell) : Nat := res3 c.v.toInt

/-- The check of a read: the stored residue is that of the bits (R52). -/
def AccCell.good (c : AccCell) : Bool := c.res.toNat == c.residue

/-- A cell with the residue of its bits beside them. -/
def AccCell.sealed (v : BitVec 40) (flt : Bool) : AccCell :=
  ⟨v, flt, BitVec.ofNat 2 (AccCell.residue ⟨v, flt, 0⟩)⟩

/-- A failed check, as an event (R54). -/
def checkEv (ok : Bool) : Nat := if ok then 0 else Ev.residue

/-- The events of a lane, with its lane group marked in bits [15:8] when a check failed (R54, R56). -/
def laneEv (lane ev : Nat) : Nat := if ev.testBit 6 then ev ||| 2 ^ (8 + lane / 16) else ev

/-! ### Integer and complex modes (R34, R35) -/

/-- Clamp to INT40 (R34). -/
def clamp40 (v : Int) : Int × Nat :=
  let (c, b) := clampTo (-(2 : Int) ^ 39) ((2 : Int) ^ 39 - 1) v
  (c, if b then Ev.accSat else Ev.none)

/-- Sum of the products of a cycle group. -/
def dotInt (ps : List (Int × Int)) : Int := ps.foldl (fun acc p => acc + p.1 * p.2) 0

/-- The residue R52 predicts from the stored residue and the operands. -/
def predict (r : Nat) (ps : List (Int × Int)) : Nat := ps.foldl (fun r p => (r + res3 p.1 * res3 p.2) % 3) (r % 3)

/-- One integer accumulation into a cell (R34, R36): the row is checked as it is read, the prediction is compared with
the unsaturated sum, and after a clamp the stored residue is derived anew (R52). -/
def accInt (old : AccCell) (fresh : Bool) (ps : List (Int × Int)) : AccCell × Nat :=
  let prev : Int := if fresh then 0 else old.v.toInt
  let sum := prev + dotInt ps
  let r := predict (if fresh then 0 else old.res.toNat) ps
  let (c, ev) := clamp40 sum
  (⟨BitVec.ofInt 40 c, false, BitVec.ofNat 2 (if c = sum then r else res3 c)⟩,
    ev ||| checkEv ((fresh || old.good) && r == res3 sum))

/-! ### Float mode (R37 to R41) -/

/-- Significand of a value. -/
def FV.sig : FV → Nat
  | .fin _ m _ => m
  | _ => 0

/-- The multiplier's checks (R53): residue of the significand product, parity of the exponent sum. -/
def mulOk (a b p : FV) : Bool :=
  match a, b, p with
  | .fin _ ma ea, .fin _ mb eb, .fin _ m e => (ma % 3) * (mb % 3) % 3 == m % 3 && (ea % 2 + eb % 2) % 2 == e % 2
  | _, _, _ => true

/-- The checks of alignment and tree (R53): parity of each product's shift from emax, residue over the truncated products. -/
def treeOk (q t : Int) (ps : List FV) : Bool :=
  (ps.all fun p => (p.exp % 2 - q % 2) % 2 == (p.exp - q) % 2) &&
    ps.foldl (fun r p => (r + res3 (truncAt q p)) % 3) 0 == res3 t

/-- The checks of one group value. -/
def groupOk (as bs ps : List FV) : Bool :=
  ((as.zip bs).zip ps).all (fun x => mulOk x.1.1 x.1.2 x.2) &&
    (match maxLead ps with
     | none => true
     | some emax => treeOk (emax - 63) (ps.foldl (fun acc p => acc + truncAt (emax - 63) p) 0) ps)

/-- The checks of the accumulator add (R53): parity of the exponent path, residue of the significand adder. -/
def addOk (a b : FV) : Bool :=
  match a, b with
  | .fin _ _ ea, .fin _ _ eb =>
    let q := min ea eb
    (res3 (a.at q) + res3 (b.at q)) % 3 == res3 (a.at q + b.at q) && ((ea - q) % 2 + q % 2) % 2 == ea % 2
  | _, _ => true

/-- The group value of one lane and one stream vector in the float mode (R37, R63), with its checks. -/
def floatGroup (st xs : List (FV × Nat)) : Nat × Nat :=
  let prods := (st.zip xs).map fun (a, b) => FV.mul a.1 b.1
  let nanIn := (st.any fun a => a.1.isNaN && !(a.2.testBit 2)) || (xs.any fun a => a.1.isNaN && !(a.2.testBit 2))
  let bad := (prods.any fun p => p.2.testBit 2) || (st.any fun a => a.2.testBit 2) || (xs.any fun a => a.2.testBit 2)
  let flush := (st ++ xs).any fun a => a.2.testBit 5
  let (g, ev) := groupValue nanIn bad (prods.map Prod.fst)
  (g, ev ||| (if flush then Ev.flush else 0) ||| checkEv (groupOk (st.map Prod.fst) (xs.map Prod.fst) (prods.map Prod.fst)))

/-- One float accumulation into a cell (R36, R40): the row is checked as it is read; the residue of the new bits is
stored (R53). -/
def accFloat (old : AccCell) (fresh : Bool) (g : Nat) : AccCell × Nat :=
  let prev := if fresh then 0 else old.v.toNat % 2 ^ 32
  let (r, ev) := add32 prev g
  (AccCell.sealed (BitVec.ofNat 40 r) true, ev ||| checkEv ((fresh || old.good) && addOk (f32 prev) (f32 g)))

/-! ### Drain (R46, R74) -/

/-- The 32-bit word a drain makes of a cell, whose residue is checked as it is read (R52). -/
def drainWord (cell : AccCell) : Word × Nat :=
  if cell.flt then (BitVec.ofNat 32 cell.v.toNat, checkEv cell.good)
  else
    let (v, ev) := toIntFmt 9 (FV.ofInt cell.v.toInt)
    (BitVec.ofNat 32 v, ev ||| checkEv cell.good)

end Sys2Proof.Machine
end

