-- ==== Sys2Proof/Machine/Seq.lean ====
section
/-! DEFINITION. The stream sequencer (R89 to R99): decoding a slot's next command, issue, completion records,
stopping. A slot decodes the word at its buffer; a command that completes at issue completes here, any other
becomes an entry that COMMAND_COMPLETION completes. -/
namespace Sys2Proof.Machine
open Sys2Proof

/-- Where a command runs: core, partition, lodging, slot. -/
structure Ctx where
  c : Nat
  p : Nat
  l : Nat
  sl : Slot
deriving DecidableEq, Repr

/-! ### Header fields (R89) -/

def cOp (w : CmdWord) : Nat := cbits w 127 120
def cCpl (w : CmdWord) : Bool := cbits w 119 119 == 1
def cSig (w : CmdWord) : Bool := cbits w 118 118 == 1
def cSobj (w : CmdWord) : Nat := cbits w 117 106

/-- The opcodes that R93 assigns. -/
def assignedOps : List Nat :=
  [0x00, 0x01, 0x02, 0x03, 0x04, 0x05, 0x06, 0x10, 0x14, 0x18, 0x19, 0x20, 0x21, 0x22, 0x23, 0x30, 0x31, 0x32, 0x33,
   0x34, 0x35, 0x36, 0x40, 0x41, 0x42, 0x43, 0x50, 0x51, 0x52, 0x60, 0x61, 0x62, 0x63, 0x70, 0x71, 0x72, 0x80, 0x81,
   0x82, 0xF0]

/-! ### The completion ring (R96, R97, R128) -/

/-- Entries of the ring neither used nor claimed. -/
def TcSlot.ringFree (t : TcSlot) : Nat :=
  if t.ringN ≤ t.head then 0 else (t.ringN - 1) - (t.tail + t.ringN - t.head) % t.ringN - t.claimed

/-- The 16 bytes of a completion record (R96), as one number. -/
def recordBytes (st op ev seq tag src : Nat) : Nat :=
  st % 256 + 256 * (op % 256) + 2 ^ 16 * (ev % 128) + 2 ^ 32 * (seq % 2 ^ 32) + 2 ^ 64 * (tag % 2 ^ 32) +
    2 ^ 96 * (src % 256)

/-- Write a record at TAIL and advance it. -/
def State.writeRecord (s : State) (x : Ctx) (st op ev seq tag : Nat) : State :=
  let t := s.slotOf x.c x.p x.sl
  let s := s.wrLE (t.ring + 16 * t.tail) 16 (recordBytes st op ev seq tag (x.l % 16 + 16 * x.sl.idx))
  s.setSlot x.c x.p x.sl fun t => { t with tail := (t.tail + 1) % t.ringN }

/-- A slot stalls for want of a ring entry (R97): A_CRFULL or B_CRFULL, STATE WAITING. A slot that is stalled already
does so once; a halted one stays HALTED and waits when it resumes (R637). -/
def State.stallRing (s : State) (x : Ctx) : State :=
  if (s.slotOf x.c x.p x.sl).stalled then s
  else
    (s.setFlag (Reg.TC_SLOT_FLAG x.c) (2 + x.sl.idx) (some x.l)).setSlot x.c x.p x.sl fun t =>
      { t with st := if t.st = 4 then 4 else 2, stalled := true }

/-- Set the arithmetic events of a command in TC.AFLAG (R50), each once. -/
def State.arithFlags (s : State) (x : Ctx) (ev : Nat) : State :=
  (List.range 6).foldl (fun (s : State) i => s.setFlagIf (ev.testBit i) (Reg.TC_AFLAG x.c) i (some x.l)) s

/-- A slot stops (R98): STOPPED, LAST_OP and STOP_STATUS, the stop flag. -/
def State.stopMark (s : State) (x : Ctx) (op st : Nat) : State :=
  (s.setSlot x.c x.p x.sl fun t => { t with st := 3, lastOp := op, stopStatus := st, wait := .none }).setFlag
    (Reg.TC_SLOT_FLAG x.c) x.sl.idx (some x.l)

/-- A slot stops, and its waybill is torn down (R98, R415). -/
def State.stopSlot (s : State) (x : Ctx) (op st seq : Nat) : State :=
  (s.stopMark x op st).teardown x.l 0 x.c x.sl.idx seq st

/-- The statuses after which a slot goes on (R98). -/
def goesOn (st : Nat) : Bool := st == St.ok || st == St.concealed || st == St.overrun

/-- A command ends (R96 to R98, R124): its record when CPL asks for one, when `force` does (END, MARK) or when its
status is not OK; the signal of SOBJ after a status that lets the slot go on; the slot's stop after any other. -/
def State.finishMark (s : State) (x : Ctx) (w : CmdWord) (seq st ev tag : Nat) (claimed force : Bool) : State :=
  let s := s.countStatus (0x10 + x.c) st (some x.l)
  let s := if claimed then s.setSlot x.c x.p x.sl fun t => { t with claimed := t.claimed - 1 } else s
  let s := if cCpl w || force || st != St.ok then s.writeRecord x st (cOp w) ev seq tag else s
  let s := if cSig w && goesOn st then s.signal (cSobj w) 1 else s
  if goesOn st then s else s.stopMark x (cOp w) st

/-- A command ends; when it stops its slot, the waybill is torn down (R98, R415). -/
def State.finish (s : State) (x : Ctx) (w : CmdWord) (seq st ev tag : Nat) (claimed force : Bool) : State :=
  let s := s.finishMark x w seq st ev tag claimed force
  if goesOn st then s else s.teardown x.l 0 x.c x.sl.idx seq st

/-! ### Decode -/

/-- The slot stands at the SEQ at which the debug port halts it (R637). -/
def State.seqMatch (s : State) (c : Nat) (sl : Slot) : Bool :=
  let t := s.slotOf c (s.curPart c) sl
  let r := Reg.DBG_TC_CTL c
  !t.skipSeq && match sl with
    | .a => s.gf r Fld.DBG_TC_CTL_A_SEQ_EN == 1 && (s.rr (Reg.DBG_TC_SEQA c)).toNat == t.seq
    | .b => s.gf r Fld.DBG_TC_CTL_B_SEQ_EN == 1 && (s.rr (Reg.DBG_TC_SEQB c)).toNat == t.seq

/-- The slot may decode its next command now (R92, R94): it runs, it waits for nothing, the core serves its
partition. -/
def State.slotReads (s : State) (c : Nat) (sl : Slot) : Bool :=
  let t := s.slotOf c (s.curPart c) sl
  t.active && t.st == 1 && t.wait == .none && !(s.gf (Reg.TC_POOL_STAT c) Fld.TC_POOL_STAT_SWITCHING == 1)

/-- Device address of a slot's next command word. -/
def TcSlot.nextAddr (t : TcSlot) : Nat := t.buf + 16 * t.seq

/-- Context of a slot's decode. -/
def State.ctx (s : State) (c : Nat) (sl : Slot) : Ctx :=
  ⟨c, s.curPart c, (s.slotOf c (s.curPart c) sl).ldg, sl⟩

/-- A slot has halted with a cause of R643 (R637, R639). -/
def State.tcHalted (s : State) (c l : Nat) (sl : Slot) (cause : Nat) : State :=
  (s.sf (Reg.DBG_TC_CAUSE c) (match sl with
    | .a => Fld.DBG_TC_CAUSE_A_CAUSE
    | .b => Fld.DBG_TC_CAUSE_B_CAUSE) cause).enterDebug (some l)

/-- A slot halts at a command boundary (R637). -/
def State.haltSlot (s : State) (x : Ctx) (cause : Nat) : State :=
  (s.setSlot x.c x.p x.sl fun t => { t with st := 4, step := false }).tcHalted x.c x.l x.sl cause

/-- The slot's stream moves past a decoded command (R127); a debug step ends and the slot halts again (R637); the
decode is counted (R498). -/
def State.advance (s : State) (x : Ctx) : State :=
  let stepped := (s.slotOf x.c x.p x.sl).step
  let s := (s.setSlot x.c x.p x.sl fun t =>
    { t with
      seq := (t.seq + 1) % 2 ^ 32, st := if t.step then 4 else t.st, step := false, skipSeq := false }).event (0x10 + x.c) (0x3007 + x.sl.idx) (some x.l)
  if stepped then s.tcHalted x.c x.l x.sl 2 else s

/-- A command word that cannot be read (R92): INTEGRITY under OPCODE 0xFF, and the slot stops. -/
def State.badWord (s : State) (x : Ctx) (seq : Nat) : State :=
  let s := s.countStatus (0x10 + x.c) St.integrity (some x.l)
  (s.writeRecord x St.integrity 0xFF 0 seq 0).stopSlot x 0xFF St.integrity seq

/-- Decode a command on a row with a predicate on its word: a fault when the word is not of the row, nothing when the
slot does not read it, a halt at a SEQ match (R637), a stall when fewer than 2 ring entries are free (R97), else the body, which is given the
state that has moved past the command. The word is the one that memory holds at decode, the newer of the two that R92 allows
(DESIGN CHOICE; log 85). -/
def decodeRow (c : Fin 32) (sl : Slot) (w : CmdWord) (isRow : Bool) (s : State) (body : Ctx → Nat → State → State) :
    Host.Outcome State Fault Refusal :=
  if !isRow then .fault .notThisRow
  else if !s.slotReads c.val sl then .next s
  else
    let x := s.ctx c.val sl
    let t := s.slotOf x.c x.p x.sl
    if s.seqMatch c.val sl then .next (s.haltSlot x 3)
    else if t.ringFree < 2 then .next (s.stallRing x)
    else if s.poisoned t.nextAddr 16 then .next ((s.advance x).badWord x t.seq)
    else if s.rdLE t.nextAddr 16 != w.toNat then .next s
    else .next (body x t.seq (s.advance x))

/-- R90: a named object that is read lies in a block not bound to the lodging. -/
def State.badObj (s : State) (x : Ctx) (o : Nat) : Bool := !s.holdsObj x.l o

/-- The checks every command makes: SOBJ when SIG is 1 (R90). -/
def State.baseChecks (s : State) (x : Ctx) (w : CmdWord) : List (Bool × Nat) :=
  [(cSig w && s.badObj x (cSobj w), St.permission)]

/-- Reserved bits [hi:lo] of a word must be 0 (R91). -/
def resv (w : CmdWord) (hi lo : Nat) : Bool × Nat := (cbits w hi lo != 0, St.format)

/-- Claim a ring entry at issue when CPL is 1 (R97). -/
def State.claim (s : State) (x : Ctx) (w : CmdWord) : State :=
  if cCpl w then s.setSlot x.c x.p x.sl fun t => { t with claimed := t.claimed + 1 } else s

/-- Put an issued command in flight. -/
def State.enter (s : State) (x : Ctx) (e : CmdEntry) : State :=
  let n := (s.tcOf x.c).issued
  let s := (s.claim x e.w).setSlot x.c x.p x.sl fun t =>
    { t with inflight := t.inflight ++ [{ e with claimed := cCpl e.w, stamp := n }] }
  s.setTc x.c fun t => { t with issued := n + 1 }

/-- A fresh in-flight entry. -/
def CmdEntry.mk' (seq : Nat) (w : CmdWord) (desc : Nat) (att : Attach) : CmdEntry :=
  ⟨seq, w, desc, att, St.ok, 0, false, 0, false, false, false, [], 0, 0, 0, [], false, 0, 0, false, 0, false⟩

/-- A command that completes at issue with a status and events. -/
def State.complete (s : State) (x : Ctx) (w : CmdWord) (seq st : Nat) (ev : Nat := 0) : State :=
  s.finish x w seq st ev 0 false false

/-- Every earlier command of the slot, moves included, has completed (R99). -/
def TcSlot.quiet (t : TcSlot) : Bool := t.inflight == [] && t.moves == []

/-- END ends the slot's stream (R99): its attachment ends with it at the waybill's end. A halted slot stays so (R637). -/
def State.endStream (s : State) (x : Ctx) : State :=
  s.setSlot x.c x.p x.sl fun t => { t with st := if t.st = 4 then 4 else 0, ended := true }

/-- A drain command writes a record when CPL asks for one; END and MARK always do (R99). -/
def drainRecords (w : CmdWord) : Bool := cCpl w || cOp w == 0x05 || cOp w == 0x06

/-- A FENCE, END or MARK completes (R99). -/
def State.finishDrain (s : State) (x : Ctx) (seq : Nat) (w : CmdWord) (claimed : Bool) : State :=
  let s := s.setSlot x.c x.p x.sl fun t => { t with wait := .none, st := if t.st = 2 then 1 else t.st }
  let tag := if cOp w = 0x06 then cbits w 105 74 else 0
  let s := s.finish x w seq St.ok 0 tag claimed (drainRecords w)
  if cOp w = 0x05 then s.endStream x else s

/-- A waiting FENCE, END or MARK completes once the slot is quiet. -/
def State.checkDrain (s : State) (x : Ctx) : State :=
  let t := s.slotOf x.c x.p x.sl
  match t.wait with
  | .drain seq w => if t.quiet && t.active then s.finishDrain x seq w (drainRecords w) else s
  | _ => s

/-- Issue a FENCE, END or MARK: it completes at once when the slot is quiet, else the slot waits (R99). -/
def State.issueDrain (s : State) (x : Ctx) (seq : Nat) (w : CmdWord) : State :=
  if (s.slotOf x.c x.p x.sl).quiet then s.finishDrain x seq w false
  else s.setSlot x.c x.p x.sl fun t =>
    { t with
      wait := .drain seq w
      st := if t.st = 1 then 2 else t.st
      claimed := t.claimed + (if drainRecords w then 1 else 0) }

/-- Reserved operand bits of a header-only command (R93). -/
def headerOnly (w : CmdWord) : Bool × Nat := resv w 105 0

end Sys2Proof.Machine
end

