-- ==== Sys2Proof/Machine/Engine.lean ====
section
/-! DEFINITION. The matrix engine (spec/02_matrix_engine.md, R32 to R44, R100 to R106, R133 to R135, R184 to R188):
loads of stationary tiles, passes, drains, the fold of a TILE, side passes. -/
namespace Sys2Proof.Machine
open Sys2Proof

/-! ### Formats and pairings -/

/-- Largest depth of a stationary format (R58). -/
def depthMax (f : Nat) : Nat :=
  if isNibble f then 128 else if f = 6 ∨ f = 7 ∨ f = 10 then 16 else if f = 11 then 4 else 64
/-- Record size of a stationary format (R58). -/
def recSize (f : Nat) : Nat :=
  if f = 6 ∨ f = 7 ∨ f = 10 then 32 else if f = 11 then 16 else 64

/-- The accumulation modes of R32. -/
inductive Mode where
  | int | float | cplx
deriving DecidableEq, Repr

/-- Depth and mode of a pairing (R32); none for any other pairing (R33). -/
def pairing (a b : Nat) : Option (Nat × Mode) :=
  let i8 (f : Nat) := f == 1 || f == 2
  let w8 (f : Nat) := f == 1 || f == 2 || f == 4 || f == 5
  let half (f : Nat) := f == 6 || f == 7
  if w8 a && w8 b then some (64, if i8 a && i8 b then .int else .float)
  else if isNibble a && isNibble b then some (128, if a == 0 && b == 0 then .int else .float)
  else if isNibble a && w8 b then some (64, if a == 0 && i8 b then .int else .float)
  else if w8 a && isNibble b then some (64, if b == 0 && i8 a then .int else .float)
  else if half a && half b then some (16, .float)
  else if a == 10 && b == 10 then some (16, .cplx)
  else if a == 11 && b == 11 then some (4, .cplx)
  else none

/-- Bytes held by k elements of a format (R27). -/
def elemBytes (f k : Nat) : Nat := (k * fmtBits f + 7) / 8

/-- Element k of a packed record read through a byte function (R27, R31). -/
def elemOf (rd : Nat → Byte) (f k : Nat) : Nat :=
  match fmtBits f with
  | 4 => ((rd (k / 2)).toNat / 16 ^ (k % 2)) % 16
  | 8 => (rd k).toNat
  | 16 => (rd (2 * k)).toNat + 256 * (rd (2 * k + 1)).toNat
  | _ => (rd (4 * k)).toNat + 256 * (rd (4 * k + 1)).toNat + 65536 * (rd (4 * k + 2)).toNat +
      16777216 * (rd (4 * k + 3)).toNat

/-- Element k of a record at a device address. -/
def State.elem (s : State) (a f k : Nat) : Nat := elemOf (fun i => s.rb (a + i)) f k

/-- Value of a group scale (R30, R172). -/
def scaleVal (sfmt x : Nat) : FV :=
  if sfmt = 0 then (if x = 255 then .nan else .fin false 1 ((x : Int) - 127)) else decRaw 6 x

/-- Group size of a GSIZE code (R171). -/
def groupSize (g : Nat) : Nat := 32 * 2 ^ g

/-- Bytes of one scale (R172). -/
def scaleBytes (sfmt : Nat) : Nat := if sfmt = 0 then 1 else 2

/-! ### Engine state views -/

/-- The engine has lane activity (R75): the ramp runs first when it was down, counted as event 0x3002. -/
def State.engineActive (s : State) (x : Ctx) : State :=
  let r := Reg.TC_ENG_STATE x.c
  let s := if s.gf r Fld.TC_ENG_STATE_IDLE_CNT = 256 then
      ((s.event (0x10 + x.c) 0x3002 (some x.l)).setTc x.c fun t => { t with ramp := 32 }).sf r Fld.TC_ENG_STATE_RAMP 1
    else s
  (s.sf r Fld.TC_ENG_STATE_IDLE_CNT 0).sf r Fld.TC_ENG_STATE_DOWN 0

/-! ### Words of the core's own memories (R218) -/

/-- First name of the SRAM words that have no device address: above every device address (log 77). -/
def sramBase : Nat := 2 ^ 48
/-- Name of a byte of a stationary bank's record, of its scales, of a tile-buffer column, of a table bank. -/
def bankSram (c b n : Nat) : Nat := sramBase + 0x2000000 * c + 8192 * b + 64 * n
def scaleSram (c b n : Nat) : Nat := sramBase + 0x2000000 * c + 0x400000 + 2 * (1024 * b + 8 * n)
def tbSram (c buf row col : Nat) : Nat := sramBase + 0x2000000 * c + 0x800000 + 4 * ((256 * buf + row) * 128 + col)
def tableSram (c b off : Nat) : Nat := sramBase + 0x2000000 * c + 0xC00000 + 4096 * b + off

/-- Some of n strided ranges of nb bytes holds an uncorrectable word; rows outside `keep` are not read. -/
def State.badRows (s : State) (n : Nat) (at_ : Nat → Nat) (nb : Nat) (keep : Nat → Bool) : Bool :=
  s.poison != [] && (List.range n).any fun i => keep i && s.poisoned (at_ i) nb

/-- A bank is no longer valid (R61). -/
def State.dropBank (s : State) (c b : Nat) : State := s.setRecord c b { (s.tcOf c).record b with valid := false }

/-! ### Loads (R59, R61, R79, R185) -/

/-- Where the scales of a scaled operand lie (R184). -/
structure Scales where
  addr : Nat
  stride : Nat
  gsize : Nat
  sfmt : Nat
  mxi8 : Bool
  koff : Nat
deriving DecidableEq, Repr

/-- The raw scale of row m, element k (R184). -/
def State.rawScale (s : State) (c : Nat) (sc : Scales) (m k : Nat) : Nat :=
  let w := scaleBytes sc.sfmt
  s.rdLE (osAddr c + sc.addr + m * sc.stride + w * ((sc.koff + k) / groupSize sc.gsize)) w

/-- Some scale that rows row0 to row0 + n − 1 read for elements 0 to k − 1 is uncorrectable. -/
def State.badScales (s : State) (c : Nat) (sc : Option Scales) (row0 n k : Nat) (keep : Nat → Bool) : Bool :=
  match sc with
  | none => false
  | some q =>
    let w := scaleBytes q.sfmt
    let g0 := q.koff / groupSize q.gsize
    let g1 := (q.koff + k - 1) / groupSize q.gsize
    s.badRows n (fun i => osAddr c + q.addr + (row0 + i) * q.stride + w * g0) (w * (g1 - g0 + 1)) keep

/-- The record a load leaves (R61, R185). -/
def loadRec (x : Ctx) (f n kp : Nat) (sc : Option Scales) : BankRec :=
  match sc with
  | some q => ⟨true, f, n, kp, x.l, x.sl, true, q.gsize, q.sfmt, q.mxi8, q.koff % groupSize q.gsize⟩
  | none => ⟨true, f, n, kp, x.l, x.sl, false, 0, 0, false, 0⟩

/-- Load n records into a bank: record i from `at_ i`, its first kp elements (R59), with the scales of row
`row0 + i` when the load is scaled (R185); a pooled core's shadow is written in the same wave (R79, R186). -/
def State.load (s : State) (x : Ctx) (b f n kp : Nat) (at_ : Nat → Nat) (sc : Option Scales) (row0 : Nat) : State :=
  let s := s.engineActive x
  let nb := elemBytes f kp
  let s0 := s
  let bytes (i j : Nat) : Byte := s0.rb (at_ i + j)
  let ng := match sc with
    | some q => (q.koff % groupSize q.gsize + kp + groupSize q.gsize - 1) / groupSize q.gsize
    | none => 0
  let scl (i j : Nat) : Half := match sc with
    | some q => BitVec.ofNat 16 (s0.rawScale x.c { q with koff := 0 } (row0 + i)
        ((q.koff / groupSize q.gsize + j) * groupSize q.gsize))
    | none => 0
  let fillB (k0 : Nat) (t : Tbl Byte) : Tbl Byte :=
    (List.range n).foldl (fun t i => tputN memInit (bytes i) (k0 + 8192 * b + 64 * i) nb t) t
  let fillS (k0 : Nat) (t : Tbl Half) : Tbl Half :=
    (List.range n).foldl (fun t i => tputN (fun _ => 0) (scl i) (k0 + 1024 * b + 8 * i) ng t) t
  let s := s.setTc x.c fun t => { t with bank := fillB 0 t.bank, bankScale := fillS 0 t.bankScale }
  let s := if s.poison = [] then s
    else (List.range n).foldl (fun s i => (s.clearPoison (bankSram x.c b i) nb).clearPoison (scaleSram x.c b i) (2 * ng)) s
  let r := loadRec x f n kp sc
  let s := s.setRecord x.c b r
  if s.pooled x.c then
    s.setTc x.c fun t =>
      { t with
        shBank := fillB (16384 * x.p) t.shBank
        shScale := fillS (2048 * x.p) t.shScale
        shRec := tput (fun _ => BankRec.empty) t.shRec (2 * x.p + b) r }
  else s

/-- Reload a bank from the lodging's shadow before its PASS (R79). -/
def State.reload (s : State) (x : Ctx) (b : Nat) : State :=
  let t := s.tcOf x.c
  let r := tget (fun _ => BankRec.empty) t.shRec (2 * x.p + b)
  let s := s.engineActive x
  let s := s.setTc x.c fun t =>
    { t with
      bank := tputN memInit (fun i => tget memInit t.shBank (16384 * x.p + 8192 * b + i)) (8192 * b) (64 * r.n) t.bank
      bankScale := tputN (fun _ => 0) (fun i => tget (fun _ => 0) t.shScale (2048 * x.p + 1024 * b + i)) (1024 * b)
        (8 * r.n) t.bankScale }
  let s := (s.clearPoison (bankSram x.c b 0) (64 * r.n)).clearPoison (scaleSram x.c b 0) (16 * r.n)
  s.setRecord x.c b r

/-! ### Passes (R62 to R64, R34 to R41) -/

/-- Stationary element k of lane n with its scale, at the input port of a pass (R44, R185). MXI8 takes 2⁻⁶ of elements of any
format: the spec names no other element format at a load (R49; DESIGN CHOICE, log 84). -/
def Tc.statVal (t : Tc) (b : Nat) (r : BankRec) (n k : Nat) : FV × Nat :=
  let raw := elemOf (fun i => tget memInit t.bank (8192 * b + 64 * n + i)) r.fmt k
  let (v, ev) := decIn r.fmt raw
  if r.scaled then
    let v := if r.mxi8 then v.scale2 (-6) else v
    let sc := scaleVal r.sfmt (tget (fun _ => 0) t.bankScale (1024 * b + 8 * n + (r.koff + k) / groupSize r.gsize)).toNat
    let (p, e2) := FV.mul v sc
    (p, ev ||| e2)
  else (v, ev)

/-- Stream element k of the vector of row m, with its scale (R44, R184); MXI8 as in `Tc.statVal` (log 84). -/
def State.streamVal (s : State) (c a f m k : Nat) (sc : Option Scales) : FV × Nat :=
  let (v, ev) := decIn f (s.elem a f k)
  match sc with
  | some q =>
    let v := if q.mxi8 then v.scale2 (-6) else v
    let (p, e2) := FV.mul v (scaleVal q.sfmt (s.rawScale c q m k))
    (p, ev ||| e2)
  | none => (v, ev)

/-- Integer parts of a complex element (R31). -/
def cplxParts (f x : Nat) : Int × Int :=
  if f = 10 then (sext 8 x, sext 8 (x / 256)) else (sext 16 x, sext 16 (x / 65536))

/-- What a PASS streams (R62): mode, stream format, rows, base, ACC, CONJ, row mask, vector addresses, scales. -/
structure PassSpec where
  mode : Mode
  f : Nat
  m : Nat
  base : Nat
  fresh : Bool
  conj : Bool
  sc : Option Scales
deriving DecidableEq, Repr

/-- The cell an accumulation writes. -/
def accKey (row lane : Nat) : Nat := 128 * row + lane

/-- Accumulate one stream vector into one lane; a failed check marks the lane group (R54). -/
def State.accLane (s : State) (x : Ctx) (b : Nat) (r : BankRec) (q : PassSpec) (row0 m n a : Nat) (s0 : State) :
    State × Nat :=
  let t := s0.tcOf x.c
  let d : Nat → AccCell := fun _ => AccCell.zero
  let raw (k : Nat) : Nat := elemOf (fun i => tget memInit t.bank (8192 * b + 64 * n + i)) r.fmt k
  match q.mode with
  | .cplx =>
    let re := (List.range r.kp).flatMap fun k =>
      let (sa, sb) := cplxParts r.fmt (raw k)
      let (xc, xd) := cplxParts q.f (s0.elem a q.f k)
      [(sa, xc), (if q.conj then sb else -sb, xd)]
    let im := (List.range r.kp).flatMap fun k =>
      let (sa, sb) := cplxParts r.fmt (raw k)
      let (xc, xd) := cplxParts q.f (s0.elem a q.f k)
      [(sa, xd), (if q.conj then -sb else sb, xc)]
    let kr := accKey (row0 + 2 * (q.base + m)) n
    let ki := accKey (row0 + 2 * (q.base + m) + 1) n
    let acc := (s.tcOf x.c).acc
    let (cr, e1) := accInt (tget d acc kr) q.fresh re
    let (ci, e2) := accInt (tget d acc ki) q.fresh im
    (s.setTc x.c fun t => { t with acc := tput d (tput d t.acc kr cr) ki ci }, laneEv n (e1 ||| e2))
  | .int =>
    let ps := (List.range r.kp).map fun k => (decInt r.fmt (raw k), decInt q.f (s0.elem a q.f k))
    let k := accKey (row0 + q.base + m) n
    let (cell, ev) := accInt (tget d (s.tcOf x.c).acc k) q.fresh ps
    (s.setTc x.c fun t => { t with acc := tput d t.acc k cell }, laneEv n ev)
  | .float =>
    let st := (List.range r.kp).map fun k => t.statVal b r n k
    let xs := (List.range r.kp).map fun k => s0.streamVal x.c a q.f m k q.sc
    let (g, e1) := floatGroup st xs
    let k := accKey (row0 + q.base + m) n
    let (cell, e2) := accFloat (tget d (s.tcOf x.c).acc k) q.fresh g
    (s.setTc x.c fun t => { t with acc := tput d t.acc k cell }, laneEv n (e1 ||| e2))

/-- One stream vector against every loaded lane; its events are set once for the vector (R15, R50; log 78). -/
def State.streamRow (s : State) (x : Ctx) (b : Nat) (r : BankRec) (q : PassSpec) (row0 m a : Nat) (s0 : State) : State × Nat :=
  let (s, ev) := (List.range r.n).foldl (fun (p : State × Nat) n =>
    let (s', e) := p.1.accLane x b r q row0 m n a s0
    (s', p.2 ||| e)) (s, 0)
  (s.arithFlags x ev, ev)

/-- Run a PASS on bank b: every unmasked vector meets every loaded lane once (R62, R64, R72, R73). -/
def State.runPass (s : State) (x : Ctx) (b : Nat) (q : PassSpec) (mask : Nat → Bool) (vec : Nat → Nat) : State × Nat :=
  let r := (s.tcOf x.c).record b
  let row0 := (s.accRows x.l x.c).1
  let rows := (List.range q.m).filter mask
  if rows = [] then (s, 0)
  else
    let s := s.engineActive x
    let s := s.event (0x10 + x.c) 0x3000 (some x.l) rows.length
    rows.foldl (fun (p : State × Nat) m =>
      let (s', ev) := p.1.streamRow x b r q row0 m (vec m) s
      (s', p.2 ||| ev)) (s, 0)

/-- An operand of a PASS is uncorrectable: a stationary record or its scales, an unmasked vector or its scales (R218). -/
def State.passBad (s : State) (x : Ctx) (b : Nat) (q : PassSpec) (mask : Nat → Bool) (vec : Nat → Nat) : Bool :=
  let r := (s.tcOf x.c).record b
  s.badRows r.n (fun i => bankSram x.c b i) (elemBytes r.fmt r.kp) (fun _ => true) ||
    (r.scaled && s.badRows r.n (fun i => scaleSram x.c b i) 16 fun _ => true) ||
    s.badRows q.m vec (elemBytes q.f r.kp) mask || s.badScales x.c q.sc 0 q.m r.kp mask

/-- What becomes of a command's attempt: with every check passed its results stand; else they are discarded, RESIDUE is
set and the command waits for the recovery of the lane groups named (R51, R54). -/
def State.settle (s : State) (x : Ctx) (e : CmdEntry) (r : State × CmdEntry) (ev : Nat) : State × CmdEntry :=
  if ev.testBit 6 then
    (s.setFlag (Reg.TC_AFLAG x.c) 6 (some x.l), { e with ev := e.ev ||| Ev.residue, fault := e.fault ||| ev / 256 })
  else (r.1, { r.2 with ev := r.2.ev ||| ev })

/-- A row mask in memory (R101, R105). -/
def State.maskBit (s : State) (a m : Nat) : Bool := (s.rb (a + m / 8)).toNat.testBit (m % 8)

/-! ### Tile buffers (R130 to R135) -/

/-- Key of a tile-buffer word. -/
def tbKey (buf row col : Nat) : Nat := (256 * buf + row) * 128 + col
/-- A tile-buffer word. -/
def Tc.tb (t : Tc) (buf row col : Nat) : Word := tget (fun _ => 0) t.tbuf (tbKey buf row col)
/-- Write a tile-buffer word. -/
def Tc.setTb (t : Tc) (buf row col : Nat) (v : Word) : Tc := { t with tbuf := tput (fun _ => 0) t.tbuf (tbKey buf row col) v }
/-- State of a buffer of a partition: 0 FREE, 1 DRAINING, 2 HELD. -/
def Tc.bufState (t : Tc) (p buf : Nat) : Nat := tget (fun _ => 0) t.tbState (4 * p + buf)
/-- Set a buffer's state. -/
def Tc.setBufState (t : Tc) (p buf v : Nat) : Tc := { t with tbState := tput (fun _ => 0) t.tbState (4 * p + buf) v }
/-- Finished-tile queue of a partition (R134). -/
def Tc.queue (t : Tc) (p : Nat) : List Nat := tget (fun _ => []) t.ftq p
/-- Push a finished-tile entry. -/
def Tc.pushEntry (t : Tc) (p e : Nat) : Tc := { t with ftq := tput (fun _ => []) t.ftq p (t.queue p ++ [e]) }
/-- Pop the entry of a buffer (R134). -/
def Tc.popEntry (t : Tc) (p buf : Nat) : Tc :=
  { t with ftq := tput (fun _ => []) t.ftq p ((t.queue p).filter fun e => e % 4 != buf) }
/-- Set or clear a row's EMPTY bit (R132). -/
def Tc.setEmpty (t : Tc) (buf row : Nat) (v : Bool) : Tc :=
  { t with empty := tput (fun _ => false) t.empty (256 * buf + row) v }
/-- A row's EMPTY bit. -/
def Tc.emptyBit (t : Tc) (buf row : Nat) : Bool := tget (fun _ => false) t.empty (256 * buf + row)

/-- The finished-tile entry of R135. -/
def ftEntry (cols rows : Nat) (flt mixed as_ tile : Bool) (sl : Slot) (buf : Nat) : Nat :=
  (cols - 1) * 2 ^ 18 + (rows - 1) * 2 ^ 10 + (if flt then 8 else 9) * 2 ^ 6 + (if mixed then 2 ^ 5 else 0) +
    (if as_ then 2 ^ 4 else 0) + (if tile then 2 ^ 3 else 0) + sl.idx * 4 + buf

/-- A drain reads `rows` accumulator rows into a FREE buffer, which is DRAINING from its first row on: accumulator row
(relative) `src i`, or 0 when masked, into tile-buffer row `dst i`; columns from `cols` upward are 0 for a TILE's drain
(R74, R83). The rows' EMPTY bits clear (R132). With the state, the finished-tile entry it will push (R135): FMT is the tag of
lane 0 of row 0, MIXED compares every lane of every row, a masked row's old tags too (DESIGN CHOICE; log 86). -/
def State.drainRows (s : State) (x : Ctx) (buf rows cols : Nat) (tile as_ : Bool) (src dst : Nat → Nat)
    (keep : Nat → Bool) : State × Nat × Nat :=
  let t := s.tcOf x.c
  let a0 := (s.accRows x.l x.c).1
  let b0 := (s.tbRows x.l x.c).1
  let cell (i n : Nat) : AccCell := tget (fun _ => AccCell.zero) t.acc (accKey (a0 + src i) n)
  let one (i n : Nat) : Word × Nat := if keep i && decide (n < cols) then drainWord (cell i n) else (0, 0)
  let flt := (cell 0 0).flt
  let mixed := (List.range rows).any fun i => (List.range cols).any fun n => (cell i n).flt != flt
  let (s, ev) := (List.range rows).foldl (fun (p : State × Nat) i =>
    let row := b0 + dst i
    let ev := (List.range cols).foldl (fun e n => e ||| laneEv n (one i n).2) 0
    let s := p.1.setTc x.c fun t =>
      { t with tbuf := tputN (fun _ => 0) (fun n => (one i n).1) (tbKey buf row 0) 128 t.tbuf }.setEmpty buf row false
    ((s.clearPoison (tbSram x.c buf row 0) 512).arithFlags x ev, p.2 ||| ev)) (s, 0)
  (s.setTc x.c fun t => t.setBufState x.p buf 1, ev, ftEntry cols rows flt mixed as_ tile x.sl buf)

/-- The buffer a waiting drain of the entry wants, when one waits (R74, R133). -/
def CmdEntry.wantsBuf (e : CmdEntry) (per : Nat) (drains : Bool) : Option Nat :=
  if e.done || e.passed || !e.begun then none
  else if cOp e.w = 0x23 then some (cbits e.w 89 88)
  else if cOp e.w = 0x21 ∧ drains ∧ per * (e.prog + 1) ≤ e.grp then some ((cbits e.w 48 47 + e.prog) % 4)
  else none

/-- TB_WAIT: a drain waits on a HELD buffer (R133, R170). -/
def State.tbWait (s : State) (x : Ctx) : State :=
  (s.setFlag (Reg.TC_VFLAG x.c) 1 (some x.l)).event (0x10 + x.c) 0x300B (some x.l)

/-- A drain found its buffer not FREE: TB_WAIT once, when the buffer is HELD (R133). -/
def State.drainWaits (s : State) (x : Ctx) (buf : Nat) (e : CmdEntry) : State × CmdEntry :=
  if (s.tcOf x.c).bufState x.p buf = 2 ∧ e.warned = false then (s.tbWait x, { e with warned := true }) else (s, e)

/-! ### LDS (R59, R60, R100) -/

/-- Scales of the B side of an attachment (R184). -/
def Attach.bSc (a : Attach) (koff : Nat) : Option Scales :=
  if a.bOn then some ⟨a.bScales, a.bStride, a.gsize, a.sfmt, a.bMxi8, koff⟩ else none
/-- Scales of the A side of an attachment. -/
def Attach.aSc (a : Attach) (koff : Nat) : Option Scales :=
  if a.aOn then some ⟨a.aScales, a.aStride, a.gsize, a.sfmt, a.aMxi8, koff⟩ else none

/-- The scales of rows 0 to rows − 1, elements 0 to k − 1, lie in the regions (R184). -/
def State.scalesOk (s : State) (x : Ctx) (sc : Option Scales) (rows k : Nat) : Bool :=
  match sc with
  | none => true
  | some q =>
    let w := scaleBytes q.sfmt
    let g0 := q.koff / groupSize q.gsize
    let g1 := (q.koff + k - 1) / groupSize q.gsize
    s.osRows x.l x.c (q.addr + w * g0) q.stride (w * (g1 - g0 + 1)) rows

/-- The checks of an LDS (R60, R91, R184, R185). -/
def State.ldsChecks (s : State) (x : Ctx) (w : CmdWord) (att : Attach) : List (Bool × Nat) :=
  let f := cbits w 104 101
  let n := cbits w 100 94 + 1
  let kp := cbits w 93 87 + 1
  s.baseChecks x w ++
    [resv w 71 0, (!isEngine f, St.format), (isCplx f && att.bOn, St.format),
     (decide (depthMax f < kp), St.bounds),
     (!s.osOk x.l x.c (64 * cbits w 86 72) (n * recSize f), St.bounds),
     (!s.scalesOk x (att.bSc att.koff) n kp, St.bounds)]

/-- The load of an LDS. -/
def State.ldsEff (s : State) (x : Ctx) (e : CmdEntry) : State × CmdEntry :=
  let f := cbits e.w 104 101
  let n := cbits e.w 100 94 + 1
  let kp := cbits e.w 93 87 + 1
  let a := osAddr x.c + 64 * cbits e.w 86 72
  let sc := e.att.bSc e.att.koff
  if s.badRows n (fun i => a + i * recSize f) (elemBytes f kp) (fun _ => true) || s.badScales x.c sc 0 n kp fun _ => true then
    (s, { e with st := St.integrity, done := true })
  else (s.load x (cbits e.w 105 105) f n kp (fun i => a + i * recSize f) sc 0, { e with done := true })

/-! ### PASS (R62, R65, R101, R102, R121) -/

/-- The bank record a PASS is checked against: none when the bank's issue record is not valid; the record when it names the
lodging; else, on a pooled core, the lodging's shadow (R61, R65, R79). -/
def State.passRecord (s : State) (x : Ctx) (b : Nat) : Option BankRec :=
  let t := s.tcOf x.c
  let r := t.issRec b
  if !r.valid then none
  else if r.owner = x.l then some r
  else
    let h := tget (fun _ => BankRec.empty) t.shRec (2 * x.p + b)
    if s.pooled x.c ∧ h.valid ∧ h.owner = x.l then some h else none

/-- Mode of a pass: float when a side is scaled (R185). -/
def passMode (r : BankRec) (f : Nat) (aOn : Bool) : Option (Nat × Mode) :=
  match pairing r.fmt f with
  | some (d, m) => some (d, if (r.scaled || aOn) && m == .int then .float else m)
  | none => none

/-- The checks of a PASS. -/
def State.passChecks (s : State) (x : Ctx) (w : CmdWord) (att : Attach) : List (Bool × Nat) :=
  let b := cbits w 105 105
  let f := cbits w 104 101
  let m := cbits w 100 93 + 1
  let base := cbits w 92 85
  let rows := (s.accRows x.l x.c).2
  let maskOk := cbits w 82 82 == 0 || s.osOk x.l x.c (64 * cbits w 56 42) 32
  let common := s.baseChecks x w ++ [resv w 41 0, (!isEngine f, St.format), (!maskOk, St.bounds)]
  match s.passRecord x b with
  | none => common ++ [(decide (rows < base + m), St.bounds), (true, St.state)]
  | some r =>
    let vb := elemBytes f r.kp
    match passMode r f att.aOn with
    | none => common ++ [(true, St.format), (decide (rows < base + m), St.bounds), (r.slot != x.sl, St.state)]
    | some (d, mode) =>
      let lim := if mode = .cplx then rows / 2 else rows
      common ++
        [(cbits w 83 83 == 1 && mode != .cplx, St.format),
         (isCplx f && att.aOn, St.format),
         (decide (d < r.kp), St.bounds),
         (decide (lim < base + m), St.bounds),
         (decide (16 * cbits w 64 57 < vb), St.bounds),
         (!s.osRows x.l x.c (16 * cbits w 81 65) (16 * cbits w 64 57) vb m, St.bounds),
         (!s.scalesOk x (att.aSc att.koff) m r.kp, St.bounds),
         (r.slot != x.sl, St.state)]

/-- The row mask of a PASS (R101). -/
def State.passMask (s : State) (x : Ctx) (w : CmdWord) (i : Nat) : Bool :=
  cbits w 82 82 == 0 || s.maskBit (osAddr x.c + 64 * cbits w 56 42) i

/-- A PASS whose row mask clears every vector: it completes at issue (R73, R102). -/
def State.passEmpty (s : State) (x : Ctx) (w : CmdWord) : Bool :=
  (List.range (cbits w 100 93 + 1)).all fun i => !s.passMask x w i

/-- The row mask of a PASS is uncorrectable. -/
def State.maskBad (s : State) (x : Ctx) (w : CmdWord) : Bool :=
  cbits w 82 82 == 1 && s.poisoned (osAddr x.c + 64 * cbits w 56 42) (cdiv (cbits w 100 93 + 1) 8)

/-- The work of a PASS, after the reload of a pooled core when the bank is another lodging's (R79). -/
def State.passEff (s : State) (x : Ctx) (e : CmdEntry) : State × CmdEntry :=
  let w := e.w
  let b := cbits w 105 105
  let src := osAddr x.c + 16 * cbits w 81 65
  let stride := 16 * cbits w 64 57
  if s.maskBad x w then (s, { e with st := St.integrity, done := true })
  else if s.passEmpty x w then (s, { e with done := true })
  else
    let r0 := (s.tcOf x.c).record b
    let s := if r0.valid ∧ r0.owner = x.l then s else s.reload x b
    let mode := match passMode ((s.tcOf x.c).record b) (cbits w 104 101) e.att.aOn with
      | some (_, md) => md
      | none => .int
    let q : PassSpec :=
      ⟨mode, cbits w 104 101, cbits w 100 93 + 1, cbits w 92 85, cbits w 84 84 == 0, cbits w 83 83 == 1, e.att.aSc e.att.koff⟩
    if s.passBad x b q (s.passMask x w) fun i => src + i * stride then (s, { e with st := St.integrity, done := true })
    else
      let (s', ev) := s.runPass x b q (s.passMask x w) fun i => src + i * stride
      s.settle x e (s', { e with done := true }) ev

/-! ### DRAIN (R74, R103) -/

/-- The checks of a DRAIN. -/
def State.drainChecks (s : State) (x : Ctx) (w : CmdWord) : List (Bool × Nat) :=
  s.baseChecks x w ++
    [resv w 87 0, (decide ((s.accRows x.l x.c).2 < cbits w 105 98 + cbits w 97 90 + 1), St.bounds),
     (decide ((s.tbRows x.l x.c).2 < cbits w 105 98 + cbits w 97 90 + 1), St.bounds)]

/-! ### TILE (R80 to R87, R104 to R106, R187) -/

/-- A TILE's fields, from its word and its descriptor. -/
structure TileSpec where
  m : Nat
  n : Nat
  k : Nat
  fa : Nat
  fb : Nat
  as_ : Bool
  drain : Bool
  masked : Bool
  buf : Nat
  aAddr : Nat
  aStride : Nat
  bAddr : Nat
  bStride : Nat
  maskAddr : Nat
deriving DecidableEq, Repr

/-- Read a TILE's fields. -/
def TileSpec.ofWord (w : CmdWord) (d : Nat) : TileSpec :=
  ⟨cbits w 105 90 + 1, cbits w 89 76 + 1, cbits w 75 60 + 1, cbits w 59 56, cbits w 55 52, cbits w 51 51 == 1,
    cbits w 50 50 == 1, cbits w 49 49 == 1, cbits w 48 47, dfield d 0 4, dfield d 4 4, dfield d 8 4, dfield d 12 4,
    dfield d 16 4⟩

/-- Lane and stream sizes (R81). -/
def TileSpec.lane (q : TileSpec) : Nat := if q.as_ then q.m else q.n
def TileSpec.stream (q : TileSpec) : Nat := if q.as_ then q.n else q.m

/-- Balanced blocks of R81: start and size of block i of B over S. -/
def balanced (S B i : Nat) : Nat × Nat :=
  let lo := S / B
  let r := S % B
  (i * lo + min i r, lo + (if i < r then 1 else 0))

/-- The fold of a TILE (R81): depth, mode, rows of accumulator in stream units, lane, reduction and stream blocks. -/
structure Fold where
  depth : Nat
  mode : Mode
  cap : Nat
  lb : Nat
  kb : Nat
  sb : Nat
deriving DecidableEq, Repr

/-- The fold on a core with racc accumulator rows. -/
def TileSpec.fold (q : TileSpec) (racc : Nat) (scaled : Bool) : Option Fold :=
  match pairing q.fa q.fb with
  | none => none
  | some (d, m) =>
    let mode := if scaled && m == .int then .float else m
    let cap := if mode = .cplx then racc / 2 else racc
    some ⟨d, mode, cap, cdiv q.lane 128, cdiv q.k d, cdiv q.stream cap⟩

/-- The checks of a TILE's descriptor and sizes (R84, R105, R184). -/
def State.tileChecks (s : State) (x : Ctx) (w : CmdWord) (d : Nat) (att : Attach) : List (Bool × Nat) :=
  let q := TileSpec.ofWord w d
  let descOk := s.osOk x.l x.c (64 * cbits w 46 32) 64
  let base := s.baseChecks x w ++ [resv w 31 0, (!isEngine q.fa || !isEngine q.fb, St.format), (!descOk, St.bounds)]
  if !descOk then base ++ [((pairing q.fa q.fb).isNone, St.format), (q.masked && q.as_, St.format)]
  else
    let ra := elemBytes q.fa q.k
    let rb := elemBytes q.fb q.k
    let aSc := att.aSc 0
    let bSc := att.bSc 0
    let racc := (s.accRows x.l x.c).2
    base ++
      [(dfield d 0x14 44 != 0, St.format),
       ((pairing q.fa q.fb).isNone, St.format),
       (q.masked && q.as_, St.format),
       (isCplx q.fa && (att.aOn || att.bOn), St.format),
       (q.aAddr % 16 != 0 || decide (2097152 ≤ q.aAddr) || q.bAddr % 16 != 0 || decide (2097152 ≤ q.bAddr), St.bounds),
       (q.aStride % 16 != 0 || decide (q.aStride < ra) || q.bStride % 16 != 0 || decide (q.bStride < rb), St.bounds),
       (!s.osRows x.l x.c q.aAddr q.aStride ra q.m, St.bounds),
       (!s.osRows x.l x.c q.bAddr q.bStride rb q.n, St.bounds),
       (q.masked && (q.maskAddr % 64 != 0 || !s.osOk x.l x.c q.maskAddr (cdiv q.m 8)), St.bounds),
       (!s.scalesOk x aSc q.m q.k, St.bounds),
       (!s.scalesOk x bSc q.n q.k, St.bounds),
       (decide (0 < att.p) && !(s.osRows x.l x.c att.aSide att.aSideStride (2 * att.p) q.m &&
          s.osRows x.l x.c att.bSide att.bSideStride (2 * att.p) q.n), St.bounds),
       (match q.fold racc (att.aOn || att.bOn) with
        | some f => !q.drain && decide (1 < f.lb * f.sb)
        | none => false, St.bounds)]

/-- Accumulator base of output block i (R82): alternating halves when the largest block leaves room, else 0. -/
def Fold.base (f : Fold) (S i : Nat) : Nat :=
  let biggest := (balanced S f.sb 0).2
  if f.cap / 2 < biggest then 0 else if i % 2 = 0 then 0 else f.cap / 2

/-- A load and the pass that streams against it: a pass group (R86). `ld` gives the load's format, depth, record addresses,
scales and first scale row; none when a word it reads is uncorrectable. -/
def State.passGroup (s : State) (x : Ctx) (b fl ln kp : Nat) (at_ : Nat → Nat) (sc : Option Scales) (row0 : Nat)
    (q : PassSpec) (mask : Nat → Bool) (vec : Nat → Nat) : Option (State × Nat) :=
  if s.badRows ln at_ (elemBytes fl kp) (fun _ => true) || s.badScales x.c sc row0 ln kp fun _ => true then none
  else
    let s := s.load x b fl ln kp at_ sc row0
    if s.passBad x b q mask vec then none else some (s.runPass x b q mask vec)

/-- Side load and side pass of chunk j (R187). -/
def State.sideStep (s : State) (x : Ctx) (lAddr lStride ln sAddr sStride sn base p j b : Nat) (mask : Nat → Bool) :
    Option (State × Nat) :=
  s.passGroup x b 6 ln (min 16 (p - 16 * j)) (fun i => lAddr + i * lStride + 32 * j) none 0
    ⟨.float, 6, sn, base, false, false, none⟩ mask fun i => sAddr + i * sStride + 32 * j

/-- Loads of one output block of a TILE (R82, R187). -/
def Fold.loads (f : Fold) (att : Attach) : Nat := f.kb + cdiv att.p 16

/-- The record that load r of output block i of a TILE leaves (R61, R82, R187). -/
def TileSpec.loadOf (q : TileSpec) (x : Ctx) (f : Fold) (att : Attach) (i r : Nat) : BankRec :=
  let ln := min 128 (q.lane - 128 * (i % f.lb))
  if r < f.kb then
    loadRec x (if q.as_ then q.fa else q.fb) ln (min f.depth (q.k - r * f.depth))
      (if q.as_ then att.aSc (r * f.depth) else att.bSc (r * f.depth))
  else loadRec x 6 ln (min 16 (att.p - 16 * (r - f.kb))) none

/-- Pass group number t of a TILE, counted over its output blocks (R82, R86, R187): the load and pass of a reduction block, or
of a side chunk. None when a word it reads is uncorrectable. -/
def State.tileGroup (s : State) (x : Ctx) (q : TileSpec) (f : Fold) (att : Attach) (b0 t : Nat) : Option (State × Nat) :=
  let i := t / f.loads att
  let j := t % f.loads att
  let (s0, sn) := balanced q.stream f.sb (i / f.lb)
  let l0 := 128 * (i % f.lb)
  let ln := min 128 (q.lane - l0)
  let base := f.base q.stream i
  let b := (b0 + t) % 2
  let mask (r : Nat) : Bool := !q.masked || s.maskBit (osAddr x.c + q.maskAddr) (s0 + r)
  if q.masked && s.poisoned (osAddr x.c + q.maskAddr) (cdiv q.m 8) then none
  else if j < f.kb then
    let k0 := j * f.depth
    let (fl, la, ls) := if q.as_ then (q.fa, q.aAddr, q.aStride) else (q.fb, q.bAddr, q.bStride)
    let (fs, sa, ss) := if q.as_ then (q.fb, q.bAddr, q.bStride) else (q.fa, q.aAddr, q.aStride)
    let lSc := if q.as_ then att.aSc k0 else att.bSc k0
    let sSc := (if q.as_ then att.bSc k0 else att.aSc k0).map fun z => { z with addr := z.addr + s0 * z.stride }
    s.passGroup x b fl ln (min f.depth (q.k - k0)) (fun n => osAddr x.c + la + (l0 + n) * ls + elemBytes fl k0) lSc l0
      ⟨f.mode, fs, sn, base, j == 0, false, sSc⟩ mask fun r => osAddr x.c + sa + (s0 + r) * ss + elemBytes fs k0
  else
    let (la, ls) := if q.as_ then (att.aSide, att.aSideStride) else (att.bSide, att.bSideStride)
    let (sa, ss) := if q.as_ then (att.bSide, att.bSideStride) else (att.aSide, att.aSideStride)
    s.sideStep x (osAddr x.c + la + l0 * ls) ls ln (osAddr x.c + sa + s0 * ss) ss sn base att.p (j - f.kb) b mask

/-- The drain of output block i of a TILE into its buffer (R83). -/
def State.tileDrain (s : State) (x : Ctx) (q : TileSpec) (f : Fold) (i : Nat) : State × Nat × Nat :=
  let (s0, sn) := balanced q.stream f.sb (i / f.lb)
  let ln := min 128 (q.lane - 128 * (i % f.lb))
  let base := f.base q.stream i
  let rows := if f.mode = .cplx then 2 * sn else sn
  let base := if f.mode = .cplx then 2 * base else base
  s.drainRows x ((q.buf + i) % 4) rows ln true q.as_ (fun r => base + r) (fun r => r)
    (fun r => !q.masked || s.maskBit (osAddr x.c + q.maskAddr) (s0 + (if f.mode = .cplx then r / 2 else r)))

/-! ### Drains and rows still to be read (R69, R71, R74) -/

/-- Fold of an entry that is a TILE. -/
def State.foldOf (s : State) (x : Ctx) (e : CmdEntry) : Option Fold :=
  if cOp e.w = 0x21 then (TileSpec.ofWord e.w e.desc).fold (s.accRows x.l x.c).2 (e.att.aOn || e.att.bOn) else none

/-- Accumulator rows of output block i of a TILE, from the lodging's first row on. -/
def Fold.rowsOf (f : Fold) (q : TileSpec) (i : Nat) : Nat × Nat :=
  let b := f.base q.stream i
  let n := (balanced q.stream f.sb (i / f.lb)).2
  if f.mode = .cplx then (2 * b, 2 * (b + n)) else (b, b + n)

/-- Row ranges that drains of an entry have still to read: a DRAIN the engine has taken, the output blocks of a TILE whose
passes have run. -/
def State.unread (s : State) (x : Ctx) (e : CmdEntry) : List (Nat × Nat) :=
  if e.done || !e.begun then []
  else if cOp e.w = 0x23 then (if e.passed then [] else [(cbits e.w 105 98, cbits e.w 105 98 + cbits e.w 97 90 + 1)])
  else match s.foldOf x e with
    | some f =>
      let q := TileSpec.ofWord e.w e.desc
      let lo := e.prog + (if e.passed then 1 else 0)
      let hi := e.grp / f.loads e.att
      if q.drain then (List.range (hi - lo)).map fun i => f.rowsOf q (lo + i) else []
    | none => []

/-- Commands in flight of both slots of the partition, but for one. -/
def State.others (s : State) (x : Ctx) (seq : Nat) : List CmdEntry :=
  ((s.slotOf x.c x.p x.sl).inflight.filter fun f => f.seq != seq) ++ (s.slotOf x.c x.p x.sl.other).inflight

/-- Row ranges that drains other than the entry's have still to read. -/
def State.unreadBut (s : State) (x : Ctx) (seq : Nat) : List (Nat × Nat) := (s.others x seq).flatMap fun f => s.unread x f

/-- Two row ranges meet. -/
def meets (a b : Nat × Nat) : Bool := decide (a.1 < b.2) && decide (b.1 < a.2)

/-- A drain of the entry may read now: no drain issued before it has rows to read, for drains run in issue order (R74). -/
def State.drainTurn (s : State) (x : Ctx) (e : CmdEntry) : Bool :=
  !((s.others x e.seq).any fun f => decide (f.stamp < e.stamp) && s.unread x f != [])

/-- A drain ends: its buffer becomes HELD, its finished-tile entry is pushed (R133, R135), and a drain that waits for the
buffer now sets TB_WAIT. -/
def State.drainEnds (s : State) (x : Ctx) (e : CmdEntry) (buf : Nat) : State :=
  let s := s.setTc x.c fun t => (t.setBufState x.p buf 2).pushEntry x.p e.ent
  let waits (f : CmdEntry) : Bool := !f.warned && f.wantsBuf (match s.foldOf x f with
    | some g => g.loads f.att
    | none => 1) (TileSpec.ofWord f.w f.desc).drain == some buf
  let warn (sl : Slot) (s : State) : State :=
    let ws := (s.slotOf x.c x.p sl).inflight.filter fun f => (sl != x.sl || f.seq != e.seq) && waits f
    ws.foldl (fun (s : State) f => (s.setSlot x.c x.p sl fun t =>
      { t with inflight := t.inflight.map fun g => if g.seq = f.seq then { g with warned := true } else g }).tbWait
        { x with sl := sl }) s
  warn .b (warn .a s)

/-- A DRAIN: it begins into a FREE buffer, else it waits; it ends when its rows are written (R74, R133). -/
def State.drainEff (s : State) (x : Ctx) (e : CmdEntry) : State × CmdEntry :=
  let a := cbits e.w 105 98
  let r := cbits e.w 97 90 + 1
  let buf := cbits e.w 89 88
  if e.passed then (s.drainEnds x e buf, { e with passed := false, done := true })
  else if (s.tcOf x.c).bufState x.p buf = 0 ∧ s.drainTurn x e then
    let (s', ev, ent) := s.drainRows x buf r 128 false false (fun i => a + i) (fun i => a + i) (fun _ => true)
    s.settle x e (s', { e with passed := true, ent := ent, warned := false }) ev
  else s.drainWaits x buf e

/-- Run a TILE: a drain that may read begins; else the next pass group runs unless it would write a row that a drain has
still to read (R71, R74); `fuel` bounds the drains and groups. -/
def State.tileRun (s : State) (x : Ctx) (q : TileSpec) (f : Fold) : Nat → CmdEntry → State × CmdEntry
  | 0, e => (s, e)
  | fuel + 1, e =>
    let per := f.loads e.att
    let n := f.lb * f.sb
    let due := q.drain && decide (per * (e.prog + 1) ≤ e.grp) && !e.passed
    let buf := (q.buf + e.prog) % 4
    if e.fault ≠ 0 then (s, e)
    else if due && decide ((s.tcOf x.c).bufState x.p buf = 0) && s.drainTurn x e then
      let (s', ev, ent) := s.tileDrain x q f e.prog
      let (s, e) := s.settle x e (s', { e with passed := true, ent := ent, warned := false }) ev
      State.tileRun s x q f fuel e
    else if e.grp < n * per ∧
        !((s.unreadBut x e.seq ++ s.unread x e).any fun d => meets d (f.rowsOf q (e.grp / per))) then
      match s.tileGroup x q f e.att e.bank e.grp with
      | none => (s, { e with st := St.integrity, done := true })
      | some (s', ev) =>
        let (s, e) := s.settle x e (s', { e with grp := e.grp + 1, done := !q.drain && e.grp + 1 == n * per }) ev
        State.tileRun s x q f fuel e
    else if due then s.drainWaits x buf e else (s, e)

/-- The work of a TILE: a drain in progress ends; then pass groups and drains as far as they go, one pass group at a time on
a pooled core, the last of an output block with its drain (R86, R123). -/
def State.tileEff (s : State) (x : Ctx) (e : CmdEntry) : State × CmdEntry :=
  let q := TileSpec.ofWord e.w e.desc
  match s.foldOf x e with
  | none => (s, { e with done := true })
  | some f =>
    let per := f.loads e.att
    let n := f.lb * f.sb
    let (s, e) := if e.passed then
        (s.drainEnds x e ((q.buf + e.prog) % 4), { e with passed := false, prog := e.prog + 1, warned := false })
      else (s, e)
    if q.drain && decide (n ≤ e.prog) then (s, { e with done := true })
    else s.tileRun x q f (if s.pooled x.c then (if (e.grp + 1) % per = 0 then 2 else 1) else 2 * n * per + 1) e

/-! ### OSIDE (R188) -/

/-- The checks of an OSIDE. -/
def State.osideChecks (s : State) (x : Ctx) (w : CmdWord) (d : Nat) : List (Bool × Nat) :=
  let ctl := dfield d 0x10 4
  let p := nbits ctl 6 0
  let n := nbits ctl 13 7 + 1
  let m := nbits ctl 21 14 + 1
  let base := nbits ctl 29 22
  let descOk := s.osOk x.l x.c (64 * cbits w 105 91) 64
  s.baseChecks x w ++
    [resv w 43 0, (cbits w 90 87 != 6 || cbits w 86 83 != 0 || cbits w 82 78 != 0 || cbits w 77 76 != 0 ||
        cbits w 75 44 != 0, St.format), (!descOk, St.bounds)] ++
    (if !descOk then []
     else
       [(nbits ctl 31 30 != 0 || dfield d 0x14 44 != 0, St.format),
        (p == 0 || decide (64 < p), St.bounds),
        (decide ((s.accRows x.l x.c).2 < base + m), St.bounds),
        (dfield d 4 4 % 16 != 0 || decide (dfield d 4 4 < 2 * p) || dfield d 12 4 % 16 != 0 ||
          decide (dfield d 12 4 < 2 * p), St.bounds),
        (!s.osRows x.l x.c (dfield d 0 4) (dfield d 4 4) (2 * p) n, St.bounds),
        (!s.osRows x.l x.c (dfield d 8 4) (dfield d 12 4) (2 * p) m, St.bounds)])

/-- Side chunks j, j + 1, … of an OSIDE. None when a word is uncorrectable. -/
def State.osideRun (s : State) (x : Ctx) (d : Nat) : Nat → Nat → Option (State × Nat)
  | 0, _ => some (s, 0)
  | n + 1, j =>
    let ctl := dfield d 0x10 4
    match s.sideStep x (osAddr x.c + dfield d 0 4) (dfield d 4 4) (nbits ctl 13 7 + 1) (osAddr x.c + dfield d 8 4)
        (dfield d 12 4) (nbits ctl 21 14 + 1) (nbits ctl 29 22) (nbits ctl 6 0) j (j % 2) (fun _ => true) with
    | none => none
    | some (s', ev) =>
      match State.osideRun s' x d n (j + 1) with
      | none => none
      | some (s'', ev') => some (s'', ev ||| ev')

/-- The side passes of an OSIDE: chunk j loads into bank j mod 2 and streams with ACC = 1 at BASE. -/
def State.osideEff (s : State) (x : Ctx) (e : CmdEntry) : State × CmdEntry :=
  match s.osideRun x e.desc (cdiv (nbits (dfield e.desc 0x10 4) 6 0) 16) 0 with
  | none => (s, { e with st := St.integrity, done := true })
  | some (s', ev) => s.settle x e (s', { e with done := true }) ev

/-! ### Issue records (R61, R82) -/

/-- The last two of n loads, load t of which goes into bank (b0 + t) mod 2 and leaves the record `r t`. -/
def State.issLoads (s : State) (c b0 n : Nat) (r : Nat → BankRec) : State :=
  let s := if 2 ≤ n then s.setIss c ((b0 + n - 2) % 2) (r (n - 2)) else s
  if 1 ≤ n then s.setIss c ((b0 + n - 1) % 2) (r (n - 1)) else s

/-- A command that loads or passes is issued: the issue records of its loads, and the bank of the slot's next macro
load (R61, R82). Depth, lane count and last bank of an ATT's loads are free (R246; log 4). -/
def State.noteLoads (s : State) (x : Ctx) (e : CmdEntry) : State :=
  let w := e.w
  let op := cOp w
  let next (s : State) (b : Nat) : State := s.setSlot x.c x.p x.sl fun t => { t with nextBank := b }
  if op = 0x20 then next s (1 - cbits w 105 105)
  else if op = 0x22 then
    s.setIss x.c (cbits w 105 105)
      (loadRec x (cbits w 104 101) (cbits w 100 94 + 1) (cbits w 93 87 + 1) (e.att.bSc e.att.koff))
  else if op = 0x21 then
    let q := TileSpec.ofWord w e.desc
    match q.fold (s.accRows x.l x.c).2 (e.att.aOn || e.att.bOn) with
    | none => s
    | some f =>
      let per := f.loads e.att
      let n := f.lb * f.sb * per
      next (s.issLoads x.c e.bank n fun t => q.loadOf x f e.att (t / per) (t % per)) ((e.bank + n) % 2)
  else if op = 0x63 then
    let ctl := dfield e.desc 0x10 4
    let n := cdiv (nbits ctl 6 0) 16
    next (s.issLoads x.c 0 n fun t => loadRec x 6 (nbits ctl 13 7 + 1) (min 16 (nbits ctl 6 0 - 16 * t)) none) (n % 2)
  else if op = 0x70 then
    let r (i : Nat) : BankRec :=
      loadRec x (cbits w 90 87) (Config.fresh (s.free + i) % 128 + 1) (Config.fresh (s.free + i + 1) % 16 + 1) none
    let s := next ((s.setIss x.c 0 (r 0)).setIss x.c 1 (r 2)) (Config.fresh (s.free + 4) % 2)
    { s with free := s.free + 5 }
  else s

/-! ### Order on the engine (R69, R71, R74, R95, R120) -/

/-- The opcodes of the matrix engine. -/
def engineOps : List Nat := [0x20, 0x21, 0x22, 0x23, 0x63, 0x70]

/-- A TILE has pass groups to run. -/
def State.passesLeft (s : State) (x : Ctx) (e : CmdEntry) : Bool :=
  match s.foldOf x e with
  | some f => decide (e.grp < f.lb * f.sb * f.loads e.att)
  | none => false

/-- An earlier engine command keeps a later one of its slot from beginning: it has not begun, or has loads or passes to
come; a drain that waits keeps nothing (R74, R95). -/
def State.keepsBehind (s : State) (x : Ctx) (e : CmdEntry) : Bool :=
  !e.done && (!e.begun || (cOp e.w != 0x23 && (cOp e.w != 0x21 || s.passesLeft x e || e.fault != 0)))

/-- An earlier engine command of the slot keeps the command back (R95). -/
def State.engineBehind (s : State) (x : Ctx) (seq : Nat) : Bool :=
  (s.slotOf x.c x.p x.sl).inflight.any fun e =>
    decide (e.seq < seq) && engineOps.contains (cOp e.w) && s.keepsBehind x e

/-- The engine stays with the other slot (R120, R188): inside a TILE until its last PASS is issued, inside an OSIDE or a command
under recovery, and between an LDS and that slot's next command when it is an issued PASS on the LDS's bank. -/
def State.otherKeeps (s : State) (x : Ctx) : Bool :=
  let y : Ctx := { x with sl := x.sl.other }
  let es := (s.slotOf x.c x.p y.sl).inflight
  (es.any fun f => engineOps.contains (cOp f.w) && f.begun && !f.done &&
    (f.fault != 0 || cOp f.w == 0x63 || s.passesLeft y f)) ||
  (match (s.tcOf x.c).hold with
   | some h => h.p == x.p && h.sl == y.sl &&
      es.any fun f => f.seq == h.seq && cOp f.w == 0x20 && cbits f.w 105 105 == h.bank && !f.begun
   | none => false)

/-- Accumulator rows a PASS writes. -/
def State.passRows (s : State) (x : Ctx) (e : CmdEntry) : Nat × Nat :=
  let m := cbits e.w 100 93 + 1
  let b := cbits e.w 92 85
  match s.passRecord x (cbits e.w 105 105) with
  | some r => match passMode r (cbits e.w 104 101) e.att.aOn with
    | some (_, .cplx) => (2 * b, 2 * (b + m))
    | _ => (b, b + m)
  | none => (b, b + m)

/-- Rows the command writes first on the engine; none for a load or a drain. -/
def State.writesRows (s : State) (x : Ctx) (e : CmdEntry) : Option (Nat × Nat) :=
  match cOp e.w with
  | 0x20 => some (s.passRows x e)
  | 0x21 => (s.foldOf x e).map fun f => f.rowsOf (TileSpec.ofWord e.w e.desc) 0
  | 0x63 =>
    let ctl := dfield e.desc 0x10 4
    some (nbits ctl 29 22, nbits ctl 29 22 + nbits ctl 21 14 + 1)
  | 0x70 => some (0, (s.accRows x.l x.c).2)
  | _ => none

/-- An engine command may begin now (R71, R74, R95, R120). -/
def State.engineReady (s : State) (x : Ctx) (e : CmdEntry) : Bool :=
  !s.engineBehind x e.seq && !s.otherKeeps x &&
    (match s.writesRows x e with
     | some r => !((s.unreadBut x e.seq).any fun d => meets d r)
     | none => true)

end Sys2Proof.Machine
end

