-- ==== Sys2Proof/Machine/Operands.lean ====
section
/-! DEFINITION. Operand forms of the tile-buffer and descriptor commands (R107 to R110, R139, R147): their fields,
elements of tile-buffer rows, how an element is taken and written. -/
namespace Sys2Proof.Machine
open Sys2Proof

/-! ### T-form fields (R107) -/

def tFA (w : CmdWord) : Nat := cbits w 105 102
def tFD (w : CmdWord) : Nat := cbits w 101 98
def tTA (w : CmdWord) : Nat := cbits w 97 96
def tTB (w : CmdWord) : Nat := cbits w 95 94
def tTD (w : CmdWord) : Nat := cbits w 93 92
def tBimm (w : CmdWord) : Bool := cbits w 91 91 == 1
def tRow0 (w : CmdWord) : Nat := cbits w 90 83
def tRows (w : CmdWord) : Nat := cbits w 82 75 + 1
def tCol0 (w : CmdWord) : Nat := cbits w 74 68
def tCols (w : CmdWord) : Nat := cbits w 67 61 + 1
def tFunc (w : CmdWord) : Nat := cbits w 60 56
def tImm (w : CmdWord) : Nat := cbits w 55 24

/-! ### D-form fields (R109) -/

def dDesc (w : CmdWord) : Nat := 64 * cbits w 105 91
def dFA (w : CmdWord) : Nat := cbits w 90 87
def dFD (w : CmdWord) : Nat := cbits w 86 83
def dFunc (w : CmdWord) : Nat := cbits w 82 78
def dTbuf (w : CmdWord) : Nat := cbits w 77 76
def dImm (w : CmdWord) : Nat := cbits w 75 44

/-- The unit a command runs on: 1 matrix engine, 2 vector engine, 3 reduction unit, 4 special-function unit, 5 page
manager (R93, R148). -/
def unitOf (w : CmdWord) : Nat :=
  let op := cOp w
  if op = 0x20 ∨ op = 0x21 ∨ op = 0x22 ∨ op = 0x23 ∨ op = 0x63 ∨ op = 0x70 then 1
  else if (0x40 ≤ op ∧ op ≤ 0x43) then 3
  else if op = 0x50 ∨ op = 0x51 ∨ op = 0x52 then 4
  else if op = 0x72 ∨ (op = 0x71 ∧ dFunc w ≠ 4) then 5
  else 2

/-- Elements of one format in a 32-bit column (R130); 0 for the formats a tile buffer does not hold. -/
def perCol (f : Nat) : Nat := if isNibble f then 0 else if fmtBits f = 0 then 0 else 32 / fmtBits f

/-- Element e of the row from a column on (R130). -/
def Tc.el (t : Tc) (buf row col0 f e : Nat) : Nat :=
  let p := perCol f
  ((t.tb buf row (col0 + e / p)).toNat / 2 ^ (e % p * fmtBits f)) % 2 ^ fmtBits f

/-- Write element e of the row from a column on. -/
def Tc.setEl (t : Tc) (buf row col0 f e v : Nat) : Tc :=
  let p := perCol f
  let col := col0 + e / p
  let sh := e % p * fmtBits f
  let old := (t.tb buf row col).toNat
  let cur := old / 2 ^ sh % 2 ^ fmtBits f
  t.setTb buf row col (BitVec.ofNat 32 (old - cur * 2 ^ sh + v % 2 ^ fmtBits f * 2 ^ sh))

/-- Write a list of elements from index e on. -/
def Tc.setEls (t : Tc) (buf row col0 f : Nat) : Nat → List Nat → Tc
  | _, [] => t
  | e, v :: vs => Tc.setEls (t.setEl buf row col0 f e v) buf row col0 f (e + 1) vs

/-- Buffers taken as working state: popped from the finished-tile queue (R134), and HELD when written while FREE
(R133). -/
def Tc.useBufs (t : Tc) (p : Nat) (named written : List Nat) : Tc :=
  let t := named.foldl (fun (t : Tc) b => t.popEntry p b) t
  written.foldl (fun (t : Tc) b => if t.bufState p b = 0 then t.setBufState p b 2 else t) t

/-- Checks of every T-form command (R110, R131, R147): ranges, reserved bits. -/
def State.tRange (s : State) (x : Ctx) (w : CmdWord) : List (Bool × Nat) :=
  s.baseChecks x w ++
    [resv w 23 0, (decide (256 < tRow0 w + tRows w), St.bounds), (decide (128 < tCol0 w + tCols w), St.bounds),
     (decide ((s.tbRows x.l x.c).2 < tRow0 w + tRows w), St.bounds)]

/-- A format a tile-buffer command may not name (R147). -/
def badT (f : Nat) : Bool := isNibble f || isReservedFmt f

/-- Source and destination mix a complex and a real format (R147). -/
def mixed (a b : Nat) : Bool := isCplx a != isCplx b

/-- Destination columns of n elements (R140). -/
def destCols (f n : Nat) : Nat := cdiv n (perCol f)

/-- Source elements per row of a T-form command (R140). -/
def tN (w : CmdWord) : Nat := tCols w * perCol (tFA w)

/-- The destination range check of R140. -/
def tDest (w : CmdWord) (n : Nat) : Bool × Nat := (decide (128 < tCol0 w + destCols (tFD w) n), St.bounds)

/-! ### One element (R139) -/

/-- Parts of an element: one for a real format, real and imaginary for a complex one (R31). -/
def parts (f x : Nat) : List Nat :=
  if isCplx f then [x % 2 ^ (fmtBits f / 2), x / 2 ^ (fmtBits f / 2)] else [x]

/-- Join parts of an element. -/
def joinParts (f : Nat) : List Nat → Nat
  | [a] => a
  | [a, b] => a % 2 ^ (fmtBits f / 2) + b % 2 ^ (fmtBits f / 2) * 2 ^ (fmtBits f / 2)
  | _ => 0

/-- An integer operation on exact operands, converted to FD (R139 step 2, R46). -/
def intStep (fd : Nat) (v : Int) : Nat × Nat := toIntFmt fd (FV.ofInt v)

/-- A float result: rounded once to FP32, then converted to FD (R139 steps 2 and 3). -/
def floatStep (fd : Nat) (v : FV × Nat) : Nat × Nat :=
  let (r, e1) := round32 v.1
  let (d, e2) := convTo fd (f32 r)
  (d, v.2 ||| e1 ||| e2)

/-- Greater of two values, NaN over all, +0 over −0 (R141). -/
def FV.fmax (a b : FV) : FV :=
  if a.isNaN || b.isNaN then .nan
  else if a.lt b then b else if b.lt a then a else if a.isNeg then b else a
/-- Lesser of two values, NaN over all, −0 under +0 (R141). -/
def FV.fmin (a b : FV) : FV :=
  if a.isNaN || b.isNaN then .nan
  else if a.lt b then a else if b.lt a then b else if a.isNeg then a else b

/-- Bitwise operation on integer values, at 64 bits (R139, R141). -/
def intBits (f : Nat → Nat → Nat) (a b : Int) : Int := sext 64 (f (wrapN 64 a) (wrapN 64 b))

/-- One part of a binary operation of VBIN (R141): the operation number, formats of source and destination parts. -/
def binPart (op fa fd a b : Nat) : Nat × Nat :=
  if isInt fa && isInt fd then
    let x := decInt fa a
    let y := decInt fa b
    intStep fd (match op with
      | 0 => x + y
      | 1 => x - y
      | 2 => x * y
      | 3 => max x y
      | 4 => min x y
      | 5 => intBits Nat.land x y
      | 6 => intBits Nat.lor x y
      | _ => if y < x then 1 else 0)
  else
    let (x, e1) := decIn fa a
    let (y, e2) := decIn fa b
    let r : FV × Nat := match op with
      | 0 => FV.add x y
      | 1 => FV.add x y.neg
      | 2 => FV.mul x y
      | 3 => (FV.fmax x y, 0)
      | 4 => (FV.fmin x y, 0)
      | 5 => (FV.ofInt (intBits Nat.land (decInt fa a) (decInt fa b)), 0)
      | 6 => (FV.ofInt (intBits Nat.lor (decInt fa a) (decInt fa b)), 0)
      | _ => (if y.lt x then FV.ofInt 1 else FV.zero, 0)
    let (d, e3) := floatStep fd r
    (d, e1 ||| e2 ||| e3)

/-- The fused operation of VFMA (R142), one rounding. -/
def fmaPart (op fa fd a b d : Nat) : Nat × Nat :=
  if isInt fa && isInt fd then
    let p := decInt fa a * decInt fa b
    let q := decInt fd d
    intStep fd (if op = 0 then p + q else if op = 1 then p - q else q - p)
  else
    let (x, e1) := decIn fa a
    let (y, e2) := decIn fa b
    let (z, e3) := decIn fd d
    let (p, e4) := FV.mul x y
    let (r, e5) := FV.add (if op = 2 then p.neg else p) (if op = 1 then z.neg else z)
    let (o, e6) := floatStep fd (r, if x.isNaN || y.isNaN || z.isNaN then 0 else e4 ||| e5)
    (o, e1 ||| e2 ||| e3 ||| e6)

/-- One part of VUN MOV, NEG and ABS, and the copied part of CONJ (R143). NEG of an integer is the integer −A also where FD is a
float format, so that 0 gives +0 (DESIGN CHOICE; log 86). -/
def unPart (op fa fd a : Nat) : Nat × Nat :=
  if isInt fa && isInt fd then
    let x := decInt fa a
    intStep fd (if op = 1 then -x else if op = 2 then (x.natAbs : Int) else x)
  else
    let (x, e1) := decIn fa a
    let y := if op = 1 then (if isInt fa then FV.ofInt (-decInt fa a) else x.neg) else if op = 2 then (if x.isNeg then x.neg else x) else x
    let (o, e2) := floatStep fd (y, 0)
    (o, e1 ||| e2)

/-- One part of VCVT (R144): scaled exactly by 2^k, converted with one rounding. -/
def cvtPart (fa fd : Nat) (k : Int) (a : Nat) : Nat × Nat :=
  let (x, e1) := decIn fa a
  let (o, e2) := convTo fd (x.scale2 k)
  (o, e1 ||| e2)

/-- Part by part over an element. -/
def overParts (fa fd : Nat) (f : Nat → Nat → Nat × Nat) (a : Nat) : Nat × Nat :=
  let rs := (parts fa a).zipIdx.map fun (v, i) => f i v
  (joinParts fd (rs.map Prod.fst), rs.foldl (fun e r => e ||| r.2) 0)

/-- Values with their events gathered. -/
def gather (rs : List (Nat × Nat)) : List Nat × Nat := (rs.map Prod.fst, rs.foldl (fun e r => e ||| r.2) 0)

end Sys2Proof.Machine
end

