-- ==== Sys2Proof/Machine/Table.lean ====
section
/-! DEFINITION. Table-driven functions (R153 to R158): argument reduction, the segment polynomial, the functions, and the
fixed exponential and reciprocal of softmax (R163 to R165). -/
namespace Sys2Proof.Machine
open Sys2Proof

/-! ### Held values (R153 to R155; log 5) -/

/-- q with remainder r of den, as a held value: cut, to nearest even, or up, whichever the part does. -/
def heldAt (mode q r den : Nat) : Nat :=
  if r = 0 then q
  else match mode % 3 with
    | 0 => q
    | 1 => if 2 * r < den ∨ (2 * r = den ∧ q % 2 = 0) then q else q + 1
    | _ => q + 1

/-- The offset num/den in [0, 1) as a 24-bit fraction (R155). -/
def frac24 (num den : Nat) : FV :=
  .fin false (min (2 ^ 24 - 1) (heldAt Config.hold24 (num * 2 ^ 24 / den) (num * 2 ^ 24 % den) den)) (-24)

/-- A value held to 64 significant bits (R153, R154). -/
def carry64 (v : FV) : FV :=
  match v with
  | .fin s m e =>
    if m < 2 ^ 64 then v
    else
      let k := Nat.log2 m - 63
      .fin s (heldAt Config.hold64 (m / 2 ^ k) (m % 2 ^ k) (2 ^ k)) (e + k)
  | _ => v

/-! ### Constants of the composed functions, to 256 bits -/

/-- v · c/2^256, which decides every later rounding as the product by the irrational constant does. -/
def timesConst (c : Nat) (v : FV) : FV := (FV.mul v (.fin false c (-256))).1

def constLn2 : Nat := 80260960185991308862233904206310070533990667611589946606122867505419956976171
def constLog2e : Nat := 167052672916848388242985626561247531987276682633131050150846402744536260568207
/-- 1/√2 -/
def constHalfRoot : Nat := 81877371507464127617551201542979628307507432471243237061821853600756754782485
/-- √(2/π) -/
def constRoot2Pi : Nat := 92388720265562225100004042351473451001048276763068025688572742865826802514525

/-- ±num/den to at least 256 bits with a sticky bit below: exact when it fits. -/
def ratFV (s : Bool) (num den : Nat) : FV :=
  let k := 256 + Nat.log2 den
  .fin s (2 * (num * 2 ^ k / den) + (if num * 2 ^ k % den = 0 then 0 else 1)) (-(k : Int) - 1)

/-- Numerator and denominator of the magnitude of a finite value. -/
def fvFrac : FV → Nat × Nat
  | .fin _ m e => if 0 ≤ e then (m * 2 ^ e.toNat, 1) else (m, 2 ^ (-e).toNat)
  | _ => (0, 1)

/-- 1.702 x, the inner product of the sigmoid form of GELU (R153). -/
def times1702 (x : FV) : FV :=
  let (n, d) := fvFrac x
  ratFV x.isNeg (1702 * n) (1000 * d)

/-- √(2/π)(x + 0.044715 x³), the inner product of the tanh form of GELU (R153). -/
def geluTanhArg (x : FV) : FV :=
  let (n, d) := fvFrac x
  timesConst constRoot2Pi (ratFV x.isNeg (1000000 * n * d * d + 44715 * n * n * n) (1000000 * d * d * d))

/-- Table value P of segment i at offset t (R155). -/
def tableP (coef : Nat → Nat → FV) (mono : Bool) (nseg i : Nat) (t : FV) : FV :=
  let c0 := coef i 0
  let c1 := coef i 1
  let c2 := coef i 2
  let p := (FV.add c0 (FV.mul t (FV.add c1 (FV.mul t c2).1).1).1).1
  if !mono then p
  else
    let y := coef i 3
    let z := if i + 1 < nseg then coef (i + 1) 3 else (FV.add (FV.add c0 c1).1 c2).1
    let lo := if z.lt y then z else y
    let hi := if z.lt y then y else z
    if p.lt lo then lo else if hi.lt p then hi else p

/-- 2^x by the EXP2 table (R154). -/
def exp2By (P : Nat → FV → FV) (x : FV) : FV × Nat :=
  match x with
  | .nan => (.nan, 0)
  | .inf s => (if s then .zero else .inf false, 0)
  | .fin s m e =>
    if !(x.lt (FV.ofInt 128)) then (.inf false, Ev.fpOvf)
    else if x.lt (FV.ofInt (-150)) then (.zero, 0)
    else
      let v : Int := x.at (min e 0)
      let d : Int := 2 ^ (-(min e 0)).toNat
      let n := v / d
      let f := (v % d).toNat
      let den := d.toNat
      let i := f * 64 / den
      let _ := (s, m)
      ((P i (frac24 (f * 64 % den) den)).scale2 n, 0)

/-- log2 of a positive finite value: e + (m − 1) · P (R154). -/
def log2By (P : Nat → FV → FV) (m : Nat) (e : Int) : FV :=
  let L := Nat.log2 m
  let f := m - 2 ^ L
  let den := 2 ^ L
  let p := P (f * 64 / den) (frac24 (f * 64 % den) den)
  (FV.add (FV.ofInt (e + L)) (FV.mul (.fin false f (-(L : Int))) p).1).1

/-- Segment value of a mantissa in [1, 2) and its exponent (R154, RECIP). -/
def recipBy (P : Nat → FV → FV) (s : Bool) (m : Nat) (e : Int) : FV :=
  let L := Nat.log2 m
  let f := m - 2 ^ L
  let den := 2 ^ L
  let p := (P (f * 64 / den) (frac24 (f * 64 % den) den)).scale2 (-(e + L))
  if s then p.neg else p

/-- Table value of a mantissa in [1, 4) and half its exponent (R154, SQRT and RSQRT). -/
def sqrtBy (P : Nat → FV → FV) (m : Nat) (e : Int) : FV × Int :=
  let L := Nat.log2 m
  let f := m - 2 ^ L
  let den := 2 ^ L
  let ex := e + L
  if ex % 2 = 0 then (P (f * 32 / den) (frac24 (f * 32 % den) den), ex / 2)
  else (P (32 + f * 32 / den) (frac24 (f * 32 % den) den), ex / 2)

/-! ### The fixed exponential and reciprocal (R154, R163 to R165; log 6) -/

/-- Table value of a fixed table: MONO 1, 64 segments, Harord's coefficients, which the spec does not print. -/
def fixedP (coef : Nat → Nat → Word) : Nat → FV → FV := tableP (fun i k => f32 (coef i k).toNat) true 64

/-- e^x by the fixed exponential, before any rounding of the result: exp2(x · log₂e), the product held to 64 bits. -/
def expFixed (x : FV) : FV :=
  if x.isZero then FV.ofInt 1 else (exp2By (fixedP Config.expCoef) (carry64 (timesConst constLog2e x))).1

/-- The fixed exponential rounded to FP32: +0 at −inf (R158, R164). -/
def smxExp (v : FV) : Nat := if v = .inf true then 0 else (round32 (expFixed v)).1

/-- The fixed reciprocal rounded to FP32 (R165): 1/c of a whole number c, so that c equal elements yield 1/c each. -/
def smxRecip (sm : Nat) : Nat :=
  match f32 sm with
  | .fin false m e =>
    let (n, d) := fvFrac (.fin false m e)
    if n % d = 0 ∧ 0 < n then (round32 (ratFV false d n)).1 else (round32 (recipBy (fixedP Config.recipCoef) false m e)).1
  | v => (round32 (if v.isNaN then .nan else .zero)).1

/-- σ(x) for |x| ≥ 16, by the fixed exponential, each step carried to 64 bits (R154). -/
def sigmoidTail (x : FV) : FV :=
  let (n, d) := fvFrac x
  let e := carry64 (expFixed (ratFV true n d))
  if x.isNeg then
    let (a, b) := fvFrac e
    carry64 (ratFV false a (a + b))
  else carry64 (FV.add (FV.ofInt 1) e.neg).1

/-- σ(x) carried (R154). -/
def sigmoidBy (P : Nat → FV → FV) (x : FV) : FV :=
  match x with
  | .nan => .nan
  | .inf s => if s then .zero else FV.ofInt 1
  | .fin s m e =>
    let a : FV := .fin false m e
    if !(a.lt (FV.ofInt 16)) then sigmoidTail x
    else
      let (n, d) := fvFrac a
      let p := P (n * 4 / d) (frac24 (n * 4 % d) d)
      if s || m == 0 then p else carry64 (FV.add (FV.ofInt 1) p.neg).1

/-- x · P(|x|) with ±1 beyond a limit (R154, TANH and ERF): segments per unit num/den. -/
def oddBy (P : Nat → FV → FV) (lim num den : Nat) (x : FV) : FV :=
  match x with
  | .nan => .nan
  | .inf s => if s then FV.ofInt (-1) else FV.ofInt 1
  | .fin s m e =>
    let a : FV := .fin false m e
    if !(a.lt (FV.ofInt lim)) then (if s then FV.ofInt (-1) else FV.ofInt 1)
    else
      let (n, d) := fvFrac a
      (FV.mul x (P (n * num / (d * den)) (frac24 (n * num % (d * den)) (d * den)))).1

/-- A user function on its own grid (R154). -/
def userBy (P : Nat → FV → FV) (nseg : Nat) (lo hi x : FV) : FV :=
  match x with
  | .nan => .nan
  | _ =>
    if x.lt lo then P 0 .zero
    else if !(x.lt hi) then P (nseg - 1) (FV.ofInt 1)
    else
      let q := min x.exp (min lo.exp hi.exp)
      let a := (x.at q - lo.at q).toNat * nseg
      let b := (hi.at q - lo.at q).toNat
      P (a / b) (frac24 (a % b) b)

/-- Evaluate function fn on an exact FP32 value: the unrounded result and its events (R153, R154, R158). -/
def sfnEval (fn : Nat) (P : Nat → FV → FV) (e : DirEnt) (x : FV) : FV × Nat :=
  let one := FV.ofInt 1
  let half (v : FV) : FV := v.scale2 (-1)
  match x with
  | .nan => (.nan, 0)
  | _ =>
    match fn with
    | 0x00 => if x.isZero then (one, 0) else exp2By P x
    | 0x01 => if x.isZero then (one, 0) else match x with
      | .inf s => (if s then .zero else .inf false, 0)
      | _ => exp2By P (carry64 (timesConst constLog2e x))
    | 0x02 | 0x03 => match x with
      | .inf s => if s then (.nan, Ev.nanGen) else (.inf false, 0)
      | .fin s m ex =>
        if m = 0 then (.inf true, Ev.fpOvf) else if s then (.nan, Ev.nanGen)
        else
          let v := log2By P m ex
          (if fn = 0x02 then v else timesConst constLn2 v, 0)
      | .nan => (.nan, 0)
    | 0x04 => match x with
      | .inf s => (.fin s 0 0, 0)
      | .fin s m ex => if m = 0 then (.inf s, Ev.fpOvf) else (recipBy P s m ex, 0)
      | .nan => (.nan, 0)
    | 0x05 => match x with
      | .inf s => if s then (.nan, Ev.nanGen) else (.inf false, 0)
      | .fin s m ex =>
        if m = 0 then (x, 0) else if s then (.nan, Ev.nanGen)
        else
          let (p, k) := sqrtBy P m ex
          (p.scale2 k, 0)
      | .nan => (.nan, 0)
    | 0x06 => match x with
      | .inf s => if s then (.nan, Ev.nanGen) else (.zero, 0)
      | .fin s m ex =>
        if m = 0 then (.inf s, Ev.fpOvf) else if s then (.nan, Ev.nanGen)
        else
          let (p, k) := sqrtBy P m ex
          (p.scale2 (-k), 0)
      | .nan => (.nan, 0)
    | 0x07 => if x.isZero then (half one, 0) else (sigmoidBy P x, 0)
    | 0x08 => if x.isZero then (x, 0) else (oddBy P 10 64 10 x, 0)
    | 0x09 => if x.isZero then (x, 0) else (oddBy P 4 16 1 x, 0)
    | 0x0A | 0x0B | 0x0C | 0x0D =>
      if x.isZero then (x, 0)
      else match x with
        | .inf s => (if s then .fin true 0 0 else .inf false, 0)
        | _ =>
          match fn with
          | 0x0A => ((FV.mul (half x) (FV.add one (oddBy P 4 16 1 (timesConst constHalfRoot x))).1).1, 0)
          | 0x0B => ((FV.mul (half x) (FV.add one (oddBy P 10 64 10 (geluTanhArg x))).1).1, 0)
          | 0x0C => ((FV.mul x (sigmoidBy P (times1702 x))).1, 0)
          | _ => ((FV.mul x (sigmoidBy P x)).1, 0)
    | _ => (userBy P e.nseg (f32 e.lo.toNat) (f32 e.hi.toNat) x, 0)

/-! ### What R156 and R157 say of Harord's coefficient sets -/

/-- The FP32 result of a function. -/
def sfn32 (fn : Nat) (P : Nat → FV → FV) (e : DirEnt) (x : Word) : FV := f32 (round32 (sfnEval fn P e (f32 x.toNat)).1).1

/-- x_min of R157, for the functions that have one. -/
def splitPoint (fn : Nat) : Option FV :=
  match fn with
  | 0x0A => some (ratFV true 7518 10000)
  | 0x0B => some (ratFV true 7525 10000)
  | 0x0C => some (ratFV true 7512 10000)
  | 0x0D => some (ratFV true 12785 10000)
  | _ => none

/-- The function with table P never steps upward before its split point nor downward after it (R157). -/
def OneMinimum (fn : Nat) (P : Nat → FV → FV) (e : DirEnt) : Prop :=
  ∀ m, splitPoint fn = some m → ∀ x y : Word, (f32 x.toNat).lt (f32 y.toNat) →
    (m.lt (f32 y.toNat) = false → (sfn32 fn P e x).lt (sfn32 fn P e y) = false) ∧
    ((f32 x.toNat).lt m = false → (sfn32 fn P e y).lt (sfn32 fn P e x) = false)

/-- The function with table P never decreases (R156). -/
def NeverFalls (fn : Nat) (P : Nat → FV → FV) (e : DirEnt) : Prop :=
  ∀ x y : Word, (f32 x.toNat).lt (f32 y.toNat) → (sfn32 fn P e y).lt (sfn32 fn P e x) = false

end Sys2Proof.Machine
end

