-- ==== Sys2Proof/Machine/Vector.lean ====
section
/-! DEFINITION. The vector engine's commands (R139 to R148): VLD, VST, VBIN, VUN, VFMA, VCVT, VFREE. For each
command, its checks at decode and its effect. -/
namespace Sys2Proof.Machine
open Sys2Proof

/-- Rows `e.prog`, `e.prog` + 1, … of a command of n rows, `fuel` of them at most: each row's events are set as it is
written (R50); a row that meets an uncorrectable word ends the command with INTEGRITY, the rows before it written (R148). -/
def rowLoop (x : Ctx) (n : Nat) (row : State → Nat → Option (State × Nat)) : Nat → State → CmdEntry → State × CmdEntry
  | 0, s, e => (s, e)
  | fuel + 1, s, e =>
    match row s e.prog with
    | none => (s, { e with st := St.integrity, done := true })
    | some (s, ev) =>
      let e := { e with prog := e.prog + 1, ev := e.ev ||| ev }
      let s := s.arithFlags x ev
      if n ≤ e.prog then (s, { e with done := true }) else rowLoop x n row fuel s e

/-- The rows of a command: all that are left on a dedicated core, one at a time on a pooled core (R124). -/
def State.rows (s : State) (x : Ctx) (e : CmdEntry) (n : Nat) (row : State → Nat → Option (State × Nat)) : State × CmdEntry :=
  rowLoop x n row (if s.pooled x.c then 1 else n - e.prog) s e

/-- The buffers of a command are taken when it begins (R133, R134). -/
def State.takeBufs (s : State) (x : Ctx) (e : CmdEntry) (named written : List Nat) : State :=
  if e.prog = 0 then s.setTc x.c fun t => t.useBufs x.p named written else s

/-- Some of a row's source ranges, each a buffer, row, first column and columns, holds an uncorrectable word (R218). -/
def State.tbBad (s : State) (c : Nat) (rs : List (Nat × Nat × Nat × Nat)) : Bool :=
  s.poison != [] && rs.any fun (b, r, col, n) => s.poisoned (tbSram c b r col) (4 * n)

/-- Write elements of format f into a tile-buffer row from a column on; whole words written lose their poison (R218). -/
def State.putEls (s : State) (x : Ctx) (buf row col f : Nat) (vs : List Nat) : State :=
  (s.setTc x.c fun t => t.setEls buf row col f 0 vs).clearPoison (tbSram x.c buf row col) (vs.length * fmtBits f / 8)

/-- Write one column of a tile-buffer row. -/
def State.putCol (s : State) (x : Ctx) (buf row col v : Nat) : State :=
  (s.setTc x.c fun t => t.setTb buf row col (BitVec.ofNat 32 v)).clearPoison (tbSram x.c buf row col) 4

/-- Tile-buffer row of row i of a T-form command. -/
def State.tRow (s : State) (x : Ctx) (w : CmdWord) (i : Nat) : Nat := (s.tbRows x.l x.c).1 + tRow0 w + i

/-- Row i of a T-form command that writes elements of fd into TD, computed from the buffers as they stand (R137); `reads`
are the row's source ranges. -/
def State.elRow (s : State) (x : Ctx) (w : CmdWord) (fd : Nat) (reads : Nat → List (Nat × Nat × Nat × Nat))
    (f : Tc → Nat → List (Nat × Nat)) (i : Nat) : Option (State × Nat) :=
  let r := s.tRow x w i
  if s.tbBad x.c (reads r) then none
  else
    let (vs, ev) := gather (f (s.tcOf x.c) r)
    some (s.putEls x (tTD w) r (tCol0 w) fd vs, ev)

/-- End a command's effect with its events. -/
def CmdEntry.finished (e : CmdEntry) (ev : Nat) : CmdEntry := { e with ev := e.ev ||| ev, done := true }

/-! ### VLD and VST (R108, R110, R145) -/

def mFM (w : CmdWord) : Nat := cbits w 105 102
def mFT (w : CmdWord) : Nat := cbits w 101 98
def mBuf (w : CmdWord) : Nat := cbits w 97 96
def mRow0 (w : CmdWord) : Nat := cbits w 95 88
def mRows (w : CmdWord) : Nat := cbits w 87 80 + 1
def mCol0 (w : CmdWord) : Nat := cbits w 79 73
def mCols (w : CmdWord) : Nat := cbits w 72 66 + 1
def mAddr (w : CmdWord) : Nat := 16 * cbits w 65 49
def mStride (w : CmdWord) : Nat := 16 * cbits w 48 33
/-- Elements per row of an M-form command. -/
def mN (w : CmdWord) : Nat := mCols w * perCol (mFT w)

/-- The checks of VLD and VST. -/
def State.mChecks (s : State) (x : Ctx) (w : CmdWord) : List (Bool × Nat) :=
  let nb := elemBytes (mFM w) (mN w)
  s.baseChecks x w ++
    [resv w 32 0, (badT (mFM w) || badT (mFT w), St.format), (mixed (mFM w) (mFT w), St.format),
     (decide (256 < mRow0 w + mRows w), St.bounds), (decide (128 < mCol0 w + mCols w), St.bounds),
     (decide ((s.tbRows x.l x.c).2 < mRow0 w + mRows w), St.bounds),
     (mStride w == 0, St.bounds), (decide (mStride w < nb), St.bounds),
     (!s.osRows x.l x.c (mAddr w) (mStride w) nb (mRows w), St.bounds)]

/-- Conversion of one element between FM and FT: bits unchanged when equal (R42, R145). -/
def moveEl (fa fd v : Nat) : Nat × Nat :=
  if fa = fd then (v, 0) else overParts fa fd (fun _ a => cvtPart (partFmt fa) (partFmt fd) 0 a) v

/-- VLD (R145). -/
def State.vldEff (s : State) (x : Ctx) (e : CmdEntry) : State × CmdEntry :=
  let w := e.w
  let nb := elemBytes (mFM w) (mN w)
  (s.takeBufs x e [mBuf w] [mBuf w]).rows x e (mRows w) fun s i =>
    let a := osAddr x.c + mAddr w + i * mStride w
    if s.poisoned a nb then none
    else
      let (vs, ev) := gather ((List.range (mN w)).map fun k => moveEl (mFM w) (mFT w) (s.elem a (mFM w) k))
      some (s.putEls x (mBuf w) ((s.tbRows x.l x.c).1 + mRow0 w + i) (mCol0 w) (mFT w) vs, ev)

/-- VST (R145). -/
def State.vstEff (s : State) (x : Ctx) (e : CmdEntry) : State × CmdEntry :=
  let w := e.w
  let nb := elemBytes (mFM w) (mN w)
  (s.takeBufs x e [mBuf w] []).rows x e (mRows w) fun s i =>
    let r := (s.tbRows x.l x.c).1 + mRow0 w + i
    if s.tbBad x.c [(mBuf w, r, mCol0 w, mCols w)] then none
    else
      let (vs, ev) := gather ((List.range (mN w)).map fun k =>
        moveEl (mFT w) (mFM w) ((s.tcOf x.c).el (mBuf w) r (mCol0 w) (mFT w) k))
      let a := osAddr x.c + mAddr w + i * mStride w
      some ((s.wrLE a nb (vs.foldr (fun v acc => v + 2 ^ fmtBits (mFM w) * acc) 0)).clearPoison a nb, ev)

/-! ### VBIN and VFMA (R141, R142) -/

/-- Source B of element k in row r (R141). -/
def Tc.srcB (t : Tc) (w : CmdWord) (b0 r k : Nat) : Nat :=
  if tBimm w then tImm w % 2 ^ fmtBits (tFA w)
  else
    match tFunc w / 8 with
    | 1 => t.el (tTB w) b0 (tCol0 w) (tFA w) k
    | 2 => t.el (tTB w) r 0 (tFA w) 0
    | _ => t.el (tTB w) r (tCol0 w) (tFA w) k

/-- The source ranges of row r: A, and B unless it is immediate (R141). -/
def State.abReads (s : State) (x : Ctx) (w : CmdWord) (r : Nat) : List (Nat × Nat × Nat × Nat) :=
  (tTA w, r, tCol0 w, tCols w) ::
    (if tBimm w then []
     else match tFunc w / 8 with
      | 1 => [(tTB w, (s.tbRows x.l x.c).1, tCol0 w, tCols w)]
      | 2 => [(tTB w, r, 0, 1)]
      | _ => [(tTB w, r, tCol0 w, tCols w)])

/-- Buffers that VBIN, VFMA and CMUL name. -/
def abBufs (w : CmdWord) : List Nat := if tBimm w then [tTA w, tTD w] else [tTA w, tTB w, tTD w]

/-- Checks common to VBIN and VFMA. -/
def State.bChecks (s : State) (x : Ctx) (w : CmdWord) : List (Bool × Nat) :=
  s.tRange x w ++
    [(badT (tFA w) || badT (tFD w), St.format), (mixed (tFA w) (tFD w), St.format),
     (tFunc w / 8 == 3, St.format), (tBimm w && tFunc w / 8 != 0, St.format),
     (!tBimm w && tImm w != 0, St.format), (tBimm w && tTB w != 0, St.format), tDest w (tN w)]

/-- The checks of VBIN: the operations a source format takes (R141, R147). -/
def State.vbinChecks (s : State) (x : Ctx) (w : CmdWord) : List (Bool × Nat) :=
  let op := tFunc w % 8
  s.bChecks x w ++ [(isCplx (tFA w) && decide (1 < op), St.format), ((op == 5 || op == 6) && !isInt (tFA w), St.format)]

/-- VBIN (R141). -/
def State.vbinEff (s : State) (x : Ctx) (e : CmdEntry) : State × CmdEntry :=
  let w := e.w
  let fa := tFA w
  (s.takeBufs x e (abBufs w) [tTD w]).rows x e (tRows w) fun s i =>
    s.elRow x w (tFD w) (s.abReads x w) (fun t r =>
      (List.range (tN w)).map fun k =>
        let b := parts fa (t.srcB w (s.tbRows x.l x.c).1 r k)
        overParts fa (tFD w) (fun i a => binPart (tFunc w % 8) (partFmt fa) (partFmt (tFD w)) a (b.getD i 0))
          (t.el (tTA w) r (tCol0 w) fa k)) i

/-- The checks of VFMA: real formats, three functions (R142). -/
def State.vfmaChecks (s : State) (x : Ctx) (w : CmdWord) : List (Bool × Nat) :=
  s.bChecks x w ++ [(decide (2 < tFunc w % 8), St.format), (isCplx (tFA w) || isCplx (tFD w), St.format)]

/-- VFMA (R142): D is read in FD before the write. -/
def State.vfmaEff (s : State) (x : Ctx) (e : CmdEntry) : State × CmdEntry :=
  let w := e.w
  (s.takeBufs x e (abBufs w) [tTD w]).rows x e (tRows w) fun s i =>
    s.elRow x w (tFD w) (fun r => (tTD w, r, tCol0 w, destCols (tFD w) (tN w)) :: s.abReads x w r) (fun t r =>
      (List.range (tN w)).map fun k =>
        fmaPart (tFunc w % 8) (tFA w) (tFD w) (t.el (tTA w) r (tCol0 w) (tFA w) k) (t.srcB w (s.tbRows x.l x.c).1 r k)
          (t.el (tTD w) r (tCol0 w) (tFD w) k)) i

/-! ### VUN and VCVT (R143, R144) -/

/-- The checks of VUN. -/
def State.vunChecks (s : State) (x : Ctx) (w : CmdWord) : List (Bool × Nat) :=
  let fn := tFunc w
  let unused := tBimm w || tTB w != 0
  if fn = 5 then
    s.tRange x w ++
      [(tFD w != 9, St.format), (tFA w != 0 || tCols w != 1 || unused || tImm w != 0, St.format)]
  else
    s.tRange x w ++
      [(badT (tFA w) || badT (tFD w), St.format), (mixed (tFA w) (tFD w), St.format), (decide (5 < fn), St.format),
       (unused, St.format), (fn != 4 && tImm w != 0, St.format), (fn == 4 && tTA w != 0, St.format),
       (fn == 2 && isCplx (tFA w), St.format), (fn == 3 && !isCplx (tFA w), St.format), tDest w (tN w)]

/-- VUN (R143). -/
def State.vunEff (s : State) (x : Ctx) (e : CmdEntry) : State × CmdEntry :=
  let w := e.w
  let fn := tFunc w
  let fa := tFA w
  let fd := tFD w
  (s.takeBufs x e (if fn = 4 then [tTD w] else [tTA w, tTD w]) [tTD w]).rows x e (tRows w) fun s i =>
    if fn = 5 then s.elRow x w 9 (fun _ => []) (fun t r => [(if t.emptyBit (tTA w) r then 1 else 0, 0)]) i
    else
      s.elRow x w fd (fun r => if fn = 4 then [] else [(tTA w, r, tCol0 w, tCols w)]) (fun t r =>
        (List.range (tN w)).map fun k =>
          let a := if fn = 4 then tImm w % 2 ^ fmtBits fa else t.el (tTA w) r (tCol0 w) fa k
          overParts fa fd (fun i p =>
            unPart (if fn = 1 then 1 else if fn = 2 then 2 else if fn = 3 ∧ i = 1 then 1 else 0) (partFmt fa) (partFmt fd) p) a) i

/-- The checks of VCVT. -/
def State.vcvtChecks (s : State) (x : Ctx) (w : CmdWord) : List (Bool × Nat) :=
  s.tRange x w ++
    [(badT (tFA w) || badT (tFD w), St.format), (mixed (tFA w) (tFD w), St.format), (decide (1 < tFunc w), St.format),
     (tBimm w || tTB w != 0 || (tFunc w == 0 && tImm w != 0), St.format), tDest w (tN w)]

/-- VCVT (R144). -/
def State.vcvtEff (s : State) (x : Ctx) (e : CmdEntry) : State × CmdEntry :=
  let w := e.w
  let k : Int := if tFunc w = 1 then sext 8 (tImm w) else 0
  (s.takeBufs x e [tTA w, tTD w] [tTD w]).rows x e (tRows w) fun s i =>
    s.elRow x w (tFD w) (fun r => [(tTA w, r, tCol0 w, tCols w)]) (fun t r =>
      (List.range (tN w)).map fun j =>
        overParts (tFA w) (tFD w) (fun _ a => cvtPart (partFmt (tFA w)) (partFmt (tFD w)) k a)
          (t.el (tTA w) r (tCol0 w) (tFA w) j)) i

/-! ### VFREE (R146) -/

/-- The checks of VFREE: every field but TA is 0. -/
def State.vfreeChecks (s : State) (x : Ctx) (w : CmdWord) : List (Bool × Nat) :=
  s.baseChecks x w ++ [resv w 105 98, resv w 95 0]

/-- VFREE: the buffer becomes FREE, its entry is popped, its EMPTY bits clear (R132, R134, R146). -/
def State.vfreeEff (s : State) (x : Ctx) (e : CmdEntry) : State × CmdEntry :=
  let b := tTA e.w
  let (r0, rn) := s.tbRows x.l x.c
  (s.setTc x.c fun t =>
    let t := t.popEntry x.p b
    let t := { t with empty := tclear (256 * b + r0) (256 * b + r0 + rn) t.empty }
    t.setBufState x.p b 0, e.finished 0)

end Sys2Proof.Machine
end

