-- ==== Sys2Proof/Machine/Reduce.lean ====
section
/-! DEFINITION. The reduction unit: RED, TOPK, SMX1, SMX2 (R149 to R152, R163 to R165). -/
namespace Sys2Proof.Machine
open Sys2Proof

/-- Order of R149: NaN above every other value. -/
def outranks (a b : FV) : Bool := if a.isNaN then !b.isNaN else if b.isNaN then false else b.lt a

/-- Index and value of the first largest element. -/
def argmax : List FV → Option (Nat × FV)
  | [] => none
  | v :: vs =>
    match argmax vs with
    | none => some (0, v)
    | some (i, m) => if outranks m v then some (i + 1, m) else some (0, v)

/-- The least element; NaN when any is NaN (R149). -/
def minOf : List FV → FV
  | [] => .inf false
  | [v] => v
  | v :: vs =>
    let m := minOf vs
    if v.isNaN || m.isNaN then .nan else if m.lt v then m else v

/-- The checks of RED (R149, R147). -/
def State.redChecks (s : State) (x : Ctx) (w : CmdWord) : List (Bool × Nat) :=
  let op := tFunc w % 8
  let cont := tFunc w / 8 % 2 == 1
  s.tRange x w ++
    [(badT (tFA w) || badT (tFD w) || isCplx (tFA w) || isCplx (tFD w), St.format),
     (decide (4 < op) || decide (16 ≤ tFunc w), St.format), (tBimm w || tTB w != 0, St.format),
     (tImm w % 256 != 0 || (op != 4 && tImm w != 0), St.format),
     (cont && tFD w != 8 && tFD w != 9, St.format)]

/-- Elements of a row as taken values, with their events. -/
def Tc.rowVals (t : Tc) (w : CmdWord) (r : Nat) : List (FV × Nat) :=
  (List.range (tN w)).map fun k => decIn (tFA w) (t.el (tTA w) r (tCol0 w) (tFA w) k)

/-- Sum or sum of squares of a row: exact for an integer source, the tree of R150 for a float one. The value before
conversion to FD, and events. -/
def rowSum (isF sq : Bool) (vs : List FV) : FV × Nat :=
  if isF then
    let (ps, e1) := gather (vs.map fun v => if sq then
      let (p, e) := FV.mul v v
      let (r, e2) := round32 p
      (r, e ||| e2)
      else round32 v)
    let (r, e2) := treeSum 16 ps
    (f32 r, e1 ||| e2)
  else
    (FV.ofInt (vs.foldl (fun acc v => acc + (if sq then v.at 0 * v.at 0 else v.at 0)) 0), 0)

/-- One row of RED (R149): column 0 as one FD element, and for ARGMAX column 1. In continue mode an old value that is not
outranked stays as it is: a NaN with its payload, a zero with its sign (MIN takes the new one of two equal values); of equal elements the first
gives the sign (DESIGN CHOICE; log 86). -/
def redRow (op fa fd base : Nat) (cont : Bool) (vs : List (FV × Nat)) (old0 : Nat) (old1 : Nat) :
    Nat × Nat × Nat :=
  let e0 := vs.foldl (fun e v => e ||| v.2) 0
  let xs := vs.map Prod.fst
  let old := decRaw fd old0
  match op with
  | 0 | 4 =>
    match argmax xs with
    | none => (old0, old1, 0)
    | some (i, m) =>
      if cont && !(outranks m old) then (old0, old1, e0)
      else
        let (d, e) := convTo fd m
        (d, (base + i) % 2 ^ 32, e0 ||| e)
  | 1 =>
    let m := minOf xs
    let m := if cont then (if m.isNaN || old.isNaN then .nan else if old.lt m then old else m) else m
    let (d, e) := convTo fd m
    (d, old1, e0 ||| e)
  | _ =>
    let (v, e1) := rowSum (isFloat fa) (op == 3) xs
    if cont then
      if isInt fa && isInt fd then
        let (d, e2) := toIntFmt fd (FV.add v old).1
        (d, old1, e0 ||| e1 ||| e2)
      else
        let (d, e2) := floatStep fd (FV.add v old)
        (d, old1, e0 ||| e1 ||| e2)
    else
      let (d, e2) := convTo fd v
      (d, old1, e0 ||| e1 ||| e2)

/-- RED (R149): columns 0 and 1 of TD. -/
def State.redEff (s : State) (x : Ctx) (e : CmdEntry) : State × CmdEntry :=
  let w := e.w
  let op := tFunc w % 8
  let cont := tFunc w / 8 % 2 == 1
  (s.takeBufs x e [tTA w, tTD w] [tTD w]).rows x e (tRows w) fun s i =>
    let r := s.tRow x w i
    let t := s.tcOf x.c
    if s.tbBad x.c ((tTA w, r, tCol0 w, tCols w) :: if cont then [(tTD w, r, 0, if op = 4 then 2 else 1)] else []) then none
    else
      let (d0, d1, ev) := redRow op (tFA w) (tFD w) (tImm w / 256) cont (t.rowVals w r)
        (t.tb (tTD w) r 0).toNat (t.tb (tTD w) r 1).toNat
      let s := s.putCol x (tTD w) r 0 d0
      some (if op = 4 then s.putCol x (tTD w) r 1 d1 else s, ev)

/-! ### TOPK (R151) -/

/-- The checks of TOPK. -/
def State.topkChecks (s : State) (x : Ctx) (w : CmdWord) : List (Bool × Nat) :=
  s.tRange x w ++
    [(badT (tFA w) || badT (tFD w) || isCplx (tFA w) || isCplx (tFD w), St.format), (fmtBits (tFD w) != 32, St.format),
     (decide (1 < tFunc w), St.format), (tBimm w || tTB w != 0, St.format), (tImm w / 64 % 4 != 0, St.format)]

/-- Insert an entry behind every entry that is not smaller: an earlier entry wins a tie. -/
def rankIns (v : FV × Nat) : List (FV × Nat) → List (FV × Nat)
  | [] => [v]
  | u :: us => if outranks v.1 u.1 then v :: u :: us else u :: rankIns v us

/-- TOPK: values in columns 0 to k − 1, indices in columns 64 to 63 + k. -/
def State.topkEff (s : State) (x : Ctx) (e : CmdEntry) : State × CmdEntry :=
  let w := e.w
  let k := tImm w % 64 + 1
  let fd := tFD w
  (s.takeBufs x e [tTA w, tTD w] [tTD w]).rows x e (tRows w) fun s i =>
    let r := s.tRow x w i
    let t := s.tcOf x.c
    if s.tbBad x.c ((tTA w, r, tCol0 w, tCols w) :: if tFunc w = 1 then [(tTD w, r, 0, k), (tTD w, r, 64, k)] else []) then
      none
    else
      let vals := t.rowVals w r
      let new := vals.zipIdx.map fun (v, j) => (v.1, (tImm w / 256 + j) % 2 ^ 32)
      let old := if tFunc w = 1 then (List.range k).map fun j =>
          (decRaw fd (t.tb (tTD w) r j).toNat, (t.tb (tTD w) r (64 + j)).toNat) else []
      let ranked := new.foldl (fun l v => rankIns v l) old
      let e0 := vals.foldl (fun e v => e ||| v.2) 0
      let least : Nat := if fd = 8 then 0xFF800000 else 0x80000000
      some ((List.range k).foldl (fun (p : State × Nat) j =>
        match ranked[j]? with
        | some (v, ix) =>
          let (d, e) := convTo fd v
          ((p.1.putCol x (tTD w) r j d).putCol x (tTD w) r (64 + j) ix, p.2 ||| e)
        | none => ((p.1.putCol x (tTD w) r j least).putCol x (tTD w) r (64 + j) 0xFFFFFFFF, p.2)) (s, e0))

/-! ### Softmax (R163 to R165) -/

/-- IMM is positive and finite (R163). -/
def goodScale (w : CmdWord) : Bool :=
  match f32 (tImm w) with
  | .fin false m _ => m != 0
  | _ => false

def smxFA (f : Nat) : Bool := f == 8 || f == 6 || f == 7

/-- The checks of SMX1. -/
def State.smx1Checks (s : State) (x : Ctx) (w : CmdWord) : List (Bool × Nat) :=
  s.tRange x w ++
    [(!smxFA (tFA w) || tFD w != 8, St.format), (decide (1 < tFunc w), St.format), (tBimm w || tTB w != 0, St.format),
     (!goodScale w, St.bounds)]

/-- The checks of SMX2. -/
def State.smx2Checks (s : State) (x : Ctx) (w : CmdWord) : List (Bool × Nat) :=
  s.tRange x w ++
    [(!smxFA (tFA w) || badT (tFD w) || isCplx (tFD w), St.format), (tFunc w != 0, St.format), (tBimm w, St.format),
     (!goodScale w, St.bounds), tDest w (tN w)]

/-- Elements of a row scaled by IMM, rounded once to FP32 (R163). -/
def scaledRow (imm : Nat) (vs : List (FV × Nat)) : List Nat × Nat :=
  gather (vs.map fun v =>
    let (p, e) := FV.mul v.1 (f32 imm)
    let (r, e2) := round32 p
    (r, v.2 ||| e ||| e2))

/-- term of R164: 0 for −inf, 1 for an element equal to m, else the fixed exponential of x − m. -/
def smxTerm (x m : Nat) : Nat :=
  if f32 x = .inf true then 0
  else if (f32 x).eqv (f32 m) then 0x3F800000
  else smxExp (FV.add (f32 x) (f32 m).neg).1

/-- smx1_row of R164: new m and s. -/
def smx1Row (xs : List Nat) (mOld sOld : Nat) : Nat × Nat × Nat :=
  if (f32 mOld).isNaN || xs.any fun v => (f32 v).isNaN then (0x7FC00000, 0x7FC00000, 0)
  else
    let m := xs.foldl (fun m v => if (f32 m).lt (f32 v) then v else m) mOld
    let f := if (f32 mOld).eqv (f32 m) then 0x3F800000
      else if f32 mOld = .inf true then 0
      else smxExp (FV.add (f32 mOld) (f32 m).neg).1
    let (c, e1) := treeSum 16 (xs.map fun v => smxTerm v m)
    let (p, e2) := FV.mul (f32 sOld) (f32 f)
    let (q, e3) := FV.add p (f32 c)
    let (r, e4) := round32 q
    (m, r, e1 ||| e2 ||| e3 ||| e4)

/-- SMX1 (R164). -/
def State.smx1Eff (s : State) (x : Ctx) (e : CmdEntry) : State × CmdEntry :=
  let w := e.w
  (s.takeBufs x e [tTA w, tTD w] [tTD w]).rows x e (tRows w) fun s i =>
    let r := s.tRow x w i
    let t := s.tcOf x.c
    if s.tbBad x.c ((tTA w, r, tCol0 w, tCols w) :: if tFunc w = 1 then [(tTD w, r, 0, 2)] else []) then none
    else
      let (xs, e0) := scaledRow (tImm w) (t.rowVals w r)
      let (m0, s0) := if tFunc w = 1 then ((t.tb (tTD w) r 0).toNat, (t.tb (tTD w) r 1).toNat) else (0xFF800000, 0)
      let (m, sm, e1) := smx1Row xs m0 s0
      some ((s.putCol x (tTD w) r 0 m).putCol x (tTD w) r 1 sm, e0 ||| e1)

/-- One row of SMX2: the elements and the EMPTY bit (R165). -/
def smx2Row (fd : Nat) (xs : List Nat) (m sm : Nat) : List (Nat × Nat) × Bool :=
  if (f32 m).isNaN || (f32 sm).isNaN then (xs.map fun _ => ((convTo fd .nan).1, 0), false)
  else if f32 m = .inf true then (xs.map fun _ => (0, 0), true)
  else
    let r := smxRecip sm
    (xs.map fun v => if (f32 v).isNaN then ((convTo fd .nan).1, 0) else floatStep fd (FV.mul (f32 (smxTerm v m)) (f32 r)),
      false)

/-- SMX2 (R165): EMPTY bits of the rows of TD, EMPTY_ROW once when the command ends (R132, R170). -/
def State.smx2Eff (s : State) (x : Ctx) (e : CmdEntry) : State × CmdEntry :=
  let w := e.w
  let (s, e) := (s.takeBufs x e [tTA w, tTB w, tTD w] [tTD w]).rows x e (tRows w) fun s i =>
    let r := s.tRow x w i
    let t := s.tcOf x.c
    if s.tbBad x.c [(tTA w, r, tCol0 w, tCols w), (tTB w, r, 0, 2)] then none
    else
      let (xs, e0) := scaledRow (tImm w) (t.rowVals w r)
      let (ys, empty) := smx2Row (tFD w) xs (t.tb (tTB w) r 0).toNat (t.tb (tTB w) r 1).toNat
      let (vs, e1) := gather ys
      some ((s.putEls x (tTD w) r (tCol0 w) (tFD w) vs).setTc x.c fun t => t.setEmpty (tTD w) r empty,
        e0 ||| e1 ||| if empty then Ev.emptyRow else 0)
  (s.setFlagIf (e.done && e.ev.testBit 7) (Reg.TC_VFLAG x.c) 0 (some x.l), e)

end Sys2Proof.Machine
end

