-- ==== Sys2Proof/Machine/Sfn.lean ====
section
/-! DEFINITION. The special-function unit and its table banks: SFN, TLOAD, TSWAP (R153 to R162). -/
namespace Sys2Proof.Machine
open Sys2Proof

/-! ### Table banks -/

/-- Active bank (R168). -/
def State.tblActive (s : State) (c : Nat) : Nat := s.gf (Reg.TC_SFN_STATE c) Fld.TC_SFN_STATE_ACTIVE
/-- A bank has been loaded since reset or binding. -/
def State.tblLoaded (s : State) (c b : Nat) : Bool :=
  s.gf (Reg.TC_SFN_STATE c) (if b = 0 then Fld.TC_SFN_STATE_BANK0_LOADED else Fld.TC_SFN_STATE_BANK1_LOADED) == 1
/-- The banks of a pooled core hold another lodging's tables (R162). -/
def State.tblForeign (s : State) (x : Ctx) : Bool :=
  s.pooled x.c && (s.tblLoaded x.c 0 || s.tblLoaded x.c 1) && s.gf (Reg.TC_SFN_STATE x.c) Fld.TC_SFN_STATE_OWNER != x.l

/-- Directory entry the lodging sees: the core's own, or its shadow's before a reload. -/
def State.dirOf (s : State) (x : Ctx) (b i : Nat) : DirEnt :=
  if s.tblForeign x then tget (fun _ => DirEnt.unused) (s.tcOf x.c).shDir (8 * x.p + 4 * b + i)
  else tget (fun _ => DirEnt.unused) (s.tcOf x.c).dir (4 * b + i)
/-- Active bank the lodging sees. -/
def State.activeFor (s : State) (x : Ctx) : Nat :=
  if s.tblForeign x then tget (fun _ => 0) (s.tcOf x.c).shAct x.p % 2 else s.tblActive x.c
/-- A bank the lodging sees has been loaded. -/
def State.loadedFor (s : State) (x : Ctx) (b : Nat) : Bool :=
  if s.tblForeign x then (tget (fun _ => 0) (s.tcOf x.c).shAct x.p).testBit (1 + b) else s.tblLoaded x.c b

/-- Reload both banks and the active-bank choice from the lodging's shadow (R162), with TBL_RELOAD when the shadow holds a
table (log 79). -/
def State.tblReload (s : State) (x : Ctx) : State :=
  if !s.tblForeign x then s
  else
    let t := s.tcOf x.c
    let act := tget (fun _ => 0) t.shAct x.p
    let s := s.setTc x.c fun t =>
      { t with
        table := tputN memInit (fun i => tget memInit t.shTable (8192 * x.p + i)) 0 8192 t.table
        dir := tputN (fun _ => DirEnt.unused) (fun i => tget (fun _ => DirEnt.unused) t.shDir (8 * x.p + i)) 0 8 t.dir }
    let s := s.clearPoison (tableSram x.c 0 0) 8192
    let r := Reg.TC_SFN_STATE x.c
    let s := s.sf r Fld.TC_SFN_STATE_OWNER x.l
    let s := s.sf r Fld.TC_SFN_STATE_ACTIVE act
    let s := s.sf r Fld.TC_SFN_STATE_BANK0_LOADED (act / 2)
    let s := s.sf r Fld.TC_SFN_STATE_BANK1_LOADED (act / 4)
    s.setFlagIf (decide (2 ≤ act)) (Reg.TC_VFLAG x.c) 2 (some x.l)

/-- Keep the shadow's active choice and loaded bits of a pooled lodging (R162). -/
def State.tblNote (s : State) (x : Ctx) : State :=
  if !s.pooled x.c then s
  else
    let v := s.tblActive x.c + (if s.tblLoaded x.c 0 then 2 else 0) + (if s.tblLoaded x.c 1 then 4 else 0)
    s.setTc x.c fun t => { t with shAct := tput (fun _ => 0) t.shAct x.p v }

/-- The KINDs of R154. -/
def tableKinds : List Nat := [1, 2, 3, 4, 5, 6, 7, 8, 0x10]

/-- A directory entry from a TLOAD descriptor (R160). -/
def dirOfDesc (d i : Nat) : DirEnt :=
  ⟨dfield d (0x10 + 12 * i) 1, dfield d (0x11 + 12 * i) 1, dfield d (0x12 + 12 * i) 1 % 2 == 1,
    BitVec.ofNat 32 (dfield d (0x14 + 12 * i) 4), BitVec.ofNat 32 (dfield d (0x18 + 12 * i) 4)⟩

/-- A slot of a TLOAD descriptor breaks R160 or R91. An unused slot is held to NSEG and FLAGS 0, which R160 does not say of it
(DESIGN CHOICE; log 86). -/
def badDir (d i : Nat) : Bool :=
  let e := dirOfDesc d i
  let flags := dfield d (0x12 + 12 * i) 1
  let fin (w : Word) := match f32 w.toNat with
    | .fin _ _ _ => true
    | _ => false
  decide (1 < flags) || dfield d (0x13 + 12 * i) 1 != 0 ||
    (if e.kind = 0 then e.nseg != 0 || flags != 0 || e.lo != 0 || e.hi != 0
     else if e.kind = 0x10 then
       e.nseg == 0 || decide (64 < e.nseg) || !fin e.lo || !fin e.hi || !(f32 e.lo.toNat).lt (f32 e.hi.toNat)
     else !tableKinds.contains e.kind || e.nseg != 64 || e.lo != 0 || e.hi != 0)

/-- The checks of TLOAD (R160); an SRC that is no multiple of 64 is BOUNDS (DESIGN CHOICE; log 86). -/
def State.tloadChecks (s : State) (x : Ctx) (w : CmdWord) (d : Nat) : List (Bool × Nat) :=
  let descOk := s.osOk x.l x.c (dDesc w) 64
  s.baseChecks x w ++ [resv w 90 0, (!descOk, St.bounds)] ++
    (if !descOk then []
     else
       [(dfield d 4 12 != 0 || (List.range 4).any (badDir d), St.format),
        (dfield d 0 4 % 64 != 0 || !s.osOk x.l x.c (dfield d 0 4) 4096, St.bounds)])

/-- TLOAD (R160, R162): the inactive bank and its directory, and the shadow on a pooled core. -/
def State.tloadEff (s : State) (x : Ctx) (e : CmdEntry) : State × CmdEntry :=
  let s := s.tblReload x
  let b := 1 - s.tblActive x.c
  let src := osAddr x.c + dfield e.desc 0 4
  if s.poisoned src 4096 then (s, { e with st := St.integrity, done := true })
  else
    let s0 := s
    let img (i : Nat) : Byte := s0.rb (src + i)
    let ent (i : Nat) : DirEnt := dirOfDesc e.desc i
    let s := s.setTc x.c fun t =>
      { t with
        table := tputN memInit img (4096 * b) 4096 t.table
        dir := tputN (fun _ => DirEnt.unused) ent (4 * b) 4 t.dir }
    let s := s.clearPoison (tableSram x.c b 0) 4096
    let r := Reg.TC_SFN_STATE x.c
    let s := (s.sf r Fld.TC_SFN_STATE_OWNER x.l).sf r
      (if b = 0 then Fld.TC_SFN_STATE_BANK0_LOADED else Fld.TC_SFN_STATE_BANK1_LOADED) 1
    let s := if !s.pooled x.c then s
      else s.setTc x.c fun t =>
        { t with
          shTable := tputN memInit img (8192 * x.p + 4096 * b) 4096 t.shTable
          shDir := tputN (fun _ => DirEnt.unused) ent (8 * x.p + 4 * b) 4 t.shDir }
    (s.tblNote x, e.finished 0)

/-- The tables a command issued now will find once every TLOAD and TSWAP issued before it has run: active bank, banks
loaded, directories of both banks (R160, R161). -/
structure TblView where
  act : Nat
  loaded : List Nat
  dir : Nat → Nat → DirEnt

/-- Put a command in its place in issue order. -/
def byStamp (e : CmdEntry) : List CmdEntry → List CmdEntry
  | [] => [e]
  | f :: fs => if e.stamp ≤ f.stamp then e :: f :: fs else f :: byStamp e fs

/-- Commands of both slots in flight on a partition, in issue order. -/
def State.inIssueOrder (s : State) (x : Ctx) : List CmdEntry :=
  ((s.slotOf x.c x.p .a).inflight ++ (s.slotOf x.c x.p .b).inflight).foldr byStamp []

/-- The view after a command. -/
def TblView.after (v : TblView) (e : CmdEntry) : TblView :=
  if e.done then v
  else if cOp e.w = 0x51 then
    { v with
      loaded := (1 - v.act) :: v.loaded
      dir := fun b i => if b = 1 - v.act then dirOfDesc e.desc i else v.dir b i }
  else if cOp e.w = 0x52 then { v with act := 1 - v.act }
  else v

/-- The view at the issue of a command. -/
def State.tblView (s : State) (x : Ctx) : TblView :=
  (s.inIssueOrder x).foldl TblView.after
    ⟨s.activeFor x, (List.range 2).filter fun b => s.loadedFor x b, fun b i => s.dirOf x b i⟩

/-- The checks of TSWAP: the bank inactive by then has been loaded, or a TLOAD issued before will load it (R161; log 80). -/
def State.tswapChecks (s : State) (x : Ctx) (w : CmdWord) : List (Bool × Nat) :=
  let v := s.tblView x
  s.baseChecks x w ++ [headerOnly w, (!v.loaded.contains (1 - v.act), St.state)]

/-- TSWAP (R161): on a pooled core that holds another lodging's tables, the choice in the lodging's shadow changes. -/
def State.tswapEff (s : State) (x : Ctx) (e : CmdEntry) : State × CmdEntry :=
  if s.tblForeign x then
    (s.setTc x.c fun t => { t with shAct := tmod (fun _ => 0) t.shAct x.p fun v => if v % 2 = 0 then v + 1 else v - 1 }, e.finished 0)
  else
    let s := s.sf (Reg.TC_SFN_STATE x.c) Fld.TC_SFN_STATE_ACTIVE (1 - s.tblActive x.c)
    (s.tblNote x, e.finished 0)

/-! ### SFN (R153) -/

/-- KIND a function uses (R153); none for a reserved FUNC. -/
def sfnKind (fn : Nat) : Option Nat :=
  match fn with
  | 0x00 => some 1 | 0x01 => some 1 | 0x02 => some 2 | 0x03 => some 2 | 0x04 => some 3 | 0x05 => some 4
  | 0x06 => some 5 | 0x07 => some 6 | 0x08 => some 7 | 0x09 => some 8 | 0x0A => some 8 | 0x0B => some 7
  | 0x0C => some 6 | 0x0D => some 6 | 0x10 => some 0x10 | 0x11 => some 0x10 | 0x12 => some 0x10 | 0x13 => some 0x10
  | _ => none

/-- The slot of a bank whose table a function uses: the first whose KIND matches; slot FUNC − 0x10 for a user
function (R153). -/
def sfnSlot (dir : Nat → DirEnt) (fn : Nat) : Option Nat :=
  match sfnKind fn with
  | none => none
  | some k =>
    if 0x10 ≤ fn then (if (dir (fn - 0x10)).kind = 0x10 then some (fn - 0x10) else none)
    else (List.range 4).find? fun i => (dir i).kind == k

/-- The bank an SFN uses: the active one at its issue, swaps issued before it counted (R161). -/
def State.sfnBank (s : State) (x : Ctx) : Nat := (s.tblView x).act

/-- Formats an SFN takes (R153). -/
def sfnFmt (f : Nat) : Bool := f == 8 || f == 6 || f == 7 || f == 4 || f == 5

/-- The checks of SFN. -/
def State.sfnChecks (s : State) (x : Ctx) (w : CmdWord) : List (Bool × Nat) :=
  s.tRange x w ++
    [(!sfnFmt (tFA w) || !sfnFmt (tFD w), St.format), ((sfnKind (tFunc w)).isNone, St.format), (tTB w != 0, St.format),
     (!tBimm w && tImm w != 0, St.format), tDest w (tN w),
     ((sfnSlot ((s.tblView x).dir (s.sfnBank x)) (tFunc w)).isNone, St.state)]

/-- One element of an SFN: multiplied by IMM when BIMM is 1, evaluated, rounded once, converted (R153). -/
def sfnEl (w : CmdWord) (P : Nat → FV → FV) (ent : DirEnt) (v : FV × Nat) : Nat × Nat :=
  let (a, e1) := if tBimm w then
      let (p, e) := FV.mul v.1 (f32 (tImm w))
      let (q, e') := round32 p
      (f32 q, e ||| e')
    else (v.1, 0)
  let (y, e2) := sfnEval (tFunc w) P ent a
  let (q, e3) := round32 y
  let gen := if y.isNaN && !a.isNaN then Ev.nanGen else 0
  let (d, e4) := convTo (tFD w) (f32 q)
  (d, v.2 ||| e1 ||| e2 ||| e3 ||| gen ||| e4)

/-- SFN (R153): `e.bank` holds the bank chosen at issue. A table slot with an uncorrectable word is not used (R218; log 77). -/
def State.sfnEff (s : State) (x : Ctx) (e : CmdEntry) : State × CmdEntry :=
  let w := e.w
  let s := (s.tblReload x).takeBufs x e [tTA w, tTD w] [tTD w]
  let t0 := s.tcOf x.c
  let b := e.bank
  let sl := (sfnSlot (fun i => tget (fun _ => DirEnt.unused) t0.dir (4 * b + i)) (tFunc w)).getD 0
  let ent := tget (fun _ => DirEnt.unused) t0.dir (4 * b + sl)
  let coef (i k : Nat) : FV :=
    f32 ((List.range 4).foldr (fun j acc =>
      (tget memInit t0.table (4096 * b + 1024 * sl + 16 * i + 4 * k + j)).toNat + 256 * acc) 0)
  s.rows x e (tRows w) fun s i =>
    if s.poisoned (tableSram x.c b (1024 * sl)) (16 * ent.nseg) then none
    else
      s.elRow x w (tFD w) (fun r => [(tTA w, r, tCol0 w, tCols w)]) (fun t r =>
        (t.rowVals w r).map fun v => sfnEl w (tableP coef ent.mono ent.nseg) ent v) i

end Sys2Proof.Machine
end

