-- ==== Sys2Proof/Machine/Quant.lean ====
section
/-! DEFINITION. Quantisation (spec/05_quantisation.md): QNT, DEQUANT, RECORD, CLEAR, and the attachments of DQNT. -/
namespace Sys2Proof.Machine
open Sys2Proof

/-! ### Ranges and scales (R173 to R175) -/

/-- Largest code value of a code format (R173); 0 for a format QNT does not make. -/
def qMax (f : Nat) : Nat :=
  match f with
  | 0 => 7 | 1 => 127 | 4 => 448 | 5 => 57344 | 13 => 6
  | _ => 0

/-- Magnitude of a value. -/
def fvMag : FV → FV
  | .nan => .nan
  | .inf _ => .inf false
  | .fin _ m e => .fin false m e

/-- r ≤ k · v for non-negative values. -/
def leTimes (r : FV) (k : Nat) (v : FV) : Bool := !((FV.mul (.fin false k 0) v).1.lt r)

/-- The least exponent of `fuel` candidates from lo up whose power of two is at least r/k. -/
def leastExp (r : FV) (k : Nat) : Nat → Int → Int
  | 0, e => e
  | fuel + 1, e => if leTimes r k (.fin false 1 e) then e else leastExp r k fuel (e + 1)

/-- ⌈log₂(r/k)⌉ clamped to −127 to 127, for a finite positive r (R174). -/
def ceilLog (r : FV) (k : Nat) : Int :=
  match r with
  | .fin _ m e =>
    let g := e + (Nat.log2 m : Int) - (Nat.log2 k : Int) - 2
    max (-127) (min 127 (leastExp r k 5 g))
  | _ => 127

/-- The least BF16 pattern of lo to lo + 2^fuel − 1 whose value is at least r/k, by halving. -/
def leastBf (r : FV) (k : Nat) : Nat → Nat → Nat
  | 0, lo => lo
  | fuel + 1, lo => if leTimes r k (decRaw 6 (lo + 2 ^ fuel - 1)) then leastBf r k fuel lo else leastBf r k fuel (lo + 2 ^ fuel)

/-- The scale of a group from its range (R174, R175). -/
def groupScale (fd sfmt : Nat) (r : FV) : Nat :=
  match r with
  | .nan => if sfmt = 0 then 0xFF else 0x7FC0
  | .inf _ => if sfmt = 0 then 0xFE else 0x7F7F
  | .fin sg m e =>
    if m = 0 then (if sfmt = 0 then 0 else 0x0080)
    else if sg then Config.negRange (m + e.natAbs) % (if sfmt = 0 then 256 else 65536)
    else if sfmt = 0 then (ceilLog r (qMax fd) + 127).toNat
    else min 0x7F7F (max 0x0080 (leastBf r (qMax fd) 15 0))

/-- The exact quotient x / s kept to 64 bits and a sticky bit below them, which decides every comparison of R174 and
R176 as the quotient does; s is a nonzero scale. -/
def quotient (x s : FV) : FV :=
  match x, s with
  | .fin sx m e, .fin ss d f =>
    if d = 0 then .nan
    else
      let k := 64 + Nat.log2 d
      let a := m * 2 ^ k
      .fin (sx != ss) (2 * (a / d) + (if a % d = 0 then 0 else 1)) (e - f - k - 1)
  | .inf sx, .fin ss _ _ => .inf (sx != ss)
  | .nan, _ => .nan
  | .fin sx _ _, .inf ss => .fin (sx != ss) 0 0
  | _, _ => .nan

/-! ### Codes (R174, R176) -/

/-- Round to nearest and saturate (R174): infinities of E5M2 become its largest finite value with CVT_SAT. -/
def codeNearest (fd : Nat) (q : FV) : Nat × Nat :=
  let (c, e) := convTo fd q
  if fd = 5 ∧ c % 128 = 0x7C then (c - 1, Ev.cvtSat) else (c, e)

/-- One step of the rounding register (R176). -/
def lfsrStep (v : Nat) : Nat := if v % 2 = 1 then Nat.xor (v / 2) 0x80200003 else v / 2

/-- n steps of the rounding register. -/
def lfsrSteps : Nat → Nat → Nat
  | 0, v => v
  | n + 1, v => lfsrSteps n (lfsrStep v)

/-- The draw of element i (R176). -/
def drawOf (seed i : Nat) : Nat := lfsrSteps (16 * (i + 1)) seed % 65536

/-- Stochastic rounding of a finite quotient (R176). -/
def codeRandom (fd u : Nat) (q : FV) : Nat × Nat :=
  match q with
  | .fin sg m e =>
    let F := (floatFmt fd).getD fp32
    let int := isInt fd
    let lead : Int := e + (Nat.log2 m : Int)
    let emin : Int := 1 - (F.bias : Int)
    let low := !int && isFlushed fd && decide (lead < emin)
    let g : Int := if int then 0 else if low then emin else max (lead - F.mbits) (emin - F.mbits)
    let den : Nat := 2 ^ (g - e).toNat
    let n : Nat := if g ≤ e then m * 2 ^ (e - g).toNat else m / den
    let rem : Nat := if g ≤ e then 0 else m % den
    let top : FV := .fin false (if int ∧ sg then qMax fd + 1 else qMax fd) 0
    if top.lt (.fin false m e) then ((codeNearest fd (.inf sg)).1, Ev.cvtSat)
    else if rem = 0 ∨ m = 0 then ((convTo fd (.fin sg n g)).1, Ev.none)
    else
      let up := if sg then !decide (u < (den - rem) * 65536 / den) else decide (u < rem * 65536 / den)
      let n := if up then n + 1 else n
      ((convTo fd (.fin sg n g)).1, if low && n == 0 then Ev.flush else Ev.none)
  | _ => codeNearest fd q

/-! ### The descriptor (R181) -/

/-- The fields of a QNT, DEQUANT or QMAX descriptor. -/
structure QDesc where
  wide : Nat
  wideS : Nat
  codes : Nat
  codesS : Nat
  scales : Nat
  scalesS : Nat
  side : Nat
  sideS : Nat
  olist : Nat
  hist : Nat
  m : Nat
  k : Nat
  seed : Nat
  gsize : Nat
  sfmt : Nat
  rnd : Bool
  win : Nat
  p : Nat
  margin : Nat
  mxi8 : Bool
deriving DecidableEq, Repr

/-- Read a descriptor. -/
def QDesc.of (d : Nat) : QDesc :=
  let c := dfield d 0x30 4
  ⟨dfield d 0 4, dfield d 4 4, dfield d 8 4, dfield d 0xC 4, dfield d 0x10 4, dfield d 0x14 4, dfield d 0x18 4,
    dfield d 0x1C 4, dfield d 0x20 4, dfield d 0x24 4, dfield d 0x28 2 + 1, dfield d 0x2A 2 + 1, dfield d 0x2C 4,
    nbits c 1 0, nbits c 2 2, nbits c 3 3 == 1, nbits c 6 4 + 1, nbits c 13 7, nbits c 22 14, nbits c 23 23 == 1⟩

/-- Groups per row (R171). -/
def QDesc.ng (q : QDesc) : Nat := cdiv q.k (groupSize q.gsize)

/-- An array of rows in the operand store. -/
structure Arr where
  addr : Nat
  stride : Nat
  bytes : Nat
  rows : Nat
deriving DecidableEq, Repr

/-- The arrays of a descriptor. -/
def QDesc.wideA (q : QDesc) (f : Nat) : Arr := ⟨q.wide, q.wideS, elemBytes f q.k, q.m⟩
def QDesc.codesA (q : QDesc) (f : Nat) : Arr := ⟨q.codes, q.codesS, elemBytes f q.k, q.m⟩
def QDesc.scalesA (q : QDesc) : Arr := ⟨q.scales, q.scalesS, scaleBytes q.sfmt * q.ng, q.m⟩
def QDesc.sideA (q : QDesc) : List Arr := if q.p = 0 then [] else [⟨q.side, q.sideS, 2 * q.p, q.m⟩]
/-- The outlier list, one row. -/
def QDesc.olistA (q : QDesc) : List Arr := if q.p = 0 then [] else [⟨q.olist, 16 * cdiv (2 * q.p) 16, 2 * q.p, 1⟩]

/-- Two arrays share a byte. -/
def Arr.overlaps (a b : Arr) : Bool :=
  (List.range a.rows).any fun i => (List.range b.rows).any fun j =>
    meets (a.addr + i * a.stride, a.addr + i * a.stride + a.bytes) (b.addr + j * b.stride, b.addr + j * b.stride + b.bytes)

/-- An array breaks the address, stride or region conditions of R181. -/
def State.badArr (s : State) (x : Ctx) (a : Arr) : Bool :=
  a.addr % 16 != 0 || a.stride % 16 != 0 || decide (a.stride < a.bytes) ||
    !s.osRows x.l x.c a.addr a.stride a.bytes a.rows

/-- Some written array overlaps another written array or a read one. -/
def anyOverlap (written read : List Arr) : Bool :=
  written.zipIdx.any fun (a, i) =>
    read.any (fun b => a.overlaps b) || (written.drop (i + 1)).any fun b => a.overlaps b

/-- Outlier channel j (R177). -/
def State.outlier (s : State) (x : Ctx) (q : QDesc) (j : Nat) : Nat := s.rdLE (osAddr x.c + q.olist + 2 * j) 2

/-- The outlier list. -/
def State.outliers (s : State) (x : Ctx) (q : QDesc) : List Nat := (List.range q.p).map fun j => s.outlier x q j

/-- Strictly ascending. -/
def ascending : List Nat → Bool
  | a :: b :: t => decide (a < b) && ascending (b :: t)
  | _ => true

/-- The checks of the outlier list, when it can be read. -/
def State.olistChecks (s : State) (x : Ctx) (q : QDesc) : List (Bool × Nat) :=
  if q.p = 0 || decide (64 < q.p) || (q.olistA.any fun a => s.badArr x a) then []
  else
    let o := s.outliers x q
    [(!ascending o, St.format), (o.any fun c => decide (q.k ≤ c), St.bounds)]

/-- COUNT, NEXT, GSIZE and NG of a history record (R179). -/
def State.histCount (s : State) (x : Ctx) (q : QDesc) : Nat := (s.rb (osAddr x.c + q.hist)).toNat
def State.histNext (s : State) (x : Ctx) (q : QDesc) : Nat := (s.rb (osAddr x.c + q.hist + 1)).toNat

/-- The history record lies at a multiple of 64 in the regions. -/
def State.histOk (s : State) (x : Ctx) (q : QDesc) : Bool :=
  q.hist % 64 == 0 && s.osOk x.l x.c q.hist (16 + 32 * q.ng)

/-- The record checks of R179. -/
def State.histChecks (s : State) (x : Ctx) (q : QDesc) : List (Bool × Nat) :=
  if !s.histOk x q then [(true, St.bounds)]
  else
    let h := osAddr x.c + q.hist
    [(decide (8 < s.histCount x q) ||
      (s.histCount x q != 0 && ((s.rb (h + 2)).toNat != q.gsize || s.rdLE (h + 4) 4 != q.ng)), St.state)]

/-- Checks every command of this chapter with a descriptor makes on its word and CTRL (R109, R171, R180). -/
def State.qBase (s : State) (x : Ctx) (w : CmdWord) (d : Nat) (fmtOk : Bool) : List (Bool × Nat) :=
  let descOk := s.osOk x.l x.c (dDesc w) 64
  let q := QDesc.of d
  s.baseChecks x w ++
    [resv w 43 0, (dTbuf w != 0 || dImm w != 0 || !fmtOk, St.format), (!descOk, St.bounds)] ++
    (if !descOk then []
     else [(nbits (dfield d 0x30 4) 31 24 != 0 || dfield d 0x34 12 != 0 || q.gsize == 3, St.format)])

/-- A wide format of R180. -/
def wideFmt (f : Nat) : Bool := f == 8 || f == 6 || f == 7

/-- The checks of QNT. -/
def State.qntChecks (s : State) (x : Ctx) (w : CmdWord) (d : Nat) : List (Bool × Nat) :=
  let q := QDesc.of d
  let ok := wideFmt (dFA w) && qMax (dFD w) != 0 && decide (dFunc w ≤ 1)
  let written := [q.codesA (dFD w), q.scalesA] ++ q.sideA
  let read := q.wideA (dFA w) :: q.olistA
  s.qBase x w d ok ++
    (if !s.osOk x.l x.c (dDesc w) 64 || !ok || q.gsize == 3 then []
     else
       [(decide (64 < q.p) || decide (256 < q.margin) || (q.rnd && q.seed == 0), St.bounds),
        ((written ++ read).any fun a => s.badArr x a, St.bounds), (anyOverlap written read, St.bounds)] ++
         s.olistChecks x q ++ (if dFunc w = 1 then s.histChecks x q else []))

/-- The checks of DEQUANT. -/
def State.dequantChecks (s : State) (x : Ctx) (w : CmdWord) (d : Nat) : List (Bool × Nat) :=
  let q := QDesc.of d
  let ok := qMax (dFA w) != 0 && wideFmt (dFD w) && dFunc w == 0
  let written := [q.wideA (dFD w)]
  let read := [q.codesA (dFA w), q.scalesA] ++ q.sideA ++ q.olistA
  s.qBase x w d ok ++
    (if !s.osOk x.l x.c (dDesc w) 64 || !ok || q.gsize == 3 then []
     else
       [(q.mxi8 && (dFA w != 1 || q.sfmt != 0), St.format), (decide (64 < q.p), St.bounds),
        ((written ++ read).any fun a => s.badArr x a, St.bounds), (anyOverlap written read, St.bounds)] ++
         s.olistChecks x q)

/-- The checks of RECORD. An illegal FUNC of QMAX is decoded here too. -/
def State.recordChecks (s : State) (x : Ctx) (w : CmdWord) (d : Nat) : List (Bool × Nat) :=
  let q := QDesc.of d
  let ok := wideFmt (dFA w) && dFD w == 0 && dFunc w == 0
  s.qBase x w d ok ++
    (if !s.osOk x.l x.c (dDesc w) 64 || !ok || q.gsize == 3 then []
     else
       [(decide (64 < q.p), St.bounds), ((q.wideA (dFA w) :: q.olistA).any fun a => s.badArr x a, St.bounds)] ++
         s.olistChecks x q ++ s.histChecks x q)

/-- The checks of CLEAR. -/
def State.qclearChecks (s : State) (x : Ctx) (w : CmdWord) (d : Nat) : List (Bool × Nat) :=
  let q := QDesc.of d
  s.qBase x w d (dFA w == 0 && dFD w == 0) ++
    (if !s.osOk x.l x.c (dDesc w) 64 || q.gsize == 3 then [] else [(!s.histOk x q, St.bounds)])

/-! ### Reading wide rows -/

/-- Row i of the wide tensor at the vector engine's input port (R44). -/
def State.wideRow (s : State) (x : Ctx) (q : QDesc) (f i : Nat) : List (FV × Nat) :=
  (List.range q.k).map fun k => decIn f (s.elem (osAddr x.c + q.wide + i * q.wideS) f k)

/-- Largest magnitude of a list's members that are not NaN, 0 when there are none (R178, R179). -/
def maxMag (vs : List FV) : FV :=
  vs.foldl (fun m v => if v.isNaN then m else if m.lt (fvMag v) then fvMag v else m) .zero

/-- The members of group c of a row that are not listed channels. -/
def inGroup (g c : Nat) (o : List Nat) (row : List (FV × Nat)) : List FV :=
  (row.zipIdx.filter fun (_, k) => decide (k / g = c) && !o.contains k).map fun (v, _) => v.1

/-- Step maxima of every group column of the tensor (R179). -/
def State.stepMaxima (s : State) (x : Ctx) (q : QDesc) (f : Nat) (o : List Nat) : List FV :=
  (List.range q.ng).map fun c =>
    maxMag ((List.range q.m).map fun i => maxMag (inGroup (groupSize q.gsize) c o (s.wideRow x q f i)))

/-- Base value of column c in HISTORY mode: the window's largest entry, NaN when an entry is NaN (R179). -/
def State.histBase (s : State) (x : Ctx) (q : QDesc) (c : Nat) : FV :=
  let n := min q.win (s.histCount x q)
  let es := (List.range n).map fun j =>
    f32 (s.rdLE (osAddr x.c + q.hist + 16 + 4 * (q.ng * ((s.histNext x q + 7 - j) % 8) + c)) 4)
  match es with
  | [] => .zero
  | e :: t => t.foldl (fun m v => FV.fmax m v) e

/-- The record's update (R179): the entry at NEXT from the step maxima, FP32 patterns; NEXT, COUNT, GSIZE and NG. -/
def State.histUpdate (s : State) (x : Ctx) (q : QDesc) (maxima : List Nat) : State :=
  let h := osAddr x.c + q.hist
  let n := s.histNext x q % 8
  let cnt := s.histCount x q
  let s := maxima.zipIdx.foldl (fun (s : State) (v, c) =>
    (s.wrLE (h + 16 + 4 * (q.ng * n + c)) 4 v).clearPoison (h + 16 + 4 * (q.ng * n + c)) 4) s
  let s := s.wb h (BitVec.ofNat 8 (min (cnt + 1) 8))
  let s := s.wb (h + 1) (BitVec.ofNat 8 ((n + 1) % 8))
  let s := s.wb (h + 2) (BitVec.ofNat 8 q.gsize)
  s.wrLE (h + 4) 4 q.ng

/-- The step maxima as FP32 patterns (R179): every element of a wide format is one. -/
def State.maximaOf (s : State) (x : Ctx) (q : QDesc) (f : Nat) : List Nat :=
  (s.stepMaxima x q f (s.outliers x q)).map fun v => (round32 v).1

/-! ### QNT (R174 to R179) -/

/-- What one row of QNT gives: codes, scales, side values, events, zero-range groups. -/
structure QRow where
  codes : List Nat
  scales : List Nat
  side : List Nat
  ev : Nat
  zeros : Nat
deriving DecidableEq, Repr

/-- Quantise row i; `base` is the HISTORY base of each column, none in DYNAMIC mode. -/
def quantRow (fd : Nat) (q : QDesc) (o : List Nat) (base : Option (List FV)) (i : Nat) (row : List (FV × Nat)) : QRow :=
  let g := groupSize q.gsize
  let m : FV := .fin false (256 + q.margin) (-8)
  let range (c : Nat) : FV :=
    let vs := inGroup g c o row
    if vs.any FV.isNaN then .nan
    else (FV.mul m (match base with
      | none => maxMag vs
      | some bs => bs.getD c .zero)).1
  let ranges := (List.range q.ng).map range
  let scales := ranges.map fun r => groupScale fd q.sfmt r
  let code (k : Nat) (v : FV × Nat) : Nat × Nat :=
    let r := ranges.getD (k / g) .nan
    if o.contains k || r.isNaN || r.isZero then (0, v.2)
    else
      let y := quotient v.1 (scaleVal q.sfmt (scales.getD (k / g) 0))
      let (c, e) := if q.rnd then codeRandom fd (drawOf q.seed (i * q.k + k)) y else codeNearest fd y
      (c, v.2 ||| e)
  let (cs, e1) := gather (row.zipIdx.map fun (v, k) => code k v)
  let (side, e2) := gather (o.map fun k => convTo 6 (row.getD k (.zero, 0)).1)
  let e3 := if ranges.any FV.isNaN then Ev.nanCvt else 0
  ⟨cs, scales, side, e1 ||| e2 ||| e3, (ranges.filter FV.isZero).length⟩

/-- Pack elements of a format into one number, element 0 lowest (R26). -/
def packEls (f : Nat) (vs : List Nat) : Nat := vs.foldr (fun v acc => v % 2 ^ fmtBits f + 2 ^ fmtBits f * acc) 0

/-- Write one row of a quantised tensor. -/
def State.putQRow (s : State) (x : Ctx) (fd : Nat) (q : QDesc) (i : Nat) (r : QRow) : State :=
  let b := osAddr x.c
  let ca := b + q.codes + i * q.codesS
  let sa := b + q.scales + i * q.scalesS
  let ia := b + q.side + i * q.sideS
  let w := scaleBytes q.sfmt
  let s := (s.wrLE ca (elemBytes fd q.k) (packEls fd r.codes)).clearPoison ca (elemBytes fd q.k)
  let s := (s.wrLE sa (w * q.ng) (r.scales.foldr (fun v acc => v + 256 ^ w * acc) 0)).clearPoison sa (w * q.ng)
  if q.p = 0 then s else (s.wrLE ia (2 * q.p) (packEls 6 r.side)).clearPoison ia (2 * q.p)

/-- Set ZERO_RANGE once for each zero-range group (R190). -/
def State.zeroRange (s : State) (x : Ctx) : Nat → State
  | 0 => s
  | n + 1 => State.zeroRange (s.setFlag (Reg.TC_QFLAG x.c) 0 (some x.l)) x n

/-- Row i of the wide tensor is uncorrectable, or the outlier list (R471). -/
def State.wideBad (s : State) (x : Ctx) (q : QDesc) (f i : Nat) : Bool :=
  s.poisoned (osAddr x.c + q.wide + i * q.wideS) (elemBytes f q.k) || (q.p != 0 && s.poisoned (osAddr x.c + q.olist) (2 * q.p))

/-- QNT (R173 to R179), row by row. With COUNT = 0 a HISTORY first sweeps the rows for their maxima (R179, R189), which
`e.passed` remembers; the maxima wait in `e.sel` for the record's update at completion. -/
def State.qntEff (s : State) (x : Ctx) (e : CmdEntry) : State × CmdEntry :=
  let q := QDesc.of e.desc
  let fa := dFA e.w
  let fd := dFD e.w
  let o := s.outliers x q
  let hist := dFunc e.w == 1
  let (s, e) := if e.prog = 0 ∧ hist ∧ s.histCount x q = 0 then (s.setFlag (Reg.TC_QFLAG x.c) 1 (some x.l), { e with passed := true })
    else (s, e)
  let sweep := if e.passed then q.m else 0
  let base : Option (List FV) :=
    if !hist then none
    else if e.passed then some (s.stepMaxima x q fa o)
    else some ((List.range q.ng).map fun c => s.histBase x q c)
  let badHist := hist && s.poisoned (osAddr x.c + q.hist) (16 + 32 * q.ng)
  let (s, e) := s.rows x e (sweep + q.m) fun s i =>
    if badHist || s.wideBad x q fa (i % q.m) then none
    else if i < sweep then some (s, 0)
    else
      let r := quantRow fd q o base (i - sweep) (s.wideRow x q fa (i - sweep))
      some ((s.putQRow x fd q (i - sweep) r).zeroRange x r.zeros, r.ev)
  (s, if e.done && hist then { e with sel := s.maximaOf x q fa } else e)

/-! ### DEQUANT (R182) -/

/-- One element of DEQUANT. -/
def dequantEl (fa fd : Nat) (q : QDesc) (code scale : Nat) (side : Option Nat) : Nat × Nat :=
  match side with
  | some v =>
    let (y, e1) := decIn 6 v
    let (d, e2) := convTo fd y
    (d, e1 ||| e2)
  | none =>
    let (c, e1) := decIn fa code
    let sc := scaleVal q.sfmt scale
    let (p, e2) := FV.mul (if q.mxi8 then c.scale2 (-6) else c) sc
    let (d, e3) := convTo fd p
    (d, e1 ||| e2 ||| e3)

/-- DEQUANT (R182), row by row. -/
def State.dequantEff (s : State) (x : Ctx) (e : CmdEntry) : State × CmdEntry :=
  let q := QDesc.of e.desc
  let fa := dFA e.w
  let fd := dFD e.w
  let o := s.outliers x q
  let w := scaleBytes q.sfmt
  s.rows x e q.m fun s i =>
    let b := osAddr x.c
    let ca := b + q.codes + i * q.codesS
    let sa := b + q.scales + i * q.scalesS
    let ia := b + q.side + i * q.sideS
    if s.poisoned ca (elemBytes fa q.k) || s.poisoned sa (w * q.ng) ||
        (q.p != 0 && (s.poisoned ia (2 * q.p) || s.poisoned (b + q.olist) (2 * q.p))) then none
    else
      let (vs, ev) := gather ((List.range q.k).map fun k =>
        dequantEl fa fd q (s.elem ca fa k) (s.rdLE (sa + w * (k / groupSize q.gsize)) w)
          ((o.idxOf? k).map fun j => s.rdLE (ia + 2 * j) 2))
      let wa := b + q.wide + i * q.wideS
      let nb := elemBytes fd q.k
      some ((s.wrLE wa nb (packEls fd vs)).clearPoison wa nb, ev)

/-! ### RECORD and CLEAR (R183) -/

/-- RECORD, row by row: the record takes the tensor's step maxima at completion. -/
def State.recordEff (s : State) (x : Ctx) (e : CmdEntry) : State × CmdEntry :=
  let q := QDesc.of e.desc
  let fa := dFA e.w
  let (s, e) := s.rows x e q.m fun s i =>
    if s.wideBad x q fa i || s.poisoned (osAddr x.c + q.hist) (16 + 32 * q.ng) then none
    else some (s, (s.wideRow x q fa i).foldl (fun ev v => ev ||| v.2) 0)
  (s, if e.done then { e with sel := s.maximaOf x q fa } else e)

/-- What a command writes only when it completes: the history record of a QNT or RECORD (R148, R179, R183). -/
def State.atCompletion (s : State) (x : Ctx) (e : CmdEntry) : State :=
  if e.st = St.ok ∧ ((cOp e.w = 0x60 ∧ dFunc e.w = 1) ∨ (cOp e.w = 0x62 ∧ dFunc e.w = 0)) then
    s.histUpdate x (QDesc.of e.desc) e.sel
  else s

/-- CLEAR: the header with COUNT 0 and NEXT 0, every entry +0. -/
def State.qclearEff (s : State) (x : Ctx) (e : CmdEntry) : State × CmdEntry :=
  let q := QDesc.of e.desc
  let h := osAddr x.c + q.hist
  let s := s.zero h (16 + 32 * q.ng)
  let s := s.wb (h + 2) (BitVec.ofNat 8 q.gsize)
  let s := s.wrLE (h + 4) 4 q.ng
  (s.clearPoison h (16 + 32 * q.ng), e.finished 0)

/-! ### ATTACH and DETACH (R184) -/

/-- An attachment from its descriptor. -/
def Attach.ofDesc (d : Nat) : Attach :=
  let c := dfield d 0x24 4
  ⟨dfield d 0 4, dfield d 4 4, dfield d 8 4, dfield d 0xC 4, dfield d 0x10 4, dfield d 0x14 4, dfield d 0x18 4,
    dfield d 0x1C 4, dfield d 0x20 4, nbits c 1 0, nbits c 2 2, nbits c 3 3 == 1, nbits c 4 4 == 1, nbits c 5 5 == 1,
    nbits c 6 6 == 1, nbits c 13 7⟩

/-- The checks of ATTACH (R171, R182, R184): the element formats of the later commands are not known here (R49; log 84). -/
def State.attachChecks (s : State) (x : Ctx) (w : CmdWord) (d : Nat) : List (Bool × Nat) :=
  let descOk := s.osOk x.l x.c (dDesc w) 64
  let a := Attach.ofDesc d
  let badStride (v : Nat) := v % 16 != 0 || decide (v < 2 * a.p)
  s.baseChecks x w ++
    [resv w 43 0, (dTbuf w != 0 || dImm w != 0 || dFA w != 0 || dFD w != 0, St.format), (!descOk, St.bounds)] ++
    (if !descOk then []
     else
       [(nbits (dfield d 0x24 4) 31 14 != 0 || dfield d 0x28 24 != 0 || a.gsize == 3, St.format),
        ((a.aMxi8 || a.bMxi8) && a.sfmt != 0, St.format),
        (decide (64 < a.p) || (a.p != 0 && (badStride a.aSideStride || badStride a.bSideStride)), St.bounds)])

/-- The checks of DETACH. -/
def State.detachChecks (s : State) (x : Ctx) (w : CmdWord) : List (Bool × Nat) :=
  s.baseChecks x w ++ [resv w 43 0, (dTbuf w != 0 || dImm w != 0 || dFA w != 0 || dFD w != 0, St.format)]

/-- A slot's attachment is set. -/
def State.setAttach (s : State) (x : Ctx) (a : Attach) : State := s.setSlot x.c x.p x.sl fun t => { t with att := a }

end Sys2Proof.Machine
end

