-- ==== Sys2Proof/Machine/Sip.lean ====
section
/-! DEFINITION. SipHash-2-4 with a 64-bit output, the chain hash of prefix blocks (R247). -/
namespace Sys2Proof

/-- The four words of a SipHash state. -/
structure Sip where
  v0 : BitVec 64
  v1 : BitVec 64
  v2 : BitVec 64
  v3 : BitVec 64
deriving DecidableEq, Repr

/-- One SipRound. -/
def Sip.round (x : Sip) : Sip :=
  let a := x.v0 + x.v1
  let b := x.v1.rotateLeft 13 ^^^ a
  let a := a.rotateLeft 32
  let c := x.v2 + x.v3
  let d := x.v3.rotateLeft 16 ^^^ c
  let a := a + d
  let d := d.rotateLeft 21 ^^^ a
  let c := c + b
  let b := b.rotateLeft 17 ^^^ c
  ⟨a, b, c.rotateLeft 32, d⟩

/-- Absorb one message word with two rounds. -/
def Sip.absorb (x : Sip) (m : BitVec 64) : Sip :=
  let y := ({ x with v3 := x.v3 ^^^ m } : Sip).round.round
  { y with v0 := y.v0 ^^^ m }

/-- SipHash-2-4 of a message whose length is a multiple of 8 bytes, given as its 64-bit little-endian words. -/
def sipHash (key : Nat) (ws : List Nat) : Nat :=
  let k0 : BitVec 64 := BitVec.ofNat 64 key
  let k1 : BitVec 64 := BitVec.ofNat 64 (key / 2 ^ 64)
  let x0 : Sip := ⟨k0 ^^^ 0x736f6d6570736575, k1 ^^^ 0x646f72616e646f6d, k0 ^^^ 0x6c7967656e657261,
    k1 ^^^ 0x7465646279746573⟩
  let x := ws.foldl (fun x w => x.absorb (BitVec.ofNat 64 w)) x0
  let x := x.absorb (BitVec.ofNat 64 (8 * ws.length % 256 * 2 ^ 56))
  let x := ({ x with v2 := x.v2 ^^^ 0xff } : Sip).round.round.round.round
  (x.v0 ^^^ x.v1 ^^^ x.v2 ^^^ x.v3).toNat

end Sys2Proof
end

