-- ==== Sys2Proof/Machine/Kv.lean ====
section
/-! DEFINITION. KV pools and the page manager (spec/07, R225 to R235, R247 to R254): a pool's control record, page
descriptors, summaries, sequence records and page tables lie byte for byte in memory; the functions below read and
write them. -/
namespace Sys2Proof.Machine
open Sys2Proof

/-! ### A pool -/

/-- A pool's handle and configuration (R228). -/
structure Kv where
  l : Nat
  pool : Nat
  /-- device address of the control record -/
  m : Nat
  fmt : Nat
  hd : Nat
  h : Nat
  links : Nat
  slotReg : Nat
  metaReg : Nat
  spillReg : Nat
  slotOff : Nat
  nslot : Nat
  npage : Nat
  nseq : Nat
  lwm : Nat
  ptb : Nat
  nframe : Nat
  spillOff : Nat
  pfxMax : Nat
  salt : Nat
deriving DecidableEq, Repr

/-- A configuration record as one number, read as a pool. -/
def Kv.ofRecord (l pool m d : Nat) : Kv :=
  ⟨l, pool, m, dfield d 0 1, 32 * dfield d 1 1, dfield d 2 1, dfield d 3 1, dfield d 4 1, dfield d 5 1, dfield d 6 1,
    dfield d 8 4, dfield d 0xC 4, dfield d 0x10 4, dfield d 0x14 2, dfield d 0x16 2, dfield d 0x18 4, dfield d 0x1C 4,
    dfield d 0x20 4, dfield d 0x24 4, dfield d 0x28 8⟩

/-- The pool record of a lodging. -/
def State.kvPool (s : State) (l p : Nat) : KvPool := tget (fun _ => KvPool.none) s.kv (4 * l + p)
/-- The pool, by the software fields that POOL read (R228). -/
def State.kvOf (s : State) (l p : Nat) : Kv :=
  let k := s.kvPool l p
  Kv.ofRecord l p k.meta_ k.cfg

/-- Bytes of a page, of a slot, and tier frames of a spilled page (R225). -/
def Kv.pageBytes (P : Kv) : Nat := P.hd * (if P.fmt = 6 then 256 else if P.fmt = 4 then 128 else 136)
def Kv.slotBytes (P : Kv) : Nat := 1024 * cdiv P.pageBytes 1024
def Kv.frames (P : Kv) : Nat := cdiv P.slotBytes 4096
/-- Element bytes (R226). -/
def Kv.eb (P : Kv) : Nat := if P.fmt = 6 then 2 else 1

/-- Round up to a multiple of 64. -/
def up64 (x : Nat) : Nat := 64 * cdiv x 64

/-- Where the structures lie (R228): page descriptors, summaries, sequence records, page tables, end. -/
def Kv.descA (P : Kv) (i : Nat) : Nat := P.m + 0x100 + 16 * i
def Kv.sumBase (P : Kv) : Nat := up64 (0x100 + 16 * P.npage)
def Kv.sumA (P : Kv) (i : Nat) : Nat := P.m + P.sumBase + 2 * P.hd * i
def Kv.seqBase (P : Kv) : Nat := up64 (P.sumBase + 2 * P.hd * P.npage)
def Kv.seqA (P : Kv) (q : Nat) : Nat := P.m + P.seqBase + 64 * q
def Kv.ptBase (P : Kv) : Nat := up64 (P.seqBase + 64 * P.nseq)
def Kv.ptA (P : Kv) (q b : Nat) : Nat := P.m + P.ptBase + 4 * (P.ptb * q + b)
def Kv.metaEnd (P : Kv) : Nat := P.ptBase + 4 * P.ptb * P.nseq

/-- Control-record counters (R228). -/
def State.kvGet (s : State) (P : Kv) (o : Nat) : Nat := s.rdLE (P.m + o) 4
def State.kvSet (s : State) (P : Kv) (o v : Nat) : State := s.wrLE (P.m + o) 4 v
def State.kvAdd (s : State) (P : Kv) (o n : Nat) : State := s.kvSet P o (s.kvGet P o + n)
/-- The step counter. -/
def State.kvStep (s : State) (P : Kv) : Nat := s.kvGet P 0x38

/-! ### Page descriptors (R230) -/

/-- A page descriptor. -/
structure PageD where
  st : Nat
  pin : Bool
  fill : Nat
  refs : Nat
  touch : Nat
  slot : Nat
  unit : Nat
deriving DecidableEq, Repr

/-- No slot, no unit. -/
def nil32 : Nat := 0xFFFFFFFF
/-- A FREE page's descriptor. -/
def PageD.free : PageD := ⟨0, false, 0, 0, 0, nil32, nil32⟩

/-- Read a page's descriptor. -/
def State.page (s : State) (P : Kv) (i : Nat) : PageD :=
  let d := s.rdLE (P.descA i) 16
  ⟨nbits d 1 0, d.testBit 2, nbits d 9 3, nbits d 31 16, nbits d 63 32, nbits d 95 64, nbits d 127 96⟩

/-- Write a page's descriptor. -/
def State.setPage (s : State) (P : Kv) (i : Nat) (d : PageD) : State :=
  s.wrLE (P.descA i) 16
    (d.st + (if d.pin then 4 else 0) + 8 * d.fill + 2 ^ 16 * (d.refs % 2 ^ 16) + 2 ^ 32 * (d.touch % 2 ^ 32) +
      2 ^ 64 * d.slot + 2 ^ 96 * d.unit)

/-- Change a page's descriptor. -/
def State.modPage (s : State) (P : Kv) (i : Nat) (f : PageD → PageD) : State := s.setPage P i (f (s.page P i))

/-- Device address of a slot and of a spill unit. -/
def State.slotAddr (s : State) (P : Kv) (k : Nat) : Nat := (s.region P.l P.slotReg).base + P.slotOff + k * P.slotBytes
def State.unitAddr (s : State) (P : Kv) (u : Nat) : Nat :=
  (s.region P.l P.spillReg).base + P.spillOff + u * P.frames * 4096
/-- Spill units of the pool. -/
def Kv.units (P : Kv) : Nat := if P.spillReg = 0xFF then 0 else P.nframe / P.frames

/-- The page-manager moves of a pool. -/
def State.kvMovesOf (s : State) (P : Kv) : List KvMove := s.kvMoves.filter fun m => m.l == P.l && m.pool == P.pool

/-- The transfer use of a page (R235). -/
def State.xferOf (s : State) (P : Kv) (i : Nat) : Option KvXfer :=
  s.kvXfer.find? fun u => u.l == P.l && u.pool == P.pool && u.page == i
/-- Change the transfer use of a page. -/
def State.modXfer (s : State) (P : Kv) (i : Nat) (f : KvXfer → KvXfer) : State :=
  { s with kvXfer := s.kvXfer.map fun u => if u.l == P.l && u.pool == P.pool && u.page == i then f u else u }
/-- A spill, fetch or prefetch of a page. -/
def KvMove.of (m : KvMove) (P : Kv) (i : Nat) : Bool := m.l == P.l && m.pool == P.pool && m.page == i

/-- A slot is free: no page holds it and no transfer lands in it. -/
def State.slotFree (s : State) (P : Kv) (k : Nat) : Bool :=
  !((List.range P.npage).any fun i =>
      let d := s.page P i
      (d.st == 1 || d.st == 3) && d.slot == k) && !s.landing.contains (s.slotAddr P k)

/-- A spill unit is free: no page, no page in transfer, no move and no landing transfer holds it. -/
def State.unitFree (s : State) (P : Kv) (u : Nat) : Bool :=
  !((List.range P.npage).any fun i =>
      let d := s.page P i
      d.st == 2 && d.unit == u) &&
    !(s.kvXfer.any fun x => x.l == P.l && x.pool == P.pool && x.st == 2 && x.unit == u) &&
    !((s.kvMovesOf P).any fun m => m.unit == u && (m.kind == .spill || (m.started && !m.taken))) &&
    !s.landing.contains (s.unitAddr P u)

/-! ### Sequences (R231) -/

/-- A byte or word of a sequence record. -/
def State.seqB (s : State) (P : Kv) (q o : Nat) : Nat := (s.rb (P.seqA q + o)).toNat
def State.seqW (s : State) (P : Kv) (q o : Nat) : Nat := s.rdLE (P.seqA q + o) 4
def State.setSeqB (s : State) (P : Kv) (q o v : Nat) : State := s.wb (P.seqA q + o) (BitVec.ofNat 8 v)
def State.setSeqW (s : State) (P : Kv) (q o v : Nat) : State := s.wrLE (P.seqA q + o) 4 v

def State.seqState (s : State) (P : Kv) (q : Nat) : Nat := s.seqB P q 0
def State.seqLen (s : State) (P : Kv) (q : Nat) : Nat := s.seqW P q 4
def State.seqCap (s : State) (P : Kv) (q : Nat) : Nat := s.seqW P q 8
def State.seqHash (s : State) (P : Kv) (q : Nat) : Nat := s.rdLE (P.seqA q + 0x20) 8

/-- Group number of block b of a sequence. -/
def State.ptEntry (s : State) (P : Kv) (q b : Nat) : Nat := s.rdLE (P.ptA q b) 4
def State.setPt (s : State) (P : Kv) (q b g : Nat) : State := s.wrLE (P.ptA q b) 4 g
/-- Groups a sequence holds. -/
def State.heldGroups (s : State) (P : Kv) (q : Nat) : Nat := s.seqCap P q / 64

/-- Sequences in a state, in ascending SEQ. -/
def State.seqsIn (s : State) (P : Kv) (st : Nat) : List Nat := (List.range P.nseq).filter fun q => s.seqState P q == st

/-- Insertion into a list sorted by a key, after equal keys. -/
def insBy (f : Nat → Nat) (x : Nat) : List Nat → List Nat
  | [] => [x]
  | y :: t => if f x < f y then x :: y :: t else y :: insBy f x t
/-- Sort by a key. -/
def sortBy (f : Nat → Nat) (l : List Nat) : List Nat := l.foldl (fun acc x => insBy f x acc) []

/-- Groups set aside by the pool's sequences (R237). -/
def State.asides (s : State) (P : Kv) : Nat := (List.range P.nseq).foldl (fun n q => n + s.seqW P q 0x2C) 0

/-- Free slots that may be taken: set-aside ones apart. -/
def State.freeSlots (s : State) (P : Kv) : Nat :=
  ((List.range P.nslot).filter fun k => s.slotFree P k).length - P.h * s.asides P
/-- Free spill units. -/
def State.freeUnits (s : State) (P : Kv) : Nat := ((List.range P.units).filter fun u => s.unitFree P u).length
/-- Slots whose spill is in flight and which nothing has taken. -/
def State.spilling (s : State) (P : Kv) : Nat := ((s.kvMovesOf P).filter fun m => m.kind == .spill && !m.taken).length
/-- Pinned pages. -/
def State.pinned (s : State) (P : Kv) : Nat := ((List.range P.npage).filter fun i => (s.page P i).pin).length

/-- Write FREE, FREE_UNITS and PINNED. -/
def State.kvSync (s : State) (P : Kv) : State :=
  ((s.kvSet P 0x3C (s.freeSlots P)).kvSet P 0x40 (s.freeUnits P)).kvSet P 0x44 (s.pinned P)

/-! ### Commands that use pages (R232, R234, R235) -/

/-- Fields of a KVAPP or PFX descriptor. -/
structure KvDesc where
  pool : Nat
  seq : Nat
  seq2 : Nat
  addr : Nat
  stride : Nat
  addr2 : Nat
  count : Nat
  count2 : Nat
  match_ : Bool
deriving DecidableEq, Repr

/-- Read a descriptor. -/
def KvDesc.of (d : Nat) : KvDesc :=
  ⟨dfield d 0 1 % 4, dfield d 2 2, dfield d 4 2, dfield d 8 4, dfield d 0xC 4, dfield d 0x10 4, dfield d 0x14 4,
    dfield d 0x18 4, dfield d 0x1C 4 % 2 == 1⟩

/-- First page of a group. -/
def Kv.pg (P : Kv) (g hh : Nat) : Nat := g * P.h + hh

/-- The pages of blocks b to b + n − 1 of a sequence. -/
def State.blockPages (s : State) (P : Kv) (q b n : Nat) : List Nat :=
  ((List.range n).filter fun i => decide (b + i < s.heldGroups P q)).flatMap fun i =>
    (List.range P.h).map fun hh => P.pg (s.ptEntry P q (b + i)) hh

/-- The pages an APPEND writes. -/
def State.appendPages (s : State) (P : Kv) (k : KvDesc) : List Nat :=
  let len := s.seqLen P k.seq
  s.blockPages P k.seq (len / 64) ((len + k.count - 1) / 64 + 1 - len / 64)

/-- In-flight commands of every slot of a lodging, and the functions a teardown left to complete. -/
def State.ldgEntries (s : State) (l : Nat) : List CmdEntry :=
  (s.tc.flatMap fun (_, t) => (t.slots.filter fun (_, u) => u.ldg == l).flatMap fun (_, u) => u.inflight) ++
    (s.kvRest.filter fun r => r.l == l).map fun r => r.e

/-- The entry is an APPEND, or a STEP, of a pool. -/
def CmdEntry.isAppend (e : CmdEntry) (pool : Nat) : Bool := cOp e.w == 0x71 && dFunc e.w == 4 && (KvDesc.of e.desc).pool == pool
def CmdEntry.isStep (e : CmdEntry) (pool : Nat) : Bool := cOp e.w == 0x71 && dFunc e.w == 3 && (KvDesc.of e.desc).pool == pool

/-- Pages that APPENDs are writing: some of their tokens are written (R235). -/
def State.appending (s : State) (P : Kv) : List Nat :=
  ((s.ldgEntries P.l).filter fun e => e.isAppend P.pool && !e.done && e.prog != 0).flatMap fun e =>
    s.appendPages P (KvDesc.of e.desc)

/-! ### The prefix table (R247 to R249) -/

/-- Base of the hall system area (R199) and of the prefix table in it (R248). -/
def State.sysBase (s : State) : Nat := hallAddr + 0x2000000 - 0x10000 * s.gf Reg.MEM_HALL_SYS Fld.MEM_HALL_SYS_GRANULES
/-- The system area holds a prefix table. -/
def State.hasPfx (s : State) : Bool := decide (16 ≤ s.gf Reg.MEM_HALL_SYS Fld.MEM_HALL_SYS_GRANULES)
/-- Address of entry j. -/
def State.pfxA (s : State) (j : Nat) : Nat := s.sysBase + 16 * j
/-- The VALID entries, by number: byte 11 of a VALID entry is not 0. -/
def State.pfxValid (s : State) : List Nat :=
  if !s.hasPfx then []
  else (s.mem.filter fun c => decide (s.sysBase ≤ c.1) && decide (c.1 < s.sysBase + 0x100000) &&
    (c.1 - s.sysBase) % 16 == 11 && c.2.toNat.testBit 7).map fun c => (c.1 - s.sysBase) / 16
/-- HASH and GROUP of an entry. -/
def State.pfxHash (s : State) (j : Nat) : Nat := s.rdLE (s.pfxA j) 8
def State.pfxGroup (s : State) (j : Nat) : Nat := s.rdLE (s.pfxA j + 8) 4
/-- GROUP word of a group of a pool. -/
def Kv.pfxWord (P : Kv) (g : Nat) : Nat := g + 2 ^ 22 * P.pool + 2 ^ 24 * P.l + 2 ^ 31
/-- The entry belongs to the pool. -/
def State.pfxMine (s : State) (P : Kv) (j : Nat) : Bool :=
  nbits (s.pfxGroup j) 23 22 == P.pool && nbits (s.pfxGroup j) 27 24 == P.l
/-- The entries of a group: several when sharers published it under several hashes (R249). -/
def State.pfxOf (s : State) (P : Kv) (g : Nat) : List Nat := s.pfxValid.filter fun j => s.pfxGroup j == P.pfxWord g
/-- Remove an entry. -/
def State.pfxDrop (s : State) (j : Nat) : State := s.zero (s.pfxA j) 16
/-- Remove every entry of a pool. -/
def State.pfxDropPool (s : State) (P : Kv) : State :=
  (s.pfxValid.filter fun j => s.pfxMine P j).foldl (fun s j => s.pfxDrop j) s
/-- Remove every entry of a lodging (R247). -/
def State.pfxDropLodging (s : State) (l : Nat) : State :=
  (s.pfxValid.filter fun j => nbits (s.pfxGroup j) 27 24 == l).foldl (fun s j => s.pfxDrop j) s

/-! ### Groups (R229, R249) -/

/-- REFS of a group. -/
def State.refs (s : State) (P : Kv) (g : Nat) : Nat := (s.page P (P.pg g 0)).refs
/-- Set REFS of a group, and of its prefix entries (R248). -/
def State.setRefs (s : State) (P : Kv) (g n : Nat) : State :=
  let s := (List.range P.h).foldl (fun s i => s.modPage P (P.pg g i) fun d => { d with refs := n }) s
  (s.pfxOf P g).foldl (fun s j => s.wrLE (s.pfxA j + 12) 2 n) s
/-- Free a page: at once, or when the transfer, spill or fetch that uses it ends (R235). -/
def State.freePage (s : State) (P : Kv) (i : Nat) : State :=
  if (s.xferOf P i).isSome then s.modXfer P i fun u => { u with dead := true }
  else if s.kvMoves.any fun m => m.of P i && m.started then
    { s with kvMoves := s.kvMoves.map fun m => if m.of P i then { m with dead := true } else m }
  else { s.setPage P i PageD.free with kvMoves := s.kvMoves.filter fun m => !m.of P i }
/-- Free a group: its pages, their slots and units, and its entries. -/
def State.freeGroup (s : State) (P : Kv) (g : Nat) : State :=
  let s := (List.range P.h).foldl (fun s i => s.freePage P (P.pg g i)) s
  (s.pfxOf P g).foldl (fun s j => s.pfxDrop j) s
/-- Release one reference: at 0 a group with an entry is retained, another is freed. -/
def State.releaseGroup (s : State) (P : Kv) (g : Nat) : State :=
  let n := s.refs P g - 1
  let s := s.setRefs P g n
  if n = 0 ∧ s.pfxOf P g = [] then s.freeGroup P g else s

/-- A retained group: allocated, REFS 0, with an entry (R249). -/
def State.retained (s : State) (P : Kv) (g : Nat) : Bool :=
  (s.page P (P.pg g 0)).st != 0 && s.refs P g == 0 && s.pfxOf P g != []
/-- Free a retained group, counted in RECLAIMS (R228). -/
def State.reclaim (s : State) (P : Kv) (g : Nat) : State := (s.freeGroup P g).kvAdd P 0x6C 1
/-- The retained groups. -/
def State.retainedGroups (s : State) (P : Kv) : List Nat := (List.range (P.npage / P.h)).filter fun g => s.retained P g
/-- Last use of a group: the latest TOUCH of its pages. -/
def State.groupTouch (s : State) (P : Kv) (g : Nat) : Nat :=
  (List.range P.h).foldl (fun n i => max n (s.page P (P.pg g i)).touch) 0
/-- RESIDENT pages of a group. -/
def State.residentIn (s : State) (P : Kv) (g : Nat) : Nat :=
  ((List.range P.h).filter fun i => (s.page P (P.pg g i)).st == 1).length

/-! ### Spill and fetch (R250 to R253) -/

/-- A unit of 64 bytes lands, an uncorrectable one as it was read. -/
def State.landUnit (s : State) (l dst v raw : Nat) (bad : Bool) : State :=
  if bad then (s.put l dst 64 raw).addPoison dst 64 else s.put l dst 64 v

/-- Copy n units of 64 bytes for a lodging, uncorrectable ones as they are. -/
def State.copyUnits (s : State) (l dst src n : Nat) : State :=
  (List.range n).foldl (fun s i =>
    let (s, v, bad) := s.getUnit l (src + 64 * i)
    s.landUnit l (dst + 64 * i) v (s.rdLE (src + 64 * i) 64) bad) s

/-- Exchange n units of 64 bytes between two places. -/
def State.swapUnits (s : State) (l a b n : Nat) : State :=
  (List.range n).foldl (fun s i =>
    let ra := s.rdLE (a + 64 * i) 64
    let rb := s.rdLE (b + 64 * i) 64
    let (s, va, ba) := s.getUnit l (a + 64 * i)
    let (s, vb, bb) := s.getUnit l (b + 64 * i)
    (s.landUnit l (b + 64 * i) va ra ba).landUnit l (a + 64 * i) vb rb bb) s

/-- The page to spill next: RESIDENT, not pinned, not in use by an APPEND (R235), lowest TOUCH, then lowest number. -/
def State.victim (s : State) (P : Kv) : Option Nat :=
  let busy := s.appending P
  (List.range P.npage).foldl (fun best i =>
    let d := s.page P i
    if d.st != 1 || d.pin || busy.contains i then best
    else match best with
      | none => some i
      | some j => if d.touch < (s.page P j).touch then some i else some j) none

/-- A spill unit to write: the lowest free one, else one a fetch is vacating. -/
def State.takeUnit (s : State) (P : Kv) : Option (State × Nat) :=
  match (List.range P.units).find? fun u => s.unitFree P u with
  | some u => some (s, u)
  | none =>
    match (s.kvMovesOf P).find? fun m => m.kind != .spill && m.started && !m.taken with
    | some f => some ({ s with kvMoves := s.kvMoves.map fun m => if m == f then { m with taken := true } else m }, f.unit)
    | none => none

/-- Spill one page: it becomes MOVING and its bytes go to the unit; none when nothing can be spilled. -/
def State.spillOne (s : State) (P : Kv) : Option State :=
  match s.victim P with
  | none => none
  | some i =>
    match s.takeUnit P with
    | none => none
    | some (s, u) =>
      let d := s.page P i
      let s := s.copyUnits P.l (s.unitAddr P u) (s.slotAddr P d.slot) (P.slotBytes / 64)
      let s := s.setPage P i { d with st := 3 }
      some { s with kvMoves := s.kvMoves ++ [⟨P.l, P.pool, i, .spill, u, true, false, 64 * P.frames, 0, false⟩] }

/-- Free the retained group with the lowest TOUCH that holds a slot (R249). -/
def State.reclaimOne (s : State) (P : Kv) : Option State :=
  let gs := (s.retainedGroups P).filter fun g => decide (0 < s.residentIn P g)
  match sortBy (fun g => s.groupTouch P g) gs with
  | [] => none
  | g :: _ => some (s.reclaim P g)

/-- Reclaim, then spill, until n slots are free or being freed; `fuel` bounds the pages. -/
def State.makeRoom (s : State) (P : Kv) (n : Nat) : Nat → State
  | 0 => s
  | fuel + 1 =>
    if n ≤ s.freeSlots P + s.spilling P then s
    else match s.reclaimOne P with
      | some s' => State.makeRoom s' P n fuel
      | none => match s.spillOne P with
        | some s' => State.makeRoom s' P n fuel
        | none => s

/-- After an allocation: spill until FREE, in-flight spills counted, is at least LWM (R250). -/
def State.keepLwm (s : State) (P : Kv) : State := s.makeRoom P P.lwm P.nslot

/-- Take a slot: the lowest free one, else the slot of the oldest spill in flight. -/
def State.allocSlot (s : State) (P : Kv) : Option (State × Nat) :=
  match (List.range P.nslot).find? fun k => s.slotFree P k with
  | some k => some (s, k)
  | none =>
    match (s.kvMovesOf P).find? fun m => m.kind == .spill && !m.taken with
    | some f => some ({ s with kvMoves := s.kvMoves.map fun m => if m == f then { m with taken := true } else m },
        (s.page P f.page).slot)
    | none => none

/-- Allocate a page into a slot: every byte 0, its summary +0 (R226, R227). -/
def State.allocPage (s : State) (P : Kv) (i : Nat) : Option State :=
  match s.allocSlot P with
  | none => none
  | some (s, k) =>
    let a := s.slotAddr P k
    let s := ((s.zero a P.slotBytes).clearPoison a P.slotBytes).zero (P.sumA i) (2 * P.hd)
    some (s.setPage P i ⟨1, false, 0, 1, s.kvStep P, k, nil32⟩)

/-- Allocate the lowest free group (R229). -/
def State.allocGroup (s : State) (P : Kv) : Option (State × Nat) :=
  match (List.range (P.npage / P.h)).find? fun g => (List.range P.h).all fun i => (s.page P (P.pg g i)).st == 0 with
  | none => none
  | some g =>
    (List.range P.h).foldl (fun (o : Option (State × Nat)) i =>
      match o with
      | none => none
      | some (s, g) => (s.allocPage P (P.pg g i)).map fun s => (s, g)) (some (s, g))

/-- Give a sequence up to n more groups. -/
def State.allocFor (s : State) (P : Kv) (q : Nat) : Nat → State
  | 0 => s
  | n + 1 =>
    let b := s.heldGroups P q
    if P.ptb ≤ b then s
    else match s.allocGroup P with
      | none => s
      | some (s, g) => State.allocFor ((s.setPt P q b g).setSeqW P q 8 (64 * (b + 1))) P q n

/-- Ask for a page: a SPILLED page with no fetch gets one; a prefetch on the way is hastened by a demand (R251). -/
def State.askPage (s : State) (P : Kv) (i : Nat) (k : KvKind) : State :=
  let d := s.page P i
  let has := s.kvMoves.any fun m => m.l == P.l && m.pool == P.pool && m.page == i
  if has then
    if k = .fetch then
      { s with kvMoves := s.kvMoves.map fun m =>
        if m.l == P.l && m.pool == P.pool && m.page == i && m.kind == .prefetch then { m with kind := .fetch } else m }
    else s
  else if d.st = 2 then
    { s with kvMoves := s.kvMoves ++ [⟨P.l, P.pool, i, k, d.unit, false, false, 64 * P.frames, 0, false⟩] }
  else s

/-- With no slot and no spill unit free, the page a fetch brings back and the next victim change places: the spill takes the
unit the fetch vacates, the fetch the slot the spill gives up (R250). -/
def State.exchange (s : State) (P : Kv) (m : KvMove) : State :=
  match s.victim P with
  | none => s
  | some v =>
    let dv := s.page P v
    let s := s.swapUnits P.l (s.slotAddr P dv.slot) (s.unitAddr P m.unit) (P.slotBytes / 64)
    let s := s.setPage P v { dv with st := 3 }
    let s := s.modPage P m.page fun d => { d with st := 3, slot := dv.slot, unit := nil32, touch := s.kvStep P }
    { s with
      kvMoves := (s.kvMoves.map fun n => if n == m then { n with started := true, taken := true } else n) ++
        [⟨P.l, P.pool, v, .spill, m.unit, true, true, 64 * P.frames, 0, false⟩] }

/-- Start one waiting fetch or prefetch of a SPILLED page that finds a slot: its bytes go to the lowest free slot (R250, R252). -/
def State.startFetch (s : State) (P : Kv) (m : KvMove) : State :=
  if (s.page P m.page).st != 2 then s else
  let s := if m.kind = .fetch ∧ s.freeSlots P = 0 ∧ s.spilling P = 0 then s.makeRoom P 1 P.nslot else s
  if m.kind = .fetch ∧ s.freeSlots P = 0 ∧ s.spilling P = 0 ∧ s.freeUnits P = 0 ∧ P.spillReg ≠ 0xFF then s.exchange P m else
  let ok := match m.kind with
    | .fetch => decide (0 < s.freeSlots P)
    | .prefetch => decide (P.lwm < s.freeSlots P)
    | .spill => false
  if !ok then s
  else
    match (List.range P.nslot).find? fun k => s.slotFree P k with
    | none => s
    | some k =>
      let d := s.page P m.page
      let s := s.copyUnits P.l (s.slotAddr P k) (s.unitAddr P m.unit) (P.slotBytes / 64)
      let s := s.setPage P m.page
        { d with st := 3, slot := k, unit := nil32, touch := if m.kind = .fetch then s.kvStep P else d.touch }
      let s := { s with kvMoves := s.kvMoves.map fun n => if n == m then { n with started := true } else n }
      s.keepLwm P

/-- Start the waiting fetches of a pool, demand fetches first. -/
def State.kvPump (s : State) (P : Kv) : State :=
  let w (s : State) (k : KvKind) := (s.kvMovesOf P).filter fun m => m.kind == k && !m.started
  let s := (w s .fetch).foldl (fun s m => s.startFetch P m) s
  let s := (w s .prefetch).foldl (fun s m => s.startFetch P m) s
  s.kvSync P

/-- The next unit the page-manager queue of a lodging would have admitted: demand fetches, prefetches, spills (R251). -/
def State.kvNext (s : State) (l : Nat) : Option KvMove :=
  let w (k : KvKind) := s.kvMoves.find? fun m => m.l == l && m.kind == k && m.started && decide (m.done < m.units)
  match w .fetch with
  | some m => some m
  | none => match w .prefetch with
    | some m => some m
    | none => w .spill

/-- Regulator classes of a page-manager move (R251). -/
def KvMove.classes (m : KvMove) : Nat := if m.kind == .spill then 2 else 1

/-- Admit one unit of the page-manager queue; none when it has nothing to move or no token (R216). -/
def State.kvAdmit (s : State) (l : Nat) : Option State :=
  match s.kvNext l with
  | none => none
  | some m =>
    if s.affords l m.classes then
      some { s.pay l m.classes with kvMoves := s.kvMoves.map fun n => if n == m then { n with done := n.done + 1 } else n }
    else none

/-- A spill or fetch has put a page in its place: a transfer that uses the page goes on from there, a page released meanwhile
is freed, any other shows the place (R235, R250). -/
def State.pagePlaced (s : State) (P : Kv) (m : KvMove) (st slot unit : Nat) : State :=
  let s := { s with kvMoves := s.kvMoves.filter fun n => n != m }
  if (s.xferOf P m.page).isSome then
    (s.modPage P m.page fun d => { d with slot := slot }).modXfer P m.page fun u => { u with st := st, slot := slot, unit := unit }
  else if m.dead then s.setPage P m.page PageD.free
  else s.modPage P m.page fun d => { d with st := st, slot := slot, unit := unit }

/-- SPILL_COMPLETE of a page (R250): it is SPILLED in its unit and its slot is free, unless a new page has it. -/
def State.spillDone (s : State) (P : Kv) (m : KvMove) : State :=
  ((s.pagePlaced P m 2 nil32 m.unit).kvAdd P 0x48 1).kvPump P

/-- FETCH_COMPLETE of a page (R250, R253): it is RESIDENT. A prefetch counts in PREFETCHES; one that was an exchange counts in
FETCHES too, as every exchange does (R250; log 82). -/
def State.fetchDone (s : State) (P : Kv) (m : KvMove) : State :=
  let s := s.pagePlaced P m 1 (s.page P m.page).slot nil32
  let s := if m.kind = .fetch ∨ m.taken then s.kvAdd P 0x4C 1 else s
  (if m.kind = .prefetch then s.kvAdd P 0x50 1 else s).kvPump P

/-! ### Rooms and the step boundary (R254) -/

/-- room() of R254. -/
def State.room (s : State) (P : Kv) : Nat :=
  let rec_ := (s.retainedGroups P).foldl (fun n g => n + s.residentIn P g) 0
  let sp := ((List.range P.npage).filter fun i =>
    let d := s.page P i
    d.st == 1 && !d.pin && !(s.retained P (i / P.h))).length
  s.freeSlots P + rec_ + min sp (s.freeUnits P)

/-- need[s] of R254. -/
def State.need (s : State) (P : Kv) (q : Nat) : Nat :=
  P.h * (cdiv (s.seqLen P q + s.seqW P q 0xC) 64 - s.seqCap P q / 64)

/-- The groups a sequence's table names. -/
def State.groupsOf (s : State) (P : Kv) (q : Nat) : List Nat :=
  (List.range (s.heldGroups P q)).map fun b => s.ptEntry P q b

/-- Set-aside slots return when a sequence's last block is no shared partial block any more (R237). -/
def State.fixAsides (s : State) (P : Kv) : State :=
  (List.range P.nseq).foldl (fun s q =>
    let len := s.seqLen P q
    if s.seqW P q 0x2C != 0 && (len % 64 == 0 || decide (s.refs P (s.ptEntry P q (len / 64)) ≤ 1)) then s.setSeqW P q 0x2C 0
    else s) s

/-- Release every group of a sequence and make its record NONE. -/
def State.leaveSeq (s : State) (P : Kv) (q : Nat) : State :=
  let gs := s.groupsOf P q
  let s := gs.foldl (fun s g => s.releaseGroup P g) s
  let s := (List.range gs.length).foldl (fun s b => s.setPt P q b nil32) s
  s.zero (P.seqA q) 64

/-- An entry of the step record: SEQ, status, event (R255). -/
def stepEntry (q st ev : Nat) : Nat := q + 2 ^ 16 * st + 2 ^ 24 * ev

/-- Step 2: pause the latest admitted until the need fits; `fuel` bounds the sequences. -/
def State.pauseLoop (s : State) (P : Kv) : Nat → List Nat → List Nat → State × List Nat × List Nat
  | 0, rec_, paused => (s, rec_, paused)
  | fuel + 1, rec_, paused =>
    let act := s.seqsIn P 2
    let total := act.foldl (fun n q => n + s.need P q) 0
    if total ≤ s.room P then (s, rec_, paused)
    else match (sortBy (fun q => s.seqW P q 0x18) act).reverse with
      | [] => (s, rec_, paused)
      | q :: _ =>
        State.pauseLoop ((s.setSeqB P q 0 3).kvAdd P 0x5C 1) P fuel (rec_ ++ [stepEntry q St.paused 1]) (paused ++ [q])

/-- Resume PAUSED sequences while they fit. -/
def State.resumeLoop (s : State) (P : Kv) : List Nat → List Nat → State × List Nat
  | [], rec_ => (s, rec_)
  | q :: qs, rec_ =>
    let n := s.need P q
    if s.room P < n then (s, rec_)
    else
      let s := (s.makeRoom P n P.nslot).allocFor P q (n / P.h)
      State.resumeLoop (s.setSeqB P q 0 2) P qs (rec_ ++ [stepEntry q St.ok 2])

/-- Admit QUEUED sequences while they fit; the first that does not defers itself and every later one. -/
def State.joinLoop (s : State) (P : Kv) : List Nat → List Nat → State × List Nat
  | [], rec_ => (s, rec_)
  | q :: qs, rec_ =>
    let n := P.h * (cdiv (s.seqW P q 0x10) 64 - s.seqW P q 0x14)
    if s.room P < n then
      (q :: qs).foldl (fun (r : State × List Nat) q =>
        ((r.1.setSeqB P q 1 1).kvAdd P 0x58 1, r.2 ++ [stepEntry q St.deferred 4])) (s, rec_)
    else
      let s := (s.makeRoom P n P.nslot).allocFor P q (n / P.h)
      let kp := s.kvPool P.l P.pool
      let s := { s with kv := tput (fun _ => KvPool.none) s.kv (4 * P.l + P.pool) { kp with order := kp.order + 1 } }
      let s := (s.setSeqW P q 4 (64 * s.seqW P q 0x14)).setSeqW P q 0xC 1
      let s := (s.setSeqW P q 0x18 kp.order).setSeqB P q 1 0
      State.joinLoop (s.setSeqB P q 0 2) P qs (rec_ ++ [stepEntry q St.ok 3])

/-- The step boundary (R254): the new state and the entries of its record. -/
def State.runStep (s : State) (P : Kv) : State × List Nat :=
  let s := s.kvAdd P 0x38 1
  let gone := s.seqsIn P 4
  let s := gone.foldl (fun s q => s.leaveSeq P q) s
  let s := s.fixAsides P
  let rec1 := gone.map fun q => stepEntry q St.ok 0
  let (s, rec2, paused) := s.pauseLoop P P.nseq rec1 []
  let act := s.seqsIn P 2
  let s := s.makeRoom P (act.foldl (fun n q => n + s.need P q) 0) P.nslot
  let s := act.foldl (fun s q => s.allocFor P q (s.need P q / P.h)) s
  let back := (sortBy (fun q => s.seqW P q 0x18) (s.seqsIn P 3)).filter fun q => !paused.contains q
  let (s, rec3) := s.resumeLoop P back rec2
  let (s, rec4) := s.joinLoop P (sortBy (fun q => s.seqW P q 0x28) (s.seqsIn P 1)) rec3
  ((s.keepLwm P).kvPump P, rec4)

/-- Bytes of a step record (R255). -/
def stepRecord (step : Nat) (es : List Nat) : Nat :=
  step % 2 ^ 32 + 2 ^ 32 * (es.length % 65536) + 2 ^ 64 * es.foldr (fun e acc => e + 2 ^ 64 * acc) 0

/-! ### Pages' contents (R226, R227) -/

/-- Device address of a page's bytes: its slot, or its spill unit, that of a page in transfer or of one being spilled too. -/
def State.pageAddr (s : State) (P : Kv) (i : Nat) : Nat :=
  let d := s.page P i
  let spill := s.kvMoves.find? fun m => m.of P i && m.kind == .spill
  match s.xferOf P i, spill with
  | some u, none => if u.st = 2 then s.unitAddr P u.unit else s.slotAddr P d.slot
  | _, some m => s.unitAddr P m.unit
  | none, none => if d.st = 2 then s.unitAddr P d.unit else s.slotAddr P d.slot

/-- Byte of element j of token t: key (v = false) or value (R226). -/
def Kv.elA (P : Kv) (v : Bool) (t j : Nat) : Nat :=
  if v then P.eb * P.hd * (64 + t) + P.eb * j else P.eb * (P.hd * t + j)
/-- Byte of the scale of group g of token t in an INT8 page. -/
def Kv.scA (P : Kv) (v : Bool) (t g : Nat) : Nat := (if v then 132 else 128) * P.hd + 2 * (t * (P.hd / 32) + g)

/-- Element j of token t of a page, as an exact value with its input event. -/
def State.kvEl (s : State) (P : Kv) (a : Nat) (v : Bool) (t j : Nat) : FV × Nat :=
  let (x, e) := decIn P.fmt (s.rdLE (a + P.elA v t j) P.eb)
  if P.fmt = 1 then
    let (y, e2) := FV.mul x (scaleVal 1 (s.rdLE (a + P.scA v t (j / 32)) 2))
    (y, e ||| e2)
  else (x, e)

/-- Element j of the summary of a page at address a that holds `fill` tokens: the tree sum, the mean, its BF16, with every event
of the three steps (R227, R44, R45). -/
def State.summaryEl (s : State) (P : Kv) (a fill j : Nat) : Nat × Nat :=
  let (ks, e0) := gather ((List.range fill).map fun t =>
    let (x, e) := s.kvEl P a false t j
    let (k, e') := round32 x
    (k, e ||| e'))
  let (sum, e1) := treeSum 16 ks
  let (mean, e2) := round32 (quotient (f32 sum) (.fin false fill 0))
  let (v, e3) := convTo 6 (f32 mean)
  (v, e0 ||| e1 ||| e2 ||| e3)

/-- Recompute a page's summary; its events. -/
def State.summarise (s : State) (P : Kv) (i : Nat) : State × Nat :=
  let d := s.page P i
  let (vs, ev) := gather ((List.range P.hd).map fun j => s.summaryEl P (s.slotAddr P d.slot) d.fill j)
  (s.wrLE (P.sumA i) (2 * P.hd) (vs.foldr (fun v acc => v + 65536 * acc) 0), ev)

end Sys2Proof.Machine
end

