-- ==== Sys2Proof/Machine/KvCmd.lean ====
section
/-! DEFINITION. The cache commands KVAPP and PFX (R232 to R238, R247 to R249, R254, R255): checks at decode, and what
the page manager does. -/
namespace Sys2Proof.Machine
open Sys2Proof

/-! ### Checks (R12, R232, R233) -/

/-- Element size of an APPEND source format. -/
def srcBytes (f : Nat) : Nat := if f = 8 then 4 else 2

/-- Checks on the word and the descriptor's reserved bits. -/
def State.kvBase (s : State) (x : Ctx) (w : CmdWord) (d : Nat) (fnOk : Bool) : List (Bool × Nat) :=
  let descOk := s.osOk x.l x.c (dDesc w) 64
  s.baseChecks x w ++
    [resv w 43 0, (dTbuf w != 0 || dImm w != 0 || dFD w != 0 || !fnOk, St.format), (!descOk, St.bounds)] ++
    (if !descOk then []
     else [(dfield d 0 1 / 4 != 0 || dfield d 0x1C 4 / 2 != 0 || dfield d 0x20 32 != 0, St.format)])

/-- An operand-store range of a descriptor: 16-byte aligned, in the regions. -/
def State.kvRange (s : State) (x : Ctx) (a n : Nat) : Bool := a % 16 == 0 && s.osOk x.l x.c a n

/-- Checks of a function: `pre` needs no pool; the pool exists; SEQ and SEQ2 lie below NSEQ; `own` needs the pool, or, behind
the first list of two, the sequence too. R12 ranks what applies. -/
def State.kvSeqChecks (s : State) (x : Ctx) (w : CmdWord) (d : Nat) (fnOk : Bool) (pre : KvDesc → List (Bool × Nat))
    (own : Kv → KvDesc → List (Bool × Nat)) : List (Bool × Nat) :=
  let k := KvDesc.of d
  s.kvBase x w d (fnOk && dFA w == 0) ++
    (if !s.osOk x.l x.c (dDesc w) 64 then []
     else pre k ++
       (if !(s.kvPool x.l k.pool).live then [(true, St.state)]
        else
          let P := s.kvOf x.l k.pool
          if decide (P.nseq ≤ k.seq) || decide (P.nseq ≤ k.seq2) then [(true, St.bounds)] else own P k))

/-! ### POOL and CLOSE (R228) -/

/-- Regions overlap in the device address space. -/
def Region.overlaps (a b : Region) : Bool := a.kind != 5 && b.kind != 5 && meets (a.base, a.base + a.bytes) (b.base, b.base + b.bytes)

/-- A pool region lacks RD, has WR, or another writable descriptor of the lodging overlaps it (R228). -/
def State.badPoolReg (s : State) (l i : Nat) : Bool :=
  let r := s.region l i
  !r.rd || r.wr || (List.range 64).any fun j =>
    let q := s.region l j
    j != i && q.valid && q.wr && q.overlaps r

/-- The checks of POOL. -/
def State.poolChecks (s : State) (x : Ctx) (w : CmdWord) (d : Nat) : List (Bool × Nat) :=
  let k := KvDesc.of d
  s.kvBase x w d (dFA w == 0) ++
    (if !s.osOk x.l x.c (dDesc w) 64 then []
     else if !s.kvRange x k.addr 56 then [(true, St.bounds)]
     else
       let c := s.rdLE (osAddr x.c + k.addr) 56
       let P := Kv.ofRecord x.l k.pool 0 c
       let sr := s.region x.l P.slotReg
       let mr := s.region x.l P.metaReg
       let tr := s.region x.l P.spillReg
       let spill := P.spillReg != 0xFF
       let regs := decide (P.slotReg < 64) && decide (P.metaReg < 64) && sr.valid && mr.valid &&
         (!spill || (decide (P.spillReg < 64) && tr.valid))
       let fmtOk := [6, 4, 1].contains P.fmt && [64, 96, 128, 192, 256].contains P.hd
       [((s.kvPool x.l k.pool).live, St.state),
        (!fmtOk || P.links / 16 != 0 || dfield c 7 1 != 0 || dfield c 0x30 8 != 0, St.format),
        (regs && (!(sr.kind == 1 || sr.kind == 2) || !(mr.kind == 1 || mr.kind == 2) || (spill && tr.kind != 4)), St.format),
        (!regs, St.bounds),
        (P.h == 0 || decide (64 < P.h) || P.slotOff % 1024 != 0 || decide (P.nslot < 2 * P.lwm) || decide (P.npage < P.nslot) ||
          decide (4194304 < P.npage) || (P.h != 0 && P.npage % P.h != 0) || P.nseq == 0 || decide (4096 < P.nseq) ||
          decide (P.lwm < 8) || decide (32768 < P.lwm) || P.ptb == 0 || (P.h != 0 && decide (65536 / P.h < P.ptb)) ||
          P.spillOff % 4096 != 0 || decide (65536 < P.pfxMax), St.bounds),
        (regs && fmtOk && (decide (sr.bytes < P.slotOff + P.nslot * P.slotBytes) || decide (mr.bytes < P.metaEnd) ||
          (spill && decide (tr.bytes < P.spillOff + 4096 * P.nframe))), St.bounds),
        (regs && (s.badPoolReg x.l P.slotReg || s.badPoolReg x.l P.metaReg), St.permission)])

/-- POOL: the control record, every descriptor FREE, every sequence NONE, every page table empty (R228). -/
def State.poolEff (s : State) (x : Ctx) (k : KvDesc) : State :=
  let c := s.rdLE (osAddr x.c + k.addr) 56
  let m := (s.region x.l (dfield c 5 1)).base
  let P := Kv.ofRecord x.l k.pool m c
  let s := { s with kv := tput (fun _ => KvPool.none) s.kv (4 * x.l + k.pool) ⟨true, c, m, 0, 0⟩ }
  let s := (s.zero m P.metaEnd).clearPoison m P.metaEnd
  let s := s.wrLE m 56 c
  let s := (List.range P.npage).foldl (fun s i => s.setPage P i PageD.free) s
  let s := (List.range (P.nseq * P.ptb)).foldl (fun s i => s.wrLE (m + P.ptBase + 4 * i) 4 nil32) s
  s.kvSync P

/-- The checks of CLOSE: every sequence NONE. -/
def State.closeChecks (s : State) (x : Ctx) (w : CmdWord) (d : Nat) : List (Bool × Nat) :=
  s.kvSeqChecks x w d true (fun _ => []) fun P _ => [((List.range P.nseq).any fun q => s.seqState P q != 0, St.state)]

/-- CLOSE. -/
def State.closeEff (s : State) (P : Kv) : State :=
  let s := s.pfxDropPool P
  { s with
    kv := tput (fun _ => KvPool.none) s.kv (4 * P.l + P.pool) KvPool.none
    kvMoves := s.kvMoves.filter fun m => !(m.l == P.l && m.pool == P.pool)
    kvXfer := s.kvXfer.filter fun u => !(u.l == P.l && u.pool == P.pool) }

/-! ### The prefix chain (R247, R249) -/

/-- The prefix-hash key of a lodging's binding. -/
def State.prefixKey (s : State) (l : Nat) : Nat := Config.prefixKey l (tget (fun _ => 0) s.bn l) % 2 ^ 128

/-- Chain hash of a block of 64 token ids read at an operand-store address (R247). -/
def State.blockHash (s : State) (x : Ctx) (prev a : Nat) : Nat :=
  sipHash (s.prefixKey x.l) (prev :: (List.range 32).map fun i => s.rdLE (osAddr x.c + a + 8 * i) 8)

/-- The VALID entry of a lodging's pool with a hash. -/
def State.pfxFind (s : State) (P : Kv) (hsh : Nat) : Option Nat :=
  s.pfxValid.find? fun j => s.pfxMine P j && s.pfxHash j == hsh

/-- A match over at most n blocks (R249): the matched groups and the hash of the last matched block. -/
def State.matchChain (s : State) (x : Ctx) (P : Kv) (a : Nat) : Nat → Nat → List Nat × Nat
  | 0, prev => ([], prev)
  | n + 1, prev =>
    let hsh := s.blockHash x prev a
    match s.pfxFind P hsh with
    | none => ([], prev)
    | some j =>
      let (gs, last) := State.matchChain s x P (a + 256) n hsh
      (s.pfxGroup j % 2 ^ 22 :: gs, last)

/-- The match of n prompt tokens at an address. -/
def State.prefixMatch (s : State) (x : Ctx) (P : Kv) (a n : Nat) : List Nat × Nat :=
  s.matchChain x P a (min ((n - 1) / 64) P.ptb) P.salt

/-! ### JOIN, LEAVE, GROW (R233) -/

/-- The checks of JOIN. -/
def State.joinChecks (s : State) (x : Ctx) (w : CmdWord) (d : Nat) : List (Bool × Nat) :=
  s.kvSeqChecks x w d true
    (fun k => [(k.count == 0, St.bounds), (k.match_ && !s.hasPfx, St.notReady),
      (k.match_ && !s.kvRange x k.addr (4 * k.count), St.bounds)])
    fun P k => [(s.seqState P k.seq != 0, St.state), (decide (64 * P.ptb < k.count), St.bounds),
      (decide (256 ≤ (s.seqsIn P 1).length), St.busy)]

/-- JOIN: QUEUED with the next ARRIVAL; with MATCH, the matched groups enter the table at once. -/
def State.joinEff (s : State) (x : Ctx) (P : Kv) (k : KvDesc) : State :=
  let kp := s.kvPool P.l P.pool
  let s := { s with kv := tput (fun _ => KvPool.none) s.kv (4 * P.l + P.pool) { kp with arrival := kp.arrival + 1 } }
  let (gs, hsh) := if k.match_ then s.prefixMatch x P k.addr k.count else ([], P.salt)
  let s := s.zero (P.seqA k.seq) 64
  let s := gs.zipIdx.foldl (fun s (g, b) => (s.setPt P k.seq b g).setRefs P g (s.refs P g + 1)) s
  let n := gs.length
  let s := ((s.setSeqB P k.seq 0 1).setSeqW P k.seq 8 (64 * n)).setSeqW P k.seq 0x10 k.count
  let s := ((s.setSeqW P k.seq 0x14 n).setSeqW P k.seq 0x1C n).setSeqW P k.seq 0x28 kp.arrival
  let s := s.wrLE (P.seqA k.seq + 0x20) 8 hsh
  s.kvAdd P 0x64 n

/-- The checks of LEAVE. -/
def State.leaveChecks (s : State) (x : Ctx) (w : CmdWord) (d : Nat) : List (Bool × Nat) :=
  s.kvSeqChecks x w d true (fun _ => []) fun P k => [(!([1, 2, 3].contains (s.seqState P k.seq)), St.state)]

/-- The checks of GROW. -/
def State.growChecks (s : State) (x : Ctx) (w : CmdWord) (d : Nat) : List (Bool × Nat) :=
  s.kvSeqChecks x w d true (fun _ => []) fun P k => [(!([2, 3].contains (s.seqState P k.seq)), St.state)]

/-- The checks of STEP: a pool has one sequence record at least. -/
def State.stepChecks (s : State) (x : Ctx) (w : CmdWord) (d : Nat) : List (Bool × Nat) :=
  s.kvSeqChecks x w d true (fun k => [(!s.kvRange x k.addr 16, St.bounds)])
    fun P k => [(!s.kvRange x k.addr (8 + 8 * P.nseq), St.bounds)]

/-- STEP: the boundary and its record. -/
def State.stepEff (s : State) (x : Ctx) (P : Kv) (k : KvDesc) : State :=
  let (s, es) := s.runStep P
  s.put x.l (osAddr x.c + k.addr) (8 + 8 * es.length) (stepRecord (s.kvStep P) es)

/-! ### FORK (R237) -/

/-- The checks of FORK. -/
def State.forkChecks (s : State) (x : Ctx) (w : CmdWord) (d : Nat) : List (Bool × Nat) :=
  s.kvSeqChecks x w d true (fun _ => []) fun P k =>
    [(s.seqState P k.seq != 2 || s.seqState P k.seq2 != 0, St.state),
     (s.seqLen P k.seq % 64 != 0 && decide (s.freeSlots P < P.h + P.lwm), St.busy)]

/-- FORK: SEQ2 shares SEQ's blocks. -/
def State.forkEff (s : State) (P : Kv) (k : KvDesc) : State :=
  let len := s.seqLen P k.seq
  let n := cdiv len 64
  let kp := s.kvPool P.l P.pool
  let s := { s with kv := tput (fun _ => KvPool.none) s.kv (4 * P.l + P.pool) { kp with order := kp.order + 1 } }
  let s := s.zero (P.seqA k.seq2) 64
  let s := (List.range n).foldl (fun s b =>
    let g := s.ptEntry P k.seq b
    (s.setPt P k.seq2 b g).setRefs P g (s.refs P g + 1)) s
  let s := ((s.setSeqB P k.seq2 0 2).setSeqW P k.seq2 4 len).setSeqW P k.seq2 8 (64 * n)
  let s := ((s.setSeqW P k.seq2 0xC 1).setSeqW P k.seq2 0x18 kp.order).setSeqW P k.seq2 0x1C (s.seqW P k.seq 0x1C)
  let s := s.wrLE (P.seqA k.seq2 + 0x20) 8 (s.seqHash P k.seq)
  let s := if len % 64 = 0 then s else s.setSeqW P k.seq2 0x2C 1
  (s.keepLwm P).kvPump P

/-! ### PIN and UNPIN (R238) -/

/-- The checks of PIN. -/
def State.pinChecks (s : State) (x : Ctx) (w : CmdWord) (d : Nat) : List (Bool × Nat) :=
  s.kvSeqChecks x w d true (fun _ => []) fun P k =>
    let new := ((s.blockPages P k.seq k.count k.count2).eraseDups.filter fun i => !(s.page P i).pin).length
    [(decide (cdiv (s.seqLen P k.seq) 64 < k.count + k.count2), St.bounds),
     (decide (P.nslot - P.lwm < s.pinned P + new), St.busy)]

/-- Fetches for the SPILLED pages of a PIN. -/
def State.pinAsk (s : State) (P : Kv) (k : KvDesc) : State :=
  ((s.blockPages P k.seq k.count k.count2).foldl (fun s i => s.askPage P i .fetch) s).kvPump P

/-- PIN: the pages are pinned, and fetched when SPILLED. -/
def State.pinEff (s : State) (P : Kv) (k : KvDesc) : State :=
  ((s.blockPages P k.seq k.count k.count2).foldl (fun s i => s.modPage P i fun d => { d with pin := true }) s).pinAsk P k

/-- PIN completes when its pages are all RESIDENT. -/
def State.pinDone (s : State) (P : Kv) (k : KvDesc) : Bool :=
  (s.blockPages P k.seq k.count k.count2).all fun i => (s.page P i).st == 1

/-- The checks of UNPIN. -/
def State.unpinChecks (s : State) (x : Ctx) (w : CmdWord) (d : Nat) : List (Bool × Nat) :=
  s.kvSeqChecks x w d true (fun _ => []) fun _ _ => []

/-- UNPIN. -/
def State.unpinEff (s : State) (P : Kv) (k : KvDesc) : State :=
  ((s.blockPages P k.seq k.count k.count2).foldl (fun s i => s.modPage P i fun d => { d with pin := false }) s).kvPump P

/-! ### PFX (R233, R249) -/

/-- The checks of LOOKUP; an illegal FUNC of PFX is decoded here. -/
def State.lookupChecks (s : State) (x : Ctx) (w : CmdWord) (d : Nat) : List (Bool × Nat) :=
  s.kvSeqChecks x w d (dFunc w == 0) (fun k =>
    [(!s.kvRange x k.addr (4 * k.count) || !s.kvRange x k.addr2 4, St.bounds)]) (fun _ _ => []) ++ [(!s.hasPfx, St.notReady)]

/-- LOOKUP. -/
def State.lookupEff (s : State) (x : Ctx) (P : Kv) (k : KvDesc) : State :=
  s.put x.l (osAddr x.c + k.addr2) 4 (s.prefixMatch x P k.addr k.count).1.length

/-- The checks of PUBLISH. -/
def State.publishChecks (s : State) (x : Ctx) (w : CmdWord) (d : Nat) : List (Bool × Nat) :=
  s.kvSeqChecks x w d true (fun k => [(!s.kvRange x k.addr (4 * k.count), St.bounds)]) (fun P k =>
    [(decide (k.count < 64 * (s.seqLen P k.seq / 64 - s.seqW P k.seq 0x1C)), St.bounds)]) ++ [(!s.hasPfx, St.notReady)]

/-- Entries a pool holds. -/
def State.pfxHeld (s : State) (P : Kv) : Nat := (s.pfxValid.filter fun j => s.pfxMine P j).length

/-- The entry a new hash takes: a free one of its bucket, else the bucket's entry of this lodging whose group has
REFS 0 and the lowest TOUCH, which is freed (R249). -/
def State.pfxTake (s : State) (P : Kv) (hsh : Nat) : Option (State × Nat) :=
  let b := 16 * (hsh / 16 % 4096)
  let valid := s.pfxValid
  match ((List.range 16).map fun i => b + i).find? fun j => !valid.contains j with
  | some j => some (s, j)
  | none =>
    let poolOf (j : Nat) : Kv := s.kvOf P.l (nbits (s.pfxGroup j) 23 22)
    let grp (j : Nat) : Nat := s.pfxGroup j % 2 ^ 22
    let can := ((List.range 16).map fun i => b + i).filter fun j =>
      nbits (s.pfxGroup j) 27 24 == P.l && s.refs (poolOf j) (grp j) == 0
    match sortBy (fun j => s.groupTouch (poolOf j) (grp j)) can with
    | [] => none
    | j :: _ => some ((s.reclaim (poolOf j) (grp j)).kvSync (poolOf j), j)

/-- PUBLISH block after block from block i on. -/
def State.publishLoop (s : State) (x : Ctx) (P : Kv) (q : Nat) : Nat → Nat → Nat → Nat → State × Nat
  | 0, _, _, prev => (s, prev)
  | n + 1, i, a, prev =>
    let hsh := s.blockHash x prev a
    let g := s.ptEntry P q i
    let skip := (s.pfxFind P hsh).isSome || decide (P.pfxMax ≤ s.pfxHeld P)
    let s := if skip then s.kvAdd P 0x68 1
      else match s.pfxTake P hsh with
        | none => s.kvAdd P 0x68 1
        | some (s, j) =>
          ((s.zero (s.pfxA j) 16).wrLE (s.pfxA j) 8 hsh).wrLE (s.pfxA j + 8) 6 (P.pfxWord g + 2 ^ 32 * s.refs P g)
    State.publishLoop s x P q n (i + 1) (a + 256) hsh

/-- PUBLISH. -/
def State.publishEff (s : State) (x : Ctx) (P : Kv) (k : KvDesc) : State :=
  let p0 := s.seqW P k.seq 0x1C
  let n := s.seqLen P k.seq / 64 - p0
  let (s, hsh) := s.publishLoop x P k.seq n p0 k.addr (s.seqHash P k.seq)
  ((s.setSeqW P k.seq 0x1C (p0 + n)).wrLE (P.seqA k.seq + 0x20) 8 hsh).kvPump P

/-- The checks of FLUSH. -/
def State.flushChecks (s : State) (x : Ctx) (w : CmdWord) (d : Nat) : List (Bool × Nat) :=
  s.kvSeqChecks x w d true (fun _ => []) (fun _ _ => []) ++ [(!s.hasPfx, St.notReady)]

/-- FLUSH: every retained group is freed, the pool's entries are removed. -/
def State.flushEff (s : State) (P : Kv) : State :=
  (((s.retainedGroups P).foldl (fun s g => s.reclaim P g) s).pfxDropPool P).kvPump P

/-! ### APPEND (R236, R237) -/

/-- The checks of APPEND. -/
def State.appendChecks (s : State) (x : Ctx) (w : CmdWord) (d : Nat) : List (Bool × Nat) :=
  let k := KvDesc.of d
  let live := (s.kvPool x.l k.pool).live
  s.kvBase x w d (wideFmt (dFA w)) ++
    (if !s.osOk x.l x.c (dDesc w) 64 then []
     else
       [(s.gf (Reg.LDG_CFG x.l) Fld.LDG_CFG_ROLE == 3 || !live, St.state),
        (k.count == 0 || k.addr % 16 != 0 || k.addr2 % 16 != 0 || !s.osOk x.l x.c k.addr (srcBytes (dFA w)) ||
          !s.osOk x.l x.c k.addr2 (srcBytes (dFA w)), St.bounds)] ++
       (if !live then []
        else
          let P := s.kvOf x.l k.pool
          if decide (P.nseq ≤ k.seq) || decide (P.nseq ≤ k.seq2) then [(true, St.bounds)]
          else
            let row := P.h * P.hd * srcBytes (dFA w)
            [(s.seqState P k.seq != 2 || decide (s.seqCap P k.seq < s.seqLen P k.seq + k.count), St.state),
             (decide (k.stride < row) || !s.osRows x.l x.c k.addr k.stride row k.count ||
               !s.osRows x.l x.c k.addr2 k.stride row k.count, St.bounds)]))

/-- The quantiser of an INT8 key or value: one DYNAMIC group of 32 at a time, BF16 scales, margin 1 (R236). -/
def kvQuant (hd : Nat) : QDesc := { QDesc.of 0 with k := hd, gsize := 0, sfmt := 1 }

/-- Write one head's key or value of a token into a page; events and zero-range groups. -/
def State.putToken (s : State) (P : Kv) (a t : Nat) (v : Bool) (row : List (FV × Nat)) : State × Nat × Nat :=
  if P.fmt = 1 then
    let r := quantRow 1 (kvQuant P.hd) [] none 0 row
    let s := s.wrLE (a + P.elA v t 0) P.hd (packEls 1 r.codes)
    (s.wrLE (a + P.scA v t 0) (2 * (P.hd / 32)) (packEls 6 r.scales), r.ev, r.zeros)
  else
    let (cs, ev) := gather (row.map fun x =>
      let (c, e) := convTo P.fmt x.1
      (c, x.2 ||| e))
    (s.wrLE (a + P.elA v t 0) (P.eb * P.hd) (packEls P.fmt cs), ev, 0)

/-- A sequence whose set-aside group a copy uses: the writer's own, else the lowest sharer's. -/
def State.asideOf (s : State) (P : Kv) (q g : Nat) : Option Nat :=
  if s.seqW P q 0x2C != 0 then some q
  else (List.range P.nseq).find? fun r => s.seqW P r 0x2C != 0 && (s.groupsOf P r).contains g

/-- Copy a shared partial last block before the first write (R237). -/
def State.copyOnWrite (s : State) (P : Kv) (q : Nat) : State :=
  let len := s.seqLen P q
  let b := len / 64
  let g := s.ptEntry P q b
  if len % 64 = 0 ∨ s.refs P g ≤ 1 then s
  else
    let s := match s.asideOf P q g with
      | some r => s.setSeqW P r 0x2C (s.seqW P r 0x2C - 1)
      | none => s
    match s.allocGroup P with
    | none => s
    | some (s, g') =>
      let s := (List.range P.h).foldl (fun s hh =>
        let o := P.pg g hh
        let n := P.pg g' hh
        let d := s.page P o
        let s := s.copyUnits P.l (s.slotAddr P (s.page P n).slot) (s.slotAddr P d.slot) (P.slotBytes / 64)
        let s := s.copy (P.sumA n) (P.sumA o) (2 * P.hd)
        s.modPage P n fun e => { e with fill := d.fill }) s
      let s := (s.setRefs P g (s.refs P g - 1)).setPt P q b g'
      ((s.kvAdd P 0x60 1).fixAsides P).kvSync P

/-- Write token i of an APPEND for every head. -/
def State.appendToken (s : State) (x : Ctx) (P : Kv) (fa : Nat) (k : KvDesc) (len i : Nat) : State × Nat × Nat :=
  let t := len + i
  (List.range P.h).foldl (fun (r : State × Nat × Nat) hh =>
    let pg := P.pg (r.1.ptEntry P k.seq (t / 64)) hh
    let a := r.1.slotAddr P (r.1.page P pg).slot
    let src (b : Nat) : List (FV × Nat) := (List.range P.hd).map fun j =>
      decIn fa (r.1.elem (osAddr x.c + b + i * k.stride + hh * P.hd * srcBytes fa) fa j)
    let (s1, e1, z1) := r.1.putToken P a (t % 64) false (src k.addr)
    let (s2, e2, z2) := s1.putToken P a (t % 64) true (src k.addr2)
    (s2.modPage P pg fun d => { d with fill := t % 64 + 1, touch := s2.kvStep P },
      r.2.1 ||| e1 ||| e2, r.2.2 + z1 + z2)) (s, 0, 0)

/-- Tokens `e.prog`, `e.prog` + 1, … of an APPEND, `fuel` of them at most: each token's events are set as it is written (R50). -/
def appendLoop (x : Ctx) (P : Kv) (k : KvDesc) (len : Nat) : Nat → State → CmdEntry → State × CmdEntry
  | 0, s, e => (s, e)
  | fuel + 1, s, e =>
    let (s, ev, z) := s.appendToken x P (dFA e.w) k len e.prog
    appendLoop x P k len fuel ((s.arithFlags x ev).zeroRange x z) { e with prog := e.prog + 1, ev := e.ev ||| ev }

/-- The end of an APPEND: the summaries of its pages, and LEN (R227, R236). -/
def State.appendEnd (s : State) (x : Ctx) (P : Kv) (k : KvDesc) (len : Nat) (e : CmdEntry) : State × CmdEntry :=
  let (s, ev) := (s.appendPages P k).foldl (fun (r : State × Nat) i =>
    let (s, ev) := r.1.summarise P i
    (s.arithFlags x ev, r.2 ||| ev)) (s, 0)
  (s.setSeqW P k.seq 4 (len + k.count), e.finished ev)

/-- APPEND: waits for its pages, copies a shared block, writes the tokens, one at a time on a pooled core, and recomputes the
summaries (R123, R227, R236). -/
def State.appendEff (s : State) (x : Ctx) (e : CmdEntry) : State × CmdEntry :=
  let k := KvDesc.of e.desc
  let P := s.kvOf x.l k.pool
  let pages := s.appendPages P k
  if e.prog = 0 && pages.any fun i => (s.page P i).st != 1 then
    let s := pages.foldl (fun s i => s.askPage P i .fetch) s
    let s := if e.warned then s else s.kvAdd P 0x54 1
    (s.kvPump P, { e with warned := true })
  else
    let fa := dFA e.w
    let row := P.h * P.hd * srcBytes fa
    let bad := e.prog = 0 && (List.range k.count).any fun i =>
      s.poisoned (osAddr x.c + k.addr + i * k.stride) row || s.poisoned (osAddr x.c + k.addr2 + i * k.stride) row
    if bad then (s, { e with st := St.integrity, done := true })
    else
      let s := if e.prog = 0 then s.copyOnWrite P k.seq else s
      let len := s.seqLen P k.seq
      let (s, e) := appendLoop x P k len (if s.pooled x.c then 1 else k.count - e.prog) s e
      if k.count ≤ e.prog then s.appendEnd x P k len e else (s, e)

/-! ### The page manager's turn (R234) -/

/-- A STEP of the pool is running: ATT and APPEND do not begin (R234). -/
def State.stepRuns (s : State) (l pool : Nat) : Bool := (s.ldgEntries l).any fun e => e.isStep pool && e.prog == 1
/-- An APPEND of the pool has begun and not completed. -/
def State.appendRuns (s : State) (l pool : Nat) : Bool := (s.ldgEntries l).any fun e => e.isAppend pool && e.begun

/-- The function is the first of its pool, and no STEP of the pool that a teardown left is running. -/
def State.kvTurn (s : State) (x : Ctx) (pool seq : Nat) : Bool :=
  !(s.kvRest.any fun r => r.l == x.l && r.e.isStep pool) &&
  match s.kvq.find? fun k => k.l == x.l && k.pool == pool with
  | some k => k.c == x.c && k.p == x.p && k.sl == x.sl && k.seq == seq
  | none => false

/-- The function leaves the page manager's queue. -/
def State.kvLeave (s : State) (x : Ctx) (seq : Nat) : State :=
  { s with kvq := s.kvq.filter fun k => !(k.c == x.c && k.p == x.p && k.sl == x.sl && k.seq == seq) }

/-- What a KVAPP or PFX function other than APPEND does. -/
def State.kvApply (s : State) (x : Ctx) (w : CmdWord) (P : Kv) (k : KvDesc) : State :=
  if cOp w = 0x71 then
    match dFunc w with
    | 0 => s.poolEff x k
    | 1 => s.joinEff x P k
    | 2 => s.setSeqB P k.seq 0 4
    | 3 => s.stepEff x P k
    | 5 => s.forkEff P k
    | 6 => s.pinEff P k
    | 7 => s.unpinEff P k
    | 8 => s.setSeqW P k.seq 0xC k.count
    | _ => s.closeEff P
  else
    match dFunc w with
    | 0 => s.lookupEff x P k
    | 1 => s.publishEff x P k
    | _ => s.flushEff P

/-- Bring a function on: apply it when it is its turn; STEP and PIN complete only when their slots or pages are there
(R234, R238, R255). -/
def State.kvFnEff (s : State) (x : Ctx) (e : CmdEntry) : State × CmdEntry :=
  let k := KvDesc.of e.desc
  let isStep := cOp e.w == 0x71 && dFunc e.w == 3
  let isPin := cOp e.w == 0x71 && dFunc e.w == 6
  let P := s.kvOf x.l k.pool
  let (s, e) :=
    if e.prog = 0 ∧ s.kvTurn x k.pool e.seq ∧ !(isStep && s.appendRuns x.l k.pool) then
      let s := s.kvApply x e.w P k
      (if isStep then s else s.kvLeave x e.seq, { e with prog := 1, begun := true })
    else (s, e)
  if e.prog = 0 then (s, e)
  else if isStep then
    if (s.kvMovesOf P).any fun m => m.kind == .spill && m.taken then (s, e) else (s.kvLeave x e.seq, { e with done := true })
  else if isPin then (if s.pinDone P k then (s, { e with done := true }) else (s.pinAsk P k, e))
  else (s, { e with done := true })

/-- A begun function goes on without its waybill (R234, R416): what is left of it, none when its work is made. -/
def State.restStep (s : State) (r : KvRest) : State × Option KvRest :=
  let x : Ctx := ⟨r.c, r.p, r.l, r.sl⟩
  let (t, e) := if cOp r.e.w = 0x71 ∧ dFunc r.e.w = 4 then s.appendEff x r.e else s.kvFnEff x r.e
  ({ t with kvq := s.kvq }, if e.done then none else some { r with e := e })

/-- Every begun function that a teardown left goes on. -/
def State.restGo (s : State) : State :=
  s.kvRest.foldl (fun s r =>
    let (s, o) := s.restStep r
    { s with kvRest := s.kvRest.flatMap fun q => if q == r then o.toList else [q] }) s

end Sys2Proof.Machine
end

