-- ==== Sys2Proof/Machine/Att.lean ====
section
/-! DEFINITION. ATT (R239 to R246, R252, R253): which keys a row sees, retrieval, the chunks and their arithmetic. -/
namespace Sys2Proof.Machine
open Sys2Proof

/-- An ATT's fields (R239). -/
structure AttDesc where
  pool : Nat
  kvh : Nat
  seq : Nat
  qAddr : Nat
  qStride : Nat
  rows : Nat
  g : Nat
  kfmt : Nat
  nopf : Bool
  dflt : Bool
  pos0 : Nat
  klo : Nat
  swin : Nat
  thresh : Nat
  sink : Nat
  win : Nat
  p : Nat
  e : Nat
deriving DecidableEq, Repr

/-- Read the descriptor; DEF takes Harord's defaults. -/
def AttDesc.of (d : Nat) : AttDesc :=
  let df := dfield d 0xF 1 / 2 % 2 == 1
  let pick (o n v : Nat) := if df then v else dfield d o n
  ⟨dfield d 0 1 % 4, dfield d 1 1, dfield d 2 2, dfield d 4 4, dfield d 8 4, dfield d 0xC 1 + 1, dfield d 0xD 1,
    dfield d 0xE 1, dfield d 0xF 1 % 2 == 1, df, dfield d 0x10 4, dfield d 0x14 4, dfield d 0x18 4, pick 0x1C 4 4096,
    pick 0x20 1 1, pick 0x21 1 16, pick 0x22 1 32, pick 0x23 1 8⟩

/-- The checks of ATT (R110, R239, R242, R245). -/
def State.attChecks (s : State) (x : Ctx) (w : CmdWord) (d : Nat) : List (Bool × Nat) :=
  let descOk := s.osOk x.l x.c (dDesc w) 64
  let a := AttDesc.of d
  let fa := dFA w
  let fd := dFD w
  s.baseChecks x w ++
    [resv w 43 0, (decide (1 < dFunc w) || !(fa == 6 || fa == 7) || !(fd == 8 || fd == 6 || fd == 7), St.format),
     (!descOk, St.bounds),
     (match f32 (dImm w) with
      | .fin false m _ => m == 0
      | _ => true, St.bounds)] ++
    (if !descOk then []
     else
       [(dfield d 0 1 / 4 != 0 || a.kfmt / 16 != 0 || isReservedFmt (a.kfmt % 16) || dfield d 0xF 1 / 4 != 0 || dfield d 0x24 28 != 0, St.format),
        (s.gf (Reg.LDG_CFG x.l) Fld.LDG_CFG_ROLE == 3 || !(s.kvPool x.l a.pool).live, St.state),
        (decide (128 < a.rows) || decide (15 < a.g) || decide (16 < a.sink) || decide (64 < a.win) || decide (64 < a.p) ||
          decide (64 < a.e), St.bounds),
        (a.qAddr % 16 != 0 || a.qStride % 16 != 0, St.bounds),
        (decide ((s.tbRows x.l x.c).2 < a.rows) || decide ((s.accRows x.l x.c).2 < 128), St.bounds)] ++
       (if !(s.kvPool x.l a.pool).live then []
        else
          let P := s.kvOf x.l a.pool
          let row := P.hd * 2
          [(a.kfmt % 16 != P.fmt || (P.fmt == 6 && fa == 7) || (fd == 8 && decide (128 < P.hd)), St.format),
           (decide (P.h ≤ a.kvh) || decide (P.nseq ≤ a.seq), St.bounds),
           (decide (a.seq < P.nseq) && s.seqState P a.seq != 2, St.state),
           (decide (a.qStride < row) || !s.osRows x.l x.c a.qAddr a.qStride row a.rows, St.bounds)]))

/-! ### Visibility and selection (R240, R241) -/

/-- Position of a row. -/
def AttDesc.pos (a : AttDesc) (q : Nat) : Nat := a.pos0 + q / (a.g + 1)

/-- Token t is visible to row q when the sequence holds len tokens; `ahead` shifts the rows' positions (R240, R252). -/
def AttDesc.sees (a : AttDesc) (len ahead q t : Nat) : Bool :=
  decide (a.klo ≤ t) && decide (t ≤ a.pos q + ahead) && decide (t < len) && (a.swin == 0 || decide (a.pos q + ahead < t + a.swin))

/-- A token is visible to some row. -/
def AttDesc.anySees (a : AttDesc) (len ahead t : Nat) : Bool := (List.range a.rows).any fun q => a.sees len ahead q t

/-- The visible blocks, ascending. -/
def AttDesc.blocks (a : AttDesc) (len ahead : Nat) : List Nat :=
  (List.range (cdiv len 64)).filter fun b => (List.range 64).any fun i => a.anySees len ahead (64 * b + i)

/-- The candidates: visible blocks without the first SINK and the last WIN. -/
def AttDesc.candidates (a : AttDesc) (bs : List Nat) : List Nat :=
  let r := bs.drop a.sink
  r.take (r.length - a.win)

/-- Query row q, at the stream port. -/
def State.qRow (s : State) (x : Ctx) (a : AttDesc) (fa hd q : Nat) : List (FV × Nat) :=
  (List.range hd).map fun j => decIn fa (s.elem (osAddr x.c + a.qAddr + q * a.qStride) fa j)

/-- Runs of 16. -/
def runs16 {α : Type} : Nat → List α → List (List α)
  | 0, _ => []
  | fuel + 1, l => if l.length = 0 then [] else l.take 16 :: runs16 fuel (l.drop 16)

/-- Accumulate group values of 16 products onto an FP32 value, ascending (R37 to R40, R85). -/
def accum16 (start : Nat) (fresh : Bool) (xs ys : List (FV × Nat)) : Nat × Nat :=
  let gs := (runs16 (xs.length + 1) xs).zip (runs16 (ys.length + 1) ys)
  let (v, ev, _) := gs.foldl (fun (r : Nat × Nat × Bool) (a, b) =>
    let (g, e1) := floatGroup a b
    let (c, e2) := accFloat (AccCell.sealed (BitVec.ofNat 40 r.1) true) r.2.2 g
    (c.v.toNat, r.2.1 ||| e1 ||| e2, false)) (start, 0, fresh)
  (v, ev)

/-- round_fp32(IMM × dot) of two vectors (R241, R243). -/
def scoreOf (imm : Nat) (xs ys : List (FV × Nat)) : Nat × Nat :=
  let (d, e1) := accum16 0 true xs ys
  let (p, e2) := FV.mul (f32 imm) (f32 d)
  let (r, e3) := round32 p
  (r, e1 ||| e2 ||| e3)

/-- Score of a block: the largest over the rows, NaN over all (R241); its events (R37, R40, R44). -/
def State.blockScore (s : State) (x : Ctx) (a : AttDesc) (P : Kv) (fa imm b : Nat) : FV × Nat :=
  let pg := P.pg (s.ptEntry P a.seq b) a.kvh
  let mu := (List.range P.hd).map fun j => decIn 6 (s.rdLE (P.sumA pg + 2 * j) 2)
  (List.range a.rows).foldl (fun (m : FV × Nat) q =>
    let (r, ev) := scoreOf imm (s.qRow x a fa P.hd q) mu
    (if q = 0 then f32 r else FV.fmax m.1 (f32 r), m.2 ||| ev)) (.inf true, 0)

/-- The n best of a list of (block, score), ties to the lower block. -/
def topBlocks (n : Nat) (l : List (Nat × FV)) : List Nat :=
  let ins := fun (acc : List (FV × Nat)) (p : Nat × FV) => rankIns (p.2, p.1) acc
  ((l.foldl ins []).take n).map Prod.snd

/-- The blocks of a retrieving ATT: the visible ones that are no candidates, and the P candidates with the highest scores (R241). -/
def AttDesc.select (a : AttDesc) (bs cs : List Nat) (scores : List (Nat × FV)) : List Nat :=
  let best := if cs.length ≤ a.p then cs else topBlocks a.p scores
  bs.filter fun b => !cs.contains b || best.contains b

/-- The prediction of R252: TOUCH of the top P + E candidates of the next step, prefetches for those SPILLED. -/
def State.attPredict (s : State) (x : Ctx) (a : AttDesc) (P : Kv) (fa imm len : Nat) : State :=
  let held := s.heldGroups P a.seq
  let c := (a.candidates (a.blocks (len + 1) 1)).filter fun b => decide (b < held)
  let best := topBlocks (a.p + a.e) (c.map fun b => (b, (s.blockScore x a P fa imm b).1))
  let s := best.foldl (fun s b =>
    let pg := P.pg (s.ptEntry P a.seq b) a.kvh
    (s.modPage P pg fun d => { d with touch := s.kvStep P + 1 }).askPage P pg .prefetch) s
  s.kvPump P

/-! ### Chunks (R243, R246, R253) -/

/-- Chunk number i of a selection: at most 8 pages. -/
def chunkOf (sel : List Nat) (i : Nat) : List Nat := (sel.drop (8 * i)).take 8

/-- Keys or values of the tokens of a chunk that some row sees: (token, elements). -/
def State.chunkRows (s : State) (a : AttDesc) (P : Kv) (len : Nat) (bs : List Nat) (v : Bool) :
    List (Nat × List (FV × Nat)) :=
  bs.flatMap fun b =>
    let at_ := s.pageAddr P (P.pg (s.ptEntry P a.seq b) a.kvh)
    ((List.range 64).filter fun i => a.anySees len 0 (64 * b + i)).map fun i =>
      (64 * b + i, (List.range P.hd).map fun j => s.kvEl P at_ v i j)

/-- Accumulate p · v over the groups of 16 tokens of a chunk; tokens the row does not see contribute nothing. -/
def pvGroups (o : Nat) (gs : List (List (FV × Nat) × List (FV × Nat))) : Nat × Nat :=
  gs.foldl (fun (r : Nat × Nat) (ps, vs) =>
    let (g, e1) := floatGroup ps vs
    let (c, e2) := accFloat (AccCell.sealed (BitVec.ofNat 40 r.1) true) false g
    (c.v.toNat, r.2 ||| e1 ||| e2)) (o, 0)

/-- One chunk of att_row, with its events (R243). -/
def rowChunk (imm fa hd : Nat) (see : Nat → Bool) (q : List (FV × Nat)) (ks vs : List (Nat × List (FV × Nat)))
    (r : RowSt) : RowSt × Nat :=
  let (xs, e1) := gather ((ks.filter fun k => see k.1).map fun k => scoreOf imm q k.2)
  let r := { r with seen := r.seen + xs.length }
  if (f32 r.m).isNaN || xs.any fun v => (f32 v).isNaN then ({ r with m := 0x7FC00000 }, e1)
  else
    let m := xs.foldl (fun m v => if (f32 m).lt (f32 v) then v else m) r.m
    let f := if (f32 r.m).eqv (f32 m) then 0x3F800000
      else if f32 r.m = .inf true then 0
      else smxExp (FV.add (f32 r.m) (f32 m).neg).1
    let (ps, e2) := gather (xs.map fun v => convTo fa (f32 (smxTerm v m)))
    let (c, e3) := treeSum 16 (ps.map fun p => (round32 (decRaw fa p)).1)
    let (sf, e4) := FV.mul (f32 r.sum) (f32 f)
    let (sc, e5) := FV.add sf (f32 c)
    let (s2, e6) := round32 sc
    let groups (j : Nat) : List (List (FV × Nat) × List (FV × Nat)) :=
      (runs16 (vs.length + 1) vs).map fun g =>
        let seen := g.filter fun v => see v.1
        (seen.map fun v => (decRaw fa (ps.getD ((vs.filter fun u => see u.1 && decide (u.1 < v.1)).length) 0), 0),
          seen.map fun v => v.2.getD j (.zero, 0))
    let (o, e7) := gather ((List.range hd).map fun j =>
      let (p, ea) := FV.mul (f32 (r.o.getD j 0)) (f32 f)
      let (o1, eb) := round32 p
      let (o2, ec) := pvGroups o1 (groups j)
      (o2, ea ||| eb ||| ec))
    (⟨m, s2, o, r.seen⟩, e1 ||| e2 ||| e3 ||| e4 ||| e5 ||| e6 ||| e7)

/-- The state att_row starts a row in (R243). -/
def RowSt.start (hd : Nat) : RowSt := ⟨0xFF800000, 0, List.replicate hd 0, 0⟩

/-- The end of att_row: the row's elements in FD, whether it is EMPTY, its events (R243). -/
def RowSt.finish (hd fd : Nat) (r : RowSt) : List Nat × Bool × Nat :=
  if r.seen = 0 then (List.replicate hd 0, true, 0)
  else if (f32 r.m).isNaN || (f32 r.sum).isNaN then (List.replicate hd (convTo fd .nan).1, false, 0)
  else
    let rc := smxRecip r.sum
    let (ys, ev) := gather (r.o.map fun o => floatStep fd (FV.mul (f32 o) (f32 rc)))
    (ys, false, ev)

/-- The pages of a run of blocks, for the ATT's head. -/
def State.attPages (s : State) (a : AttDesc) (P : Kv) (bs : List Nat) : List Nat :=
  bs.map fun b => P.pg (s.ptEntry P a.seq b) a.kvh

/-- One chunk over every row, each with its events: its pages are read as they stand while it runs (R235, R243, R246). -/
def State.attChunk (s : State) (x : Ctx) (a : AttDesc) (P : Kv) (fa imm len : Nat) (bs : List Nat) (rs : List RowSt) :
    List (RowSt × Nat) :=
  let ks := s.chunkRows a P len bs false
  let vs := s.chunkRows a P len bs true
  rs.zipIdx.map fun (r, q) => rowChunk imm fa P.hd (a.sees len 0 q) (s.qRow x a fa P.hd q) ks vs r

/-- A query row is uncorrectable. -/
def State.attBadQ (s : State) (x : Ctx) (a : AttDesc) (P : Kv) : Bool :=
  (List.range a.rows).any fun q => s.poisoned (osAddr x.c + a.qAddr + q * a.qStride) (2 * P.hd)

/-- Fill a bank with an internal load of an ATT: the spec does not say which tile it is, so lanes, depth and bytes
are free values (R246; log 4). -/
def State.attBank (s : State) (x : Ctx) (b fa : Nat) : State :=
  let r : BankRec := ⟨true, fa, Config.fresh s.free % 128 + 1, Config.fresh (s.free + 1) % 16 + 1, x.l, x.sl, false, 0, 0, false, 0⟩
  let byte (i : Nat) : Byte := BitVec.ofNat 8 (Config.fresh (s.free + 2 + i))
  let fill (k0 : Nat) (t : Tbl Byte) : Tbl Byte := tputN memInit byte (k0 + 8192 * b) 8192 t
  let s := (s.setTc x.c fun t => { t with bank := fill 0 t.bank }).clearPoison (bankSram x.c b 0) 8192
  let s := s.setRecord x.c b r
  let s := if s.pooled x.c then
      s.setTc x.c fun t =>
        { t with
          shBank := fill (16384 * x.p) t.shBank
          shRec := tput (fun _ => BankRec.empty) t.shRec (2 * x.p + b) r }
    else s
  { s with free := s.free + 8194 }

/-- The engine has run a step of an ATT, with loads into both banks (R246). -/
def State.attLoads (s : State) (x : Ctx) (fa : Nat) : State := ((s.engineActive x).attBank x 0 fa).attBank x 1 fa

/-- An ATT begins: LEN is sampled, the blocks are selected, each candidate's score with its events, the next step predicted
(R240, R241, R252). A word that scoring reads and that is uncorrectable ends it with INTEGRITY. -/
def State.attBegin (s : State) (x : Ctx) (a : AttDesc) (P : Kv) (e : CmdEntry) : State × CmdEntry :=
  let fa := dFA e.w
  let len := s.seqLen P a.seq
  let bs := a.blocks len 0
  let got := dFunc e.w != 1 && decide (a.thresh < len)
  let cs := if got then a.candidates bs else []
  if cs != [] && (s.attBadQ x a P || cs.any fun b => s.poisoned (P.sumA (P.pg (s.ptEntry P a.seq b) a.kvh)) (2 * P.hd)) then
    (s, { e with st := St.integrity, done := true })
  else
    let sc := cs.map fun b => (b, s.blockScore x a P fa (dImm e.w) b)
    let sel := if got then a.select bs cs (sc.map fun r => (r.1, r.2.1)) else bs
    let s := if cs = [] then s else s.attLoads x fa
    let s := sc.foldl (fun s r => s.arithFlags x r.2.2) s
    let s := if got && !a.nopf then s.attPredict x a P fa (dImm e.w) len else s
    (s, { e with
      len := len + 1, sel := sel, rows := List.replicate a.rows (RowSt.start P.hd), ev := sc.foldl (fun n r => n ||| r.2.2) e.ev })

/-- The next chunk of an ATT: when its pages are RESIDENT it runs; one that lacks a page asks for it, counts one stall and
waits (R246, R253); an uncorrectable word ends the ATT with INTEGRITY. -/
def State.attStep (s : State) (x : Ctx) (a : AttDesc) (P : Kv) (e : CmdEntry) : State × CmdEntry :=
  let bs := chunkOf e.sel e.prog
  let pages := s.attPages a P bs
  if pages.all fun i => decide (i < P.npage) && (s.page P i).st == 1 then
    if s.attBadQ x a P || pages.any fun i => s.poisoned (s.pageAddr P i) P.pageBytes then
      (s, { e with st := St.integrity, done := true })
    else
      let rs := s.attChunk x a P (dFA e.w) (dImm e.w) (e.len - 1) bs e.rows
      let s := pages.foldl (fun s i => s.modPage P i fun d => { d with touch := s.kvStep P }) s
      let s := rs.foldl (fun s r => s.arithFlags x r.2) (s.attLoads x (dFA e.w))
      (s, { e with prog := e.prog + 1, warned := false, rows := rs.map Prod.fst, ev := rs.foldl (fun n r => n ||| r.2) e.ev })
  else
    let s := (pages.filter fun i => decide (i < P.npage)).foldl (fun s i => s.askPage P i .fetch) s
    let s := if e.warned then s else s.kvAdd P 0x54 1
    (s.kvPump P, { e with warned := true })

/-- The last chunk has run: the rows are written, and EMPTY_ROW is set when one is empty (R243, R244). -/
def State.attWrite (s : State) (x : Ctx) (P : Kv) (e : CmdEntry) : State × CmdEntry :=
  let b0 := (s.tbRows x.l x.c).1
  let fd := dFD e.w
  let (s, ev, em) := e.rows.zipIdx.foldl (fun (r : State × Nat × Bool) (u, q) =>
    let (vs, empty, ev) := u.finish P.hd fd
    let s := (r.1.putEls x (dTbuf e.w) (b0 + q) 0 fd vs).setTc x.c fun t => t.setEmpty (dTbuf e.w) (b0 + q) empty
    (s.arithFlags x ev, r.2.1 ||| ev, r.2.2 || empty)) (s, 0, false)
  (s.setFlagIf em (Reg.TC_VFLAG x.c) 0 (some x.l), e.finished ev)

/-- The accumulator rows an ATT used read +0 when it ends (R246). -/
def State.attClear (s : State) (x : Ctx) : State :=
  let (r0, rn) := s.accRows x.l x.c
  s.setTc x.c fun t => { t with acc := tclear (accKey r0 0) (accKey (r0 + rn) 0) t.acc }

/-- ATT: begins by sampling LEN and selecting, then runs one chunk at a time, for between two chunks the engine may serve the
other slot (R246) and a slice may end (R123); it writes its rows when the last has run. -/
def State.attEff (s : State) (x : Ctx) (e : CmdEntry) : State × CmdEntry :=
  let a := AttDesc.of e.desc
  let P := s.kvOf x.l a.pool
  let (s, e) :=
    if e.len = 0 then s.attBegin x a P e else s.attStep x a P e
  let (s, e) := if e.len ≠ 0 ∧ !e.done ∧ (chunkOf e.sel e.prog).length = 0 then s.attWrite x P e else (s, e)
  if e.done then (s.attClear x, e) else (s, e)

end Sys2Proof.Machine
end

