-- ==== Sys2Proof/Machine/AirCmd.lean ====
section
/-! DEFINITION. The radio helper commands CMUL, CINV and LLRPK (R282 to R284). -/
namespace Sys2Proof.Machine
open Sys2Proof

/-! ### CMUL (R282) -/

/-- The checks of CMUL. -/
def State.cmulChecks (s : State) (x : Ctx) (w : CmdWord) : List (Bool × Nat) :=
  s.bChecks x w ++
    [(tFA w != tFD w || !(tFA w == 11 || tFA w == 12), St.format), (decide (3 < tFunc w % 8), St.format)]

/-- An exact integer divided by 2^15, rounded to nearest even. -/
def q15 (v : Int) : Int := rneInt (decide (v < 0)) v.natAbs (-15)

/-- CI16 product: a·b or a·conj b per part, divided by 2^15, added to d when accumulating, saturated. -/
def cmulInt (conj acc : Bool) (a b d : Nat) : Nat × Nat :=
  let (ar, ai) := cplxParts 11 a
  let (br, bi0) := cplxParts 11 b
  let bi := if conj then -bi0 else bi0
  let (dr, di) := if acc then cplxParts 11 d else (0, 0)
  let (r, e1) := toIntFmt 3 (FV.ofInt (q15 (ar * br - ai * bi) + dr))
  let (i, e2) := toIntFmt 3 (FV.ofInt (q15 (ar * bi + ai * br) + di))
  (joinParts 11 [r, i], e1 ||| e2)

/-- CF16 product under R139: each part exact, rounded once to FP32, converted; a NaN that propagates generates none. -/
def cmulFloat (conj acc : Bool) (a b d : Nat) : Nat × Nat :=
  let v (x i : Nat) : FV := decRaw 7 ((parts 12 x).getD i 0)
  let bi := if conj then (v b 1).neg else v b 1
  let nan := (v a 0).isNaN || (v a 1).isNaN || (v b 0).isNaN || (v b 1).isNaN
  let part (p q : FV × Nat) (z : FV) : Nat × Nat :=
    let (t, e1) := FV.add p.1 q.1
    let (u, e2) := if acc then FV.add t z else (t, 0)
    floatStep 7 (u, if nan || (acc && z.isNaN) then 0 else p.2 ||| q.2 ||| e1 ||| e2)
  let (m, n) := FV.mul (v a 1) bi
  let (r, e1) := part (FV.mul (v a 0) (v b 0)) (m.neg, n) (v d 0)
  let (i, e2) := part (FV.mul (v a 0) bi) (FV.mul (v a 1) (v b 0)) (v d 1)
  (joinParts 12 [r, i], e1 ||| e2)

/-- CMUL. -/
def State.cmulEff (s : State) (x : Ctx) (e : CmdEntry) : State × CmdEntry :=
  let w := e.w
  let f := tFA w
  let conj := tFunc w % 2 == 1
  let acc := tFunc w % 8 / 2 == 1
  s.rows x e (tRows w) fun s i =>
    s.elRow x w f (fun r => s.abReads x w r ++ if acc then [(tTD w, r, tCol0 w, tCols w)] else []) (fun t r =>
      (List.range (tN w)).map fun k =>
        let a := t.el (tTA w) r (tCol0 w) f k
        let b := t.srcB w (s.tbRows x.l x.c).1 r k
        let d := t.el (tTD w) r (tCol0 w) f k
        if f = 11 then cmulInt conj acc a b d else cmulFloat conj acc a b d) i

/-! ### LLRPK (R281, R284) -/

/-- The checks of LLRPK. -/
def State.llrpkChecks (s : State) (x : Ctx) (w : CmdWord) : List (Bool × Nat) :=
  s.tRange x w ++
    [(!(tFA w == 8 || tFA w == 7) || tFD w != 1, St.format), (decide (1 < tFunc w), St.format),
     (tBimm w || tTB w != 0, St.format), (!goodScale w, St.bounds), tDest w (tN w)]

/-- One LLR code. -/
def llrCode (neg : Bool) (v : FV) : Nat × Nat :=
  let (c, e) : Int × Nat := match v with
    | .nan => (0, Ev.nanCvt)
    | .inf sg => (if sg then -127 else 127, Ev.cvtSat)
    | .fin sg m ex =>
      let (c, b) := clampTo (-127) 127 (rneInt sg m ex)
      (c, if b then Ev.cvtSat else 0)
  (wrapN 8 (if neg then -c else c), e)

/-- LLRPK. -/
def State.llrpkEff (s : State) (x : Ctx) (e : CmdEntry) : State × CmdEntry :=
  let w := e.w
  s.rows x e (tRows w) fun s i =>
    s.elRow x w 1 (fun r => [(tTA w, r, tCol0 w, tCols w)]) (fun t r =>
      (t.rowVals w r).map fun v =>
        let (p, e1) := FV.mul v.1 (f32 (tImm w))
        let (c, e2) := llrCode (tFunc w == 1) p
        (c, v.2 ||| e1 ||| e2)) i

/-! ### CINV (R283) -/

/-- Fields of a CINV descriptor. -/
structure CinvDesc where
  src : Nat
  dst : Nat
  n : Nat
  row0 : Nat
  count : Nat
  reg : Nat
deriving DecidableEq, Repr

/-- Read the descriptor. -/
def CinvDesc.of (d : Nat) : CinvDesc :=
  ⟨dfield d 0 1, dfield d 1 1, dfield d 2 1, dfield d 4 2, dfield d 6 2 + 1, dfield d 8 4⟩

/-- Rows of one matrix. -/
def CinvDesc.rows (q : CinvDesc) : Nat := cdiv (q.n * q.n) 128

/-- The checks of CINV. -/
def State.cinvChecks (s : State) (x : Ctx) (w : CmdWord) (d : Nat) : List (Bool × Nat) :=
  let descOk := s.osOk x.l x.c (dDesc w) 64
  let q := CinvDesc.of d
  let finite := match f32 q.reg with
    | .fin sg m _ => !sg || m == 0
    | _ => false
  s.baseChecks x w ++
    [resv w 43 0, (dFA w != 12 || dFD w != 12 || dFunc w != 0 || dTbuf w != 0 || dImm w != 0, St.format),
     (!descOk, St.bounds), (s.pooled x.c, St.state)] ++
    (if !descOk then []
     else
       [(dfield d 3 1 != 0 || dfield d 0xC 52 != 0, St.format),
        (decide (3 < q.src) || decide (3 < q.dst) || q.n == 0 || decide (16 < q.n) || !finite, St.bounds),
        (decide ((s.tbRows x.l x.c).2 < q.row0 + q.rows * q.count), St.bounds)])

/-- Events ride along with FP32 operations. -/
structure F32 where
  w : Nat
  ev : Nat
deriving DecidableEq, Repr

/-- One FP32 operation rounded once, events gathered. -/
def F32.op (a b : F32) (r : FV × Nat) : F32 :=
  let (w, e) := round32 r.1
  ⟨w, a.ev ||| b.ev ||| r.2 ||| e⟩
def F32.add (a b : F32) : F32 := a.op b (FV.add (f32 a.w) (f32 b.w))
def F32.sub (a b : F32) : F32 := a.op b (FV.add (f32 a.w) (f32 b.w).neg)
def F32.mul (a b : F32) : F32 := a.op b (FV.mul (f32 a.w) (f32 b.w))
def F32.div (a b : F32) : F32 := a.op b (quotient (f32 a.w) (f32 b.w), 0)
def F32.neg (a : F32) : F32 := ⟨Nat.xor a.w (2 ^ 31), a.ev⟩
def F32.zero : F32 := ⟨0, 0⟩

/-- Integer square root by bits, from bit `fuel` − 1 down. -/
def isqrtBits (n : Nat) : Nat → Nat → Nat
  | 0, r => r
  | k + 1, r => if (r + 2 ^ k) * (r + 2 ^ k) ≤ n then isqrtBits n k (r + 2 ^ k) else isqrtBits n k r

/-- FP32 square root of a positive finite value, rounded once. -/
def F32.sqrt (a : F32) : F32 :=
  match f32 a.w with
  | .fin _ m e =>
    let m' := if e % 2 = 0 then m * 2 ^ 60 else m * 2 ^ 61
    let e' := if e % 2 = 0 then e - 60 else e - 61
    let r := isqrtBits m' 64 0
    let st := if r * r = m' then 0 else 1
    let (w, ev) := round32 (.fin false (2 * r + st) (e' / 2 - 1))
    ⟨w, a.ev ||| ev⟩
  | _ => a

/-- A complex FP32 value. -/
abbrev C32 := F32 × F32
def C32.zero : C32 := (F32.zero, F32.zero)
def C32.sub (a b : C32) : C32 := (a.1.sub b.1, a.2.sub b.2)
def C32.add (a b : C32) : C32 := (a.1.add b.1, a.2.add b.2)
/-- a · b, four products and two sums, each rounded. -/
def C32.mul (a b : C32) : C32 := ((a.1.mul b.1).sub (a.2.mul b.2), (a.1.mul b.2).add (a.2.mul b.1))
def C32.conj (a : C32) : C32 := (a.1, a.2.neg)
def C32.divR (a : C32) (r : F32) : C32 := (a.1.div r, a.2.div r)

/-- A square matrix by rows. -/
abbrev CMat := List (List C32)
def CMat.at (m : CMat) (i j : Nat) : C32 := (m.getD i []).getD j C32.zero

/-- Column j of the Cholesky factor below and on the diagonal, from the columns before it (rows of l hold columns 0 to
j − 1); none when the pivot is not positive and finite. -/
def cholColumn (n : Nat) (a : Nat → Nat → C32) (l : CMat) (j : Nat) : Option (List C32) :=
  let piv := (List.range j).foldl (fun (acc : F32) k =>
    let v := l.at j k
    (acc.sub (v.1.mul v.1)).sub (v.2.mul v.2)) (a j j).1
  match f32 piv.w with
  | .fin false m _ =>
    if m = 0 then none
    else
      let d := piv.sqrt
      some ((List.range n).map fun i =>
        if i < j then C32.zero
        else if i = j then (d, F32.zero)
        else
          let v := (List.range j).foldl (fun (acc : C32) k => C32.sub acc (C32.mul (l.at i k) (C32.conj (l.at j k)))) (a i j)
          C32.divR v d)
  | _ => none

/-- The factor, column by column in ascending order (R283). -/
def cholesky (n : Nat) (a : Nat → Nat → C32) : Option CMat :=
  (List.range n).foldl (fun (o : Option CMat) j =>
    match o with
    | none => none
    | some l => (cholColumn n a l j).map fun col => (List.range n).map fun i => (l.getD i []) ++ [col.getD i C32.zero])
    (some (List.replicate n []))

/-- Inverse of the factor, by forward substitution, column by column. -/
def lowerInv (n : Nat) (l : CMat) : CMat :=
  let cols := (List.range n).map fun j =>
    (List.range n).foldl (fun (y : List C32) i =>
      let v := if i < j then C32.zero
        else
          let rhs : C32 := if i = j then (⟨0x3F800000, 0⟩, F32.zero) else C32.zero
          let t := (List.range i).foldl (fun (acc : C32) k => if k < j then acc else C32.sub acc (C32.mul (l.at i k) (y.getD k C32.zero))) rhs
          C32.divR t (l.at i i).1
      y ++ [v]) []
  (List.range n).map fun i => cols.map fun c => c.getD i C32.zero

/-- Element (i, j) of the inverse: Σ over k of conj(M[k][i]) · M[k][j], k ascending. -/
def invEl (n : Nat) (m : CMat) (i j : Nat) : C32 :=
  (List.range n).foldl (fun (acc : C32) k =>
    if k < max i j then acc else C32.add acc (C32.mul (C32.conj (m.at k i)) (m.at k j))) C32.zero

/-- One matrix of a CINV: elements in row-major order and events; NaN in every part when a pivot fails. -/
def cinvMatrix (n reg : Nat) (el : Nat → Nat) : List Nat × Nat :=
  let part (i : Nat) (x : Nat) : F32 := let (w, e) := round32 (decRaw 7 ((parts 12 x).getD i 0)); ⟨w, e⟩
  let a (i j : Nat) : C32 :=
    let v := el (n * i + j)
    if i = j then ((part 0 v).add ⟨reg, 0⟩, F32.zero) else (part 0 v, part 1 v)
  match cholesky n a with
  | none => (List.replicate (n * n) (joinParts 12 [0x7E00, 0x7E00]), Ev.nanGen)
  | some l =>
    let m := lowerInv n l
    gather ((List.range (n * n)).map fun k =>
      let v := invEl n m (k / n) (k % n)
      let (r, e1) := convTo 7 (f32 v.1.w)
      let (i, e2) := convTo 7 (f32 v.2.w)
      (joinParts 12 [r, i], v.1.ev ||| v.2.ev ||| e1 ||| e2))

/-- CINV, matrix by matrix; a matrix with an uncorrectable word ends it (R148). -/
def State.cinvEff (s : State) (x : Ctx) (e : CmdEntry) : State × CmdEntry :=
  let q := CinvDesc.of e.desc
  s.rows x e q.count fun s m =>
    let t := s.tcOf x.c
    let row := (s.tbRows x.l x.c).1 + q.row0 + q.rows * m
    if s.tbBad x.c ((List.range q.rows).map fun i => (q.src, row + i, 0, min 128 (q.n * q.n - 128 * i))) then none
    else
      let (vs, ev) := cinvMatrix q.n q.reg fun k => t.el q.src (row + k / 128) 0 12 (k % 128)
      some (vs.zipIdx.foldl (fun (s : State) (v, k) => s.putCol x q.dst (row + k / 128) (k % 128) v) s, ev)

end Sys2Proof.Machine
end

