-- ==== Sys2Proof/Machine/Moves.lean ====
section
/-! DEFINITION. Moves (R111 to R118, R193 to R217, R256 to R258): MOV, ROT, PAGE_PUT and PAGE_GET enter a slot's move
queue; a queued move starts, its units are admitted by the regulator, and it completes in issue order. -/
namespace Sys2Proof.Machine
open Sys2Proof

/-! ### Fields (R111, R115, R118) -/

def mvWait (w : CmdWord) : Bool := cbits w 105 105 == 1
def mvObj (w : CmdWord) : Nat := cbits w 104 93

/-- Regulator classes of a route (R113): bit 0 tier read, 1 tier write, 2 remote. -/
def routeClasses (src dst : Region) : Nat :=
  (if src.kind = 4 then 1 else 0) + (if dst.kind = 4 then 2 else 0) + (if src.kind = 5 ∨ dst.kind = 5 then 4 else 0)

/-- Checks every move makes on its wait object. -/
def State.waitChecks (s : State) (x : Ctx) (w : CmdWord) : List (Bool × Nat) :=
  s.baseChecks x w ++ [(mvWait w && s.badObj x (mvObj w), St.permission)]

/-- A range of device addresses that a move may name: no hole, and no shadow area of a partition of the lodging (R193, R205). -/
def State.rangeOk (s : State) (l a n : Nat) : Bool :=
  let inMap (b : Nat) : Bool := match s.place b with
    | .hole => false
    | .control => false
    | _ => true
  inMap a && inMap (a + n - 1) &&
    (List.range 32).all fun c => match s.shadowArea l c with
      | some (lo, hi) => !meets (a, a + n) (osAddr c + lo, osAddr c + hi)
      | none => true

/-- The checks of MOV (R111, R193, R205, R216). -/
def State.movChecks (s : State) (x : Ctx) (w : CmdWord) : List (Bool × Nat) :=
  let n := 64 * (cbits w 20 5 + 1)
  let a := s.region x.l (cbits w 92 87)
  let b := s.region x.l (cbits w 56 51)
  let so := 64 * cbits w 86 57
  let d := 64 * cbits w 50 21
  let cls := routeClasses a b
  s.waitChecks x w ++
    [resv w 4 0, (!a.holds so n || !b.holds d n, St.bounds),
     (a.valid && a.kind != 5 && !s.rangeOk x.l (a.base + so) n, St.bounds),
     (b.valid && b.kind != 5 && !s.rangeOk x.l (b.base + d) n, St.bounds),
     (a.valid && b.valid && a.kind != 5 && b.kind != 5 && meets (a.base + so, a.base + so + n) (b.base + d, b.base + d + n),
       St.bounds),
     (a.valid && !a.rd, St.permission), (b.valid && !b.wr, St.permission),
     ((List.range 3).any fun k => cls.testBit k && s.share x.l k == 0, St.permission)]

/-- Tensor cores a lodging holds dedicated, ascending (R116). -/
def State.ringCores (s : State) (l : Nat) : List Nat := (List.range 32).filter fun c => s.dedicated l c

/-- One run of consecutive numbers. -/
def oneRun : List Nat → Bool
  | a :: b :: t => b == a + 1 && oneRun (b :: t)
  | _ => true

/-- The checks of ROT (R117, R217). -/
def State.rotChecks (s : State) (x : Ctx) (w : CmdWord) : List (Bool × Nat) :=
  let n := 64 * (cbits w 62 48 + 1)
  let a := 64 * cbits w 92 78
  let d := 64 * cbits w 77 63
  s.waitChecks x w ++
    [resv w 47 0, (s.pooled x.c || !oneRun (s.ringCores x.l), St.state),
     (!s.osOk x.l x.c a n || !s.osOk x.l x.c d n || meets (a, a + n) (d, d + n), St.bounds)]

/-- The checks of PAGE_PUT and PAGE_GET at decode (R118). -/
def State.pageChecks (s : State) (x : Ctx) (w : CmdWord) : List (Bool × Nat) := s.waitChecks x w ++ [resv w 38 0]

/-! ### Issue (R112) -/

/-- A move's wait object has reached its threshold now. -/
def State.waitMet (s : State) (w : CmdWord) : Bool := !mvWait w || decide (s.syncArmed (mvObj w) ≤ s.syncCount (mvObj w))

/-- A fresh queue entry. -/
def State.newMove (s : State) (seq : Nat) (w : CmdWord) (src dst units classes : Nat) (sw dw : Word) (round : Nat) :
    MoveEntry :=
  ⟨seq, w, src, dst, units, 0, classes, s.waitMet w, false, St.ok, round, cCpl w, sw, dw, 0⟩

/-- Put a move in the queue. -/
def State.enqueue (s : State) (x : Ctx) (m : MoveEntry) : State :=
  (s.claim x m.w).setSlot x.c x.p x.sl fun t => { t with moves := t.moves ++ [m] }

/-- Decode a move row: with 64 moves queued the slot waits for an entry (R112). -/
def moveRow (c : Fin 32) (sl : Slot) (w : CmdWord) (op : Nat) (s : State) (checks : State → Ctx → List (Bool × Nat))
    (go : State → Ctx → Nat → State) : Host.Outcome State Fault Refusal :=
  if cOp w == op && decide (64 ≤ (s.slotOf c.val (s.curPart c.val) sl).moves.length) then .next s
  else
    decodeRow c sl w (cOp w == op) s fun x seq s =>
      let st := pick (checks s x)
      if st = St.ok then go s x seq else s.complete x w seq st

/-- MOV (R111). -/
def execMov (c : Fin 32) (sl : Slot) (w : CmdWord) (s : State) : Host.Outcome State Fault Refusal :=
  moveRow c sl w 0x10 s (fun s x => s.movChecks x w) fun s x seq =>
    let i := cbits w 92 87
    let j := cbits w 56 51
    let a := s.region x.l i
    let b := s.region x.l j
    s.enqueue x (s.newMove seq w (a.base + 64 * cbits w 86 57) (b.base + 64 * cbits w 50 21) (cbits w 20 5 + 1)
      (routeClasses a b) (s.rr (Reg.LDG_REGION3 x.l i)) (s.rr (Reg.LDG_REGION3 x.l j)) 0)

/-- ROT (R115, R116): the round is the count of ROTs the core has issued. -/
def execRot (c : Fin 32) (sl : Slot) (w : CmdWord) (s : State) : Host.Outcome State Fault Refusal :=
  moveRow c sl w 0x14 s (fun s x => s.rotChecks x w) fun s x seq =>
    let k := (s.tcOf x.c).rots
    let s := s.setTc x.c fun t => { t with rots := t.rots + 1 }
    s.enqueue x (s.newMove seq w (osAddr x.c + 64 * cbits w 92 78) (osAddr x.c + 64 * cbits w 77 63) (cbits w 62 48 + 1) 0 0 0 k)

/-- Units and classes of a page transfer: the remote class, and the read class when the page sent lies in the tier (R257). A
page that arrives is charged to the write class by where it lands. -/
def State.pageUnits (s : State) (l page : Nat) (put : Bool) : Nat × Nat :=
  let P := s.kvOf l (page / 2 ^ 22)
  if !(s.kvPool l (page / 2 ^ 22)).live then (0, 4)
  else (P.slotBytes / 64, if put && s.inTier (s.pageAddr P (page % 2 ^ 22)) then 5 else 4)

/-- PAGE_PUT (R118, R257). -/
def execPagePut (c : Fin 32) (sl : Slot) (w : CmdWord) (s : State) : Host.Outcome State Fault Refusal :=
  moveRow c sl w 0x18 s (fun s x => s.pageChecks x w) fun s x seq =>
    let (n, cls) := s.pageUnits x.l (cbits w 86 63) true
    s.enqueue x (s.newMove seq w (cbits w 86 63) (cbits w 62 39) n cls 0 0 0)

/-- PAGE_GET (R118, R257). -/
def execPageGet (c : Fin 32) (sl : Slot) (w : CmdWord) (s : State) : Host.Outcome State Fault Refusal :=
  moveRow c sl w 0x19 s (fun s x => s.pageChecks x w) fun s x seq =>
    let (n, cls) := s.pageUnits x.l (cbits w 86 63) false
    s.enqueue x (s.newMove seq w (cbits w 62 39) (cbits w 86 63) n cls 0 0 0)

/-! ### A move's progress -/

/-- Change the moves of a slot. -/
def State.setMoves (s : State) (c p : Nat) (sl : Slot) (f : MoveEntry → MoveEntry) : State :=
  s.setSlot c p sl fun t => { t with moves := t.moves.map f }

/-- Change the move of a slot with a sequence number. -/
def State.setMove (s : State) (c p : Nat) (sl : Slot) (seq : Nat) (f : MoveEntry → MoveEntry) : State :=
  s.setMoves c p sl fun m => if m.seq = seq then f m else m

/-- A move ends early with a status: nothing more is read or awaited. -/
def MoveEntry.fail (m : MoveEntry) (st : Nat) : MoveEntry := { m with st := st, done := m.units, acked := m.units + 1 }

/-- The operation's answers this move still waits for. -/
def MoveEntry.awaits (m : MoveEntry) : Bool :=
  match cOp m.w with
  | 0x10 => (w3Remote m.sw || w3Remote m.dw) && decide (m.acked < m.units)
  | 0x14 => false
  | _ => decide (m.acked = 0)

/-- A move has done all its work. -/
def MoveEntry.over (m : MoveEntry) : Bool := m.started && decide (m.units ≤ m.done) && !m.awaits

/-! ### Pages in transfer (R230, R235, R256 to R258) -/

/-- The page is not FREE, and nothing has released it while it is in use (R235). -/
def State.pageLive (s : State) (P : Kv) (i : Nat) : Bool :=
  (s.page P i).st != 0 && !(s.kvXfer.any fun u => u.l == P.l && u.pool == P.pool && u.page == i && u.dead) &&
    !(s.kvMoves.any fun m => m.of P i && m.dead)

/-- The local page of a transfer is allocated. -/
def State.pageAllocated (s : State) (l page : Nat) : Bool :=
  let p := page / 2 ^ 22
  let P := s.kvOf l p
  (s.kvPool l p).live && decide (page % 2 ^ 22 < P.npage) && s.pageLive P (page % 2 ^ 22)

/-- Checks of a page that is written: its pool, the page, REFS (R257, R258). `none_` is the status of a missing pool: NOT_READY on
the peer, BOUNDS here, where the page then lies in no pool. -/
def State.pageWriteChecks (s : State) (l pool page none_ : Nat) : List (Bool × Nat) :=
  let live := s.bound l && (s.kvPool l pool).live
  let there := live && s.pageAllocated l (pool * 2 ^ 22 + page)
  [(!live, none_), (live && !there, St.bounds), (there && decide (1 < (s.page (s.kvOf l pool) page).refs), St.state)]

/-- A page comes into use by a transfer (R230, R235): it shows MOVING; the place it has is kept, or comes from the spill or fetch
that moves it now. -/
def State.pageUse (s : State) (l pool i : Nat) : State :=
  let P := s.kvOf l pool
  let d := s.page P i
  if (s.xferOf P i).isSome || !s.pageLive P i then s
  else
    let u : KvXfer := ⟨l, pool, i, if d.st = 3 then 0 else d.st, d.slot, d.unit, false, none⟩
    { s.setPage P i { d with st := 3, unit := nil32 } with kvXfer := s.kvXfer ++ [u] }

/-- A place lies in the pool's slots. -/
def State.inSlots (s : State) (P : Kv) (a : Nat) : Bool :=
  decide (s.slotAddr P 0 ≤ a) && decide (a < s.slotAddr P P.nslot)

/-- The written page switches to the copy (R257): its FILL and summary come with it, its TOUCH is the step, its old place is
free. A fetch that waits to begin takes it from the new spill unit, or has nothing left to do. -/
def State.pageSwitch (s : State) (P : Kv) (i a : Nat) (last : List Byte) : State :=
  let s := { s with landing := s.landing.filter fun b => b != a }
  let d := { s.page P i with fill := (last.headD 0).toNat % 128, touch := s.kvStep P }
  let s := if s.inSlots P a then
      { s.setPage P i { d with st := 1, slot := (a - s.slotAddr P 0) / P.slotBytes, unit := nil32 } with
        kvMoves := s.kvMoves.filter fun m => !m.of P i }
    else
      let u := (a - s.unitAddr P 0) / (P.frames * 4096)
      { s.setPage P i { d with st := 2, slot := nil32, unit := u } with
        kvMoves := s.kvMoves.map fun m => if m.of P i then { m with unit := u } else m }
  s.wrLE (P.sumA i) (2 * P.hd) ((last.drop 2).foldr (fun b v => b.toNat + 256 * v) 0)

/-- The copy of a page has arrived whole: the page switches to it when no use is left (R235, R257). -/
def State.pageArrived (s : State) (P : Kv) (i a : Nat) (last : List Byte) : State :=
  (s.pageUse P.l P.pool i).modXfer P i fun u => { u with swap := some (a, last) }

/-- The local page of a page transfer. -/
def MoveEntry.page (m : MoveEntry) : Option Nat :=
  if cOp m.w = 0x18 then some m.src else if cOp m.w = 0x19 then some m.dst else none

/-- A transfer of this end or of a peer, or an APPEND, still uses a page (R235). -/
def State.xferUsed (s : State) (u : KvXfer) : Bool :=
  (s.tc.any fun (_, t) => t.slots.any fun (_, v) => v.ldg == u.l &&
      v.moves.any fun m => m.started && !m.over && m.page == some (u.pool * 2 ^ 22 + u.page)) ||
    (s.linkOps.any fun o => o.ldg == u.l && o.src == .peer u.pool u.page St.ok) ||
    (s.appending (s.kvOf u.l u.pool)).contains u.page

/-- A use by transfers has ended: a released page is freed, an arrived copy replaces the page's place, any other page has its
place back (R235, R257). -/
def State.settlePage (s : State) (u : KvXfer) : State :=
  if u.st = 0 || s.xferUsed u then s
  else
    let P := s.kvOf u.l u.pool
    let s := { s with kvXfer := s.kvXfer.filter fun v => v != u }
    let s := match u.dead, u.swap with
      | true, w => { s.setPage P u.page PageD.free with
          kvMoves := s.kvMoves.filter fun m => !m.of P u.page
          landing := s.landing.filter fun b => some b != w.map Prod.fst }
      | false, some (a, last) => s.pageSwitch P u.page a last
      | false, none => s.modPage P u.page fun d => { d with st := u.st, slot := if u.st = 1 then u.slot else nil32, unit := u.unit }
    (s.kvSync P).kvPump P

/-- End every use by transfers that is over, and bring on the functions that a teardown left (R234, R235). -/
def State.kvSettle (s : State) : State := s.kvXfer.foldl (fun s u => s.settlePage u) s.restGo

/-- The records of a page sent whole: its slot bytes, then FILL and the summary with LAST (R600); none when a word of it is
uncorrectable (R218). The page has been read (R230). -/
def State.pageRecs (s : State) (P : Kv) (i kind l peer pool page : Nat) : State × Option (List LinkRec) :=
  let d := s.page P i
  let (s, v, bad) := s.getBytes P.l (s.pageAddr P i) P.slotBytes
  if bad then (s, none)
  else
    let body := (List.range (cdiv P.slotBytes 4096)).map fun k =>
      let n := min 4096 (P.slotBytes - 4096 * k)
      (⟨kind, false, l, peer, pool, 0, 0, page, (List.range n).map fun j => BitVec.ofNat 8 (v / 256 ^ (4096 * k + j)), 0, 0⟩ : LinkRec)
    (s.setPage P i { d with touch := s.kvStep P }, some (body ++
      [⟨kind, true, l, peer, pool, 0, 0, page, [BitVec.ofNat 8 d.fill, 0] ++ s.bytesAt (P.sumA i) (2 * P.hd), 0, 0⟩]))

/-- Send a page transfer's request (R257, R600): a PUT's page, or a GET's request. A PUT whose local page is not
allocated sends an empty request, so that the peer's checks can answer first (R258). -/
def State.sendPage (s : State) (c p : Nat) (sl : Slot) (l : Nat) (m : MoveEntry) : State :=
  let k := cbits m.w 92 91
  let peer := cbits m.w 90 87
  if !s.linkUp k then s.setMove c p sl m.seq fun m => m.fail St.failed
  else if cOp m.w = 0x18 then
    let lp := m.src
    let rp := m.dst
    let (s, recs) := if s.pageAllocated l lp then
        s.pageRecs (s.kvOf l (lp / 2 ^ 22)) (lp % 2 ^ 22) 5 l peer (rp / 2 ^ 22) (rp % 2 ^ 22)
      else (s, some [⟨5, true, l, peer, rp / 2 ^ 22, 0, 0, rp % 2 ^ 22, [], 0, 0⟩])
    match recs with
    | some rs => s.linkAsk k 5 l (.page c p sl m.seq) rs
    | none => s.setMove c p sl m.seq fun m => m.fail St.integrity
  else s.linkAsk k 6 l (.page c p sl m.seq) [⟨6, true, l, peer, m.src / 2 ^ 22, 0, 0, m.src % 2 ^ 22, [], 0, 0⟩]

/-! ### Admission (R113, R216) -/

/-- Admit and move the next unit of a started move (R113, R216). -/
def State.moveStep (s : State) (c p : Nat) (sl : Slot) (l : Nat) (m : MoveEntry) : State :=
  let s := s.pay l m.classes
  let k := m.done
  let step (s : State) : State := s.setMove c p sl m.seq fun m => { m with done := m.done + 1 }
  match cOp m.w with
  | 0x10 =>
    let src := m.src + 64 * k
    let dst := m.dst + 64 * k
    if w3Remote m.sw then
      let q := w3Link m.sw
      if !s.linkUp q then s.setMove c p sl m.seq fun m => m.fail St.failed
      else step (s.linkAsk q 2 l (.move c p sl m.seq dst) [remoteRec 2 l m.sw src []])
    else if w3Remote m.dw then
      let q := w3Link m.dw
      if !s.linkUp q then s.setMove c p sl m.seq fun m => m.fail St.failed
      else
        let (s, v, bad) := s.getUnit l src
        if bad then s.setMove c p sl m.seq fun m => m.fail St.integrity
        else step (s.linkAsk q 1 l (.move c p sl m.seq dst)
          [remoteRec 1 l m.dw dst ((List.range 64).map fun i => BitVec.ofNat 8 (v / 256 ^ i))])
    else
      let (s, bad) := s.moveUnit l dst src
      if bad then s.setMove c p sl m.seq fun m => m.fail St.integrity else step s
  | 0x18 => if k + 1 < m.units then step s else step (s.sendPage c p sl l m)
  | _ => step s

/-- The move of a queue that transfers now: the first started one with units left. -/
def TcSlot.moving (t : TcSlot) : Option MoveEntry := t.moves.find? fun m => m.started && decide (m.done < m.units)

/-- Admit one unit of a slot's queue; none when it has nothing to move or lacks a token. -/
def State.slotAdmit (s : State) (c p : Nat) (sl : Slot) (l : Nat) : Option State :=
  match (s.slotOf c p sl).moving with
  | none => none
  | some m => if cOp m.w != 0x14 && s.affords l m.classes then some (s.moveStep c p sl l m) else none

/-- The move queues of a lodging: every slot it runs, by core, partition and slot. -/
def State.queuesOf (s : State) (l : Nat) : List (Nat × Nat × Slot) :=
  s.tc.flatMap fun (c, t) => (t.slots.filter fun (_, u) => u.ldg == l && u.moves != []).map fun (k, _) =>
    (c, k / 2, if k % 2 = 0 then Slot.a else Slot.b)

/-- A requester's place in the round robin of a lodging: a slot's move queue, or the page manager's, behind them all (R216,
R251). -/
def queueNo : Option (Nat × Nat × Slot) → Nat
  | some (c, p, sl) => 1 + 8 * c + 2 * p + sl.idx
  | none => 257

/-- The queues of a lodging in the order of a round: those behind the one admitted last come first. -/
def State.roundOf (s : State) (l : Nat) : List (Option (Nat × Nat × Slot)) :=
  let k := tget (fun _ => 0) s.rrAt l
  let qs := (s.queuesOf l).map some ++ [none]
  (qs.filter fun q => decide (k < queueNo q)) ++ qs.filter fun q => decide (queueNo q ≤ k)

/-- Admit one unit of a queue; none when it has nothing to move or lacks a token. -/
def State.queueAdmit (s : State) (l : Nat) : Option (Nat × Nat × Slot) → Option State
  | some (c, p, sl) => s.slotAdmit c p sl l
  | none => s.kvAdmit l

/-- One round of the round robin of R216: one unit of each priority requester, then one of each queue of the lodging. -/
def State.admitRound (s : State) (l : Nat) : State × Bool :=
  (s.roundOf l).foldl (fun (r : State × Bool) q =>
    match r.1.queueAdmit l q with
    | some s => ({ s with rrAt := tput (fun _ => 0) s.rrAt l (queueNo q) }, true)
    | none => r) (s.dueRound l)

/-- Admit units while any can be admitted; `fuel` bounds the rounds. -/
def State.admitAll (s : State) (l : Nat) : Nat → State
  | 0 => s
  | fuel + 1 =>
    let (s', any) := s.admitRound l
    if any then State.admitAll s' l fuel else s'

/-- More rounds than the lodging's queued moves have units. -/
def State.pump (s : State) (l : Nat) : State :=
  let n := (s.queuesOf l).foldl (fun n (c, p, sl) => n + (s.slotOf c p sl).moves.foldl (fun k m => k + m.units) 0) 0
  s.admitAll l (n + s.kvMoves.foldl (fun k m => k + m.units) 0 + s.owedAll l + 1)

/-! ### ROT rounds (R116, R117) -/

/-- The k-th ROT of a core, once it has passed its WAIT. -/
def State.rotOf (s : State) (c k : Nat) : Option (Slot × MoveEntry) :=
  let f (sl : Slot) := ((s.slotOf c 0 sl).moves.find? fun m => cOp m.w == 0x14 && m.round == k && m.started).map fun m => (sl, m)
  match f .a with
  | some r => some r
  | none => f .b

/-- Run round k when every core of the ring has issued its ROT and passed its WAIT. -/
def State.rotRound (s : State) (l k : Nat) : State :=
  let cs := s.ringCores l
  let rs := cs.map fun c => (c, s.rotOf c k)
  if rs.any fun r => r.2.isNone then s
  else
    let ms := rs.filterMap fun (c, o) => o.map fun (sl, m) => (c, sl, m)
    let len0 := match ms with
      | (_, _, m) :: _ => m.units
      | [] => 0
    if ms.any fun (_, _, m) => m.units != len0 then
      ms.foldl (fun s (c, sl, m) => s.setMove c 0 sl m.seq fun m => m.fail St.format) s
    else
      let s0 := s
      let n := ms.length
      let s := ms.zipIdx.foldl (fun s ((_, _, m), i) =>
        match ms[(i + n - 1) % n]? with
        | some (_, _, d) =>
          if s0.poisoned m.src (64 * m.units) then s
          else (s.wrLE d.dst (64 * m.units) (s0.rdLE m.src (64 * m.units))).clearPoison d.dst (64 * m.units)
        | none => s) s
      ms.foldl (fun s (c, sl, m) => s.setMove c 0 sl m.seq fun m =>
        if s0.poisoned m.src (64 * m.units) then m.fail St.integrity else { m with done := m.units }) s

/-! ### Starting (R112) -/

/-- The next move of a queue that may start: the first not started, when every earlier one has read its last unit and
its WAIT object has reached its threshold. -/
def State.startable (s : State) (t : TcSlot) : Option MoveEntry :=
  match t.moves.find? fun m => !m.started with
  | none => none
  | some m =>
    let before := t.moves.filter fun n => n.started
    if (before.all fun n => decide (n.units ≤ n.done)) && (m.released || s.waitMet m.w) then some m else none

/-- A page transfer begins: its length and classes are those of its page now; the page it reads, or may write, is in use
(R235, R257). -/
def State.pageStart (s : State) (c p : Nat) (sl : Slot) (l : Nat) (m : MoveEntry) : State :=
  let put := cOp m.w == 0x18
  let page := if put then m.src else m.dst
  let (n, cls) := s.pageUnits l page put
  let s := s.setMove c p sl m.seq fun m => { m with units := n, classes := cls }
  let ok := if put then s.pageAllocated l page else pick (s.pageWriteChecks l (page / 2 ^ 22) (page % 2 ^ 22) St.bounds) == St.ok
  let s := if ok then s.pageUse l (page / 2 ^ 22) (page % 2 ^ 22) else s
  if put && n != 0 then s else s.sendPage c p sl l m

/-- MOVE_START (R112): the move begins; an unregulated one moves at once, a regulated one as far as its tokens go. -/
def execMoveStart (c : Fin 32) (p : Fin 4) (sl : Slot) (s : State) : Host.Outcome State Fault Refusal :=
  let t := s.slotOf c.val p.val sl
  match s.startable t with
  | none => .next s
  | some m =>
    let s := s.setMove c.val p.val sl m.seq fun m => { m with started := true }
    match cOp m.w with
    | 0x14 => .next (s.rotRound t.ldg m.round)
    | 0x10 => .next (s.pump t.ldg)
    | _ => .next (((s.pageStart c.val p.val sl t.ldg m).pump t.ldg).kvSettle)

/-! ### Refill, refresh, scrub (R210, R211, R215, R219) -/

/-- REFILL of a lodging's buckets, every 600 CTL cycles from its waybill's start (R215, R224): an interval in which a
unit waited counts once in WAIT_US; the tokens gained let units through. -/
def execRefill (l : Fin 16) (s : State) : Host.Outcome State Fault Refusal :=
  let at_ := tget (fun _ => 0) s.refillAt l.val
  if s.cycle < at_ then .next s
  else
    let waited := (s.queuesOf l.val).any (fun (c, p, sl) =>
        match (s.slotOf c p sl).moving with
        | some m => cOp m.w != 0x14 && m.classes != 0
        | none => false) || (s.kvNext l.val).isSome || decide (s.owedAll l.val ≠ 0)
    let s := if waited then s.wr (Reg.MEM_WAIT_US l.val) (s.rr (Reg.MEM_WAIT_US l.val) + 1) else s
    let s := (List.range 3).foldl (fun s k =>
      s.setTokens l.val k (min (s.bucketCap l.val k) (s.tokens l.val k + s.refillUnits l.val k))) s
    .next ({ s with refillAt := tput (fun _ => 0) s.refillAt l.val (at_ + 600) }.pump l.val)

/-- TIER_REFRESH (R210): a refresh only delays accesses; the stall is MEM event 0x3003 (R498). -/
def execTierRefresh (_ch : Fin 8) (s : State) : Host.Outcome State Fault Refusal := .next (s.event 8 0x3003 none)

/-- SPILL_COMPLETE (R250). -/
def execSpillComplete (l : Fin 16) (pool : Fin 4) (page : Fin 4194304) (s : State) : Host.Outcome State Fault Refusal :=
  match s.kvMoves.find? fun m => m.l == l.val && m.pool == pool.val && m.page == page.val && m.kind == .spill && decide (m.units ≤ m.done) with
  | some m => .next (s.spillDone (s.kvOf l.val pool.val) m).kvSettle
  | none => .next s

/-- FETCH_COMPLETE (R250, R253). -/
def execFetchComplete (l : Fin 16) (pool : Fin 4) (page : Fin 4194304) (s : State) : Host.Outcome State Fault Refusal :=
  match s.kvMoves.find? fun m => m.l == l.val && m.pool == pool.val && m.page == page.val && m.kind != .spill && m.started &&
      decide (m.units ≤ m.done) with
  | some m => .next (s.fetchDone (s.kvOf l.val pool.val) m).kvSettle
  | none => .next s

end Sys2Proof.Machine
end

