-- ==== Sys2Proof/Machine/Lodging.lean ====
section
/-! DEFINITION. Waybills and lodgings: admission (R409, R410), dispatch (R411), the end (R412 to R414), the limit, cancel
and partial reset (R415, R419), clearing (R401). -/
namespace Sys2Proof.Machine
open Sys2Proof

/-! ### Clearing (R401) -/

/-- A slot no waybill runs, its state forgotten. -/
def State.clearSlots (s : State) (c p : Nat) : State :=
  (s.setSlot c p .a fun _ => TcSlot.idle).setSlot c p .b fun _ => TcSlot.idle

/-- Tables of a core counted as not loaded (R161, R168). -/
def State.dropTables (s : State) (c : Nat) : State :=
  (s.wr (Reg.TC_SFN_STATE c) 0).setTc c fun t => { t with table := [], dir := [] }

/-- A dedicated core cleared for its new lodging. -/
def State.clearCore (s : State) (c : Nat) : State :=
  let s := (s.zero (osAddr c) 0x200000).clearPoison (osAddr c) 0x200000
  let s := ((s.clearTiles c 0 0 256).clearAcc c 0 256).clearSlots c 0
  let s := s.clearBanks c
  s.dropTables c

/-- A partition's ranges: operand-store bytes, accumulator rows, tile-buffer rows. -/
def State.partRange (s : State) (c p : Nat) : (Nat × Nat) × (Nat × Nat) × (Nat × Nat) :=
  let r := Reg.TC_PART c p
  let lo := 0x10000 * s.gf r Fld.TC_PART_OS_BASE
  ((osAddr c + lo, osAddr c + lo + 0x10000 * (s.gf r Fld.TC_PART_OS_N + 1)),
    (64 * s.gf r Fld.TC_PART_ACC_BASE, 64 * (s.gf r Fld.TC_PART_ACC_N + 1)),
    (32 * s.gf r Fld.TC_PART_TB_BASE, 32 * (s.gf r Fld.TC_PART_TB_N + 1)))

/-- A partition cleared: its ranges, the banks and tables its lodging left, its shadows. -/
def State.clearPart (s : State) (c p l : Nat) (os acc tb : Nat × Nat) : State :=
  let s := (s.zero os.1 (os.2 - os.1)).clearPoison os.1 (os.2 - os.1)
  let s := ((s.clearTiles c p tb.1 tb.2).clearAcc c acc.1 acc.2).clearSlots c p
  let s := s.dropBanks c p l
  let s := if s.gf (Reg.TC_SFN_STATE c) Fld.TC_SFN_STATE_OWNER = l then s.dropTables c else s
  s.setTc c fun t =>
    { t with
      shBank := tclear (16384 * p) (16384 * (p + 1)) t.shBank, shScale := tclear (2048 * p) (2048 * (p + 1)) t.shScale
      shTable := tclear (8192 * p) (8192 * (p + 1)) t.shTable, shDir := tclear (8 * p) (8 * (p + 1)) t.shDir
      shAct := tclear p (p + 1) t.shAct }

/-- An Iambel core and its IBC block, counters included, at their reset values; a CRC job it left is forgotten (R329). -/
def State.clearIbc (s : State) (n : Nat) : State :=
  let s := (s.zero (iamAddr n) 0x40000).clearPoison (iamAddr n) 0x40000
  let b := Reg.IBC_CTL n
  let w := Reg.CNT_SEL (0x30 + n) 0
  { s with
    ibc := tput (fun _ => Ibc.reset) s.ibc n Ibc.reset
    regs := tclear w (w + 0x88) (tclear b (b + 0x180) s.regs)
    cntPend := tclear w (w + 0x88) s.cntPend
    cntLatch := s.cntLatch.filter fun (k, _) => !(decide (w ≤ k % 2 ^ 24) && decide (k % 2 ^ 24 < w + 0x88))
    crcJobs := tput (fun _ => none) s.crcJobs n none }.sf (Reg.LDPC_CRC_RES n) Fld.LDPC_CRC_RES_BUSY 0

/-- A WING or HALL granule written to 0. -/
def State.clearGranule (s : State) (a : Nat) : State := (s.zero a 0x10000).clearPoison a 0x10000

/-- The WING and HALL granules of a lodging's regions. -/
def State.granules (s : State) (l : Nat) : List Nat :=
  ((List.range 64).flatMap fun i =>
    let r := s.region l i
    if r.valid && (r.kind == 1 || r.kind == 2) then (List.range (r.len + 1)).map fun k => r.base + 0x10000 * k else []).eraseDups

/-- Every resource of a lodging cleared, as when it passes to a new one (R419). -/
def State.clearAll (s : State) (l : Nat) : State :=
  let s := (List.range 32).foldl (fun s c => if s.dedicated l c then s.clearCore c else s) s
  let s := (List.range 32).foldl (fun s c =>
    match s.partOf l c with
    | some p => let (os, acc, tb) := s.partRange c p; s.clearPart c p l os acc tb
    | none => s) s
  let s := (List.range 16).foldl (fun s n => if s.rbit (Reg.LDG_IAMBEL l) n then s.clearIbc n else s) s
  let s := (List.range 64).foldl (fun s k => if s.syncHolder (64 * k) = some l then s.clearBlock k else s) s
  (s.granules l).foldl (fun s a => s.clearGranule a) s

/-- The lodging's pools and prefix entries deleted (R419). -/
def State.dropPools (s : State) (l : Nat) : State :=
  let s := s.pfxDropLodging l
  { s with
    kv := tclear (4 * l) (4 * l + 4) s.kv
    kvMoves := s.kvMoves.filter fun m => m.l != l
    kvq := s.kvq.filter fun q => q.l != l
    kvXfer := s.kvXfer.filter fun q => q.l != l
    kvRest := s.kvRest.filter fun q => q.l != l }

/-! ### Admission (R409, R410) -/

/-- A slot entry of a descriptor. -/
structure WbEnt where
  core : Nat
  slot : Nat
  cmdReg : Nat
  crReg : Nat
  cmdOff : Nat
  crOff : Nat
  crSize : Nat
  resv : Nat
deriving DecidableEq, Repr

/-- Read a slot entry. -/
def WbEnt.of (e : Nat) : WbEnt :=
  ⟨dfield e 0 1, dfield e 1 1, dfield e 2 1, dfield e 3 1, dfield e 4 4, dfield e 8 4, dfield e 0xC 2, dfield e 0xE 2⟩

/-- A core a lodging's slots may run on. -/
def State.mayUse (s : State) (l c : Nat) : Bool := decide (c < 32) && (s.dedicated l c || (s.partOf l c).isSome)

/-- An optional object of a descriptor (R409). -/
def optObj (v : Nat) : Option Nat := if v.testBit 15 then some (v % 4096) else none

/-- The object of an optional field lies outside the lodging's blocks. -/
def State.objBad (s : State) (l : Nat) (o : Option Nat) : Bool :=
  match o with
  | some o => s.syncBound o != some l
  | none => false

/-- Iambel cores of a mask. -/
def coresOf (mask : Nat) : List Nat := (List.range 16).filter fun n => mask.testBit n

/-- The checks of R410 on a descriptor's header and entries. None asks that a command buffer's region be on chip, as R92 has it
(DESIGN CHOICE; log 85). -/
def State.wbChecks (s : State) (l h : Nat) (es : List WbEnt) : List (Bool × Nat) :=
  let reg (i : Nat) : Region := if i < 64 then s.region l i else Region.ofWords 0 0 0 0
  let nout := dfield h 0x0C 1
  let outs := (List.range (min nout 4)).map fun o => (dfield h (0x10 + 8 * o) 1, dfield h (0x11 + 8 * o) 3, dfield h (0x14 + 8 * o) 4)
  let bq := dfield h 5 1
  let y := dfield h 8 2
  let d := dfield h 0xA 2
  [(es.any fun e => e.slot ≤ 1 && !s.mayUse l e.core, St.permission),
   ((coresOf (dfield h 6 2)).any fun n => s.ibcBound n != some l, St.permission),
   (es.any fun e => (reg e.cmdReg).valid && !((reg e.cmdReg).rd && (reg e.cmdReg).cmd), St.permission),
   (es.any fun e => (reg e.crReg).valid && !(reg e.crReg).wr, St.permission),
   (outs.any fun (r, _, _) => (reg r).valid && !(reg r).wr, St.permission),
   (s.objBad l (optObj y), St.permission), (s.objBad l (optObj d), St.permission),
   (decide (bq / 16 ≠ 0), St.format), (nbits y 14 12 != 0, St.format), (nbits d 14 12 != 0, St.format),
   (dfield h 0x0D 3 != 0, St.format), (dfield h 0x34 12 != 0, St.format), (outs.any fun (_, v, _) => v != 0, St.format),
   (es.any fun e => e.resv != 0 || decide (1 < e.slot), St.format),
   ((es.map fun e => (e.core, e.slot)).eraseDups.length != es.length, St.format), (decide (4 < nout), St.format),
   (decide (64 < dfield h 4 1), St.bounds),
   (es.any fun e => !(reg e.cmdReg).holds e.cmdOff 16 || !(reg e.crReg).holds e.crOff (16 * (e.crSize + 1)), St.bounds),
   (es.any fun e => decide (e.crSize < 2) || decide (e.cmdOff % 16 ≠ 0) || decide (e.crOff % 16 ≠ 0), St.bounds),
   (outs.any fun (r, _, o) => !(reg r).holds o 16 || decide (o % 16 ≠ 0), St.bounds),
   ((List.range 4).any fun q => bq.testBit q && !(s.bqValid l q && bqMode (s.bqOf l q).desc == 0), St.state),
   (decide (64 ≤ (s.lodgeOf l).queue.length), St.busy)]

/-- A waybill refused at admission or dispatch (R410, R411): its record, WB_REJECT. -/
def State.wbReject (s : State) (l : Nat) (w : Wb) (st : Nat) : State :=
  (s.wbDone l w st 0xFF 0xFF 0xFF 0 0).setFlag Reg.LDG_FLAG 0 (some l)

/-- The waybill of a descriptor. -/
def State.wbOf (s : State) (l no idx h : Nat) (es : List WbEnt) : Wb where
  id := dfield h 0 4
  no := no
  idx := idx
  slots := es.map fun e => ⟨e.core, if e.slot = 0 then .a else .b, (s.region l e.cmdReg).base + e.cmdOff,
    (s.region l e.crReg).base + e.crOff, e.crSize + 1⟩
  ibc := dfield h 6 2
  yieldObj := optObj (dfield h 8 2)
  doneObj := optObj (dfield h 0xA 2)
  outs := (List.range (min (dfield h 0x0C 1) 4)).map fun o => (s.region l (dfield h (0x10 + 8 * o) 1)).base + dfield h (0x14 + 8 * o) 4
  limit := dfield h 0x30 4
  bq := dfield h 5 1 % 16

/-- A waybill without a descriptor. -/
def Wb.bare (no idx : Nat) : Wb := ⟨0, no, idx, [], 0, none, none, [], 0, 0⟩

/-- Admit the waybill a submission entry names (R410). -/
def State.takeWaybill (s : State) (l : Nat) (e : Sub) (no : Nat) : State :=
  let r := if e.reg < 64 then s.region l e.reg else Region.ofWords 0 0 0 0
  if !s.bound l then s.wbReject l (Wb.bare no e.idx) St.notReady
  else
    let a := r.base + e.off
    let st0 := pick [(r.valid && !r.rd, St.permission), (!r.holds e.off 64 || r.kind == 5, St.bounds),
      (decide (e.off % 64 ≠ 0), St.bounds)]
    if st0 ≠ St.ok then s.wbReject l (Wb.bare no e.idx) st0
    else
      let (s, h, bad) := s.getBytes l a 64
      let n := min (dfield h 4 1) 64
      let (s, v, bad2) := s.getBytes l (a + 64) (16 * n)
      let es := (List.range n).map fun i => WbEnt.of (dfield v (16 * i) 16)
      let w := s.wbOf l no e.idx h es
      let st := pick (s.wbChecks l h es ++ [(!r.holds e.off (64 + 16 * dfield h 4 1), St.bounds)])
      if bad || bad2 then s.wbReject l (Wb.bare no e.idx) St.integrity
      else if st ≠ St.ok then s.wbReject l w st
      else s.setLodge l fun g => { g with queue := g.queue ++ [w] }

/-- WAYBILL (R410, R587): a WAYBILL entry of the lodging's ring is admitted and queued, or refused. -/
def execWaybill (l : Fin 16) (s : State) : Host.Outcome State Fault Refusal :=
  subRow l (· == 1) s fun e no s => if e.badPlain then s.refuseSub l.val e no St.format else s.takeWaybill l.val e no

/-! ### Dispatch and end (R411, R412) -/

/-- A running waybill has ended: every slot has completed END, every Iambel core it started has stopped through STOP. -/
def State.wbOver (s : State) (l : Nat) (w : Wb) : Bool :=
  (w.slots.all fun e => (s.slotOf e.core (s.partIx l e.core) e.sl).ended) &&
    (coresOf w.ibc).all fun n => (s.lodgeOf l).stopped.testBit n && (s.ibcOf n).st == 0

/-- The end of a waybill (R412). -/
def State.wbFinish (s : State) (l : Nat) (w : Wb) : State :=
  let s := (s.liveSlots l w).foldl (fun s (e, p) => (s.setSlot e.core p e.sl TcSlot.quit).dropAttach e.core p) s
  let s := w.outs.foldl (fun s a => s.marker l a w.id 0) s
  let s := s.freeBatches l w.bq
  let s := match w.doneObj with
    | some o => s.signal o 1
    | none => s
  let s := s.wbDone l w St.ok 0xFF 0xFF 0xFF 0 0
  (s.setLodge l fun g => { g with run := none, yieldAt := none, inDebug := 0, stopped := 0 }).leaveDebug l

/-- A resource that a waybill of the lodging would use is still held for the lodging it leaves, or waits to be cleared
(R425). -/
def State.wbHeld (s : State) (l : Nat) (w : Wb) : Bool :=
  s.stg.releases.any fun r => match r.res with
    | .core c => w.slots.any fun e => e.core == c
    | .part c _ => (w.slots.any fun e => e.core == c) && (match s.partOf l c with
        | some p => s.stg.enter.contains (c, p)
        | none => true)
    | .iambel n => w.ibc.testBit n
    | .sync k => [w.yieldObj, w.doneObj].any fun o => o.map (· / 64) == some k
    | .granule a => tget (fun _ => 0) s.cover (a / 65536) == l + 1
    | _ => false

/-- Start a named slot (R127, R128, R411); its core's ROT count starts with the waybill (`State.rotsFresh`; log 81). -/
def State.startSlot (s : State) (l : Nat) (e : WbSlot) : State :=
  s.setSlot e.core (s.partIx l e.core) e.sl fun _ =>
    { TcSlot.idle with active := true, st := 1, ldg := l, buf := e.buf, ring := e.ring, ringN := e.ringN }

/-- The cores of a lodging's ring count their ROTs from 0 with a waybill's dispatch (R116; log 81). -/
def State.rotsFresh (s : State) (l : Nat) : State :=
  (s.ringCores l).foldl (fun s c => s.setTc c fun t => { t with rots := 0 }) s

/-- The UNIT of a FAILED unit that a waybill names: a core, or 0xFF for its YIELD_OBJ or DONE_OBJ (R414, R474, R485). -/
def State.failedUnit (s : State) (w : Wb) : Option Nat :=
  match w.slots.find? fun e => (s.gf (Reg.REL_CORE_MAP (e.core / 4)) Fld.REL_CORE_MAP_FAILED).testBit (e.core % 4) with
  | some e => some e.core
  | none => match (coresOf w.ibc).find? fun n => (s.gf Reg.REL_IBC_MAP Fld.REL_IBC_MAP_FAILED).testBit n with
    | some n => some n
    | none => if s.failed.any fun x => x.1 == 10 && [w.yieldObj, w.doneObj].contains (some x.2) then some 0xFF else none

/-- DISPATCH (R411) of the oldest queued waybill of an IDLE lodging; one that names a FAILED unit is torn down at dispatch
(R474). -/
def execDispatch (l : Fin 16) (s : State) : Host.Outcome State Fault Refusal :=
  let l := l.val
  let g := s.lodgeOf l
  match g.queue with
  | [] => .next s
  | w :: t =>
    if !s.bound l || g.run.isSome || g.dbgAt.isSome || s.innHalt || s.wbHeld l w then .next s
    else
      let s := s.setLodge l fun g => { g with queue := t }
      if (w.slots.any fun e => !s.mayUse l e.core) || ((coresOf w.ibc).any fun n => s.ibcBound n != some l) ||
          s.objBad l w.yieldObj || s.objBad l w.doneObj then .next (s.wbReject l w St.permission)
      else if (coresOf w.ibc).any fun n => (s.ibcOf n).st != 0 then .next (s.wbReject l w St.state)
      else
        let s := w.outs.foldl (fun s a => s.marker l a w.id 0xFF) s
        let s := (List.range 4).foldl (fun s q => if w.bq.testBit q then s.formBatch l q else s) s
        let s := (w.slots.foldl (fun s e => s.startSlot l e) s).rotsFresh l
        let s := (s.fillBuckets l).pump l
        let s := { s with refillAt := tput (fun _ => 0) s.refillAt l (s.cycle + 600) }
        let s := (coresOf w.ibc).foldl (fun s n => s.ibStart n) s
        let s := s.setLodge l fun g => { g with run := some w, since := s.cycle, inDebug := 0, stopped := 0, yieldAt := none }
        .next (match s.failedUnit w with
          | some u => s.teardown l 2 u 0xFF 0 St.failed
          | none => if w.slots.isEmpty && w.ibc = 0 then s.wbFinish l w else s)

/-- WAYBILL_END (R412). -/
def execWaybillEnd (l : Fin 16) (s : State) : Host.Outcome State Fault Refusal :=
  match (s.lodgeOf l.val).run with
  | some w => .next (if s.wbOver l.val w then s.wbFinish l.val w else s)
  | none => .next s

/-- LIMIT_EXPIRY (R415): LIMIT µs have passed since dispatch, time in DEBUG not counted. -/
def execLimitExpiry (l : Fin 16) (s : State) : Host.Outcome State Fault Refusal :=
  let g := s.lodgeOf l.val
  match g.run with
  | some w =>
    if w.limit = 0 ∨ g.dbgAt.isSome ∨ s.cycle < g.since + g.inDebug + 600 * w.limit then .next s
    else .next (s.teardown l.val 3 0xFF 0xFF 0 St.timeout)
  | none => .next s

/-- CANCEL of a lodging's running waybill (R419): the host physical function and the lodging's own function are heard. -/
def State.cancel (s : State) (who : Requester) (l : Nat) : State :=
  match who with
  | .pf => s.teardown l 5 0xFF 0xFF 0 0
  | .vf _ => s.teardown l 5 0xFF 0xFF 0 0
  | _ => s

/-- CANCEL (R419): a write of LDG.CTL.CANCEL by the host physical function or the lodging's own function. -/
def execCancel (who : Requester) (l : Fin 16) (s : State) : Host.Outcome State Fault Refusal :=
  .next (s.asWrite who (Reg.LDG_CTL l.val) fun s => s.cancel who l.val)

/-- Queued waybills complete with TORN_DOWN and a cause (R400, R419). -/
def State.dropQueue (s : State) (l cause : Nat) : State :=
  let q := (s.lodgeOf l).queue
  q.foldl (fun s w => s.wbDone l w St.tornDown cause 0xFF 0xFF 0 0) (s.setLodge l fun g => { g with queue := [] })

/-- A partial reset (R419). -/
def State.partialReset (s : State) (l : Nat) : State :=
  if !s.bound l then s
  else ((((s.teardown l 6 0xFF 0xFF 0 0).dropQueue l 6).dropPools l).clearAll l)

/-- A write of RESET (R419): only the host physical function's is heard; a virtual function's is outside R581. -/
def State.ldgReset (s : State) (who : Requester) (l : Nat) : State :=
  match who with
  | .pf => s.partialReset l
  | .vf _ => s.deny who
  | _ => s

/-- LDG_RESET (R419): a write of LDG.CTL.RESET. -/
def execLdgReset (who : Requester) (l : Fin 16) (s : State) : Host.Outcome State Fault Refusal :=
  .next (s.asWrite who (Reg.LDG_CTL l.val) fun s => s.ldgReset who l.val)

end Sys2Proof.Machine
end

