-- ==== Sys2Proof/Machine/Time.lean ====
section
/-! DEFINITION. Time bases (R434 to R440) and the times of a carrier's slots (R270, R289). -/
namespace Sys2Proof.Machine
open Sys2Proof

/-- One nanosecond, one microsecond and one second in the unit of a time base (2⁻³² ns). -/
def nsU : Nat := 2 ^ 32
def usU : Nat := 1000 * 2 ^ 32
def secU : Nat := 1000000000 * 2 ^ 32
/-- Where the 48-bit seconds wrap. -/
def tbWrap : Nat := 2 ^ 48 * secU

/-- A time base. -/
def State.tbOf (s : State) (n : Nat) : TimeBase := tget (fun _ => TimeBase.reset) s.tb n
/-- Change a time base. -/
def State.setTb (s : State) (n : Nat) (f : TimeBase → TimeBase) : State :=
  { s with tb := tmod (fun _ => TimeBase.reset) s.tb n f }
/-- The time a time base reads. -/
def State.now (s : State) (n : Nat) : Nat := (s.tbOf n).t

/-- Fields of a time: fraction (16 bits), nanoseconds, seconds (R434). -/
def tFrac (t : Nat) : Nat := t % nsU / 2 ^ 16
def tNs (t : Nat) : Nat := t / nsU % 1000000000
def tSec (t : Nat) : Nat := t / secU

/-- v / d rounded to nearest, ties to even. -/
def rneDiv (v d : Nat) : Nat :=
  let q := v / d
  let r := v % d
  if 2 * r < d then q else if d < 2 * r then q + 1 else if q % 2 = 0 then q else q + 1

/-- The increment of a tick while a slew remains (R439). -/
def slewIncr (incr slew : Nat) (pos : Bool) : Nat :=
  rneDiv (incr * (if pos then 1000000000 + slew else 1000000000 - slew)) 1000000000

/-- One CTL tick of a time base (R434, R435, R438, R439). -/
def TimeBase.tick (b : TimeBase) (slew : Nat) : TimeBase :=
  match b.start with
  | some t => { b with running := true, t := t, start := none }
  | none =>
    if !b.running then b
    else
      let (incr, next) := match b.next with
        | some (v, k) => if k ≤ 1 then (v, none) else (b.incr, some (v, k - 1))
        | none => (b.incr, none)
      let b := { b with incr := incr, next := next }
      if b.rem = 0 then { b with t := (b.t + incr) % tbWrap }
      else
        let inc := slewIncr incr slew (decide (0 < b.rem))
        let d : Int := (inc : Int) - incr
        if b.rem.natAbs ≤ d.natAbs then { b with t := (((b.t : Int) + incr + b.rem) % tbWrap).toNat, rem := 0 }
        else { b with t := (b.t + inc) % tbWrap, rem := b.rem - d }

/-- The next tick ends the slew (R439). -/
def TimeBase.slewEnds (b : TimeBase) (slew : Nat) : Bool :=
  b.running && b.rem != 0 &&
    decide (b.rem.natAbs ≤ ((slewIncr b.incr slew (decide (0 < b.rem)) : Int) - b.incr).natAbs)

/-- SLEW of a time base (R462). -/
def State.slewOf (s : State) (n : Nat) : Nat := s.gf (Reg.TB_SLEW n) Fld.TB_SLEW_SLEW

/-! ### Carriers (R259, R270, R289, R296) -/

/-- A carrier is enabled. -/
def State.carOn (s : State) (a : Nat) : Bool := s.gf (Reg.AIR_CAR_CFG0 a) Fld.AIR_CAR_CFG0_ENABLE == 1
/-- The lodging that serves a carrier. -/
def State.carLdg (s : State) (a : Nat) : Nat := s.gf (Reg.AIR_CAR_CFG0 a) Fld.AIR_CAR_CFG0_LODGING
/-- Its time base, numerology code (0, 1, 2 for numerologies 0, 1, 3), PRBs, streams. -/
def State.carTb (s : State) (a : Nat) : Nat := s.gf (Reg.AIR_CAR_CFG0 a) Fld.AIR_CAR_CFG0_TB
def State.carNum (s : State) (a : Nat) : Nat := s.gf (Reg.AIR_CAR_CFG0 a) Fld.AIR_CAR_CFG0_NUM
def State.carPrb (s : State) (a : Nat) : Nat := s.gf (Reg.AIR_CAR_CFG0 a) Fld.AIR_CAR_CFG0_NPRB
def State.carUl (s : State) (a : Nat) : Nat := s.gf (Reg.AIR_CAR_CFG1 a) Fld.AIR_CAR_CFG1_UL_S + 1
def State.carDl (s : State) (a : Nat) : Nat := s.gf (Reg.AIR_CAR_CFG1 a) Fld.AIR_CAR_CFG1_DL_S + 1
/-- First object of its sync block (R279). -/
def State.carObj (s : State) (a : Nat) : Nat := 64 * s.gf (Reg.AIR_CAR_CFG1 a) Fld.AIR_CAR_CFG1_SOBJ_BLK

/-- Slot length in µs by numerology code; 3 is reserved. -/
def slotUs (num : Nat) : Nat := if num = 0 then 1000 else if num = 1 then 500 else 125
/-- Slots per frame. -/
def slotsPerFrame (num : Nat) : Nat := 10000 / slotUs num

/-- A value by numerology code. -/
def byNum (num a b c : Nat) : Nat := if num = 0 then a else if num = 1 then b else c

/-- A field with its default (R289, R296), in µs. -/
def orDefault (v d : Nat) : Nat := if v = 0 then d else v
def State.carDeadline (s : State) (a : Nat) : Nat :=
  orDefault (s.gf (Reg.AIR_CAR_CFG2 a) Fld.AIR_CAR_CFG2_DEADLINE) (byNum (s.carNum a) 1000 500 250)
def State.carLead (s : State) (a : Nat) : Nat :=
  orDefault (s.gf (Reg.AIR_CAR_CFG2 a) Fld.AIR_CAR_CFG2_LEAD) (byNum (s.carNum a) 1000 500 250)
def State.carArrMax (s : State) (a : Nat) : Nat :=
  orDefault (s.gf (Reg.AIR_CAR_CFG3 a) Fld.AIR_CAR_CFG3_ARR_MAX) (byNum (s.carNum a) 100 100 50)
def State.carDlAdv (s : State) (a : Nat) : Nat :=
  orDefault (s.gf (Reg.AIR_CAR_CFG3 a) Fld.AIR_CAR_CFG3_DL_ADV) (byNum (s.carNum a) 150 150 75)
def State.carCpAdv (s : State) (a : Nat) : Nat :=
  orDefault (s.gf (Reg.AIR_CAR_CFG3 a) Fld.AIR_CAR_CFG3_CP_ADV) (byNum (s.carNum a) 250 250 100)
/-- Last symbol that may carry DMRS (R290). -/
def State.carLastDmrs (s : State) (a : Nat) : Nat := orDefault (s.gf (Reg.AIR_CAR_CFG1 a) Fld.AIR_CAR_CFG1_LAST_DMRS) 11

/-- Windows W1 to W8 in µs (R289). -/
def window (k num : Nat) : Nat :=
  match k with
  | 1 => byNum num 8 4 2
  | 2 => byNum num 6 3 2
  | 3 => byNum num 12 6 3
  | 4 => byNum num 140 70 25
  | 5 => byNum num 80 40 12
  | 6 => byNum num 60 30 10
  | 7 => byNum num 500 250 110
  | _ => byNum num 20 10 6
/-- Windows D1 to D3 in µs (R289). -/
def dlWindow (k num : Nat) : Nat :=
  match k with
  | 1 => byNum num 160 80 30
  | 2 => byNum num 80 40 10
  | _ => byNum num 10 5 2

/-- Slots since the epoch of OFFSET at a time of the carrier's time base (R270). -/
def State.absSlot (s : State) (a : Nat) : Int :=
  ((s.now (s.carTb a) : Int) - (s.rr (Reg.AIR_CAR_OFFSET a)).toNat * nsU) / ((slotUs (s.carNum a) * usU : Nat) : Int)

/-- SFN and slot in progress (R270, R296). -/
def State.slotNow (s : State) (a : Nat) : Nat × Nat :=
  let spf := slotsPerFrame (s.carNum a)
  let k := (s.absSlot a % ((1024 * spf : Nat) : Int)).toNat
  (k / spf, k % spf)

/-- How many slots ahead (or behind) of the present one a slot of the 1,024 frames lies. -/
def State.slotsAhead (s : State) (a sfn slot : Nat) : Int :=
  let spf := slotsPerFrame (s.carNum a)
  let m : Nat := 1024 * spf
  let d := ((sfn * spf + slot : Nat) - s.absSlot a) % (m : Int)
  if d ≤ (m / 2 : Nat) then d else d - m

/-- Start of a slot on the carrier's time base. -/
def State.slotStart (s : State) (a sfn slot : Nat) : Nat :=
  ((s.absSlot a + s.slotsAhead a sfn slot) * ((slotUs (s.carNum a) * usU : Nat) : Int) +
    (s.rr (Reg.AIR_CAR_OFFSET a)).toNat * nsU).toNat

/-- Time from a slot's start to the start of symbol k (R270). -/
def symOff (num k : Nat) : Nat := k * slotUs num * usU / 14

end Sys2Proof.Machine
end

