-- ==== Sys2Proof/Machine/Order.lean ====
section
/-! DEFINITION. Slot orders (R271 to R277): constellation maps, transport-block entries, the checks of R276 and R301, result
records. -/
namespace Sys2Proof.Machine
open Sys2Proof

/-- The configuration that an order's slot is served under (R262): the registers as they are, but for a slot that had begun when a
commit changed its carrier. -/
def State.asOf (s : State) (o : SlotOrd) : State := o.cfg.foldl (fun s v => s.wr v.1 v.2) s

/-! ### The air buffer (R280) -/

/-- Device address of a tensor of a carrier's air buffer (log 16). -/
def airAt (a tensor i : Nat) : Nat := wingAddr 0 + Config.airPlace a tensor i % 0x8000000
/-- Uplink samples of a stream and symbol, the order's map of a layer, LLRs of a block, downlink samples of a stream and symbol. -/
def ulIq (a st k : Nat) : Nat := airAt a 0 (14 * st + k)
def mapAt (a layer : Nat) : Nat := airAt a 8 layer
def llrAt (a tbi : Nat) : Nat := airAt a 9 tbi
def dlIq (a st k : Nat) : Nat := airAt a 10 (14 * st + k)

/-- Key of a PRB in `got`. -/
def gotKey (st k p : Nat) : Nat := (14 * st + k) * 1024 + p

/-! ### Fields of an order (R274, R275) -/

def SlotOrd.nl (o : SlotOrd) : Nat := dfield o.hdr 3 1
def SlotOrd.tag (o : SlotOrd) : Nat := dfield o.hdr 0x20 4
def SlotOrd.dmrs (o : SlotOrd) : Nat := dfield o.hdr 0x10 2
def SlotOrd.beam (o : SlotOrd) : Nat := dfield o.hdr 0x1C 2
def SlotOrd.remap (o : SlotOrd) : Bool := dfield o.hdr 7 1 == 1
/-- When something of an order ended. -/
def SlotOrd.endOf (o : SlotOrd) (k : Nat) : Option Nat := (o.ends.find? fun x => x.1 == k).map fun x => x.2
/-- Something of an order ends at a time. -/
def SlotOrd.mark (o : SlotOrd) (k t : Nat) : SlotOrd := { o with ends := (k, t) :: o.ends.filter fun x => x.1 != k }
/-- It has ended. -/
def SlotOrd.has (o : SlotOrd) (k : Nat) : Bool := (o.endOf k).isSome

/-- Code of an RE on a layer (R272): map as a number, mode, subcarrier, symbol. -/
def mapCode (m : Nat) (re : Bool) (f k : Nat) : Nat :=
  let n := if re then 14 * f + k else 14 * (f / 12) + k
  m / 16 ^ n % 16

/-- Bits per RE of a code (R271). -/
def codeQm (c : Nat) : Nat :=
  match c with
  | 2 => 1 | 3 => 2 | 4 => 4 | 5 => 6 | 6 => 8 | 7 => 10
  | _ => 0

/-- Bytes of one layer's map (R272). -/
def mapBytes (re : Bool) (prb : Nat) : Nat := if re then 84 * prb else 7 * prb

/-- A subcarrier of a DMRS symbol that DMRS_CFG keeps free of data (R273, R274): its CDM group is one of those without
data (log 17). -/
def dmrsTaken (cfg f : Nat) : Bool :=
  let n := nbits cfg 2 1 + 1
  if cfg % 2 = 0 then decide (f % 2 < n) else decide (f % 6 / 2 < n)

/-- Symbols that carry DMRS (R274). -/
def SlotOrd.dmrsSyms (o : SlotOrd) : List Nat := (List.range 14).filter fun k => o.dmrs.testBit k
/-- DMRS configuration type 2 (R274). -/
def SlotOrd.type2 (o : SlotOrd) : Bool := (dfield o.hdr 0x12 1).testBit 0

/-- A subcarrier is one of the pilots of a layer's port, port 1000 + layer (TS 38.211 clauses 6.4.1.1.3 and 7.4.1.1.2; log 17). -/
def SlotOrd.portRe (o : SlotOrd) (layer f : Nat) : Bool :=
  if o.type2 then f % 6 / 2 == layer % 6 / 2 else f % 2 == layer % 4 / 2

/-- First subcarrier in its PRB of the PTRS of a port (TS 38.211 Table 7.4.1.2.2-1, offset 00; log 14). -/
def SlotOrd.ptrsOff (o : SlotOrd) (layer : Nat) : Nat :=
  if o.type2 then layer % 6 else match layer % 4 with
    | 0 => 0 | 1 => 2 | 2 => 1 | _ => 3

/-- A symbol of a block carries PTRS (R274, TS 38.211 clause 7.4.1.2.2): every 1, 2 or 4 symbols counted from the block's start or,
behind a DMRS symbol, from that. -/
def SlotOrd.ptrsSym (o : SlotOrd) (b : Blk) (k : Nat) : Bool :=
  let ref := (o.dmrsSyms.filter fun d => decide (b.sym0 ≤ d) && decide (d < k)).foldl max b.sym0
  let step := match nbits (dfield o.hdr 0x13 1) 1 0 with
    | 1 => 1 | 2 => 2 | _ => 4
  !o.dmrs.testBit k && (k - ref) % step == 0

/-- A subcarrier of a block carries PTRS (R274, TS 38.211 clause 7.4.1.2.2): one in every second or fourth PRB, from a PRB that the RNTI
gives. -/
def SlotOrd.ptrsFreq (o : SlotOrd) (b : Blk) (f : Nat) : Bool :=
  let n := if (dfield o.hdr 0x13 1).testBit 2 then 4 else 2
  let r := b.nprb % n
  let first := if r = 0 then b.rnti % n else b.rnti % r
  let g := f - 12 * b.prb0
  g / 12 % n == first && g % 12 == o.ptrsOff b.layer0

/-- PTRS REs of a block in a data group, on every layer of it (R273, R274). -/
def SlotOrd.ptrsRe (o : SlotOrd) (b : Blk) (f k : Nat) : Bool :=
  nbits (dfield o.hdr 0x13 1) 1 0 != 0 && o.ptrsSym b k && o.ptrsFreq b f

/-- An RE is a pilot of a layer (R273): code 1 in RE mode; in group mode one of the port's REs in a group of code 1. -/
def SlotOrd.pilotRe (o : SlotOrd) (layer f k : Nat) : Bool :=
  mapCode ((o.maps[layer]?).getD 0) o.remap f k == 1 && (o.remap || o.portRe layer f)

/-- Constellations of a block's data groups (R276). -/
def SlotOrd.codes (o : SlotOrd) (b : Blk) : List Nat :=
  ((List.range b.nlt).flatMap fun i =>
    let m := (o.maps[b.layer0 + i]?).getD 0
    (List.range b.nsym).flatMap fun k => (List.range b.nprb).map fun p =>
      m / 16 ^ (14 * (b.prb0 + p) + b.sym0 + k) % 16).eraseDups.filter fun c => decide (2 ≤ c)

/-- Code of the data an RE carries for a block; 0 when it carries none (R273). -/
def SlotOrd.dataCode (o : SlotOrd) (b : Blk) (layer f k : Nat) : Nat :=
  let c := mapCode ((o.maps[layer]?).getD 0) o.remap f k
  if o.remap then (if 2 ≤ c then c else 0)
  else if c = 1 then (if dmrsTaken (dfield o.hdr 0x12 1) f then 0 else ((o.codes b).head?).getD 0)
  else if 2 ≤ c ∧ !o.ptrsRe b f k then c else 0

/-- The data REs of a block in order (R275): subcarrier, symbol, layer, code. The layers of one RE follow each other, as
codeword bits are mapped to layers. -/
def SlotOrd.res (o : SlotOrd) (b : Blk) : List (Nat × Nat × Nat × Nat) :=
  (List.range b.nsym).flatMap fun k => (List.range (12 * b.nprb)).flatMap fun f => (List.range b.nlt).filterMap fun i =>
    let c := o.dataCode b (b.layer0 + i) (12 * b.prb0 + f) (b.sym0 + k)
    if c = 0 then none else some (12 * b.prb0 + f, b.sym0 + k, b.layer0 + i, c)

/-- Bits per RE that rate matching uses (R302): that of the block's one constellation. -/
def qmOf (codes : List Nat) : Nat :=
  match codes.eraseDups with
  | [c] => codeQm c
  | l => Config.mixedQm (l.map codeQm)

/-- A transport-block entry (R275). -/
def Blk.of (e : Nat) : Blk :=
  ⟨dfield e 0 4, dfield e 4 2, dfield e 6 2, dfield e 8 2, dfield e 0xA 2, dfield e 0xC 1 % 16, dfield e 0xC 1 / 16 + 1,
    dfield e 0xD 1, dfield e 0xE 1, dfield e 0xF 1, dfield e 0x10 2, 0, 0, 1, 0, [], false⟩

/-- Base graph, new data, redundancy version, limited buffer of a block. -/
def Blk.bg (b : Blk) : Nat := b.code % 4
def Blk.rv (b : Blk) : Nat := b.code / 4 % 4
def Blk.fresh (b : Blk) : Bool := b.code.testBit 4
def Blk.limited (b : Blk) : Bool := b.code.testBit 5
/-- How it is coded. -/
def Blk.coding (b : Blk) : Coding := Coding.of b.bg b.tbs
/-- c_init of its scrambling (R300). -/
def Blk.cinit (b : Blk) : Nat := b.rnti * 2 ^ 15 + b.nid

/-- TBS_LBRM of a carrier (R326) and N_cb of a block (R302). -/
def State.lbrm (s : State) (a : Nat) : Nat := s.gf (Reg.LDPC_CAR_LBRM a) Fld.LDPC_CAR_LBRM_LBRM_TBS
def State.ncbOf (s : State) (a : Nat) (b : Blk) : Nat := b.coding.ncb b.limited (s.lbrm a)
/-- CB of a block's soft buffer (R311). -/
def State.softCopy (s : State) (a : Nat) (b : Blk) : Nat := b.coding.c * (64 * cdiv (s.ncbOf a b) 64)

/-! ### The checks (R276, R301) -/

/-- Two rectangles of a slot that share an RE with data on one layer. -/
def SlotOrd.clash (o : SlotOrd) (x y : Blk) : Bool :=
  let rx := o.res x
  let ry := o.res y
  rx.any fun r => ry.any fun q => r.1 == q.1 && r.2.1 == q.2.1 && r.2.2.1 == q.2.2.1

/-- All pairs of a list. -/
def pairs : List Blk → List (Blk × Blk)
  | [] => []
  | b :: t => (t.map fun c => (b, c)) ++ pairs t

/-- The codes a map may not hold (R276). -/
def badMap (m : Nat) (n : Nat) : Bool := (List.range n).any fun i => decide (8 ≤ m / 16 ^ i % 16)

/-- Largest carrier and layers by numerology code (R259). -/
def maxLayers (num : Nat) : Nat := if num = 2 then 4 else 8

/-- A block's own checks. -/
def State.blkChecks (s : State) (l a : Nat) (ul : Bool) (o : SlotOrd) (e : Nat) (b : Blk) : List (Bool × Nat) :=
  let reg := dfield e 0x12 1
  let r := if reg < 64 then s.region l reg else Region.ofWords 0 0 0 0
  let codes := (o.res b).map fun x => x.2.2.2
  let g := codes.foldl (fun n c => n + codeQm c) 0
  let x := b.coding
  let cok := b.bg == 1 || b.bg == 2
  let tok := decide (24 ≤ b.tbs) && decide (b.tbs ≤ 3145728)
  let h := s.rr (Reg.LDPC_HARQ l)
  [(r.valid && !(if ul then r.wr else r.rd), St.permission),
   (!cok, St.format), (b.code.testBit 7, St.format), (dfield e 0x13 1 != 0, St.format), (dfield e 0x18 8 != 0, St.format),
   (!o.remap && decide (1 < (o.codes b).length), St.format),
   (!tok, St.bounds), (b.code.testBit 6 && !(ul && b.nlt == 1), St.bounds),
   (decide (s.carPrb a < b.prb0 + b.nprb) || b.nprb == 0, St.bounds), (decide (14 < b.sym0 + b.nsym), St.bounds),
   (decide (o.nl < b.layer0 + b.nlt) || b.nlt == 0, St.bounds),
   (!r.holds (dfield e 0x14 4) ((b.tbs + 7) / 8) || r.kind == 5, St.bounds),
   (cok && tok && decide (384 < x.c), St.bounds), (cok && tok && decide (g < b.tbs + x.tcrc.2), St.bounds),
   (b.limited && s.lbrm a == 0, St.bounds),
   (ul && decide (getF h Fld.LDPC_HARQ_NBUF ≤ b.harq), St.bounds),
   (ul && cok && tok && decide (1024 * s.gf (Reg.LDPC_HARQ_SIZE l) Fld.LDPC_HARQ_SIZE_BUF_KIB < 64 + 2 * s.softCopy a b), St.bounds)]

/-- The header's checks. -/
def State.hdrChecks (s : State) (l a h : Nat) (r : Region) (off : Nat) : List (Bool × Nat) :=
  let kind := dfield h 0 1
  let re := dfield h 7 1 == 1
  let nl := dfield h 3 1
  let num := s.carNum a
  let sfn := dfield h 4 2
  let slot := dfield h 6 1
  let d := dfield h 0x10 2
  let prb := s.carPrb a
  let stride := 64 * cdiv (mapBytes re prb) 64
  let prec := 4 * nl * s.carDl a * cdiv prb 16
  [(s.carLdg a != l, St.permission),
   (kind != 1 && kind != 2, St.format), (decide (1 < dfield h 7 1), St.format),
   (re && s.gf (Reg.AIR_CAR_CFG0 a) Fld.AIR_CAR_CFG0_REMAP == 0, St.format),
   (d / 2 ^ 14 != 0 || nbits (dfield h 0x12 1) 7 3 != 0 || nbits (dfield h 0x13 1) 7 3 != 0 || dfield h 0x17 1 != 0 ||
      dfield h 0x1E 2 != 0 || dfield h 0x24 28 != 0, St.format),
   (decide (64 < dfield h 2 1), St.bounds), (nl == 0 || decide (maxLayers num < nl), St.bounds),
   (decide (1024 ≤ sfn) || decide (slotsPerFrame num ≤ slot), St.bounds),
   (dfield h 8 4 % 64 != 0 || dfield h 0xC 4 % 32 != 0, St.bounds), (decide (1 < dfield h 0x16 1), St.bounds),
   (kind == 1 && dfield h 0x18 4 != 0, St.bounds),
   (!r.holds (off + dfield h 8 4) (stride * (nl - 1) + mapBytes re prb), St.bounds),
   (!r.holds (off + dfield h 0xC 4) (32 * dfield h 2 1), St.bounds),
   (kind == 2 && !r.holds (off + dfield h 0x18 4) prec, St.bounds),
   (decide (16 < s.slotsAhead a sfn slot), St.bounds), (decide (2 ^ (s.carLastDmrs a + 1) ≤ d % 2 ^ 14), St.bounds),
   (!s.carOn a, St.state),
   ((s.carOf a).seen.any fun x => x == (s.slotStart a sfn slot, kind == 1), St.state)]

/-- The order of a header whose fields are in range, before its blocks. -/
def State.orderOf (s : State) (l no idx a h base : Nat) (maps : List Nat) : SlotOrd where
  l := l
  no := no
  idx := idx
  car := a
  ul := dfield h 0 1 == 1
  sfn := dfield h 4 2
  slot := dfield h 6 1
  start := s.slotStart a (dfield h 4 2) (dfield h 6 1)
  hdr := h
  maps := maps
  prec := base + dfield h 0x18 4
  blks := []
  ends := [(0, s.now (s.carTb a))]
  syms := 0
  late := false
  got := []
  cplane := false
  off := (0, 0, 0)
  cfg := []

/-- k ranges of n bytes at a stride, read for a lodging: the values, and whether one is uncorrectable. -/
def State.readRows (s : State) (l a stride n k : Nat) : State × List Nat × Bool :=
  (List.range k).foldl (fun (q : State × List Nat × Bool) i =>
    let (t, m, bad) := (q.1.tierCharge l .air (a + stride * i) n false).getBytes l (a + stride * i) n
    (t, q.2.1 ++ [m], q.2.2 || bad)) (s, [], false)

/-- A header's maps and entries do not lie in its region, or their numbers are out of range (R276). -/
def orderOut (r : Region) (off h n : Nat) : Bool :=
  dfield h 3 1 == 0 || decide (8 < dfield h 3 1) || decide (64 < dfield h 2 1) ||
    !r.holds (off + dfield h 8 4) (64 * cdiv n 64 * (dfield h 3 1 - 1) + n) || !r.holds (off + dfield h 0xC 4) (32 * dfield h 2 1)

/-- The blocks of an order's entries. -/
def State.orderBlks (s : State) (l : Nat) (o : SlotOrd) (es : List Nat) : List Blk :=
  es.map fun e =>
    let b := { Blk.of e with data := (s.region l (dfield e 0x12 1)).base + dfield e 0x14 4 }
    let codes := (o.res b).map fun x => x.2.2.2
    { b with g := codes.foldl (fun n c => n + codeQm c) 0, qm := qmOf codes }

/-- The checks of an order's maps and entries (R276). -/
def State.orderChecks (s : State) (l a n : Nat) (o : SlotOrd) (maps es : List Nat) (blks : List Blk) : List (Bool × Nat) :=
  let ps := pairs blks
  ((es.zip blks).flatMap fun (e, b) => s.blkChecks l a o.ul o e b) ++
    [(maps.any fun m => badMap m (2 * n), St.format),
     (ps.any fun (x, y) => o.clash x y, St.bounds), (o.ul && ps.any fun (x, y) => x.harq == y.harq, St.bounds)]

/-- The checks of a region before a slot order is read from it. -/
def orderRegion (r : Region) (off : Nat) : Nat :=
  pick [(r.valid && !r.rd, St.permission), (r.valid && r.kind == 5, St.bounds), (decide (off % 64 ≠ 0), St.bounds),
    (!r.holds off 64, St.bounds)]

/-- The status of an order's checks (R276, R301), the order with its blocks, the state after its reads. -/
def State.orderCheck (s : State) (l no idx reg off : Nat) : State × Nat × SlotOrd :=
  let r := if reg < 64 then s.region l reg else Region.ofWords 0 0 0 0
  let bare := s.orderOf l no idx 0 0 0 []
  let st0 := orderRegion r off
  if st0 ≠ St.ok then (s, st0, bare)
  else
    let base := r.base + off
    let (s, h, bad) := (s.tierCharge l .air base 64 false).getBytes l base 64
    let a := dfield h 1 1
    let o := s.orderOf l no idx a h base []
    if bad then (s, St.integrity, bare)
    else if 8 ≤ a then (s, pick [(dfield h 0 1 != 1 && dfield h 0 1 != 2, St.format), (true, St.bounds)], o)
    else
      let hc := s.hdrChecks l a h r off
      let n := mapBytes (dfield h 7 1 == 1) (s.carPrb a)
      if orderOut r off h n then (s, pick hc, o)
      else
        let (s, maps, bad1) := s.readRows l (base + dfield h 8 4) (64 * cdiv n 64) n (dfield h 3 1)
        let (s, es, bad2) := s.readRows l (base + dfield h 0xC 4) 32 32 (dfield h 2 1)
        let o := s.orderOf l no idx a h base maps
        let blks := s.orderBlks l o es
        if bad1 || bad2 then (s, St.integrity, o) else (s, pick (hc ++ s.orderChecks l a n o maps es blks), { o with blks := blks })

/-! ### Results (R277) -/

/-- A result record as one number. -/
def resRecord (st tbi cbf iter tag sfn slot car sinr missing foff toff : Nat) : Nat :=
  st + 2 ^ 8 * tbi + 2 ^ 16 * min cbf 255 + 2 ^ 24 * iter + 2 ^ 32 * tag + 2 ^ 64 * sfn + 2 ^ 80 * slot + 2 ^ 88 * car +
    2 ^ 96 * (sinr % 2 ^ 16) + 2 ^ 112 * (min missing 0xFFFF) + 2 ^ 128 * (foff % 2 ^ 32) + 2 ^ 160 * (toff % 2 ^ 32)

/-- The one record of an order: a downlink order, or one refused or late (R276, R277). -/
def State.orderResult (s : State) (o : SlotOrd) (st : Nat) : State :=
  s.hostDone o.l o.no o.idx 2 (resRecord st 0xFF 0 0 o.tag o.sfn o.slot o.car 0 0 0 0)

/-- The orders of a carrier without one. -/
def State.dropOrder (s : State) (a : Nat) (o : SlotOrd) : State :=
  s.setCar a fun c => { c with orders := c.orders.filter fun x => !(x.ul == o.ul && x.start == o.start) }

/-- An accepted order of a slot. -/
def State.orderAt (s : State) (a : Nat) (ul : Bool) (sfn slot : Nat) : Option SlotOrd :=
  (s.carOf a).orders.find? fun o => o.ul == ul && o.sfn == sfn && o.slot == slot

/-- Change an order. -/
def State.setOrder (s : State) (o : SlotOrd) : State :=
  s.setCar o.car fun c => { c with orders := c.orders.map fun x => if x.ul == o.ul && x.start == o.start then o else x }

/-- Accept an order, end it as late, or refuse it (R276). Starts of slots older than 100 ms are forgotten. -/
def State.takeOrder (s : State) (l no idx reg off : Nat) : State :=
  let (s, st, o) := s.orderCheck l no idx reg off
  let a := o.car
  let s := s.countStatus 0xB st (some l)
  if st ≠ St.ok then s.orderResult o st
  else
    let now := s.now (s.carTb a)
    if o.start < now + s.carLead a * usU then (s.setFlag Reg.AIR_FLAG 1 (some l)).orderResult o St.timeout
    else
      let n := mapBytes o.remap (s.carPrb a)
      let s := if o.ul then o.maps.zipIdx.foldl (fun s (m, i) => s.put l (mapAt a i) n m) s else s
      s.setCar a fun c =>
        { c with orders := c.orders ++ [o], seen := (o.start, o.ul) :: c.seen.filter fun x => decide (now < x.1 + 100000 * usU) }

/-- SLOT_ORDER (R276, R301): the AIR block takes the lodging's oldest order and checks it, unless earlier reads of the lodging still
wait for tokens (R216). -/
def execSlotOrder (l : Fin 16) (s : State) : Host.Outcome State Fault Refusal :=
  if s.owes l.val .air then .next s else
  match s.airIn.find? fun x => x.1 == l.val with
  | some (m, no, idx, reg, off) =>
    .next ({ s with airIn := s.airIn.erase (m, no, idx, reg, off) }.takeOrder l.val no idx reg off)
  | none => .next s

/-- SLOT_ORDER_ENTRY (R587): a SLOT_ORDER entry passes its order to the AIR block. -/
def execSlotOrderEntry (l : Fin 16) (s : State) : Host.Outcome State Fault Refusal :=
  subRow l (· == 2) s fun e no s =>
    if e.badPlain then s.refuseSub l.val e no St.format
    else { s with airIn := s.airIn ++ [(l.val, no, e.idx, e.reg, e.off)] }

end Sys2Proof.Machine
end

