-- ==== Sys2Proof/Machine/Stages.lean ====
section
/-! DEFINITION. The tensors of a carrier's air buffer (R280) and what the stages S2 to S6 write there (R278): shapes, formats and
what each stage reads are the spec's; the values are made by the programs of the Quoxel image (log 18). -/
namespace Sys2Proof.Machine
open Sys2Proof

/-! ### Shapes (R280) -/

/-- Symbols of a slot with data of some block. -/
def SlotOrd.dataSyms (o : SlotOrd) : List Nat := (List.range 14).filter fun k => o.blks.any fun b => (o.res b).any fun r => r.2.1 == k

/-- Bits of an element and number of elements of a tensor of an order: 1 pilot estimates, 2 pilot noise power, 3 channel estimates,
4 equalised symbols, 5 their SINR, 6 corrected symbols, 7 their SINR. -/
def State.shape (s : State) (o : SlotOrd) (t : Nat) : Nat × Nat :=
  let x := s.asOf o
  let d := o.dmrsSyms.length
  let y := o.dataSyms.length
  let p := x.carPrb o.car
  let n := x.carUl o.car
  match t with
  | 1 => (32, d * p * o.nl * n * 12)
  | 2 => (16, d * p * n)
  | 3 => (32, d * p * o.nl * n * 12)
  | 4 => (32, y * p * o.nl * 12)
  | 5 => (16, y * p * o.nl)
  | 6 => (32, y * p * o.nl * 12)
  | 7 => (16, y * p * o.nl)
  | _ => (0, 0)

/-- n elements of w bits as one number, element 0 lowest. -/
def tensorNum (w n : Nat) (f : Nat → Nat) : Nat := (List.range n).foldl (fun v i => v + f i % 2 ^ w * 2 ^ (w * i)) 0

/-- A tensor as it lies in the air buffer. -/
def State.tensor (s : State) (o : SlotOrd) (t : Nat) : Nat :=
  let (w, n) := s.shape o t
  s.rdLE (airAt o.car t 0) (w * n / 8)

/-- Write a tensor of an order. -/
def State.setTensor (s : State) (o : SlotOrd) (t : Nat) (f : Nat → Nat) : State :=
  let (w, n) := s.shape o t
  s.put o.l (airAt o.car t 0) (w * n / 8) (tensorNum w n f)

/-- The received samples of some symbols, stream by stream. -/
def State.iqOf (s : State) (o : SlotOrd) (ks : List Nat) : List Nat :=
  let x := s.asOf o
  (List.range (x.carUl o.car)).flatMap fun st => ks.map fun k => s.rdLE (ulIq o.car st k) (48 * x.carPrb o.car)

/-! ### The stages (R278) -/

/-- Element i of the pilot estimates names a pilot RE that came: the DMRS symbol, PRB, layer, stream, subcarrier of
[D][P][L][S][12]. Any other RE, and a missing one, is 0 (R269, R280). -/
def State.pilotAt (s : State) (o : SlotOrd) (i : Nat) : Bool :=
  let x := s.asOf o
  let n := x.carUl o.car
  let st := i / 12 % n
  let layer := i / (12 * n) % o.nl
  let p := i / (12 * n * o.nl) % x.carPrb o.car
  let k := (o.dmrsSyms[i / (12 * n * o.nl * x.carPrb o.car)]?).getD 0
  o.pilotRe layer (12 * p + i % 12) k && o.got.contains (gotKey st k p)

/-- S2: pilot extraction and least-squares estimates, with the pilot noise power. -/
def State.stage2 (s : State) (o : SlotOrd) : State :=
  let ins := o.hdr :: s.iqOf o o.dmrsSyms
  (s.setTensor o 1 fun i => if s.pilotAt o i then Config.stage 1 ins i else 0).setTensor o 2 (Config.stage 2 ins)

/-- S4: the learned channel estimates, from the pilot estimates and their noise. -/
def State.stage4 (s : State) (o : SlotOrd) : State := s.setTensor o 3 (Config.stage 3 [s.tensor o 1, s.tensor o 2])

/-- S5, equalisation: the channel interpolated between DMRS symbols, S3's phase track, the interference covariance of the pilot
residuals, MMSE-IRC weights: the equalised symbols and their SINR. -/
def State.stage5 (s : State) (o : SlotOrd) : State :=
  let ins := [wrapN 32 o.off.1, wrapN 32 o.off.2.1, wrapN 32 o.off.2.2, s.tensor o 1, s.tensor o 2, s.tensor o 3] ++ s.iqOf o o.dataSyms
  (s.setTensor o 4 (Config.stage 4 ins)).setTensor o 5 (Config.stage 5 ins)

/-- S5, the learned correction of the equalised symbols and their SINR. -/
def State.correct (s : State) (o : SlotOrd) : State :=
  let ins := [s.tensor o 4, s.tensor o 5]
  (s.setTensor o 6 (Config.stage 6 ins)).setTensor o 7 (Config.stage 7 ins)

/-- Place of an RE's PRB and layer in a SINR tensor [Y][P][L]. -/
def State.sinrIx (s : State) (o : SlotOrd) (k p layer : Nat) : Nat :=
  ((o.dataSyms.findIdx fun j => j == k) * (s.asOf o).carPrb o.car + p) * o.nl + layer

/-- An FP16 element of the corrected SINR. -/
def State.sinrAt (s : State) (o : SlotOrd) (k p layer : Nat) : Nat := s.rdLE (airAt o.car 7 0 + 2 * s.sinrIx o k p layer) 2

/-- The RE of each coded bit of a block, in order: subcarrier, symbol, layer. -/
def SlotOrd.bitRes (o : SlotOrd) (b : Blk) : List (Nat × Nat × Nat) :=
  (o.res b).flatMap fun (f, k, l, c) => List.replicate (codeQm c) (f, k, l)

/-- S6: the learned demapper's LLRs of a block, one code from −127 to 127 for each coded bit (R281); an RE whose SINR is NaN gives 0
(R283). A transform-precoded block is despread first. -/
def State.stage6 (s : State) (o : SlotOrd) (i : Nat) (b : Blk) : State :=
  let ins := [if b.code.testBit 6 then 1 else 0, i, s.tensor o 6, s.tensor o 7] ++ o.maps
  let rs := o.bitRes b
  let v := rs.zipIdx.foldl (fun v ((f, k, l), j) =>
    let q := s.sinrAt o k (f / 12) l
    let c : Int := if q / 2 ^ 10 % 32 = 31 ∧ q % 2 ^ 10 ≠ 0 then 0 else ((Config.stage 9 ins j % 255 : Nat) : Int) - 127
    v + wrapN 8 c * 256 ^ j) 0
  s.put o.l (llrAt o.car i) rs.length v

/-- What stage k writes at its end; the first end of S5 is that of the equalisation (R279). -/
def State.stageWork (s : State) (o : SlotOrd) (k : Nat) : State :=
  match k with
  | 2 => s.stage2 o
  | 4 => s.stage4 o
  | 5 => if o.has 9 then s.correct o else s.stage5 o
  | 6 => o.blks.zipIdx.foldl (fun s (b, i) => s.stage6 o i b) s
  | _ => s

/-! ### What a result reports (R277) -/

/-- A finite, positive FP16 value in units of 2⁻²⁴; 0 for any other. -/
def fp16Units (x : Nat) : Nat :=
  let e := x / 2 ^ 10 % 32
  if x.testBit 15 || e == 31 then 0 else if e = 0 then x % 2 ^ 10 else (2 ^ 10 + x % 2 ^ 10) * 2 ^ (e - 1)

/-- num / den in 1/16 dB, to nearest: the last c of a range with 10^(2c − 1) ≤ (num / den)^320. -/
def dbSixteenth (num den : Nat) : Int :=
  let n := (num ^ 160) ^ 2
  let d := (den ^ 160) ^ 2
  let le (c : Int) : Bool :=
    let k := 2 * c - 1
    if 0 ≤ k then decide (10 ^ k.toNat * d ≤ n) else decide (d ≤ n * 10 ^ (-k).toNat)
  ((List.range 2000).filter fun (i : Nat) => le ((i : Int) - 1200)).length - 1201

/-- Mean post-correction SINR of a block in 1/16 dB (R277), the mean taken of the linear values; a block without a finite positive
one has no stated value (log 18). -/
def State.sinrOf (s : State) (o : SlotOrd) (i : Nat) (b : Blk) : Nat :=
  let ks := o.dataSyms.filter fun k => decide (b.sym0 ≤ k) && decide (k < b.sym0 + b.nsym)
  let vs := ks.flatMap fun k => (List.range b.nprb).flatMap fun p => (List.range b.nlt).map fun l =>
    fp16Units (s.sinrAt o k (b.prb0 + p) (b.layer0 + l))
  let sum := vs.foldl (· + ·) 0
  if sum = 0 then Config.stage 20 [o.hdr, i, s.tensor o 7] 0 else wrapN 16 (dbSixteenth sum (vs.length * 2 ^ 24))

/-- Residual frequency offset of a block (R277): what tracking leaves, within ±0.5 % of the spacing while the carrier tracks and its
sample-rate error is within ±10 ppm (R286). -/
def State.foffOf (s : State) (o : SlotOrd) (i : Nat) : Nat :=
  let v := Config.stage 21 [i, wrapN 32 o.off.1, wrapN 32 o.off.2.1, wrapN 32 o.off.2.2, s.tensor o 1] 0
  if s.gf (Reg.AIR_CAR_STAT o.car) Fld.AIR_CAR_STAT_STATE = 2 ∧ o.off.2.2.natAbs ≤ 10000 then wrapN 32 (((v % 655 : Nat) : Int) - 327)
  else v % 2 ^ 32

/-- Timing offset of a block (R277). -/
def State.toffOf (s : State) (o : SlotOrd) (i : Nat) : Nat := Config.stage 22 [i, s.tensor o 1] 0 % 2 ^ 32

end Sys2Proof.Machine
end

