-- ==== Sys2Proof/Machine/Air.lean ====
section
/-! DEFINITION. The air path: fronthaul reception (R263 to R269), the uplink stages (R278 to R281), results and deadlines
(R277, R291), tracking (R285), steps of a time base (R293). -/
namespace Sys2Proof.Machine
open Sys2Proof

/-! ### Reception -/

/-- Bits of a byte list, most significant first, as one number. -/
def beNum (l : List Byte) : Nat := l.foldl (fun n b => n * 256 + b.toNat) 0

/-- Saturate to INT16. -/
def sat16 (v : Int) : Int := max (-32768) (min 32767 v)

/-- A CI16 value from its parts: the real part below (R31). -/
def ci16 (re im : Int) : Nat := wrapN 16 re + 2 ^ 16 * wrapN 16 im

/-- Bytes of a PRB by width; 16 is uncompressed (R268). -/
def prbBytes (w : Nat) : Nat := if w = 16 then 48 else 3 * w + 1

/-- The 24 parts of a PRB (R266), I before Q: value and whether it saturated. -/
def prbParts (w : Nat) (d : List Byte) : List (Int × Bool) :=
  let e := if w = 16 then 0 else ((d.head?).getD 0).toNat % 16
  let n := beNum (if w = 16 then d else d.drop 1)
  (List.range 24).map fun i =>
    let v := sext w (n / 2 ^ (w * (23 - i)) % 2 ^ w) * 2 ^ e
    (sat16 v, decide (sat16 v ≠ v))

/-- The 48 bytes of a PRB's CI16 samples as one number. -/
def prbWord (ps : List (Int × Bool)) : Nat :=
  (List.range 24).foldl (fun n i => n + wrapN 16 (((ps[i]?).map fun x => x.1).getD 0) * 2 ^ (16 * i)) 0

/-- The configuration under which a carrier's uplink slot is served: that of its order, else the present one (R262). -/
def State.slotCfg (s : State) (a sfn slot : Nat) : State :=
  match s.orderAt a true sfn slot with
  | some o => s.asOf o
  | none => s

/-- The carrier and stream of an eAxC ID on a port (R265), of the configuration that serves the slot. -/
def State.eaxc (s : State) (port id sfn slot : Nat) : Option (Nat × Nat) :=
  let e := s.rr Reg.FH_EAXC
  let ru := getF e Fld.FH_EAXC_RU_BITS
  let cc := id / 2 ^ ru % 2 ^ getF e Fld.FH_EAXC_CC_BITS
  let st := id % 2 ^ ru
  match (List.range 8).find? fun a =>
      let x := s.slotCfg a sfn slot
      x.carOn a && x.gf (Reg.AIR_CAR_CFG0 a) Fld.AIR_CAR_CFG0_FH_PORT == port && x.gf (Reg.AIR_CAR_CFG0 a) Fld.AIR_CAR_CFG0_CC_ID == cc with
  | some a => if st < (s.slotCfg a sfn slot).carUl a then some (a, st) else none
  | none => none

/-- Sample width of a carrier's static compression header (R263, R296). -/
def cmpWidth (c : Nat) : Nat := match c with
  | 0 => 16 | 1 => 9 | 2 => 12 | _ => 14
def State.carCmp (s : State) (a : Nat) : Nat := cmpWidth (s.gf (Reg.AIR_CAR_CFG1 a) Fld.AIR_CAR_CFG1_CMP)

/-- Check the sequence ID of a stream and note it (R264): one behind the next expected is a repeat, one ahead of it leaves a gap. -/
def State.seqCheck (s : State) (a st seq : Nat) : State :=
  let key := 2 * (16 * a + st)
  let old := tget (fun _ => 0) s.fhSeq key
  let d := (seq + 65536 - old % 65536) % 65536
  if old ≠ 0 ∧ 32768 ≤ d then s
  else
    { s.setFlagIf (decide (old ≠ 0) && decide (d ≠ 0)) Reg.FH_FLAG 2 (some (s.carLdg a)) with
      fhSeq := tput (fun _ => 0) s.fhSeq key (seq + 1) }

/-- The PRBs of a message from the first, each with its bytes. -/
def prbList (w p0 : Nat) (d : List Byte) : List (Nat × List Byte) :=
  (List.range (d.length / prbBytes w)).map fun i => (p0 + i, (d.drop (prbBytes w * i)).take (prbBytes w))

/-- Store one received PRB (R264, R266). -/
def State.storePrb (s : State) (l a st k w p : Nat) (d : List Byte) : State :=
  let ps := prbParts w d
  (s.put l (ulIq a st k + 48 * p) 48 (prbWord ps)).setFlagIf (ps.any fun x => x.2) Reg.FH_FLAG 7 (some l)

/-- Every PRB of a symbol has come on every stream. -/
def State.symFull (s : State) (o : SlotOrd) (k : Nat) : Bool :=
  let x := s.asOf o
  (List.range (x.carUl o.car)).all fun st => (List.range (x.carPrb o.car)).all fun p => o.got.contains (gotKey st k p)

/-- Now, on the time base of an order's carrier. -/
def State.oNow (s : State) (o : SlotOrd) : Nat := s.now ((s.asOf o).carTb o.car)

/-- End of symbol k's air time (R269). -/
def State.airEnd (s : State) (o : SlotOrd) (k : Nat) : Nat := o.start + symOff ((s.asOf o).carNum o.car) (k + 1)

/-- Where data of symbol k of a slot that started at `start` stands now: 0 early, 1 in its window, 2 late (R269). -/
def State.arrival (x : State) (a start k : Nat) : Nat :=
  let now := x.now (x.carTb a)
  let num := x.carNum a
  if now < start + symOff num k then 0 else if start + symOff num (k + 1) + x.carArrMax a * usU < now then 2 else 1

/-- Take the data of a message that came in its window for a slot with an accepted order (R264, R269). -/
def State.ingest (s : State) (o : SlotOrd) (st k w p0 : Nat) (d : List Byte) : State :=
  let a := o.car
  let new := (prbList w p0 d).filter fun x => decide (x.1 < (s.asOf o).carPrb a) && !o.got.contains (gotKey st k x.1)
  let s := new.foldl (fun s x => s.storePrb o.l a st k w x.1 x.2) s
  s.setOrder { o.mark (200 + k) (s.oNow o) with got := o.got ++ new.map fun x => gotKey st k x.1 }

/-- Uplink data of a carrier's symbol (R264, R269, R276): early or late data is discarded with its flag, whatever the slot; data for a
slot of which no order was accepted sets UNSCHED; a repeat for a slot whose order has ended is discarded. -/
def State.uplane (s : State) (a st sfn slot k w p0 : Nat) (d : List Byte) : State :=
  let x := s.slotCfg a sfn slot
  let o := s.orderAt a true sfn slot
  let start := match o with
    | some o => o.start
    | none => s.slotStart a sfn slot
  let l := some (x.carLdg a)
  let v := x.arrival a start k
  let s := s.setFlagIf (o.isNone && !(s.carOf a).seen.any fun y => y == (start, true)) Reg.AIR_FLAG 7 l
  if v = 0 then s.setFlag Reg.FH_FLAG 5 l
  else if v = 2 then s.setFlag Reg.FH_FLAG 6 l
  else match o with
    | some o => s.ingest o st k w p0 d
    | none => s

/-- A frame and its message are of the kinds R263 lists: at most 9,018 bytes, at most one tag, eCPRI over Ethernet, message type 0, or
type 2 with section type 1 or 3. -/
def frameOk (f : FhFrame) (ty : Nat) : Bool :=
  decide (f.len ≤ 9018) && decide (f.tags ≤ 1) && f.ether == 0xAEFE && !f.other && (ty == 0 || (ty == 2 && (f.sect == 1 || f.sect == 3)))

/-- FH_UPLANE_RX (R263 to R266, R269): a port receives an eCPRI message: whether its frame failed its FCS or FEC, what the frame
shows, its eCPRI type, eAxC ID, sequence ID, slot (the SFN its frame number stands for), symbol, first PRB, udCompMeth and
udIqWidth, and its PRB bytes. A discarded message has used its sequence ID; one of type 2 carries no data. -/
def execFhUplaneRx (p : Fin 12) (bad : Bool) (frame : FhFrame) (ty eaxc seq : Nat) (sfn : Fin 1024) (slot : Fin 80) (k : Fin 14)
    (prb0 meth width : Nat) (data : List Byte) (s : State) : Host.Outcome State Fault Refusal :=
  let s := s.event 0xA 0x3000 (s.portHolder p.val)
  let ok (w : Nat) : Bool := (meth == 0 && w == 16) || (meth == 1 && (w == 9 || w == 12 || w == 14))
  if bad then .next (s.setFlag Reg.FH_FLAG 1 (s.portHolder p.val))
  else match s.eaxc p.val (eaxc % 65536) sfn.val slot.val with
    | none => .next (s.setFlag Reg.FH_FLAG (if frameOk frame ty then 3 else 4) (s.portHolder p.val))
    | some (a, st) =>
      let x := s.slotCfg a sfn.val slot.val
      let static := x.gf (Reg.AIR_CAR_CFG1 a) Fld.AIR_CAR_CFG1_STATIC == 1
      let w := if static then x.carCmp a else width
      let s := s.seqCheck a st (seq % 65536)
      if !frameOk frame ty || (ty == 0 && !static && !ok w) then .next (s.setFlag Reg.FH_FLAG 4 (s.portHolder p.val))
      else if ty = 2 then .next s
      else .next (s.uplane a st sfn.val slot.val k.val w prb0 data)

/-- A symbol is ingested: b + 0 counts it (R279). -/
def State.symDone (s : State) (o : SlotOrd) (k : Nat) : State :=
  (s.setOrder (o.mark (100 + k) (s.oNow o))).signal ((s.asOf o).carObj o.car) 1

/-- PRBs of a symbol that have not come: stream and PRB. -/
def State.missing (s : State) (o : SlotOrd) (k : Nat) : List (Nat × Nat) :=
  (List.range ((s.asOf o).carUl o.car)).flatMap fun st =>
    ((List.range ((s.asOf o).carPrb o.car)).filter fun p => !o.got.contains (gotKey st k p)).map fun p => (st, p)

/-- ARR_MAX_EXPIRY (R269): at air(k) + ARR_MAX every missing PRB of symbol k is 0 and the symbol counts as ingested. -/
def execArrMaxExpiry (a : Fin 8) (sfn : Fin 1024) (slot : Fin 80) (k : Fin 14) (s : State) :
    Host.Outcome State Fault Refusal :=
  match s.orderAt a.val true sfn.val slot.val with
  | some o =>
    if o.has (100 + k.val) || decide (s.oNow o < s.airEnd o k.val + (s.asOf o).carArrMax a.val * usU) then .next s
    else
      let ms := s.missing o k.val
      let s := ms.foldl (fun s (st, p) => s.put o.l (ulIq a.val st k.val + 48 * p) 48 0) s
      .next ((s.setFlagIf (!ms.isEmpty) Reg.AIR_FLAG 2 (some o.l)).symDone o k.val)
  | none => .next s

/-! ### Stages -/

/-- When uplink stage k may begin: none while the stages before it run (R278). -/
def State.stageBegin (_s : State) (o : SlotOrd) (k : Nat) : Option Nat :=
  let syms (ks : List Nat) : Option Nat :=
    if ks.all fun i => o.has (100 + i) then some (ks.foldl (fun m i => max m ((o.endOf (100 + i)).getD 0)) o.start) else none
  match k with
  | 2 => syms ((List.range 14).filter fun i => o.dmrs.testBit i)
  | 3 => syms (List.range 14)
  | 4 => o.endOf 2
  | 5 => match o.endOf 3, o.endOf 4 with
    | some x, some y => some (max x y)
    | _, _ => none
  | 6 => o.endOf 5
  | 7 => o.endOf 6
  | 8 => o.endOf 7
  | _ => none

/-- A stage that ended after its window sets STAGE_LATE (R289, R291). -/
def State.lateIf (s : State) (o : SlotOrd) (began win : Nat) : State :=
  if began + win * usU < s.oNow o then (s.setFlag Reg.AIR_FLAG 4 (some o.l)).event 0xB 0x3002 (some o.l) else s

/-- The carrier is in DEBUG (R285). -/
def State.carDebug (s : State) (a : Nat) : Bool := (s.lodgeOf (s.carLdg a)).dbgAt.isSome

/-- A carrier leaves TRACK (R285). -/
def State.trackLost (s : State) (a : Nat) : State := (s.acquire a).setFlag Reg.AIR_FLAG 3 (some (s.carLdg a))

/-- The carrier has tracked through 16 slots without a pilot (R285), with or without orders. -/
def State.pilotsGone (s : State) (a : Nat) : Bool :=
  let c := s.carOf a
  s.carOn a && s.gf (Reg.AIR_CAR_STAT a) Fld.AIR_CAR_STAT_STATE == 2 && c.pilotAt != 0 &&
    decide (c.pilotAt + 17 * (slotUs (s.carNum a) * usU) ≤ s.now (s.carTb a))

/-- The state machine of R285 at the end of S3: the slot's start, whether it carries pilots, the residual estimate in
2⁻¹⁶ of the spacing. -/
def State.track (s : State) (a start : Nat) (pilots : Bool) (res : Int) : State :=
  let len := slotUs (s.carNum a) * usU
  let c := s.carOf a
  let last := if c.pilotAt = 0 then start - len else c.pilotAt
  let without := (start - last) / len - (if pilots then 1 else 0)
  let s := s.setCar a fun c => { c with pilotAt := if pilots then start else last }
  let st := s.gf (Reg.AIR_CAR_STAT a) Fld.AIR_CAR_STAT_STATE
  if st = 2 ∧ 16 ≤ without then s.trackLost a
  else if !pilots then s
  else if st = 2 then
    let bad := if 2 * 65536 < 100 * res.natAbs then (if c.badAt + len = start then c.bad + 1 else 1) else 0
    if 3 ≤ bad then s.trackLost a else s.setCar a fun c => { c with bad := bad, badAt := start }
  else if st = 1 then
    let good := if 1000 * res.natAbs ≤ 5 * 65536 then c.good + 1 else 0
    if 2 ≤ good then
      (s.sf (Reg.AIR_CAR_STAT a) Fld.AIR_CAR_STAT_STATE 2).setCar a fun c => { c with good := 0, bad := 0 }
    else s.setCar a fun c => { c with good := good }
  else s

/-! ### HARQ soft buffers (R311 to R313) -/

/-- Device address of a soft buffer. -/
def State.softAt (s : State) (l i : Nat) : Nat :=
  (s.region l (s.gf (Reg.LDPC_HARQ l) Fld.LDPC_HARQ_HREG)).base +
    i * (1024 * s.gf (Reg.LDPC_HARQ_SIZE l) Fld.LDPC_HARQ_SIZE_BUF_KIB)

/-- Soft-buffer bytes are the lodging's LDPC traffic (R216, R314). -/
def State.softCharge (s : State) (l n : Nat) (wr : Bool) : State := s.tierCharge l .ldpc (s.softAt l 0) n wr

/-- The header a block writes, without STAT (R311). -/
def State.softHdr (s : State) (o : SlotOrd) (b : Blk) : Nat :=
  2 ^ 8 * b.bg + 2 ^ 16 * b.coding.c + 2 ^ 32 * b.tbs + 2 ^ 64 * b.coding.z + 2 ^ 80 * o.car + 2 ^ 96 * (s.asOf o).ncbOf o.car b

/-- Delivery of a block updates its buffer's header (R313). -/
def State.softEnd (s : State) (o : SlotOrd) (b : Blk) (st : Nat) : State :=
  if b.mode < 2 ∨ (st ≠ St.ok ∧ st ≠ St.integrity) then s
  else
    let at_ := s.softAt o.l b.harq
    let (s, h, _) := s.getBytes o.l at_ 64
    let s := s.softCharge o.l 64 true
    if st = St.ok then s.put o.l at_ 64 (h - h % 2)
    else s.put o.l at_ 64 (1 + 2 * (1 - h / 2 % 2) + s.softHdr o b)

/-! ### Delivery (R277, R291) -/

/-- PRBs of a block missing on any stream (R277). -/
def State.missOf (s : State) (o : SlotOrd) (b : Blk) : Nat :=
  ((List.range b.nsym).map fun k => ((List.range b.nprb).filter fun p =>
    (List.range ((s.asOf o).carUl o.car)).any fun st => !o.got.contains (gotKey st (b.sym0 + k) (b.prb0 + p))).length).foldl (· + ·) 0

/-- A number as a list of n bits, bit i the i-th. -/
def unpackBits (n v : Nat) : List Bool := (List.range n).map fun i => v.testBit i

/-- The decoded bits of a block with its CRC, in order (R306). -/
def Blk.bits (b : Blk) : List Bool :=
  let x := b.coding
  let n := if x.c = 1 then x.kq else x.kq - 24
  (List.range x.c).flatMap fun r =>
    match b.cbs.find? fun y => y.1 == r with
    | some (_, _, _, v) => unpackBits n v
    | none => List.replicate n false

/-- A payload's bytes as a number: bit a₀ in bit 7 of byte 0 (R277). -/
def payload (bits : List Bool) : Nat :=
  bits.zipIdx.foldl (fun n (b, i) => if b then n + 2 ^ (8 * (i / 8) + (7 - i % 8)) else n) 0

/-- Deliver block i of an order with a status (R277, R291, R313). Its SINR and offsets are those that S5 and S3 found. -/
def State.deliver (s : State) (o : SlotOrd) (i : Nat) (b : Blk) (st : Nat) : State :=
  let sinr := s.sinrOf o i b
  let foff := s.foffOf o i
  let toff := s.toffOf o i
  let n := (b.tbs + 7) / 8
  let s := if st = St.timeout then s else (s.put o.l b.data n (payload (b.bits.take b.tbs))).tierCharge o.l .air b.data n true
  let s := s.softEnd o b st
  let s := s.countStatus 0xB st (some o.l)
  let s := if st = St.ok then s.event 0xB 0x3001 (some o.l) else s
  let cbf := (b.cbs.filter fun x => !x.2.2.1).length
  let iter := b.cbs.foldl (fun m x => max m x.2.1) 0
  s.hold o.l ⟨2, resRecord st i cbf iter o.tag o.sfn o.slot o.car sinr (s.missOf o b) foff toff, o.idx⟩

/-- Status of a decoded block: its transport-block CRC (R277, R306). -/
def Blk.status (b : Blk) : Nat :=
  let x := b.coding
  if crcBits x.tcrc.1 (b.bits.take (b.tbs + x.tcrc.2)) = 0 then St.ok else St.integrity

/-- Deliver every block of an order that has not been; a block without its result takes the given status. -/
def State.deliverAll (s : State) (o : SlotOrd) (force : Option Nat) : State :=
  let s := o.blks.zipIdx.foldl (fun s (b, i) => if b.delivered then s else s.deliver o i b (force.getD b.status)) s
  s.closeEntry o.l o.no

/-- Engines leave an order (R291). -/
def State.dropEngines (s : State) (o : SlotOrd) : State :=
  (List.range 4).foldl (fun s p =>
    match tget (fun _ => none) s.ldpcEng p with
    | some j =>
      if j.car = o.car ∧ j.start = o.start then
        { s with ldpcEng := tput (fun _ => none) s.ldpcEng p none }.sf Reg.LDPC_ENG_STAT Fld.LDPC_ENG_STAT_BUSY
          (s.gf Reg.LDPC_ENG_STAT Fld.LDPC_ENG_STAT_BUSY &&& (15 - 2 ^ p))
      else s
    | none => s) s

/-- The deadline of an uplink order (R291). -/
def State.deadlineOf (s : State) (o : SlotOrd) : Nat :=
  let x := s.asOf o
  o.start + slotUs (x.carNum o.car) * usU + x.carDeadline o.car * usU

/-- SLACK of a delivery now (R291, R296). -/
def State.setSlack (s : State) (o : SlotOrd) : State :=
  let d : Int := ((s.deadlineOf o : Int) - s.oNow o) / (usU : Int)
  s.sf (Reg.AIR_CAR_STAT o.car) Fld.AIR_CAR_STAT_SLACK (wrapN 16 (sat16 d))

/-- Every result of an uplink slot is delivered: b + 7 (R279). -/
def State.ulFinish (s : State) (o : SlotOrd) (force : Option Nat) : State :=
  (((((s.dropEngines o).deliverAll o force).setSlack o).dropOrder o.car o).event 0xB 0x3000 (some o.l)).signal
    ((s.asOf o).carObj o.car + 7) 1

/-- Every code block of an order is decoded. -/
def SlotOrd.decoded (o : SlotOrd) : Bool := o.blks.all fun b => b.cbs.length == b.coding.c

/-- The object that the end of a stage signals (R279): S5 signals b + 4 when the equalised symbols are written (9), b + 5 when the
corrected ones are. -/
def stageObjs (k : Nat) : List Nat :=
  match k with
  | 2 => [1] | 3 => [2] | 4 => [3] | 9 => [4] | 5 => [5] | 6 => [6]
  | _ => []

/-- A stage after S1 ends (R278 to R280, R289): what it makes is written, and its program signals its object, as this row stands for
the program's end (log 18). S5 ends twice: its equalisation, then its correction. -/
def State.stageEnd (s : State) (o : SlotOrd) (k began : Nat) : State :=
  let x := s.asOf o
  let s := s.stageWork o k
  let k' := if k = 5 ∧ !o.has 9 then 9 else k
  let s := if k' = 9 then s else s.lateIf o began (window k (x.carNum o.car))
  let s := s.setOrder (o.mark k' (s.oNow o))
  (stageObjs k').foldl (fun (s : State) i => s.signal (x.carObj o.car + i) 1) s

/-- What S3 finds (R286): in TRACK every slot with pilots updates the estimates; in ACQUIRE the search needs two DMRS symbols and finds
an offset of up to ±40 % of the spacing and ±0.02 % of the sample rate. -/
def State.offsets (s : State) (o : SlotOrd) (foff sroff : Int) : State :=
  let st := s.gf (Reg.AIR_CAR_STAT o.car) Fld.AIR_CAR_STAT_STATE
  let n := o.dmrsSyms.length
  let found := if st = 1 then decide (2 ≤ n) && decide (100 * foff.natAbs ≤ 40 * 65536) && decide (sroff.natAbs ≤ 200000) else n != 0
  if found then (s.wr (Reg.AIR_CAR_FOFF o.car) (BitVec.ofInt 32 foff)).wr (Reg.AIR_CAR_SROFF o.car) (BitVec.ofInt 32 sroff) else s

/-- UPLINK_STAGE_END (R278, R279, R285, R291): stage k of a slot ends; for S1 the symbol; for S3 the residual estimate and
the carrier-wide estimates of R286. A stage that has not begun does not end, nor S8 while its traffic waits for tokens (R216). -/
def execUplinkStageEnd (a : Fin 8) (sfn : Fin 1024) (slot : Fin 80) (k : Fin 9) (sym : Fin 14) (res foff sroff : Int)
    (s : State) : Host.Outcome State Fault Refusal :=
  match s.orderAt a.val true sfn.val slot.val with
  | none => .next s
  | some o =>
    let k := k.val
    if k = 1 then
      if o.has (100 + sym.val) || !s.symFull o sym.val then .next s
      else .next ((s.lateIf o ((o.endOf (200 + sym.val)).getD 0) (window 1 ((s.asOf o).carNum a.val))).symDone o sym.val)
    else if o.has k then .next s
    else match s.stageBegin o k with
      | none => .next s
      | some t =>
        if k = 3 then
          .next (((s.stageEnd { o with off := (res, foff, sroff) } 3 t).offsets o foff sroff).track a.val o.start (o.dmrs != 0) res)
        else if k = 7 && !o.decoded then .next s
        else if k = 8 then
          if s.owes o.l .air || s.owes o.l .ldpc then .next s else .next ((s.lateIf o t (window 8 ((s.asOf o).carNum a.val))).ulFinish o none)
        else .next (s.stageEnd o k t)

/-- DEADLINE (R291): at a slot's deadline every block not delivered is delivered with TIMEOUT and no payload. DEBUG
suspends deadlines (R285). -/
def execDeadline (a : Fin 8) (sfn : Fin 1024) (slot : Fin 80) (s : State) : Host.Outcome State Fault Refusal :=
  match s.orderAt a.val true sfn.val slot.val with
  | some o =>
    if s.carDebug a.val || decide (s.oNow o < s.deadlineOf o) then .next s
    else .next ((s.ulFinish o (some St.timeout)).setFlagIf (!o.blks.isEmpty) Reg.AIR_FLAG 0 (some o.l))
  | none => .next s

/-- A write of REACQ (R285): a carrier in TRACK enters ACQUIRE. -/
def State.reacq (s : State) (a : Nat) : State :=
  if s.gf (Reg.AIR_CAR_STAT a) Fld.AIR_CAR_STAT_STATE = 2 ∧ !s.carDebug a then s.acquire a else s

/-- REACQ (R285). -/
def execReacq (who : Requester) (a : Fin 8) (s : State) : Host.Outcome State Fault Refusal :=
  .next (s.asWrite who (Reg.AIR_CAR_CTL a.val) fun s => s.reacq a.val)

/-- End every order of a carrier that has begun: uplink blocks and downlink orders with TIMEOUT (R293). -/
def State.endSlots (s : State) (a : Nat) (begun : SlotOrd → Bool) : State :=
  (s.carOf a).orders.foldl (fun s o =>
    if begun o then
      if o.ul then s.ulFinish o (some St.timeout) else (s.orderResult o St.timeout).dropOrder a o
    else s) s

/-- A time base has stepped (R293): `before` is its time before the step. A slot in progress before it ends, and so does one that is no
whole slot after it. -/
def State.carStep (s : State) (t before : Nat) : State :=
  (List.range 8).foldl (fun s a =>
    if s.carOn a && s.carTb a == t then
      let now := s.now t
      let s := s.endSlots a fun o => decide (o.start ≤ before) || decide (o.start < now) || o.cplane || decide (0 < o.syms)
      (s.acquire a).setFlag Reg.AIR_FLAG 6 (some (s.carLdg a))
    else s) s

end Sys2Proof.Machine
end

