-- ==== Sys2Proof/Machine/Ldpc.lean ====
section
/-! DEFINITION. The LDPC block: decode engines (R303 to R315), HARQ combining (R312, R314), encode engines (R318), table loads
(R308 to R310), CRC jobs (R320, R321). -/
namespace Sys2Proof.Machine
open Sys2Proof

/-! ### Decoding -/

/-- The job of an engine position. -/
def State.engOf (s : State) (p : Nat) : Option EngJob := tget (fun _ => none) s.ldpcEng p

/-- Set or clear the job of a position; ENG_STAT.BUSY follows (R323). -/
def State.setEng (s : State) (p : Nat) (j : Option EngJob) : State :=
  { s with ldpcEng := tput (fun _ => none) s.ldpcEng p j }.sf Reg.LDPC_ENG_STAT Fld.LDPC_ENG_STAT_BUSY
    (let b := s.gf Reg.LDPC_ENG_STAT Fld.LDPC_ENG_STAT_BUSY
     if j.isSome then b ||| 2 ^ p else b &&& (15 - 2 ^ p))

/-- Owner of a position (R322). -/
def State.engBound (s : State) (p : Nat) : Nat := nbits (s.rr Reg.LDPC_ENG_OWNER).toNat (5 * p + 4) (5 * p)
/-- Owner that a position serves now: until its release, the lodging it was taken from (R262). -/
def State.engOwner (s : State) (p : Nat) : Nat := (s.heldFor (.engine p)).getD (s.engBound p)

/-- Positions a lodging's code blocks may use, in the order they are tried (R315); a FAILED position decodes nothing (R474). -/
def State.engFor (s : State) (l : Nat) : List Nat :=
  (((List.range 4).filter fun p => s.engOwner p == l) ++
    (if (s.rr Reg.LDPC_POOL_MASK).toNat.testBit l then (List.range 4).filter fun p => s.engOwner p == 16 else [])).filter fun p => !s.engFailed p

/-- A code block waiting for an engine: deadline, carrier, block, code block, its order. -/
structure CbWait where
  due : Nat
  car : Nat
  tbi : Nat
  cb : Nat
  o : SlotOrd

/-- The order of R315. -/
def CbWait.before (x y : CbWait) : Bool :=
  decide (x.due < y.due) || (x.due == y.due && (decide (x.car < y.car) || (x.car == y.car &&
    (decide (x.tbi < y.tbi) || (x.tbi == y.tbi && decide (x.cb < y.cb))))))

/-- The first of a list under R315. -/
def firstWait : List CbWait → Option CbWait
  | [] => none
  | x :: t => match firstWait t with
    | some y => if y.before x then some y else some x
    | none => some x

/-- Code blocks whose S7 may begin and that no engine has. -/
def State.cbWaits (s : State) : List CbWait :=
  (List.range 8).flatMap fun a => (s.carOf a).orders.flatMap fun o =>
    if !o.ul || !o.has 6 then []
    else o.blks.zipIdx.flatMap fun (b, i) => (List.range b.coding.c).filterMap fun r =>
      if (b.cbs.any fun x => x.1 == r) || ((List.range 4).any fun p =>
          match s.engOf p with
          | some j => j.car == a && j.start == o.start && j.tbi == i && j.cb == r
          | none => false) then none
      else some ⟨s.deadlineOf o, a, i, r, o⟩

/-- Positions that a slot's code blocks may use, under the configuration that serves the slot (R262, R315). -/
def State.engForOrd (s : State) (o : SlotOrd) : List Nat := ((s.asOf o).engFor o.l)

/-- The code block that a free engine takes next (R315): the first waiting one for which it is the first free engine. -/
def State.cbFor (s : State) (p : Nat) : Option CbWait :=
  firstWait (s.cbWaits.filter fun x => ((s.engForOrd x.o).find? fun q => (s.engOf q).isNone) == some p)

/-- Another block holds a soft buffer (R314). -/
def State.softHeld (s : State) (o : SlotOrd) (h : Nat) : Bool :=
  (List.range 8).any fun a => (s.carOf a).orders.any fun x =>
    x.l == o.l && x.ul && !(x.car == o.car && x.start == o.start) && x.blks.any fun b => decide (2 ≤ b.mode) && b.harq == h

/-- What a block's soft buffer does at the start of S7 (R312, R314): 1 nothing, 2 zeros, 3 combining. -/
def State.softStart (s : State) (o : SlotOrd) (b : Blk) : State × Nat :=
  if s.softHeld o b.harq then (s.setFlag Reg.LDPC_FLAG 2 (some o.l), 1)
  else if b.fresh then (s, 2)
  else
    let (s, h, bad) := (s.softCharge o.l 64 false).getBytes o.l (s.softAt o.l b.harq) 64
    if !bad && h % 2 = 1 && h % 2 ^ 128 - h % 2 ^ 8 - h / 2 ^ 88 % 256 * 2 ^ 88 = s.softHdr o b then (s, 3)
    else (s.setFlag Reg.LDPC_FLAG 1 (some o.l), 2)

/-- LLRs of a byte range as integers. -/
def llrsOf (n v : Nat) : List Int := (List.range n).map fun i => sext 8 (v / 256 ^ i % 256)

/-- LLRs as bytes of a number. -/
def llrNum (l : List Int) : Nat := l.zipIdx.foldl (fun n (v, i) => n + wrapN 8 v * 256 ^ i) 0

/-- Combined LLRs of a code block (R303, R312): its buffer copy is read, the other copy written. -/
def State.combine (s : State) (o : SlotOrd) (b : Blk) (r : Nat) (own : List Int) : State × List Int :=
  if b.mode < 2 then (s, own)
  else
    let x := b.coding
    let n := (s.asOf o).ncbOf o.car b
    let at_ := s.softAt o.l b.harq
    let copy (k : Nat) : Nat := at_ + 64 + k * (s.asOf o).softCopy o.car b + 64 * cdiv n 64 * r
    let (s, h, _) := s.getBytes o.l at_ 64
    let cur := h / 2 % 2
    let (s, llr) := if b.mode = 3 then
        let (s, v, _) := s.getBytes o.l (copy cur) n
        ((s.softCharge o.l n false), (own.zip (llrsOf n v)).zipIdx.map fun ((a, c), p) => if x.filler p then a else clamp127 (a + c))
      else (s, own)
    ((s.put o.l (copy (1 - cur)) n (llrNum llr)).softCharge o.l n true, llr)

/-- The table slot of a carrier for a base graph (R326). -/
def State.tblSlot (s : State) (a bg : Nat) : Nat :=
  s.gf (Reg.LDPC_CAR_CFG a) (if bg = 1 then Fld.LDPC_CAR_CFG_BG1_TBL else Fld.LDPC_CAR_CFG_BG2_TBL)
/-- A copy of a table slot (R308). -/
def State.tblCopy (s : State) (slot copy : Nat) : Nat := tget (fun _ => 0) s.ldpcTbl (2 * slot + copy)
/-- The active copy of a slot (R308). -/
def State.ldpcActive (s : State) (slot : Nat) : Nat :=
  s.tblCopy slot (if s.rbit Reg.LDPC_TBL_SEL slot then 1 else 0)

/-- Descrambled LLRs of code block r in output order (R303). -/
def descramble (cinit e0 : Nat) (l : List Int) : List Int :=
  (l.zip ((gold cinit (e0 + l.length)).drop e0)).map fun (v, b) => if b then -v else v

/-- Change a block of an order. -/
def SlotOrd.setBlk (o : SlotOrd) (i : Nat) (f : Blk → Blk) : SlotOrd :=
  { o with blks := o.blks.zipIdx.map fun (b, j) => if j = i then f b else b }

/-- Start S7 for a block (R312, R314). -/
def State.beginBlk (s : State) (o : SlotOrd) (i : Nat) (b : Blk) : State × SlotOrd × Blk :=
  if b.mode ≠ 0 then (s, o, b)
  else
    let (s, m) := s.softStart o b
    let o := o.setBlk i fun b => { b with mode := m }
    (s.setOrder o, o, { b with mode := m })

/-- CODE_BLOCK_DECODE (R303, R305, R312, R315): a free engine takes the next code block; its combined LLRs, its table and
its iteration limit are fixed. -/
def execCodeBlockDecode (p : Fin 4) (s : State) : Host.Outcome State Fault Refusal :=
  if (s.engOf p.val).isSome then .next s
  else match s.cbFor p.val with
    | none => .next s
    | some w =>
      match w.o.blks[w.tbi]? with
      | none => .next s
      | some b =>
        let (s, o, b) := s.beginBlk w.o w.tbi b
        let x := b.coding
        let e := x.e b.g b.nlt b.qm w.cb
        let e0 := x.e0 b.g b.nlt b.qm w.cb
        let (s, v, _) := s.getBytes o.l (llrAt o.car w.tbi + e0) e
        let own := x.recover ((s.asOf o).ncbOf o.car b) b.rv b.qm (descramble b.cinit e0 (llrsOf e v))
        let (s, llr) := s.combine o b w.cb own
        let tbl := s.ldpcActive ((s.asOf o).tblSlot o.car b.bg)
        let mi := (s.asOf o).gf (Reg.LDPC_CAR_CFG o.car) Fld.LDPC_CAR_CFG_MAX_ITER
        let it := tblByte tbl 1
        .next (s.setEng p.val (some ⟨o.car, o.start, w.tbi, w.cb, llr, tbl, if mi = 0 then it else min mi it⟩))

/-- FAB cycles an engine is occupied (R316): iterations, active layers, coded bits. -/
def Coding.cycles (x : Coding) (it m e : Nat) : Nat :=
  let d := (List.range m).foldl (fun n r => n + (x.edges r 0).length + 3) 0
  max (24 + it * d) (cdiv e 128 + 16)

/-- CODE_BLOCK_DONE (R306): decoding ends; ITER_LIMIT when the syndrome stayed nonzero; CRC24B when C > 1. A block whose soft-buffer
units wait for tokens has not ended (R216, R316). -/
def execCodeBlockDone (p : Fin 4) (s : State) : Host.Outcome State Fault Refusal :=
  match s.engOf p.val with
  | none => .next s
  | some j =>
    if (s.carOf j.car).orders.any fun o => o.ul && o.start == j.start && s.owes o.l .ldpc then .next s else
    let s := s.setEng p.val none
    match (s.carOf j.car).orders.find? fun o => o.ul && o.start == j.start with
    | none => .next s
    | some o =>
      match o.blks[j.tbi]? with
      | none => .next s
      | some b =>
        let x := b.coding
        let (bits, it, ok) := x.decode j.table j.imax j.llr
        let crc := x.c == 1 || crcBits 1 bits == 0
        let data := packBits (if x.c = 1 then bits else bits.take (x.kq - 24))
        let s := s.setFlagIf (!ok) Reg.LDPC_FLAG 0 (some o.l)
        let s := (s.event 0xC 0x3000 (some o.l)).event 0xC 0x3001 (some o.l) it
        let s := s.event 0xC 0x3002 (some o.l) (x.cycles it (x.layers (x.inputs j.llr)) (x.e b.g b.nlt b.qm j.cb))
        .next (s.setOrder (o.setBlk j.tbi fun b => { b with cbs := b.cbs ++ [(j.cb, it, crc, data)] }))

/-! ### Encoding (R318) -/

/-- A downlink block waiting for an encode engine, first by slot start, then carrier, then block order. -/
def State.encNext (s : State) : Option CbWait :=
  firstWait ((List.range 8).flatMap fun a => (s.carOf a).orders.flatMap fun o =>
    if o.ul then [] else o.blks.zipIdx.filterMap fun (b, i) => if b.cbs.isEmpty then some ⟨o.start, a, i, 0, o⟩ else none)

/-- The bits of a payload, a₀ in bit 7 of byte 0. -/
def payloadBits (n v : Nat) : List Bool := (List.range n).map fun i => v.testBit (8 * (i / 8) + (7 - i % 8))

/-- CODE_BLOCK_ENCODE (R318): an encode engine takes the next downlink block and makes its scrambled codeword. A FAILED engine takes
none, and with both FAILED the order ends with FAILED (R474); the next block waits while earlier LDPC traffic of its lodging waits for tokens (R216). -/
def execCodeBlockEncode (e : Fin 2) (s : State) : Host.Outcome State Fault Refusal :=
  match s.encNext with
  | none => .next s
  | some w =>
    if s.encFailed 0 && s.encFailed 1 then .next ((s.orderResult w.o St.failed).dropOrder w.car w.o)
    else if s.encFailed e.val then .next s
    else if s.owes w.o.l .ldpc then .next s else
    match w.o.blks[w.tbi]? with
    | none => .next s
    | some b =>
      let n := (b.tbs + 7) / 8
      let (s, v, _) := (s.tierCharge w.o.l .ldpc b.data n false).getBytes w.o.l b.data n
      let s := s.event 0xC 0x3003 (some w.o.l) b.coding.c
      let cw := b.coding.encode (payloadBits b.tbs v) ((s.asOf w.o).ncbOf w.car b) b.rv b.g b.nlt b.qm b.cinit
      .next (s.setOrder (w.o.setBlk w.tbi fun b => { b with cbs := [(0, cw.length, true, packBits cw)] }))

/-! ### Table loads (R308, R309) -/

/-- A table breaks R308. -/
def tblBad (t : Nat) : Bool :=
  let bg := tblByte t 0
  let it := tblByte t 1
  (bg != 1 && bg != 2) || it == 0 || decide (32 < it) || ((List.range 0x3E).any fun i => tblByte t (2 + i) != 0) ||
    ((List.range 32).any fun i => decide (127 < tblByte t (0x41 + 2 * i))) ||
    ((List.range 32).any fun i => decide (it ≤ i) && (tblByte t (0x40 + 2 * i) != 0 || tblByte t (0x41 + 2 * i) != 0)) ||
    ((List.range 18).any fun i => tblByte t (0xAE + i) != 0) ||
    (bg == 2 && (List.range 4).any fun i => tblByte t (0x80 + 42 + i) != 0)

/-- The open staging changes a slot's SEL (R309). -/
def State.selStaged (s : State) (slot : Nat) : Bool :=
  s.stg.vals.any fun x => x.1 == Reg.LDPC_TBL_SEL && wbit x.2 slot != s.rbit Reg.LDPC_TBL_SEL slot

/-- Set TBL_STAT. -/
def State.tblStat (s : State) (busy done st : Nat) : State :=
  ((s.sf Reg.LDPC_TBL_STAT Fld.LDPC_TBL_STAT_BUSY busy).sf Reg.LDPC_TBL_STAT Fld.LDPC_TBL_STAT_DONE done).sf
    Reg.LDPC_TBL_STAT Fld.LDPC_TBL_STAT_STATUS st

/-- A write of TBL_CTL with GO (R309): the checks made before the read. A load refused while one runs leaves it running. -/
def State.tblLoad (s : State) (slot : Nat) : State :=
  let src := (s.rr Reg.LDPC_TBL_SRC_LO).toNat + 2 ^ 32 * s.gf Reg.LDPC_TBL_SRC_HI Fld.LDPC_TBL_SRC_HI_ADDR_HI
  let st := pick [(src % 64 != 0 || s.place src == .hole || s.place (src + 191) == .hole, St.bounds),
    (s.ldpcLoad.isSome || s.selStaged slot, St.busy)]
  let s := s.countStatus 0xC st none
  if st ≠ St.ok then
    if s.ldpcLoad.isSome then s.sf Reg.LDPC_TBL_STAT Fld.LDPC_TBL_STAT_STATUS st else s.tblStat 0 1 st
  else { s with ldpcLoad := some (slot, src) }.tblStat 1 0 0

/-- TBL_LOAD (R309): a write of TBL_CTL with GO = 1. -/
def execTblLoad (who : Requester) (slot : Fin 16) (s : State) : Host.Outcome State Fault Refusal :=
  .next (s.asWrite who Reg.LDPC_TBL_CTL fun s => s.tblLoad slot.val)

/-- TBL_LOAD_DONE (R309): the bytes are read into the copy SEL does not name; on any status but OK it stays as it was. A
tier source is read under no lodging's key and gives zeros (R518; log 19). -/
def execTblLoadDone (s : State) : Host.Outcome State Fault Refusal :=
  match s.ldpcLoad with
  | none => .next s
  | some (slot, src) =>
    let s := { s with ldpcLoad := none }
    let t := if s.inTier src then 0 else s.rdLE src 192
    let st := if s.poisoned src 192 then St.integrity else if tblBad t then St.format else St.ok
    let copy := if s.rbit Reg.LDPC_TBL_SEL slot then 0 else 1
    let s := if st = St.ok then { s with ldpcTbl := tput (fun _ => 0) s.ldpcTbl (2 * slot + copy) t } else s
    .next (s.tblStat 0 1 st)

/-! ### CRC jobs (R320, R321) -/

/-- The CRC job of a core. -/
def State.crcOf (s : State) (n : Nat) : Option CrcJob := tget (fun _ => none) s.crcJobs n

/-- Where the regions of a lodging that hold address a end, at the furthest; a itself when none holds it. -/
def State.regionEnd (s : State) (l a : Nat) : Nat :=
  (List.range 64).foldl (fun e i =>
    let r := s.region l i
    if r.valid && r.kind != 5 && decide (r.base ≤ a) && decide (a < r.base + r.bytes) then max e (r.base + r.bytes) else e) a

/-- The n bytes from a on lie in the regions of a lodging, which may abut or overlap (R321); `fuel` bounds the regions. -/
def State.coveredBy (s : State) (l a n : Nat) : Nat → Bool
  | 0 => n == 0
  | fuel + 1 =>
    let e := s.regionEnd l a
    n == 0 || (decide (a < e) && (decide (a + n ≤ e) || State.coveredBy s l e (a + n - e) fuel))

/-- A byte range lies in a lodging's regions (R321). -/
def State.inRegions (s : State) (l a n : Nat) : Bool := s.coveredBy l a n 65

/-- A write of CRC_CMD (R321): poly, bits. -/
def State.crcCmd (s : State) (n poly len : Nat) : State :=
  let addr := (s.rr (Reg.LDPC_CRC_ADDR_LO n)).toNat + 2 ^ 32 * s.gf (Reg.LDPC_CRC_ADDR_HI n) Fld.LDPC_CRC_ADDR_HI_ADDR_HI
  let inr := match s.ibcHolder n with
    | some l => s.inRegions l addr (cdiv len 8)
    | none => false
  let st := pick [(decide (5 < poly), St.format), (!inr || len == 0 || decide (65536 < len), St.bounds),
    ((s.crcOf n).isSome, St.busy)]
  let s := (s.countStatus 0xC st (s.ibcHolder n)).sf (Reg.LDPC_CRC_STAT n) Fld.LDPC_CRC_STAT_STATUS st
  if st = St.ok then
    let l := (s.ibcHolder n).getD 0
    ({ s with crcJobs := tput (fun _ => none) s.crcJobs n (some ⟨l, poly, len, addr⟩) }.tierCharge l .ldpc addr (cdiv len 8) false).sf
      (Reg.LDPC_CRC_RES n) Fld.LDPC_CRC_RES_BUSY 1
  else s

/-- CRC_CMD (R321): a write of core n's CRC_CMD. -/
def execCrcCmd (who : Requester) (n : Fin 18) (poly : Fin 8) (len : Fin 131072) (s : State) :
    Host.Outcome State Fault Refusal :=
  .next (s.asWrite who (Reg.LDPC_CRC_CMD n.val) fun s => s.crcCmd n.val poly.val len.val)

/-- CRC_DONE (R320, R321): the job ends, unless units of it still wait for tokens (R216): the remainder, right-aligned; the core's source CRC becomes pending (R362). -/
def execCrcDone (n : Fin 18) (s : State) : Host.Outcome State Fault Refusal :=
  match s.crcOf n.val with
  | none => .next s
  | some j =>
    if s.owes j.l .ldpc then .next s else
    let (s, v, bad) := s.getBytes j.l j.addr (cdiv j.len 8)
    let s := { s with crcJobs := tput (fun _ => none) s.crcJobs n.val none }
    let r := crcBits j.poly (payloadBits j.len v)
    let s := s.wr (Reg.LDPC_CRC_RES n.val) (BitVec.ofNat 32 r)
    let s := s.sf (Reg.LDPC_CRC_STAT n.val) Fld.LDPC_CRC_STAT_STATUS (if bad then St.integrity else St.ok)
    .next (s.irqPend n.val 3)

end Sys2Proof.Machine
end

