-- ==== Sys2Proof/Machine/Jpeg.lean ====
section
/-! DEFINITION. Baseline JPEG as R374 takes it from ISO/IEC 10918-1: headers and their checks (R378), Huffman decoding,
restart intervals, damage and resynchronisation (R379 to R381). The IDCT itself is a free function (log 27). -/
namespace Sys2Proof.Machine
open Sys2Proof

/-- A Huffman table: entries (length, code, symbol). -/
abbrev Huff := List (Nat × Nat × Nat)

/-- What the headers of a frame say. -/
structure JHdr where
  w : Nat
  h : Nat
  /-- components in frame order: identifier, horizontal and vertical sampling, quantisation table -/
  comps : List (Nat × Nat × Nat × Nat)
  /-- quantisation tables by identifier, in zigzag order -/
  quant : List (Nat × List Nat)
  /-- Huffman tables by 16 · class + identifier -/
  huff : List (Nat × Huff)
  dri : Nat
  /-- DC and AC tables of each component of the scan -/
  scan : List (Nat × Nat)
  /-- offset of the entropy-coded data -/
  data : Nat

/-- No header yet. -/
def JHdr.none : JHdr := ⟨0, 0, [], [], [], 0, [], 0⟩

/-- How a frame's header checks end (R378). -/
inductive JEnd where
  | ok (h : JHdr)
  | dropped (cause : Nat)
  | dimension

/-- A compressed frame: its bytes and its length. -/
structure JBytes where
  b : Nat → Nat
  len : Nat

/-- A byte; 0 past the end. -/
def JBytes.at (d : JBytes) (i : Nat) : Nat := if i < d.len then d.b i else 0
/-- Two bytes, most significant first. -/
def JBytes.u16 (d : JBytes) (i : Nat) : Nat := 256 * d.at i + d.at (i + 1)

/-- Codes of a Huffman table from the counts of each length (the canonical code), and whether it is over-subscribed. -/
def huffCodes (cnt : Nat → Nat) (sym : Nat → Nat) : Huff × Bool :=
  let r := (List.range 16).foldl (fun (acc : Huff × Nat × Nat × Bool) i =>
    let (hs, code, k, bad) := acc
    let code := 2 * code
    let n := cnt i
    let new := (List.range n).map fun j => (i + 1, code + j, sym (k + j))
    (hs ++ new, code + n, k + n, bad || decide (2 ^ (i + 1) < code + n))) ([], 0, 0, false)
  (r.1, r.2.2.2)

/-- Read the tables of a DHT segment from an offset to its end: the tables, or the cause of failure. -/
def dhtTables (d : JBytes) (e : Nat) : Nat → Nat → List (Nat × Huff) → Except Nat (List (Nat × Huff))
  | 0, _, acc => .ok acc
  | fuel + 1, p, acc =>
    if p = e then .ok acc
    else if e < p + 17 then .error 4
    else
      let id := d.at p
      let n := (List.range 16).foldl (fun a i => a + d.at (p + 1 + i)) 0
      if e < p + 17 + n ∨ 1 < id / 16 ∨ 1 < id % 16 ∨ 256 < n then .error 4
      else
        let (h, bad) := huffCodes (fun i => d.at (p + 1 + i)) (fun i => d.at (p + 17 + i))
        if bad then .error 6 else dhtTables d e fuel (p + 17 + n) ((id, h) :: acc.filter fun x => x.1 != id)

/-- Read the tables of a DQT segment; baseline tables have 8-bit entries. -/
def dqtTables (d : JBytes) (e : Nat) : Nat → Nat → List (Nat × List Nat) → Except Nat (List (Nat × List Nat))
  | 0, _, acc => .ok acc
  | fuel + 1, p, acc =>
    if p = e then .ok acc
    else if e < p + 65 ∨ 3 < d.at p then .error 4
    else
      let q := (List.range 64).map fun i => d.at (p + 1 + i)
      dqtTables d e fuel (p + 65) ((d.at p, q) :: acc.filter fun x => x.1 != d.at p)

/-- Sampling factors that R374 lists. -/
def goodSampling (cs : List (Nat × Nat × Nat × Nat)) : Bool :=
  match cs with
  | [(_, 1, 1, _)] => true
  | [(_, h, v, _), (_, 1, 1, _), (_, 1, 1, _)] => (h == 1 && v == 1) || (h == 2 && v == 1) || (h == 2 && v == 2)
  | _ => false

/-- A second SOS stands in the data (R378): stuffed bytes and RSTs are passed over, another segment by its length, and an
EOI ends the search. -/
def secondSos (d : JBytes) : Nat → Nat → Bool
  | 0, _ => false
  | fuel + 1, p =>
    if d.len ≤ p + 1 then false
    else if d.at p = 0xFF ∧ d.at (p + 1) ≠ 0 ∧ d.at (p + 1) ≠ 0xFF ∧ ¬(0xD0 ≤ d.at (p + 1) ∧ d.at (p + 1) ≤ 0xD7) then
      d.at (p + 1) == 0xDA || (d.at (p + 1) != 0xD9 && secondSos d fuel (p + 2 + d.u16 (p + 2)))
    else secondSos d fuel (p + 1)

/-- A SOF0 segment at an offset (R374, R378). -/
def sof0 (d : JBytes) (p len maxSamples : Nat) (h : JHdr) : Except JEnd JHdr :=
  let hh := d.u16 (p + 5)
  let w := d.u16 (p + 7)
  let nf := d.at (p + 9)
  let n := w * hh * nf
  if 8192 < w ∨ 8192 < hh ∨ maxSamples < n ∨ 4096 * d.len < n then .error .dimension
  else if d.at (p + 4) ≠ 8 then .error (.dropped 2)
  else if hh = 0 then .error (.dropped 9)
  else if len ≠ 8 + 3 * nf ∨ w = 0 ∨ h.w ≠ 0 then .error (.dropped 4)
  else
    let cs := (List.range nf).map fun i =>
      (d.at (p + 10 + 3 * i), d.at (p + 11 + 3 * i) / 16, d.at (p + 11 + 3 * i) % 16, d.at (p + 12 + 3 * i))
    if goodSampling cs then .ok { h with w := w, h := hh, comps := cs } else .error (.dropped 3)

/-- The SOS segment (R378). -/
def sos (d : JBytes) (p len : Nat) (h : JHdr) : JEnd :=
  let ns := d.at (p + 4)
  let sel := (List.range ns).map fun i => (d.at (p + 5 + 2 * i), d.at (p + 6 + 2 * i))
  if h.w = 0 ∨ len ≠ 6 + 2 * ns then .dropped 4
  else if sel.map (fun x => x.1) ≠ h.comps.map (fun c => c.1) then .dropped 7
  else if (sel.any fun (_, t) => !(h.huff.any fun x => x.1 == t / 16) || !(h.huff.any fun x => x.1 == 16 + t % 16)) ||
      (h.comps.any fun c => !(h.quant.any fun x => x.1 == c.2.2.2)) then .dropped 5
  else if secondSos d d.len (p + 2 + len) then .dropped 7
  else .ok { h with scan := sel.map (fun x => (x.2 / 16, 16 + x.2 % 16)), data := p + 2 + len }

/-- Parse segments from an offset. -/
def segments (d : JBytes) (maxSamples : Nat) : Nat → Nat → JHdr → JEnd
  | 0, _, _ => .dropped 8
  | fuel + 1, p, h =>
    if d.len ≤ p + 1 then .dropped 8
    else if d.at p ≠ 0xFF then .dropped 4
    else
      let m := d.at (p + 1)
      let len := d.u16 (p + 2)
      if m = 0xFF then segments d maxSamples fuel (p + 1) h
      else if m = 0xD9 then .dropped 8
      else if m < 0xC0 ∨ (0xD0 ≤ m ∧ m ≤ 0xD8) ∨ len < 2 ∨ d.len < p + 2 + len then .dropped 4
      else if m = 0xC0 then
        match sof0 d p len maxSamples h with
        | .ok h => segments d maxSamples fuel (p + 2 + len) h
        | .error e => e
      else if m = 0xC4 then
        match dhtTables d (p + 2 + len) d.len (p + 4) h.huff with
        | .ok t => segments d maxSamples fuel (p + 2 + len) { h with huff := t }
        | .error c => .dropped c
      else if m < 0xD0 ∨ m = 0xDE ∨ m = 0xDF then .dropped 2
      else if m = 0xDB then
        match dqtTables d (p + 2 + len) d.len (p + 4) h.quant with
        | .ok t => segments d maxSamples fuel (p + 2 + len) { h with quant := t }
        | .error c => .dropped c
      else if m = 0xDD then
        if len = 4 then segments d maxSamples fuel (p + 6) { h with dri := d.u16 (p + 4) } else .dropped 4
      else if m = 0xDA then sos d p len h
      else if (0xE0 ≤ m ∧ m ≤ 0xEF) ∨ m = 0xFE then segments d maxSamples fuel (p + 2 + len) h
      else .dropped 4

/-- The header checks of a frame (R378). -/
def headers (d : JBytes) (maxSamples : Nat) : JEnd :=
  if d.at 0 = 0xFF ∧ d.at 1 = 0xD8 ∧ 2 ≤ d.len then segments d maxSamples d.len 2 JHdr.none else .dropped 1

/-! ### Geometry -/

/-- Luma sampling, MCU size, MCUs across and down, in all; component count. -/
def JHdr.hs (h : JHdr) : Nat := ((h.comps.head?).map fun c => c.2.1).getD 1
def JHdr.vs (h : JHdr) : Nat := ((h.comps.head?).map fun c => c.2.2.1).getD 1
def JHdr.nf (h : JHdr) : Nat := h.comps.length
def JHdr.mw (h : JHdr) : Nat := (h.w + 8 * h.hs - 1) / (8 * h.hs)
def JHdr.mh (h : JHdr) : Nat := (h.h + 8 * h.vs - 1) / (8 * h.vs)
def JHdr.mcus (h : JHdr) : Nat := h.mw * h.mh
/-- Blocks of an MCU, by component. -/
def JHdr.blocks (h : JHdr) : List Nat :=
  (List.range h.nf).flatMap fun c => List.replicate (if c = 0 then h.hs * h.vs else 1) c
/-- MCUs of a restart interval, and intervals (R379). -/
def JHdr.per (h : JHdr) : Nat := if h.dri = 0 then h.mcus else h.dri
def JHdr.ints (h : JHdr) : Nat := if h.per = 0 then 0 else (h.mcus + h.per - 1) / h.per

/-! ### Entropy decoding -/

/-- The bits of the data from an offset up to the next marker, stuffing removed, and the marker's offset. -/
def scanBits (d : JBytes) : Nat → Nat → List Bool → List Bool × Nat
  | 0, p, acc => (acc, p)
  | fuel + 1, p, acc =>
    if d.len ≤ p then (acc, d.len)
    else if d.at p = 0xFF then
      if p + 1 < d.len ∧ d.at (p + 1) = 0 then scanBits d fuel (p + 2) (acc ++ List.replicate 8 true)
      else (acc, p)
    else scanBits d fuel (p + 1) (acc ++ (List.range 8).map fun i => (d.at p).testBit (7 - i))

/-- Decode one symbol: symbol and the rest; none at an invalid code or the end of the bits. -/
def huffSym (t : Huff) : Nat → Nat → Nat → List Bool → Option (Nat × List Bool)
  | 0, _, _, _ => none
  | fuel + 1, n, code, bits =>
    match bits with
    | [] => none
    | b :: rest =>
      let code := 2 * code + (if b then 1 else 0)
      match t.find? fun x => x.1 == n + 1 && x.2.1 == code with
      | some x => some (x.2.2, rest)
      | none => huffSym t fuel (n + 1) code rest

/-- The next n bits as a number. -/
def takeBits (n : Nat) (bits : List Bool) : Option (Nat × List Bool) :=
  if bits.length < n then none
  else some ((bits.take n).foldl (fun v b => 2 * v + (if b then 1 else 0)) 0, bits.drop n)

/-- A coded difference or coefficient of a size category. -/
def extend (s v : Nat) : Int := if s = 0 then 0 else if v < 2 ^ (s - 1) then (v : Int) - 2 ^ s + 1 else v

/-- AC coefficients from an index: (index, value) pairs. -/
def acCoefs (t : Huff) : Nat → Nat → List Bool → List (Nat × Int) → Option (List (Nat × Int) × List Bool)
  | 0, _, _, _ => none
  | fuel + 1, k, bits, acc =>
    if k = 64 then some (acc, bits)
    else match huffSym t 16 0 0 bits with
      | none => none
      | some (rs, bits) =>
        let r := rs / 16
        let s := rs % 16
        if s = 0 then
          if r = 15 then (if 63 < k + 15 then none else acCoefs t fuel (k + 16) bits acc) else some (acc, bits)
        else if 63 < k + r then none
        else match takeBits s bits with
          | none => none
          | some (v, bits) => acCoefs t fuel (k + r + 1) bits (acc ++ [(k + r, extend s v)])

/-- A table of a list of identified ones. -/
def pickT {α : Type} (d : α) (l : List (Nat × α)) (i : Nat) : α := ((l.find? fun x => x.1 == i).map fun x => x.2).getD d

/-- Decode one block: dequantised coefficients in zigzag order; the new DC predictor. -/
def block (h : JHdr) (c : Nat) (pred : Int) (bits : List Bool) : Option (List Int × Int × List Bool) :=
  let (td, ta) := (h.scan[c]?).getD (0, 0)
  let q := pickT [] h.quant (((h.comps[c]?).map fun x => x.2.2.2).getD 0)
  match huffSym (pickT [] h.huff td) 16 0 0 bits with
  | none => none
  | some (s, bits) =>
    if 11 < s then none
    else match takeBits s bits with
      | none => none
      | some (v, bits) =>
        let dc := pred + extend s v
        match acCoefs (pickT [] h.huff ta) 65 1 bits [] with
        | none => none
        | some (ac, bits) =>
          some ((List.range 64).map fun i =>
            (if i = 0 then dc else ((ac.find? fun x => x.1 == i).map fun x => x.2).getD 0) * (((q[i]?).getD 0 : Nat) : Int), dc, bits)

/-- The blocks of one MCU. -/
def mcu (h : JHdr) : List Nat → List Int → List Bool → List (List Int) → Option (List (List Int) × List Int × List Bool)
  | [], preds, bits, acc => some (acc, preds, bits)
  | c :: cs, preds, bits, acc =>
    match block h c ((preds[c]?).getD 0) bits with
    | none => none
    | some (co, dc, bits) => mcu h cs (preds.set c dc) bits (acc ++ [co])

/-- n MCUs of an interval. -/
def mcuRun (h : JHdr) : Nat → List Int → List Bool → List (List (List Int)) → Option (List (List (List Int)) × List Bool)
  | 0, _, bits, acc => some (acc, bits)
  | n + 1, preds, bits, acc =>
    match mcu h h.blocks preds bits [] with
    | none => none
    | some (m, preds, bits) => mcuRun h n preds bits (acc ++ [m])

/-- Offset past the next RST at or after an offset, and its number. -/
def nextRst (d : JBytes) : Nat → Nat → Option (Nat × Nat)
  | 0, _ => none
  | fuel + 1, p =>
    if d.len ≤ p + 1 then none
    else if d.at p = 0xFF ∧ 0xD0 ≤ d.at (p + 1) ∧ d.at (p + 1) ≤ 0xD7 then some (d.at (p + 1) - 0xD0, p + 2)
    else nextRst d fuel (p + 1)

/-- What becomes of an MCU: its coefficients, concealed, or skipped. -/
inductive McuR where
  | coefs (bs : List (List Int))
  | lost
  | skipped

/-- Decode the intervals from number i on (R379, R381): `skip` says which are not decoded. -/
def intervals (d : JBytes) (h : JHdr) (skip : Nat → Bool) : Nat → Nat → Nat → List (Nat × McuR) → List (Nat × McuR)
  | 0, _, _, acc => acc
  | fuel + 1, i, p, acc =>
    if h.ints ≤ i then acc
    else
      let first := i * h.per
      let n := min h.per (h.mcus - first)
      let fill (r : McuR) (lo k : Nat) : List (Nat × McuR) :=
        (List.range k).filterMap fun j => if lo + j < h.mcus then some (lo + j, r) else none
      if skip i then
        let acc := acc ++ fill .skipped first n
        match nextRst d d.len p with
        | some (_, q) => intervals d h skip fuel (i + 1) q acc
        | none => intervals d h skip fuel (i + 1) d.len acc
      else
        let (bits, e) := scanBits d d.len p []
        let good := match mcuRun h n (List.replicate h.nf 0) bits [] with
          | some (ms, rest) =>
            let ends := i + 1 = h.ints ∨ (d.at e = 0xFF ∧ d.at (e + 1) = 0xD0 + i % 8)
            if rest.length < 8 ∧ ends then some ms else none
          | none => none
        match good with
        | some ms =>
          intervals d h skip fuel (i + 1) (e + 2) (acc ++ ms.zipIdx.map fun (m, j) => (first + j, McuR.coefs m))
        | none =>
          match nextRst d d.len e with
          | none => acc ++ fill .lost first (h.mcus - first)
          | some (x, q) =>
            let k := (x + 8 - i % 8) % 8
            let next := if k = 0 then i + 1 else i + k
            intervals d h skip fuel next q (acc ++ fill .lost first ((next - i) * h.per))

end Sys2Proof.Machine
end

