-- ==== Sys2Proof/Machine/Power.lean ====
section
/-! DEFINITION. Power domains (R560 to R562): which unit a domain holds, when it is needed, what it loses. -/
namespace Sys2Proof.Machine
open Sys2Proof

/-- A power domain is on (R577). -/
def State.domOn (s : State) (i : Nat) : Bool := s.rbit (Reg.PWR_DOM_STAT (i / 32)) (i % 32)

/-- Show a domain on or off. -/
def State.setDom (s : State) (i : Nat) (on : Bool) : State :=
  let r := Reg.PWR_DOM_STAT (i / 32)
  s.wr r (BitVec.ofNat 32 ((s.rr r).toNat - (if s.domOn i then 2 ^ (i % 32) else 0) + (if on then 2 ^ (i % 32) else 0)))

/-- Physical index of a logical tensor core (R485, R560). -/
def State.physCore (s : State) (c : Nat) : Nat :=
  5 * (c / 4) + s.gf (Reg.REL_CORE_MAP (c / 4)) Fld.REL_CORE_MAP_PHYS / 8 ^ (c % 4) % 8

/-- The logical core a physical one serves. -/
def State.logCore (s : State) (p : Nat) : Option Nat := (List.range 32).find? fun c => s.physCore c == p

/-- Physical index of a logical Iambel core (R485). -/
def State.physIbc (s : State) (n : Nat) : Nat :=
  if s.gf Reg.REL_IBC_MAP Fld.REL_IBC_MAP_SUB1 = n then 17 else if s.gf Reg.REL_IBC_MAP Fld.REL_IBC_MAP_SUB0 = n then 16 else n

/-- The logical Iambel core a physical one serves. -/
def State.logIbc (s : State) (p : Nat) : Option Nat := (List.range 16).find? fun n => s.physIbc n == p

/-- A region of a kind of any lodging meets a device range. -/
def State.anyRegion (s : State) (kind lo hi : Nat) : Bool :=
  (List.range 16).any fun l => (List.range 64).any fun i =>
    let r := s.region l i
    r.valid && r.kind == kind && decide (r.base < hi) && decide (lo < r.base + r.bytes)

/-- Fronthaul ports that exist (R297). -/
def State.portExists (s : State) (p : Nat) : Bool := if s.gf Reg.FH_MODE Fld.FH_MODE_LANES = 1 then decide (p < 3) else decide (p < 12)

/-- Lanes of a port: 25G port p is lane p, 100G port p lanes 4p to 4p + 3 (R297, R453). -/
def State.portLane (s : State) (p lane : Nat) : Bool :=
  if s.gf Reg.FH_MODE Fld.FH_MODE_LANES = 1 then lane / 4 == p else lane == p

/-- A fronthaul port is in use: a lodging holds it, or PTP is on (R561). -/
def State.portOn (s : State) (p : Nat) : Bool :=
  s.portExists p && ((s.portHolder p).isSome || s.gf (Reg.TB_PTP_CFG p) Fld.TB_PTP_CFG_EN == 1)

/-- Bytes of the hall's system area (R199). -/
def State.hallSys (s : State) : Nat := 0x10000 * s.gf Reg.MEM_HALL_SYS Fld.MEM_HALL_SYS_GRANULES

/-- A domain is needed (R561). -/
def State.needed (s : State) (i : Nat) : Bool :=
  if i < 120 then
    match s.logCore (i % 40) with
    | some c => s.pooled c || (List.range 16).any fun l => s.dedicated l c
    | none => false
  else if i < 136 then
    let lo := wingAddr 0 + 0x800000 * (i - 120)
    s.anyRegion 1 lo (lo + 0x800000)
  else if i < 140 then
    let lo := hallAddr + 0x800000 * (i - 136)
    s.anyRegion 2 lo (lo + 0x800000) || decide (hallAddr + 0x2000000 - s.hallSys < lo + 0x800000)
  else if i < 158 then
    match s.logIbc (i - 140) with
    | some n => (s.ibcHolder n).isSome
    | none => false
  else if i < 160 then
    (List.range 12).any fun p => s.portOn p && (List.range 6).any fun k => s.portLane p (6 * (i - 158) + k)
  else if i < 165 then
    (List.range 4).any fun p => s.physEng p == i - 160 && nbits (s.rr Reg.LDPC_ENG_OWNER).toNat (5 * p + 4) (5 * p) != 31
  else if i < 167 then (List.range 8).any fun a => s.gf (Reg.AIR_CAR_CFG0 a) Fld.AIR_CAR_CFG0_ENABLE == 1
  else if i < 171 then s.gf (Reg.DLK_CFG (i - 167)) Fld.DLK_CFG_EN == 1
  else if i < 173 then s.gf Reg.MEM_CAP Fld.MEM_CAP_ATTACHED != 0
  else if i = 173 then true
  else (List.range 64).any fun k => s.gf (Reg.SMP_ST_BIND k) Fld.SMP_ST_BIND_ENABLE == 1

/-- Request of a domain: 0 AUTO, 1 ON, 2 OFF (R577). -/
def State.domReq (s : State) (i : Nat) : Nat := nbits (s.rr (Reg.PWR_DOM_REQ (i / 16))).toNat (2 * (i % 16) + 1) (2 * (i % 16))

/-- Whether a domain is to be on (R561): wing halves and hall quadrants stay on under AUTO. With no image and in deep standby
only PCIe is on, after a thermal trip nothing is (R555, R571, R572). -/
def State.wantOn (s : State) (i : Nat) : Bool :=
  let st := s.gf Reg.PWR_BOOT Fld.PWR_BOOT_STATE
  if st = 5 then false
  else if st = 2 ∨ st = 3 then i == 173
  else s.needed i || s.domReq i == 1 || (s.domReq i == 0 && decide (120 ≤ i) && decide (i < 140))

/-- A store range written to 0 with valid check bits. -/
def State.wipe (s : State) (a n : Nat) : State := (s.zero a n).clearPoison a n

/-- SRAM contents of a domain's unit return to 0 (R561, R562). -/
def State.domWipe (s : State) (i : Nat) : State :=
  if i < 120 then
    match s.logCore (i % 40) with
    | none => s
    | some c =>
      if i < 40 then
        (s.setTc c fun t => { t with acc := [], bank := [], bankScale := [] }).clearBanks c
      else if i < 80 then
        (s.wr (Reg.TC_SFN_STATE c) 0).setTc c fun t =>
          { t with slots := [], tbuf := [], empty := [], tbState := [], ftq := [], table := [], dir := [] }
      else (s.wipe (osAddr c) 0x200000).setTc c fun t =>
        { t with shBank := [], shScale := [], shRec := [], shTable := [], shDir := [], shAct := [] }
  else if i < 136 then s.wipe (wingAddr 0 + 0x800000 * (i - 120)) 0x800000
  else if i < 140 then s.wipe (hallAddr + 0x800000 * (i - 136)) 0x800000
  else if i < 158 then
    match s.logIbc (i - 140) with
    | some n => (s.wipe (iamAddr n) 0x40000).setIbc n fun _ => Ibc.reset
    | none => s
  else if i < 160 then s
  else if i < 165 then
    (List.range 4).foldl (fun s p =>
      if s.physEng p = i - 160 then { s with ldpcEng := tput (fun _ => none) s.ldpcEng p none } else s) s
  else if 174 ≤ i then { s with smp := tput (fun _ => none) s.smp (i - 174) none }
  else s

/-- A domain's power-up or power-down ends (R562). -/
def State.switchDom (s : State) (i : Nat) (on : Bool) : State :=
  if s.domOn i = on then s else (s.domWipe i).setDom i on

/-- Every domain that a configuration needs is powered up (R562). -/
def State.powerNeeded (s : State) (need : Nat → Bool) : State :=
  (List.range 176).foldl (fun s i => if need i then s.switchDom i true else s) s

/-- Every switched domain but those kept is powered off (R545, R555, R559, R571, R572). -/
def State.powerOff (s : State) (keep : Nat → Bool) : State :=
  (List.range 176).foldl (fun s i => if keep i then s else s.switchDom i false) s

end Sys2Proof.Machine
end

