-- ==== Sys2Proof/Machine/Samples.lean ====
section
/-! DEFINITION. The sample decoders (spec/11): posting, taking a frame, its header checks, its slots, and the outputs of a
frame that becomes ready. JPEG readings of the model: log 24; layout of the reference frame: log 25; IDCT: log 27. -/
namespace Sys2Proof.Machine
open Sys2Proof

/-! ### Streams and posting (R375, R376) -/

/-- A stream. -/
def State.strmOf (s : State) (k : Nat) : Strm := tget (fun _ => Strm.none) s.strm k
/-- Change a stream. -/
def State.setStrm (s : State) (k : Nat) (f : Strm → Strm) : State := { s with strm := tmod (fun _ => Strm.none) s.strm k f }
/-- Lodging of a stream; enabled. -/
def State.strmLdg (s : State) (k : Nat) : Nat := s.gf (Reg.SMP_ST_BIND k) Fld.SMP_ST_BIND_LODGING
def State.strmOn (s : State) (k : Nat) : Bool := s.gf (Reg.SMP_ST_BIND k) Fld.SMP_ST_BIND_ENABLE == 1

/-- Fields of a stream descriptor (R376). -/
def sdInSize (d : Nat) : Nat := dfield d 8 2
def sdFlags (d : Nat) : Nat := dfield d 0xA 2
def sdMain (d : Nat) : Bool := (sdFlags d).testBit 0
def sdDecim (d : Nat) : Bool := (sdFlags d).testBit 1
def sdCrop (d : Nat) : Bool := (sdFlags d).testBit 2
def sdCspace (d : Nat) : Nat := nbits (sdFlags d) 4 3
def sdChw (d : Nat) : Bool := (sdFlags d).testBit 5
def sdFmt (d : Nat) : Nat := nbits (sdFlags d) 9 6

/-- A write of a stream's tail posts the entries up to it (R375). -/
def State.postTail (s : State) (k v : Nat) : State :=
  let n := sdInSize (s.strmOf k).desc
  let old := s.gf (Reg.SMP_ST_TAIL k) Fld.SMP_ST_TAIL_TAIL
  let v := v % 4096
  let new := if n = 0 then 0 else (v + n - old % n) % n
  (s.sf (Reg.SMP_ST_TAIL k) Fld.SMP_ST_TAIL_TAIL v).setStrm k fun x =>
    { x with posts := x.posts ++ List.replicate new s.cycle }

/-- ST_TAIL (R375): a lodging's Iambel cores reach the tails of its streams, its function does not (R581; log 26). -/
def execStTail (who : Requester) (st : Fin 64) (v : Word) (s : State) : Host.Outcome State Fault Refusal :=
  .next (s.asWrite who (Reg.SMP_ST_TAIL st.val) fun s => s.postTail st.val v.toNat)

/-! ### Outcomes without a sample (R378, R390, R392) -/

/-- A decoder's status bits (R395). -/
def State.decStat (s : State) (d : Nat) (busy : Bool) (k : Nat) : State :=
  if d = 0 then (s.sf Reg.SMP_DEC_STAT Fld.SMP_DEC_STAT_D0_BUSY (if busy then 1 else 0)).sf Reg.SMP_DEC_STAT Fld.SMP_DEC_STAT_D0_STREAM k
  else (s.sf Reg.SMP_DEC_STAT Fld.SMP_DEC_STAT_D1_BUSY (if busy then 1 else 0)).sf Reg.SMP_DEC_STAT Fld.SMP_DEC_STAT_D1_STREAM k

/-- The frame a decoder holds. -/
def State.smpOf (s : State) (d : Nat) : Option SmpJob := tget (fun _ => none) s.smp d

/-- An outcome that gives no sample is entered in the queue's drop list; the decoder is free (FRAME_REJECT; R378, R390). -/
def State.frameDrop (s : State) (l q k st frame cause tag : Nat) : State :=
  let s := s.setFlag Reg.SMP_FLAG (if st = St.dropped then 2 else 3) (some l)
  let full := decide (64 ≤ (s.bqOf l q).drops.length)
  let s := s.setBq l q fun b =>
    if full then { b with dropOvf := (b.dropOvf + 1) % 2 ^ 32 } else { b with drops := b.drops ++ [(k, st, frame, cause, tag)] }
  (s.setFlagIf full Reg.SMP_FLAG 0 (some l)).countStatus 0xD st (some l)

/-! ### Taking a frame (R377, R378, R386) -/

/-- A sample decoder can serve (R393, R474). -/
def State.decOk (s : State) (d : Nat) : Bool := s.domOn (174 + d) && !s.failed.contains (8, d)

/-- Enabled streams with an entry posted and no frame in decode, oldest entry first (R377). -/
def State.posted (s : State) : List Nat :=
  let ks := (List.range 64).filter fun k =>
    s.strmOn k && !(s.strmOf k).posts.isEmpty && !((List.range 2).any fun d => ((s.smpOf d).map fun j => j.stream) == some k)
  let before (a b : Nat) : Bool :=
    let x := ((s.strmOf a).posts.headD 0, s.strmLdg a, a)
    let y := ((s.strmOf b).posts.headD 0, s.strmLdg b, b)
    decide (x.1 < y.1) || (x.1 == y.1 && (decide (x.2.1 < y.2.1) || (x.2.1 == y.2.1 && decide (x.2.2 ≤ y.2.2))))
  ks.mergeSort before

/-- A frame entry of a ring (R375). -/
structure FrameEnt where
  reg : Nat
  off : Nat
  len : Nat
  tag : Nat

/-- Read an entry from its 16 bytes. -/
def FrameEnt.of (e : Nat) : FrameEnt := ⟨dfield e 0 1, dfield e 4 4, dfield e 8 4, dfield e 0xC 4⟩

/-- A rectangle clipped to the frame, none when it is empty. -/
def clipRect (w h x0 y0 x1 y1 : Nat) : Option (Nat × Nat × Nat × Nat) :=
  let x1 := min x1 w
  let y1 := min y1 h
  if x0 < x1 ∧ y0 < y1 then some (x0, y0, x1, y1) else none

/-- The ROI list as a take reads it (R386): the usable rectangles with their indexes, and whether the list is stale. -/
def roiList (u frame w h : Nat) (usable : Bool) : List (Nat × Nat × Nat × Nat × Nat) × Bool :=
  if usable ∧ dfield u 0 3 = (frame + 2 ^ 24 - 1) % 2 ^ 24 then
    ((List.range (dfield u 3 1 % 8)).filterMap fun i =>
      (clipRect w h (dfield u (4 + 8 * i) 2) (dfield u (6 + 8 * i) 2) (dfield u (8 + 8 * i) 2) (dfield u (10 + 8 * i) 2)).map
        fun r => (i, r), false)
  else ([], true)

/-- The bytes of a frame. -/
def jbytes (bs : List Byte) : JBytes := ⟨fun i => (((bs.drop i).head?).getD 0).toNat, bs.length⟩

/-- Read the bytes of a frame for its lodging; none when a word is uncorrectable. -/
def State.frameBytes (s : State) (l a n : Nat) : State × List Byte × Bool :=
  let (s, v, bad) := s.getBytes l a n
  (s, (List.range n).map fun i => BitVec.ofNat 8 (v / 256 ^ i), bad)

/-- Outputs of a frame: PART, crop, output size (R387). -/
def outputsOf (d w h : Nat) (rois : List (Nat × Nat × Nat × Nat × Nat)) : List (Nat × (Nat × Nat × Nat × Nat) × Nat × Nat) :=
  let cx := dfield d 0x14 2
  let cy := dfield d 0x16 2
  let whole := (0, 0, w, h)
  let crop := if dfield d 0x18 2 = 0 then whole else (clipRect w h cx cy (cx + dfield d 0x18 2) (cy + dfield d 0x1A 2)).getD whole
  (if sdMain d then [(0xFF, crop, dfield d 0x1C 2, dfield d 0x1E 2)] else []) ++
    (if sdCrop d then rois.map fun (i, r) => (i, r, dfield d 0x20 2, dfield d 0x22 2) else [])

/-- Header checks and slots of the frame a decoder has taken (R378, R386, R389). -/
def State.checkFrame (s : State) (d l q k frame desc : Nat) (e : FrameEnt) (resv : List Nat) : State :=
  let r := if e.reg < 64 then s.region l e.reg else Region.ofWords 0 0 0 0
  let st := pick [(r.valid && !r.rd, St.permission), (!r.holds e.off e.len || r.kind == 5, St.bounds),
    (decide (e.len = 0) || decide (2 ^ 24 < e.len), St.bounds)]
  if st ≠ St.ok then s.frameDrop l q k st frame 0 e.tag
  else
    let (s, bs, bad) := (s.tierCharge l .sample (r.base + e.off) e.len false).frameBytes l (r.base + e.off) e.len
    if bad then
      let (c, s) := s.draw
      s.frameDrop l q k St.dropped frame (1 + c % 9) e.tag
    else match headers (jbytes bs) (s.gf (Reg.SMP_LDG_MAX l) Fld.SMP_LDG_MAX_MAX_SAMPLES) with
      | .dropped c => s.frameDrop l q k St.dropped frame c e.tag
      | .dimension => s.frameDrop l q k St.dimension frame 0 e.tag
      | .ok h =>
        let rr := s.region l (dfield desc 2 1)
        let hasRoi := decide (dfield desc 2 1 ≠ 0xFF)
        let ra := rr.base + dfield desc 0x10 4
        let (s, u, ubad) := if hasRoi then (s.tierCharge l .sample ra 64 false).getUnit l ra else (s, 0, true)
        let (rois, stale) := roiList u frame h.w h.h (hasRoi && !ubad)
        let s := s.setFlagIf stale Reg.SMP_FLAG 5 (some l)
        let slots := resv.take (outputsOf desc h.w h.h rois).length
        let s := s.setBq l q fun b => { b with used := b.used ++ slots }
        let job : SmpJob := ⟨k, l, q, bs, e.tag, frame, desc, rois, stale, slots⟩
        { s.decStat d true k with smp := tput (fun _ => none) s.smp d (some job) }

/-- Decoder d takes the oldest entry of stream k (R377). -/
def State.takeFrame (s : State) (d k : Nat) : State :=
  let l := s.strmLdg k
  let desc := (s.strmOf k).desc
  let q := dfield desc 3 1 % 4
  let head := s.gf (Reg.SMP_ST_HEAD k) Fld.SMP_ST_HEAD_HEAD
  let frame := (s.rr (Reg.SMP_ST_FRAME k)).toNat
  let resv := (s.bqOf l q).freeSlots.take 8
  let at_ := (s.region l (dfield desc 0 1)).base + dfield desc 4 4 + 16 * head
  let (s, v, _) := (s.tierCharge l .sample at_ 16 false).getBytes l at_ 16
  let e := FrameEnt.of v
  let s := (s.sf (Reg.SMP_ST_HEAD k) Fld.SMP_ST_HEAD_HEAD (if sdInSize desc = 0 then 0 else (head + 1) % sdInSize desc)).wr
    (Reg.SMP_ST_FRAME k) (BitVec.ofNat 32 (frame + 1))
  let s := s.setStrm k fun x => { x with posts := x.posts.drop 1 }
  let s := s.event 0xD 0x3000 (some l)
  if s.failed.contains (8, 0) && s.failed.contains (8, 1) then s.frameDrop l q k St.dropped frame 4 e.tag
  else s.checkFrame d l q k frame desc e resv

/-! ### Pixels (R380 to R385) -/

/-- Samples of one MCU, block by block. -/
abbrev McuPix := List (List Nat)

/-- A sample of the IDCT's output, held to 8 bits. -/
def clamp8 (v : Int) : Nat := (clampTo 0 255 v).1.toNat

/-- A decoded or decimated block: a decimated one is flat at its DC value (R387). -/
def blockPix (decim : Bool) (co : List Int) : List Nat :=
  (Config.idct (if decim then [co.headD 0] ++ List.replicate 63 0 else co)).map clamp8

/-- Samples of a component plane: MCUs across, sampling factors of the component, its first block in an MCU. -/
def planeAt (h : JHdr) (pix : Nat → McuPix) (c x y : Nat) : Nat :=
  let hc := if c = 0 then h.hs else 1
  let vc := if c = 0 then h.vs else 1
  let m := (y / (8 * vc)) * h.mw + x / (8 * hc)
  let b := (if c = 0 then 0 else h.hs * h.vs + c - 1) + (y / 8 % vc) * hc + x / 8 % hc
  ((((pix m)[b]?).getD [])[8 * (y % 8) + x % 8]?).getD 128

/-- Places of an MCU's samples: component, column and row of each sample, block by block. -/
def mcuPlaces (h : JHdr) (m : Nat) : List (List (Nat × Nat × Nat)) :=
  (List.range h.blocks.length).map fun b =>
    let c := if b < h.hs * h.vs then 0 else b - h.hs * h.vs + 1
    let hc := if c = 0 then h.hs else 1
    let vc := if c = 0 then h.vs else 1
    let bx := if c = 0 then b % h.hs else 0
    let by_ := if c = 0 then b / h.hs else 0
    (List.range 64).map fun i => (c, (m % h.mw) * 8 * hc + 8 * bx + i % 8, (m / h.mw) * 8 * vc + 8 * by_ + i / 8)

/-- A rectangle meets an MCU. -/
def mcuMeets (h : JHdr) (m : Nat) (r : Nat × Nat × Nat × Nat) : Bool :=
  let x := (m % h.mw) * 8 * h.hs
  let y := (m / h.mw) * 8 * h.vs
  decide (x < r.2.2.1) && decide (r.1 < x + 8 * h.hs) && decide (y < r.2.2.2) && decide (r.2.1 < y + 8 * h.vs)

/-- Device address of a sample of the reference frame. -/
def State.refAddr (s : State) (j : SmpJob) (h : JHdr) (p : Nat × Nat × Nat) : Nat :=
  (s.region j.l (dfield j.desc 1 1)).base + dfield j.desc 0xC 4 +
    Config.refPlace [h.w, h.h, p.1, p.2.1, p.2.2] % 100663296

/-- One byte for a lodging. -/
def State.byteFor (s : State) (l a : Nat) : Nat := if s.inTier a && s.readsZero l a then 0 else (s.rb a).toNat

/-- Samples of an MCU, and whether it is concealed and whether from mid-grey (R380). -/
def State.mcuPix (s : State) (j : SmpJob) (h : JHdr) (refOk : Bool) (m : Nat) (r : McuR) : McuPix :=
  match r with
  | .coefs bs =>
    let decim := sdDecim j.desc && !j.rois.isEmpty && !(j.rois.any fun x => mcuMeets h m x.2)
    bs.map (blockPix decim)
  | .lost => (mcuPlaces h m).map fun ps => ps.map fun p => if refOk then s.byteFor j.l (s.refAddr j h p) else 128
  | .skipped => []

/-- Full colour of a source pixel under CSPACE (R383). -/
def colourAt (h : JHdr) (pix : Nat → McuPix) (cs c x y : Nat) : Nat :=
  let yy : Int := planeAt h pix 0 x y
  let chroma (k : Nat) : Int := if h.nf = 1 then 128 else planeAt h pix k (x / h.hs) (y / h.vs)
  let cb := chroma 1 - 128
  let cr := chroma 2 - 128
  if cs = 2 then yy.toNat
  else if cs = 1 then (if c = 0 then yy else chroma c).toNat
  else if c = 0 then clamp8 (yy + (91881 * cr + 32768) / 65536)
  else if c = 1 then clamp8 (yy + (-22554 * cb - 46802 * cr + 32768) / 65536)
  else clamp8 (yy + (116130 * cb + 32768) / 65536)

/-- Position of the resize along one axis: index, next index, fraction (R384). -/
def resizeAt (u n out : Nat) : Nat × Nat × Nat :=
  let sx := (clampTo 0 (((n - 1) * 256 : Nat) : Int) ((((2 * u + 1) * n * 256 / (2 * out) : Nat) : Int) - 128)).1.toNat
  (sx / 256, min (sx / 256 + 1) (n - 1), sx % 256)

/-- One value of an output before normalisation (R384). -/
def resized (h : JHdr) (pix : Nat → McuPix) (cs c : Nat) (crop : Nat × Nat × Nat × Nat) (ow oh u v : Nat) : Nat :=
  let (x0, x1, fx) := resizeAt u (crop.2.2.1 - crop.1) ow
  let (y0, y1, fy) := resizeAt v (crop.2.2.2 - crop.2.1) oh
  let p (x y : Nat) : Nat := colourAt h pix cs c (crop.1 + x) (crop.2.1 + y)
  ((p x0 y0 * (256 - fx) + p x1 y0 * fx) * (256 - fy) + (p x0 y1 * (256 - fx) + p x1 y1 * fx) * fy + 32768) / 65536

/-- A value normalised and converted (R385), with its events. -/
def normalise (desc c p : Nat) : Nat × Nat :=
  let mean := f32 (dfield desc (0x24 + 4 * c) 4)
  let scale := f32 (dfield desc (0x30 + 4 * c) 4)
  let (d, _) := FV.add (FV.ofInt (p : Nat)) (FV.neg mean)
  let (v, _) := FV.mul d scale
  let (r, e1) := round32 v
  let (q, e2) := convTo (sdFmt desc) (f32 r)
  (q, e1 ||| e2)

/-- A conversion saturated or flushed (R394). -/
def cvtEvent (ev : Nat) : Bool := decide (ev &&& (Ev.cvtSat ||| Ev.fpOvf ||| Ev.flush) ≠ 0)

/-- The elements of an output in the order of their bytes (R385). -/
def tensorOf (h : JHdr) (pix : Nat → McuPix) (desc : Nat) (crop : Nat × Nat × Nat × Nat) (ow oh : Nat) : List (Nat × Nat) :=
  let cs := sdCspace desc
  let ch := if cs = 2 then 1 else 3
  let el (v u c : Nat) : Nat × Nat := normalise desc c (resized h pix cs c crop ow oh u v)
  if sdChw desc then
    (List.range ch).flatMap fun c => (List.range oh).flatMap fun v => (List.range ow).map fun u => el v u c
  else (List.range oh).flatMap fun v => (List.range ow).flatMap fun u => (List.range ch).map fun c => el v u c

/-- Runs of consecutive numbers of a rising list: first and count. -/
def runsOf : List Nat → List (Nat × Nat)
  | [] => []
  | m :: t =>
    match runsOf t with
    | (f, n) :: rs => if f = m + 1 then (m, n + 1) :: rs else (m, 1) :: (f, n) :: rs
    | [] => [(m, 1)]

/-- The ranges a descriptor lists (R382), and RANGE_OVF. -/
def rangesOf (lost : List Nat) : List (Nat × Nat) × Bool :=
  let rs := runsOf lost
  if rs.length ≤ 4 then (rs, false)
  else
    let f := ((rs[3]?).getD (0, 0)).1
    (rs.take 3 ++ [(f, (lost.getLast?).getD 0 + 1 - f)], true)

/-- The sample descriptor (R389) as a number. -/
def sampleDesc (j : SmpJob) (h : JHdr) (part ow oh : Nat) (lost : List Nat) (grey decim : Bool) : Nat :=
  let (rs, ovf) := rangesOf lost
  let b (p : Bool) (i : Nat) : Nat := if p then 2 ^ i else 0
  (if lost.isEmpty then St.ok else St.concealed) + 2 ^ 8 * part + 2 ^ 16 * j.stream + 2 ^ 32 * j.frame + 2 ^ 64 * j.tag +
    2 ^ 96 * h.w + 2 ^ 112 * h.h + 2 ^ 128 * ow + 2 ^ 144 * oh +
    2 ^ 160 * (b j.stale 0 + b decim 1 + b ovf 2 + b grey 3) + 2 ^ 168 * rs.length + 2 ^ 192 * lost.length +
    (rs.zipIdx.foldl (fun n (r, i) => n + 2 ^ (256 + 64 * i) * (r.1 + 2 ^ 32 * r.2)) 0)

/-- Write one output into its slot (R389). -/
def State.putOutput (s : State) (j : SmpJob) (h : JHdr) (pix : Nat → McuPix) (lost : List Nat) (grey : Bool)
    (out : Nat × (Nat × Nat × Nat × Nat) × Nat × Nat) (slot : Nat) : State :=
  let (part, crop, ow, oh) := out
  let a := s.bqSlotAddr j.l (s.bqOf j.l j.q).desc slot
  let t := tensorOf h pix j.desc crop ow oh
  let e := fmtBits (sdFmt j.desc) / 8
  let s := t.zipIdx.foldl (fun s (x, i) => s.put j.l (a + 64 + e * i) e x.1) s
  let s := s.setFlagIf (t.any fun x => cvtEvent x.2) Reg.SMP_FLAG 7 (some j.l)
  s.put j.l a 64 (sampleDesc j h part ow oh lost grey (sdDecim j.desc && !j.rois.isEmpty))

/-- Write the MCUs a frame produced into the reference frame (R380). -/
def State.putRef (s : State) (j : SmpJob) (h : JHdr) (ms : List (Nat × McuPix)) : State :=
  if dfield j.desc 1 1 = 0xFF then s
  else ms.foldl (fun s (m, bs) =>
    ((mcuPlaces h m).zip bs).foldl (fun s (ps, vs) =>
      (ps.zip vs).foldl (fun s (p, v) => s.put j.l (s.refAddr j h p) 1 v) s) s) s

/-- The MCUs of a frame in decode, in order, with what became of each (R379, R381). -/
def SmpJob.mcus (j : SmpJob) (h : JHdr) : List (Nat × McuR) :=
  let outs := outputsOf j.desc h.w h.h j.rois
  let crops := (outs.filter fun o => o.1 == 0xFF).map (fun o => o.2.1) ++ j.rois.map fun r => r.2
  let skip (i : Nat) : Bool := (List.range h.per).all fun k =>
    decide (h.mcus ≤ i * h.per + k) || !(crops.any fun r => mcuMeets h (i * h.per + k) r)
  intervals (jbytes j.bytes) h skip (h.ints + 1) 0 h.data []

/-- The shape a reference frame must have to be used (R380). -/
def refKey (h : JHdr) : Nat × Nat × Nat × Nat × Nat := (h.w, h.h, h.nf, h.hs, h.vs)

/-- The reference frame is usable (R380). -/
def State.refUsable (s : State) (j : SmpJob) (h : JHdr) : Bool :=
  decide (dfield j.desc 1 1 ≠ 0xFF) && (s.strmOf j.stream).ref == some (refKey h)

/-- MCUs that a frame conceals. -/
def lostOf (ms : List (Nat × McuR)) : List Nat := ms.filterMap fun (m, r) => match r with
  | .lost => some m
  | _ => none

/-- The tier traffic of a frame in decode: reference blocks of concealed MCUs, the reference blocks it writes, its outputs
(R216; a block of 64 samples is one unit, log 75). -/
def State.frameTraffic (s : State) (j : SmpJob) (h : JHdr) : State :=
  let ms := j.mcus h
  let per := 64 * h.blocks.length
  let ref := (s.region j.l (dfield j.desc 1 1)).base + dfield j.desc 0xC 4
  let made := (ms.filter fun x => match x.2 with
    | .skipped => false
    | _ => true).length
  let t := if s.refUsable j h then s.tierCharge j.l .sample ref (per * (lostOf ms).length) false else s
  let t := if dfield j.desc 1 1 = 0xFF then t else t.tierCharge j.l .sample ref (per * made) true
  let ch := if sdCspace j.desc = 2 then 1 else 3
  ((outputsOf j.desc h.w h.h j.rois).zip j.slots).foldl (fun t (o, k) =>
    t.tierCharge j.l .sample (s.bqSlotAddr j.l (s.bqOf j.l j.q).desc k)
      (64 + ch * o.2.2.1 * o.2.2.2 * (fmtBits (sdFmt j.desc) / 8)) true) t

/-- The outputs of a frame in decode are written and become ready together (R379 to R390). -/
def State.frameReady (s : State) (d : Nat) (j : SmpJob) (h : JHdr) : State :=
  let outs := outputsOf j.desc h.w h.h j.rois
  let ms := j.mcus h
  let lost := lostOf ms
  let key := refKey h
  let refOk := s.refUsable j h
  let px := ms.filterMap fun (m, r) => match r with
    | .skipped => none
    | r => some (m, s.mcuPix j h refOk m r)
  let pix (m : Nat) : McuPix := ((px.find? fun x => x.1 == m).map fun x => x.2).getD []
  let grey := !lost.isEmpty && !refOk
  let st := if lost.isEmpty then St.ok else St.concealed
  let s := s.putRef j h px
  let s := (outs.zip j.slots).foldl (fun s (o, k) => s.putOutput j h pix lost grey o k) s
  let s := s.setBq j.l j.q fun b =>
    { b with ready := b.ready ++ (outs.zip j.slots).map fun (o, k) => ⟨j.stream, o.1, st, j.frame, k, j.tag⟩ }
  let s := s.setFlagIf (!lost.isEmpty) Reg.SMP_FLAG 1 (some j.l)
  let s := (s.setStrm j.stream fun x => { x with ref := some key }).event 0xD 0x3001 (some j.l) lost.length
  let s := s.decStat d false 0
  { (if outs.isEmpty then s else s.countStatus 0xD st (some j.l)) with smp := tput (fun _ => none) s.smp d none }

/-- The stream's batch queue has 8 free slots (R377). -/
def State.roomFor (s : State) (k : Nat) : Bool :=
  decide (8 ≤ (s.bqOf (s.strmLdg k) (dfield (s.strmOf k).desc 3 1 % 4)).freeSlots.length)

/-- Decoder d may take: it is free and can serve, and decoder 0 goes first when both are free; with both failed each
takes in order to drop (R377, R474). -/
def State.mayTake (s : State) (d : Nat) : Bool :=
  (s.smpOf d).isNone &&
    ((s.failed.contains (8, 0) && s.failed.contains (8, 1)) ||
      (s.decOk d && (d == 0 || !(s.decOk 0 && (s.smpOf 0).isNone))))

/-- The frame a decoder has just taken puts its traffic to the regulator. -/
def State.takeTraffic (s : State) (d : Nat) : State :=
  match s.smpOf d with
  | none => s
  | some j =>
    match headers (jbytes j.bytes) (2 ^ 32) with
    | .ok h => s.frameTraffic j h
    | _ => s

/-- FRAME_TAKE (R377, R378): decoder d takes the oldest entry that has room; SLOT_WAIT when an older one waits. -/
def execFrameTake (d : Fin 2) (s : State) : Host.Outcome State Fault Refusal :=
  if !s.mayTake d.val then .next s
  else
    let waits := s.posted.takeWhile fun k => !s.roomFor k
    let s1 := waits.foldl (fun s k => s.setFlag Reg.SMP_FLAG 4 (some (s.strmLdg k))) s
    match s.posted.find? fun k => s.roomFor k with
    | some k => .next ((s1.takeFrame d.val k).takeTraffic d.val)
    | none => .next s1

/-- FRAME_READY (R390): once the regulator has admitted the frame's tier traffic (R216). -/
def execFrameReady (d : Fin 2) (s : State) : Host.Outcome State Fault Refusal :=
  match s.smpOf d.val with
  | none => .next s
  | some j =>
    match headers (jbytes j.bytes) (2 ^ 32) with
    | .ok h => .next (if s.owes j.l .sample then s else s.frameReady d.val j h)
    | _ => .next s

end Sys2Proof.Machine
end

