-- ==== Sys2Proof/Machine/TimeCmd.lean ====
section
/-! DEFINITION. Operations on time bases (R435 to R441), comparators (R442 to R446), captures (R447, R448), sync registers
(R454, R459, R465). -/
namespace Sys2Proof.Machine
open Sys2Proof

/-! ### Requesters (R436, R500) -/

/-- Number of a requester among those of R436. -/
def reqIx : Requester → Nat
  | .pf => 0
  | .vf l => 1 + l.val
  | .smbus => 17
  | .innkeeper => 18
  | .ibc n => 19 + n.val
  | .dbg => 37

/-- A read returns a value to its requester. -/
def State.returns (s : State) (who : Requester) (v : Word) : State :=
  { s with rdata := tput (fun _ => 0) s.rdata (reqIx who) v }

/-- The latch of a requester for a time base (R436). -/
def State.latchOf (s : State) (who : Requester) (t : Nat) : Nat := tget (fun _ => 0) s.tbLatch (64 * t + (reqIx who))

/-- A read of NOW_FRAC latches the time (R436). -/
def State.latchNow (s : State) (who : Requester) (t : Nat) : State :=
  { s with tbLatch := tput (fun _ => 0) s.tbLatch (64 * t + (reqIx who)) (s.now t) }

/-- A read of NOW_FRAC by a requester that reaches it: the latch is taken and the fraction returned. -/
def State.readNow (s : State) (who : Requester) (t : Nat) : State :=
  (s.latchNow who t).returns who (BitVec.ofNat 32 (tFrac (s.now t)))

/-- NOW_FRAC_READ (R436). -/
def execNowFracRead (who : Requester) (t : Fin 4) (s : State) : Host.Outcome State Fault Refusal :=
  .next (if s.reach who (Reg.TB_NOW_FRAC t.val) false then s.readNow who t.val else (s.deny who).returns who 0)

/-! ### Steering (R437) -/

/-- A write from a requester without the right (R437, R442). -/
def State.steerDenied (s : State) (who : Requester) : State := s.setFlag Reg.TB_FLAG 10 (s.reqLodging who)

/-- A steering write: discarded with STEER_DENIED unless the requester may steer (R437). -/
def State.asSteer (s : State) (who : Requester) (off t : Nat) (eff : State → State) : State :=
  if s.reach who off true then (if s.steers who t then eff s else s.steerDenied who)
  else match who with
    | .vf _ => (s.deny who).steerDenied who
    | _ => s.deny who

/-- Lodging a steering request counts for. -/
def State.tbStatus (s : State) (who : Requester) (t st : Nat) : State :=
  (s.sf (Reg.TB_STAT t) Fld.TB_STAT_LAST_STATUS st).countStatus 2 st (s.reqLodging who)

/-- The nominal increment (R438). -/
def incrNominal : Nat := 0x1AAAAAAAB

/-- A write of INCR_LO is held pending (R438). -/
def State.incrLo (s : State) (t v : Nat) : State := s.setTb t fun b => { b with lo := some v }

/-- A write of INCR_HI (R438): the new increment applies from the second tick, or is refused. -/
def State.incrHi (s : State) (who : Requester) (t hi : Nat) : State :=
  let b := s.tbOf t
  let new := hi % 256 * 2 ^ 32 + b.lo.getD (b.incr % 2 ^ 32)
  let far := decide (0x369D03 < new - incrNominal) || decide (0x369D03 < incrNominal - new)
  let st := pick [(far, St.bounds), (!b.running, St.state)]
  let s := (s.tbStatus who t st).setFlagIf far Reg.TB_FLAG 11 (s.reqLodging who)
  if st = St.ok then s.setTb t fun b => { b with next := some (new, 2), lo := none } else s

/-- INCR_LO_WRITE (R438). -/
def execIncrLoWrite (who : Requester) (t : Fin 4) (v : Word) (s : State) : Host.Outcome State Fault Refusal :=
  .next (s.asSteer who (Reg.TB_INCR_LO t.val) t.val fun s => s.incrLo t.val v.toNat)

/-- INCR_HI_WRITE (R438). -/
def execIncrHiWrite (who : Requester) (t : Fin 4) (v : Word) (s : State) : Host.Outcome State Fault Refusal :=
  .next (s.asSteer who (Reg.TB_INCR_HI t.val) t.val fun s => s.incrHi who t.val v.toNat)

/-! ### Adjustments (R439 to R441) -/

/-- A comparator. -/
def State.cmpOf (s : State) (k : Nat) : Cmp := tget (fun _ => Cmp.off) s.cmp k
/-- Change a comparator. -/
def State.setCmp (s : State) (k : Nat) (f : Cmp → Cmp) : State := { s with cmp := tmod (fun _ => Cmp.off) s.cmp k f }

/-- A comparator of an enabled carrier (R446). -/
def State.cmpAir (s : State) (k : Nat) : Bool := decide (24 ≤ k) && decide (k < 32) && s.carOn (k - 24)
/-- Time base of a comparator (R442, R446). -/
def State.cmpTb (s : State) (k : Nat) : Nat :=
  if s.cmpAir k then s.carTb (k - 24) else s.gf (Reg.TB_CMP_CFG k) Fld.TB_CMP_CFG_TB
/-- Lodging that owns it, none for the host. -/
def State.cmpOwner (s : State) (k : Nat) : Option Nat :=
  if s.cmpAir k then some (s.carLdg (k - 24))
  else if s.gf (Reg.TB_CMP_CFG k) Fld.TB_CMP_CFG_HOST = 1 then none else some (s.gf (Reg.TB_CMP_CFG k) Fld.TB_CMP_CFG_OWNER)
/-- Live VALID (R443, R446). -/
def State.cmpValid (s : State) (k : Nat) : Bool := s.cmpAir k || s.gf (Reg.TB_CMP_CFG k) Fld.TB_CMP_CFG_VALID == 1

/-- The smallest c + k × P, k any integer, not earlier than a time (R444). -/
def regrid (c p now : Nat) : Nat :=
  if now ≤ c then c - (c - now) / p * p else c + cdiv (now - c) p * p

/-- Periodic comparators of a time base are realigned to its new time (R444). -/
def State.realign (s : State) (t : Nat) : State :=
  (List.range 32).foldl (fun (s : State) k =>
    let c := s.cmpOf k
    if c.armed && decide (c.per ≠ 0) && s.cmpTb k == t then s.setCmp k fun c => { c with due := regrid c.due c.per (s.now t) }
    else s) s

/-- A step: the pending amount in one tick (R439, R441). -/
def State.step_ (s : State) (t : Nat) (amount : Int) : State :=
  let before := s.now t
  let s := s.setTb t fun b => { b with t := (((b.t : Int) + amount) % tbWrap).toNat, rem := 0, ovr := none }
  ((s.setFlag Reg.TB_FLAG (4 + t) none).carStep t before).realign t

/-- JUMP_LIMIT of a time base in 2⁻³² ns (R462). -/
def State.jumpLimit (s : State) (t : Nat) : Nat := s.gf (Reg.TB_CFG t) Fld.TB_CFG_JUMP_LIMIT * nsU

/-- Move a running time base by an amount: the table of R439. -/
def State.adjust (s : State) (who : Requester) (t : Nat) (amount : Int) : State :=
  let b := s.tbOf t
  let p := amount + b.rem
  if b.ovr.isSome then (s.step_ t p).tbStatus who t St.ok
  else if p.natAbs ≤ s.jumpLimit t then (s.setTb t fun b => { b with rem := p }).tbStatus who t St.ok
  else (s.setFlag Reg.TB_FLAG t (s.reqLodging who)).tbStatus who t St.jumpRefused

/-- OP ADJUST (R435, R439). -/
def State.opAdjust (s : State) (who : Requester) (t : Nat) : State :=
  if (s.tbOf t).running then
    s.adjust who t ((s.rr (Reg.TB_ADJ_NS t)).toInt * (nsU : Int) +
      ((s.gf (Reg.TB_OPFRAC t) Fld.TB_OPFRAC_FRAC * 2 ^ 16 : Nat) : Int))
  else s.tbStatus who t St.state

/-- A time of seconds, nanoseconds and fraction registers. -/
def timeOf (shi slo ns frac : Nat) : Nat := (shi * 2 ^ 32 + slo) * secU + ns * nsU + frac * 2 ^ 16

/-- OP SET (R435, R439, R462). -/
def State.opSet (s : State) (who : Requester) (t : Nat) : State :=
  let ns := (s.rr (Reg.TB_SET_NS t)).toNat
  if 1000000000 ≤ ns then s.tbStatus who t St.bounds
  else
    let v := timeOf (s.gf (Reg.TB_SET_SHI t) Fld.TB_SET_SHI_SEC_HI) (s.rr (Reg.TB_SET_SLO t)).toNat ns
      (s.gf (Reg.TB_OPFRAC t) Fld.TB_OPFRAC_FRAC)
    if (s.tbOf t).running then s.adjust who t ((v : Int) - s.now t)
    else (s.setTb t fun b => { b with start := some v }).tbStatus who t St.ok

/-- ARM_OVR (R440). -/
def State.armOvr (s : State) (t : Nat) : State := s.setTb t fun b => { b with ovr := some s.cycle }

/-- ADJUST (R439). -/
def execAdjust (who : Requester) (t : Fin 4) (s : State) : Host.Outcome State Fault Refusal :=
  .next (s.asSteer who (Reg.TB_OP t.val) t.val fun s => s.opAdjust who t.val)

/-- SET (R435, R439). -/
def execSetTb (who : Requester) (t : Fin 4) (s : State) : Host.Outcome State Fault Refusal :=
  .next (s.asSteer who (Reg.TB_OP t.val) t.val fun s => s.opSet who t.val)

/-- ARM_OVR (R440). -/
def execArmOvr (who : Requester) (t : Fin 4) (s : State) : Host.Outcome State Fault Refusal :=
  .next (s.asSteer who (Reg.TB_OP t.val) t.val fun s => s.armOvr t.val)

/-- OVERRIDE_EXPIRY (R440): 10 s after arming. -/
def execOverrideExpiry (t : Fin 4) (s : State) : Host.Outcome State Fault Refusal :=
  match (s.tbOf t.val).ovr with
  | some c => .next (if c + 6000000000 ≤ s.cycle then s.setTb t.val fun b => { b with ovr := none } else s)
  | none => .next s

/-! ### Comparators (R442 to R446) -/

/-- A requester is a comparator's or capture's owner: the host physical function, or the owning lodging's function or
Iambel cores (R442). -/
def State.isOwner (s : State) (who : Requester) (owner : Option Nat) : Bool :=
  match who, owner with
  | .pf, none => true
  | .pf, some _ => false
  | w, some l => s.reqLodging w == some l
  | _, none => false

/-- A write of a timing register: from others it is discarded with STEER_DENIED (R442). -/
def State.asOwner (s : State) (who : Requester) (off : Nat) (owner : Option Nat) (eff : State → State) : State :=
  if s.reach who off true then (if s.isOwner who owner then eff s else s.steerDenied who)
  else match who with
    | .vf _ => (s.deny who).steerDenied who
    | _ => s.deny who

/-- Load the pending values and arm (R443). The AIR block's comparators ignore it (R446). -/
def State.cmpArm (s : State) (k : Nat) : State :=
  if s.cmpAir k || !s.cmpValid k then s
  else
    let due := timeOf (s.gf (Reg.TB_CMP_SHI k) Fld.TB_CMP_SHI_SEC_HI) (s.rr (Reg.TB_CMP_SLO k)).toNat
      (s.rr (Reg.TB_CMP_NS k)).toNat 0
    let per := (s.rr (Reg.TB_CMP_PER_NS k)).toNat * nsU + s.gf (Reg.TB_CMP_PER_FRAC k) Fld.TB_CMP_PER_FRAC_FRAC * 2 ^ 16
    s.setCmp k fun _ => ⟨true, due, per, 0⟩

/-- DISARM (R443): a pulse in progress ends at its full width. -/
def State.cmpDisarm (s : State) (k : Nat) : State :=
  if s.cmpAir k then s else s.setCmp k fun c => { c with armed := false }

/-- CMP_ARM (R443). -/
def execCmpArm (who : Requester) (k : Fin 32) (s : State) : Host.Outcome State Fault Refusal :=
  .next (s.asOwner who (Reg.TB_CMP_CTL k.val) (s.cmpOwner k.val) fun s => s.cmpArm k.val)

/-- CMP_DISARM (R443). -/
def execCmpDisarm (who : Requester) (k : Fin 32) (s : State) : Host.Outcome State Fault Refusal :=
  .next (s.asOwner who (Reg.TB_CMP_CTL k.val) (s.cmpOwner k.val) fun s => s.cmpDisarm k.val)

/-- The signal and interrupt actions of a CMP_CFG or CAPT_CFG (R442, R447). -/
def State.tbActions (s : State) (cfg : Word) : State :=
  let s := if getF cfg Fld.TB_CMP_CFG_SIG_EN = 1 then s.signal (getF cfg Fld.TB_CMP_CFG_OBJ) 1 else s
  if getF cfg Fld.TB_CMP_CFG_IRQ_EN = 1 then s.irqPend (getF cfg Fld.TB_CMP_CFG_IBC) 0 else s

/-- CTL cycles of a pulse (R445): WIDTH ns, at least 10. -/
def pulseCycles (w : Nat) : Nat := cdiv (max 10 w * 3) 5

/-- CMP_FIRE (R443, R445): an armed comparator whose time base reads at least its compare time. -/
def execCmpFire (k : Fin 32) (s : State) : Host.Outcome State Fault Refusal :=
  let k := k.val
  let c := s.cmpOf k
  let t := s.cmpTb k
  let now := s.now t
  if !c.armed || !(s.tbOf t).running || decide (now < c.due) then .next s
  else
    let cfg := s.rr (Reg.TB_CMP_CFG k)
    let n := if c.per = 0 then 0 else (now - c.due) / c.per + 1
    let s := s.setCmp k fun c =>
      if c.per = 0 then { c with armed := false }
      else { c with due := c.due + n * c.per, missed := min 65535 (c.missed + (n - 1)) }
    let s := s.setFlagIf (decide (1 < n)) Reg.TB_FLAG 8 (s.cmpOwner k)
    let w := s.gf (Reg.TB_CMP_WIDTH k) Fld.TB_CMP_WIDTH_WIDTH
    let s := if getF cfg Fld.TB_CMP_CFG_PIN_EN = 1 then
        { s with pulses := s.pulses ++ [⟨k, getF cfg Fld.TB_CMP_CFG_PIN, s.cycle + pulseCycles w⟩] }
      else s
    .next (s.tbActions cfg)

/-- TRIG_PULSE_END (R445): the oldest pulse of a comparator has lasted WIDTH. -/
def execTrigPulseEnd (k : Fin 32) (s : State) : Host.Outcome State Fault Refusal :=
  match s.pulses.find? fun p => p.k == k.val && decide (p.fin ≤ s.cycle) with
  | some p => .next { s with pulses := s.pulses.erase p }
  | none => .next s

/-! ### Captures (R447, R448) -/

/-- A capture unit. -/
def State.captOf (s : State) (i : Nat) : Capt := tget (fun _ => Capt.reset) s.capt i
/-- Change a capture unit. -/
def State.setCapt (s : State) (i : Nat) (f : Capt → Capt) : State := { s with capt := tmod (fun _ => Capt.reset) s.capt i f }

/-- A stamp of a time with an error of at most e ns either way (R447, R452): the error is a free value. -/
def stamp (now draw e : Nat) : Nat := (((now : Int) + (draw % (2 * e * nsU + 1) : Nat) - (e * nsU : Nat)) % tbWrap).toNat

/-- CAPT_EDGE (R447): an edge on an input, rising or falling. -/
def execCaptEdge (i : Fin 8) (fall : Bool) (s : State) : Host.Outcome State Fault Refusal :=
  let i := i.val
  let cfg := s.rr (Reg.TB_CAPT_CFG i)
  let edge := getF cfg Fld.TB_CAPT_CFG_EDGE
  if getF cfg Fld.TB_CAPT_CFG_VALID = 0 ∨ (edge = 0 ∧ fall) ∨ (edge = 1 ∧ !fall) then .next s
  else
    let t := getF cfg Fld.TB_CAPT_CFG_TB
    let near := match (s.captOf i).last with
      | some c => decide (s.cycle < c + 60)
      | none => false
    let (e, s) := s.draw
    let owner := if getF cfg Fld.TB_CAPT_CFG_HOST = 1 then none else some (getF cfg Fld.TB_CAPT_CFG_OWNER)
    let full := decide (8 ≤ (s.captOf i).fifo.length)
    let at_ := stamp (s.now t) e (if near then 4 else 2)
    let run := (s.tbOf t).running
    let s := s.setCapt i fun u =>
      let q := (u.seq + 1) % 65536
      { u with seq := q, last := some s.cycle, fifo := if full || !run then u.fifo else u.fifo ++ [⟨at_, q, fall⟩] }
    .next ((s.setFlagIf (full && run) Reg.TB_FLAG 9 owner).tbActions cfg)

/-- Owner of a capture unit. -/
def State.captOwner (s : State) (i : Nat) : Option Nat :=
  if s.gf (Reg.TB_CAPT_CFG i) Fld.TB_CAPT_CFG_HOST = 1 then none else some (s.gf (Reg.TB_CAPT_CFG i) Fld.TB_CAPT_CFG_OWNER)

/-- A write of POP (R447). -/
def State.captPop (s : State) (i : Nat) : State := s.setCapt i fun u => { u with fifo := u.fifo.drop 1 }

/-- POP (R447). -/
def execPopCapt (who : Requester) (i : Fin 8) (s : State) : Host.Outcome State Fault Refusal :=
  .next (s.asOwner who (Reg.TB_CAPT_CTL i.val) (s.captOwner i.val) fun s => s.captPop i.val)

/-- Latch of one time base (R448). -/
def State.xcapOne (s : State) (t : Nat) : State :=
  let v := s.now t
  (((s.wr (Reg.TB_XCAP_FRAC t) (BitVec.ofNat 32 (tFrac v))).wr (Reg.TB_XCAP_NS t) (BitVec.ofNat 32 (tNs v))).wr
    (Reg.TB_XCAP_SLO t) (BitVec.ofNat 32 (tSec v))).wr (Reg.TB_XCAP_SHI t) (BitVec.ofNat 32 (tSec v / 2 ^ 32))

/-- A write of XCAP.GO (R448): heard from the host physical function. -/
def State.xcap (s : State) (who : Requester) : State :=
  match who with
  | .pf => (List.range 4).foldl (fun s t => s.xcapOne t) s
  | _ => s.steerDenied who

/-- XCAP (R448). -/
def execXcap (who : Requester) (s : State) : Host.Outcome State Fault Refusal :=
  .next (s.asWrite who Reg.TB_XCAP fun s => s.xcap who)

/-! ### Sync registers (R454, R459, R465) -/

/-- A requester reaches an object (R459). -/
def State.reachObj (s : State) (who : Requester) (o : Nat) : Bool :=
  match who with
  | .pf => true
  | .dbg => true
  | .smbus => false
  | .innkeeper => false
  | w => match s.reqLodging w with
    | some l => s.holdsObj l o
    | none => false

/-- An access to an object that R459 refuses. -/
def State.syncDenied (s : State) (who : Requester) : State :=
  let s := s.setFlag Reg.SYNC_FLAG 1 (s.reqLodging who)
  match who with
  | .vf _ => s.deny who
  | _ => s

/-- A write of a sync register that names an object. -/
def State.asSync (s : State) (who : Requester) (off o : Nat) (eff : State → State) : State :=
  if s.reach who off true then (if s.reachObj who o then eff s else s.syncDenied who)
  else match who with
    | .vf _ => s.syncDenied who
    | _ => s.deny who

/-- SYNC_SIGNAL (R454). -/
def execSyncSignal (who : Requester) (o : Fin 4096) (n : Fin 1048576) (s : State) : Host.Outcome State Fault Refusal :=
  .next (s.asSync who Reg.SYNC_SIGNAL o.val fun s => s.signal o.val n.val)

/-- SYNC_CLEAR (R454). -/
def execSyncClear (who : Requester) (o : Fin 4096) (s : State) : Host.Outcome State Fault Refusal :=
  .next (s.asSync who Reg.SYNC_CLEAR o.val fun s => s.syncClear o.val)

/-- SYNC_ARMED_WRITE (R465): acts as ARM. -/
def execSyncArmedWrite (who : Requester) (o : Fin 4096) (v : Word) (s : State) : Host.Outcome State Fault Refusal :=
  .next (s.asSync who (Reg.SYNC_ARMED o.val) o.val fun s => s.arm o.val v.toNat)

end Sys2Proof.Machine
end

