-- ==== Sys2Proof/Machine/Check.lean ====
section
/-! DEFINITION. STG.CHECK (R422): the conditions of every chapter on the configuration that the staged values and the
live ones make together. `s` is the live machine, `t` the machine with the staged values in place. -/
namespace Sys2Proof.Machine
open Sys2Proof

/-- A check: broken, its code, the register it names. -/
abbrev Chk := Bool × Nat × Nat

/-- Bits of a register that change only through a staging (R20). -/
def rwlMask (off : Nat) : Nat :=
  match RegMap.find off with
  | some d => d.fields.foldl (fun n f => if f.acc = .rwl then n + (2 ^ (f.hi + 1) - 2 ^ f.lo) else n) 0
  | none => 0

/-- A register value with the bits of a mask taken from another. -/
def mergeBits (old new : Word) (mask : Nat) : Word := (old &&& ~~~(BitVec.ofNat 32 mask)) ||| (new &&& BitVec.ofNat 32 mask)

/-- The machine with every staged value live (R422, R424). -/
def State.overlay (s : State) : State :=
  s.stg.vals.foldl (fun t (off, v) => t.wr off (mergeBits (t.rr off) v (rwlMask off))) { s with stg := { s.stg with releases := [] } }

/-- A staged value changes a register. -/
def State.changes (s t : State) (off : Nat) : Bool := s.rr off != t.rr off

/-- A byte range of memory as a lodging reads it, with no effect. -/
def State.peek (s : State) (l a n : Nat) : Nat := (List.range n).foldl (fun v i => v + s.byteFor l (a + i) * 256 ^ i) 0

/-- Descriptor i of a lodging; none past 63. -/
def State.regionOr (s : State) (l i : Nat) : Region := if i < 64 then s.region l i else Region.ofWords 0 0 0 0

/-! ### Lodgings (R398 to R400, R404, R427 to R429) -/

/-- Granules of a KIND that a lodging's regions cover, each once (R399). -/
def State.granulesOf (s : State) (l kind : Nat) : Nat :=
  (((List.range 64).flatMap fun i =>
    let r := s.region l i
    if r.valid && r.kind == kind then (List.range (r.len + 1)).map fun k => r.base / 0x10000 + k else []).eraseDups).length

/-- A resource field names an unbound lodging (R400). -/
def State.holdsAny (t : State) (l : Nat) : Bool :=
  t.rr (Reg.LDG_CORES l) != 0 || t.rr (Reg.LDG_POOLED l) != 0 || t.rr (Reg.LDG_IAMBEL l) != 0 || t.rr (Reg.LDG_SYNC_LO l) != 0 ||
    t.rr (Reg.LDG_SYNC_HI l) != 0 || t.rr (Reg.LDG_QUOTA l) != 0 || t.rr (Reg.LDG_SHARE l) != 0 ||
    t.gf (Reg.LDG_CFG l) Fld.LDG_CFG_FH_PORTS != 0 || t.gf (Reg.LDG_CFG l) Fld.LDG_CFG_TBM != 0 ||
    t.gf (Reg.LDG_CFG l) Fld.LDG_CFG_CNT_RD != 0 || ((List.range 64).any fun i => (t.region l i).valid) ||
    t.rr (Reg.MEM_SHARE l) != 0 || ((List.range 4).any fun p => t.engOwner p == l) || t.rbit Reg.LDPC_POOL_MASK l ||
    (List.range 32).any fun c => (t.partOf l c).isSome

/-- Valid partitions of a core. -/
def State.partsOf (t : State) (c : Nat) : List Nat := (List.range 4).filter fun p => t.gf (Reg.TC_PART c p) Fld.TC_PART_VALID == 1

/-- Two half-open ranges meet. -/
def spanMeets (a b : Nat × Nat) : Bool := decide (a.1 < b.2) && decide (b.1 < a.2)

/-- Ranges of a partition in granules and row units: operand store, accumulator rows, tile-buffer rows. -/
def State.partSpans (t : State) (c p : Nat) : List (Nat × Nat) :=
  let f (x : Fld) : Nat := t.gf (Reg.TC_PART c p) x
  [(f Fld.TC_PART_OS_BASE, f Fld.TC_PART_OS_BASE + f Fld.TC_PART_OS_N + 1),
    (f Fld.TC_PART_ACC_BASE, f Fld.TC_PART_ACC_BASE + f Fld.TC_PART_ACC_N + 1),
    (f Fld.TC_PART_TB_BASE, f Fld.TC_PART_TB_BASE + f Fld.TC_PART_TB_N + 1)]

/-- Checks of a core's partitions (R404, R429). -/
def State.partChecks (t : State) (c : Nat) : List Chk :=
  (t.partsOf c).flatMap fun p =>
    let r := Reg.TC_PART c p
    let l := t.gf r Fld.TC_PART_LODGING
    let sp := t.partSpans c p
    let short := (sp.zip [32, 4, 8]).any fun x => decide (x.2 < x.1.2)
    let others := (t.partsOf c).filter fun q => decide (q < p)
    [(!t.poolNamed l c, St.state, r), (t.gf r Fld.TC_PART_OS_N == 0, St.bounds, r), (short, St.bounds, r),
      (others.any fun q => t.gf (Reg.TC_PART c q) Fld.TC_PART_LODGING == l, St.state, r),
      (others.any fun q => (sp.zip (t.partSpans c q)).any fun x => spanMeets x.1 x.2, St.bounds, r)]

/-- Checks of one lodging's own fields. -/
def State.ldgChecks (s t : State) (l : Nat) : List Chk :=
  let q := Reg.LDG_QUOTA l
  let hall := t.gf q Fld.LDG_QUOTA_HALL
  let wing := t.gf q Fld.LDG_QUOTA_WING
  let y := t.gf (Reg.LDG_YIELD l) Fld.LDG_YIELD_LIMIT
  let sh := t.gf (Reg.LDG_SHARE l) Fld.LDG_SHARE_SHARE
  let pools := (List.range 32).filter fun c => t.poolNamed l c
  let before := List.range l
  let both (f : Nat → Nat) : Bool := before.any fun m => f m &&& f l != 0
  [(decide (512 < hall) || decide (2048 < wing), St.bounds, q),
    (decide (wing < t.granulesOf l 1) || decide (hall < t.granulesOf l 2), St.bounds, q),
    (y == 0 || decide (1750 < y), St.bounds, Reg.LDG_YIELD l),
    (!t.bound l && t.holdsAny l, St.state, Reg.LDG_CFG l),
    (t.bound l && !s.bound l && decide (2 ^ 24 - 1 ≤ tget (fun _ => 0) s.epochs l), St.failed, Reg.LDG_CFG l),
    (both fun m => t.gf (Reg.LDG_CFG m) Fld.LDG_CFG_FH_PORTS, St.state, Reg.LDG_CFG l),
    (both fun m => (t.rr (Reg.LDG_CORES m)).toNat, St.state, Reg.LDG_CORES l),
    ((List.range 16).any fun m => m != l && ((t.rr (Reg.LDG_CORES l)).toNat &&& (t.rr (Reg.LDG_POOLED m)).toNat != 0), St.state,
      Reg.LDG_CORES l),
    (both fun m => (t.rr (Reg.LDG_IAMBEL m)).toNat, St.state, Reg.LDG_IAMBEL l),
    (both fun m => (t.rr (Reg.LDG_SYNC_LO m)).toNat, St.state, Reg.LDG_SYNC_LO l),
    (both fun m => (t.rr (Reg.LDG_SYNC_HI m)).toNat, St.state, Reg.LDG_SYNC_HI l),
    (pools.any fun c => (t.partOf l c).isNone, St.state, Reg.LDG_POOLED l),
    (!pools.isEmpty && (sh == 0 || decide (1000 < sh)), St.bounds, Reg.LDG_SHARE l)]

/-- Sum over the lodgings. -/
def sumL (f : Nat → Nat) : Nat := (List.range 16).foldl (fun n l => n + f l) 0

/-- Checks over all lodgings (R215, R399, R427). -/
def State.sumChecks (t : State) : List Chk :=
  let sl := t.gf Reg.LDG_SLICE Fld.LDG_SLICE_SLICE
  [(decide (sl < 10) || decide (2000 < sl), St.bounds, Reg.LDG_SLICE),
    (decide (512 - t.gf Reg.MEM_HALL_SYS Fld.MEM_HALL_SYS_GRANULES < sumL fun l => t.gf (Reg.LDG_QUOTA l) Fld.LDG_QUOTA_HALL) ||
      decide (2048 < sumL fun l => t.gf (Reg.LDG_QUOTA l) Fld.LDG_QUOTA_WING), St.bounds, Reg.LDG_QUOTA 0),
    ((List.range 3).any fun k => decide (1000 < sumL fun l => t.share l k), St.bounds, Reg.MEM_SHARE 0)]

/-! ### Regions (R204, R206, R228) -/

/-- The region lies in one store of its KIND that its lodging may use (R204): broken codes. -/
def State.regionBad (t : State) (l : Nat) (r : Region) : List (Bool × Nat) :=
  let hi := r.base + r.bytes
  let inside (lo n : Nat) : Bool := decide (lo ≤ r.base) && decide (hi ≤ lo + n)
  let align := (r.base % granule r.kind != 0, St.bounds)
  let halves (first n : Nat) (base : Nat) : Bool := (List.range n).all fun k =>
    !(decide (r.base < base + 0x800000 * (k + 1)) && decide (base + 0x800000 * k < hi)) || t.domOn (first + k)
  match r.kind with
  | 0 =>
    let c := (r.base - osAddr 0) / 0x200000
    let ok := decide (osAddr 0 ≤ r.base) && decide (c < 32) && inside (osAddr c) 0x200000 &&
      (t.dedicated l c || (match t.partOf l c with
        | some p =>
          let f (x : Fld) : Nat := t.gf (Reg.TC_PART c p) x
          inside (osAddr c + 0x10000 * f Fld.TC_PART_OS_BASE) (0x10000 * (f Fld.TC_PART_OS_N + 1))
        | none => false))
    [align, (!ok, St.bounds)]
  | 1 =>
    let w := (r.base - wingAddr 0) / 0x1000000
    [align, (!(decide (wingAddr 0 ≤ r.base) && decide (w < 8) && inside (wingAddr w) 0x1000000), St.bounds),
      (!halves 120 16 (wingAddr 0), St.state)]
  | 2 => [align, (!inside hallAddr (0x2000000 - t.hallSys), St.bounds), (!halves 136 4 hallAddr, St.state)]
  | 3 =>
    let covers (n : Nat) : Bool := decide (r.base < iamAddr (n + 1)) && decide (iamAddr n < hi)
    [align, (!(decide (iamAddr 0 ≤ r.base) && inside (iamAddr 0) (16 * 0x40000)), St.bounds),
      ((List.range 16).any fun n => covers n && t.ibcHolder n != some l, St.permission)]
  | 4 =>
    [align, (t.gf Reg.MEM_CAP Fld.MEM_CAP_ATTACHED == 0, St.notReady),
      (t.gf Reg.MEM_CAP Fld.MEM_CAP_ATTACHED != 0 && !inside tierAddr t.tierBytes, St.bounds)]
  | 5 => [align]
  | _ => [(true, St.format)]

/-- A region of another lodging covers part of the range (R204). -/
def State.foreign (t : State) (l : Nat) (r : Region) : Bool :=
  r.kind != 5 && (List.range 16).any fun m => m != l && (List.range 64).any fun j =>
    let q := t.region m j
    q.valid && q.kind != 5 && decide (r.base < q.base + q.bytes) && decide (q.base < r.base + r.bytes)

/-- The staging changes a descriptor. -/
def State.regionChanged (s t : State) (l i : Nat) : Bool :=
  s.changes t (Reg.LDG_REGION0 l i) || s.changes t (Reg.LDG_REGION1 l i) || s.changes t (Reg.LDG_REGION2 l i) ||
    s.changes t (Reg.LDG_REGION3 l i)

/-- A queued or moving MOV of the lodging names a descriptor (R206). -/
def State.movNames (s : State) (l i : Nat) : Bool :=
  s.tc.any fun (_, c) => c.slots.any fun (_, u) => u.ldg == l && u.moves.any fun m =>
    cOp m.w == 0x10 && (cbits m.w 92 87 == i || cbits m.w 56 51 == i)

/-- Descriptors of a lodging's pools: META_REG, SLOT_REG, SPILL_REG (R228). -/
def State.poolRegs (s : State) (l : Nat) : List Nat :=
  (List.range 4).flatMap fun p =>
    let k := s.kvPool l p
    if k.live then [(s.rb (k.meta_ + 4)).toNat, (s.rb (k.meta_ + 5)).toNat, (s.rb (k.meta_ + 6)).toNat].filter (· != 0xFF) else []

/-- Two regions overlap. -/
def Region.hits (a b : Region) : Bool := decide (a.base < b.base + b.bytes) && decide (b.base < a.base + a.bytes)

/-- Checks of one descriptor. -/
def State.regionChecks (s t : State) (l i : Nat) : List Chk :=
  let a := Reg.LDG_REGION0 l i
  let r := t.region l i
  let changed := s.regionChanged t l i
  let pools := s.poolRegs l
  (if r.valid then (t.regionBad l r).map (fun x => (x.1, x.2, a)) ++ [(t.foreign l r, St.bounds, a)] else []) ++
    (if changed then
      [(s.movNames l i, St.busy, a), (pools.contains i, St.state, a),
        (r.valid && r.wr && !pools.contains i && pools.any fun j => (t.region l j).valid && r.hits (t.region l j), St.state, a)]
     else [])

/-! ### Carriers (R259, R261, R268, R290, R310, R326) -/

/-- Bytes per PRB of a compression (R268). -/
def prbSize (cmp : Nat) : Nat := match cmp with
  | 0 => 48 | 1 => 28 | 2 => 37 | _ => 43

/-- U-plane rate of a carrier with a stream count, in bits per ms (R268). -/
def State.carRate (t : State) (a streams : Nat) : Nat :=
  streams * (t.carPrb a * prbSize (t.gf (Reg.AIR_CAR_CFG1 a) Fld.AIR_CAR_CFG1_CMP) + 64) * 112 * (1000 / slotUs (t.carNum a))

/-- Port of a carrier. -/
def State.carPort (t : State) (a : Nat) : Nat := t.gf (Reg.AIR_CAR_CFG0 a) Fld.AIR_CAR_CFG0_FH_PORT

/-- The enabled carriers on a carrier's port pass 95 % of the port's line rate in a direction: 25.781,25 Gb/s a lane
(R268, R557; log 28). -/
def State.portFull (t : State) (a : Nat) (streams : State → Nat → Nat) : Bool :=
  let sum := (List.range 8).foldl (fun n b =>
    if t.carOn b && t.carPort b == t.carPort a then n + t.carRate b (streams t b) else n) 0
  decide ((if t.gf Reg.FH_MODE Fld.FH_MODE_LANES = 1 then 4 else 1) * 48984375 < 2 * sum)

/-- Uplink end of R290, in fourteenths of a µs. -/
def State.carEnd (t : State) (a : Nat) : Nat :=
  let num := t.carNum a
  let us := slotUs num
  let at_ (k : Nat) : Nat := (k + 1) * us + 14 * t.carArrMax a
  let w (k : Nat) : Nat := 14 * window k num
  let start4 := at_ (t.carLastDmrs a) + w 1 + w 2
  let end3 := at_ 13 + w 1 + w 3
  max (start4 + w 4) end3 + w 5 + w 6 + w 7 + w 8

/-- Units of a numerology (R259). -/
def carUnits (num : Nat) : Nat := if num = 2 then 4 else 1

/-- The staging changes a carrier's own fields. -/
def State.carChanged (s t : State) (a : Nat) : Bool :=
  s.changes t (Reg.AIR_CAR_CFG0 a) || s.changes t (Reg.AIR_CAR_CFG1 a) || s.changes t (Reg.AIR_CAR_CFG2 a) ||
    s.changes t (Reg.AIR_CAR_CFG3 a) || s.changes t (Reg.AIR_CAR_OFFSET a) || s.changes t (Reg.LDPC_CAR_CFG a) ||
    s.changes t (Reg.LDPC_CAR_LBRM a)

/-- A table slot's active copy serves a base graph (R310). -/
def State.tblFor (t : State) (slot bg : Nat) : Bool := tblByte (t.ldpcActive slot) 0 == bg

/-- Checks of a carrier (R261, R296): its own ranges, whether or not it is enabled; a change of an enabled one, its disabling too, waits
for a slot boundary of it; those of an enabled one. -/
def State.carChecks (s t : State) (a : Nat) : List Chk :=
  let c0 := Reg.AIR_CAR_CFG0 a
  let c1 := Reg.AIR_CAR_CFG1 a
  let c2 := Reg.AIR_CAR_CFG2 a
  let l := t.carLdg a
  let num := t.carNum a
  let us := slotUs num
  let cfg := Reg.LDPC_CAR_CFG a
  let iter := (decide (32 < t.gf cfg Fld.LDPC_CAR_CFG_MAX_ITER), St.bounds, cfg)
  let on := (List.range 8).filter fun b => t.carOn b
  let own := [iter, (decide (13 < t.gf c1 Fld.AIR_CAR_CFG1_LAST_DMRS), St.bounds, c1),
    (decide (1900 < t.gf c2 Fld.AIR_CAR_CFG2_DEADLINE), St.bounds, c2),
    (s.carOn a && s.carChanged t a && !(t.gf Reg.STG_WHEN Fld.STG_WHEN_MODE == 2 &&
        (t.gf Reg.STG_WHEN Fld.STG_WHEN_CAR).testBit a), St.state, c0)]
  if !t.carOn a then own
  else
    own ++ [
      (!(t.gf (Reg.LDG_CFG l) Fld.LDG_CFG_FH_PORTS).testBit (t.carPort a) || !t.portExists (t.carPort a), St.permission, c0),
      (!t.hasTb l (t.carTb a), St.permission, c0), (!t.holdsObj l (t.carObj a), St.permission, c1),
      (t.rr (Reg.LDG_CORES l) == 0 || t.rr (Reg.LDG_IAMBEL l) == 0, St.permission, c0),
      (!((List.range 4).any fun p => t.engOwner p == l || (t.engOwner p == 16 && t.rbit Reg.LDPC_POOL_MASK l)), St.permission, c0),
      (num == 3, St.format, c0), (t.carPrb a == 0 || decide (byNum num 550 273 264 < t.carPrb a), St.bounds, c0),
      (num == 2 && (decide (8 < t.carUl a) || decide (8 < t.carDl a)), St.bounds, c1),
      (decide (9999999 < (t.rr (Reg.AIR_CAR_OFFSET a)).toNat), St.bounds, Reg.AIR_CAR_OFFSET a),
      (decide (8 < on.foldl (fun n b => n + carUnits (t.carNum b)) 0), St.bounds, c0),
      (decide (128 < on.foldl (fun n b => n + t.carUl b) 0), St.bounds, c1),
      (t.portFull a State.carUl || t.portFull a State.carDl, St.bounds, c1),
      (decide (14 * (us + t.carDeadline a) < t.carEnd a + 14 * 45), St.bounds, c2),
      (decide (t.carLead a < dlWindow 1 num + dlWindow 2 num + dlWindow 3 num + t.carDlAdv a + 45) ||
        decide (t.carLead a < t.carCpAdv a + 20), St.bounds, c2),
      (!t.tblFor (t.gf cfg Fld.LDPC_CAR_CFG_BG1_TBL) 1 || !t.tblFor (t.gf cfg Fld.LDPC_CAR_CFG_BG2_TBL) 2, St.state, cfg)]

/-! ### Streams and batch queues (R376, R388) -/

/-- A finite FP32 pattern. -/
def finite32 (x : Nat) : Bool := nbits x 30 23 != 255

/-- Device address of a stream's or a queue's descriptor, and its region. -/
def State.strmDescAt (t : State) (k : Nat) : Region × Nat :=
  (t.region (t.strmLdg k) (t.gf (Reg.SMP_ST_BIND k) Fld.SMP_ST_BIND_DESC_REG), 64 * t.gf (Reg.SMP_ST_DOFF k) Fld.SMP_ST_DOFF_DESC_OFF)
def State.bqDescAt (t : State) (l q : Nat) : Region × Nat :=
  (t.region l (t.gf (Reg.SMP_BQ_DESC l q) Fld.SMP_BQ_DESC_DESC_REG), 64 * t.gf (Reg.SMP_BQ_DESC l q) Fld.SMP_BQ_DESC_DESC_OFF)

/-- Read a descriptor of 64 bytes. -/
def State.descOf (t : State) (l : Nat) (x : Region × Nat) : Nat := t.peek l (x.1.base + x.2) 64

/-- A structure in a region: it must fit (BOUNDS) and have its rights (PERMISSION). -/
def fits (r : Region) (off n : Nat) (wr : Bool) (at_ : Nat) : List Chk :=
  [(!r.holds off n || r.kind == 5, St.bounds, at_), (r.valid && (!r.rd || (wr && !r.wr)), St.permission, at_)]

/-- Largest tensor of a stream, in bytes. -/
def tensorMax (d : Nat) : Nat :=
  let e := fmtBits (sdFmt d) / 8
  let ch := if sdCspace d = 2 then 1 else 3
  let sz (w h : Nat) : Nat := w * h * ch * e
  max (if sdMain d then sz (dfield d 0x1C 2) (dfield d 0x1E 2) else 0) (if sdCrop d then sz (dfield d 0x20 2) (dfield d 0x22 2) else 0)

/-- Outside a range. -/
def outside (lo hi v : Nat) : Bool := decide (v < lo) || decide (hi < v)

/-- Checks of an enabled stream (R376). -/
def State.strmChecks (t : State) (k : Nat) : List Chk :=
  let a := Reg.SMP_ST_BIND k
  let l := t.strmLdg k
  if !t.strmOn k then []
  else
    let x := t.strmDescAt k
    let d := t.descOf l x
    let fl := sdFlags d
    let fmt := sdFmt d
    fits x.1 x.2 64 false a ++
    (if !x.1.holds x.2 64 then [] else
      [(nbits fl 15 10 != 0 || sdCspace d == 3 || !([1, 2, 4, 6, 7, 8].contains fmt) || dfield d 0x3C 4 != 0 ||
          (!sdMain d && !sdCrop d), St.format, a),
        (decide (3 < dfield d 3 1) || !t.bqValid l (dfield d 3 1) || outside 1 4096 (sdInSize d) || outside 1 4096 (dfield d 0x1C 2) ||
          outside 1 4096 (dfield d 0x1E 2) || outside 1 1024 (dfield d 0x20 2) || outside 1 1024 (dfield d 0x22 2) ||
          dfield d 4 4 % 16 != 0 || dfield d 0xC 4 % 64 != 0 || dfield d 0x10 4 % 64 != 0 ||
          ((List.range 6).any fun i => !finite32 (dfield d (0x24 + 4 * i) 4)), St.bounds, a)] ++
      fits (t.regionOr l (dfield d 0 1)) (dfield d 4 4) (16 * sdInSize d) false a ++
      (if dfield d 1 1 = 0xFF then [] else fits (t.regionOr l (dfield d 1 1)) (dfield d 0xC 4) 100663296 true a) ++
      (if dfield d 2 1 = 0xFF then [] else fits (t.regionOr l (dfield d 2 1)) (dfield d 0x10 4) 64 false a))

/-- Checks of a valid batch queue (R388). -/
def State.bqChecks (t : State) (l q : Nat) : List Chk :=
  let a := Reg.SMP_BQ_DESC l q
  if !t.bqValid l q then []
  else
    let x := t.bqDescAt l q
    let d := t.descOf l x
    let users := (List.range 64).filter fun k => t.strmOn k && t.strmLdg k == l && dfield (t.descOf l (t.strmDescAt k)) 3 1 == q
    fits x.1 x.2 64 false a ++
    (if !x.1.holds x.2 64 then [] else
      [(decide (1 < bqMode d) || dfield d 3 1 != 0 || dfield d 0x14 44 != 0, St.format, a),
        (dfield d 4 4 % 64 != 0 || bqSlotBytes d % 64 != 0 || dfield d 0x10 4 % 64 != 0 || outside 1 256 (bqBmax d) ||
          outside (max 16 (bqBmax d + 8)) 1024 (bqNslot d) ||
          (users.any fun k => decide (bqSlotBytes d < 64 + tensorMax (t.descOf l (t.strmDescAt k)))), St.bounds, a)] ++
      fits (t.regionOr l (dfield d 0 1)) (dfield d 4 4) (bqNslot d * bqSlotBytes d) true a ++
      fits (t.regionOr l (dfield d 1 1)) (dfield d 0x10 4) (64 + 16 * (bqBmax d + 64)) true a)

/-! ### The other blocks -/

/-- Actions of a comparator or a capture against its owner's rights (R442, R447). -/
def State.actionBad (t : State) (owner : Option Nat) (tb : Nat) (cfg : Word) : Bool :=
  match owner with
  | none => false
  | some l =>
    !t.hasTb l tb || (getF cfg Fld.TB_CMP_CFG_SIG_EN == 1 && !t.holdsObj l (getF cfg Fld.TB_CMP_CFG_OBJ)) ||
      (getF cfg Fld.TB_CMP_CFG_IRQ_EN == 1 && t.ibcHolder (getF cfg Fld.TB_CMP_CFG_IBC) != some l)

/-- Time, trigger, PTP and SyncE configuration (R437, R442, R447, R462 to R464). -/
def State.timeChecks (t : State) : List Chk :=
  ((List.range 4).flatMap fun n =>
    let r := Reg.TB_CFG n
    [(t.gf r Fld.TB_CFG_STEER_EN == 1 && !t.hasTb (t.gf r Fld.TB_CFG_STEER_LDG) n, St.permission, r),
      (decide (1000000 < t.gf r Fld.TB_CFG_JUMP_LIMIT), St.bounds, r), (outside 1 10000 (t.slewOf n), St.bounds, Reg.TB_SLEW n)]) ++
  ((List.range 32).flatMap fun k =>
    let r := Reg.TB_CMP_CFG k
    let cfg := t.rr r
    let drives (j : Nat) : Bool := t.cmpValid j && t.gf (Reg.TB_CMP_CFG j) Fld.TB_CMP_CFG_PIN_EN == 1
    [(t.cmpValid k && t.actionBad (t.cmpOwner k) (t.cmpTb k) cfg, St.permission, r),
      (drives k && (List.range k).any fun j => drives j && t.cmpOwner j != t.cmpOwner k &&
        t.gf (Reg.TB_CMP_CFG j) Fld.TB_CMP_CFG_PIN == getF cfg Fld.TB_CMP_CFG_PIN, St.state, r)]) ++
  ((List.range 8).flatMap fun i =>
    let r := Reg.TB_CAPT_CFG i
    [(t.gf r Fld.TB_CAPT_CFG_EDGE == 3, St.format, r),
      (t.gf r Fld.TB_CAPT_CFG_VALID == 1 && t.actionBad (t.captOwner i) (t.gf r Fld.TB_CAPT_CFG_TB) (t.rr r), St.permission, r)]) ++
  ((List.range 12).flatMap fun p =>
    let r := Reg.TB_PTP_CFG p
    [(t.gf r Fld.TB_PTP_CFG_EN == 1 && (match t.portHolder p with
        | some l => !t.hasTb l (t.gf r Fld.TB_PTP_CFG_TB)
        | none => false), St.permission, r),
      ((List.range 12).any fun b => (t.gf r Fld.TB_PTP_CFG_FWD).testBit b && !t.portExists b, St.bounds, r)]) ++
  ((List.range 2).flatMap fun k =>
    let r := Reg.TB_SYNCE k
    [(t.gf r Fld.TB_SYNCE_DIV == 3, St.format, r),
      (t.gf r Fld.TB_SYNCE_EN == 1 && !t.portExists (t.gf r Fld.TB_SYNCE_PORT), St.bounds, r)])

/-- Ledger (R502, R505, R510; log 29 for a Ledger with no ring and EN 0). -/
def State.ledgChecks (t : State) : List Chk :=
  let g := t.gf Reg.LEDG_CFG Fld.LEDG_CFG_RING_GRAN
  let en := t.gf Reg.LEDG_CFG Fld.LEDG_CFG_EN == 1
  [(outside 1 1000 (t.gf Reg.LEDG_CFG Fld.LEDG_CFG_INTERVAL), St.bounds, Reg.LEDG_CFG),
    ((en && g == 0) || (g != 0 && decide (t.gf Reg.MEM_HALL_SYS Fld.MEM_HALL_SYS_GRANULES < 16 + g)), St.bounds, Reg.LEDG_CFG)] ++
  (List.range 16).flatMap fun l =>
    let a := Reg.LEDG_LDG_DEST l
    let r := t.region l (t.gf a Fld.LEDG_LDG_DEST_REG)
    if t.gf a Fld.LEDG_LDG_DEST_VALID = 0 then []
    else [(t.gf (Reg.LDG_CFG l) Fld.LDG_CFG_CNT_RD == 0 || (r.valid && !r.rd), St.permission, a),
      (r.valid && r.kind != 1 && r.kind != 2, St.format, a),
      (!r.holds (64 * t.gf a Fld.LEDG_LDG_DEST_OFF) (64 * (t.gf (Reg.LEDG_LDG_SIZE l) Fld.LEDG_LDG_SIZE_SIZE + 1)), St.bounds, a)]

/-- Fronthaul, LDPC, Iambel, power and reliability fields (R298, R311, R322, R372, R486, R576). -/
def State.miscChecks (s t : State) : List Chk :=
  let e := Reg.FH_EAXC
  let w := Reg.REL_WEAR_CFG
  [(t.gf e Fld.FH_EAXC_RU_BITS + t.gf e Fld.FH_EAXC_CC_BITS + t.gf e Fld.FH_EAXC_BS_BITS + t.gf e Fld.FH_EAXC_DU_BITS != 16 ||
      t.gf e Fld.FH_EAXC_CC_BITS == 0 || t.gf e Fld.FH_EAXC_RU_BITS == 0, St.format, e),
    ((List.range 4).any fun p => decide (16 < t.engOwner p) && decide (t.engOwner p < 31), St.format, Reg.LDPC_ENG_OWNER),
    (outside 20 150 (t.gf w Fld.REL_WEAR_CFG_MARGIN_TGT) || outside 720 900 (t.gf w Fld.REL_WEAR_CFG_WEAR_VMAX), St.bounds, w),
    (outside 60 105 (t.gf Reg.PWR_THERM_CFG Fld.PWR_THERM_CFG_THR), St.bounds, Reg.PWR_THERM_CFG)] ++
  ((List.range 16).flatMap fun l =>
    let h := Reg.LDPC_HARQ l
    let r := t.region l (t.gf h Fld.LDPC_HARQ_HREG)
    let n := t.gf h Fld.LDPC_HARQ_NBUF
    if n = 0 then []
    else [(r.valid && r.kind != 1 && r.kind != 4, St.format, h),
      (!r.holds 0 (n * 1024 * t.gf (Reg.LDPC_HARQ_SIZE l) Fld.LDPC_HARQ_SIZE_BUF_KIB), St.bounds, h)]) ++
  (List.range 16).map fun n =>
    let a := Reg.IBC_IRQ_SOBJ n
    let o := t.gf a Fld.IBC_IRQ_SOBJ_OBJ
    ((match t.ibcHolder n with
      | some l => (o != 0 || s.stg.vals.any fun v => v.1 == a) && !t.holdsObj l o
      | none => false), St.permission, a)

/-- Every check of a staging (R422). -/
def State.allChecks (s t : State) : List Chk :=
  t.sumChecks ++ ((List.range 16).flatMap fun l => s.ldgChecks t l) ++
    ((List.range 16).flatMap fun l => (List.range 64).flatMap fun i => s.regionChecks t l i) ++
    ((List.range 32).flatMap fun c => t.partChecks c) ++ ((List.range 8).flatMap fun a => s.carChecks t a) ++
    ((List.range 64).flatMap fun k => t.strmChecks k) ++
    ((List.range 16).flatMap fun l => (List.range 4).flatMap fun q => t.bqChecks l q) ++ t.timeChecks ++ t.ledgChecks ++ s.miscChecks t

/-- The outcome of a list of checks: the code R12 chooses and the lowest register that gives it; OK and 0 when none is
broken (R422). FAILED, which R12 does not list, comes last. -/
def outcome (cs : List Chk) : Nat × Nat :=
  let bad := cs.filter fun c => c.1
  match bad with
  | [] => (St.ok, 0)
  | _ =>
    let st := match St.order.find? fun st => bad.any fun c => c.2.1 == st with
      | some st => st
      | none => St.failed
    let regs := (bad.filter fun c => c.2.1 == st).map fun c => c.2.2
    (st, regs.foldl min (regs.headD 0))

end Sys2Proof.Machine
end

