-- ==== Sys2Proof/Machine/Rel.lean ====
section
/-! DEFINITION. The retry rule (R466 to R474): counts and history, remaps to spares, escalation, data loss, and the rows
RECOVER and WATCHDOG. A replay's own work is inside the row: it repeats every result bit for bit (R307, R369, R393; log 34). -/
namespace Sys2Proof.Machine
open Sys2Proof

/-! ### Counts, REL.LAST and the history (R478, R483, R484) -/

/-- Class of a unit (R484). -/
def relCls : RelUnit → Nat
  | .lane .. => 0
  | .core _ => 1
  | .bank .. => 2
  | .word .. => 3
  | .ring _ => 4
  | .iambel _ => 5
  | .engine _ => 6
  | .encode _ => 7
  | .crc _ => 7
  | .decoder _ => 8
  | .object _ => 10
  | .tier .. => 12
  | .firmware _ => 15

/-- Physical index of a unit, as REL.LAST and the history show it (log 35). -/
def State.unitIx (s : State) : RelUnit → Nat
  | .lane c g => 8 * s.physCore c.val + g.val
  | .core c => s.physCore c.val
  | .bank c b => 32 * s.physCore c.val + b.val
  | .word _ _ fix => fix.getD 0
  | .ring c => (c.map fun c => s.physCore c.val).getD 0xFFF
  | .iambel n => s.physIbc n.val
  | .engine p => s.physEng p.val
  | .encode e => e.val
  | .crc n => 2 + n.val
  | .decoder d => d.val
  | .object o => o.val
  | .tier a _ _ => (a - tierAddr) / 256 % 8
  | .firmware t => if t then 1 else 0

/-- Lodging whose work a unit does. -/
def State.unitLdg (s : State) : RelUnit → Option Nat
  | .lane c _ => s.tcHolder c.val
  | .core c => s.tcHolder c.val
  | .bank c _ => s.tcHolder c.val
  | .ring c => c.bind fun c => s.tcHolder c.val
  | .iambel n => s.ibcHolder n.val
  | .engine p => ((tget (fun _ => none) s.ldpcEng p.val).map fun j => s.carLdg j.car)
  | .decoder d => (tget (fun _ => none) s.smp d.val).map fun j => j.l
  | .object o => s.syncHolder o.val
  | .tier a _ _ => (s.tagLive (frameOf a)).map fun x => x.1
  | _ => none

/-- Spares of a class not yet in service. -/
def State.left (s : State) (k : Nat) : Nat := s.gf (Reg.REL_SPARES k) Fld.REL_SPARES_LEFT

/-- Power-on hours: those of the record taken at start and those since (R478, R486). -/
def State.poh (s : State) : Nat := (s.rr Reg.REL_POH).toNat + s.cycle / 2160000000000

/-- Hottest site in °C as one signed byte. -/
def State.hotByte (s : State) : Nat := ((BitVec.ofNat 16 (s.gf Reg.PWR_THERM Fld.PWR_THERM_T_HOT)).toInt / 8 % 256).toNat

/-- Saturating count of the wear record (R478). -/
def State.wearCount (s : State) (k : Nat) : State :=
  { s with wearCnt := tmod (fun _ => 0) s.wearCnt k fun n => min (n + 1) (2 ^ 32 - 1) }

/-- Show a fault in REL.LAST (R483). -/
def State.relLast (s : State) (cls mech outc unit : Nat) (l : Option Nat) : State :=
  (s.wr Reg.REL_LAST (BitVec.ofNat 32 (l.getD 0xFF + 2 ^ 8 * (unit % 2 ^ 12) + 2 ^ 20 * cls + 2 ^ 24 * mech + 2 ^ 28 * outc))).wr
    Reg.REL_LAST_MS (BitVec.ofNat 32 (s.cycle / 600000))

/-- Enter a history entry of 32 bytes (R478). -/
def State.history (s : State) (cls mech outc unit spare : Nat) (l : Option Nat) : State :=
  let minutes := 60 * (s.rr Reg.REL_POH).toNat + s.cycle / 36000000000
  let e := minutes % 2 ^ 32 + 2 ^ 32 * cls + 2 ^ 40 * mech + 2 ^ 48 * outc + 2 ^ 56 * l.getD 0xFF + 2 ^ 64 * (unit % 2 ^ 16) +
    2 ^ 80 * spare + 2 ^ 96 * s.gf Reg.PWR_VDD Fld.PWR_VDD_SET + 2 ^ 112 * s.hotByte +
    2 ^ 128 * tget (fun _ => 0) s.wearCnt (2 * cls)
  { s with
    wearHist := tput (fun _ => 0) s.wearHist s.wearNext e
    wearNext := (s.wearNext + 1) % 1792
    wearN := min 1792 (s.wearN + 1) }

/-- One fault of the history: shown in REL.LAST too. -/
def State.relFault (s : State) (cls mech outc unit spare : Nat) (l : Option Nat) : State :=
  (s.relLast cls mech outc unit l).history cls mech outc unit spare l

/-- Count a transient fault (R470). -/
def State.relTrans (s : State) (cls mech unit : Nat) (l : Option Nat) : State :=
  let r := Reg.REL_TRANS cls
  (((s.wr r (s.rr r + 1)).wearCount (2 * cls)).setFlag Reg.REL_FLAG 0 l).relLast cls mech 0 unit l

/-- Count a lasting fault (R470). -/
def State.relLasting (s : State) (cls : Nat) (l : Option Nat) : State :=
  let r := Reg.REL_LAST_CNT cls
  ((s.wr r (s.rr r + 1)).wearCount (2 * cls + 1)).setFlag Reg.REL_FLAG 1 l

/-- A spare enters service; `low` when it is the last of its class in a wing, an engine or a link (R474). -/
def State.spend (s : State) (cls : Nat) (low : Bool) (l : Option Nat) : State :=
  ({ s.sf (Reg.REL_SPARES cls) Fld.REL_SPARES_LEFT (s.left cls - 1) with wearDirty := true }).setFlagIf low Reg.REL_FLAG 5 l

/-! ### Units that fail (R415, R474) -/

/-- The lodging whose running waybill names a tensor core, an Iambel core. -/
def State.runsOn (s : State) (f : Wb → Bool) : Option Nat :=
  (List.range 16).find? fun l => match (s.lodgeOf l).run with
    | some w => f w
    | none => false

/-- The waybills that use a tensor core, an Iambel core, are torn down with CAUSE 2 (R415). -/
def State.unrecovered (s : State) (u : RelUnit) : State :=
  let down (s : State) (f : Wb → Bool) (ix : Nat) : State :=
    (List.range 16).foldl (fun s l => match (s.lodgeOf l).run with
      | some w => if f w then s.teardown l 2 ix 0xFF 0 St.failed else s
      | none => s) s
  let core (c : Fin 32) : State := down s (fun w => w.slots.any fun e => e.core == c.val) c.val
  match u with
  | .lane c _ => core c
  | .core c => core c
  | .bank c _ => core c
  | .ring (some c) => core c
  | .iambel n => down s (fun w => w.ibc.testBit n.val) n.val
  | .engine p => s.setEng p.val none
  | .object o => down s (fun w => [w.yieldObj, w.doneObj].contains (some o.val)) 0xFF
  | _ => s

/-- A lasting fault with no spare: NO_SPARE and its history entry (R474). -/
def State.noSpare (s : State) (cls mech unit : Nat) (l : Option Nat) : State :=
  (s.setFlag Reg.REL_FLAG 2 l).relFault cls mech 2 unit 0xFFFF l

/-- A unit becomes FAILED (R474, R485). -/
def State.failUnit (s : State) (u : RelUnit) : State :=
  let s := { s with wearDirty := true }
  let s := match u with
    | .core c =>
      let r := Reg.REL_CORE_MAP (c.val / 4)
      s.sf r Fld.REL_CORE_MAP_FAILED (s.gf r Fld.REL_CORE_MAP_FAILED ||| 2 ^ (c.val % 4))
    | .iambel n => s.sf Reg.REL_IBC_MAP Fld.REL_IBC_MAP_FAILED (s.gf Reg.REL_IBC_MAP Fld.REL_IBC_MAP_FAILED ||| 2 ^ n.val)
    | u => { s with failed := s.failed ++ [(relCls u, s.unitIx u)] }
  s.unrecovered u

/-! ### Remaps (R473) -/

/-- The spare position of a wing: the one no logical core uses and that has not failed. -/
def State.wingSpare (s : State) (w : Nat) : Option Nat :=
  (List.range 5).find? fun q =>
    !((List.range 4).any fun i => s.physCore (4 * w + i) == 5 * w + q) && !s.retired.contains (1, 5 * w + q)

/-- Domains of a physical tensor core. -/
def State.coreDoms (s : State) (p : Nat) (on : Bool) : State := ((s.setDom p on).setDom (40 + p) on).setDom (80 + p) on

/-- The wing's spare core takes a logical number, with the state of the core it replaces (R9, R473). -/
def State.remapCore (s : State) (c q : Nat) (l : Option Nat) : State :=
  let r := Reg.REL_CORE_MAP (c / 4)
  let old := s.physCore c
  let i := c % 4
  let m := s.gf r Fld.REL_CORE_MAP_PHYS
  let s := s.sf r Fld.REL_CORE_MAP_PHYS (m - m / 8 ^ i % 8 * 8 ^ i + q * 8 ^ i)
  let s := s.wr (Reg.REL_LG_MAP c) (RegMap.reset (Reg.REL_LG_MAP c))
  let s := { s with retired := s.retired ++ [(1, old)] }
  ((s.coreDoms old false).coreDoms (5 * (c / 4) + q) true).spend 1 true l

/-- A lasting core fault: the spare, or the logical core becomes FAILED. The answer says that a spare took it. -/
def State.coreFault (s : State) (c : Fin 32) (mech outc : Nat) (l : Option Nat) : State × Bool :=
  let unit := s.physCore c.val
  match s.wingSpare (c.val / 4) with
  | some q => ((s.remapCore c.val q l).relFault 1 mech outc unit (5 * (c.val / 4) + q) l, true)
  | none => (s.noSpare 1 mech unit l, false)

/-- Bring in the spare of a unit (R470): the state, and whether a spare took it. `outc` is the outcome of the history:
1 remapped, 5 planned remap. -/
def State.remap (s : State) (u : RelUnit) (mech outc : Nat) : State × Bool :=
  let l := s.unitLdg u
  let ix := s.unitIx u
  match u with
  | .lane c g =>
    let r := Reg.REL_LG_MAP c.val
    if s.gf r Fld.REL_LG_MAP_LG = 15 then
      (((s.sf r Fld.REL_LG_MAP_LG g.val).spend 0 true l).relFault 0 mech outc ix 8 l, true)
    else
      let (s, ok) := ((s.noSpare 0 mech ix l).relLasting 1 l).coreFault c mech outc l
      (if ok then s else s.failUnit (.core c), ok)
  | .bank c b =>
    let r := Reg.REL_LG_MAP c.val
    if s.gf r Fld.REL_LG_MAP_BANK = 63 then
      (((s.sf r Fld.REL_LG_MAP_BANK b.val).spend 2 true l).relFault 2 mech outc ix 32 l, true)
    else
      let (s, ok) := ((s.noSpare 2 mech ix l).relLasting 1 l).coreFault c mech outc l
      (if ok then s else s.failUnit (.core c), ok)
  | .core c =>
    let (s, ok) := s.coreFault c mech outc l
    (if ok then s else s.failUnit u, ok)
  | .ring (some c) =>
    let (s, ok) := ((s.noSpare 4 mech ix l).relLasting 1 l).coreFault c mech outc l
    (if ok then s else s.failUnit (.core c), ok)
  | .ring none => (s.relFault 4 mech outc ix 0xFFFF l, true)
  | .iambel n =>
    let free (k : Nat) : Bool := !s.retired.contains (5, k) && (if k = 16 then s.gf Reg.REL_IBC_MAP Fld.REL_IBC_MAP_SUB0 == 31
      else s.gf Reg.REL_IBC_MAP Fld.REL_IBC_MAP_SUB1 == 31)
    match [16, 17].find? free with
    | some k =>
      let s := s.sf Reg.REL_IBC_MAP (if k = 16 then Fld.REL_IBC_MAP_SUB0 else Fld.REL_IBC_MAP_SUB1) n.val
      let s := { s with retired := s.retired ++ [(5, ix)] }
      ((((s.setDom (140 + ix) false).setDom (140 + k) true).spend 5 false l).relFault 5 mech outc ix k l, true)
    | none => ((s.noSpare 5 mech ix l).failUnit u, false)
  | .engine p =>
    if s.gf Reg.LDPC_ENG_STAT Fld.LDPC_ENG_STAT_SPARE_POS = 7 ∧ 0 < s.left 6 then
      let s := s.sf Reg.LDPC_ENG_STAT Fld.LDPC_ENG_STAT_SPARE_POS p.val
      ((((s.setDom (160 + ix) false).setDom 164 true).spend 6 false l).relFault 6 mech outc ix 4 l, true)
    else ((s.noSpare 6 mech ix l).failUnit u, false)
  | .object o =>
    if 0 < s.left 10 then
      let k := 128 - s.left 10
      let s := { s with objMap := tput (fun _ => 0) s.objMap k (o.val + 1) }
      ((s.spend 10 false l).relFault 10 mech outc ix (4096 + k) l, true)
    else ((s.noSpare 10 mech ix l).failUnit u, false)
  | .firmware _ => (s.noSpare 15 mech ix l, false)
  | _ => ((s.noSpare (relCls u) mech ix l).failUnit u, false)

/-! ### Memories (R211 to R213, R218, R471) -/

/-- A double-bit error found again: the word, or the tier unit, is poisoned (R471). -/
def State.dataLoss (s : State) (cls mech ix a n : Nat) (l : Option Nat) : State :=
  let s := if s.place a = .hole ∧ a < sramBase then s else s.addPoison a n
  (s.setFlag Reg.REL_FLAG 3 l).relFault cls mech 3 ix 0xFFFF l

/-- A correctable SRAM error: delivered corrected and rewritten; counted with its address (R218, R483). -/
def State.sramCe (s : State) (a : Nat) : State :=
  let a := if s.place a = .hole then 0 else a
  ((s.wr Reg.REL_CE_CNT (s.rr Reg.REL_CE_CNT + 1)).wr Reg.REL_CE_ADDR_LO (BitVec.ofNat 32 a)).wr Reg.REL_CE_ADDR_HI
    (BitVec.ofNat 32 (a / 2 ^ 32))

/-- The core and the bank of an operand-store word (R195). -/
def osBank (a : Nat) : Option (Nat × Nat) :=
  let w := (a - osAddr 0) / 16
  if osAddr 0 ≤ a ∧ a < osAddr 32 then some ((a - osAddr 0) / 0x200000, (w ^^^ (w / 32)) % 32) else none

/-- An SRAM word whose error is found again: a stuck cell takes a redundant row or column while one is left, and then, in an
operand store, the spare bank; a double-bit error is a data loss (R471). -/
def State.wordLasting (s : State) (u : RelUnit) (a : Nat) (dbl : Bool) (fix : Option Nat) (mech : Nat) : State :=
  let l := s.unitLdg u
  let ix := s.unitIx u
  let s := s.relLasting 3 l
  if dbl then s.dataLoss 3 mech ix a 8 l
  else match if 0 < s.left 3 ∧ s.repairs.length < 512 then fix else none, osBank a with
    | some f, _ => (({ s with repairs := s.repairs ++ [f % 2 ^ 32] }).spend 3 false l).relFault 3 mech 1 ix 0xFFFF l
    | none, some (c, b) =>
      if s.gf (Reg.REL_LG_MAP c) Fld.REL_LG_MAP_BANK = 63 then
        ((s.sf (Reg.REL_LG_MAP c) Fld.REL_LG_MAP_BANK b).spend 2 true l).relFault 3 mech 1 ix 32 l
      else s.relFault 3 mech 2 ix 0xFFFF l
    | none, none => s.relFault 3 mech 2 ix 0xFFFF l

/-- Kind of a tier repair (R478): 0 hard repair pending, 1 hard repair applied, 2 frame remapped. -/
def fixKind (e : Nat) : Nat := e / 2 ^ 8 % 2 ^ 8

/-- An entry of the tier repairs of the wear record (R478): channel, kind and frame number (log 35); the record has place
for the first 96. -/
def State.tierEntry (s : State) (a kind : Nat) : State :=
  let e := (a - tierAddr) / 256 % 8 + 2 ^ 8 * kind + 2 ^ 16 * frameOf a
  { s with tierFix := s.tierFix ++ [e], wearDirty := true }

/-- Spare frames that no frame is remapped to (R213). -/
def State.framesLeft (s : State) : Nat :=
  s.gf Reg.MEM_CAP Fld.MEM_CAP_SPARE_FRAMES - (s.tierFix.filter fun e => fixKind e == 2).length

/-- LEFT of the tier's spare frames, which saturates (R484). -/
def State.showFrames (s : State) : State := s.sf (Reg.REL_SPARES 12) Fld.REL_SPARES_LEFT (min 65535 s.framesLeft)

/-- A lasting tier fault (R211 to R213). -/
def State.tierLasting (s : State) (u : RelUnit) (a : Nat) (dbl : Bool) (fix : TierFix) (mech : Nat) : State :=
  let l := s.unitLdg u
  let ix := s.unitIx u
  let s := s.relLasting 12 l
  let ua := a / 64 * 64
  let s := if dbl then
      ((s.setFlag Reg.MEM_FLAG 1 l).wr Reg.MEM_UE_ADDR_LO (BitVec.ofNat 32 ua)).wr Reg.MEM_UE_ADDR_HI (BitVec.ofNat 32 (ua / 2 ^ 32))
    else s.setFlag Reg.MEM_FLAG 0 l
  let s := if dbl then s.dataLoss 12 mech ix ua 64 l else s
  match fix with
  | .ppr => ((s.setFlag Reg.MEM_FLAG 2 l).tierEntry a 0).relFault 12 mech 1 ix 0xFFFF l
  | .exhausted =>
    let s := (s.setFlag Reg.MEM_FLAG 3 l).setFlag Reg.MEM_FLAG 4 l
    if 0 < s.framesLeft then (s.tierEntry a 2).showFrames.relFault 12 mech 1 ix 0xFFFF l
    else (s.addPoison (tierAddr + 4096 * frameOf a) 4096).noSpare 12 mech ix l

/-! ### The rule (R470) -/

/-- A command whose attempt a lane group's check ends: the one that has begun on the engine of the core (R54). -/
def CmdEntry.attempt (e : CmdEntry) : Bool := e.begun && !e.ended && [0x20, 0x21, 0x22, 0x23, 0x63, 0x70].contains (cOp e.w)

/-- Change the commands in flight on a core. -/
def State.mapEntries (s : State) (c : Nat) (f : CmdEntry → CmdEntry) : State :=
  s.setTc c fun t => { t with slots := t.slots.map fun (k, v) => (k, { v with inflight := v.inflight.map f }) }

/-- A check of a lane group fails: RESIDUE, among the events of the command in progress too (R50, R54). -/
def State.laneCheck (s : State) (c : Nat) : State :=
  (s.setFlag (Reg.TC_AFLAG c) Fld.TC_AFLAG_RESIDUE.lo (s.tcHolder c)).mapEntries c fun e =>
    if e.attempt then { e with ev := e.ev ||| Ev.residue } else e

/-- A command on the core waits for the recovery of a lane group (R54): what the lane's own checks found. -/
def State.laneBad (s : State) (c g : Nat) : Bool :=
  (s.tcOf c).slots.any fun (_, t) => t.inflight.any fun e => e.fault.testBit g

/-- The recovery of a lane group is over: the commands that waited for it go on. -/
def State.laneGo (s : State) (c g : Nat) : State :=
  if s.laneBad c g then s.mapEntries c fun e => { e with fault := maskIn e.fault (2 ^ g) 0 } else s

/-- What a detection itself shows: RESIDUE for a lane group (R54), once where the lane's own check has shown it; REPLAY for an
Iambel core (R369), the corrected error of a memory. -/
def State.detected (s : State) (u : RelUnit) : State :=
  match u with
  | .lane c g => if s.laneBad c.val g.val then s else s.laneCheck c.val
  | .iambel n => s.setFlag (Reg.IBC_FLAG n.val) Fld.IBC_FLAG_REPLAY.lo (s.ibcHolder n.val)
  | .word a false _ => s.sramCe a
  | _ => s

/-- A failed check of a replay: RESIDUE once more for a lane group (R54). -/
def State.recheck (s : State) (u : RelUnit) : State :=
  match u with
  | .lane c _ => s.laneCheck c.val
  | _ => s

/-- The replay of a lane group whose stored residues do not fit fails on the group and on its spare: the rows it starts from are
the same (R52, R54). -/
def State.replayOf (s : State) (u : RelUnit) (r : Replay) : Replay :=
  match u with
  | .lane c g => if s.laneBad c.val g.val then .lasting true else r
  | _ => r

/-- Work that waited for a unit's recovery goes on. -/
def State.recovered (s : State) (u : RelUnit) : State :=
  match u with
  | .lane c g => s.laneGo c.val g.val
  | _ => s

/-- recover(u, w) of R470: one replay on the unit; a lasting fault takes a spare or escalates; a replay that fails on the
spare ends the work as an unrecovered fault. -/
def State.recover (s : State) (u : RelUnit) (mech : Nat) (r : Replay) : State :=
  let r := s.replayOf u r
  let s := s.detected u
  let l := s.unitLdg u
  State.recovered (u := u) <|
  match r with
  | .passes =>
    match u with
    | .word _ false _ => s
    | .tier _ false _ => s.setFlag Reg.MEM_FLAG 0 l
    | u => s.relTrans (relCls u) mech (s.unitIx u) l
  | .lasting again =>
    match u with
    | .word a dbl fix => s.wordLasting u a dbl fix mech
    | .tier a dbl fix => s.tierLasting u a dbl fix mech
    | u =>
      let (s, ok) := ((s.recheck u).relLasting (relCls u) l).remap u mech 1
      if ok && again then (((s.recheck u).setFlag Reg.REL_FLAG 4 l).relFault (relCls u) mech 4 (s.unitIx u) 0xFFFF l).unrecovered u else s

/-- RECOVER (R470). A poisoned word or tier unit is no new detection (R471). -/
def execRecover (u : RelUnit) (mech : Fin 7) (r : Replay) (s : State) : Host.Outcome State Fault Refusal :=
  let known := match u with
    | .word a _ _ => s.poisoned a 8
    | .tier a _ _ => s.poisoned (a / 64 * 64) 64
    | _ => false
  .next (if known then s else s.recover u mech.val r)

/-- A unit that a watchdog of R468 watches has work: a core with commands in flight, an Iambel core that is RUN and not
inside a REP, an engine with a code block, the firmware of the Porter or Steward. -/
def State.watched (s : State) : RelUnit → Bool
  | .core c => (s.tcOf c.val).slots.any fun (_, u) => !u.inflight.isEmpty && u.st != 4
  | .iambel n => (s.ibcOf n.val).st == 1 && (s.ibcOf n.val).a.rep.isNone
  | .engine p => (tget (fun _ => none) s.ldpcEng p.val).isSome
  | .firmware _ => true
  | _ => false

/-- WATCHDOG (R468): the fault enters the retry rule with mechanism 5. -/
def execWatchdog (u : RelUnit) (r : Replay) (s : State) : Host.Outcome State Fault Refusal :=
  .next (if s.watched u then s.recover u 5 r else s)

/-! ### Scrubs (R211, R219) -/

/-- TIER_SCRUB (R211): one unit of the tier read by the patrol scrub; a correctable error is corrected and rewritten. -/
def execTierScrub (a : BitVec 48) (ce : Bool) (s : State) : Host.Outcome State Fault Refusal :=
  let u := a.toNat / 64 * 64
  .next (if ce && s.inTier u && !s.poisoned u 64 then s.setFlag Reg.MEM_FLAG 0 ((s.tagLive (frameOf u)).map fun x => x.1) else s)

/-- SRAM_SCRUB (R219): the scrubber reads one word, corrects a single-bit error; `last` ends a pass, whose minutes are
reported. The clock sets SCRUB_LATE when a pass exceeds its time (`State.scrubLate`). -/
def execSramScrub (a : BitVec 48) (ce last : Bool) (s : State) : Host.Outcome State Fault Refusal :=
  let s := if ce then s.sramCe a.toNat else s
  if !last then .next s
  else
    let t := s.cycle - s.scrubAt
    .next { s.sf Reg.REL_SCRUB Fld.REL_SCRUB_PASS_MIN (min 65535 (t / 36000000000)) with scrubAt := s.cycle }

end Sys2Proof.Machine
end

