-- ==== Sys2Proof/Machine/Link.lean ====
section
/-! DEFINITION. Device links (R596 to R605): training and authentication (R523 to R525), flits and their retry (R597 to
R599), records and the operations they carry (R600, R601, R207, R257, R258). Bytes of flits are not held: the rows say which
flit came, and a whole record arrives as a row of its own. -/
namespace Sys2Proof.Machine
open Sys2Proof

/-! ### States of a link -/

/-- State, enable and pin of a link (R605). -/
def State.linkSt (s : State) (k : Nat) : Nat := s.gf (Reg.DLK_STAT k) Fld.DLK_STAT_STATE
def State.linkEn (s : State) (k : Nat) : Bool := s.gf (Reg.DLK_CFG k) Fld.DLK_CFG_EN == 1
def State.linkPin (s : State) (k : Nat) : Bool := s.gf (Reg.DLK_CFG k) Fld.DLK_CFG_PIN == 1
/-- A link is UP or DEGRADED. -/
def State.linkLive (s : State) (k : Nat) : Bool := s.linkSt k == 2 || s.linkSt k == 3

/-- A link takes a state with a width; leaving UP or DEGRADED sets LINK_DOWN (R604). -/
def State.linkGo (s : State) (k st width : Nat) : State :=
  let down := s.linkLive k && st != 2 && st != 3
  let s := (s.sf (Reg.DLK_STAT k) Fld.DLK_STAT_STATE st).sf (Reg.DLK_STAT k) Fld.DLK_STAT_WIDTH width
  (s.setLink k fun l => { l with at_ := s.cycle }).setFlagIf down Reg.DLK_FLAG 0

/-- A link begins to train (R596); a retraining keeps the session's traffic (R525). -/
def State.linkStart (s : State) (k : Nat) : State :=
  let re := s.linkLive k
  (s.linkGo k 1 0).setLink k fun l => { l with re := re }

/-- A link is switched off. -/
def State.linkStop (s : State) (k : Nat) : State :=
  ({ s.linkGo k 0 0 with linkTx := tput (fun _ => []) s.linkTx k [] }).setLink k fun l => { Link.reset with s := l.s, peers := l.peers, lanes := l.lanes }

/-! ### Ends of operations -/

/-- An operation ends early with a status (R258, R360, R599, R601). -/
def State.opFail (s : State) (o : LinkOp) (st : Nat) : State :=
  let s := { s with
    linkOps := s.linkOps.filter fun q => !(q.link == o.link && q.op == o.op && q.src == o.src)
    landing := s.landing.filter fun a => o.land == 0 || a != o.land }
  match o.src with
  | .move c p sl seq _ => s.setMove c p sl seq fun m => m.fail st
  | .page c p sl seq => s.setMove c p sl seq fun m => m.fail st
  | .xfer n id _ => s.setIbc n fun b => { b with xq := b.xq.map fun x => if x.id = id then { x with st := st } else x }
  | .peer _ _ _ => s

/-- A link goes FAILED: its operations in flight end with FAILED, and what waits to be sent is dropped (R523, R526, R599). -/
def State.linkFail (s : State) (k st : Nat) : State :=
  let s := ((s.linkGo k 4 0).sf (Reg.DLK_STAT k) Fld.DLK_STAT_LAST_STATUS st).setFlag Reg.DLK_FLAG 4
  let s := { s with linkTx := tput (fun _ => []) s.linkTx k [] }
  (s.linkOps.filter fun o => o.link == k).foldl (fun s o => s.opFail o St.failed) s

/-! ### Training (R523 to R525, R596) -/

/-- The records that wait, numbered afresh for a new session (R525). -/
def renumber (rs : List LinkRec) : List LinkRec × Nat × Nat :=
  rs.foldl (fun (x : List LinkRec × Nat × Nat) r =>
    let f := x.2.2 + cdiv (48 + r.data.length) 244
    (x.1 ++ [{ r with seq := x.2.1, flit := f }], x.2.1 + 1, f)) ([], 0, 0)

/-- The peer passes R523: both certificates verify, the lifecycle states agree, its digest is allowed. A ZK960 in RMA
fails authentication (R537). -/
def State.linkAuth (s : State) (k : Nat) (certs mfg : Bool) (digest : Nat) : Bool :=
  let lc := s.gf Reg.SEC_LC Fld.SEC_LC_STATE
  let peers := (s.linkOf k).peers
  certs && lc != 3 && (!mfg || lc == 0) && (peers.isEmpty || peers.contains digest)

/-- Lanes that carry the link once trained: 8 with at most one failed lane, the 4 lowest good ones at half rate with PIN 0,
none otherwise (R599). -/
def linkWidth (lanes : List Nat) (pin : Bool) : Nat :=
  if lanes.length ≤ 1 then 8 else if pin || decide (5 < lanes.length) then 0 else 4

/-- A trained and authenticated link opens session S (R524): traffic kept on a retraining goes on in it (R525). -/
def State.linkOpen (s : State) (k peerS : Nat) : State :=
  let l := s.linkOf k
  let n := max l.s peerS + 1
  let w := linkWidth l.lanes (s.linkPin k)
  let (rs, seq, flit) := renumber (if l.re then tget (fun _ => []) s.linkTx k else [])
  let s := { s with
    linkTx := tput (fun _ => []) s.linkTx k rs
    linkSeq := tput (fun _ => 0) s.linkSeq k seq
    linkFlit := tput (fun _ => 0) s.linkFlit k flit }
  let phase := if l.re then 1 - s.gf (Reg.SEC_LINK k) Fld.SEC_LINK_KEY_PHASE else 0
  let s := ((s.sf (Reg.SEC_LINK k) Fld.SEC_LINK_AUTH_OK 1).sf (Reg.SEC_LINK k) Fld.SEC_LINK_KEY_PHASE phase).wr (Reg.SEC_LINK_S k)
    (BitVec.ofNat 32 n)
  let s := s.sf (Reg.DLK_STAT k) Fld.DLK_STAT_LAST_STATUS St.ok
  (s.linkGo k (if w = 8 then 2 else 3) w).setLink k fun l =>
    { Link.reset with s := n, at_ := s.cycle, ackAt := s.cycle, lanes := l.lanes, peers := l.peers }

/-- LINK_TRAIN (R596): the training of an enabled link ends. Operands: the measured reference offset in ppm, whether the
lanes equalised, whether the peer's certificates verify, its identity digest, whether it is in MANUFACTURE, its last session
number. -/
def execLinkTrain (k : Fin 4) (ppm : Int) (lanesOk certs mfg : Bool) (digest peerS : Nat) (s : State) :
    Host.Outcome State Fault Refusal :=
  let k := k.val
  if s.linkSt k ≠ 1 then .next s
  else
    let s := s.sf (Reg.DLK_REFOFF k) Fld.DLK_REFOFF_PPM (ppm % 65536).toNat
    if 200 < ppm.natAbs then .next ((s.linkFail k St.failed).setFlag Reg.DLK_FLAG 5)
    else if !lanesOk || linkWidth (s.linkOf k).lanes (s.linkPin k) = 0 then .next (s.linkFail k St.failed)
    else if !s.linkAuth k certs mfg digest then
      .next (((s.sf (Reg.SEC_LINK k) Fld.SEC_LINK_AUTH_OK 0).linkFail k St.integrity).setFlag Reg.SEC_FLAG 2)
    else .next (s.linkOpen k peerS)

/-- LINK_TRAIN_RETRY (R596): a FAILED link trains again every 100 ms while EN is 1. -/
def execLinkTrainRetry (k : Fin 4) (s : State) : Host.Outcome State Fault Refusal :=
  let k := k.val
  .next (if s.linkSt k == 4 && s.linkEn k && decide ((s.linkOf k).at_ + 60000000 ≤ s.cycle) then s.linkStart k else s)

/-- A write of DLK.CTL.RETRAIN (R605). -/
def State.retrain (s : State) (k : Nat) : State := if s.linkEn k && s.linkSt k != 1 then s.linkStart k else s

/-- RETRAIN (R605). -/
def execRetrain (who : Requester) (k : Fin 4) (s : State) : Host.Outcome State Fault Refusal :=
  .next (s.asWrite who (Reg.DLK_CTL k.val) fun s => s.retrain k.val)

/-! ### Flits (R597 to R599) -/

/-- An acknowledgement of the data flits up to a sequence number: their records are kept no longer (R598). -/
def State.linkAck (s : State) (k : Nat) (ack : BitVec 12) : State :=
  let l := s.linkOf k
  let d := (ack.toNat + 1 + 4096 - l.ack % 4096) % 4096
  let n := l.ack + d
  if d = 0 ∨ 2048 < d ∨ tget (fun _ => 0) s.linkFlit k < n then s
  else ({ s with linkTx := tmod (fun _ => []) s.linkTx k fun t => t.filter fun r => decide (n < r.flit) }).setLink k
    fun l => { l with ack := n, ackAt := s.cycle }

/-- The 4 lowest good lanes carry a link at half rate, or it goes FAILED (R599). -/
def State.linkDegrade (s : State) (k : Nat) : State :=
  let w := linkWidth (s.linkOf k).lanes (s.linkPin k)
  if w = 0 then s.linkFail k St.failed else (s.linkGo k 3 w).setFlag Reg.DLK_FLAG 3

/-- A flit failed its CRC again on its resend (R599): the lane that fails the test, if one does. -/
def State.linkLane (s : State) (k : Nat) (lane : Option Nat) : State :=
  let s := s.relLasting 9 none
  let l := s.linkOf k
  match lane with
  | none => (s.linkStart k).setFlag Reg.DLK_FLAG 2
  | some x =>
    let first := l.lanes == []
    let s := s.setLink k fun l => { l with lanes := if l.lanes.contains x then l.lanes else l.lanes ++ [x] }
    if first && decide (x < 8) then
      ((((s.sf (Reg.DLK_STAT k) Fld.DLK_STAT_SPARED x).setFlag Reg.DLK_FLAG 2).spend 9 true none).relFault 9 3 1 (9 * k + x) (9 * k + 8) none)
    else (s.noSpare 9 3 (9 * k + x) none).linkDegrade k

/-- DATA_FLIT_RX (R597 to R599): a data flit with its CRC result, sequence number, acknowledgement, whether it is idle; and
the lane that fails the test when the flit's resend fails too. -/
def execDataFlitRx (k : Fin 4) (ok : Bool) (seq ack : BitVec 12) (idle : Bool) (lane : Option (Fin 9)) (s : State) :
    Host.Outcome State Fault Refusal :=
  let k := k.val
  let l := s.linkOf k
  if !s.linkLive k then .next s
  else if !ok then
    let s := s.wr (Reg.DLK_CRC_ERR k) (s.rr (Reg.DLK_CRC_ERR k) + 1)
    if l.nak then .next ((s.setLink k fun l => { l with nak := false }).linkLane k (lane.map fun x => x.val))
    else .next (s.setLink k fun l => { l with nak := true })
  else
    let s := s.linkAck k ack
    if idle ∨ seq.toNat ≠ l.rx % 4096 then .next s
    else
      let s := if l.nak then s.relTrans 9 3 (9 * k) none else s
      .next (s.setLink k fun l => { l with rx := l.rx + 1, nak := false })

/-- A go-back-N retry of the transmitter (R598). -/
def State.linkRetry (s : State) (k : Nat) : State :=
  ((s.wr (Reg.DLK_RETRY k) (s.rr (Reg.DLK_RETRY k) + 1)).setFlag Reg.DLK_FLAG 1).setLink k fun l => { l with ackAt := s.cycle }

/-- CONTROL_FLIT_RX (R597, R598): the acknowledgement, any NAK, the credits. One whose CRC fails is ignored. -/
def execControlFlitRx (k : Fin 4) (ok : Bool) (ack : BitVec 12) (nak : Bool) (c0 c1 : Nat) (s : State) :
    Host.Outcome State Fault Refusal :=
  let k := k.val
  if !ok || !s.linkLive k then .next s
  else
    let s := (s.linkAck k ack).setLink k fun l => { l with credit := (c0, c1) }
    .next (if nak then s.linkRetry k else s)

/-- ACK_TIMEOUT (R598): no acknowledgement has advanced for 4 µs. -/
def execAckTimeout (k : Fin 4) (s : State) : Host.Outcome State Fault Refusal :=
  let k := k.val
  .next (if s.linkLive k && decide (tget (fun _ => []) s.linkTx k ≠ []) && decide ((s.linkOf k).ackAt + 2400 ≤ s.cycle) then s.linkRetry k
    else s)

/-! ### Answers to this end's operations -/

/-- The operation of this end with a number. -/
def State.opOf (s : State) (k op : Nat) : Option LinkOp :=
  s.linkOps.find? fun o => o.link == k && o.op == op && match o.src with
    | .peer _ _ _ => false
    | _ => true

/-- An operation is answered: it waits no more. -/
def State.opDone (s : State) (o : LinkOp) : State :=
  { s with
    linkOps := s.linkOps.filter fun q => q != o
    landing := s.landing.filter fun a => o.land == 0 || a != o.land }

/-- One unit of a remote MOV or transfer is answered. -/
def State.unitAnswered (s : State) (o : LinkOp) : State :=
  match o.src with
  | .move c p sl seq _ => s.setMove c p sl seq fun m => { m with acked := m.acked + 1 }
  | .xfer n id _ => s.setIbc n fun b => { b with xq := b.xq.map fun x => if x.id = id then { x with acked := x.acked + 1 } else x }
  | _ => s

/-- The unit a read brought lands (R601); a transfer takes the bytes of its own range (R360). -/
def State.unitLands (s : State) (o : LinkOp) (data : List Byte) : State :=
  let v := data.foldr (fun b n => b.toNat + 256 * n) 0
  match o.src with
  | .move _ _ _ _ a => s.put o.ldg a data.length v
  | .xfer n id a =>
    match (s.ibcOf n).xq.find? fun x => x.id == id with
    | some x =>
      let lo := max a x.local_
      let hi := min (a + data.length) (x.local_ + 16 * x.units)
      s.put o.ldg lo (hi - lo) (v / 256 ^ (lo - a) % 256 ^ (hi - lo))
    | none => s
  | _ => s

/-! ### Pages (R256 to R258) -/

/-- Where a page arriving by transfer lands (R256): in a slot, an allocation that spills under R250, or in a spill unit. The
device address, none when the landing side has no place (BUSY). -/
def State.pageLand (s : State) (P : Kv) : Option (State × Nat) :=
  let role := s.gf (Reg.LDG_CFG P.l) Fld.LDG_CFG_ROLE
  let held (s : State) (a : Nat) : State := { s with landing := s.landing ++ [a] }
  let unit := ((List.range P.units).find? fun u => s.unitFree P u).map fun u => (held s (s.unitAddr P u), s.unitAddr P u)
  let slot (s : State) : Option (State × Nat) := (s.allocSlot P).map fun (s, k) =>
    ((held s (s.slotAddr P k)).keepLwm P, s.slotAddr P k)
  if role = 3 then unit
  else if role = 2 then slot (s.makeRoom P 1 P.nslot)
  else if P.lwm < s.freeSlots P then slot s else unit

/-- Bytes of a page arrive at a place: a tier write is charged to the write class, and what a peer puts to the remote class too
(R257); a PAGE_GET has paid that class unit by unit. -/
def State.pageBytesIn (s : State) (l a got : Nat) (data : List Byte) (remote : Bool) : State :=
  let n := cdiv data.length 64
  let s := s.tierCharge l .peer a data.length true
  let s := if remote then s.charge l .peer 2 n else s
  s.put l (a + got) data.length (data.foldr (fun b v => b.toNat + 256 * v) 0)

/-- The sizes of a transferred page fit a pool: its slot bytes and its summary fix FMT and HD32 (R257, R258). -/
def pageFits (P : Kv) (got : Nat) (last : List Byte) : Bool := got == P.slotBytes && last.length == 2 + 2 * P.hd

/-- Checks a peer's request makes on this end's pool: the LINKS bit, the role (R258). -/
def State.peerChecks (s : State) (k l pool page : Nat) (put : Bool) : List (Bool × Nat) :=
  let live := s.bound l && (s.kvPool l pool).live
  let P := s.kvOf l pool
  (live && !P.links.testBit k, St.permission) ::
    (live && put && s.gf (Reg.LDG_CFG l) Fld.LDG_CFG_ROLE == 3 && decide (page < P.npage) &&
        ((s.page P page).st == 3 || (s.appending P).contains page), St.state) ::
    (if put then s.pageWriteChecks l pool page St.notReady
     else [(!live, St.notReady), (live && !s.pageAllocated l (pool * 2 ^ 22 + page), St.bounds)])

/-! ### Records received (R526, R600, R601) -/

/-- An answer of this end (R600). -/
def answerRec (kind src dst st op : Nat) (data : List Byte) : LinkRec := ⟨kind, true, src, dst, 0, st, op, 0, data, 0, 0⟩

/-- An answer goes out: its status is counted (R11, R497). -/
def State.linkAnswer (s : State) (k : Nat) (r : LinkRec) : State := (s.countStatus 0xA r.status none).linkSend k r

/-- What a peer may do in a region (R204, R207): the region exists, exports, grants the access, holds the bytes, and does not
itself lead to a peer. -/
def State.exportSt (s : State) (l reg off n : Nat) (wr : Bool) : Nat :=
  let r := s.regionOr l reg
  pick [(r.valid && (!r.export_ || !(if wr then r.wr else r.rd) || r.kind == 5), St.permission), (!r.holds off n, St.bounds)]

/-- Charge an access of a peer to the lodging it reaches (R207). -/
def State.chargePeer (s : State) (l a n : Nat) (wr : Bool) : State :=
  (s.tierCharge l .peer a n wr).charge l .peer 2 (cdiv n 64)

/-- A record's fields as they arrive (R600). -/
structure LinkIn where
  kind : Nat
  last : Bool
  src : Nat
  dst : Nat
  reg : Nat
  status : Nat
  op : Nat
  addr : Nat
  data : List Byte
deriving DecidableEq, Repr

/-- KIND 1: a remote write; KIND 4 answers once the data is visible. -/
def State.rxWrite (s : State) (k : Nat) (r : LinkIn) : State :=
  let n := r.data.length
  let st := s.exportSt r.dst r.reg r.addr n true
  let a := (s.regionOr r.dst r.reg).base + r.addr
  let s := if st = St.ok then (s.chargePeer r.dst a n true).put r.dst a n (r.data.foldr (fun b v => b.toNat + 256 * v) 0) else s
  s.linkAnswer k (answerRec 4 r.dst r.src st r.op [])

/-- KIND 2: a remote read of one 64-byte unit; KIND 3 carries it. -/
def State.rxRead (s : State) (k : Nat) (r : LinkIn) : State :=
  let st := s.exportSt r.dst r.reg r.addr 64 false
  let a := (s.regionOr r.dst r.reg).base + r.addr
  if st ≠ St.ok then s.linkAnswer k (answerRec 3 r.dst r.src st r.op [])
  else
    let (s, v, bad) := (s.chargePeer r.dst a 64 false).getBytes r.dst a 64
    if bad then s.linkAnswer k (answerRec 3 r.dst r.src St.integrity r.op [])
    else s.linkAnswer k (answerRec 3 r.dst r.src St.ok r.op ((List.range 64).map fun i => BitVec.ofNat 8 (v / 256 ^ i)))

/-- Answer to a page put (R601): a control message. -/
def State.putAnswer (s : State) (k : Nat) (r : LinkIn) (st : Nat) : State := s.linkAnswer k (answerRec 8 r.dst r.src st r.op [])

/-- The operation of a page that the peer puts: the one under way, or a new one with the status of its checks (R256, R257). One
that may go on holds its page in use (R235). -/
def State.putOp (s : State) (k : Nat) (r : LinkIn) : State × LinkOp :=
  let cur := s.linkOps.find? fun o => o.link == k && o.op == r.op && match o.src with
    | .peer _ _ _ => true
    | _ => false
  let start (s : State) (st a : Nat) : State × LinkOp :=
    let o : LinkOp := ⟨k, r.op, 5, r.dst, .peer r.reg r.addr st, s.cycle, 0, a⟩
    ({ s with linkOps := s.linkOps ++ [o] }, o)
  match cur with
  | some o => (s, o)
  | none =>
    let st := pick (s.peerChecks k r.dst r.reg r.addr true)
    if st ≠ St.ok then start s st 0
    else if r.last then start s St.bounds 0
    else match s.pageLand (s.kvOf r.dst r.reg) with
      | none => start s St.busy 0
      | some (s, a) => start (s.pageUse r.dst r.reg r.addr) St.ok a

/-- One more record of the page of an operation. -/
def State.opGot (s : State) (o : LinkOp) (n : Nat) : State :=
  { s with linkOps := s.linkOps.map fun q => if q = o then { q with got := q.got + n } else q }

/-- The status of a page that the peer puts, once it has sent all (R258): what its first record found, whether the sizes fit, the
checks of the page as it is now; the first in R12's order. An empty request and a missing pool leave no sizes to judge. -/
def State.putStatus (s : State) (o : LinkOp) (r : LinkIn) : Nat :=
  let live := s.bound r.dst && (s.kvPool r.dst r.reg).live
  let st0 := match o.src with
    | .peer _ _ st => st
    | _ => St.ok
  pick ((live && !(o.got == 0 && r.data == []) && !pageFits (s.kvOf r.dst r.reg) o.got r.data, St.format) :: (st0 != St.ok, st0) ::
    (if st0 = St.ok then s.pageWriteChecks r.dst r.reg r.addr St.notReady else []))

/-- KIND 5: a record of a page that the peer puts. The checks are made on the first, the switch on the last. -/
def State.rxPut (s : State) (k : Nat) (r : LinkIn) : State :=
  let (s, o) := s.putOp k r
  let P := s.kvOf r.dst r.reg
  if !r.last then
    if o.land = 0 ∨ !(s.kvPool r.dst r.reg).live ∨ P.slotBytes < o.got + r.data.length then s.opGot o r.data.length
    else (s.pageBytesIn r.dst o.land o.got r.data true).opGot o r.data.length
  else
    let st := s.putStatus o r
    if st = St.ok then
      (({ s with linkOps := s.linkOps.filter fun q => q != o }).pageArrived P r.addr o.land r.data).putAnswer k r st
    else (s.opDone o).putAnswer k r st

/-- KIND 6: a peer gets a page. -/
def State.rxGet (s : State) (k : Nat) (r : LinkIn) : State :=
  let st := pick (s.peerChecks k r.dst r.reg r.addr false)
  if st ≠ St.ok then s.linkAnswer k (answerRec 7 r.dst r.src st r.op [])
  else
    let P := s.kvOf r.dst r.reg
    let a := s.pageAddr P r.addr
    match s.pageRecs P r.addr 7 r.dst r.src 0 0 with
    | (s, none) => s.linkAnswer k (answerRec 7 r.dst r.src St.integrity r.op [])
    | (s, some rs) =>
      let s := s.chargePeer r.dst a P.slotBytes false
      rs.foldl (fun s x => s.linkSend k { x with op := r.op, status := St.ok }) s

/-- The peer's status ranked with the checks of this end in R12's order; a status outside that order comes first (R258). -/
def rankPeer (st : Nat) (own : List (Bool × Nat)) : Nat :=
  if st ≠ St.ok ∧ !St.order.contains st then st else pick ((st != St.ok, st) :: own)

/-- The answer to a put that this end asked (R256, R258): the local page's own check takes part in R12's order. -/
def State.putAnswered (s : State) (o : LinkOp) (st : Nat) : State :=
  match o.src with
  | .page c p sl seq =>
    match (s.slotOf c p sl).moves.find? fun m => m.seq == seq with
    | none => s.opDone o
    | some m =>
      let st := rankPeer st [(!s.pageAllocated o.ldg m.src, St.bounds)]
      if st ≠ St.ok then s.opFail o st
      else
        let P := s.kvOf o.ldg (m.src / 2 ^ 22)
        let s := if s.gf (Reg.LDG_CFG o.ldg) Fld.LDG_CFG_ROLE = 1 then s.modPage P (m.src % 2 ^ 22) fun d => { d with touch := 0 } else s
        (s.opDone o).setMove c p sl seq fun m => { m with acked := 1 }
  | _ => s

/-- A body record of a page that this end gets lands where the first one found a place; without one it is only counted. -/
def State.getBody (s : State) (o : LinkOp) (P : Kv) (own : List (Bool × Nat)) (data : List Byte) : State :=
  let (s, a) := if o.land ≠ 0 ∨ o.got ≠ 0 ∨ pick own ≠ St.ok then (s, o.land) else match s.pageLand P with
    | some (s, a) => (s, a)
    | none => (s, 0)
  let s := if a ≠ 0 ∧ o.got + data.length ≤ P.slotBytes then s.pageBytesIn o.ldg a o.got data false else s
  { s with linkOps := s.linkOps.map fun q => if q = o then { q with got := q.got + data.length, land := a } else q }

/-- KIND 7: a record of a page that this end gets. An answer without data is the peer's status; after the last record the sizes and
this end's own checks are judged with it (R257, R258). -/
def State.rxPage (s : State) (o : LinkOp) (r : LinkIn) : State :=
  match o.src with
  | .page c p sl seq =>
    match (s.slotOf c p sl).moves.find? fun m => m.seq == seq with
    | none => s.opDone o
    | some m =>
      let pool := m.dst / 2 ^ 22
      let i := m.dst % 2 ^ 22
      let P := s.kvOf o.ldg pool
      let own := s.pageWriteChecks o.ldg pool i St.bounds
      if r.status ≠ St.ok then s.opFail o (rankPeer r.status own)
      else if !r.last then s.getBody o P own r.data
      else
        let st := pick (((s.kvPool o.ldg pool).live && !pageFits P o.got r.data, St.format) :: own ++ [(o.land == 0, St.busy)])
        if st ≠ St.ok then s.opFail o st
        else (({ s with linkOps := s.linkOps.filter fun q => q != o }).pageArrived P i o.land r.data).setMove c p sl seq fun m =>
          { m with acked := 1 }
  | _ => s

/-- A record of a KIND is applied (R600, R601). An unlisted KIND is refused with FORMAT. -/
def State.rxRecord (s : State) (k : Nat) (r : LinkIn) : State :=
  let answer (f : LinkOp → State) : State := match s.opOf k r.op with
    | some o => f o
    | none => s
  match r.kind with
  | 1 => s.rxWrite k r
  | 2 => s.rxRead k r
  | 3 => answer fun o => if r.status = St.ok then ((s.unitLands o r.data).unitAnswered o).opDone o else s.opFail o r.status
  | 4 => answer fun o => if o.kind = 5 then s.putAnswered o r.status
      else if r.status = St.ok then (s.unitAnswered o).opDone o else s.opFail o r.status
  | 5 => s.rxPut k r
  | 6 => s.rxGet k r
  | 7 => answer fun o => s.rxPage o r
  | 8 => answer fun o => if o.kind = 5 then s.putAnswered o r.status else if r.status = St.ok then s else s.opFail o r.status
  | _ => s.linkAnswer k (answerRec 8 r.dst r.src St.format r.op [])

/-- LINK_RECORD_RX (R526, R601): a whole record, whether its tag verifies, its sequence number, its header and payload. A
record that fails is discarded once; when its resend fails the link goes FAILED. -/
def execLinkRecordRx (k : Fin 4) (tag : Bool) (seq kind : Nat) (last : Bool) (src dst : Fin 16) (reg status op addr : Nat)
    (data : List Byte) (s : State) : Host.Outcome State Fault Refusal :=
  let k := k.val
  let l := s.linkOf k
  if !s.linkLive k then .next s
  else if !tag || seq != l.rxRec then
    if l.badRec then .next ((s.linkFail k St.integrity).setFlag Reg.SEC_FLAG 2)
    else .next (s.setLink k fun l => { l with badRec := true })
  else
    .next ((s.setLink k fun l => { l with rxRec := l.rxRec + 1, badRec := false }).rxRecord k
      ⟨kind, last, src.val, dst.val, reg, status, op, addr, data⟩).kvSettle

/-- LINK_OP_TIMEOUT (R258, R601): an operation of this end has had no answer for 1 ms. -/
def execLinkOpTimeout (k : Fin 4) (op : Nat) (s : State) : Host.Outcome State Fault Refusal :=
  match s.opOf k.val op with
  | some o => .next (if o.since + 600000 ≤ s.cycle then (s.opFail o St.timeout).kvSettle else s)
  | none => .next s

end Sys2Proof.Machine
end

