-- ==== Sys2Proof/Machine/Clock.lean ====
section
/-! DEFINITION. One CTL cycle (R434, R495, R501): the cycle count, the time bases, the counters that count cycles, the idle
count of the engines. The block's step makes one when no command waits (log 37). -/
namespace Sys2Proof.Machine
open Sys2Proof

/-- ENG cycles that end in CTL cycle k: three in every two, the first of the pair holding one (R501). -/
def engCycles (k : Nat) : Nat := if k % 2 = 0 then 1 else 2
/-- Number of the first ENG cycle of CTL cycle k, counted from reset release. -/
def engFirst (k : Nat) : Nat := k / 2 * 3 + k % 2

/-- A core dedicated to a lodging that serves an enabled carrier is protected (R569). -/
def State.protected_ (s : State) (c : Nat) : Bool := (List.range 16).any fun l => s.dedicated l c && (List.range 8).any fun a => s.serves l a

/-- Duty of a core in sixteenths (R568, R569). -/
def State.duty (s : State) (c : Nat) : Nat := s.gf Reg.PWR_THERM (if s.protected_ c then Fld.PWR_THERM_DP else Fld.PWR_THERM_DU)

/-- Gated ENG cycles of a core in this CTL cycle: in each window of 16 the first 16D run (R568). -/
def State.gated (s : State) (c : Nat) : Nat :=
  ((List.range (engCycles s.cycle)).filter fun i => decide (s.duty c ≤ (engFirst s.cycle + i) % 16)).length

/-- PER cycles that end in CTL cycle k: one in every two. -/
def perCycles (k : Nat) : Nat := k % 2

/-- Block of the ENG clock; of the FAB clock (log 22). -/
def engBlock (b : Nat) : Bool := decide (0x10 ≤ b) && decide (b < 0x30)
def fabBlock (b : Nat) : Bool := decide (0x30 ≤ b) || [0x8, 0x9, 0xA, 0xB, 0xC, 0xD, 0xE].contains b

/-- The unit of a TC or IBC block is powered (R495, R560). -/
def State.blockOn (s : State) (b : Nat) : Bool :=
  if 0x30 ≤ b then s.domOn (140 + s.physIbc (b - 0x30)) else if 0x10 ≤ b then s.domOn (40 + s.physCore (b - 0x10)) else true

/-- The lodging that holds the unit of a TC or IBC block (R497). -/
def State.blockLdg (s : State) (b : Nat) : Option Nat :=
  if 0x30 ≤ b then s.ibcHolder (b - 0x30) else if 0x10 ≤ b then s.tcHolder (b - 0x10) else none

/-- Cycles of a block's clock in this CTL cycle: ENG, FAB and PER stop in deep standby (R572). -/
def State.blockCycles (s : State) (b : Nat) : Nat :=
  let stby := s.gf Reg.PWR_BOOT Fld.PWR_BOOT_STATE == 3
  if !s.blockOn b then 0
  else if engBlock b then (if stby then 0 else engCycles s.cycle)
  else if fabBlock b then (if stby then 0 else 2)
  else if b = 0xF then (if stby then 0 else perCycles s.cycle)
  else 1

/-- The command keeps its engine from being idle (R75): loads, passes, tiles, OSIDE and the chunks of an ATT from where they
begin; a DRAIN in flight also while it only waits for its buffer, which R75 leaves open (DESIGN CHOICE; log 63). -/
def CmdEntry.onEngine (e : CmdEntry) : Bool :=
  match cOp e.w with
  | 0x20 | 0x21 | 0x22 | 0x63 => e.begun
  | 0x23 => true
  | 0x70 => e.begun && !e.done && !e.warned
  | _ => false

/-- A drain that has set TB_WAIT still finds its buffer HELD: its partition and the buffer it waits for (R133). -/
def CmdEntry.waitsHeld (t : Tc) (p : Nat) (e : CmdEntry) : Bool :=
  let q := TileSpec.ofWord e.w e.desc
  e.warned && !e.done && (if cOp e.w = 0x23 then t.bufState p (cbits e.w 89 88) == 2
    else cOp e.w == 0x21 && t.bufState p ((q.buf + e.prog) % 4) == 2)

/-- Whether a core spends this cycle on what a cycle-valued block event counts (R498): lane activity outside a ramp, the vector,
reduction and special-function units, a drain that waits on a HELD buffer. A unit is busy from where it takes a command up to the
command's completion (log 22). -/
def Tc.spends (t : Tc) (ev : Nat) : Bool :=
  let some_ (f : Nat → CmdEntry → Bool) : Bool := t.slots.any fun (k, u) => u.inflight.any (f (k / 2))
  if ev = 0x3001 then t.ramp == 0 && some_ fun _ e => cOp e.w != 0x23 && e.onEngine
  else if ev = 0x300B then some_ (CmdEntry.waitsHeld t)
  else 0x3004 ≤ ev && ev ≤ 0x3006 && some_ fun _ e => e.begun && unitOf e.w == ev - 0x3002

/-- Occurrences of a cycle-counted event in this CTL cycle, each with its lodging (R497, R498). -/
def State.cycleEvent (s : State) (b ev : Nat) : List (Option Nat × Nat) :=
  let n := s.blockCycles b
  if ev = 1 then [(s.blockLdg b, n)]
  else if engBlock b && (s.tcOf (b - 0x10)).spends ev then [(s.blockLdg b, n - (if ev = 0x3001 then s.gated (b - 0x10) else 0))]
  else if ev = 0x3003 ∧ engBlock b then [(s.blockLdg b, min n (s.gated (b - 0x10)))]
  else if ev = 0x3001 ∧ 0x30 ≤ b then
    let st := (s.ibcOf (b - 0x30)).st
    if st = 2 ∨ st = 3 then [(s.blockLdg b, n)] else []
  else []

/-- Blocks and cycle events that some counter selects. -/
def State.cycleSel (s : State) : List (Nat × Nat) :=
  ((s.regs.filter fun (a, _) => decide (0x3000 ≤ a % 0x10000) && decide (a % 0x10000 < 0x3080) && a % 0x10 == 0).map fun (a, v) =>
    (blockOf a, getF v Fld.CNT_SEL_EVENT)).eraseDups

/-- Count the cycles of this CTL cycle. -/
def State.countCycles (s : State) : State :=
  s.cycleSel.foldl (fun t (b, ev) => (s.cycleEvent b ev).foldl (fun t (l, n) => if n = 0 then t else t.event b ev l n) t) s

/-- One engine in this cycle: a cycle of the ramp; an idle cycle, at 256 of which the lane groups are ramped down; or neither
(R75, R77). -/
def State.idleEngine (s : State) (c : Nat) : State :=
  let r := Reg.TC_ENG_STATE c
  let n := engCycles s.cycle - s.gated c
  let left := (s.tcOf c).ramp
  let idle := s.gf r Fld.TC_ENG_STATE_IDLE_CNT
  if left ≠ 0 then
    let s := s.setTc c fun t => { t with ramp := left - n }
    if left ≤ n then s.sf r Fld.TC_ENG_STATE_RAMP 0 else s
  else if 256 ≤ idle || (s.tcOf c).slots.any fun (_, u) => u.inflight.any CmdEntry.onEngine then s
  else
    let k := min 256 (idle + n)
    (s.sf r Fld.TC_ENG_STATE_IDLE_CNT k).sf r Fld.TC_ENG_STATE_DOWN (if k = 256 then 1 else 0)

/-- The idle counts of the engines. -/
def State.idleEngines (s : State) : State := (List.range 32).foldl (fun (t : State) c => t.idleEngine c) s

/-- A pass of the SRAM scrubber exceeds 6 hours and 1 minute with this cycle (R219). -/
def State.scrubLate (s : State) : State := s.setFlagIf (s.cycle + 1 == s.scrubAt + 361 * 36000000000 + 1) Reg.REL_FLAG 6 none

/-- Carriers that have gone 16 slots without a pilot leave TRACK (R285). -/
def State.dropPilots (s : State) : State := (List.range 8).foldl (fun (t : State) a => if t.pilotsGone a then t.trackLost a else t) s

/-- Every time base makes its tick. -/
def State.tickTbs (s : State) : State :=
  (List.range 4).foldl (fun (s : State) t => s.setTb t fun b => b.tick (s.slewOf t)) s

/-- One CTL cycle. No clock runs while the device is held in reset or REFCLK is lost (R559, R614). -/
def State.tick (s : State) : State :=
  if s.inReset || s.refLoss then s
  else
    let s := s.countCycles.idleEngines.tickTbs.scrubLate.dropPilots.kvSettle
    { s with cycle := s.cycle + 1 }

/-- SLEW_COMPLETE (R439): in the next CTL cycle the remaining slew of a time base reaches zero, and SLEWING clears. -/
def execSlewComplete (t : Fin 4) (s : State) : Host.Outcome State Fault Refusal :=
  .next (if (s.tbOf t.val).slewEnds (s.slewOf t.val) then s.tick else s)

/-- CYCLE_COUNTER_WRAP (R496): in the next CTL cycle a counter that counts clock cycles wraps. -/
def execCycleCounterWrap (b : Fin 66) (i : Fin 8) (s : State) : Host.Outcome State Fault Refusal :=
  let sel := s.gf (Reg.CNT_SEL b.val i.val) Fld.CNT_SEL_EVENT
  .next (if sel = 1 ∧ 2 ^ 48 ≤ s.cntVal b.val i.val + s.blockCycles b.val then s.tick else s)

end Sys2Proof.Machine
end

