-- ==== Sys2Proof/Machine/Commit.lean ====
section
/-! DEFINITION. Stagings (R420 to R424): BEGIN, CHECK, COMMIT, ABANDON; what a commit makes live, and the release of the
resources it takes from a lodging (R262, R401, R425). -/
namespace Sys2Proof.Machine
open Sys2Proof

/-! ### The staging's registers -/

/-- STATE of STG.STAT: 0 IDLE, 1 OPEN, 3 PENDING. A check is one step, so CHECKING is never seen. -/
def State.stgSt (s : State) : Nat := s.gf Reg.STG_STAT Fld.STG_STAT_STATE
/-- OWNER of the staging (R431). -/
def State.stgOwner (s : State) : Nat := s.gf Reg.STG_STAT Fld.STG_STAT_OWNER

/-- Code of a requester that may own a staging; 0 for any other (R420). -/
def ownerCode : Requester → Nat
  | .pf => 1
  | .smbus => 2
  | .innkeeper => 3
  | _ => 0

/-- An operation on the staging ends with a status. -/
def State.stgEnd (s : State) (st : Nat) : State := (s.sf Reg.STG_STAT Fld.STG_STAT_STATUS st).countStatus 1 st none

/-- The staging takes a STATE; the time of its last write or operation is kept (R421). -/
def State.stgGo (s : State) (st : Nat) : State :=
  let s := s.sf Reg.STG_STAT Fld.STG_STAT_STATE st
  { s with stg := { s.stg with at_ := s.cycle } }

/-- Close the staging and forget its values. -/
def State.stgClose (s : State) : State :=
  let s := (s.stgGo 0).sf Reg.STG_STAT Fld.STG_STAT_OWNER 0
  { s with stg := { s.stg with vals := [] } }

/-- A write to STG.CTL: from a requester other than the owner of an open staging it is discarded with FOREIGN; from one that
cannot stage it is ignored (R420). -/
def State.asStager (s : State) (who : Requester) (eff : State → State) : State :=
  s.asWrite who Reg.STG_CTL fun s =>
    if s.stgSt ≠ 0 ∧ ownerCode who ≠ s.stgOwner then s.setFlag Reg.STG_FLAG 4
    else if ownerCode who = 0 then s
    else eff s

/-! ### Instants (R423) -/

/-- Time since the start of a carrier's slot in progress, on its time base; `x` gives the carrier's configuration. -/
def State.slotPhase (s x : State) (a : Nat) : Nat :=
  (((s.now (x.carTb a) : Int) - (x.rr (Reg.AIR_CAR_OFFSET a)).toNat * nsU) % ((slotUs (x.carNum a) * usU : Nat) : Int)).toNat

/-- The configuration a carrier's slot starts are taken from: the live one of an enabled carrier, else the staged one
(log 30). -/
def State.carCfg (s t : State) (a : Nat) : State := if s.carOn a then s else t

/-- A carrier stands within one tick of a slot start. -/
def State.atSlot (s t : State) (a : Nat) : Bool :=
  let x := s.carCfg t a
  let b := s.tbOf (x.carTb a)
  b.running && decide (s.slotPhase x a < b.incr)

/-- Carriers that MODE 2 names. -/
def State.stgCars (s : State) : List Nat :=
  (List.range 8).filter fun a => (s.gf Reg.STG_WHEN Fld.STG_WHEN_CAR).testBit a

/-- A moment within 10 ms is a slot start of every named carrier (R423; log 30). -/
def State.commonSlot (s t : State) (cars : List Nat) : Bool :=
  match cars with
  | [] => true
  | a :: _ =>
    let len (a : Nat) : Nat := slotUs ((s.carCfg t a).carNum a) * usU
    let first := len a - s.slotPhase (s.carCfg t a) a
    let tick (a : Nat) : Nat := (s.tbOf ((s.carCfg t a).carTb a)).incr
    (cars.all fun b => (s.tbOf ((s.carCfg t b).carTb b)).running) &&
      (List.range (10000 * usU / len a + 1)).any fun i =>
        let d := first + i * len a
        decide (d ≤ 10000 * usU) && cars.all fun b =>
          let p := (s.slotPhase (s.carCfg t b) b + d) % len b
          decide (p < tick b) || decide (len b - tick b < p)

/-- The instant of MODE 1, and whether its time base has reached it. -/
def State.stgTime (s : State) : Nat :=
  timeOf (s.gf Reg.STG_TIME_SHI Fld.STG_TIME_SHI_SEC_HI) (s.rr Reg.STG_TIME_SLO).toNat (s.rr Reg.STG_TIME_NS).toNat 0

/-- Checks of a commit's instant (R423, R432). -/
def State.whenChecks (s t : State) : List Chk :=
  let mode := s.gf Reg.STG_WHEN Fld.STG_WHEN_MODE
  let tb := s.gf Reg.STG_WHEN Fld.STG_WHEN_TB
  if mode = 3 then [(true, St.format, Reg.STG_WHEN)]
  else if mode = 1 then
    [(decide (999999999 < (s.rr Reg.STG_TIME_NS).toNat), St.bounds, Reg.STG_TIME_NS),
      (decide (s.now tb + 10 * secU < s.stgTime), St.bounds, Reg.STG_TIME_SLO),
      (decide (s.stgTime ≤ s.now tb) || !(s.tbOf tb).running, St.state, Reg.STG_TIME_SLO)]
  else if mode = 2 then [(!s.commonSlot t s.stgCars, St.state, Reg.STG_WHEN)]
  else []

/-- The check of a staging (R422): the domains it needs are powered (R562); the outcome, the state. -/
def State.stgCheck (s : State) (commit : Bool) : State × Nat × Nat :=
  let t := s.overlay
  let s := s.powerNeeded t.needed
  let t := s.overlay
  let (st, reg) := outcome (s.allChecks t ++ (if commit then s.whenChecks t else []))
  (s, st, reg)

/-- STG.FAIL names the failing register, or is 0 (R422). -/
def State.stgFail (s : State) (reg : Nat) : State := s.wr Reg.STG_FAIL (BitVec.ofNat 32 (reg / 0x10000 * 0x10000 + reg % 0x10000))

/-! ### What leaves a lodging (R262, R425) -/

/-- An engine position's lodging, or 16 when it is POOLED. -/
def State.engLdg (s : State) (p : Nat) : Option Nat := if s.engOwner p ≤ 16 then some (s.engOwner p) else none

/-- The live partition of a core, as its lodging and ranges. -/
def State.partVal (s : State) (c p : Nat) : Option (Nat × Word) :=
  let r := Reg.TC_PART c p
  if s.gf r Fld.TC_PART_VALID = 1 then some (s.gf r Fld.TC_PART_LODGING, s.rr r) else none

/-- Resources that the configuration `t` takes from the lodgings that `s` binds them to. -/
def State.leaving (s t : State) : List (Res × Nat) :=
  let who (old new : Option Nat) (r : Res) : List (Res × Nat) := match old with
    | some l => if new = some l then [] else [(r, l)]
    | none => []
  let ded (x : State) (c : Nat) : Option Nat := (List.range 16).find? fun l => x.dedicated l c
  let port (x : State) (p : Nat) : Option Nat := (List.range 16).find? fun l => (x.gf (Reg.LDG_CFG l) Fld.LDG_CFG_FH_PORTS).testBit p
  ((List.range 32).flatMap fun c => who (ded s c) (ded t c) (.core c)) ++
    ((List.range 32).flatMap fun c => (List.range 4).flatMap fun p =>
      match s.partVal c p with
      | some (l, v) => if t.partVal c p = some (l, v) then [] else [(.part c p, l)]
      | none => []) ++
    ((List.range 16).flatMap fun n => who (s.ibcBound n) (t.ibcBound n) (.iambel n)) ++
    ((List.range 64).flatMap fun k => who (s.syncBound (64 * k)) (t.syncBound (64 * k)) (.sync k)) ++
    ((List.range 12).flatMap fun p => who (port s p) (port t p) (.port p)) ++
    ((List.range 4).flatMap fun p => who (s.engLdg p) (t.engLdg p) (.engine p)) ++
    ((List.range 16).flatMap fun l => ((s.granules l).filter fun a => !(t.granules l).contains a &&
      (List.range 16).any fun m => m != l && (t.granules m).contains a).map fun a => (.granule a, l))

/-- A carrier of a lodging uses a resource (log 31). -/
def State.carUses (s : State) (a : Nat) (r : Res) : Bool :=
  match r with
  | .part _ _ => false
  | .sync k => s.carObj a / 64 == k
  | .port p => s.carPort a == p
  | _ => true

/-- The uplink deadline of the last slot that began before now (R262). -/
def State.lastDeadline (s : State) (a : Nat) : Nat :=
  let len := slotUs (s.carNum a) * usU
  let ph := s.slotPhase s a
  let start := s.now (s.carTb a) - ph - (if ph < (s.tbOf (s.carTb a)).incr then len else 0)
  start + len + s.carDeadline a * usU

/-- A carrier's lodging has a resource of `l`; 16 stands for the pooled engines, which POOL_MASK gives. -/
def State.carHas (s : State) (l a : Nat) : Bool :=
  if l = 16 then s.carOn a && s.rbit Reg.LDPC_POOL_MASK (s.carLdg a) else s.serves l a

/-- Until when the carriers of a lodging hold a resource: time base, time. -/
def State.carHolds (s : State) (l : Nat) (r : Res) : List (Nat × Nat) :=
  ((List.range 8).filter fun a => s.carHas l a && s.carUses a r && (s.tbOf (s.carTb a)).running).map fun a =>
    (s.carTb a, s.lastDeadline a)

/-- The running waybill of a lodging that uses a resource (R425). -/
def State.wbUses (s : State) (l : Nat) (r : Res) : Option Nat :=
  match (s.lodgeOf l).run with
  | none => none
  | some w =>
    let yes := match r with
      | .core c => w.slots.any fun e => e.core == c
      | .part c p => (w.slots.any fun e => e.core == c) && s.partOf l c == some p
      | .iambel n => w.ibc.testBit n
      | .sync _ => true
      | _ => false
    if yes then some w.no else none

/-- The release of a resource that leaves a lodging (R425): held by its carriers, else, when the lodging stays bound, by
the running waybill that uses it. -/
def State.releaseOf (s t : State) (vals : List (Nat × Word)) (r : Res) (l : Nat) : Release :=
  let cars := s.carHolds l r
  let unb := decide (l < 16) && s.bound l && !t.bound l
  let (lo, hi, rows, tb) := match r with
    | .part c p => let (os, acc, tb) := s.partRange c p; (os.1, os.2, acc, tb)
    | .core c => (osAddr c, osAddr c + 0x200000, (0, 256), (0, 256))
    | _ => (0, 0, (0, 0), (0, 0))
  let keep := match r with
    | .iambel n => vals.filter fun v => blockOf v.1 == 0x30 + n
    | _ => []
  ⟨r, l, if cars = [] ∧ !unb then s.wbUses l r else none, cars, lo, hi, rows, tb, keep⟩

/-- Nothing holds it. -/
def Release.free (r : Release) : Bool := r.wb.isNone && r.car == []

/-- Clear a resource that has left a lodging (R401); values staged for an Iambel core's registers replace the reset values
(R553). -/
def State.clearRes (s : State) (r : Release) : State :=
  match r.res with
  | .core c => s.clearCore c
  | .part c p => s.clearPart c p r.from_ (r.lo, r.hi) r.rows r.tb
  | .iambel n => r.vals.foldl (fun s v => s.wr v.1 (mergeBits (s.rr v.1) v.2 (rwlMask v.1))) (s.clearIbc n)
  | .sync k => s.clearBlock k
  | .granule a => s.clearGranule a
  | _ => s

/-- Something of a core is still held. -/
def State.coreHeld (s : State) (c : Nat) : Bool :=
  s.stg.releases.any fun r => match r.res with
    | .core d => d == c
    | .part d _ => d == c
    | _ => false

/-- Clear a partition, or with 4 the whole core, for the lodging it enters. -/
def State.clearEnter (s : State) (c p : Nat) : State :=
  if 4 ≤ p then s.clearCore c
  else
    let (os, acc, tb) := s.partRange c p
    s.clearPart c p (s.gf (Reg.TC_PART c p) Fld.TC_PART_LODGING) os acc tb

/-- Clear what waits for a core of which nothing is held any more. -/
def State.enterCores (s : State) : State :=
  let (now, later) := s.stg.enter.partition fun (c, _) => !s.coreHeld c
  now.foldl (fun s (c, p) => s.clearEnter c p) { s with stg := { s.stg with enter := later } }

/-- Show whether resources are still being released. -/
def State.showReleasing (s : State) : State :=
  s.sf Reg.STG_STAT Fld.STG_STAT_RELEASING (if s.stg.releases.isEmpty then 0 else 1)

/-! ### The instant (R424) -/

/-- Erase a lodging's keys (R515, R522): both epochs end, and its host session closes. -/
def State.eraseKeys (s : State) (l : Nat) : State :=
  let s := ((s.wr (Reg.SEC_EPOCH l) 0).wr (Reg.SEC_CNT_CUR l) 0).wr (Reg.SEC_CNT_OLD l) 0
  { s.wr (Reg.SEC_SESS l) 0 with sess := tput (fun _ => none) s.sess l none }

/-- Close a lodging's host session. -/
def State.closeSess (s : State) (l : Nat) : State :=
  { s.wr (Reg.SEC_SESS l) 0 with sess := tput (fun _ => none) s.sess l none }

/-- A lodging is bound (R515): a fresh BN, the next epoch. -/
def State.bindKeys (s : State) (l : Nat) : State :=
  let s := s.eraseKeys l
  let (d, s) := s.draw
  let e := tget (fun _ => 0) s.epochs l + 1
  let s := { s with bn := tput (fun _ => 0) s.bn l (d % 2 ^ 128), epochs := tput (fun _ => 0) s.epochs l e }
  s.sf (Reg.SEC_EPOCH l) Fld.SEC_EPOCH_CUR e

/-- A lodging is unbound at the instant (R400): its waybills end with CAUSE 7, its pools and keys go. -/
def State.unbind (s : State) (l : Nat) : State := (((s.teardown l 7 0xFF 0xFF 0 0).dropQueue l 7).dropPools l).eraseKeys l

/-- A carrier's slot comparator runs from its next slot start (R446). -/
def State.slotCmp (s : State) (a : Nat) : State :=
  let len := slotUs (s.carNum a) * usU
  let ph := s.slotPhase s a
  let now := s.now (s.carTb a)
  s.setCmp (24 + a) fun _ => ⟨true, if ph < (s.tbOf (s.carTb a)).incr then now - ph else now - ph + len, len, 0⟩

/-- Registers that the slots of a carrier are served under (R262). -/
def carRegs (a : Nat) : List Nat :=
  [Reg.AIR_CAR_CFG0 a, Reg.AIR_CAR_CFG1 a, Reg.AIR_CAR_CFG2 a, Reg.AIR_CAR_CFG3 a, Reg.AIR_CAR_OFFSET a, Reg.LDPC_CAR_CFG a,
    Reg.LDPC_CAR_LBRM a, Reg.LDPC_POOL_MASK, Reg.LDPC_ENG_OWNER]

/-- The slot of an order had begun before the boundary of the commit. -/
def State.begunBefore (s t : State) (a : Nat) (o : SlotOrd) : Bool :=
  let at0 := if s.atSlot t a then 0 else 1
  decide (o.start < s.now (s.carTb a) - s.slotPhase s a + at0)

/-- The slots that had begun keep the configuration they began under; a later one starts where its new configuration places it
(R262, R270). -/
def State.keepCfg (s t : State) (u : State) (a : Nat) : State :=
  if !s.carOn a || !(carRegs a).any fun r => s.changes t r then u
  else
    let old := (carRegs a).map fun r => (r, s.rr r)
    let upd : SlotOrd → SlotOrd := fun o =>
      if !s.begunBefore t a o then { o with start := t.slotStart a o.sfn o.slot }
      else if o.cfg = [] then { o with cfg := old }
      else o
    u.setCar a fun c => { c with orders := c.orders.map upd }

/-- What becomes of a carrier at a commit (R262, R285, R446). -/
def State.carLive (s t : State) (u : State) (a : Nat) : State :=
  let u := s.keepCfg t u a
  if t.carOn a then
    if !s.carOn a then (u.acquire a).slotCmp a
    else if s.carTb a != t.carTb a || s.carNum a != t.carNum a || s.rr (Reg.AIR_CAR_OFFSET a) != t.rr (Reg.AIR_CAR_OFFSET a) then u.slotCmp a
    else u
  else if s.carOn a then
    let late := (u.carOf a).orders.filter fun o => !s.begunBefore t a o
    let u := late.foldl (fun u o => (u.orderResult o St.timeout).dropOrder a o) u
    (u.wr (Reg.AIR_CAR_STAT a) 0).setCmp (24 + a) fun _ => Cmp.off
  else u

/-- A stream's descriptor is read again where the commit staged or changed it (R376); enabling starts its count of frames. -/
def State.strmLive (s : State) (vals : List (Nat × Word)) (u : State) (k : Nat) : State :=
  let b := Reg.SMP_ST_BIND k
  let touched := s.changes u b || s.changes u (Reg.SMP_ST_DOFF k) || vals.any fun v => v.1 == b || v.1 == Reg.SMP_ST_DOFF k
  if !touched then u
  else if !u.strmOn k then u.setStrm k fun x => { x with ref := none }
  else
    let d := u.descOf (u.strmLdg k) (u.strmDescAt k)
    let u := u.setStrm k fun x => { x with desc := d }
    if s.strmOn k then u else (u.setStrm k fun x => { x with ref := none }).wr (Reg.SMP_ST_FRAME k) 0

/-- A batch queue's descriptor is read again; a queue that becomes valid starts empty (R388). -/
def State.bqLive (s : State) (vals : List (Nat × Word)) (u : State) (l q : Nat) : State :=
  let a := Reg.SMP_BQ_DESC l q
  if !(s.changes u a || vals.any fun v => v.1 == a) then u
  else
    let d := if u.bqValid l q then u.descOf l (u.bqDescAt l q) else 0
    if s.bqValid l q && u.bqValid l q then u.setBq l q fun b => { b with desc := d }
    else u.setBq l q fun _ => { BatchQ.none with desc := d }

/-- CTL cycle of a Ledger's first snapshot after EN is set at a cycle: INTERVAL µs later, on an even cycle (R501). -/
def ledgFirst (cycle interval : Nat) : Nat := (cycle + 600 * interval + 1) / 2 * 2

/-- Effects of new values on the blocks that hold more than registers. -/
def State.blocksLive (s t : State) (vals : List (Nat × Word)) (u : State) : State :=
  let u := (List.range 16).foldl (fun u l =>
    let u := if t.bound l && !s.bound l then u.bindKeys l else u
    let u := if s.changes t (Reg.SEC_LDG_MODE l) then u.closeSess l else u
    let u := if s.changes t (Reg.MEM_SHARE l) || s.changes t (Reg.MEM_DEPTH l) then (u.fillBuckets l).pump l else u
    let u := if vals.any (fun v => v.1 == Reg.LEDG_LDG_DEST l) then (u.wr (Reg.LEDG_LDG_HEAD l) 0).wr (Reg.LEDG_LDG_TAIL l) 0 else u
    (List.range 4).foldl (fun u q => s.bqLive vals u l q) u) u
  let u := (List.range 64).foldl (fun u k => s.strmLive vals u k) u
  let u := (List.range 32).foldl (fun (u : State) k => if s.cmpValid k && !t.cmpValid k then u.setCmp k fun c => { c with armed := false } else u) u
  let u := (List.range 8).foldl (fun u a => s.carLive t u a) u
  let u := (List.range 2).foldl (fun (u : State) k =>
    let r := Reg.TB_SYNCE k
    u.sf r Fld.TB_SYNCE_SQUELCHED (if t.gf r Fld.TB_SYNCE_EN = 1 ∧ t.unlocked.contains (t.gf r Fld.TB_SYNCE_PORT) then 1 else 0)) u
  let u := (List.range 32).foldl (fun (u : State) c =>
    let r := Reg.TC_POOL_STAT c
    let u := if t.pooled c && !s.pooled c then u.sf r Fld.TC_POOL_STAT_HOLDER 0 else u
    let u := u.sf r Fld.TC_POOL_STAT_POOLED (if t.pooled c then 1 else 0)
    (List.range 4).foldl (fun (u : State) p => if s.partVal c p = t.partVal c p then u else u.wr (Reg.TC_DEFICIT c p) 0) u) u
  let u := (List.range 4).foldl (fun (u : State) k =>
    if t.linkEn k && !s.linkEn k then u.linkStart k else if s.linkEn k && !t.linkEn k then u.linkStop k else u) u
  if t.gf Reg.LEDG_CFG Fld.LEDG_CFG_EN = 1 ∧ s.gf Reg.LEDG_CFG Fld.LEDG_CFG_EN = 0 then
    { u.wr Reg.LEDG_SEQ 0 with ledgDue := ledgFirst u.cycle (t.gf Reg.LEDG_CFG Fld.LEDG_CFG_INTERVAL), ledgGap := 0 }
  else u

/-- The lodgings that give up what their running waybills use yield: YIELD_OBJ is signalled once (R425). -/
def State.yields (s : State) (rs : List Release) : State :=
  (List.range 16).foldl (fun s l =>
    if (rs.any fun r => r.from_ == l && r.wb.isSome) && (s.lodgeOf l).yieldAt.isNone then
      match (s.lodgeOf l).run with
      | some w =>
        let s := match w.yieldObj with
          | some o => s.signal o 1
          | none => s
        s.setLodge l fun g => { g with yieldAt := some s.cycle }
      | none => s
    else s) s

/-- Resources that no lodging held and a lodging gets are cleared (R401): dedicated cores, partitions, Iambel cores, sync
blocks, WING and HALL granules. -/
def State.clearEntering (s t : State) (vals : List (Nat × Word)) (u : State) : State :=
  let ded (x : State) (c : Nat) : Bool := (List.range 16).any fun l => x.dedicated l c
  let cores := (List.range 32).flatMap fun c => if ded t c && !ded s c then [(c, 4)] else []
  let parts := (List.range 32).flatMap fun c => (List.range 4).flatMap fun p =>
    match t.partVal c p with
    | some v => if s.partVal c p = some v then [] else [(c, p)]
    | none => []
  let u := { u with stg := { u.stg with enter := u.stg.enter ++ cores ++ parts } }.enterCores
  let u := (List.range 16).foldl (fun (u : State) n =>
    if (s.ibcBound n).isNone && (t.ibcBound n).isSome && (u.heldFor (.iambel n)).isNone then
      u.clearRes ⟨.iambel n, 0, none, [], 0, 0, (0, 0), (0, 0), vals.filter fun v => blockOf v.1 == 0x30 + n⟩ else u) u
  let u := (List.range 64).foldl (fun (u : State) k =>
    if (s.syncBound (64 * k)).isNone && (t.syncBound (64 * k)).isSome && (u.heldFor (.sync k)).isNone then u.clearBlock k else u) u
  (List.range 16).foldl (fun (u : State) l => (t.granules l).foldl (fun (u : State) a =>
    let old := tget (fun _ => 0) u.cover (a / 65536)
    let u := { u with cover := tput (fun _ => 0) u.cover (a / 65536) (l + 1) }
    if old = l + 1 ∨ (u.heldFor (.granule a)).isSome then u else u.clearGranule a) u) u

/-- Staged values, or a direct write in the window of R20, become live: what leaves a lodging is held or cleared. -/
def State.makeLive (s : State) (vals : List (Nat × Word)) : State :=
  let apply_ (s : State) : State := vals.foldl (fun t (off, v) => t.wr off (mergeBits (t.rr off) v (rwlMask off))) s
  let t0 := apply_ { s with stg := { s.stg with releases := [] } }
  let s := (List.range 16).foldl (fun x l => if s.bound l && !t0.bound l then x.unbind l else x) s
  let old := { s with stg := { s.stg with releases := [] } }
  let t := apply_ old
  let rs := ((old.leaving t).filter fun x => (s.heldFor x.1).isNone).map fun x => old.releaseOf t vals x.1 x.2
  let (free, held) := rs.partition Release.free
  let u := s.yields held
  let u := apply_ { u with stg := { u.stg with releases := u.stg.releases ++ held } }
  let u := free.foldl (fun u r => u.clearRes r) u
  let u := old.clearEntering t vals u
  (old.blocksLive t vals u).showReleasing

/-- The instant of a commit: every staged value becomes live, the staging closes (R20, R424). -/
def State.applyCommit (s : State) : State :=
  let s := s.makeLive s.stg.vals
  let s := (s.wr Reg.STG_SEQ (s.rr Reg.STG_SEQ + 1)).stgFail 0
  let s := s.stgClose.stgEnd St.ok
  { s.setFlag Reg.STG_FLAG 0 with stg := { s.stg with closed := true } }

/-- A commit fails its check (R424): OPEN again, REFUSED. -/
def State.refuseCommit (s : State) (st reg : Nat) : State :=
  (((s.stgFail reg).stgGo 1).stgEnd st).setFlag Reg.STG_FLAG 1

/-! ### The operations -/

/-- OP BEGIN (R420). -/
def State.opBegin (s : State) (who : Requester) : State :=
  if s.stgSt ≠ 0 then s.stgEnd St.busy
  else ((s.stgGo 1).sf Reg.STG_STAT Fld.STG_STAT_OWNER (ownerCode who)).stgEnd St.ok

/-- OP CHECK (R422, R424). -/
def State.opCheck (s : State) : State :=
  if s.stgSt = 0 then s.stgEnd St.state
  else if s.stgSt ≠ 1 then s.stgEnd St.busy
  else
    let (s, st, reg) := s.stgCheck false
    ((s.stgFail reg).stgGo 1).stgEnd st

/-- OP COMMIT (R424); a commit waits while the Innkeeper is halted (R638). -/
def State.opCommit (s : State) : State :=
  if s.stgSt = 0 then s.stgEnd St.state
  else if s.stgSt ≠ 1 then s.stgEnd St.busy
  else
    let (s, st, reg) := s.stgCheck true
    if st ≠ St.ok then s.refuseCommit st reg
    else if s.gf Reg.STG_WHEN Fld.STG_WHEN_MODE = 0 ∧ !s.innHalt then s.applyCommit
    else ((s.stgFail 0).stgGo 3).sf Reg.STG_STAT Fld.STG_STAT_STATUS St.busy

/-- OP ABANDON (R421). -/
def State.opAbandon (s : State) : State := if s.stgSt = 0 then s.stgEnd St.state else s.stgClose.stgEnd St.ok

/-- BEGIN (R420). -/
def execBeginStg (who : Requester) (s : State) : Host.Outcome State Fault Refusal := .next (s.asStager who fun s => s.opBegin who)
/-- CHECK (R422). -/
def execCheckStg (who : Requester) (s : State) : Host.Outcome State Fault Refusal := .next (s.asStager who State.opCheck)
/-- COMMIT (R424). -/
def execCommitStg (who : Requester) (s : State) : Host.Outcome State Fault Refusal := .next (s.asStager who State.opCommit)
/-- ABANDON (R421). -/
def execAbandonStg (who : Requester) (s : State) : Host.Outcome State Fault Refusal := .next (s.asStager who State.opAbandon)

/-- The instant of R423 has come. -/
def State.instant (s : State) : Bool :=
  if s.gf Reg.STG_WHEN Fld.STG_WHEN_MODE = 0 then true
  else if s.gf Reg.STG_WHEN Fld.STG_WHEN_MODE = 1 then decide (s.stgTime ≤ s.now (s.gf Reg.STG_WHEN Fld.STG_WHEN_TB))
  else s.stgCars.all fun a => s.atSlot s.overlay a

/-- COMMIT_INSTANT (R424): a pending commit whose first check ended 100 µs or more before is checked again; what passes
becomes live. -/
def execCommitInstant (s : State) : Host.Outcome State Fault Refusal :=
  if s.stgSt ≠ 3 || s.innHalt || !s.instant then .next s
  else if s.cycle < s.stg.at_ + 60000 then .next s.applyCommit
  else
    let (s, st, reg) := s.stgCheck false
    .next (if st = St.ok then s.applyCommit else s.refuseCommit st reg)

/-- AUTO_ABANDON (R421): a staging left OPEN for 1 s. -/
def execAutoAbandon (s : State) : Host.Outcome State Fault Refusal :=
  .next (if s.stgSt == 1 && decide (s.stg.at_ + 600000000 ≤ s.cycle) then s.stgClose.setFlag Reg.STG_FLAG 3 else s)

/-- RESOURCE_RELEASE (R425): a held resource whose carriers' deadlines have passed and whose waybill has ended is cleared
and may be used by its new lodging; the last one sets RELEASED. -/
def execResourceRelease (i : Nat) (s : State) : Host.Outcome State Fault Refusal :=
  match s.stg.releases[i]? with
  | none => .next s
  | some r =>
    let carried := r.car.any fun (tb, t) => decide (s.now tb < t)
    let used := match r.wb, (s.lodgeOf r.from_).run with
      | some n, some w => w.no == n
      | _, _ => false
    if carried || used || s.innHalt then .next s
    else
      let s := ({ s with stg := { s.stg with releases := s.stg.releases.eraseIdx i } }.clearRes r).enterCores
      .next ((s.showReleasing).setFlagIf s.stg.releases.isEmpty Reg.STG_FLAG 2)

/-- YIELD_LIMIT_EXPIRY (R425): a lodging that has not yielded within LDG.YIELD.LIMIT µs of the instant. -/
def execYieldLimitExpiry (l : Fin 16) (s : State) : Host.Outcome State Fault Refusal :=
  match (s.lodgeOf l.val).yieldAt with
  | some t =>
    .next (if t + 600 * s.gf (Reg.LDG_YIELD l.val) Fld.LDG_YIELD_LIMIT ≤ s.cycle && !s.innHalt then
      (s.teardown l.val 4 0xFF 0xFF 0 St.timeout).setFlag Reg.LDG_FLAG 2 (some l.val) else s)
  | none => .next s

end Sys2Proof.Machine
end

