-- ==== Sys2Proof/Machine/Control.lean ====
section
/-! DEFINITION. Control and synchronisation commands of the streams (R99), and the completion-ring HEAD (R128). -/
namespace Sys2Proof.Machine
open Sys2Proof

/-- The OBJ field of WAIT, SIGNAL and ARM. -/
def cObj (w : CmdWord) : Nat := cbits w 105 94
/-- The THRESH or N field. -/
def cVal (w : CmdWord) : Nat := cbits w 93 62

/-- NOP (R99): completes at issue. An opcode that R93 leaves reserved is decoded here and rejected with FORMAT (R91). -/
def execNop (c : Fin 32) (sl : Slot) (w : CmdWord) (s : State) : Host.Outcome State Fault Refusal :=
  decodeRow c sl w (cOp w == 0x00 || !assignedOps.contains (cOp w)) s fun x seq s =>
    s.complete x w seq (pick (s.baseChecks x w ++ [(cOp w != 0x00, St.format), headerOnly w]))

/-- Checks of a command that names OBJ (R90, R91). -/
def State.objChecks (s : State) (x : Ctx) (w : CmdWord) : List (Bool × Nat) :=
  s.baseChecks x w ++ [(s.badObj x (cObj w), St.permission), resv w 61 0]

/-- WAIT (R99, R454): completes when the count is at least THRESH; until then the slot issues nothing. -/
def execWait (c : Fin 32) (sl : Slot) (w : CmdWord) (s : State) : Host.Outcome State Fault Refusal :=
  decodeRow c sl w (cOp w == 0x01) s fun x seq s =>
    let st := pick (s.objChecks x w)
    if st = St.ok ∧ s.syncCount (cObj w) < cVal w then
      s.setSlot x.c x.p x.sl fun t =>
        { t with
          wait := .obj (cObj w) (cVal w) seq w
          st := if t.st = 1 then 2 else t.st
          claimed := t.claimed + (if cCpl w then 1 else 0) }
    else s.complete x w seq st

/-- WAIT_SATISFIED (R99, R458): a waiting WAIT completes once its object's count is at least THRESH. -/
def execWaitSatisfied (c : Fin 32) (p : Fin 4) (sl : Slot) (s : State) : Host.Outcome State Fault Refusal :=
  let t := s.slotOf c.val p.val sl
  match t.wait with
  | .obj o th seq w =>
    if t.st ≠ 4 ∧ th ≤ s.syncCount o then
      let x : Ctx := ⟨c.val, p.val, t.ldg, sl⟩
      let s := s.setSlot x.c x.p x.sl fun t => { t with wait := .none, st := if t.st = 2 then 1 else t.st }
      let s := s.event 3 0x3001 (s.syncHolder o)
      .next (s.finish x w seq St.ok 0 0 (cCpl w) false)
    else .next s
  | _ => .next s

/-- SIGNAL (R99, R454): adds N to the object's count at issue. -/
def execSignal (c : Fin 32) (sl : Slot) (w : CmdWord) (s : State) : Host.Outcome State Fault Refusal :=
  decodeRow c sl w (cOp w == 0x02) s fun x seq s =>
    let st := pick (s.objChecks x w)
    let s := if st = St.ok then s.signal (cObj w) (cVal w) else s
    s.complete x w seq st

/-- ARM (R99, R454, R456): sets the object's armed threshold at issue. -/
def execArm (c : Fin 32) (sl : Slot) (w : CmdWord) (s : State) : Host.Outcome State Fault Refusal :=
  decodeRow c sl w (cOp w == 0x03) s fun x seq s =>
    let st := pick (s.objChecks x w)
    let s := if st = St.ok then s.arm (cObj w) (cVal w) else s
    s.complete x w seq st

/-- FENCE (R99). -/
def execFence (c : Fin 32) (sl : Slot) (w : CmdWord) (s : State) : Host.Outcome State Fault Refusal :=
  decodeRow c sl w (cOp w == 0x04) s fun x seq s =>
    let st := pick (s.baseChecks x w ++ [headerOnly w])
    if st = St.ok then s.issueDrain x seq w else s.complete x w seq st

/-- END (R99): completes as FENCE, writes a record whatever CPL says, and ends the slot's stream. -/
def execEndStream (c : Fin 32) (sl : Slot) (w : CmdWord) (s : State) : Host.Outcome State Fault Refusal :=
  decodeRow c sl w (cOp w == 0x05) s fun x seq s =>
    let st := pick (s.baseChecks x w ++ [headerOnly w])
    if st = St.ok then s.issueDrain x seq w else s.complete x w seq st

/-- MARK (R99): completes as FENCE and writes a record carrying TAG, whatever CPL says. -/
def execMark (c : Fin 32) (sl : Slot) (w : CmdWord) (s : State) : Host.Outcome State Fault Refusal :=
  decodeRow c sl w (cOp w == 0x06) s fun x seq s =>
    let st := pick (s.baseChecks x w ++ [resv w 73 0])
    if st = St.ok then s.issueDrain x seq w else s.complete x w seq st

/-- A write of a slot's HEAD (R97, R128). -/
def State.cringHead (s : State) (c : Nat) (sl : Slot) (v : Nat) : State :=
  s.setSlot c (s.curPart c) sl fun t =>
    let t := { t with head := v }
    if t.stalled && decide (2 ≤ t.ringFree) then
      { t with stalled := false, st := if t.st = 2 ∧ t.wait = .none then 1 else t.st }
    else t

/-- CRING_HEAD_WRITE (R97, R128): HEAD is held as written; entries before it are free, and a slot stalled for want of
an entry goes on once one is free. -/
def execCringHeadWrite (who : Requester) (c : Fin 32) (sl : Slot) (v : Word) (s : State) :
    Host.Outcome State Fault Refusal :=
  .next (s.asWrite who (Reg.TC_SLOT_CRING c.val sl.idx) fun s => s.cringHead c.val sl (getF v Fld.TC_SLOT_CRING_HEAD))

end Sys2Proof.Machine
end

