-- ==== Sys2Proof/Machine/TcDebug.lean ====
section
/-! DEFINITION. The debug port's halts of tensor-core slots (R637), of the control processors (R638), and their release when
a grant ends (R640). -/
namespace Sys2Proof.Machine
open Sys2Proof

/-- BRK (R637): completes at issue as NOP; with the slot's BRK_EN set the slot then halts at the command boundary. -/
def execBrk (c : Fin 32) (sl : Slot) (w : CmdWord) (s : State) : Host.Outcome State Fault Refusal :=
  decodeRow c sl w (cOp w == 0xF0) s fun x seq s =>
    let s := s.complete x w seq (pick (s.baseChecks x w ++ [headerOnly w]))
    let en := s.gf (Reg.DBG_TC_CTL x.c) (match x.sl with
      | .a => Fld.DBG_TC_CTL_A_BRK_EN
      | .b => Fld.DBG_TC_CTL_B_BRK_EN)
    if en = 1 ∧ (s.slotOf x.c x.p x.sl).st = 1 then s.haltSlot x 5 else s

/-- The lodging whose slot the debug port names: the one whose stream the core serves now, else the lodging that holds the
core. -/
def State.slotLdg (s : State) (c : Nat) (sl : Slot) : Option Nat :=
  let t := s.slotOf c (s.curPart c) sl
  if t.active then some t.ldg else s.tcHolder c

/-- A halt request (R637). The status of the access. -/
def State.dbgTcHalt (s : State) (c : Nat) (sl : Slot) : State × Nat :=
  let t := s.slotOf c (s.curPart c) sl
  if !s.grants 1 (s.slotLdg c sl) then (s, St.permission)
  else if t.active && (t.st == 1 || t.st == 2) then (s.haltSlot (s.ctx c sl) 1, St.ok)
  else (s, St.ok)

/-- STATE of a slot that leaves HALTED: IDLE after END, WAITING in a WAIT, a drain or a full ring, else RUN (R637). -/
def TcSlot.free (t : TcSlot) : Nat := if t.ended then 0 else if t.stalled || t.wait != .none then 2 else 1

/-- STEP (R637): exactly one command, then the slot halts again. -/
def State.dbgTcStep (s : State) (c : Nat) (sl : Slot) : State × Nat :=
  let p := s.curPart c
  let t := s.slotOf c p sl
  if !s.grants 1 (s.slotLdg c sl) then (s, St.permission)
  else if t.st ≠ 4 then (s, St.state)
  else (s.setSlot c p sl fun t => { t with st := t.free, skipSeq := true, step := true }, St.ok)

/-- Let a halted slot run on (R637, R639). -/
def State.tcFree (s : State) (c p : Nat) (sl : Slot) : State :=
  let l := (s.slotOf c p sl).ldg
  (s.setSlot c p sl fun t => { t with st := t.free, skipSeq := true, step := false }).leaveDebug l

/-- RESUME (R637). -/
def State.dbgTcResume (s : State) (c : Nat) (sl : Slot) : State × Nat :=
  let p := s.curPart c
  if !s.grants 1 (s.slotLdg c sl) then (s, St.permission)
  else if (s.slotOf c p sl).st ≠ 4 then (s, St.state)
  else (s.tcFree c p sl, St.ok)

/-- TC_HALT (R637). -/
def execTcHalt (c : Fin 32) (sl : Slot) (s : State) : Host.Outcome State Fault Refusal := .next (accEnd (s.dbgTcHalt c.val sl))
/-- TC_STEP (R637). -/
def execTcStep (c : Fin 32) (sl : Slot) (s : State) : Host.Outcome State Fault Refusal := .next (accEnd (s.dbgTcStep c.val sl))
/-- TC_RESUME (R637). -/
def execTcResume (c : Fin 32) (sl : Slot) (s : State) : Host.Outcome State Fault Refusal :=
  .next (accEnd (s.dbgTcResume c.val sl))

/-- SCOPE bit of a control processor: 3 the Innkeeper, 4 the Porter (R632, R638). -/
def State.grantsCp (s : State) (porter : Bool) : Bool :=
  match s.grant with
  | some (sc, _) => sc.testBit (if porter then 4 else 3)
  | none => false

/-- CONTROL_PROCESSOR_HALT (R638): the Innkeeper's pair together, or the Porter. HALTED is set. -/
def execControlProcessorHalt (porter : Bool) (s : State) : Host.Outcome State Fault Refusal :=
  if !s.grantsCp porter then .next (accEnd (s, St.permission))
  else if porter then .next (if s.porterHalt then s else { s.setFlag Reg.DBG_FLAG 0 with porterHalt := true })
  else .next (if s.innHalt then s else { s.setFlag Reg.DBG_FLAG 0 with innHalt := true })

/-- CONTROL_PROCESSOR_STEP (R638): a halted processor runs one instruction of its firmware, whose effect the spec gives only
through its requests, and halts again; STATE for one that is not halted. -/
def execControlProcessorStep (porter : Bool) (s : State) : Host.Outcome State Fault Refusal :=
  if !s.grantsCp porter then .next (accEnd (s, St.permission))
  else if if porter then s.porterHalt else s.innHalt then .next (s.setFlag Reg.DBG_FLAG 0)
  else .next (accEnd (s, St.state))

/-- Every breakpoint, watchpoint, SEQ match and BRK_EN cleared (R640). -/
def State.clearBreaks (s : State) : State :=
  let s := (List.range 16).foldl (fun (s : State) n =>
    let s := s.sf (Reg.DBG_IBC_CTL n) Fld.DBG_IBC_CTL_BRK_EN 0
    let s := (List.range 8).foldl (fun (s : State) k => s.wr (Reg.DBG_IBC_BP n k) 0) s
    (List.range 4).foldl (fun (s : State) k =>
      (s.wr (Reg.DBG_IBC_WP n k) 0).wr (Reg.DBG_IBC_WM n k) (RegMap.reset (Reg.DBG_IBC_WM n k))) s) s
  (List.range 32).foldl (fun (s : State) c => ((s.wr (Reg.DBG_TC_CTL c) 0).wr (Reg.DBG_TC_SEQA c) 0).wr (Reg.DBG_TC_SEQB c) 0) s

/-- A grant ends (R640): every halted unit resumes, every break is cleared, REVOKED is set. -/
def State.endGrant (s : State) : State :=
  match s.grant with
  | none => s
  | some _ =>
    let s := ({ s with grant := none, innHalt := false, porterHalt := false }).sf Reg.SEC_LC Fld.SEC_LC_DBG_ACTIVE 0
    let s := s.clearBreaks
    let s := (List.range 16).foldl (fun s n => if (s.ibcOf n).st = 5 then s.ibFree n else s) s
    let s := (List.range 32).foldl (fun s c => (List.range 4).foldl (fun s p =>
      let go (s : State) (sl : Slot) : State := if (s.slotOf c p sl).st = 4 then s.tcFree c p sl else s
      go (go s .a) .b) s) s
    s.setFlag Reg.DBG_FLAG 4

end Sys2Proof.Machine
end

