-- ==== Sys2Proof/Machine/Sec.lean ====
section
/-! DEFINITION. The Porter (spec/16): its mailboxes (R540, R542), attestation certificates (R531 to R534), host sessions (R528),
key rotation and the sweep (R520 to R522), debug authentication and lifecycle (R535 to R538). A request is served in the
step that writes it. -/
namespace Sys2Proof.Machine
open Sys2Proof

/-! ### Bytes and DER -/

/-- n bytes of a number, least significant first; most significant first. -/
def bytesLE (n v : Nat) : List Byte := (List.range n).map fun i => BitVec.ofNat 8 (v / 256 ^ i)
def bytesBE (n v : Nat) : List Byte := (bytesLE n v).reverse
/-- A number from bytes, least significant first. -/
def ofBytes (bs : List Byte) : Nat := bs.foldr (fun b v => b.toNat + 256 * v) 0

/-- ASCII bytes of a string. -/
def ascii (x : String) : List Byte := x.toList.map fun c => BitVec.ofNat 8 c.toNat

/-- DER length octets. -/
def derLen (n : Nat) : List Byte := if n < 128 then [BitVec.ofNat 8 n] else if n < 256 then [0x81, BitVec.ofNat 8 n] else 0x82 :: bytesBE 2 n
/-- A DER element. -/
def der (tag : Byte) (body : List Byte) : List Byte := tag :: (derLen body.length ++ body)
/-- A DER SEQUENCE. -/
def derSeq (xs : List (List Byte)) : List Byte := der 0x30 xs.flatten
/-- Octets a nonnegative number needs as a DER INTEGER. -/
def intOctets (v : Nat) : Nat := if v = 0 then 1 else Nat.log2 v / 8 + 1 + (if Nat.log2 v % 8 = 7 then 1 else 0)
/-- A DER INTEGER of a nonnegative number. -/
def derNat (v : Nat) : List Byte := der 0x02 (bytesBE (intOctets v) v)
/-- A DER OCTET STRING. -/
def derOct (bs : List Byte) : List Byte := der 0x04 bs

/-- Object identifiers: ecdsa-with-SHA384, commonName, id-ecPublicKey, secp384r1, the lifecycle extension (R531). -/
def oidSig : List Byte := der 0x06 [0x2A, 0x86, 0x48, 0xCE, 0x3D, 0x04, 0x03, 0x03]
def oidName : List Byte := der 0x06 [0x55, 0x04, 0x03]
def oidKey : List Byte := der 0x06 [0x2A, 0x86, 0x48, 0xCE, 0x3D, 0x02, 0x01]
def oidCurve : List Byte := der 0x06 [0x2B, 0x81, 0x04, 0x00, 0x22]
def oidLife : List Byte := der 0x06 [0x2B, 0x06, 0x01, 0x04, 0x01, 0x83, 0xEB, 0x42, 0x10, 0x01]

/-- SHA-384 as 48 bytes. -/
def sha (bs : List Byte) : List Byte := bytesBE 48 (Config.sha384 bs).toNat
/-- The identity public key, and SHA-384 of it. -/
def idKey : List Byte := bytesBE 97 Config.identityKey.toNat
def idDigest : List Byte := sha idKey

/-- An upper-case hexadecimal digit. -/
def hexDigit (n : Nat) : Byte := BitVec.ofNat 8 (if n < 10 then 48 + n else 55 + n)
/-- The commonName of the issuer and subject (R531). -/
def derName : List Byte :=
  let hex := (idDigest.take 16).flatMap fun b => [hexDigit (b.toNat / 16), hexDigit (b.toNat % 16)]
  derSeq [der 0x31 (derSeq [oidName, der 0x0C (ascii "ZK960 " ++ hex)])]

/-! ### The configuration digest (R533) -/

/-- Registers of a lodging's digest, in order. -/
def State.digestRegs (s : State) (l : Nat) : List Nat :=
  [Reg.LDG_CFG l, Reg.LDG_CORES l, Reg.LDG_POOLED l, Reg.LDG_IAMBEL l, Reg.LDG_SYNC_LO l, Reg.LDG_SYNC_HI l, Reg.LDG_QUOTA l,
    Reg.LDG_SHARE l, Reg.LDG_YIELD l] ++
    ((List.range 64).flatMap fun i => [Reg.LDG_REGION0 l i, Reg.LDG_REGION1 l i, Reg.LDG_REGION2 l i, Reg.LDG_REGION3 l i]) ++
    [Reg.MEM_SHARE l, Reg.MEM_DEPTH l, Reg.SEC_LDG_MODE l] ++
    ((List.range 32).flatMap fun c => ((List.range 4).filter fun p =>
      s.gf (Reg.TC_PART c p) Fld.TC_PART_VALID == 1 && s.gf (Reg.TC_PART c p) Fld.TC_PART_LODGING == l).map fun p => Reg.TC_PART c p) ++
    ((List.range 8).filter fun a => s.serves l a).flatMap fun a =>
      [Reg.AIR_CAR_CFG0 a, Reg.AIR_CAR_CFG1 a, Reg.AIR_CAR_CFG2 a, Reg.AIR_CAR_CFG3 a]

/-- Digest of a lodging, of the device. -/
def State.ldgDigest (s : State) (l : Nat) : List Byte := sha ((s.digestRegs l).flatMap fun r => bytesLE 4 (s.rr r).toNat)
def State.devDigest (s : State) : List Byte := sha ((List.range 16).flatMap fun l => s.ldgDigest l)

/-! ### Certificates (R531, R532, R534) -/

/-- A firmware update is in progress (R534). -/
def State.updating (s : State) : Bool := s.fwNew.isSome

/-- SHA-384 of a processor's committed firmware: 0 Innkeeper, 1 Porter, 2 Steward. -/
def State.fwDigest (s : State) (k : Nat) : List Byte := bytesBE 48 (tget (fun _ => 0) s.fw k)

/-- The lifecycle extension: none for device scope, else a lodging; the nonce. -/
def State.lifeExt (s : State) (scope : Option Nat) (nonce : List Byte) : List Byte :=
  let bit (b : Bool) (i : Nat) : Nat := if b then 2 ^ i else 0
  let conf := match scope with
    | some l => s.conf l
    | none => false
  let flags := bit s.updating 7 + bit (s.gf Reg.SEC_LC Fld.SEC_LC_DBG_SINCE_START == 1) 6 + bit conf 5
  derSeq
    [derNat 1, derNat 176, der 0x0A [BitVec.ofNat 8 (s.gf Reg.SEC_LC Fld.SEC_LC_STATE)], derNat (s.gf Reg.SEC_LC Fld.SEC_LC_SVN),
      der 0x03 [5, BitVec.ofNat 8 flags],
      (match scope with
       | some l => derNat l
       | none => der 0x02 [0xFF]),
      derOct nonce, derOct (s.fwDigest 0), derOct (s.fwDigest 1), derOct (s.fwDigest 2),
      derOct (match s.fwNew with
        | some (_, d) => bytesBE 48 d
        | none => []),
      derOct (bytesBE 48 s.quoxel),
      derOct (match scope with
        | some l => s.ldgDigest l
        | none => s.devDigest),
      derNat (s.rr Reg.STG_SEQ).toNat]

/-- The part of a certificate that is signed. -/
def State.tbsCert (s : State) (serial : Nat) (scope : Option Nat) (nonce : List Byte) : List Byte :=
  derSeq
    [der 0xA0 (derNat 2), derNat serial, derSeq [oidSig], derName,
      derSeq [der 0x18 (ascii "19700101000000Z"), der 0x18 (ascii "99991231235959Z")], derName,
      derSeq [derSeq [oidKey, oidCurve], der 0x03 (0 :: idKey)],
      der 0xA3 (derSeq [derSeq [oidLife, derOct (s.lifeExt scope nonce)]])]

/-- A signature by the identity key, as DER. -/
def derSig (msg : List Byte) (draw : Nat) : List Byte :=
  let v := (Config.ecdsa msg draw).toNat
  derSeq [derNat (v / 2 ^ 384), derNat (v % 2 ^ 384)]

/-- Issue an attestation certificate (R531). -/
def State.certify (s : State) (scope : Option Nat) (nonce : List Byte) : State × List Byte :=
  let n := s.attests + 1
  let (d, s) := ({ s with attests := n }).draw
  let tbs := s.tbsCert n scope nonce
  (s, derSeq [tbs, derSeq [oidSig], der 0x03 (0 :: derSig tbs d)])

/-! ### The mailbox (R540, R542) -/

/-- A byte of a requester's window. -/
def State.mb (s : State) (who : Requester) (o : Nat) : Byte := tget (fun _ => 0) s.mbData (4096 * reqIx who + o)
/-- n bytes of a requester's window. -/
def State.mbBytes (s : State) (who : Requester) (o n : Nat) : List Byte := (List.range n).map fun i => s.mb who (o + i)

/-- Lodging a request counts for. -/
def mbLdg : Requester → Option Nat
  | .vf l => some l.val
  | _ => none

/-- The message of a mailbox answer (R583): vector 3 of the PF, 2 of a VF. -/
def State.mbMsg (s : State) : Requester → State
  | .pf => s.msg 0 3
  | .vf l => s.msg (1 + l.val) 2
  | _ => s

/-- A request ends: its status, and its answer in the window. -/
def State.mbEnd (s : State) (who : Requester) (st : Nat) (ans : List Byte) : State :=
  let ans := ans.take 4096
  let s := { s with
    mbData := tputN (fun _ => 0) (fun i => ans.getD i 0) (4096 * reqIx who) ans.length s.mbData
    mbStat := tput (fun _ => 0) s.mbStat (reqIx who) (BitVec.ofNat 32 (st * 2 ^ 24 + ans.length)) }
  (s.countStatus 6 st (mbLdg who)).mbMsg who

/-- The Porter answers every mailbox with BUSY: the debug port has halted it (R638), or it restarts on new firmware (R477,
R534). -/
def State.porterBusy (s : State) : Bool :=
  s.porterHalt || match s.fwNew with
    | some (t, _) => t == 1
    | none => false

/-- A request of a requester the OP lists; PERMISSION for another (R540). -/
def State.mbReq (s : State) (who : Requester) (listed : Bool) (eff : State → State) : State :=
  if s.porterBusy then s.mbEnd who St.busy []
  else if !listed then s.mbEnd who St.permission []
  else eff s

/-- "Any" of R540: every PCIe function, the SMBus port and the debug port. -/
def mbAny : Requester → Bool
  | .ibc _ => false
  | .innkeeper => false
  | _ => true

/-- OP ATTEST (R531, R534). -/
def State.opAttest (s : State) (who : Requester) : State :=
  let scope := (s.mb who 0).toNat
  let n := (s.mb who 1).toNat
  let own := match who with
    | .vf l => scope == 0xFF || scope == l.val
    | _ => true
  let dev := scope == 0xFF
  let st := pick [(!own, St.permission), (decide (64 < n), St.bounds), (!dev && decide (16 ≤ scope), St.bounds),
    (!dev && decide (scope < 16) && !s.bound scope, St.notReady)]
  if st ≠ St.ok then s.mbEnd who st []
  else
    let (s, cert) := s.certify (if dev then none else some scope) (s.mbBytes who 16 n)
    s.mbEnd who St.ok cert

/-- OP ID_CERT (R512). -/
def State.opIdCert (s : State) (who : Requester) : State :=
  match (s.mb who 0).toNat with
  | 0 => s.mbEnd who St.ok Config.deviceCert
  | 1 => s.mbEnd who St.ok Config.linkCert
  | _ => s.mbEnd who St.bounds []

/-- OP SESSION_OPEN (R528). -/
def State.opSessionOpen (s : State) (who : Requester) (l : Nat) : State :=
  let q := s.mbBytes who 0 97
  let st := pick [(!Config.onCurve q, St.format), (!s.bound l, St.notReady), ((tget (fun _ => none) s.sess l).isSome, St.busy)]
  if st ≠ St.ok then s.mbEnd who st []
  else
    let nonce := sha (q ++ s.mbBytes who 128 32)
    let (d, s) := s.draw
    let s := { s.wr (Reg.SEC_SESS l) 1 with sess := tput (fun _ => none) s.sess l (some ⟨ofBytes q * 2 ^ 256 + d % 2 ^ 256, 0, 0, 0⟩) }
    let (s, cert) := s.certify (some l) nonce
    s.mbEnd who St.ok (bytesLE 32 d ++ (s.mbBytes who 32 32) ++ cert)

/-- Lodging that SESSION_CLOSE or ROTATE names: the function's own, or byte 0 from the host (R540). -/
def State.mbTarget (s : State) (who : Requester) : Option Nat :=
  match who with
  | .vf l => some l.val
  | .pf => if (s.mb who 0).toNat < 16 then some (s.mb who 0).toNat else none
  | _ => none

/-- OP ROTATE (R520, R522). -/
def State.opRotate (s : State) (who : Requester) (l : Nat) : State :=
  let used := tget (fun _ => 0) s.epochs l
  let st := pick [(!s.bound l, St.notReady), (s.oldLive l, St.busy)]
  let st := if st = St.ok ∧ 2 ^ 24 - 1 ≤ used then St.failed else st
  if st ≠ St.ok then s.mbEnd who st []
  else
    let cnt := s.rr (Reg.SEC_CNT_CUR l)
    let s := { s with epochs := tput (fun _ => 0) s.epochs l (used + 1) }
    let s := s.wr (Reg.SEC_EPOCH l) (BitVec.ofNat 32 (used + 1))
    let s := (s.wr (Reg.SEC_CNT_OLD l) cnt).wr (Reg.SEC_CNT_CUR l) 0
    let s := if cnt = 0 then s.setFlag Reg.SEC_FLAG 0 (some l)
      else (s.sf (Reg.SEC_EPOCH l) Fld.SEC_EPOCH_OLD_LIVE 1).sf (Reg.SEC_EPOCH l) Fld.SEC_EPOCH_SWEEP 1
    (s.setFlag Reg.SEC_FLAG 1 (some l)).mbEnd who St.ok (bytesLE 4 (used + 1))

/-! ### Debug authentication (R535, R536) and lifecycle (R537, R538) -/

/-- OP DBG_CHALLENGE (R535). -/
def State.opChallenge (s : State) (who : Requester) : State :=
  let (d, s) := s.draw
  let head := bytesLE 32 d ++ idDigest ++
    [BitVec.ofNat 8 (s.gf Reg.SEC_LC Fld.SEC_LC_STATE), 0xB0, 0, 0] ++ bytesLE 4 (s.gf Reg.SEC_LC Fld.SEC_LC_SVN)
  let c := head ++ List.replicate (128 - head.length) 0
  { s with chal := some (ofBytes c, s.cycle) }.mbEnd who St.ok c

/-- A response is refused: DBG_FAIL; the eighth in a row sets DBG_LOCK (R535). -/
def State.dbgRefuse (s : State) (who : Requester) (st : Nat) : State :=
  let n := s.dbgFails + 1
  let s := { s.setFlag Reg.SEC_FLAG 6 with dbgFails := n }
  let s := if n = 8 then { s.setFlag Reg.SEC_FLAG 7 with dbgLock := true } else s
  s.mbEnd who st []

/-- What the lifecycle state forbids a response (R536, R537). -/
def State.scopeBad (s : State) (scope ldgs : Nat) : Bool :=
  let lc := s.gf Reg.SEC_LC Fld.SEC_LC_STATE
  ((lc == 1 || lc == 2) && decide (8 ≤ scope % 32)) || (lc == 2 && (List.range 16).any fun l => ldgs.testBit l && s.conf l)

/-- OP DBG_RESPONSE (R535 to R537): a challenge serves once, and for 60 s. -/
def State.opResponse (s : State) (who : Requester) : State :=
  let lc := s.gf Reg.SEC_LC Fld.SEC_LC_STATE
  let body := s.mbBytes who 0 8
  let scope := ofBytes (body.take 4)
  let ldgs := ofBytes ((body.drop 4).take 2)
  let fresh := match s.chal with
    | some (c, at_) => decide (s.cycle ≤ at_ + 36000000000) &&
        Config.verify (if lc = 1 ∨ lc = 2 then 2 else 3) (sha (bytesLE 128 c ++ body)) (s.mbBytes who 8 96)
    | none => false
  let s := { s with chal := none }
  if s.dbgLock || !fresh then s.dbgRefuse who St.integrity
  else
    let st := pick [(s.scopeBad scope ldgs, St.permission), (decide (32 ≤ scope) || decide (ofBytes (body.drop 6) ≠ 0), St.format)]
    if st ≠ St.ok then s.dbgRefuse who st
    else
      let s := { s with grant := some (scope, ldgs), dbgFails := 0 }
      let s := (s.sf Reg.SEC_LC Fld.SEC_LC_DBG_ACTIVE 1).sf Reg.SEC_LC Fld.SEC_LC_DBG_SINCE_START 1
      (s.setFlag Reg.SEC_FLAG 5).mbEnd who St.ok []

/-- A transition of R538. -/
def lcStep (a b : Nat) : Bool := (a == 0 && b == 1) || (a == 1 && b == 2) || ((a == 1 || a == 2) && b == 3)

/-- OP LC_REQ (R538): the fuses are burned; the new state takes effect at the next start. -/
def State.opLcReq (s : State) (who : Requester) : State :=
  let tok := s.mbBytes who 0 4096
  let asked := Config.tokenTo tok
  if !lcStep s.fuses.1 asked then s.mbEnd who St.state []
  else if !Config.tokenOk s.fuses.1 tok then s.mbEnd who St.integrity []
  else { s with fuses := (asked, s.fuses.2) }.mbEnd who St.ok []

/-! ### The requests as writes of SEC.MB_CMD -/

/-- Whether a requester is the debug port, the host physical function. -/
def isDbg : Requester → Bool
  | .dbg => true
  | _ => false
def isPf : Requester → Bool
  | .pf => true
  | _ => false

/-- A write of OP to the requester's SEC.MB_CMD (R540): an unlisted OP returns FORMAT. -/
def State.mbCmd (s : State) (who : Requester) (op : Nat) : State :=
  match op with
  | 1 => s.mbReq who (mbAny who) fun s => s.opAttest who
  | 2 => s.mbReq who (mbAny who) fun s => s.opIdCert who
  | 3 => s.mbReq who (mbLdg who).isSome fun s => s.opSessionOpen who ((mbLdg who).getD 0)
  | 4 => s.mbReq who ((mbLdg who).isSome || isPf who) fun s => match s.mbTarget who with
      | some l => (s.closeSess l).mbEnd who St.ok []
      | none => s.mbEnd who St.bounds []
  | 5 => s.mbReq who ((mbLdg who).isSome || isPf who) fun s => match s.mbTarget who with
      | some l => s.opRotate who l
      | none => s.mbEnd who St.bounds []
  | 6 => s.mbReq who (isDbg who) fun s => s.opChallenge who
  | 7 => s.mbReq who (isDbg who) fun s => s.opResponse who
  | 8 => s.mbReq who (isDbg who || isPf who) fun s => s.endGrant.mbEnd who St.ok []
  | 9 => s.mbReq who (isDbg who || isPf who) fun s => s.opLcReq who
  | _ => s.mbReq who true fun s => s.mbEnd who St.format []

/-- A mailbox row. -/
def State.mailbox (s : State) (who : Requester) (op : Nat) : State := s.asWrite who Reg.SEC_MB_CMD fun s => s.mbCmd who op

/-- ATTEST (R531). -/
def execAttest (who : Requester) (s : State) : Host.Outcome State Fault Refusal := .next (s.mailbox who 1)
/-- ID_CERT (R540). -/
def execIdCert (who : Requester) (s : State) : Host.Outcome State Fault Refusal := .next (s.mailbox who 2)
/-- SESSION_OPEN (R528). -/
def execSessionOpen (who : Requester) (s : State) : Host.Outcome State Fault Refusal := .next (s.mailbox who 3)
/-- SESSION_CLOSE (R540). -/
def execSessionClose (who : Requester) (s : State) : Host.Outcome State Fault Refusal := .next (s.mailbox who 4)
/-- ROTATE (R520). -/
def execRotate (who : Requester) (s : State) : Host.Outcome State Fault Refusal := .next (s.mailbox who 5)
/-- DBG_CHALLENGE (R535). -/
def execDbgChallenge (who : Requester) (s : State) : Host.Outcome State Fault Refusal := .next (s.mailbox who 6)
/-- DBG_RESPONSE (R535). -/
def execDbgResponse (who : Requester) (s : State) : Host.Outcome State Fault Refusal := .next (s.mailbox who 7)
/-- DBG_REVOKE (R640). -/
def execDbgRevoke (who : Requester) (s : State) : Host.Outcome State Fault Refusal := .next (s.mailbox who 8)
/-- LC_REQ (R538). -/
def execLcReq (who : Requester) (s : State) : Host.Outcome State Fault Refusal := .next (s.mailbox who 9)

/-! ### The sweep (R521) -/

/-- SWEEP (R521): while any OLD epoch is live the sweep visits the next frame; one tagged with a live OLD epoch of its owner
is converted to CUR. -/
def execSweep (s : State) : Host.Outcome State Fault Refusal :=
  let n := s.tierBytes / 4096
  if s.porterHalt || n = 0 || !((List.range 16).any fun l => s.oldLive l) then .next s
  else
    let f := s.sweepAt % n
    let s := { s with sweepAt := (f + 1) % n }
    match s.tagLive f with
    | some (l, true) => .next (((s.retag l f).curMore l).oldLess l)
    | _ => .next s

end Sys2Proof.Machine
end

