-- ==== Sys2Proof/Machine/Ledger.lean ====
section
/-! DEFINITION. Counter access (R499, R500) and the Ledger (R501 to R505). -/
namespace Sys2Proof.Machine
open Sys2Proof

/-! ### Counter access -/

/-- A lodging's requester; the others' counter accesses are not its own matter (R499). -/
def isLodgings : Requester → Bool
  | .vf _ => true
  | .ibc _ => true
  | _ => false

/-- A refused counter access (R499). -/
def State.cntDenied (s : State) (who : Requester) : State := s.setFlag Reg.LEDG_FLAG 0 (s.reqLodging who)

/-- Whether a requester may read counter i of block b (R499); 8 stands for CNT_OVF. -/
def State.mayReadCnt (s : State) (who : Requester) (b i : Nat) : Bool :=
  if !isLodgings who then true
  else match s.reqLodging who with
    | some l => s.gf (Reg.LDG_CFG l) Fld.LDG_CFG_CNT_RD == 1 && (if i < 8 then s.ownCnt l b i else (List.range 8).any fun j => s.ownCnt l b j)
    | none => false

/-- A requester may write counters (R499). -/
def mayWriteCnt : Requester → Bool
  | .pf => true
  | .smbus => true
  | .dbg => true
  | _ => false

/-- A write of a counter register (R499). -/
def State.asCntWrite (s : State) (who : Requester) (off : Nat) (eff : State → State) : State :=
  if s.reach who off true then (if mayWriteCnt who then eff s else s.cntDenied who)
  else if isLodgings who then (s.deny who).cntDenied who
  else s.deny who

/-- A read of a counter register: 0 with DENIED when a lodging may not read it (R499). -/
def State.asCntRead (s : State) (who : Requester) (off b i : Nat) (eff : State → State × Word) : State × Word :=
  if s.reach who off false then (if s.mayReadCnt who b i then eff s else (s.cntDenied who, 0))
  else if isLodgings who then ((s.deny who).cntDenied who, 0)
  else (s.deny who, 0)

/-- A read of CNT_LO latches bits [47:32] for the requester (R500). -/
def State.readCntLo (s : State) (who : Requester) (b i : Nat) : State × Word :=
  let v := s.cntVal b i
  ({ s with cntLatch := tput (fun _ => 0) s.cntLatch (reqIx who * 2 ^ 24 + Reg.CNT_LO b i) (v / 2 ^ 32) }, BitVec.ofNat 32 v)

/-- A read of CNT_HI returns the latch (R500). -/
def State.readCntHi (s : State) (who : Requester) (b i : Nat) : Word :=
  BitVec.ofNat 32 (tget (fun _ => 0) s.cntLatch (reqIx who * 2 ^ 24 + Reg.CNT_LO b i))

/-- A write of CNT_LO is held pending (R500). -/
def State.writeCntLo (s : State) (b i v : Nat) : State :=
  { s with cntPend := tput (fun _ => none) s.cntPend (Reg.CNT_LO b i) (some v) }

/-- A write of CNT_HI loads the pending low word and the high word together (R500). -/
def State.writeCntHi (s : State) (b i hi : Nat) : State :=
  let lo := (tget (fun _ => none) s.cntPend (Reg.CNT_LO b i)).getD (s.rr (Reg.CNT_LO b i)).toNat
  { s.setCnt b i (lo + 2 ^ 32 * (hi % 2 ^ 16)) with cntPend := tput (fun _ => none) s.cntPend (Reg.CNT_LO b i) none }

/-- CNT_LO_READ (R500). -/
def execCntLoRead (who : Requester) (b : Fin 66) (i : Fin 8) (s : State) : Host.Outcome State Fault Refusal :=
  let (s, v) := s.asCntRead who (Reg.CNT_LO b.val i.val) b.val i.val fun s => s.readCntLo who b.val i.val
  .next (s.returns who v)

/-- CNT_LO_WRITE (R500). -/
def execCntLoWrite (who : Requester) (b : Fin 66) (i : Fin 8) (v : Word) (s : State) : Host.Outcome State Fault Refusal :=
  .next (s.asCntWrite who (Reg.CNT_LO b.val i.val) fun s => s.writeCntLo b.val i.val v.toNat)

/-- CNT_HI_WRITE (R500). -/
def execCntHiWrite (who : Requester) (b : Fin 66) (i : Fin 8) (v : Word) (s : State) : Host.Outcome State Fault Refusal :=
  .next (s.asCntWrite who (Reg.CNT_HI b.val i.val) fun s => s.writeCntHi b.val i.val v.toNat)

/-! ### Snapshots (R501 to R505) -/

/-- The entry of a counter, with its LODGING byte (R503). -/
def State.ledgEntry (s : State) (b i : Nat) : Nat × Nat :=
  let sel := Reg.CNT_SEL b i
  let l := if s.gf sel Fld.CNT_SEL_FILT = 1 then s.gf sel Fld.CNT_SEL_LODGING
    else (s.blockLdg b).getD 0xFF
  (s.cntVal b i + 2 ^ 48 * s.gf sel Fld.CNT_SEL_EVENT + 2 ^ 64 * (b % 256) + 2 ^ 72 * i + 2 ^ 80 * l +
    2 ^ 88 * (if s.rbit (Reg.CNT_OVF b) i then 1 else 0), l)

/-- The entries of a snapshot: every counter with SNAP and an event, in order. -/
def State.ledgEntries (s : State) : List (Nat × Nat) :=
  (List.range 66).flatMap fun b => ((List.range 8).filter fun i =>
    s.gf (Reg.CNT_SEL b i) Fld.CNT_SEL_SNAP == 1 && s.gf (Reg.CNT_SEL b i) Fld.CNT_SEL_EVENT != 0).map fun i => s.ledgEntry b i

/-- The 64-byte header of a record (R502). -/
def State.ledgHeader (s : State) (seq units nent gap : Nat) : Nat :=
  let tb := s.gf Reg.LEDG_CFG Fld.LEDG_CFG_TB
  let t := if (s.tbOf tb).running then s.now tb else 0
  1 + 2 ^ 16 * units + 2 ^ 32 * (seq % 2 ^ 32) + 2 ^ 64 * (s.cycle % 2 ^ 64) + 2 ^ 128 * (tSec t % 2 ^ 48) + 2 ^ 192 * tNs t +
    2 ^ 224 * tFrac t + 2 ^ 256 * nent + 2 ^ 272 * gap + 2 ^ 288 * s.gf Reg.LEDG_CFG Fld.LEDG_CFG_INTERVAL

/-- A record's units: the header and its entries, padded (R502). -/
def ledgUnits (nent : Nat) : Nat := 1 + cdiv nent 4

/-- Write a record into a ring of z units (R504): the new TAIL, none when there is no room. -/
def State.ringPut (s : State) (base z head tail seq gap : Nat) (es : List Nat) : Option (State × Nat) :=
  let u := ledgUnits es.length
  let pad := if z - tail < u then z - tail else 0
  let free := if head < z then (head + 2 * z - tail - 1) % z else 0
  if free < pad + u ∨ z ≤ tail then none
  else
    let s := if pad = 0 then s else s.wrLE (base + 64 * tail) 4 (2 + 2 ^ 16 * pad)
    let at_ := if pad = 0 then tail else 0
    let s := s.wrLE (base + 64 * at_) 64 (s.ledgHeader seq u es.length gap)
    let body := es.foldr (fun e acc => e + 2 ^ 128 * acc) 0
    let s := s.wrLE (base + 64 * at_ + 64) (64 * (u - 1)) body
    some (s.clearPoison (base + 64 * at_) (64 * u), (at_ + u) % z)

/-- The Ledger ring: base and units (R502). -/
def State.ledgRing (s : State) : Nat × Nat := (s.sysBase + 16 * 0x10000, 1024 * s.gf Reg.LEDG_CFG Fld.LEDG_CFG_RING_GRAN)

/-- GAP of a ring: bit l the copy ring of lodging l, bit 16 the Ledger ring. -/
def State.setGap (s : State) (i : Nat) (on : Bool) : State :=
  { s with ledgGap := s.ledgGap - (if s.ledgGap.testBit i then 2 ^ i else 0) + (if on then 2 ^ i else 0) }

/-- The record of a snapshot goes into the Ledger ring. -/
def State.ledgMain (s : State) (seq : Nat) (es : List Nat) : State :=
  let (base, z) := s.ledgRing
  let head := s.gf Reg.LEDG_RING_HEAD Fld.LEDG_RING_HEAD_HEAD
  let tail := s.gf Reg.LEDG_RING_TAIL Fld.LEDG_RING_TAIL_TAIL
  match s.ringPut base z head tail seq (if s.ledgGap.testBit 16 then 1 else 0) es with
  | some (s, t) => (s.sf Reg.LEDG_RING_TAIL Fld.LEDG_RING_TAIL_TAIL t).setGap 16 false
  | none => (s.setFlag Reg.LEDG_FLAG 2).setGap 16 true

/-- The record of a snapshot goes into a lodging's copy ring (R505). -/
def State.ledgCopy (s : State) (l seq : Nat) (es : List Nat) : State :=
  let d := Reg.LEDG_LDG_DEST l
  if s.gf d Fld.LEDG_LDG_DEST_VALID = 0 then s
  else
    let base := (s.region l (s.gf d Fld.LEDG_LDG_DEST_REG)).base + 64 * s.gf d Fld.LEDG_LDG_DEST_OFF
    let z := s.gf (Reg.LEDG_LDG_SIZE l) Fld.LEDG_LDG_SIZE_SIZE + 1
    let head := s.gf (Reg.LEDG_LDG_HEAD l) Fld.LEDG_LDG_HEAD_HEAD
    let tail := s.gf (Reg.LEDG_LDG_TAIL l) Fld.LEDG_LDG_TAIL_TAIL
    match s.ringPut base z head tail seq (if s.ledgGap.testBit l then 1 else 0) es with
    | some (s, t) => (s.sf (Reg.LEDG_LDG_TAIL l) Fld.LEDG_LDG_TAIL_TAIL t).setGap l false
    | none => (s.setFlag Reg.LEDG_FLAG 3 (some l)).setGap l true

/-- CTL cycles between snapshots. -/
def State.ledgPeriod (s : State) : Nat := 600 * s.gf Reg.LEDG_CFG Fld.LEDG_CFG_INTERVAL

/-- SNAPSHOT (R501): a snapshot that is due is taken; those that fell due before it and were not taken are skipped, with SKIP
and GAP. The first has number 0 (log 38). -/
def execSnapshot (s : State) : Host.Outcome State Fault Refusal :=
  if s.gf Reg.LEDG_CFG Fld.LEDG_CFG_EN = 0 ∨ s.cycle < s.ledgDue ∨ s.ledgPeriod = 0 then .next s
  else
    let missed := (s.cycle - s.ledgDue) / s.ledgPeriod
    let s := if missed = 0 then s else { s.setFlag Reg.LEDG_FLAG 1 with ledgGap := 2 ^ 17 - 1 }
    let seq := (s.rr Reg.LEDG_SEQ).toNat + missed
    let es := s.ledgEntries
    let s := { s.wr Reg.LEDG_SEQ (BitVec.ofNat 32 (seq + 1)) with ledgDue := s.ledgDue + (missed + 1) * s.ledgPeriod }
    let s := s.ledgMain seq (es.map fun e => e.1)
    .next ((List.range 16).foldl (fun s l => s.ledgCopy l seq ((es.filter fun e => e.2 == l).map fun e => e.1)) s)

end Sys2Proof.Machine
end

