-- ==== Sys2Proof/Machine/Ptp.lean ====
section
/-! DEFINITION. PTP frames (R449 to R452, R592) and SyncE (R453). -/
namespace Sys2Proof.Machine
open Sys2Proof

/-! ### Frames -/

/-- n bytes of a frame from an offset, most significant first. -/
def beAt (f : List Byte) (o n : Nat) : Nat := beNum ((f.drop o).take n)

/-- Bytes of a number, most significant first. -/
def beOut (n v : Nat) : List Byte := (List.range n).map fun i => BitVec.ofNat 8 (v / 256 ^ (n - 1 - i))

/-- Replace n bytes of a frame from an offset. -/
def bePut (f : List Byte) (o n v : Nat) : List Byte := f.take o ++ beOut n v ++ f.drop (o + n)

/-- The encapsulation of a PTP frame: 0 Ethernet, 4 or 6 UDP; where its IP header and its message begin. -/
structure Encap where
  kind : Nat
  ip : Nat
  msg : Nat

/-- Recognise a frame's encapsulation (R449), with none or one tag. -/
def encap (f : List Byte) : Option Encap :=
  let base := if beAt f 12 2 = 0x8100 then 18 else 14
  let ty := beAt f (base - 2) 2
  let dst := beAt f 0 6
  let ptpPort (o : Nat) : Bool := beAt f (o + 2) 2 == 319 || beAt f (o + 2) 2 == 320
  if ty = 0x88F7 then
    if dst = 0x011B19000000 ∨ dst = 0x0180C200000E then some ⟨0, base, base⟩ else none
  else if ty = 0x0800 then
    let u := base + 4 * (beAt f base 1 % 16)
    if beAt f (base + 9) 1 = 17 ∧ ptpPort u then some ⟨4, base, u + 8⟩ else none
  else if ty = 0x86DD then
    if beAt f (base + 6) 1 = 17 ∧ ptpPort (base + 40) then some ⟨6, base, base + 48⟩ else none
  else none

/-- A port recognises an encapsulation (R449, R464). -/
def State.ptpOn (s : State) (p : Nat) (e : Encap) : Bool :=
  let r := Reg.TB_PTP_CFG p
  s.gf r Fld.TB_PTP_CFG_EN == 1 &&
    (if e.kind = 0 then s.gf r Fld.TB_PTP_CFG_L2 else if e.kind = 4 then s.gf r Fld.TB_PTP_CFG_UDP4
     else s.gf r Fld.TB_PTP_CFG_UDP6) == 1

/-- messageType of a message. -/
def ptpType (f : List Byte) (e : Encap) : Nat := beAt f e.msg 1 % 16

/-- Add to correctionField, in 2⁻¹⁶ ns. -/
def addCorr (f : List Byte) (e : Encap) (d : Int) : List Byte :=
  bePut f (e.msg + 8) 8 (((beAt f (e.msg + 8) 8 : Nat) + d) % 2 ^ 64).toNat

/-- One's-complement sum of 16-bit words. -/
def onesSum (f : List Byte) (o n : Nat) : Nat :=
  (List.range ((n + 1) / 2)).foldl (fun a i =>
    let v := a + (if 2 * i + 1 < n then beAt f (o + 2 * i) 2 else 256 * beAt f (o + 2 * i) 1)
    v % 65536 + v / 65536) 0

/-- The UDP checksum of a modified frame (R450): 0 over IPv4, computed again over IPv6. -/
def fixSum (f : List Byte) (e : Encap) : List Byte :=
  if e.kind = 0 then f
  else if e.kind = 4 then bePut f (e.msg - 2) 2 0
  else
    let len := beAt f (e.msg - 4) 2
    let f := bePut f (e.msg - 2) 2 0
    let v := onesSum f (e.ip + 8) 32 + len + 17 + onesSum f (e.msg - 8) len
    let v := v % 65536 + v / 65536
    let v := v % 65536 + v / 65536
    let c := 65535 - v
    bePut f (e.msg - 2) 2 (if c = 0 then 65535 else c)

/-! ### The rings of a port (R592) -/

/-- The function a port's rings belong to: 0 PF, 1 + l VF l. -/
def State.ptpFn (s : State) (p : Nat) : Nat :=
  match s.portHolder p with
  | some l => if s.conf l then 0 else 1 + l
  | none => 0

/-- Entries of a port's receive and transmit rings. -/
def State.prxLen (s : State) (p : Nat) : Nat := ringLen (s.gf (Reg.HIF_PTP_CFG p) Fld.HIF_PTP_CFG_RX_LOG2)
def State.ptxLen (s : State) (p : Nat) : Nat := ringLen (s.gf (Reg.HIF_PTP_CFG p) Fld.HIF_PTP_CFG_TX_LOG2)

/-- Deliver a frame behind its header into a port's receive ring (R449, R592); the header is one number. -/
def State.ptpDeliver (s : State) (p head : Nat) (f : List Byte) : State :=
  if s.gf (Reg.HIF_PTP_CFG p) Fld.HIF_PTP_CFG_EN = 0 then s
  else
    let r := Reg.HIF_PRX_PTR p
    let n := s.prxLen p
    let tail := s.gf r Fld.HIF_PRX_PTR_TAIL
    let hd := s.gf r Fld.HIF_PRX_PTR_HEAD
    if n ≤ hd ∨ (tail + 1) % n = hd ∨ 2032 < f.length then s.setFlag Reg.HIF_FLAG 5 (s.portHolder p)
    else
      let a := s.hostBase (Reg.HIF_PRX_BASE_LO p) (Reg.HIF_PRX_BASE_HI p) + 2048 * tail
      let s := s.hwrLE a 16 head
      let s := f.zipIdx.foldl (fun s (b, i) => s.hwrLE (a + 16 + i) 1 b.toNat) s
      let s := s.sf r Fld.HIF_PRX_PTR_TAIL ((tail + 1) % n)
      s.msg (s.ptpFn p) (if s.ptpFn p = 0 then 0 else 1)

/-- The 16-byte receive header (R449). -/
def rxHead (len port : Nat) (event : Bool) (t : Nat) : Nat :=
  len + 2 ^ 16 * port + 2 ^ 24 * (if event then 1 else 0) + 2 ^ 32 * (tSec t / 2 ^ 32) + 2 ^ 48 * (tSec t % 2 ^ 32) +
    2 ^ 80 * tNs t + 2 ^ 112 * tFrac t

/-- A stamp of a port (R449, R450, R452): its time base plus a correction in 1/16 ns, with an error of at most 4 ns. -/
def State.portStamp (s : State) (p adj draw : Nat) : Nat :=
  let now := s.now (s.gf (Reg.TB_PTP_CFG p) Fld.TB_PTP_CFG_TB)
  stamp (((now : Int) + sext 16 adj * 2 ^ 28) % tbWrap).toNat draw 4

/-- A frame joins a port's transmit queue (R451). -/
def State.ptpJoin (s : State) (f : List Byte) (b : Nat) : State :=
  let q := tget (fun _ => []) s.ptpQ b
  if 16 ≤ q.length then s.setFlag Reg.TB_FLAG 12 (s.portHolder b)
  else { s with ptpQ := tput (fun _ => []) s.ptpQ b (q ++ [(s.cycle, f)]) }

/-- PTP_RX (R449, R451): a port receives a frame that is no eCPRI frame. -/
def execPtpRx (p : Fin 12) (frame : List Byte) (s : State) : Host.Outcome State Fault Refusal :=
  let p := p.val
  match encap frame with
  | none => .next (s.setFlag Reg.FH_FLAG 4 (s.portHolder p))
  | some e =>
    if !s.ptpOn p e then .next (s.setFlag Reg.FH_FLAG 4 (s.portHolder p))
    else
      let (d, s) := s.draw
      let s := s.event 0xA 0x3000 (s.portHolder p)
      let event := decide (ptpType frame e ≤ 3)
      let t := s.portStamp p (s.gf (Reg.TB_PTP_RX_ADJ p) Fld.TB_PTP_RX_ADJ_ADJ) d
      let fwd := (List.range 12).filter fun b => b != p && (s.gf (Reg.TB_PTP_CFG p) Fld.TB_PTP_CFG_FWD).testBit b
      let copy := s.gf (Reg.TB_PTP_CFG p) Fld.TB_PTP_CFG_COPY == 1
      let s := if fwd.isEmpty || copy then s.ptpDeliver p (rxHead frame.length p event t) frame else s
      .next (fwd.foldl (fun s b => s.ptpJoin frame b) s)

/-- Hand a frame to a port's transmitter. -/
def State.ptpSend (s : State) (p : Nat) (f : List Byte) : State :=
  { s.event 0xA 0x3001 (s.portHolder p) with fhTx := s.fhTx ++ [⟨p, 2, 0, 0, 0, 0, 0, f⟩] }

/-- A forwarded frame leaves (R451): event messages carry their residence time, measured at the nominal increment with
an error of at most 6 ns. -/
def State.ptpForward (s : State) (p at_ draw : Nat) (f : List Byte) : State :=
  match encap f with
  | none => s.ptpSend p f
  | some e =>
    if ptpType f e ≤ 3 then
      let res : Int := (((s.cycle - at_) * incrNominal : Nat) : Int) + (draw % (12 * nsU + 1) : Nat) - (6 * nsU : Nat)
      s.ptpSend p (fixSum (addCorr f e (res / 2 ^ 16)) e)
    else s.ptpSend p f

/-- originTimestamp of a message in 2⁻³² ns. -/
def originOf (f : List Byte) (e : Encap) : Nat := beAt f (e.msg + 34) 6 * secU + beAt f (e.msg + 40) 4 * nsU

/-- A frame of the transmit ring with its MODE and egress time (R450): none when it is discarded. -/
def txFrame (mode t : Nat) (f : List Byte) : Option (List Byte) :=
  if mode = 0 then some f
  else if 3 ≤ mode then none
  else match encap f with
    | none => none
    | some e =>
      if 1 < ptpType f e then none
      else if mode = 1 then
        let g := bePut (bePut f (e.msg + 34) 6 (tSec t)) (e.msg + 40) 4 (tNs t)
        some (fixSum (addCorr g e (tFrac t)) e)
      else
        let d : Int := (t : Int) - originOf f e
        if secU < d.natAbs then none else some (fixSum (addCorr f e (d / 2 ^ 16)) e)

/-- Take the next entry of a port's transmit ring (R450, R592). -/
def State.ptpTake (s : State) (p draw : Nat) : State :=
  let r := Reg.HIF_PTX_PTR p
  let n := s.ptxLen p
  let head := s.gf r Fld.HIF_PTX_PTR_HEAD
  if s.gf (Reg.HIF_PTP_CFG p) Fld.HIF_PTP_CFG_EN = 0 ∨ head = s.gf r Fld.HIF_PTX_PTR_TAIL then s
  else
    let a := s.hostBase (Reg.HIF_PTX_BASE_LO p) (Reg.HIF_PTX_BASE_HI p) + 2048 * head
    let s := s.sf r Fld.HIF_PTX_PTR_HEAD ((head + 1) % n)
    let len := s.hrdLE a 2
    if len < 60 ∨ 2032 < len then s.setFlag Reg.HIF_FLAG 0 (s.portHolder p)
    else
      let f := (List.range len).map fun i => s.hb (a + 16 + i)
      match txFrame (s.hrdLE (a + 3) 1) (s.portStamp p (s.gf (Reg.TB_PTP_TX_ADJ p) Fld.TB_PTP_TX_ADJ_ADJ) draw) f with
      | some g => s.ptpSend p g
      | none => s.setFlag Reg.TB_FLAG 12 (s.portHolder p)

/-- PTP_TX (R450, R451): the next frame of a port leaves, forwarded ones first. -/
def execPtpTx (p : Fin 12) (s : State) : Host.Outcome State Fault Refusal :=
  let (d, s) := s.draw
  match tget (fun _ => []) s.ptpQ p.val with
  | (at_, f) :: t => .next ({ s with ptpQ := tput (fun _ => []) s.ptpQ p.val t }.ptpForward p.val at_ d f)
  | [] => .next (s.ptpTake p.val d)

/-! ### SyncE (R453) -/

/-- SyncE outputs that follow a port. -/
def State.synceOf (s : State) (p : Nat) : List Nat :=
  (List.range 2).filter fun k => s.gf (Reg.TB_SYNCE k) Fld.TB_SYNCE_EN == 1 && s.gf (Reg.TB_SYNCE k) Fld.TB_SYNCE_PORT == p

/-- BLOCK_LOCK_LOSS (R299, R453). -/
def execBlockLockLoss (p : Fin 12) (s : State) : Host.Outcome State Fault Refusal :=
  let p := p.val
  let s := { s with unlocked := s.unlocked.filter (· != p) ++ [p] }.setFlag Reg.FH_FLAG 0 (s.portHolder p)
  let ks := s.synceOf p
  let s := ks.foldl (fun s k => s.sf (Reg.TB_SYNCE k) Fld.TB_SYNCE_SQUELCHED 1) s
  .next (s.setFlagIf (!ks.isEmpty) Reg.TB_FLAG 13 (s.portHolder p))

/-- BLOCK_LOCK_RETURN (R453). -/
def execBlockLockReturn (p : Fin 12) (s : State) : Host.Outcome State Fault Refusal :=
  let p := p.val
  let s := { s with unlocked := s.unlocked.filter (· != p) }
  .next ((s.synceOf p).foldl (fun s k => s.sf (Reg.TB_SYNCE k) Fld.TB_SYNCE_SQUELCHED 0) s)

end Sys2Proof.Machine
end

