-- ==== Sys2Proof/Machine/Host.lean ====
section
/-! DEFINITION. The host interface (spec/18): ring registers (R584, R585, R592), copies (R588), the completion ring and its
messages (R583, R589, R590), bounce records (R529, R530, R591), function-level reset (R582). -/
namespace Sys2Proof.Machine
open Sys2Proof

/-! ### Ring registers -/

/-- A ring register write is refused (R584, R585, R592). -/
def State.sqBad (s : State) (l : Option Nat) : State := s.setFlag Reg.HIF_FLAG 0 l

/-- CFG register of a ring, its pointers, its base registers, the lodging it serves. -/
def cfgReg : HRing → Nat
  | .sq l => Reg.HIF_SQ_CFG l.val
  | .cq l => Reg.HIF_CQ_CFG l.val
  | .ptp p => Reg.HIF_PTP_CFG p.val
def ringPtrs : HRing → List Nat
  | .sq l => [Reg.HIF_SQ_PTR l.val]
  | .cq l => [Reg.HIF_CQ_PTR l.val]
  | .ptp p => [Reg.HIF_PRX_PTR p.val, Reg.HIF_PTX_PTR p.val]
def State.ringLdg (s : State) : HRing → Option Nat
  | .sq l => some l.val
  | .cq l => some l.val
  | .ptp p => s.portHolder p.val

/-- Bits a write of CFG keeps: EN, LOG2 and MOD (R595). -/
def cfgMask : HRing → Word
  | .sq _ => 0x8000001F
  | .cq _ => 0x80FF001F
  | .ptp _ => 0x80001F1F

/-- LOG2 fields of a CFG value, each with its limit (R584, R592). -/
def cfgLogs (r : HRing) (v : Word) : List (Nat × Nat) :=
  match r with
  | .sq _ => [(getF v Fld.HIF_SQ_CFG_LOG2, 16)]
  | .cq _ => [(getF v Fld.HIF_CQ_CFG_LOG2, 16)]
  | .ptp _ => [(getF v Fld.HIF_PTP_CFG_RX_LOG2, 12), (getF v Fld.HIF_PTP_CFG_TX_LOG2, 12)]

/-- The ring is enabled. -/
def State.ringEn (s : State) (r : HRing) : Bool := wbit (s.rr (cfgReg r)) 31

/-- A write of CFG that is discarded: EN, when the write reaches it, with a LOG2 out of range, or another LOG2 while EN is 1
(R584; log 39). -/
def State.cfgBad (s : State) (r : HRing) (en : Bool) (v : Word) : Bool :=
  (en && wbit v 31 && (cfgLogs r v).any fun (n, m) => decide (n < 4) || decide (m < n)) ||
    (s.ringEn r && decide ((cfgLogs r v).map Prod.fst ≠ (cfgLogs r (s.rr (cfgReg r))).map Prod.fst))

/-- What EN = 1 starts in a completion ring: number 0, the first pass (R589). -/
def State.ringStart (s : State) (r : HRing) : State :=
  let s := (ringPtrs r).foldl (fun s a => s.wr a 0) s
  match r with
  | .cq l => s.setRings l.val fun x => { x with seq := 0, phase := true, stalled := false }
  | _ => s

/-- A write of a ring's CFG (R584); `en`: it writes the byte of EN (R22). -/
def State.ringCfg (s : State) (r : HRing) (en : Bool) (v : Word) : State :=
  if s.cfgBad r en v then s.sqBad (s.ringLdg r)
  else
    let s := s.wr (cfgReg r) (v &&& cfgMask r)
    if en && wbit v 31 then s.ringStart r else s

/-- A write of a ring's BASE (R584): bits [11:0] of the low word are reserved. -/
def State.ringBase (s : State) (r : HRing) (a : Nat) (lo : Bool) (v : Word) : State :=
  if s.ringEn r then s.sqBad (s.ringLdg r) else s.wr a (if lo then v &&& 0xFFFFF000 else v)

/-- A write of a producer's TAIL that software makes (R585, R592): 2^LOG2 or more is discarded. -/
def State.tailWrite (s : State) (a log2 : Nat) (l : Option Nat) (v : Word) : State :=
  if 2 ^ log2 ≤ v.toNat % 65536 then s.sqBad l else s.wr a ((s.rr a &&& 0xFFFF0000) ||| (v &&& 0xFFFF))

/-- A write of a HEAD, held as written (R590, R592). -/
def State.headWrite (s : State) (a : Nat) (v : Word) : State := s.wr a ((s.rr a &&& 0xFFFF0000) ||| (v &&& 0xFFFF))

/-- SQ_CFG_WRITE (R584): a write of the CFG register of a submission, completion or PTP ring. -/
def execSqCfgWrite (who : Requester) (r : HRing) (v : Word) (s : State) : Host.Outcome State Fault Refusal :=
  .next (s.asWrite who (cfgReg r) fun s => s.ringCfg r true v)

/-- A write of a lodging's SQ_PTR. -/
def State.sqTail (s : State) (l : Nat) (v : Word) : State :=
  s.tailWrite (Reg.HIF_SQ_PTR l) (s.gf (Reg.HIF_SQ_CFG l) Fld.HIF_SQ_CFG_LOG2) (some l) v

/-- SQ_TAIL_WRITE (R585). -/
def execSqTailWrite (who : Requester) (l : Fin 16) (v : Word) (s : State) : Host.Outcome State Fault Refusal :=
  .next (s.asWrite who (Reg.HIF_SQ_PTR l.val) fun s => s.sqTail l.val v)

/-- CQ_HEAD_WRITE (R590). -/
def execCqHeadWrite (who : Requester) (l : Fin 16) (v : Word) (s : State) : Host.Outcome State Fault Refusal :=
  .next (s.asWrite who (Reg.HIF_CQ_PTR l.val) fun s => s.headWrite (Reg.HIF_CQ_PTR l.val) v)

/-- A write of a port's PTX_PTR. -/
def State.ptxTail (s : State) (p : Nat) (v : Word) : State :=
  s.tailWrite (Reg.HIF_PTX_PTR p) (s.gf (Reg.HIF_PTP_CFG p) Fld.HIF_PTP_CFG_TX_LOG2) (s.portHolder p) v

/-- PTX_TAIL_WRITE (R592). -/
def execPtxTailWrite (who : Requester) (p : Fin 12) (v : Word) (s : State) : Host.Outcome State Fault Refusal :=
  .next (s.asWrite who (Reg.HIF_PTX_PTR p.val) fun s => s.ptxTail p.val v)

/-! ### The completion ring (R589, R590, R591) -/

/-- The completion ring takes no entry now: not enabled, full, or its HEAD out of range (R590). -/
def State.cqFull (s : State) (l : Nat) : Bool :=
  let n := ringLen (s.gf (Reg.HIF_CQ_CFG l) Fld.HIF_CQ_CFG_LOG2)
  let p := Reg.HIF_CQ_PTR l
  decide (n ≤ s.gf p Fld.HIF_CQ_PTR_HEAD) || (s.gf p Fld.HIF_CQ_PTR_TAIL + 1) % n == s.gf p Fld.HIF_CQ_PTR_HEAD

/-- Host address of the entry at TAIL. -/
def State.cqAddr (s : State) (l : Nat) : Nat :=
  s.hostBase (Reg.HIF_CQ_BASE_LO l) (Reg.HIF_CQ_BASE_HI l) +
    (if s.conf l then 4096 else 64) * s.gf (Reg.HIF_CQ_PTR l) Fld.HIF_CQ_PTR_TAIL

/-- TAIL moves past an entry; PHASE is inverted after the last one of a pass (R589). -/
def State.cqNext (s : State) (l : Nat) : State :=
  let n := ringLen (s.gf (Reg.HIF_CQ_CFG l) Fld.HIF_CQ_CFG_LOG2)
  let t := (s.gf (Reg.HIF_CQ_PTR l) Fld.HIF_CQ_PTR_TAIL + 1) % n
  let s := s.sf (Reg.HIF_CQ_PTR l) Fld.HIF_CQ_PTR_TAIL t
  if t = 0 then s.setRings l fun r => { r with phase := !r.phase } else s

/-- A completion entry of 64 bytes as one number (R589). -/
def Cpl.entry (c : Cpl) (phase : Bool) (seq : Nat) : Nat :=
  c.body % 2 ^ 256 + 2 ^ 256 * c.kind + 2 ^ 264 * (if phase then 1 else 0) + 2 ^ 272 * (c.idx % 65536) + 2 ^ 288 * seq

/-- The message of a completion entry, moderated by MOD (R583). -/
def State.cqMsg (s : State) (l : Nat) : State :=
  let r := s.ringsOf l
  let mod := 600 * s.gf (Reg.HIF_CQ_CFG l) Fld.HIF_CQ_CFG_MOD
  if mod = 0 || (match r.msgAt with
    | some t => decide (t + mod ≤ s.cycle)
    | none => true) then
    (s.setRings l fun r => { r with msgAt := some s.cycle, msgDue := false }).msg (1 + l) 0
  else s.setRings l fun r => { r with msgDue := true }

/-- The session of a lodging. -/
def State.sessOf (s : State) (l : Nat) : Option Sess := tget (fun _ => none) s.sess l

/-- A session ends because a direction has used its numbers or records have failed (R530). -/
def State.sessDead (s : State) (l : Nat) : State := (s.closeSess l).setFlag Reg.SEC_FLAG 4 (some l)

/-- Write one bounce record to the host (R529, R591): TYPE, HOST_REF, data. -/
def State.bounceOut (s : State) (l : Nat) (x : Sess) (ty ref : Nat) (data : List Byte) : State :=
  let head := bytesLE 8 x.tx ++ bytesLE 2 data.length ++ [BitVec.ofNat 8 ty, BitVec.ofNat 8 l, 0, 0, 0, 0] ++ bytesLE 8 0 ++ bytesLE 8 ref
  let rec_ := head ++ Config.bounceSeal x.key head (data ++ List.replicate (4048 - data.length) 0)
  let s := (s.hwrLE (s.cqAddr l) 4096 (ofBytes (rec_.take 4096))).cqNext l
  if 2 ^ 48 ≤ x.tx + 1 then s.sessDead l
  else { s with sess := tput (fun _ => none) s.sess l (some { x with tx := x.tx + 1 }) }

/-- A completion leaves the hold: number, entry, message. A confidential lodging's entry goes in a record of TYPE 4, one entry
each (R591; log 40). -/
def State.cqWrite (s : State) (l : Nat) (c : Cpl) : State :=
  let r := s.ringsOf l
  let e := c.entry r.phase r.seq
  let s := s.setRings l fun r => { r with hold := r.hold.drop 1, seq := (r.seq + 1) % 2 ^ 32, stalled := false }
  if s.conf l then
    match s.sessOf l with
    | some x => (s.bounceOut l x 4 0 (bytesLE 64 e)).cqMsg l
    | none => s
  else ((s.hwrLE (s.cqAddr l) 64 e).cqNext l).cqMsg l

/-- COMPLETION_WRITE (R590): the oldest completion of a lodging's hold goes to its ring; while the ring is full it waits, with
CQ_STALL. -/
def execCompletionWrite (l : Fin 16) (s : State) : Host.Outcome State Fault Refusal :=
  let l := l.val
  match (s.ringsOf l).hold with
  | [] => .next s
  | c :: _ =>
    if s.gf (Reg.HIF_CQ_CFG l) Fld.HIF_CQ_CFG_EN = 0 ∨ (s.conf l ∧ (s.sessOf l).isNone) then .next s
    else if s.cqFull l then
      .next (if (s.ringsOf l).stalled then s else (s.setRings l fun r => { r with stalled := true }).setFlag Reg.HIF_FLAG 1 (some l))
    else .next (s.cqWrite l c)

/-- MSIX_MODERATION (R583): the interval of a lodging's completion message ends with an entry not yet signalled. -/
def execMsixModeration (l : Fin 16) (s : State) : Host.Outcome State Fault Refusal :=
  let l := l.val
  let r := s.ringsOf l
  let mod := 600 * s.gf (Reg.HIF_CQ_CFG l) Fld.HIF_CQ_CFG_MOD
  .next (match r.msgAt with
    | some t =>
      if r.msgDue && decide (t + mod ≤ s.cycle) then
        (s.setRings l fun r => { r with msgAt := some s.cycle, msgDue := false }).msg (1 + l) 0
      else s
    | none => s)

/-! ### Copies (R588) -/

/-- Reserved bits of a copy entry that are not 0 (R586). -/
def Sub.badCopy (e : Sub) : Bool :=
  dfield e.bytes 0x1C 36 != 0 || nbits e.sig 14 12 != 0 || (!e.sig.testBit 15 && e.sig != 0)

/-- The status a copy is rejected with (R586, R588), OK when it is taken. -/
def State.copyCheck (s : State) (l : Nat) (e : Sub) : Nat :=
  let r := if e.reg < 64 then s.region l e.reg else Region.ofWords 0 0 0 0
  pick
    [(e.badCopy, St.format), (r.valid && r.kind == 5, St.format), (s.conf l && e.ty == 3, St.format),
     (!r.valid || !r.holds e.off e.len, St.bounds),
     (e.len == 0 || e.len % 64 != 0 || decide (16777216 < e.len) || e.off % 64 != 0 || (!s.conf l && e.host % 64 != 0), St.bounds),
     (r.valid && !(if e.ty = 3 then r.wr else r.rd), St.permission),
     (e.sig.testBit 15 && s.syncBound (e.sig % 4096) != some l, St.permission)]

/-- Take a copy: rejected at once, or in flight (R588). -/
def State.takeCopy (s : State) (l : Nat) (e : Sub) (no : Nat) : State :=
  let st := s.copyCheck l e
  if st ≠ St.ok then s.refuseSub l e no st
  else s.setRings l fun r => { r with copies := r.copies ++ [⟨no, e, 0, false⟩] }

/-- A copy entry is taken while fewer than 4 copies of the lodging are in flight. -/
def copyRow (l : Fin 16) (ty : Nat) (s : State) : Host.Outcome State Fault Refusal :=
  if 4 ≤ (s.ringsOf l.val).copies.length then .next s
  else subRow l (· == ty) s fun e no s => s.takeCopy l.val e no

/-- H2D (R588). -/
def execH2d (l : Fin 16) (s : State) : Host.Outcome State Fault Refusal := copyRow l 3 s
/-- D2H (R588). -/
def execD2h (l : Fin 16) (s : State) : Host.Outcome State Fault Refusal := copyRow l 4 s

/-- SQ_NOP (R587): a NOP entry, or an entry whose TYPE is not listed, which completes with FORMAT. -/
def execSqNop (l : Fin 16) (s : State) : Host.Outcome State Fault Refusal :=
  subRow l (fun t => t == 5 || t == 0 || decide (5 < t)) s fun e no s =>
    if e.ty ≠ 5 ∨ e.badPlain then s.refuseSub l.val e no St.format
    else (s.setRings l.val fun r => { r with nops := r.nops ++ [(no, e.idx, e.tag)] }).flushNops l.val

/-- Copy units from the host into the device for a lodging. -/
def State.copyIn (s : State) (l a h : Nat) : Nat → State
  | 0 => s
  | n + 1 => let s := State.copyIn s l a h n; s.put l (a + 64 * n) 64 (s.hrdLE (h + 64 * n) 64)

/-- Copy units from the device to the host; stops at an uncorrectable one. The units copied, and whether it stopped. -/
def State.copyOut (s : State) (l a h : Nat) : Nat → State × Nat × Bool
  | 0 => (s, 0, false)
  | n + 1 =>
    let (s, k, bad) := State.copyOut s l a h n
    if bad then (s, k, true)
    else
      let (s, v, bad) := s.getUnit l (a + 64 * n)
      if bad then (s, k, true) else (s.hwrLE (h + 64 * n) 64 v, k + 1, false)

/-- The record of a copy (R589). -/
def kind3 (st ty tag done : Nat) : Nat := st + 2 ^ 8 * ty + 2 ^ 32 * (tag % 2 ^ 32) + 2 ^ 64 * done

/-- The oldest copy of a lodging ends with a status after some bytes (R588, R589). -/
def State.copyEnd (s : State) (l : Nat) (c : HCopy) (st done : Nat) : State :=
  let s := s.setRings l fun r => { r with copies := r.copies.drop 1 }
  let s := if st = St.ok ∧ c.e.sig.testBit 15 then s.signal (c.e.sig % 4096) 1 else s
  (s.countStatus 8 st (some l)).hostDone l c.no c.e.idx 3 (kind3 st c.e.ty c.e.tag done)

/-- The oldest copy of a lodging puts its units to the regulator, once (R216, R588). -/
def State.copyPay (s : State) (l a n : Nat) (wr : Bool) (c : HCopy) : State :=
  if c.paid then s
  else (s.setRings l fun r => { r with copies := { c with paid := true } :: r.copies.drop 1 }).tierCharge l .host a (64 * n) wr

/-- Confidential device-to-host data in records of at most 4,048 bytes while the ring has room (R591); `fuel` bounds them. -/
def State.bounceData (s : State) (l a : Nat) (c : HCopy) : Nat → Nat → State × Nat × Bool
  | 0, done => (s, done, false)
  | fuel + 1, done =>
    if c.e.len ≤ done ∨ s.cqFull l then (s, done, false)
    else match s.sessOf l with
      | none => (s, done, false)
      | some x =>
        let n := min 4048 (c.e.len - done)
        let (s, v, bad) := s.getBytes l (a + done) n
        if bad then (s, done, true)
        else State.bounceData (s.bounceOut l x 3 c.e.host (bytesLE n v)) l a c fuel (done + n)

/-- COPY_COMPLETE (R588): the oldest copy of a lodging ends. `hs` is what the host answered the reads of an H2D: 0 success, 1
Unsupported Request or Completer Abort, 2 a poisoned completion, after `units` units. -/
def execCopyComplete (l : Fin 16) (hs units : Nat) (s : State) : Host.Outcome State Fault Refusal :=
  let l := l.val
  match (s.ringsOf l).copies with
  | [] => .next s
  | c :: _ =>
    let a := (s.region l c.e.reg).base + c.e.off
    let n := c.e.len / 64
    if c.e.ty = 3 then
      let k := if hs = 0 then n else min units n
      let s := s.copyPay l a k true c
      if s.owes l .host then .next s else
      let s := s.copyIn l a c.e.host k
      if hs = 0 then .next (s.copyEnd l c St.ok c.e.len)
      else .next ((s.setFlag Reg.HIF_FLAG 4 (some l)).copyEnd l c (if hs = 1 then St.failed else St.integrity) (64 * k))
    else if s.conf l then
      let s := s.copyPay l a n false c
      if s.owes l .host then .next s else
      let (s, done, bad) := s.bounceData l a c (cdiv c.e.len 4048) c.done
      if bad then .next (s.copyEnd l c St.integrity done)
      else if c.e.len ≤ done then .next (s.copyEnd l c St.ok done)
      else .next (s.setRings l fun r => { r with copies := { c with done := done, paid := true } :: r.copies.drop 1 })
    else
      let s := s.copyPay l a n false c
      if s.owes l .host then .next s else
      let (s, k, bad) := s.copyOut l a c.e.host n
      .next (s.copyEnd l c (if bad then St.integrity else St.ok) (64 * k))

/-! ### Bounce records from the host (R529, R530, R591) -/

/-- A record fails its check: it has no effect but SESS_FAIL and its count; the sixteenth in a row ends the session. -/
def State.bounceFail (s : State) (l idx ref : Nat) : State :=
  let n := s.gf (Reg.SEC_SESS l) Fld.SEC_SESS_FAILS + 1
  let s := (s.setFlag Reg.SEC_FLAG 3 (some l)).hold l ⟨4, kind4 St.integrity ref, idx⟩
  if 16 ≤ n then s.sessDead l else s.sf (Reg.SEC_SESS l) Fld.SEC_SESS_FAILS n

/-- Data of a TYPE 2 record goes to its TARGET within a region of the lodging; its status. -/
def State.bounceIn (s : State) (l a : Nat) (data : List Byte) : State × Nat :=
  let rs := ((List.range 64).map fun i => s.region l i).filter fun r =>
    r.valid && r.kind != 5 && decide (r.base ≤ a) && decide (a + data.length ≤ r.base + r.bytes)
  if rs = [] then (s, St.bounds)
  else if !rs.any fun r => r.wr then (s, St.permission)
  else ((s.put l a data.length (ofBytes data)).tierCharge l .host a data.length true, St.ok)

/-- What an opened record does, by its TYPE (R591). -/
def State.bounceType (s : State) (l idx ty target ref : Nat) (data : List Byte) : State :=
  if ty = 1 then
    if data.length % 64 ≠ 0 then s.hold l ⟨4, kind4 St.format ref, idx⟩
    else s.setRings l fun r => { r with subs := r.subs ++ (List.range (data.length / 64)).map fun i =>
      ⟨ofBytes ((data.drop (64 * i)).take 64), idx⟩ }
  else if ty = 2 then
    let (s, st) := s.bounceIn l target data
    s.hold l ⟨3, kind3 st 2 ref (if st = St.ok then data.length else 0), idx⟩
  else s.hold l ⟨4, kind4 St.format ref, idx⟩

/-- BOUNCE_RECORD (R530, R591): the next record of a confidential lodging's host-to-device ring. -/
def execBounceRecord (l : Fin 16) (s : State) : Host.Outcome State Fault Refusal :=
  let l := l.val
  let p := Reg.HIF_SQ_PTR l
  let idx := s.gf p Fld.HIF_SQ_PTR_HEAD
  if !s.conf l ∨ s.gf (Reg.HIF_SQ_CFG l) Fld.HIF_SQ_CFG_EN = 0 ∨ idx = s.gf p Fld.HIF_SQ_PTR_TAIL ∨ 192 ≤ (s.ringsOf l).hold.length then .next s
  else
    let a := s.hostBase (Reg.HIF_SQ_BASE_LO l) (Reg.HIF_SQ_BASE_HI l) + 4096 * idx
    let rec_ := (List.range 4096).map fun i => s.hb (a + i)
    let field (o n : Nat) : Nat := ofBytes ((rec_.drop o).take n)
    let ref := field 0x18 8
    let s := s.sf p Fld.HIF_SQ_PTR_HEAD ((idx + 1) % ringLen (s.gf (Reg.HIF_SQ_CFG l) Fld.HIF_SQ_CFG_LOG2))
    match s.sessOf l with
    | none => .next (s.hold l ⟨4, kind4 St.notReady ref, idx⟩)
    | some x =>
      match Config.bounceOpen x.key rec_ with
      | none => .next (s.bounceFail l idx ref)
      | some data =>
        if field 0 8 ≠ x.rx then .next (s.bounceFail l idx ref)
        else
          let s := { s.sf (Reg.SEC_SESS l) Fld.SEC_SESS_FAILS 0 with sess := tput (fun _ => none) s.sess l (some { x with rx := x.rx + 1 }) }
          let s := if 2 ^ 48 ≤ x.rx + 1 then s.sessDead l else s
          let n := field 8 2
          if field 0xB 1 ≠ l ∨ n = 0 ∨ 4048 < n ∨ field 0xC 4 ≠ 0 then .next (s.hold l ⟨4, kind4 St.format ref, idx⟩)
          else .next (s.bounceType l idx (field 0xA 1) (field 0x10 8) ref (data.take n))

/-! ### Function-level reset (R582) -/

/-- A function's MSI-X vectors become masked. -/
def State.mask (s : State) (fn : Nat) : State := { s with masked := s.masked.filter (· != fn) ++ [fn] }

/-- The PTP rings a function's ports have are disabled. -/
def State.ptpOff (s : State) (fn : Nat) : State :=
  (List.range 12).foldl (fun s p => if s.ptpFn p = fn then s.sf (Reg.HIF_PTP_CFG p) Fld.HIF_PTP_CFG_EN 0 else s) s

/-- An FLR of VF l (R582); work of its rings that is under way is given up (log 41). -/
def State.flrVf (s : State) (l : Nat) : State :=
  let s := ((s.partialReset l).ptpOff (1 + l)).closeSess l
  let s := (s.sf (Reg.HIF_SQ_CFG l) Fld.HIF_SQ_CFG_EN 0).sf (Reg.HIF_CQ_CFG l) Fld.HIF_CQ_CFG_EN 0
  let s := s.setRings l fun r => { r with open_ := [], nops := [], subs := [], copies := [], msgDue := false }
  (s.mask (1 + l)).setFlag Reg.HIF_FLAG 6 (some l)

/-- FLR (R582): of VF l, or of the PF. -/
def execFlr (fn : Option (Fin 16)) (s : State) : Host.Outcome State Fault Refusal :=
  .next (match fn with
    | some l => s.flrVf l.val
    | none => ((s.ptpOff 0).mask 0).setFlag Reg.HIF_FLAG 6)

/-- CONFIGURATION_REQUEST (R580): the completion status the requester gets, 2 Configuration Request Retry, 0 successful. -/
def execConfigurationRequest (s : State) : Host.Outcome State Fault Refusal := .next { s with answer := [if s.step2 then 0 else 2] }

end Sys2Proof.Machine
end

