-- ==== Sys2Proof/Machine/Flash.lean ====
section
/-! DEFINITION. The attached flash (R547, R548, R608) and the SMBus commands that need no register access (R606 to R609). -/
namespace Sys2Proof.Machine
open Sys2Proof

/-! ### CRC-32C (R597) -/

/-- Shift eight bits into a CRC-32C. -/
def crcShift : Nat → BitVec 32 → BitVec 32
  | 0, c => c
  | n + 1, c => crcShift n (if c.getLsbD 0 then (c >>> 1) ^^^ 0x82F63B78 else c >>> 1)

/-- CRC-32C of bytes: reflected, initial value all ones, final inversion. -/
def crc32c (bs : List Byte) : Nat := (~~~ (bs.foldl (fun c b => crcShift 8 (c ^^^ b.setWidth 32)) 0xFFFFFFFF)).toNat

/-! ### Flash bytes -/

/-- What an erased byte of the flash reads as (log 32). -/
def flashInit : Nat → Byte := fun _ => 0xFF

/-- A byte of the flash; beyond its size nothing answers and the data lines read as erased. -/
def State.fl (s : State) (a : Nat) : Byte := if a < s.flashSize then tget flashInit s.flash a else 0xFF
/-- n bytes of the flash. -/
def State.flBytes (s : State) (a n : Nat) : List Byte := (List.range n).map fun i => s.fl (a + i)
/-- n bytes as a number, little-endian. -/
def State.flLE (s : State) (a : Nat) : Nat → Nat
  | 0 => 0
  | n + 1 => (s.fl a).toNat + 256 * State.flLE s (a + 1) n
/-- Give bytes of the flash new values. -/
def State.flSet (s : State) (a : Nat) (bs : List Byte) : State :=
  { s with flash := tputN flashInit (fun i => bs.getD i 0xFF) a bs.length s.flash }
/-- Program bytes: a programmed bit becomes 0 and only an erase makes it 1 again (log 32). -/
def State.flProgram (s : State) (a : Nat) (bs : List Byte) : State :=
  s.flSet a ((List.range bs.length).map fun i => s.fl (a + i) &&& bs.getD i 0xFF)
/-- Erase a range of whole sectors. -/
def State.flErase (s : State) (a n : Nat) : State := { s with flash := tclear a (a + n) s.flash }

/-- Of two banks that hold numbers n and m, the first is the newer (R480). -/
def newerA (n m : Nat) : Bool :=
  let d := (n + 2 ^ 32 - m % 2 ^ 32) % 2 ^ 32
  decide (d < 2 ^ 31)

/-! ### The boot directory (R548) -/

/-- A boot directory: the offset of its copy, its fields. -/
structure Dir where
  at_ : Nat
  gen : Nat
  slotA : Nat
  slotB : Nat
  pref : Nat
  trial : Bool
  tried : Bool
deriving DecidableEq, Repr

/-- A valid copy at an offset. -/
def State.dirAt (s : State) (a : Nat) : Option Dir :=
  let bs := s.flBytes a 64
  let f (o n : Nat) : Nat := ofBytes ((bs.drop o).take n)
  if f 0 4 = 0x52494451 ∧ f 0x3C 4 = crc32c (bs.take 0x3C) then
    some ⟨a, f 4 4, f 8 4, f 0xC 4, f 0x10 1, (f 0x11 1).testBit 0, (f 0x11 1).testBit 1⟩
  else none

/-- The copy the Porter takes (R548). -/
def State.dir (s : State) : Option Dir :=
  match s.dirAt 0, s.dirAt 0x1000 with
  | some a, some b => some (if newerA a.gen b.gen then a else b)
  | some a, none => some a
  | none, b => b

/-- The 64 bytes of a directory. -/
def Dir.bytes (d : Dir) : List Byte :=
  let h := bytesLE 4 0x52494451 ++ bytesLE 4 d.gen ++ bytesLE 4 d.slotA ++ bytesLE 4 d.slotB ++
    [BitVec.ofNat 8 d.pref, BitVec.ofNat 8 ((if d.trial then 1 else 0) + (if d.tried then 2 else 0))] ++ List.replicate 42 0
  h ++ bytesLE 4 (crc32c h)

/-- Write the directory: the copy not taken is erased and programmed with GEN one greater (R548). -/
def State.dirWrite (s : State) (d : Dir) : State :=
  let a := if d.at_ = 0 then 0x1000 else 0
  ((s.flErase a 4096).flProgram a (({ d with gen := (d.gen + 1) % 2 ^ 32 } : Dir).bytes ++ List.replicate (4096 - 64) 0))

/-! ### The SMBus port (R606 to R609) -/

/-- An answer of the port: STATUS, which is counted (R11, R497), and data. -/
def State.smbAnswer (s : State) (st : Nat) (data : List Byte) : State :=
  { s.countStatus 8 st none with answer := BitVec.ofNat 8 st :: data }

/-- A command of the port: nothing answers in reset; a failed PEC has no effect but SMB_PEC (R606). -/
def smbRow (pec : Bool) (s : State) (body : State → State) : Host.Outcome State Fault Refusal :=
  .next (if s.inReset then s else if pec then body s else (s.setFlag Reg.HIF_FLAG 7).smbAnswer St.integrity [])

/-- IDENT (R607). -/
def execIdent (pec : Bool) (s : State) : Host.Outcome State Fault Refusal :=
  smbRow pec s fun s => s.smbAnswer St.ok
    ([0xB0, 0, BitVec.ofNat 8 (s.gf Reg.SEC_LC Fld.SEC_LC_STATE), BitVec.ofNat 8 (s.gf Reg.PWR_BOOT Fld.PWR_BOOT_STATE),
      BitVec.ofNat 8 (s.gf Reg.SEC_LC Fld.SEC_LC_SVN)] ++ idDigest.take 16)

/-- TELEMETRY (R607). -/
def execTelemetry (pec : Bool) (s : State) : Host.Outcome State Fault Refusal :=
  smbRow pec s fun s => s.smbAnswer St.ok
    ([Reg.PWR_THERM, Reg.PWR_VDD, Reg.PWR_POWER, Reg.PWR_FLAG, Reg.REL_FLAG].flatMap fun r => bytesLE 4 (s.rr r).toNat)

/-- FLASH_READ (R607, R608). -/
def execFlashRead (pec : Bool) (off : Word) (n : Byte) (s : State) : Host.Outcome State Fault Refusal :=
  smbRow pec s fun s =>
    if n = 0 ∨ 240 < n.toNat ∨ s.flashSize < off.toNat + n.toNat then s.smbAnswer St.bounds []
    else s.smbAnswer St.ok (s.flBytes off.toNat n.toNat)

/-- A range meets a wear-record bank of the running image (R608). -/
def State.inBank (s : State) (a n : Nat) : Bool :=
  [s.wrec.1, s.wrec.2].any fun b => b != 0 && decide (b < a + n) && decide (a < b + 65536)

/-- The wear record is locked against SMBus writes: not in MANUFACTURE and RMA (R608). -/
def State.bankLocked (s : State) : Bool :=
  s.gf Reg.SEC_LC Fld.SEC_LC_STATE == 1 || s.gf Reg.SEC_LC Fld.SEC_LC_STATE == 2

/-- Start a program or an erase, or refuse it (R608). -/
def State.flashStart (s : State) (a n : Nat) (checks : List (Bool × Nat)) (op : FlashOp) : State :=
  let st := pick (checks ++ [(s.bankLocked && s.inBank a n, St.permission), (decide (s.flashSize < a + n), St.bounds),
    (s.flashOp.isSome, St.busy)])
  if st = St.ok then { s with flashOp := some op }.smbAnswer St.ok [] else s.smbAnswer st []

/-- FLASH_PROGRAM (R607, R608). -/
def execFlashProgram (pec : Bool) (off : Word) (data : List Byte) (s : State) : Host.Outcome State Fault Refusal :=
  smbRow pec s fun s =>
    let n := data.length
    s.flashStart off.toNat n [(n == 0 || decide (240 < n) || decide (256 < off.toNat % 256 + n), St.bounds)] (.program off.toNat data)

/-- FLASH_ERASE (R607, R608). -/
def execFlashErase (pec : Bool) (off : Word) (s : State) : Host.Outcome State Fault Refusal :=
  smbRow pec s fun s => s.flashStart off.toNat 4096 [(off.toNat % 4096 != 0, St.bounds)] (.erase off.toNat)

/-- FLASH_OP_DONE (R608): the program or erase under way ends; what a failed one leaves in its range is free (log 4). -/
def execFlashOpDone (ok : Bool) (s : State) : Host.Outcome State Fault Refusal :=
  match s.flashOp with
  | none => .next s
  | some op =>
    let s := { s with flashOp := none, flashStat := if ok then St.ok else St.failed }
    let (a, n, done) := match op with
      | .program a data => (a, data.length, s.flProgram a data)
      | .erase a => (a, 4096, s.flErase a 4096)
    if ok then .next done
    else
      let (d, s) := s.draw
      .next (s.flSet a (bytesLE n d))

/-- FLASH_STATUS (R607). -/
def execFlashStatus (pec : Bool) (s : State) : Host.Outcome State Fault Refusal :=
  smbRow pec s fun s => s.smbAnswer St.ok [if s.flashOp.isSome then 1 else 0, BitVec.ofNat 8 s.flashStat]

/-- ALERT_RESPONSE (R609): the port answers with its own address (R546). -/
def execAlertResponse (s : State) : Host.Outcome State Fault Refusal :=
  .next (if s.inReset then s else { s with answer := [BitVec.ofNat 8 (0x40 + s.gf Reg.PWR_STRAP Fld.PWR_STRAP_SMBADDR)] })

end Sys2Proof.Machine
end

