-- ==== Sys2Proof/Machine/Restart.lean ====
section
/-! DEFINITION. Resets (R545, R559, R614, R615): what a cold reset and a full restart leave. -/
namespace Sys2Proof.Machine
open Sys2Proof

/-- What is outside the ZK960 or in its fuses, and what the model itself keeps, outlives every reset. -/
def State.outside (s t : State) : State :=
  { t with
    pending := s.pending, free := s.free, host := s.host, msgs := s.msgs, answer := s.answer, rdata := s.rdata
    flash := s.flash, flashSize := s.flashSize, fuses := s.fuses }

/-- A cold reset (R545): every register takes its reset value, time bases are STOPPED. -/
def State.coldReset (s : State) : State := s.outside State.reset

/-- The PWR block's registers. -/
def State.pwrRegs (s : State) : Tbl Word := s.regs.filter fun (a, _) => blockOf a == 5

/-- Show the state of PWR.BOOT. -/
def State.bootGo (s : State) (st : Nat) : State := s.sf Reg.PWR_BOOT Fld.PWR_BOOT_STATE st

/-- Switch every domain off but those kept, in PWR.DOM_STAT. -/
def State.domsOff (s : State) (keep : Nat → Bool) : State :=
  (List.range 176).foldl (fun s i => if keep i then s else s.setDom i false) s

/-- A full restart (R545): the PWR block, running time bases, the cycle count and the TAP keep their contents; the image is
taken again by the next START. -/
def State.fullRestart (s : State) : State :=
  let t := s.outside State.reset
  let t := { t with
    regs := s.pwrRegs, cycle := s.cycle, step2 := s.step2, pmbFail := s.pmbFail, dutyUp := s.dutyUp, sensors := s.sensors
    tapIr := s.tapIr, bsr := s.bsr, dbgAcc := s.dbgAcc, boot := { Boot.none with again := true }
    tb := s.tb.filter fun (_, b) => b.running }
  (t.domsOff fun _ => false).bootGo 4

/-- RESET_N (R614): the reset is released; the straps are sampled (R546, R616). -/
def execResetN (straps : Byte) (s : State) : Host.Outcome State Fault Refusal :=
  .next (s.coldReset.wr Reg.PWR_STRAP (straps.setWidth 32))

/-- RESET_N_LOW (R614): the device is in reset until a release. -/
def execResetNLow (s : State) : Host.Outcome State Fault Refusal := .next { s.coldReset with inReset := true }

/-- SUPPLY_FAULT (R615). -/
def execSupplyFault (s : State) : Host.Outcome State Fault Refusal := .next { s.coldReset with inReset := true }

/-- REFCLK_LOSS (R559): the root PLL stops and every switched domain is powered off. -/
def execRefclkLoss (s : State) : Host.Outcome State Fault Refusal :=
  .next (if s.inReset || s.refLoss then s else { (s.powerOff fun _ => false).setFlag Reg.PWR_FLAG 6 with refLoss := true })

/-- REFCLK_RETURN (R559): as from a cold reset, with the PWR block's contents. -/
def execRefclkReturn (s : State) : Host.Outcome State Fault Refusal :=
  .next (if s.refLoss then ({ s.coldReset with regs := s.pwrRegs }.domsOff fun _ => false).bootGo 0 else s)

/-- A requester that PWR.CTL and PWR.BOOT_CTL hear: the host physical function and the board controller (R575). -/
def pwrHears : Requester → Bool
  | .pf => true
  | .smbus => true
  | _ => false

/-- A write of PWR.CTL or PWR.BOOT_CTL. -/
def State.asPwr (s : State) (who : Requester) (off : Nat) (eff : State → State) : State :=
  s.asWrite who off fun s => if pwrHears who then eff s else s

/-- The status of a PWR.CTL write (R572). -/
def State.opStat (s : State) (st : Nat) : State := (s.wr Reg.PWR_OPSTAT (BitVec.ofNat 32 st)).countStatus 5 st none

/-- RESTART (R545). -/
def execRestart (who : Requester) (s : State) : Host.Outcome State Fault Refusal :=
  .next (s.asPwr who Reg.PWR_CTL fun s => s.fullRestart.opStat St.ok)

end Sys2Proof.Machine
end

