-- ==== Sys2Proof/Machine/Wear.lean ====
section
/-! DEFINITION. Wear (R475), the Innkeeper's lockstep (R476), firmware update (R477), the wear record (R478 to R480). -/
namespace Sys2Proof.Machine
open Sys2Proof

/-! ### The wear record (R478) -/

/-- Pad bytes with a value to a length. -/
def padTo (n : Nat) (v : Byte) (bs : List Byte) : List Byte := (bs ++ List.replicate (n - bs.length) v).take n

/-- Innkeeper cores out of service, as a bit mask (log 35). -/
def State.innMask (s : State) : Nat := (List.range 3).foldl (fun n i => n + (if s.retired.contains (11, i) then 2 ^ i else 0)) 0

/-- The disabled-unit map. -/
def State.wearMapBytes (s : State) : List Byte :=
  ((List.range 8).flatMap fun w => bytesLE 4 (s.rr (Reg.REL_CORE_MAP w)).toNat) ++
    ((List.range 32).flatMap fun c => bytesLE 4 (s.rr (Reg.REL_LG_MAP c)).toNat) ++
    bytesLE 4 (s.rr Reg.REL_IBC_MAP).toNat ++ bytesLE 4 (s.gf Reg.LDPC_ENG_STAT Fld.LDPC_ENG_STAT_SPARE_POS) ++
    ((List.range 4).flatMap fun k => bytesLE 4 (s.gf (Reg.DLK_STAT k) Fld.DLK_STAT_SPARED)) ++ bytesLE 4 s.innMask ++
    bytesLE 4 ((List.range 16).foldl (fun n i => n + s.gf (Reg.PWR_SITE i) Fld.PWR_SITE_STATE * 4 ^ i) 0) ++
    ((List.range 128).flatMap fun k => let o := tget (fun _ => 0) s.objMap k; bytesLE 2 (if o = 0 then 0xFFFF else o - 1))

/-- The record of 65,536 bytes with a sequence number. -/
def State.wearRecord (s : State) (seq : Nat) : List Byte :=
  let head := bytesLE 4 0x57524331 ++ bytesLE 2 1 ++ [0xB0, 0] ++ bytesLE 4 seq ++ bytesLE 4 s.poh ++
    bytesLE 4 (s.rr Reg.REL_TCYC).toNat ++ bytesLE 2 s.wearNext ++ bytesLE 2 s.wearN ++
    bytesLE 2 (s.gf Reg.REL_WEAR Fld.REL_WEAR_VWEAR)
  let counts := (List.range 32).flatMap fun i => bytesLE 4 (tget (fun _ => 0) s.wearCnt i)
  let hist := (List.range 1792).flatMap fun i => bytesLE 32 (tget (fun _ => 0) s.wearHist i)
  let body := padTo 0x40 0 head ++ padTo 0xC0 0 counts ++ padTo 0x400 0 s.wearMapBytes ++
    padTo 0x800 0xFF (s.repairs.flatMap fun r => bytesLE 4 r) ++ padTo 0x300 0xFF (s.tierFix.flatMap fun r => bytesLE 8 r) ++ hist
  let body := padTo 0xFFFC 0 body
  body ++ bytesLE 4 (crc32c body)

/-- A write is due (R479): a change not yet recorded, or an hour since the last one. -/
def State.wearDue (s : State) : Bool := s.wearDirty || decide (s.wearAt + 2160000000000 ≤ s.cycle)

/-- The bank a write goes to, as REL.WREC_STAT.BANK names it: the one without the newest record. -/
def State.wearBank (s : State) : Nat := if s.gf Reg.REL_WREC_STAT Fld.REL_WREC_STAT_BANK = 1 then 2 else 1

/-- WEAR_RECORD_WRITE (R479): one write with its retry ends with `out` 0 OK, 1 a record that does not read back, 2 a flash that
does not answer; it waits while an SMBus program or erase runs (R608). What a failed write leaves in its bank is free. -/
def execWearRecordWrite (out : Fin 3) (s : State) : Host.Outcome State Fault Refusal :=
  let b := s.wearBank
  let a := if b = 1 then s.wrec.1 else s.wrec.2
  if !s.alive || !s.wearDue || s.flashOp.isSome || a == 0 then .next s
  else
    let seq := ((s.rr Reg.REL_WREC_SEQ).toNat + 1) % 2 ^ 32
    let r := Reg.REL_WREC_STAT
    let t := { s with wearDirty := false, wearAt := s.cycle }
    if out.val = 0 then
      let t := (t.flErase a 65536).flSet a (s.wearRecord seq)
      .next (((t.wr Reg.REL_WREC_SEQ (BitVec.ofNat 32 seq)).sf r Fld.REL_WREC_STAT_BANK b).sf r Fld.REL_WREC_STAT_STATUS St.ok)
    else
      let (d, t) := t.draw
      let t := (t.flSet a (bytesLE 65536 d)).sf r Fld.REL_WREC_STAT_STATUS (if out.val = 1 then St.integrity else St.timeout)
      .next (t.setFlag Reg.REL_FLAG 10)

/-! ### At start (R480) -/

/-- A bank holds a valid record. -/
def State.bankValid (s : State) (a : Nat) : Bool :=
  let bs := s.flBytes a 65536
  s.flLE a 4 == 0x57524331 && s.flLE (a + 4) 2 == 1 && s.flLE (a + 0xFFFC) 4 == crc32c (bs.take 0xFFFC)

/-- Spares not in service after a map is applied (R484). -/
def State.wearSpares (s : State) : State :=
  let n (p : Nat → Bool) (k : Nat) : Nat := ((List.range k).filter p).length
  let left (s : State) (k used : Nat) : State :=
    s.sf (Reg.REL_SPARES k) Fld.REL_SPARES_LEFT (s.gf (Reg.REL_SPARES k) Fld.REL_SPARES_TOTAL - used)
  let s := left s 0 (n (fun c => s.gf (Reg.REL_LG_MAP c) Fld.REL_LG_MAP_LG != 15) 32)
  let s := left s 1 (n (fun w => s.gf (Reg.REL_CORE_MAP w) Fld.REL_CORE_MAP_PHYS != 0x688) 8)
  let s := left s 2 (n (fun c => s.gf (Reg.REL_LG_MAP c) Fld.REL_LG_MAP_BANK != 63) 32)
  let s := left s 3 s.repairs.length
  let s := left s 5 ((if s.gf Reg.REL_IBC_MAP Fld.REL_IBC_MAP_SUB0 = 31 then 0 else 1) + (if s.gf Reg.REL_IBC_MAP Fld.REL_IBC_MAP_SUB1 = 31 then 0 else 1))
  let s := left s 6 (if s.gf Reg.LDPC_ENG_STAT Fld.LDPC_ENG_STAT_SPARE_POS = 7 then 0 else 1)
  let s := left s 9 (n (fun k => s.gf (Reg.DLK_STAT k) Fld.DLK_STAT_SPARED != 15) 4)
  let s := left s 10 (n (fun k => tget (fun _ => 0) s.objMap k != 0) 128)
  let s := left s 11 (if s.innMask = 0 then 0 else 1)
  let s := s.showFrames
  left s 13 (n (fun i => s.gf (Reg.PWR_SITE i) Fld.PWR_SITE_STATE == 1 || s.gf (Reg.PWR_SITE i) Fld.PWR_SITE_STATE == 2) 16)

/-- Physical units that a map shows out of service. -/
def State.wearRetired (s : State) (inn : Nat) : List (Nat × Nat) :=
  ((List.range 8).flatMap fun w =>
    if s.gf (Reg.REL_CORE_MAP w) Fld.REL_CORE_MAP_PHYS = 0x688 then []
    else ((List.range 5).filter fun q => !(List.range 4).any fun i => s.physCore (4 * w + i) == 5 * w + q).map fun q => (1, 5 * w + q)) ++
    ([s.gf Reg.REL_IBC_MAP Fld.REL_IBC_MAP_SUB0, s.gf Reg.REL_IBC_MAP Fld.REL_IBC_MAP_SUB1].filter fun n => decide (n < 16)).map (fun n => (5, n)) ++
    ((List.range 3).filter fun i => inn.testBit i).map fun i => (11, i)

/-- Apply a record's map, repairs, counts and history; a hard repair that was pending is applied (R212). -/
def State.wearApply (s : State) (a : Nat) : State :=
  let f (o n : Nat) : Nat := s.flLE (a + o) n
  let s := (List.range 8).foldl (fun (t : State) w => t.wr (Reg.REL_CORE_MAP w) (BitVec.ofNat 32 (f (0x100 + 4 * w) 4 % 2 ^ 20))) s
  let s := (List.range 32).foldl (fun (t : State) c => t.wr (Reg.REL_LG_MAP c) (BitVec.ofNat 32 (f (0x120 + 4 * c) 4))) s
  let s := (s.wr Reg.REL_IBC_MAP (BitVec.ofNat 32 (f 0x1A0 4))).sf Reg.LDPC_ENG_STAT Fld.LDPC_ENG_STAT_SPARE_POS (f 0x1A4 4)
  let s := (List.range 4).foldl (fun (t : State) k =>
    let p := f (0x1A8 + 4 * k) 4 % 16
    (t.sf (Reg.DLK_STAT k) Fld.DLK_STAT_SPARED p).setLink k fun l => { l with lanes := if p = 15 then [] else [p] }) s
  let inn := f 0x1B8 4
  let fixes := ((List.range 96).map fun i => f (0xD00 + 8 * i) 8).filter (· != 2 ^ 64 - 1)
  let s := (List.range 16).foldl (fun (t : State) i => t.sf (Reg.PWR_SITE i) Fld.PWR_SITE_STATE (f 0x1BC 4 / 4 ^ i)) s
  let s := { s with
    objMap := (List.range 128).foldl (fun t k => let o := f (0x1C0 + 2 * k) 2; tput (fun _ => 0) t k (if o = 0xFFFF then 0 else o + 1)) []
    repairs := ((List.range 512).map fun i => f (0x500 + 4 * i) 4).filter (· != 2 ^ 32 - 1)
    tierFix := fixes.map fun e => if fixKind e = 0 then e + 2 ^ 8 else e
    wearDirty := s.wearDirty || fixes.any fun e => fixKind e == 0
    wearCnt := (List.range 32).foldl (fun t i => tput (fun _ => 0) t i (f (0x40 + 4 * i) 4)) []
    wearHist := (List.range 1792).foldl (fun t i => tput (fun _ => 0) t i (f (0x1000 + 32 * i) 32)) []
    wearNext := f 0x14 2, wearN := f 0x16 2, retired := s.wearRetired inn }
  let s := (s.wr Reg.REL_POH (BitVec.ofNat 32 (f 0xC 4))).wr Reg.REL_TCYC (BitVec.ofNat 32 (f 0x10 4))
  (s.sf Reg.REL_WEAR Fld.REL_WEAR_VWEAR (f 0x18 2)).wearSpares

/-- Read both banks, take the newer valid record; with none, the fused map alone, and a record with SEQ 1 to write. -/
def State.wearStart (s : State) (a b : Nat) : State :=
  let va := s.bankValid a
  let vb := s.bankValid b
  let r := Reg.REL_WREC_STAT
  let s := { (s.sf r Fld.REL_WREC_STAT_A_VALID (if va then 1 else 0)).sf r Fld.REL_WREC_STAT_B_VALID (if vb then 1 else 0) with
    wrec := (a, b), wearAt := s.cycle }
  let take (s : State) (bank at_ : Nat) : State :=
    ((s.wearApply at_).sf r Fld.REL_WREC_STAT_BANK bank).wr Reg.REL_WREC_SEQ (BitVec.ofNat 32 (s.flLE (at_ + 8) 4))
  if va && (!vb || newerA (s.flLE (a + 8) 4) (s.flLE (b + 8) 4)) then take s 1 a
  else if vb then take s 2 b
  else { s.setFlag Reg.REL_FLAG 11 with wearDirty := true }

/-! ### Margin (R475) -/

/-- A unit has a spare a planned remap can bring in. -/
def State.hasSpare (s : State) : RelUnit → Bool
  | .lane c _ => s.gf (Reg.REL_LG_MAP c.val) Fld.REL_LG_MAP_LG == 15
  | .core c => (s.wingSpare (c.val / 4)).isSome
  | .bank c _ => s.gf (Reg.REL_LG_MAP c.val) Fld.REL_LG_MAP_BANK == 63
  | .iambel _ => [16, 17].any fun k => !s.retired.contains (5, k) && (if k = 16 then s.gf Reg.REL_IBC_MAP Fld.REL_IBC_MAP_SUB0 == 31
      else s.gf Reg.REL_IBC_MAP Fld.REL_IBC_MAP_SUB1 == 31)
  | .engine _ => s.gf Reg.LDPC_ENG_STAT Fld.LDPC_ENG_STAT_SPARE_POS == 7 && decide (0 < s.left 6)
  | .object _ => decide (0 < s.left 10)
  | _ => false

/-- Cycles since a past event are enough; the first time always. -/
def State.since (s : State) (t : Option Nat) (n : Nat) : Bool :=
  match t with
  | some t => decide (t + n ≤ s.cycle)
  | none => true

/-- A margin below target: one 5 mV step of VWEAR, or at WEAR_VMAX a planned remap of the weakest unit. -/
def State.lowMargin (s : State) (u : RelUnit) : State :=
  if s.gf Reg.PWR_VDD Fld.PWR_VDD_SET + 5 ≤ s.gf Reg.REL_WEAR_CFG Fld.REL_WEAR_CFG_WEAR_VMAX then
    if s.since s.wearStep 60000000 then
      let s := s.sf Reg.REL_WEAR Fld.REL_WEAR_VWEAR (s.gf Reg.REL_WEAR Fld.REL_WEAR_VWEAR + 5)
      let s := { s with wearStep := some s.cycle, wearDirty := true }
      (s.setFlag Reg.REL_FLAG 7).history (relCls u) 6 6 (s.unitIx u) 0xFFFF none
    else s
  else if !s.hasSpare u then s.setFlag Reg.REL_FLAG 9
  else if s.since s.wearMap 600000000 then
    { (s.remap u 6 5).1 with wearMap := some s.cycle }.setFlag Reg.REL_FLAG 8
  else s

/-- MARGIN_CHECK (R475): the least margin in 0.01 %, and the weakest unit of its region. The wear loop is suspended in
MANUFACTURE. -/
def execMarginCheck (margin : Int) (u : RelUnit) (s : State) : Host.Outcome State Fault Refusal :=
  if !s.alive then .next s
  else
    let s := s.sf Reg.REL_WEAR Fld.REL_WEAR_MARGIN_MIN (BitVec.ofInt 16 margin).toNat
    let tgt : Int := 10 * s.gf Reg.REL_WEAR_CFG Fld.REL_WEAR_CFG_MARGIN_TGT
    .next (if tgt ≤ margin ∨ s.gf Reg.SEC_LC Fld.SEC_LC_STATE = 0 then s else s.lowMargin u)

/-! ### Lockstep (R476) -/

/-- The three Innkeeper cores disagree, or the pair with no standby: NO_SPARE and a full restart. -/
def State.innLost (s : State) : State := (s.noSpare 11 4 0 none).fullRestart

/-- LOCKSTEP_MISMATCH (R476). -/
def execLockstepMismatch (v : Vote) (s : State) : Host.Outcome State Fault Refusal :=
  if !s.alive then .next s
  else match v with
    | .agrees => let (d, s) := s.draw; .next (s.relTrans 11 4 (d % 3) none)
    | .outvoted c =>
      let s := s.relLasting 11 none
      if s.left 11 = 0 then .next s.innLost
      else
        let (d, s) := s.draw
        let s := { s.spend 11 false none with retired := s.retired ++ [(11, c.val)] }
        .next (s.relFault 11 4 1 c.val (d % 3) none)
    | .allDiffer => .next (s.relLasting 11 none).innLost

/-! ### Firmware update (R477) -/

/-- Show the phase and status of an update. -/
def State.fwShow (s : State) (phase st : Nat) : State :=
  (s.sf Reg.REL_FWUPD_STAT Fld.REL_FWUPD_STAT_PHASE phase).sf Reg.REL_FWUPD_STAT Fld.REL_FWUPD_STAT_STATUS st

/-- GO of REL.FWUPD_CTL: `sig` tells whether the new firmware verifies under R539. -/
def State.fwGo (s : State) (target : Nat) (sig : Bool) (digest : Nat) : State :=
  let refuse (s : State) (st : Nat) : State := (s.sf Reg.REL_FWUPD_STAT Fld.REL_FWUPD_STAT_STATUS st).countStatus 7 st none
  if target = 3 then refuse s St.format
  else if s.fwNew.isSome then refuse s St.busy
  else if !sig then refuse (s.setFlag Reg.SEC_FLAG 8) St.integrity
  else ({ s with fwNew := some (target, digest) }.fwShow 1 St.ok).countStatus 7 St.ok none

/-- A write of REL.FWUPD_CTL (R486): TARGET is held; GO starts the update. -/
def State.fwCtl (s : State) (who : Requester) (target : Nat) (go sig : Bool) (digest : Nat) : State :=
  s.asPwr who Reg.REL_FWUPD_CTL fun s =>
    let s := s.wr Reg.REL_FWUPD_CTL (BitVec.ofNat 32 (target % 4))
    if go then s.fwGo target sig digest else s

/-- FWUPD (R477). -/
def execFwupd (who : Requester) (t : Fin 4) (sig : Bool) (digest : BitVec 384) (s : State) : Host.Outcome State Fault Refusal :=
  .next (s.fwCtl who t.val true sig digest.toNat)

/-- FWUPD_PHASE_END (R477): an Innkeeper update goes from phase to phase, a fault in phase 4 ends it FAILED; an update of the
Porter or Steward ends when that processor has restarted. -/
def execFwupdPhaseEnd (ok : Bool) (s : State) : Host.Outcome State Fault Refusal :=
  match s.fwNew with
  | none => .next s
  | some (t, d) =>
    let p := s.gf Reg.REL_FWUPD_STAT Fld.REL_FWUPD_STAT_PHASE
    if t = 0 ∧ p = 4 ∧ !ok then .next ({ s with fwNew := none }.fwShow 7 St.failed)
    else if t = 0 ∧ p < 5 then .next (s.fwShow (p + 1) St.ok)
    else .next ({ s with fwNew := none, fw := tput (fun _ => 0) s.fw t d }.fwShow 6 St.ok)

end Sys2Proof.Machine
end

