-- ==== Sys2Proof/Machine/PowerCmd.lean ====
section
/-! DEFINITION. What Steward does in service (spec/17): voltage (R564 to R566), temperature and duties (R567 to R571), domains
(R561, R562), deep standby (R572), the confirmation of a trial image (R549). -/
namespace Sys2Proof.Machine
open Sys2Proof

/-- The signed value of a 16-bit temperature field, in 0.125 °C. -/
def sgn16 (v : Nat) : Int := (BitVec.ofNat 16 v).toInt

/-- T_hot, and THR and TRIP, in 0.125 °C. -/
def State.tHot (s : State) : Int := sgn16 (s.gf Reg.PWR_THERM Fld.PWR_THERM_T_HOT)
def State.thr (s : State) : Int := 8 * s.gf Reg.PWR_THERM_CFG Fld.PWR_THERM_CFG_THR
def State.trip (s : State) : Int := 8 * s.gf Reg.PWR_THERM_CFG Fld.PWR_THERM_CFG_TRIP

/-! ### Voltage (R564 to R566) -/

/-- Temperatures of VTAB's points, °C. -/
def vtabTemps : List Int := [-40, -15, 10, 35, 60, 85, 100, 110]

/-- interpolate(VTAB, t) + add rounded up to 5 mV: between two points linear, t in 0.125 °C. -/
def vInterp (t : Int) (add : Nat) : Nat :=
  let seg := (List.range 7).find? fun i => decide (8 * vtabTemps.getD i 0 ≤ t) && decide (t ≤ 8 * vtabTemps.getD (i + 1) 0)
  match seg with
  | some i =>
    let a := 8 * vtabTemps.getD i 0
    let b := 8 * vtabTemps.getD (i + 1) 0
    let num : Int := (Config.vtab i : Int) * (b - t) + (Config.vtab (i + 1) : Int) * (t - a)
    5 * cdiv (num.toNat + add * (b - a).toNat) (5 * (b - a).toNat)
  | none => 5 * cdiv (Config.vtabOut t + add) 5

/-- v_set of R564. -/
def State.vSet (s : State) : Nat := max 720 (min 900 (vInterp s.tHot (s.gf Reg.REL_WEAR Fld.REL_WEAR_VWEAR)))

/-- The lifecycle state is MANUFACTURE. -/
def State.isMfg (s : State) : Bool := s.gf Reg.SEC_LC Fld.SEC_LC_STATE == 0

/-- A requested fixed voltage; 0 none. -/
def State.vReq (s : State) : Nat := s.gf Reg.PWR_VREQ Fld.PWR_VREQ_REQ

/-- The set-point Steward steers to: a fixed voltage counts in MANUFACTURE only (R566). -/
def State.vTarget (s : State) : Nat := if s.isMfg ∧ s.vReq ≠ 0 then s.vReq else s.vSet

/-- The set-point 1 ms on: raised to a higher one, lowered by at most 5 mV (R564). -/
def vStep (cur target : Nat) : Nat := if cur = 0 ∨ cur ≤ target then target else max target (cur - 5)

/-- Give the duties new values: THROTTLE and PROTECT_GATED when one first falls below 16/16, POLICY_OVERRIDE when the
unprotected one falls below FLOOR (R568 to R570). -/
def State.setDuty (s : State) (du dp : Nat) : State :=
  let r := Reg.PWR_THERM
  let u := s.gf r Fld.PWR_THERM_DU
  let p := s.gf r Fld.PWR_THERM_DP
  let fl := s.gf Reg.PWR_FLOOR Fld.PWR_FLOOR_FLOOR
  let s := (s.sf r Fld.PWR_THERM_DU du).sf r Fld.PWR_THERM_DP dp
  let s := s.setFlagIf (u == 16 && decide (du < 16)) Reg.PWR_FLAG 2
  let s := s.setFlagIf (p == 16 && decide (dp < 16)) Reg.PWR_FLAG 3
  s.setFlagIf (decide (fl ≤ u) && decide (du < fl)) Reg.PWR_FLAG 0

/-- A PMBus change or read that stays unconfirmed after its retries: PMBUS_FAIL, and the duties held at 8/16 or less (R565). -/
def State.pmbusFail (s : State) : State :=
  let s := { s.setFlag Reg.PWR_FLAG 5 with pmbFail := true }
  s.setDuty (min 8 (s.gf Reg.PWR_THERM Fld.PWR_THERM_DU)) (min 8 (s.gf Reg.PWR_THERM Fld.PWR_THERM_DP))

/-- VSET_UPDATE (R564, R565): the set-point's next value, READ_VOUT in mV, READ_IOUT in 0.1 A, and whether a change of voltage
was confirmed. -/
def execVsetUpdate (vout iout : Nat) (confirmed : Bool) (s : State) : Host.Outcome State Fault Refusal :=
  if !s.alive then .next s
  else
    let cur := s.gf Reg.PWR_VDD Fld.PWR_VDD_SET
    let new := vStep cur s.vTarget
    let (d, s) := s.draw
    let s := s.wr Reg.PWR_VDD (BitVec.ofNat 32 (new + 2 ^ 16 * vout))
    let s := s.wr Reg.PWR_POWER (BitVec.ofNat 32 ((vout * iout + d % 1000) / 1000 % 65536 + 2 ^ 16 * iout))
    let s := s.setFlagIf (new != cur && !s.isMfg && s.vReq != 0 && s.vReq != new) Reg.PWR_FLAG 0
    if new = cur ∧ !s.pmbFail then .next s
    else if confirmed then .next { s with pmbFail := false }
    else .next s.pmbusFail

/-- A write of PWR.VREQ (R566, R576). -/
def State.vreqWrite (s : State) (v : Word) : State :=
  let n := v.toNat % 65536
  if n ≠ 0 ∧ (n < 720 ∨ 900 < n) then s
  else
    let s := s.wr Reg.PWR_VREQ (BitVec.ofNat 32 n)
    if n = 0 then s
    else if s.isMfg then s.sf Reg.PWR_VDD Fld.PWR_VDD_SET n
    else s.setFlagIf (n != s.gf Reg.PWR_VDD Fld.PWR_VDD_SET) Reg.PWR_FLAG 0

/-- VREQ_WRITE (R566). -/
def execVreqWrite (who : Requester) (v : Word) (s : State) : Host.Outcome State Fault Refusal :=
  .next (s.asWrite who Reg.PWR_VREQ fun s => s.vreqWrite v)

/-- PMB_ALERT (R623): Steward reads STATUS_WORD; a read that fails after its retries counts as R565 says. -/
def execPmbAlert (ok : Bool) (s : State) : Host.Outcome State Fault Refusal := .next (if s.alive && !ok then s.pmbusFail else s)

/-! ### Temperature (R567 to R571, R478) -/

/-- Count a thermal cycle (R478). -/
def State.thermCycle (s : State) (t : Int) : State :=
  match s.therm with
  | none => { s with therm := some (t, t, false) }
  | some (mn, mx, risen) =>
    if risen then
      let mx := max mx t
      if t ≤ mx - 320 then { s.wr Reg.REL_TCYC (s.rr Reg.REL_TCYC + 1) with therm := some (t, t, false) }
      else { s with therm := some (mn, mx, true) }
    else
      let mn := min mn t
      { s with therm := some (mn, t, decide (mn + 320 ≤ t)) }

/-- A sensor of a site is retired (R567): the site's state, SENSOR_RETIRED, the spare it used up (R484). -/
def State.retireSensor (s : State) (i : Nat) (isA : Bool) : State :=
  let (d, s) := s.draw
  let s := (s.sf (Reg.PWR_SITE i) Fld.PWR_SITE_STATE (if isA then 1 else 2)).setFlag Reg.PWR_FLAG 1
  (((s.relLasting 13 none).spend 13 false none)).relFault 13 (d % 7) 1 (2 * i + (if isA then 0 else 1)) (2 * i + (if isA then 1 else 0)) none

/-- Read one site: its value is shown. -/
def State.readSite (s : State) (ts : List Int) (i : Nat) : State :=
  let r := Reg.PWR_SITE i
  let a := ts.getD (2 * i) 0
  let b := ts.getD (2 * i + 1) 0
  let show_ (s : State) (t : Int) : State := s.sf r Fld.PWR_SITE_T (BitVec.ofInt 16 t).toNat
  match s.gf r Fld.PWR_SITE_STATE with
  | 0 =>
    if (a - b).natAbs ≤ 24 then show_ s (max a b)
    else if Config.farA i ts then show_ (s.retireSensor i true) b
    else show_ (s.retireSensor i false) a
  | 1 => show_ s b
  | 2 => show_ s a
  | _ => show_ s 880

/-- T_hot reaches TRIP (R571): every switched domain goes off. -/
def State.tripOff (s : State) : State := ((s.powerOff fun _ => false).bootGo 5).setFlag Reg.PWR_FLAG 4

/-- SENSOR_READ (R567): the readings of both sensors of every site, in 0.125 °C; a sensor not listed keeps its last one. A trip
is made and cleared here (R571). -/
def execSensorRead (t : List Int) (s : State) : Host.Outcome State Fault Refusal :=
  if !s.alive then .next s
  else
    let ts := (List.range 32).map fun i => t.getD i (tget (fun _ => 0) s.sensors i)
    let s := { s with sensors := tputN (fun _ => 0) (fun i => ts.getD i 0) 0 32 s.sensors }
    let s : State := (List.range 16).foldl (fun (s : State) i => s.readSite ts i) s
    let hot : Int := (List.range 16).foldl (fun m i => max m (sgn16 (s.gf (Reg.PWR_SITE i) Fld.PWR_SITE_T))) (sgn16 (s.gf (Reg.PWR_SITE 0) Fld.PWR_SITE_T))
    let s := (s.sf Reg.PWR_THERM Fld.PWR_THERM_T_HOT (BitVec.ofInt 16 hot).toNat).thermCycle hot
    if s.gf Reg.PWR_BOOT Fld.PWR_BOOT_STATE = 5 then .next (if hot ≤ s.thr - 160 then s.fullRestart else s)
    else .next (if s.trip ≤ hot then s.tripOff else s)

/-- A duty that may rise 10 ms after it last rose, up to 8/16 while a voltage change stands unconfirmed. -/
def State.mayRise (s : State) (d last : Nat) : Bool := decide (d < if s.pmbFail then 8 else 16) && decide (last + 6000000 ≤ s.cycle)

/-- THROTTLE_UPDATE (R568, R569). -/
def execThrottleUpdate (s : State) : Host.Outcome State Fault Refusal :=
  if !s.alive then .next s
  else
    let du := s.gf Reg.PWR_THERM Fld.PWR_THERM_DU
    let dp := s.gf Reg.PWR_THERM Fld.PWR_THERM_DP
    let down (d : Nat) : Nat := max 1 (d - 1)
    if s.thr ≤ s.tHot then
      let follow := decide (dp < 16) || (du == 1 && decide (s.thr + 16 ≤ s.tHot))
      .next (s.setDuty (down du) (if follow then down dp else dp))
    else if s.tHot < s.thr - 16 then
      if dp < 16 then
        .next (if s.mayRise dp s.dutyUp.2 then { s.setDuty du (dp + 1) with dutyUp := (s.dutyUp.1, s.cycle) } else s)
      else .next (if s.mayRise du s.dutyUp.1 then { s.setDuty (du + 1) dp with dutyUp := (s.cycle, s.dutyUp.2) } else s)
    else .next s

/-! ### Domains (R561, R562) -/

/-- A word of PWR.DOM_REQ with a field of 3 left as it was (R577). -/
def domMerge (old new : Word) : Nat :=
  (List.range 16).foldl (fun n i =>
    let v := nbits new.toNat (2 * i + 1) (2 * i)
    n + 4 ^ i * (if v = 3 then nbits old.toNat (2 * i + 1) (2 * i) else v)) 0

/-- A write of PWR.DOM_REQ (R561) that writes the bits of the mask `m` (R22): OFF for a needed domain is kept, with DOM_REFUSED. -/
def State.domReqWrite (s : State) (k m : Nat) (v : Word) : State :=
  let s := s.wr (Reg.PWR_DOM_REQ k) (BitVec.ofNat 32 (domMerge (s.rr (Reg.PWR_DOM_REQ k)) v))
  s.setFlagIf ((List.range 16).any fun i => m.testBit (2 * i) && nbits v.toNat (2 * i + 1) (2 * i) == 2 && s.needed (16 * k + i)) Reg.PWR_FLAG 7

/-- DOM_REQ_WRITE (R561). -/
def execDomReqWrite (who : Requester) (k : Fin 11) (v : Word) (s : State) : Host.Outcome State Fault Refusal :=
  .next (s.asWrite who (Reg.PWR_DOM_REQ k.val) fun s => s.domReqWrite k.val (2 ^ 32 - 1) v)

/-- DOMAIN_SWITCHED (R562): a domain reaches the state R561 asks for. -/
def execDomainSwitched (d : Fin 176) (s : State) : Host.Outcome State Fault Refusal :=
  .next (if s.alive then s.switchDom d.val (s.wantOn d.val) else s)

/-! ### Deep standby (R572) -/

/-- The device is in deep standby. -/
def State.standby (s : State) : Bool := s.gf Reg.PWR_BOOT Fld.PWR_BOOT_STATE == 3

/-- Deep standby ends: the domains that service wants are on again. -/
def State.wake (s : State) : State :=
  let s := (s.bootGo 1).sf Reg.HIF_PCIE Fld.HIF_PCIE_L1 0
  s.powerNeeded s.wantOn

/-- A write of STBY_ENTER. -/
def State.stbyEnter (s : State) : State :=
  if (List.range 16).any s.bound || !s.inService then s.opStat St.state
  else (((s.powerOff fun i => i == 173).bootGo 3).sf Reg.HIF_PCIE Fld.HIF_PCIE_L1 1).opStat St.ok

/-- A write of STBY_EXIT. -/
def State.stbyExit (s : State) : State := if s.standby then s.wake.opStat St.ok else s.opStat St.state

/-- STBY_ENTER (R572). -/
def execStbyEnter (who : Requester) (s : State) : Host.Outcome State Fault Refusal := .next (s.asPwr who Reg.PWR_CTL State.stbyEnter)

/-- STBY_EXIT (R572): the register write, or a PCIe access of a function (`reg` false), which comes before the access itself
(log 44). -/
def execStbyExit (who : Requester) (reg : Bool) (s : State) : Host.Outcome State Fault Refusal :=
  if reg then .next (s.asPwr who Reg.PWR_CTL State.stbyExit)
  else .next (match who with
    | .pf => if s.standby then s.wake else s
    | .vf _ => if s.standby then s.wake else s
    | _ => s)

/-- WAKE (R607). -/
def execWake (pec : Bool) (s : State) : Host.Outcome State Fault Refusal :=
  smbRow pec s fun s => if s.standby then s.wake.smbAnswer St.ok [] else s.smbAnswer St.state []

/-! ### Confirmation (R549) -/

/-- CONFIRM of the image on trial: the directory is written with TRIAL 0. -/
def State.confirm (s : State) : State :=
  if s.gf Reg.PWR_BOOT Fld.PWR_BOOT_TRIAL = 0 then s
  else
    let s := s.sf Reg.PWR_BOOT Fld.PWR_BOOT_TRIAL 0
    match s.dir with
    | some d => s.dirWrite { d with trial := false, tried := false }
    | none => s

/-- CONFIRM (R549). -/
def execConfirm (who : Requester) (s : State) : Host.Outcome State Fault Refusal := .next (s.asPwr who Reg.PWR_BOOT_CTL State.confirm)

end Sys2Proof.Machine
end

