-- ==== Sys2Proof/Machine/Views.lean ====
section
/-! DEFINITION. What a read of a control register returns (R19, R22): the register file, and the registers that show state kept
elsewhere. -/
namespace Sys2Proof.Machine
open Sys2Proof

/-- Index of an offset in an array of n registers from `base`. -/
def ixOf (off base stride n : Nat) : Option Nat :=
  if base ≤ off ∧ (off - base) % stride = 0 ∧ (off - base) / stride < n then some ((off - base) / stride) else none

/-- A slot register's slot. -/
def slotIx (i : Nat) : Slot := if i = 0 then .a else .b

/-- An offset that lies in a hole of R193: past the last block, or the block of an Iambel spare in use (R194, R328). -/
def State.regHole (s : State) (off : Nat) : Bool :=
  decide (0x41 < blockOf off) || (blockOf off == 0x40 && s.gf Reg.REL_IBC_MAP Fld.REL_IBC_MAP_SUB0 != 31) ||
    (blockOf off == 0x41 && s.gf Reg.REL_IBC_MAP Fld.REL_IBC_MAP_SUB1 != 31)

/-! ### Tensor cores -/

/-- A slot of the lodging the core serves now. -/
def State.nowSlot (s : State) (c i : Nat) : TcSlot := s.slotOf c (s.curPart c) (slotIx i)

/-- TC.SLOT_STAT (R126). -/
def TcSlot.stat (t : TcSlot) : Nat :=
  t.st + 2 ^ 8 * t.moves.length + (if t.st = 3 then 2 ^ 16 * t.stopStatus + 2 ^ 24 * t.lastOp else 0)

/-- An LDS, PASS or DRAIN of the core is in flight (R77): a command of its own, or those of a TILE, of an OSIDE or of an ATT
that has begun. -/
def State.engBusy (s : State) (c : Nat) : Bool :=
  (s.tcOf c).slots.any fun (_, t) => t.inflight.any fun e =>
    !e.done && ([0x20, 0x21, 0x22, 0x23].contains (cOp e.w) || ([0x63, 0x70].contains (cOp e.w) && e.begun))

/-- A command of the core waits or writes. -/
def State.tblBusy (s : State) (c op : Nat) : Bool :=
  (s.tcOf c).slots.any fun (_, t) => t.inflight.any fun e => !e.done && cOp e.w == op

/-- TC.QATTACH of one slot: AON, BON and P (R192). -/
def Attach.bits (t : Attach) : Nat × Nat := ((if t.aOn then 1 else 0) + (if t.bOn then 2 else 0), t.p % 128)

/-- Registers of a TC block that show state kept elsewhere. -/
def State.viewTc (s : State) (c o : Nat) : Option Nat :=
  let t := s.tcOf c
  let p := s.curPart c
  if o = 0x90 then some ((s.rr (Reg.TC_ENG_STATE c)).toNat + (if s.engBusy c then 1 else 0))
  else if o = 0x100 then
    some ((List.range 4).foldl (fun n i => n + 4 ^ i * tget (fun _ => 0) t.tbState (4 * p + i)) 0 +
      2 ^ 8 * (tget (fun _ => []) t.ftq p).length)
  else if o = 0x104 then
    match tget (fun _ => []) t.ftq p with
    | e :: _ => some (e % 2 ^ 25 + 2 ^ 31)
    | [] => some 0
  else if o = 0x108 then
    some ((s.rr (Reg.TC_SFN_STATE c)).toNat + (if s.tblBusy c 0x51 then 2 ^ 3 else 0) + (if s.tblBusy c 0x52 then 2 ^ 4 else 0))
  else if o = 0x148 then
    let (a, ap) := (s.nowSlot c 0).att.bits
    let (b, bp) := (s.nowSlot c 1).att.bits
    some (a + 2 ^ 8 * ap + 2 ^ 15 * b + 2 ^ 17 * bp)
  else match ixOf o 0xA4 4 2, ixOf o 0xAC 4 2, ixOf o 0xB4 4 2, ixOf o 0x110 4 8 with
    | some i, _, _, _ => some (s.nowSlot c i).stat
    | _, some i, _, _ => some (s.nowSlot c i).seq
    | _, _, some i, _ => some ((s.nowSlot c i).head + 2 ^ 16 * (s.nowSlot c i).tail)
    | _, _, _, some k =>
      let d := tget (fun _ => DirEnt.unused) t.dir k
      some (d.kind % 256 + 2 ^ 8 * (d.nseg % 128) + (if d.mono then 2 ^ 15 else 0))
    | _, _, _, _ => none

/-! ### Iambel cores -/

/-- Registers of an IBC block that show state kept elsewhere (R370 to R373); a W1S
field reads the bits it sets (R19; log 76). -/
def State.viewIbc (s : State) (n o : Nat) : Option Nat :=
  let b := s.ibcOf n
  if o = 0 then some (2 ^ 16 * s.gf (Reg.IBC_CTL n) Fld.IBC_CTL_REP_LIMIT + (if b.st = 0 ∨ b.st = 4 then 0 else 1))
  else if o = 0x20 then some (s.gf (Reg.IBC_IRQ_PEND n) Fld.IBC_IRQ_PEND_PEND)
  else if o = 8 then some (b.st + 2 ^ 5 * b.a.lev + 2 ^ 16 * (b.a.pc % 2 ^ 14))
  else if o = 0x48 then some b.xq.length
  else none

/-- A register of R335 in a set, as the debug port reads it: accumulator numbers raw (R636). -/
def IbArch.dbgRead (a : IbArch) (shadow : Bool) (r : Nat) : Word :=
  if 16 ≤ r ∧ r < 20 then BitVec.ofInt 32 (a.ac (r - 16) / 2 ^ 32)
  else BitVec.ofInt 32 ({ a with high := shadow }.mvRead r).1

/-- The same register written (R636). -/
def IbArch.dbgWrite (a : IbArch) (shadow : Bool) (r : Nat) (v : Word) : IbArch :=
  if 16 ≤ r ∧ r < 20 then
    let old := a.ac (r - 16)
    { a with acc := tput (fun _ => 0) a.acc (r - 16) (old - old / 2 ^ 32 % 2 ^ 32 * 2 ^ 32 + v.toNat * 2 ^ 32) }
  else a.apply ⟨0, 0, shadow, mvDst r, v.toInt⟩

/-- The register and set that DBG.IBC_REG_SEL names (R642). -/
def State.regSel (s : State) (n : Nat) : Bool × Nat :=
  (s.gf (Reg.DBG_IBC_REG_SEL n) Fld.DBG_IBC_REG_SEL_SHADOW == 1, s.gf (Reg.DBG_IBC_REG_SEL n) Fld.DBG_IBC_REG_SEL_NUM)

/-- Registers of the DBG block that show state kept elsewhere (R642, R643); IBC_REG_DATA reads 0 while the core runs. -/
def State.viewDbg (s : State) (o : Nat) : Option Nat :=
  match ixOf o 0x100 0x80 16, ixOf o 0x10C 0x80 16, ixOf o 0xA00 0x10 32 with
  | some n, _, _ => some ((s.rr (Reg.DBG_IBC_CTL n)).toNat + (if (s.ibcOf n).st = 5 then 2 ^ 8 else 0))
  | _, some n, _ =>
    let (sh, r) := s.regSel n
    some (if (s.ibcOf n).st = 5 then ((s.ibcOf n).a.dbgRead sh r).toNat else 0)
  | _, _, some c =>
    let halted (i : Nat) : Nat := if (s.nowSlot c i).st = 4 then 1 else 0
    some ((s.rr (Reg.DBG_TC_CTL c)).toNat + 2 ^ 16 * halted 0 + 2 ^ 17 * halted 1)
  | _, _, _ => none

/-! ### Lodgings -/

/-- LDG.STAT.STATE (R418). Teardowns and partial resets are made in one step, so TEARDOWN and RESET are never seen. -/
def State.ldgState (s : State) (l : Nat) : Nat :=
  let g := s.lodgeOf l
  if !s.bound l then 0 else if g.dbgAt.isSome then 6 else if g.run.isNone then 1 else if g.yieldAt.isSome then 3 else 2

/-- Registers of the LDG block that show state kept elsewhere (R428). -/
def State.viewLdg (s : State) (o : Nat) : Option Nat :=
  match ixOf o 0x124 0x40 16, ixOf o 0x128 0x40 16 with
  | some l, _ => some ((s.rr (Reg.LDG_STAT l)).toNat / 2 ^ 24 * 2 ^ 24 + 2 ^ 16 * (s.lodgeOf l).queue.length + s.ldgState l)
  | _, some l => some (match (s.lodgeOf l).run with
    | some w => w.id
    | none => 0)
  | _, _ => none

/-! ### Time -/

/-- The four words of a time: fraction, nanoseconds, seconds. -/
def timeWord (t i : Nat) : Nat :=
  if i = 0 then tFrac t else if i = 1 then tNs t else if i = 2 then tSec t % 2 ^ 32 else tSec t / 2 ^ 32

/-- Registers of a time base (R436, R438, R462). -/
def State.viewBase (s : State) (who : Requester) (t o : Nat) : Option Nat :=
  let b := s.tbOf t
  if o = 0 then some (tFrac b.t)
  else if o < 0x10 then some (timeWord (s.latchOf who t) (o / 4))
  else if o = 0x10 then some (b.incr % 2 ^ 32)
  else if o = 0x14 then some (b.incr / 2 ^ 32)
  else if o = 0x2C then some (if b.ovr.isSome then 2 ^ 8 else 0)
  else if o = 0x30 then
    some ((s.rr (Reg.TB_STAT t)).toNat / 2 ^ 24 * 2 ^ 24 + (if b.rem ≠ 0 then 2 else 0) + (if b.running then 1 else 0))
  else if o = 0x34 then some (BitVec.ofInt 32 (b.rem.tdiv nsU)).toNat
  else none

/-- Registers of a comparator (R446, R463). -/
def State.viewCmp (s : State) (k o : Nat) : Option Nat :=
  let c := s.cmpOf k
  if o = 0x1C then some ((if c.armed then 2 ^ 8 else 0) + 2 ^ 16 * c.missed)
  else if !s.cmpAir k then none
  else if o = 0 then
    some ((s.rr (Reg.TB_CMP_CFG k)).toNat % 2 ^ 24 + 2 ^ 24 * s.cmpTb k + 2 ^ 26 * s.carLdg (k - 24) + 2 ^ 31)
  else if o < 0x10 then some (timeWord c.due (o / 4))
  else if o = 0x10 then some (c.per / nsU)
  else if o = 0x14 then some (tFrac c.per)
  else none

/-- Registers of a capture unit, which its owner alone reads (R447, R463). -/
def State.viewCapt (s : State) (who : Requester) (i o : Nat) : Option Nat :=
  let q := (s.captOf i).fifo
  if o = 0 then none
  else if !s.isOwner who (s.captOwner i) then some 0
  else match q with
    | [] => some 0
    | e :: _ =>
      if o < 0x14 then some (timeWord e.t (o / 4 - 1)) else some (2 ^ 16 * e.seq + (if e.fall then 2 ^ 12 else 0) + 2 ^ 8 * q.length)

/-- Registers of the TB block that show state kept elsewhere. -/
def State.viewTb (s : State) (who : Requester) (o : Nat) : Option Nat :=
  if inWin o 0x100 0x100 then s.viewBase who ((o - 0x100) / 0x40) ((o - 0x100) % 0x40)
  else if inWin o 0x400 0x400 then s.viewCmp ((o - 0x400) / 0x20) ((o - 0x400) % 0x20)
  else if inWin o 0x800 0x100 && decide ((o - 0x800) % 0x20 < 0x18) then s.viewCapt who ((o - 0x800) / 0x20) ((o - 0x800) % 0x20)
  else none

/-! ### The rest -/

/-- Registers of the AIR block that show state kept elsewhere (R285, R296). -/
def State.viewAir (s : State) (o : Nat) : Option Nat :=
  match ixOf o 0x114 0x40 8, ixOf o 0x124 0x40 8 with
  | some a, _ =>
    let v := (s.rr (Reg.AIR_CAR_STAT a)).toNat
    some (if s.carOn a && s.carDebug a then v / 4 * 4 + 3 else v)
  | _, some a => some (if s.carOn a then (s.slotNow a).1 + 2 ^ 16 * (s.slotNow a).2 else 0)
  | _, _ => none

/-- A requester's mailbox registers (R540, R542). -/
def State.viewMb (s : State) (who : Requester) (o : Nat) : Option Nat :=
  if o = 0x14 then some (tget (fun _ => 0) s.mbStat (reqIx who)).toNat
  else if inWin o 0x8000 0x1000 then some (ofBytes ((List.range 4).map fun i => s.mb who (o - 0x8000 + i)))
  else none

/-- Registers of any block that show state kept elsewhere. -/
def State.viewOf (s : State) (who : Requester) (off : Nat) : Option Nat :=
  let b := blockOf off
  let o := off % 0x10000
  if b = 0 then s.viewLdg o
  else if b = 2 then s.viewTb who o
  else if b = 6 then s.viewMb who o
  else if b = 7 then (if off = Reg.REL_POH then some s.poh else none)
  else if b = 0xB then s.viewAir o
  else if b = 0xF then s.viewDbg o
  else if 0x10 ≤ b ∧ b < 0x30 then s.viewTc (b - 0x10) o
  else if 0x30 ≤ b then s.viewIbc (b - 0x30) o
  else none

/-- The staged value of a register that its owner reads while the staging is open (R421). -/
def State.stagedView (s : State) (who : Requester) (off : Nat) (v : Word) : Word :=
  if s.stgSt ≠ 0 ∧ ownerCode who = s.stgOwner then
    match s.stg.vals.find? fun x => x.1 == off with
    | some (_, x) => mergeBits v x (rwlMask off)
    | none => v
  else v

/-- What a read of a register shows: no side effect. -/
def State.view (s : State) (who : Requester) (off : Nat) : Word :=
  if s.regHole off then 0
  else
    let v := match s.viewOf who off with
      | some n => BitVec.ofNat 32 n
      | none => s.rr off
    s.stagedView who off v

/-! ### Reads with their requester -/

/-- CNT_OVF as a lodging reads it: the bits of its own counters (R508). -/
def State.ovfMask (s : State) (who : Requester) (b : Nat) : Nat :=
  if !isLodgings who then 255
  else match s.reqLodging who with
    | some l => (List.range 8).foldl (fun n j => n + (if s.ownCnt l b j then 2 ^ j else 0)) 0
    | none => 0

/-- A read of a counter register (R499, R500, R508). -/
def State.cntRead (s : State) (who : Requester) (off b i : Nat) : State × Word :=
  s.asCntRead who off b i fun s =>
    if i = 8 then (s, if off % 16 = 0 then s.rr off &&& BitVec.ofNat 32 (s.ovfMask who b) else s.rr off)
    else if off = Reg.CNT_LO b i then s.readCntLo who b i
    else if off = Reg.CNT_HI b i then (s, s.readCntHi who b i)
    else (s, s.rr off)

/-- An access to a SYNC register that R459 refuses. -/
def State.syncRefuses (s : State) (who : Requester) (off : Nat) : Bool :=
  blockOf off == 3 &&
    (match who with
     | .smbus => true
     | .innkeeper => true
     | _ => inWin off 0x38000 0x8000 && !s.reachObj who ((off - 0x38000) / 8))

/-- A read of a control register by a requester (R22, R436, R459, R499, R581): the state after, and the value. -/
def State.busRead (s : State) (who : Requester) (off : Nat) : State × Word :=
  match cntOf off with
  | some (b, i) => s.cntRead who off b i
  | none =>
    if !s.reach who off false then
      (if s.syncRefuses who off then s.syncDenied who else s.deny who, 0)
    else if s.syncRefuses who off then (s.syncDenied who, 0)
    else
      let v := s.view who off
      (match ixOf off (Reg.TB_NOW_FRAC 0) 0x40 4 with
       | some t => s.latchNow who t
       | none => s, v)

end Sys2Proof.Machine
end

