-- ==== Sys2Proof/Machine/Bus.lean ====
section
/-! DEFINITION. What a write of a control register does (R19 to R22): by the access types of its fields, and by the behaviour
its own chapter gives it. A write carries the mask `m` of the bits of the bytes it writes (R22). -/
namespace Sys2Proof.Machine
open Sys2Proof

/-- Bits of a register whose fields have an access type. -/
def accMask (off : Nat) (acc : Acc) : Nat :=
  match RegMap.find off with
  | some d => d.fields.foldl (fun n f => if f.acc = acc then n + (2 ^ (f.hi + 1) - 2 ^ f.lo) else n) 0
  | none => 0

/-- Bits of the bytes that byte enables write. -/
def byteMask (be : BitVec 4) : Nat :=
  (List.range 4).foldl (fun n i => n + (if be.toNat.testBit i then 255 * 256 ^ i else 0)) 0

/-- The debug port. -/
def isDbgReq : Requester → Bool
  | .dbg => true
  | _ => false

/-- RW fields take the value, W1C fields are cleared by 1, reserved bits and other fields are left (R13, R19, R21). -/
def State.plainWrite (s : State) (off m : Nat) (v : Word) : State :=
  let s := s.wr off (mergeBits (s.rr off) v (m &&& accMask off .rw))
  s.wr off (s.rr off &&& ~~~(v &&& BitVec.ofNat 32 (m &&& accMask off .w1c)))

/-- RWL fields (R20, R420, R421): staged by the owner of an OPEN staging; FOREIGN from another requester while a staging is
open; live at once in the window before the first commit; else discarded. The debug port's are discarded (R632). -/
def State.rwlWrite (s : State) (who : Requester) (off m : Nat) (v : Word) : State :=
  let mask := m &&& rwlMask off
  if mask = 0 then s
  else if s.stgSt ≠ 0 then
    if ownerCode who ≠ s.stgOwner then s.setFlag Reg.STG_FLAG 4
    else if s.stgSt ≠ 1 then s
    else
      let old := match s.stg.vals.find? fun x => x.1 == off with
        | some (_, x) => x
        | none => s.rr off
      { s with stg := { s.stg with
          vals := (s.stg.vals.filter fun x => x.1 != off) ++ [(off, mergeBits old v mask)], at_ := s.cycle } }
  else if s.stg.closed || isDbgReq who then s
  else s.makeLive [(off, mergeBits (s.rr off) v mask)]

/-- A register without a behaviour of its own. -/
def State.genWrite (s : State) (who : Requester) (off m : Nat) (v : Word) : State :=
  (s.plainWrite off m v).rwlWrite who off m v

/-- A register whose writes some requesters' only are heard. -/
def State.ifHeard (s : State) (p : Bool) (eff : State → State) : State := if p then eff s else s

/-! ### Blocks of their own -/

/-- Counters (R499, R500, R508): a lodging clears the OVF bits of its own counters. -/
def State.cntWrite (s : State) (who : Requester) (off b i m : Nat) (v : Word) : State :=
  if i = 8 ∧ isLodgings who then
    if s.reach who off true then s.plainWrite off (m &&& s.ovfMask who b) v else (s.deny who).cntDenied who
  else s.asCntWrite who off fun s =>
    if off = Reg.CNT_LO b i then s.writeCntLo b i (mergeBits (s.rr off) v m).toNat
    else if off = Reg.CNT_HI b i then s.writeCntHi b i (mergeBits (s.rr off) v m).toNat
    else s.plainWrite off m v

/-- LDG.CTL (R419, R428): a reset comes before a cancel of the same write. -/
def State.ldgCtl (s : State) (who : Requester) (l : Nat) (c : Word) : State :=
  let s := if wbit c 1 then s.ldgReset who l else s
  if wbit c 0 then s.cancel who l else s

/-- LDG registers. -/
def State.ldgWrite (s : State) (who : Requester) (off m : Nat) (v : Word) : State :=
  match ixOf off (Reg.LDG_CTL 0) 0x40 16 with
  | some l => s.ldgCtl who l (v &&& BitVec.ofNat 32 m)
  | none => s.genWrite who off m v

/-- STG registers (R420, R431, R432). -/
def State.stgWrite (s : State) (who : Requester) (off m : Nat) (v : Word) : State :=
  if off = Reg.STG_CTL then
    let op := getF (v &&& BitVec.ofNat 32 m) Fld.STG_CTL_OP
    s.asStager who fun s =>
      if op = 1 then s.opBegin who else if op = 2 then s.opCheck else if op = 3 then s.opCommit
      else if op = 4 then s.opAbandon else s
  else s.asWrite who off fun s =>
    if inWin off Reg.STG_WHEN 0x10 then
      if s.stgSt = 0 then s
      else if ownerCode who ≠ s.stgOwner then s.setFlag Reg.STG_FLAG 4
      else if s.stgSt = 1 then
        let s := s.plainWrite off m v
        { s with stg := { s.stg with at_ := s.cycle } }
      else s
    else s.genWrite who off m v

/-- TB.OP (R439, R440, R462): ARM_OVR before the operation of the same write. -/
def State.tbOp (s : State) (who : Requester) (t : Nat) (c : Word) : State :=
  let s := if wbit c 8 then s.armOvr t else s
  let op := getF c Fld.TB_OP_OP
  if op = 1 then s.opAdjust who t else if op = 2 then s.opSet who t else s

/-- Steering registers of a time base (R437, R438). -/
def State.steerWrite (s : State) (who : Requester) (off t m : Nat) (v : Word) : State :=
  s.asSteer who off t fun s =>
    let now := mergeBits (s.view who off) v m
    if off = Reg.TB_INCR_LO t then s.incrLo t now.toNat
    else if off = Reg.TB_INCR_HI t then s.incrHi who t (now.toNat % 256)
    else if off = Reg.TB_OP t then s.tbOp who t (v &&& BitVec.ofNat 32 m)
    else s.plainWrite off m v

/-- Timing and control registers of a comparator (R442, R443, R446): the AIR block's comparator keeps its own times.
A write of ARM and DISARM arms and then disarms (DESIGN CHOICE; log 63). -/
def State.cmpWrite (s : State) (who : Requester) (off k m : Nat) (v : Word) : State :=
  s.asOwner who off (s.cmpOwner k) fun s =>
    let c := v &&& BitVec.ofNat 32 m
    if off = Reg.TB_CMP_CTL k then
      let s := if wbit c 0 then s.cmpArm k else s
      if wbit c 1 then s.cmpDisarm k else s
    else if s.cmpAir k ∧ off ≠ Reg.TB_CMP_WIDTH k then s
    else s.plainWrite off m v

/-- TB registers. -/
def State.tbWrite (s : State) (who : Requester) (off m : Nat) (v : Word) : State :=
  let c := v &&& BitVec.ofNat 32 m
  match steerReg off with
  | some t => s.steerWrite who off t m v
  | none =>
    if inWin off (Reg.TB_CMP_CFG 0) 0x400 ∧ (off - Reg.TB_CMP_CFG 0) % 0x20 ≠ 0 then
      s.cmpWrite who off ((off - Reg.TB_CMP_CFG 0) / 0x20) m v
    else match ixOf off (Reg.TB_CAPT_CTL 0) 0x20 8 with
      | some i => s.asOwner who off (s.captOwner i) fun s => if wbit c 0 then s.captPop i else s
      | none => s.asWrite who off fun s => if off = Reg.TB_XCAP then (if wbit c 0 then s.xcap who else s) else s.genWrite who off m v

/-- SYNC registers (R459, R465). -/
def State.syncWrite (s : State) (who : Requester) (off m : Nat) (v : Word) : State :=
  let c := v &&& BitVec.ofNat 32 m
  if off = Reg.SYNC_SIGNAL then
    s.asSync who off (getF c Fld.SYNC_SIGNAL_OBJ) fun s => s.signal (getF c Fld.SYNC_SIGNAL_OBJ) (getF c Fld.SYNC_SIGNAL_N)
  else if off = Reg.SYNC_CLEAR then
    s.asSync who off (getF c Fld.SYNC_CLEAR_OBJ) fun s => s.syncClear (getF c Fld.SYNC_CLEAR_OBJ)
  else if inWin off 0x38000 0x8000 then
    let o := (off - 0x38000) / 8
    s.asSync who off o fun s => if off % 8 = 4 then s.arm o (mergeBits (s.rr off) v m).toNat else s
  else if s.syncRefuses who off then s.syncDenied who
  else s.asWrite who off fun s => s.genWrite who off m v

/-- LEDG registers (R510, R511). -/
def State.ledgWrite (s : State) (who : Requester) (off m : Nat) (v : Word) : State :=
  if off = Reg.LEDG_RING_HEAD then s.ifHeard (mayWriteCnt who) fun s => s.plainWrite off m v
  else match ixOf off (Reg.LEDG_LDG_HEAD 0) 0x20 16 with
    | some l => s.ifHeard (isPf who || s.reqLodging who == some l) fun s => s.plainWrite off m v
    | none => s.genWrite who off m v

/-- PWR.CTL (R545, R572, R575): the lowest bit set acts. -/
def State.pwrCtl (s : State) (c : Word) : State :=
  if wbit c 0 then s.fullRestart.opStat St.ok else if wbit c 1 then s.stbyEnter else if wbit c 2 then s.stbyExit else s

/-- PWR registers. -/
def State.pwrWrite (s : State) (who : Requester) (off m : Nat) (v : Word) : State :=
  let c := v &&& BitVec.ofNat 32 m
  let now := mergeBits (s.rr off) v m
  if off = Reg.PWR_CTL then s.ifHeard (pwrHears who) fun s => s.pwrCtl c
  else if off = Reg.PWR_BOOT_CTL then s.ifHeard (pwrHears who && wbit c 0) State.confirm
  else if off = Reg.PWR_VREQ then s.vreqWrite now
  else if off = Reg.PWR_FLOOR then
    let n := getF now Fld.PWR_FLOOR_FLOOR
    if 1 ≤ n ∧ n ≤ 16 then s.sf off Fld.PWR_FLOOR_FLOOR n else s
  else match ixOf off (Reg.PWR_DOM_REQ 0) 4 11 with
    | some k => s.domReqWrite k m now
    | none => s.genWrite who off m v

/-- SEC registers: the requester's mailbox (R540, R542). -/
def State.secWrite (s : State) (who : Requester) (off m : Nat) (v : Word) : State :=
  if off = Reg.SEC_MB_CMD then (if m % 256 = 0 then s else s.mbCmd who (v.toNat % 256))
  else if inWin off 0x68000 0x1000 then
    let a := 4096 * reqIx who + (off - 0x68000)
    let put (t : Tbl Byte) (i : Nat) : Tbl Byte :=
      if m.testBit (8 * i) then tput (fun _ => 0) t (a + i) (v.extractLsb' (8 * i) 8) else t
    { s with mbData := (List.range 4).foldl put s.mbData }
  else s.genWrite who off m v

/-- REL registers (R477, R486); whether the firmware named by FWUPD_SRC verifies, and its digest, come from outside. -/
def State.relWrite (s : State) (who : Requester) (off m : Nat) (v : Word) : State :=
  if off = Reg.REL_FWUPD_CTL then
    let go := wbit (v &&& BitVec.ofNat 32 m) 4
    s.ifHeard (pwrHears who) fun s =>
      let (d, s) := if go then s.draw else (0, s)
      let (h, s) := if go then s.draw else (0, s)
      s.fwCtl who (getF (mergeBits (s.rr off) v m) Fld.REL_FWUPD_CTL_TARGET) go (d % 2 == 1) (h % 2 ^ 384)
  else if off = Reg.REL_FWUPD_SRC_LO ∨ off = Reg.REL_FWUPD_SRC_HI then
    s.ifHeard (pwrHears who) fun s => s.plainWrite off m v
  else s.genWrite who off m v

/-- The ring whose CFG or BASE register lies at an offset (R584, R592, R595): the ring, its CFG (none) or BASE low (some
true) or high word (some false). -/
def ringReg (off : Nat) : Option (HRing × Option Bool) :=
  let sub (l : Fin 16) (o : Nat) : Option (HRing × Option Bool) :=
    if o = 0 then some (.sq l, some true) else if o = 4 then some (.sq l, some false) else if o = 8 then some (.sq l, none)
    else if o = 0x10 then some (.cq l, some true) else if o = 0x14 then some (.cq l, some false)
    else if o = 0x18 then some (.cq l, none) else none
  let port (p : Fin 12) (o : Nat) : Option (HRing × Option Bool) :=
    if o = 0 ∨ o = 8 then some (.ptp p, some true) else if o = 4 ∨ o = 0xC then some (.ptp p, some false)
    else if o = 0x10 then some (.ptp p, none) else none
  if inWin off 0x80100 0x200 then sub (Fin.ofNat 16 ((off - 0x80100) / 0x20)) ((off - 0x80100) % 0x20)
  else if inWin off 0x80400 0x180 then port (Fin.ofNat 12 ((off - 0x80400) / 0x20)) ((off - 0x80400) % 0x20)
  else none

/-- HIF registers. -/
def State.hifWrite (s : State) (who : Requester) (off m : Nat) (v : Word) : State :=
  let now := mergeBits (s.rr off) v m
  match ringReg off with
  | some (r, none) => s.ringCfg r (m.testBit 31) now
  | some (r, some lo) => s.ringBase r off lo now
  | none => match ixOf off (Reg.HIF_SQ_PTR 0) 0x20 16, ixOf off (Reg.HIF_CQ_PTR 0) 0x20 16, ixOf off (Reg.HIF_PRX_PTR 0) 0x20 12,
        ixOf off (Reg.HIF_PTX_PTR 0) 0x20 12 with
    | some l, _, _, _ => if m % 2 ^ 16 = 0 then s else s.sqTail l now
    | _, some _, _, _ => s.headWrite off now
    | _, _, some _, _ => s.headWrite off now
    | _, _, _, some p => if m % 2 ^ 16 = 0 then s else s.ptxTail p now
    | _, _, _, _ => s.genWrite who off m v

/-- DLK, AIR, LDPC and SMP registers with a behaviour of their own (R285, R309, R321, R375, R391, R525). -/
def State.unitWrite (s : State) (who : Requester) (off m : Nat) (v : Word) : State :=
  let c := v &&& BitVec.ofNat 32 m
  match ixOf off (Reg.DLK_CTL 0) 0x40 4, ixOf off (Reg.AIR_CAR_CTL 0) 0x40 8, ixOf off (Reg.LDPC_CRC_CMD 0) 0x20 18,
    ixOf off (Reg.SMP_BQ_CTL 0) 0x20 16, ixOf off (Reg.SMP_ST_TAIL 0) 0x20 64 with
  | some k, _, _, _, _ => if wbit c 0 then s.retrain k else s
  | _, some a, _, _, _ => if wbit c 0 then s.reacq a else s
  | _, _, some n, _, _ => if m = 0 then s else s.crcCmd n (getF c Fld.LDPC_CRC_CMD_POLY) (getF c Fld.LDPC_CRC_CMD_LEN)
  | _, _, _, some l, _ => (s.releaseMask l (getF c Fld.SMP_BQ_CTL_RELEASE)).takeMask l (getF c Fld.SMP_BQ_CTL_TAKE)
  | _, _, _, _, some k => if m % 2 ^ 16 = 0 then s else s.postTail k (mergeBits (s.rr off) v m).toNat
  | _, _, _, _, _ =>
    if off = Reg.LDPC_TBL_CTL then (if wbit c 0 then s.tblLoad (getF c Fld.LDPC_TBL_CTL_SLOT) else s)
    else s.genWrite who off m v

/-- TC registers (R128). -/
def State.tcWrite (s : State) (who : Requester) (off c m : Nat) (v : Word) : State :=
  match ixOf (off % 0x10000) 0xB4 4 2 with
  | some i => if m % 2 ^ 16 = 0 then s else s.cringHead c (slotIx i) (mergeBits (s.view who off) v m).toNat
  | none => s.genWrite who off m v

/-- IBC registers (R370, R372). -/
def State.ibcWrite (s : State) (who : Requester) (off n m : Nat) (v : Word) : State :=
  if off = Reg.IBC_CTL n then
    let s := s.rwlWrite who off m v
    if m.testBit 0 then (if wbit v 0 then s.ibRun n else s.ibStop n) else s
  else if off = Reg.IBC_IRQ_SET n then s.irqSet n (v &&& BitVec.ofNat 32 m).toNat
  else if off = Reg.IBC_MBOX n then s.mbox who n (mergeBits (s.rr off) v m)
  else s.genWrite who off m v

/-! ### The DBG block (R632 to R643) -/

/-- A command of DBG.IBC_CTL: bit 0 halts, 1 resumes, 2 steps; of several the first in this order alone (DESIGN CHOICE; log 63). -/
def State.dbgIbOp (s : State) (n op : Nat) : State × Nat :=
  if op.testBit 0 then s.dbgIbHalt n else if op.testBit 1 then s.dbgIbResume n else if op.testBit 2 then s.dbgIbStep n else (s, St.ok)
/-- A command of DBG.TC_CTL: code 1 halts, 2 resumes, 4 steps. -/
def State.dbgTcOp (s : State) (c : Nat) (sl : Slot) (op : Nat) : State × Nat :=
  if op = 1 then s.dbgTcHalt c sl else if op = 2 then s.dbgTcResume c sl else if op = 4 then s.dbgTcStep c sl else (s, St.ok)

/-- A write of a register of Iambel core n in the DBG block, within the grant (R632, R636, R642): a refused one changes nothing (R11). -/
def State.dbgIbWrite (s : State) (n off : Nat) (v : Word) : State × Nat :=
  if !s.grants 0 (s.ibcHolder n) then (s, St.permission)
  else if off = Reg.DBG_IBC_CTL n then
    let (t, st) := (s.plainWrite off (2 ^ 32 - 1) v).dbgIbOp n (v.toNat % 8)
    (if st = St.ok then t else s, st)
  else if off = Reg.DBG_IBC_REG_DATA n then
    let (sh, r) := s.regSel n
    if (s.ibcOf n).st ≠ 5 then (s, St.state) else (s.setIbc n fun b => { b with a := b.a.dbgWrite sh r v }, St.ok)
  else (s.plainWrite off (2 ^ 32 - 1) v, St.ok)

/-- A write of a register of tensor core c in the DBG block, within the grant (R632, R637, R643): slot A's command first; when
either is refused the write changes nothing (R11). -/
def State.dbgTcWrite (s : State) (c off : Nat) (v : Word) : State × Nat :=
  if !s.grantsTc c then (s, St.permission)
  else if off = Reg.DBG_TC_CTL c then
    let (t, st) := (s.plainWrite off (2 ^ 32 - 1) v).dbgTcOp c .a (getF v Fld.DBG_TC_CTL_A_OP)
    if st ≠ St.ok then (s, st)
    else
      let (t, st) := t.dbgTcOp c .b (getF v Fld.DBG_TC_CTL_B_OP)
      (if st = St.ok then t else s, st)
  else (s.plainWrite off (2 ^ 32 - 1) v, St.ok)

/-- A write of a DBG register, with the status of the debug port's access; another requester's is discarded. -/
def State.dbgWrite (s : State) (who : Requester) (off : Nat) (v : Word) : State × Nat :=
  if !isDbgReq who then (s, St.ok)
  else
    let o := off % 0x10000
    if inWin o 0x100 0x800 then s.dbgIbWrite ((o - 0x100) / 0x80) off v
    else if inWin o 0xA00 0x200 then s.dbgTcWrite ((o - 0xA00) / 0x10) off v
    else (s.plainWrite off (2 ^ 32 - 1) v, St.ok)

/-! ### A write by a requester -/

/-- A write of a control register with the mask of the bytes written. -/
def State.busWrite (s : State) (who : Requester) (off m : Nat) (v : Word) : State :=
  match cntOf off with
  | some (b, i) => s.cntWrite who off b i m v
  | none =>
    let b := blockOf off
    if b = 1 then s.stgWrite who off m v
    else if b = 2 then s.tbWrite who off m v
    else if b = 3 then s.syncWrite who off m v
    else s.asWrite who off fun s =>
      if s.regHole off then s
      else if b = 0 then s.ldgWrite who off m v
      else if b = 4 then s.ledgWrite who off m v
      else if b = 5 then s.pwrWrite who off m v
      else if b = 6 then s.secWrite who off m v
      else if b = 7 then s.relWrite who off m v
      else if b = 8 then s.hifWrite who off m v
      else if b = 0xF then (s.dbgWrite who off (v &&& BitVec.ofNat 32 m)).1
      else if b < 0x10 then s.unitWrite who off m v
      else if b < 0x30 then s.tcWrite who off (b - 0x10) m v
      else s.ibcWrite who off (b - 0x30) m v

/-- REGISTER_WRITE (R19): a write of a register by a requester, at a multiple of 4, of the bytes that `be` enables (R22). The
debug port's comes by DBGACC, whole words with a status: as here, ACC_ERR for any but OK. -/
def execRegisterWrite (who : Requester) (off : BitVec 24) (be : BitVec 4) (v : Word) (s : State) : Host.Outcome State Fault Refusal :=
  let a := off.toNat / 4 * 4
  if isDbgReq who && blockOf a == 0xF && (cntOf a).isNone && s.alive then .next (accEnd (s.dbgWrite who a v))
  else .next (s.busWrite who a (byteMask be) v)

end Sys2Proof.Machine
end

