-- ==== Sys2Proof/Machine/Port.lean ====
section
/-! DEFINITION. Register accesses that come by CREG (R361), by the SMBus (R607) and by the debug port (R630 to R632), and the
instructions of the test port (R628, R629). -/
namespace Sys2Proof.Machine
open Sys2Proof

/-- Offset in the control-register space of a device address in it (R194): its base is a multiple of its size. -/
def ctlOff (a : Nat) : Nat := a % 0x1000000

/-- Every bit of a word. -/
def fullMask : Nat := 2 ^ 32 - 1

/-! ### CREG (R361) -/

/-- CREG (R361): a read is taken at issue and lands later; a write is posted. -/
def execCreg (n : Fin 18) (w mv : Word) (s : State) : Host.Outcome State Fault Refusal :=
  let dm := ib w 24 21
  let dn := ib w 20 17
  let wr := ib w 25 25 == 1
  ibRow n w mv (iOp w == 0x12) (fun _ => if wr then [dm, dn] else [dm]) s fun s e =>
    let off := (e.a.d dm).toNat % 2 ^ 24
    if iBnd w ∨ ib w 16 0 ≠ 0 then s.ibTrap e.n Trap.illegal St.format e.a.pc
    else if off % 4 ≠ 0 ∨ !s.reach (.ibc n) off wr then s.ibTrap e.n Trap.perm St.permission e.a.pc
    else if wr then
      let s := s.setIbc e.n Ibc.checkpoint
      (s.ibSet e.n e.a.step1).busWrite (.ibc n) off fullMask (e.a.d dn)
    else
      let (s, v) := s.busRead (.ibc n) off
      let s := s.setIbc e.n fun b => { b with reads := b.reads ++ [⟨e.a.high, dn, v, e.a.cyc⟩] }
      s.ibSet e.n e.a.step1

/-- CREG_READ_LAND (R361): the oldest read in flight lands in Dn. -/
def execCregReadLand (n : Fin 18) (s : State) : Host.Outcome State Fault Refusal :=
  match (s.ibcOf n.val).reads with
  | [] => .next s
  | r :: rest => .next (s.setIbc n.val fun b => { b.landRead r with reads := rest })

/-! ### SMBus register accesses (R607) -/

/-- An SMBus register access is answered BOUNDS: not a multiple of 4, or a hole. -/
def State.smbBounds (s : State) (off : Nat) : Bool := off % 4 != 0 || s.regHole off

/-- REG_READ (R607). -/
def execRegRead (pec : Bool) (off : Word) (s : State) : Host.Outcome State Fault Refusal :=
  smbRow pec s fun s =>
    if s.smbBounds off.toNat then s.smbAnswer St.bounds (bytesLE 4 0)
    else
      let (s, v) := s.busRead .smbus off.toNat
      (s.returns .smbus v).smbAnswer St.ok (bytesLE 4 v.toNat)

/-- REG_WRITE (R607). -/
def execRegWrite (pec : Bool) (off v : Word) (s : State) : Host.Outcome State Fault Refusal :=
  smbRow pec s fun s =>
    if s.smbBounds off.toNat then s.smbAnswer St.bounds []
    else (s.busWrite .smbus off.toNat fullMask v).smbAnswer St.ok []

/-! ### The access register (R630 to R632) -/

/-- The power domain that holds a device address (R560): for the tier, controller 0 serves channels 0 to 3 (PRESUMED; log 83). -/
def State.domAt (s : State) (a : Nat) : Option Nat :=
  match s.place a with
  | .operand c => some (80 + s.physCore c)
  | .wing _ => some (120 + (a - wingAddr 0) / 0x800000)
  | .hall => some (136 + (a - hallAddr) / 0x800000)
  | .iambel n => some (140 + s.physIbc n)
  | .tier => some (171 + (a - tierAddr) / 256 % 8 / 4)
  | _ => none

/-- The lodging of the grant whose region holds a word of memory (R632). -/
def State.dbgRegion (s : State) (a : Nat) : Option Nat :=
  (List.range 16).find? fun l => s.grants 2 (some l) && (List.range 64).any fun i =>
    let r := s.region l i
    r.valid && r.kind != 5 && decide (r.base ≤ a) && decide (a + 4 ≤ r.base + r.bytes)

/-- The register of a halted unit that an access names while the unit runs (R631, R636). -/
def State.notHalted (s : State) (off : Nat) : Bool :=
  match ixOf off (Reg.DBG_IBC_REG_DATA 0) 0x80 16 with
  | some n => (s.ibcOf n).st != 5
  | none => false

/-- What the grant does not reach (R632): in the DBG block, the registers of a unit outside it. -/
def State.dbgShut (s : State) (off : Nat) (write : Bool) : Bool :=
  !s.reach .dbg off write ||
    (match ixOf off (Reg.DBG_IBC_REG_DATA 0) 0x80 16 with
     | some n => !s.grants 0 (s.ibcHolder n)
     | none => false)

/-- The status an access ends with before it touches anything (R12, R631): a read of a register, or of memory. -/
def State.dbgCheck (s : State) (a : Nat) (aligned write : Bool) : Nat :=
  if s.place a == .control then
    let off := ctlOff a
    pick [(s.dbgShut (off / 4 * 4) write, St.permission), (!aligned, St.format), (s.regHole off, St.bounds),
      (s.notHalted off, St.state)]
  else
    pick [((s.dbgRegion a).isNone, St.permission), (!aligned, St.format), (s.place a == .hole, St.bounds),
      (match s.domAt a with
       | some d => !s.domOn d
       | none => false, St.notReady)]

/-- An access ends (R630, R631): the access register shows data and status, ACC_ERR for any status but OK. -/
def State.dbgEnd (s : State) (a : Nat) (data : Word) (st : Nat) : State :=
  let s := accEnd (s, st)
  { s with dbgAcc := ⟨if st = St.format then s.dbgAcc.addr else a, data, st⟩, answer := bytesLE 11 (data.toNat * 2 ^ 52 + st * 16) }

/-- A READ at an address. -/
def State.dbgRead (s : State) (a : Nat) (aligned : Bool) : State :=
  let st := s.dbgCheck a aligned false
  if st ≠ St.ok then s.dbgEnd a 0 st
  else if s.place a == .control then
    let (s, v) := s.busRead .dbg (ctlOff a)
    (s.returns .dbg v).dbgEnd a v St.ok
  else
    let (s, v, bad) := s.getBytes ((s.dbgRegion a).getD 0) a 4
    s.dbgEnd a (BitVec.ofNat 32 v) (if bad then St.integrity else St.ok)

/-- A WRITE at an address. -/
def State.dbgStore (s : State) (a : Nat) (v : Word) : State :=
  let st := s.dbgCheck a (a % 4 == 0) true
  let old := s.dbgAcc.data
  if st ≠ St.ok then s.dbgEnd a old st
  else if s.place a == .control then
    let off := ctlOff a
    if blockOf off = 0xF ∧ (cntOf off).isNone then
      let (s, st) := s.dbgWrite .dbg off v
      s.dbgEnd a old st
    else (s.busWrite .dbg off fullMask v).dbgEnd a old St.ok
  else (s.put ((s.dbgRegion a).getD 0) a 4 v.toNat).dbgEnd a old St.ok

/-- DBGACC_READ (R630, R631). The port makes no access while the device is in reset (R614). -/
def execDbgaccRead (a : BitVec 48) (s : State) : Host.Outcome State Fault Refusal :=
  .next (if s.inReset then s else s.dbgRead a.toNat (a.toNat % 4 == 0))

/-- DBGACC_WRITE (R630, R631). -/
def execDbgaccWrite (a : BitVec 48) (v : Word) (s : State) : Host.Outcome State Fault Refusal :=
  .next (if s.inReset then s else s.dbgStore a.toNat v)

/-- DBGACC_READ_NEXT (R630): a READ at the previous address + 4. -/
def execDbgaccReadNext (s : State) : Host.Outcome State Fault Refusal :=
  .next (if s.inReset then s else s.dbgRead ((s.dbgAcc.addr + 4) % 2 ^ 48) true)

/-! ### The test access port (R628, R629) -/

/-- The instruction codes (R628). -/
def tapExtest : Nat := 0x00
def tapSample : Nat := 0x01
def tapIdcode : Nat := 0x02
def tapClamp : Nat := 0x03
def tapHighz : Nat := 0x04
def tapBypass : Nat := 0xFF

/-- Test hold: BOOTSRC 3, in MANUFACTURE and RMA only (R546). -/
def State.testHold (s : State) : Bool :=
  s.gf Reg.PWR_STRAP Fld.PWR_STRAP_BOOTSRC == 3 && (s.fuses.1 == 0 || s.fuses.1 == 3)

/-- Boundary-scan instructions that take the pins have effect (R629). -/
def State.mayScan (s : State) : Bool :=
  !(List.range 16).any s.bound || s.gf Reg.PWR_BOOT Fld.PWR_BOOT_STATE == 2 || s.testHold

/-- A boundary-scan instruction that takes the pins: taken as BYPASS, with BSCAN_REFUSED, when it may not (R629). -/
def State.scan (s : State) (ir : Nat) (bits : List Bool) : State :=
  if s.mayScan then { s with tapIr := ir, bsr := bits } else { s.setFlag Reg.DBG_FLAG 3 with tapIr := tapBypass }

/-- TAP_RESET (R628): IDCODE is selected; grants, halts and accesses stay. -/
def execTapReset (s : State) : Host.Outcome State Fault Refusal := .next { s with tapIr := tapIdcode }
/-- EXTEST (R629): the pins are driven from the boundary register. -/
def execExtest (bits : List Bool) (s : State) : Host.Outcome State Fault Refusal := .next (s.scan tapExtest bits)
/-- SAMPLE/PRELOAD (R628): the boundary register is loaded; the pins are left. -/
def execSamplePreload (bits : List Bool) (s : State) : Host.Outcome State Fault Refusal :=
  .next { s with tapIr := tapSample, bsr := bits }
/-- IDCODE (R628): the identity register is shifted out. -/
def execIdcode (s : State) : Host.Outcome State Fault Refusal :=
  .next { s with tapIr := tapIdcode, answer := bytesLE 4 0x109605AB }
/-- CLAMP (R629): the pins are held from the boundary register. -/
def execClamp (s : State) : Host.Outcome State Fault Refusal := .next (s.scan tapClamp s.bsr)
/-- HIGHZ (R629): every CMOS output is released. -/
def execHighz (s : State) : Host.Outcome State Fault Refusal := .next (s.scan tapHighz s.bsr)
/-- BYPASS (R628). -/
def execBypass (s : State) : Host.Outcome State Fault Refusal := .next { s with tapIr := tapBypass }

end Sys2Proof.Machine
end

