-- ==== Sys2Proof/Machine/Boot.lean ====
section
/-! DEFINITION. From reset to service (R545 to R555): the slots of the boot directory, the Quoxel image and its checks, the steps of
a start. -/
namespace Sys2Proof.Machine
open Sys2Proof

/-! ### The Quoxel image (R550, R551) -/

/-- A section entry. `pad` tells that a byte the entry gives as 0 is not. -/
structure Sect where
  type : Nat
  off : Nat
  len : Nat
  arg : Nat
  dest : Nat
  pad : Bool
deriving DecidableEq, Repr

/-- Every byte of a flash range is 0. -/
def State.flZero (s : State) (a n : Nat) : Bool := (List.range n).all fun i => s.fl (a + i) == 0

/-- Bytes and sections of the image at a flash offset. -/
def State.imgLen (s : State) (a : Nat) : Nat := s.flLE (a + 8) 4
def State.imgSects (s : State) (a : Nat) : Nat := s.flLE (a + 0xC) 2

/-- Section entry i of the image at a flash offset. -/
def State.sect (s : State) (a i : Nat) : Sect :=
  let e := a + 0x100 + 32 * i
  ⟨s.flLE e 2, s.flLE (e + 4) 4, s.flLE (e + 8) 4, s.flLE (e + 0xC) 4, s.flLE (e + 0x10) 8,
    !s.flZero (e + 2) 2 || !s.flZero (e + 0x18) 8⟩

/-- The section entries of the image at a flash offset. -/
def State.sects (s : State) (a : Nat) : List Sect := (List.range (s.imgSects a)).map fun i => s.sect a i

/-- A header field breaks R550. -/
def State.headBad (s : State) (a : Nat) : Bool :=
  let f (o n : Nat) : Nat := s.flLE (a + o) n
  f 0 4 != 0x584F5551 || f 4 2 != 1 || f 6 1 != 0xB0 || decide (128 ≤ f 7 1) || f 8 4 % 64 != 0 || decide (150994944 < f 8 4) ||
    decide (f 8 4 < 4096 + 96) || f 0xC 2 == 0 || decide (120 < f 0xC 2) || decide (2 < f 0xE 1) || f 0xF 1 != 0 ||
    f 0x18 4 % 65536 != 0 || f 0x1C 4 % 65536 != 0 || decide (4 < f 0x20 1) || decide (3 < f 0x21 1) || decide (512 < f 0x22 2) ||
    decide (65536 < f 0x24 4) || !s.flZero (a + 0x28) 0x58 || !s.flZero (a + 0xE1) 0x1F

/-- A device range lies wholly in one kind of on-chip store. -/
def onChip (a n : Nat) : Bool :=
  [(0x1000000000, 32 * 0x200000), (0x1100000000, 8 * 0x1000000), (hallAddr, 0x2000000), (0x1300000000, 18 * 0x40000)].any fun (b, m) =>
    decide (b ≤ a) && decide (a + n ≤ b + m)

/-- An entry breaks R551. -/
def State.sectBad (s : State) (a : Nat) (e : Sect) : Bool :=
  let plain := e.arg == 0 && e.dest == 0
  e.pad || e.off % 64 != 0 ||
    (match e.type with
     | 1 => !plain
     | 2 => !plain
     | 3 => !plain
     | 4 => !plain || e.len % 8 != 0
     | 5 => e.arg != 0 || !onChip e.dest e.len
     | 6 => decide (16 ≤ e.arg) || e.dest != 0 || e.len != 192 || tblBad (s.flLE (a + e.off) 192)
     | 7 => e.arg != e.arg % 16 + 256 * (e.arg / 256 % 64)
     | 8 => !plain || e.len != 48
     | 9 => decide (4 ≤ e.arg) || e.dest != 0 || e.len == 0 || e.len % 48 != 0 || decide (384 < e.len)
     | _ => true)

/-- Where byte i of an image is staged: in the hall store, then in the wing stores (R552). -/
def stagedAt (i : Nat) : Nat := if i < 0x2000000 then hallAddr + i else wingAddr 0 + (i - 0x2000000)

/-- Two ranges of n and m bytes meet. -/
def rangesMeet (a n b m : Nat) : Bool := decide (a < b + m) && decide (b < a + n)

/-- A LOAD overwrites staged bytes of a section: the parts of the section staged in the hall and in the wings. -/
def overStaged (x e : Sect) : Bool :=
  let hall := min e.len (0x2000000 - e.off)
  (hall != 0 && rangesMeet x.dest x.len (stagedAt e.off) hall) ||
    (e.len != hall && rangesMeet x.dest x.len (stagedAt (e.off + hall)) (e.len - hall))

/-- Some LOAD overwrites staged bytes of itself, of a later LOAD or of a TIER_LOAD, none of which is placed yet (R552, R553). -/
def loadsBad : List Sect → List Sect → Bool
  | _, [] => false
  | all, x :: xs =>
    (x.type == 5 && ((x :: xs).any fun e => e.type == 5 && overStaged x e) || (x.type == 5 && all.any fun e => e.type == 7 && overStaged x e)) ||
      loadsBad all xs

/-- Two sections overlap. -/
def overlaps : List Sect → Bool
  | [] => false
  | x :: xs => (xs.any fun e => rangesMeet x.off x.len e.off e.len) || overlaps xs

/-- The status of the checks of R552 and R539 on the image at a flash offset; `sig` tells that the key and the signature
verify. -/
def State.imageCheck (s : State) (a : Nat) (sig : Bool) : Nat :=
  let es := s.sects a
  let count (t : Nat) : Nat := (es.filter fun e => e.type == t).length
  if s.headBad a then St.format
  else if (es.any fun e => s.sectBad a e || decide (s.imgLen a < e.off + e.len)) || overlaps es || count 1 != 1 || count 2 != 1 ||
      count 3 != 1 || decide (1 < count 4) || loadsBad es es then St.format
  else if !sig || decide (s.flLE (a + 7) 1 < s.gf Reg.SEC_LC Fld.SEC_LC_SVN) then St.integrity
  else St.ok

/-! ### Slots (R548, R549) -/

/-- The flash offset of a slot. -/
def Dir.slot (d : Dir) (b : Nat) : Nat := if b = 1 then d.slotB else d.slotA

/-- Read and verify the image of a slot; a refusal under R539 sets SIG_FAIL. -/
def State.trySlot (s : State) (x : StartIn) (d : Dir) (b : Nat) : State × Nat :=
  let st := s.imageCheck (d.slot b) (if b = 1 then x.sigB else x.sigA)
  (s.setFlagIf (st == St.integrity) Reg.SEC_FLAG 8, st)

/-- The start ends in NO_IMAGE (R555); a restart has then ended (R545). -/
def State.noImage (s : State) (st : Nat) : State :=
  let s := (s.bootGo 2).sf Reg.PWR_BOOT Fld.PWR_BOOT_STATUS st
  let s := ((s.powerOff fun i => i == 173).switchDom 173 true).setFlagIf s.boot.again Reg.PWR_FLAG 10
  { s with boot := Boot.none }

/-! ### Service (step 9 of R553) -/

/-- Place a LOAD, or write a TIER_LOAD through its lodging's key; without a tier, or without a TIER region that holds it, a
TIER_LOAD has nowhere to go. -/
def State.placeSect (s : State) (a : Nat) (e : Sect) : State :=
  if e.type = 5 then (s.wrLE e.dest e.len (s.flLE (a + e.off) e.len)).clearPoison e.dest e.len
  else if e.type = 7 then
    let l := e.arg % 16
    let r := s.region l (e.arg / 256 % 64)
    if r.kind = 4 ∧ r.holds e.dest e.len ∧ s.gf Reg.MEM_CAP Fld.MEM_CAP_ATTACHED ≠ 0 then
      s.put l (r.base + e.dest) e.len (s.flLE (a + e.off) e.len)
    else s
  else s

/-- The sections in the order they are placed: LOAD, then TIER_LOAD. -/
def State.placed (s : State) (a : Nat) : List Sect :=
  ((s.sects a).filter fun e => e.type == 5) ++ (s.sects a).filter fun e => e.type == 7

/-- The directory as a fallback or a given-up trial writes it (R549). -/
def State.dirTaken (s : State) : State :=
  match s.dir with
  | some d => if s.boot.fallback || s.boot.abandoned then s.dirWrite { d with pref := s.boot.slot, trial := false, tried := false } else s
  | none => s

/-- Step 9: the sections are placed, the directory is written, service is declared (R554). -/
def State.service (s : State) : State :=
  let s := ((s.placed s.boot.at_).foldl (fun s e => s.placeSect s.boot.at_ e) s).dirTaken
  let r := Reg.PWR_BOOT
  let s := ((s.bootGo 1).sf r Fld.PWR_BOOT_STATUS St.ok).sf r Fld.PWR_BOOT_SERVICE_MS (min 65535 (s.cycle / 600000))
  let s := s.setFlagIf s.boot.again Reg.PWR_FLAG 10
  { s.powerNeeded s.wantOn with boot := { s.boot with waits := false, again := false } }

/-- No tier: declared absent, or training failed (R208). -/
def State.tierFail (s : State) : State :=
  ((s.sf Reg.MEM_CAP Fld.MEM_CAP_ATTACHED 0).wr Reg.MEM_USABLE 0).setFlag Reg.MEM_FLAG 5

/-- TIER_TRAINED (R553): training and metadata initialisation end, every tag WRITTEN 0, or they fail; a start that waits for
them goes on. -/
def execTierTrained (ok : Bool) (s : State) : Host.Outcome State Fault Refusal :=
  if !s.alive || s.trained.isSome then .next s
  else
    let s := { s with tags := [], trained := some ok }
    let s := if !ok ∧ s.gf Reg.MEM_CAP Fld.MEM_CAP_ATTACHED ≠ 0 then s.tierFail else s
    .next (if s.boot.waits then s.service else s)

/-! ### A taken image (steps 6 to 8 of R553) -/

/-- Usable frames of a tier code, spare frames held back (R209, R213, R220). -/
def usableFrames (code spare : Nat) : Nat :=
  (match code with
   | 1 => 8 | 2 => 16 | 3 => 32 | 4 => 64
   | _ => 0) * 0x40000 * 7 / 8 - spare

/-- The registers an image sets, the measurements of it and its firmware, the peers it allows. -/
def State.imageRegs (s : State) (a : Nat) : State :=
  let tier := s.flLE (a + 0x20) 1
  let spare := if tier = 0 then 0 else s.flLE (a + 0x24) 4
  let s := (s.wr Reg.MEM_CAP (BitVec.ofNat 32 (tier + 256 * spare))).wr Reg.MEM_USABLE (BitVec.ofNat 32 (usableFrames tier spare))
  let s := (s.wr Reg.MEM_BW (BitVec.ofNat 32 (s.flLE (a + 0x21) 1))).wr Reg.MEM_HALL_SYS (BitVec.ofNat 32 (s.flLE (a + 0x22) 2))
  let n := min 65535 spare
  let s := s.wr (Reg.REL_SPARES 12) (BitVec.ofNat 32 (n + 2 ^ 16 * n))
  let s := if tier = 0 ∨ s.trained = some false then s.tierFail else s
  let s := { s with quoxel := (Config.sha384 (s.flBytes a (s.imgLen a))).toNat }
  (s.sects a).foldl (fun s e =>
    let bs := s.flBytes (a + e.off) e.len
    if 1 ≤ e.type ∧ e.type ≤ 3 then { s with fw := tput (fun _ => 0) s.fw (e.type - 1) (Config.sha384 bs).toNat }
    else if e.type = 9 then
      s.setLink e.arg fun l => { l with
        peers := l.peers ++ (List.range (e.len / 48)).map fun i => ofBytes ((bs.drop (48 * i)).take 48).reverse }
    else s) s

/-- An accepted image may raise the fused security version to its own (R539). -/
def State.raiseSvn (s : State) (a : Nat) : State :=
  let (d, s) := s.draw
  if d % 2 = 1 then
    let v := max s.fuses.2 (s.flLE (a + 7) 1)
    { s.sf Reg.SEC_LC Fld.SEC_LC_SVN v with fuses := (s.fuses.1, v) }
  else s

/-- The self-test: a unit that fails is remapped without replay, with a mechanism that the test finds (R470, R553). -/
def State.selfTest (s : State) (bad : List RelUnit) : State :=
  bad.foldl (fun s u =>
    let (d, s) := s.draw
    ((s.relLasting (relCls u) (s.unitLdg u)).remap u (d % 7) 1).1) s

/-- Steps 6 and 7. -/
def State.prepare (s : State) (a : Nat) (x : StartIn) : State :=
  let s := ((s.raiseSvn a).imageRegs a).wearStart (s.flLE (a + 0x18) 4) (s.flLE (a + 0x1C) 4)
  (s.powerNeeded s.wantOn).selfTest x.bad

/-- A CONFIG entry is refused: a hole, LDPC.TBL_SEL, a register with no writable field, a value that sets bits of an RO or WO
field (R553). -/
def cfgEntryBad (off : Nat) (v : Word) : Bool :=
  match RegMap.find off with
  | none => true
  | some d =>
    let hidden := accMask off .ro ||| accMask off .wo
    off == Reg.LDPC_TBL_SEL || d.fields.all (fun f => f.acc == .ro || f.acc == .wo) || v.toNat &&& hidden != 0

/-- The pairs of the CONFIG section. -/
def State.cfgPairs (s : State) (a : Nat) : List (Nat × Word) :=
  ((s.sects a).filter fun e => e.type == 4).flatMap fun e => (List.range (e.len / 8)).map fun i =>
    (s.flLE (a + e.off + 8 * i) 4, BitVec.ofNat 32 (s.flLE (a + e.off + 8 * i + 4) 4))

/-- Step 8: tables are loaded, CONFIG and SEL are one staging of the Innkeeper, committed in MODE 0. The status with which it
ends. -/
def State.configure (s : State) (a : Nat) : State × Nat :=
  let tbls := (s.sects a).filter fun e => e.type == 6
  let s := { s with ldpcTbl := tbls.foldl (fun t (e : Sect) => tput (fun _ => 0) t (2 * e.arg + 1) (s.flLE (a + e.off) 192)) s.ldpcTbl }
  let pairs := s.cfgPairs a
  if pairs.any fun p => cfgEntryBad p.1 p.2 then (s, St.format)
  else
    let s := s.opBegin .innkeeper
    let s := pairs.foldl (fun (s : State) p => s.busWrite .innkeeper p.1 fullMask p.2) s
    let sel := tbls.foldl (fun n (e : Sect) => n ||| 2 ^ e.arg) 0
    let s := if sel = 0 then s else s.rwlWrite .innkeeper Reg.LDPC_TBL_SEL sel (BitVec.ofNat 32 sel)
    let (s, st, _) := s.stgCheck false
    if st = St.ok then (s.applyCommit, st) else (s, st)

/-- A start of a taken image that fails in step 8: one full restart from the other slot; when that was it, NO_IMAGE (R552). -/
def State.startFails (s : State) (st : Nat) : State :=
  if s.boot.other then s.noImage st
  else
    let b := s.boot.slot
    let s := s.fullRestart.sf Reg.PWR_BOOT Fld.PWR_BOOT_STATUS st
    { s with boot := { Boot.none with slot := b, other := true, again := true } }

/-- Steps 6 to 9 with the image of a slot. -/
def State.startImage (s : State) (x : StartIn) (d : Dir) (b : Nat) (fallback abandoned trial : Bool) : State :=
  let a := d.slot b
  let r := Reg.PWR_BOOT
  let s := (s.sf r Fld.PWR_BOOT_SLOT b).sf r Fld.PWR_BOOT_TRIAL (if trial then 1 else 0)
  let s := { s with boot := { s.boot with at_ := a, slot := b, fallback := fallback, abandoned := abandoned } }
  let s := if trial then s.dirWrite { d with tried := true } else s
  let s := s.prepare a x
  if !(if b = 1 then x.fwB else x.fwA) then s.startFails St.timeout
  else
    let (s, st) := s.configure a
    if st ≠ St.ok then s.startFails st
    else if s.trained.isSome ∨ s.gf Reg.MEM_CAP Fld.MEM_CAP_ATTACHED = 0 then s.service
    else { s with boot := { s.boot with waits := true } }

/-- Steps 3 to 5: the slot of R549, then the other one. With the restart of R552 the slot that failed is not tried again;
a trial it was making is given up (the third row of R549). -/
def State.startSlots (s : State) (x : StartIn) (d : Dir) : State :=
  let pref := if d.pref = 1 then 1 else 0
  if s.boot.other then
    let b := 1 - s.boot.slot
    let gaveUp := d.trial && d.tried
    let s := (s.setFlag Reg.PWR_FLAG 8).setFlagIf gaveUp Reg.PWR_FLAG 9
    let (s, st) := s.trySlot x d b
    if st = St.ok then s.startImage x d b true gaveUp false else s.noImage st
  else
    let gaveUp := d.trial && d.tried
    let first := if gaveUp then 1 - pref else pref
    let s := s.setFlagIf gaveUp Reg.PWR_FLAG 9
    let (s, st) := s.trySlot x d first
    if st = St.ok then s.startImage x d first false gaveUp (d.trial && !d.tried)
    else
      let s := s.setFlagIf (!gaveUp) Reg.PWR_FLAG 8
      let (s, st) := s.trySlot x d (1 - first)
      if st = St.ok then s.startImage x d (1 - first) (!gaveUp) gaveUp false else s.noImage st

/-- Steps 1 and 2: what the fuses hold is shown; VDD_CORE is confirmed at its set-point and the PCIe domain is on. -/
def State.startPower (s : State) (x : StartIn) : State :=
  let r := Reg.PWR_BOOT
  let set := if s.gf r Fld.PWR_BOOT_STATE = 0 then s.vTarget else s.gf Reg.PWR_VDD Fld.PWR_VDD_SET
  let quad := x.quad || s.gf Reg.PWR_STRAP Fld.PWR_STRAP_BOOTSRC == 1
  let s := (s.wr Reg.PWR_VDD (BitVec.ofNat 32 (set % 65536 + 2 ^ 16 * x.vout))).switchDom 173 true
  let s := (s.sf Reg.HIF_PCIE Fld.HIF_PCIE_WIDTH x.width).sf Reg.HIF_PCIE Fld.HIF_PCIE_SPEED x.speed
  { (s.sf r Fld.PWR_BOOT_QUAD (if quad then 1 else 0)).sf r Fld.PWR_BOOT_TRIAL 0 with step2 := true }

/-- START (R553): a start runs after a reset release and after a full restart. In test hold Steward stops after it has sampled
the straps (R546). -/
def execStartUp (x : StartIn) (s : State) : Host.Outcome State Fault Refusal :=
  let st := s.gf Reg.PWR_BOOT Fld.PWR_BOOT_STATE
  if !s.alive || (st != 0 && st != 4) || s.boot.waits then .next s
  else
    let s := (s.sf Reg.SEC_LC Fld.SEC_LC_STATE s.fuses.1).sf Reg.SEC_LC Fld.SEC_LC_SVN s.fuses.2
    if s.testHold then .next s
    else
      let s := s.startPower x
      match s.dir with
      | some d => .next (s.startSlots x d)
      | none => let (n, s) := s.draw; .next (s.noImage (n % 18))

end Sys2Proof.Machine
end

