-- ==== Sys2Proof/Machine/Downlink.lean ====
section
/-! DEFINITION. The downlink pipeline (R287, R288): modulation, layer mapping, precoding, compression (R267), the C-plane and
the U-plane. -/
namespace Sys2Proof.Machine
open Sys2Proof

/-! ### Modulation (TS 38.211 clause 5.1) -/

/-- Bit i of a symbol's bits, as ±1: 0 gives +1. -/
def bipolar (bits : List Bool) (i : Nat) : Int := if (bits[i]?).getD false then -1 else 1

/-- Amplitude of one axis of a square constellation with n bits per axis, from every second bit: the sign first, then
2^(n−1) less the amplitude of the rest. -/
def axisAmp (bits : List Bool) : Nat → Nat → Int
  | _, 0 => 0
  | i, n + 1 => if n = 0 then bipolar bits i else bipolar bits i * (2 ^ n - axisAmp bits (i + 2) n)

/-- 4096 · k / √m rounded to nearest. -/
def q12 (k : Int) (m : Nat) : Int :=
  let v := 4 * (4096 * k.natAbs) ^ 2 / m
  let r := isqrtBits v 20 0
  (if k < 0 then -1 else 1) * ((r + 1) / 2 : Nat)

/-- A symbol in Q12 from its bits: the code of its constellation, its place in the block (for π/2-BPSK). -/
def modulate (code i : Nat) (bits : List Bool) : Int × Int :=
  match code with
  | 2 =>
    let v := q12 (bipolar bits 0) 2
    if i % 2 = 0 then (v, v) else (-v, v)
  | 3 => (q12 (axisAmp bits 0 1) 2, q12 (axisAmp bits 1 1) 2)
  | 4 => (q12 (axisAmp bits 0 2) 10, q12 (axisAmp bits 1 2) 10)
  | 5 => (q12 (axisAmp bits 0 3) 42, q12 (axisAmp bits 1 3) 42)
  | 6 => (q12 (axisAmp bits 0 4) 170, q12 (axisAmp bits 1 4) 170)
  | 7 => (q12 (axisAmp bits 0 5) 682, q12 (axisAmp bits 1 5) 682)
  | _ => (0, 0)

/-- First codeword bit of each data RE of a block in one symbol: subcarrier, layer, code, index, first bit. -/
def SlotOrd.symRes (o : SlotOrd) (b : Blk) (k : Nat) : List (Nat × Nat × Nat × Nat × Nat) :=
  let rs := o.res b
  (rs.foldl (fun (acc, i, n) (f, s, l, c) =>
    ((if s = k then acc ++ [(f, l, c, i, n)] else acc), i + 1, n + codeQm c)) (([] : List (Nat × Nat × Nat × Nat × Nat)), 0, 0)).1

/-- Pilot QPSK symbol i of a Gold sequence, at unit power in Q12 (R273, R287). -/
def pilotQpsk (cinit i : Nat) : Int × Int :=
  let c := (gold cinit (2 * i + 2)).drop (2 * i)
  (q12 (bipolar c 0) 2, q12 (bipolar c 1) 2)

/-- c_init of the DMRS of a symbol (TS 38.211 clause 7.4.1.1.1; log 17). -/
def SlotOrd.dmrsInit (o : SlotOrd) (k : Nat) : Nat :=
  let id := dfield o.hdr 0x14 2
  (2 ^ 17 * (14 * o.slot + k + 1) * (2 * id + 1) + 2 * id + dfield o.hdr 0x16 1) % 2 ^ 31

/-- Element of the DMRS sequence that a subcarrier takes. -/
def SlotOrd.dmrsIx (o : SlotOrd) (f : Nat) : Nat := if o.type2 then 2 * (f / 6) + f % 2 else f / 2

/-- A symbol is the second of a pair of DMRS symbols. -/
def SlotOrd.second (o : SlotOrd) (k : Nat) : Bool :=
  ((List.range k).reverse.takeWhile fun j => o.dmrs.testBit j).length % 2 == 1

/-- Negate a symbol. -/
def negIf (b : Bool) (x : Int × Int) : Int × Int := if b then (-x.1, -x.2) else x

/-- Pilot of a layer's port at an RE of a DMRS symbol (TS 38.211 clause 7.4.1.1.2): the sequence with the port's cover codes in
frequency and time. -/
def SlotOrd.dmrsVal (o : SlotOrd) (layer f k : Nat) : Int × Int :=
  let odd := if o.type2 then f % 2 == 1 else f / 2 % 2 == 1
  let late := decide ((if o.type2 then 6 else 4) ≤ layer) && o.second k
  negIf ((layer % 2 == 1 && odd) != late) (pilotQpsk (o.dmrsInit k) (o.dmrsIx f))

/-- Pilot of an RE-mode map (R273): the Gold sequence in the map's code order. -/
def SlotOrd.rePilot (o : SlotOrd) (layer f k : Nat) : Int × Int :=
  let m := (o.maps[layer]?).getD 0
  pilotQpsk (Config.pilotSeed (dfield o.hdr 0x14 2) (dfield o.hdr 0x16 1)) ((List.range (14 * f + k)).countP fun n => m / 16 ^ n % 16 == 1)

/-- Value of a PTRS RE of a block (TS 38.211 clause 7.4.1.2.1): the DMRS sequence of its first DMRS symbol, on the block's first
layer. -/
def SlotOrd.ptrsVal (o : SlotOrd) (b : Blk) (layer f : Nat) : Int × Int :=
  if layer ≠ b.layer0 then (0, 0)
  else
    let k := ((o.dmrsSyms.find? fun d => decide (b.sym0 ≤ d)).getD (o.dmrsSyms.headD 0))
    pilotQpsk (o.dmrsInit k) (o.dmrsIx f)

/-- A block whose PTRS an RE carries on a layer: one of its data groups (R273). -/
def SlotOrd.ptrsBlk (o : SlotOrd) (layer f k : Nat) : Option Blk :=
  if o.remap || decide (mapCode ((o.maps[layer]?).getD 0) false f k < 2) then none
  else o.blks.find? fun b => decide (b.prb0 ≤ f / 12) && decide (f / 12 < b.prb0 + b.nprb) && decide (b.sym0 ≤ k) &&
    decide (k < b.sym0 + b.nsym) && decide (b.layer0 ≤ layer) && decide (layer < b.layer0 + b.nlt) && o.ptrsRe b f k

/-- Layer value of an RE of a downlink symbol (R287): a block's symbol, a pilot, PTRS, or 0. -/
def SlotOrd.layerVal (o : SlotOrd) (k : Nat) (res : List (Blk × List (Nat × Nat × Nat × Nat × Nat))) (layer f : Nat) :
    Int × Int :=
  match res.findSome? fun (b, rs) => (rs.find? fun x => x.1 == f && x.2.1 == layer).map fun x => (b, x) with
  | some (b, (_, _, c, i, n)) =>
    let cw := ((b.cbs.head?).map fun x => x.2.2.2).getD 0
    modulate c i ((List.range (codeQm c)).map fun j => cw.testBit (n + j))
  | none =>
    if o.pilotRe layer f k then (if o.remap then o.rePilot layer f k else o.dmrsVal layer f k)
    else match o.ptrsBlk layer f k with
      | some b => o.ptrsVal b layer f
      | none => (0, 0)

/-- One step of precoding in CI16 arithmetic (R282, R287): D + W · x, rounded once, saturated. -/
def cmac16 (d w x : Int × Int) : Int × Int :=
  let r (v : Int) : Int := rneInt (decide (v < 0)) v.natAbs (-15)
  (sat16 (d.1 + r (w.1 * x.1 - w.2 * x.2)), sat16 (d.2 + r (w.1 * x.2 + w.2 * x.1)))

/-- Precoder W[s][l] of a PRB group (R274). -/
def precOf (num nl ns g st l : Nat) : Int × Int :=
  let v := num / 2 ^ (32 * ((g * ns + st) * nl + l)) % 2 ^ 32
  (sext 16 (v % 2 ^ 16), sext 16 (v / 2 ^ 16))

/-- D2 of one symbol: the precoded samples of every stream are written into the air buffer. -/
def State.d2 (s : State) (o : SlotOrd) (k : Nat) : State :=
  let a := o.car
  let ns := (s.asOf o).carDl a
  let n := 4 * o.nl * ns * cdiv ((s.asOf o).carPrb a) 16
  let (s, w, _) := (s.tierCharge o.l .air o.prec n false).getBytes o.l o.prec n
  let res := o.blks.map fun b => (b, o.symRes b k)
  (List.range ((s.asOf o).carPrb a)).foldl (fun s p =>
    let xs := (List.range 12).map fun i => (List.range o.nl).map fun l => o.layerVal k res l (12 * p + i)
    (List.range ns).foldl (fun s st =>
      let v := xs.zipIdx.foldl (fun n (x, i) =>
        let y := x.zipIdx.foldl (fun d (z, l) => cmac16 d (precOf w o.nl ns (p / 16) st l) z) (0, 0)
        n + ci16 y.1 y.2 * 2 ^ (32 * i)) 0
      s.put o.l (dlIq a st k + 48 * p) 48 v) s) s

/-- DOWNLINK_STAGE_END (R279, R287, R289): D1 of a slot ends once every block is encoded, and signals b + 8; D2 of a
symbol ends after D1. -/
def execDownlinkStageEnd (a : Fin 8) (sfn : Fin 1024) (slot : Fin 80) (d2 : Bool) (k : Fin 14) (s : State) :
    Host.Outcome State Fault Refusal :=
  match s.orderAt a.val false sfn.val slot.val with
  | none => .next s
  | some o =>
    let now := s.oNow o
    let num := (s.asOf o).carNum a.val
    if d2 then
      match o.endOf 1 with
      | none => .next s
      | some t =>
        if o.has (100 + k.val) || s.owes o.l .air then .next s
        else
          let s := if o.ends.any fun x => decide (100 ≤ x.1) then s else s.lateIf o t (dlWindow 2 num)
          .next ((s.d2 o k.val).setOrder (o.mark (100 + k.val) now))
    else if o.has 1 || (o.blks.any fun b => b.cbs.isEmpty) then .next s
    else
      let s := s.lateIf o ((o.endOf 0).getD 0) (dlWindow 1 num)
      .next ((s.setOrder (o.mark 1 now)).signal ((s.asOf o).carObj a.val + 8) 1)

/-! ### Sending (R267, R288) -/

/-- An exponent fits a PRB's parts at width w (R267). -/
def expFits (w e : Nat) (ps : List Int) : Bool :=
  ps.all fun x =>
    let v := rneInt (decide (x < 0)) x.natAbs (-(e : Int))
    decide (-(2 : Int) ^ (w - 1) ≤ v) && decide (v ≤ (2 : Int) ^ (w - 1) - 1)

/-- The smallest exponent that fits (R267). -/
def bfpExp (w : Nat) (ps : List Int) : Nat := ((List.range 16).find? fun e => expFits w e ps).getD 15

/-- Bytes of a number, most significant first. -/
def beBytes (n v : Nat) : List Byte := (List.range n).map fun i => BitVec.ofNat 8 (v / 256 ^ (n - 1 - i))

/-- A PRB as sent (R267, R268). -/
def sendPrb (w : Nat) (ps : List Int) : List Byte :=
  let e := if w = 16 then 0 else bfpExp w ps
  let v := ps.foldl (fun n x => n * 2 ^ w + wrapN w (rneInt (decide (x < 0)) x.natAbs (-(e : Int)))) 0
  (if w = 16 then [] else [BitVec.ofNat 8 e]) ++ beBytes (3 * w) v

/-- The eAxC ID of a message that is sent: RU_port the stream, CC_ID the carrier's, BandSector and DU_port 0 (R265). -/
def State.eaxcOf (x : State) (a st : Nat) : Nat :=
  let e := x.rr Reg.FH_EAXC
  let ru := getF e Fld.FH_EAXC_RU_BITS
  st % 2 ^ ru + 2 ^ ru * (x.gf (Reg.AIR_CAR_CFG0 a) Fld.AIR_CAR_CFG0_CC_ID % 2 ^ getF e Fld.FH_EAXC_CC_BITS)

/-- Hand a message of a stream to the fronthaul port of an order's carrier with the next sequence ID (R263, R265, R288). -/
def State.fhSend (s : State) (o : SlotOrd) (plane st k : Nat) (d : List Byte) : State :=
  let x := s.asOf o
  let a := o.car
  let key := 2 * (16 * a + st) + 1
  let n := tget (fun _ => 0) s.fhSeq key
  let s := s.event 0xA 0x3001 (some o.l)
  { s with
    fhSeq := tput (fun _ => 0) s.fhSeq key ((n + 1) % 65536)
    fhTx := s.fhTx ++ [⟨x.gf (Reg.AIR_CAR_CFG0 a) Fld.AIR_CAR_CFG0_FH_PORT, plane, x.eaxcOf a st, a, st, k, n, d⟩] }

/-- CPLANE_SEND (R288): at slot start minus CP_ADV the C-plane of the slot is sent on every stream: direction, SFN, slot,
beamId (log 20). -/
def execCplaneSend (a : Fin 8) (ul : Bool) (sfn : Fin 1024) (slot : Fin 80) (s : State) :
    Host.Outcome State Fault Refusal :=
  match s.orderAt a.val ul sfn.val slot.val with
  | none => .next s
  | some o =>
    let x := s.asOf o
    if o.cplane || decide (s.oNow o + x.carCpAdv a.val * usU < o.start) then .next s
    else
      let d : List Byte := [if ul then 0 else 1] ++ beBytes 2 o.sfn ++ beBytes 1 o.slot ++ beBytes 2 o.beam
      let s := (List.range (if ul then x.carUl a.val else x.carDl a.val)).foldl (fun s st => s.fhSend o 0 st 0 d) s
      .next (s.setOrder { o with cplane := true })

/-- The order after one more symbol: its record and its end after the last (R277). -/
def State.dlNext (s : State) (o : SlotOrd) (late : Bool) : State :=
  let o := { o with syms := o.syms + 1, late := o.late || late }
  if 14 ≤ o.syms then (s.orderResult o (if o.late then St.timeout else St.ok)).dropOrder o.car o else s.setOrder o

/-- Send time of the next symbol of a downlink order (R288). -/
def State.sendAt (s : State) (o : SlotOrd) : Nat :=
  let x := s.asOf o
  o.start + symOff (x.carNum o.car) o.syms - x.carDlAdv o.car * usU

/-- Send the next symbol of a downlink order on every stream (R267, R288); b + 9 counts it (R279); D3 that ends after its window sets
STAGE_LATE (R289, R291). -/
def State.sendSym (s : State) (o : SlotOrd) : State :=
  let a := o.car
  let k := o.syms
  let x := s.asOf o
  let w := x.carCmp a
  let s := s.lateIf o (s.sendAt o) (dlWindow 3 (x.carNum a))
  let s := (List.range (x.carDl a)).foldl (fun s st =>
    let d := (List.range (x.carPrb a)).flatMap fun p =>
      sendPrb w ((List.range 24).map fun i => sext 16 (s.rdLE (dlIq a st k + 48 * p + 2 * i) 2))
    s.fhSend o 1 st k d) s
  (s.dlNext o false).signal (x.carObj a + 9) 1

/-- DL_SYMBOL_SEND (R288): at the start of the next symbol's air time minus DL_ADV it is sent; a symbol that was not ready then is
not sent and DL_LATE is set. -/
def execDlSymbolSend (a : Fin 8) (sfn : Fin 1024) (slot : Fin 80) (s : State) : Host.Outcome State Fault Refusal :=
  match s.orderAt a.val false sfn.val slot.val with
  | none => .next s
  | some o =>
    if s.oNow o < s.sendAt o then .next s
    else if (o.endOf (100 + o.syms)).any fun t => decide (t ≤ s.sendAt o) then .next (s.sendSym o)
    else .next ((s.dlNext o true).setFlag Reg.AIR_FLAG 5 (some o.l))

end Sys2Proof.Machine
end

