-- ==== Sys2Proof/Machine/Issue.lean ====
section
/-! DEFINITION. Issue and completion of the commands that run on a core's units (R94 to R98, R119, R136, R148, R234,
R244): when a command may begin, what it does when it begins, and COMMAND_COMPLETION. -/
namespace Sys2Proof.Machine
open Sys2Proof

/-! ### Units and buffers -/

/-- Tile buffers a command reads and writes. -/
def bufsOf (w : CmdWord) (desc : Nat) : List Nat × List Nat :=
  let op := cOp w
  if op = 0x30 then ([], [mBuf w])
  else if op = 0x31 then ([mBuf w], [])
  else if op = 0x36 then ([], [tTA w])
  else if op = 0x32 ∨ op = 0x34 ∨ op = 0x80 then (if tBimm w then [tTA w, tTD w] else [tTA w, tTB w, tTD w], [tTD w])
  else if op = 0x33 then (if tFunc w = 4 then [] else [tTA w], [tTD w])
  else if op = 0x41 ∨ op = 0x42 ∨ op = 0x40 ∨ op = 0x50 ∨ op = 0x35 ∨ op = 0x82 then ([tTA w, tTD w], [tTD w])
  else if op = 0x43 then ([tTA w, tTB w], [tTD w])
  else if op = 0x81 then ([(CinvDesc.of desc).src], [(CinvDesc.of desc).dst])
  else if op = 0x70 then ([], [dTbuf w])
  else ([], [])

/-- Every buffer a command names. -/
def namedBufs (w : CmdWord) (desc : Nat) : List Nat := (bufsOf w desc).1 ++ (bufsOf w desc).2

/-- A drain of the entry into buffer b has not pushed its entry yet (R136). -/
def State.drainsInto (s : State) (x : Ctx) (e : CmdEntry) (b : Nat) : Bool :=
  if e.done then false
  else if cOp e.w = 0x23 then cbits e.w 89 88 == b
  else if cOp e.w = 0x21 then
    let q := TileSpec.ofWord e.w e.desc
    match s.foldOf x e with
    | some f => q.drain && (List.range (f.lb * f.sb)).any fun i => decide (e.prog ≤ i) && (q.buf + i) % 4 == b
    | none => false
  else false

/-- Two commands may not overlap by R136: one writes a buffer the other uses. -/
def bufConflict (a b : List Nat × List Nat) : Bool :=
  (a.2.any fun t => b.1.contains t || b.2.contains t) || a.1.any fun t => b.2.contains t

/-- The command runs on units 2 to 4. -/
def isVec (w : CmdWord) : Bool := unitOf w == 2 || unitOf w == 3 || unitOf w == 4

/-- A command issued earlier that the use of the tables must let complete first: a TSWAP for the SFNs and TLOADs after it, a
TLOAD for the TSWAPs after it, an SFN on the inactive bank for the TLOADs after it (R160, R161; log 80). -/
def State.tblFirst (s : State) (x : Ctx) (e f : CmdEntry) : Bool :=
  let op := cOp e.w
  decide (f.stamp < e.stamp) &&
    ((cOp f.w == 0x52 && (op == 0x50 || op == 0x51)) || (cOp f.w == 0x51 && op == 0x52) ||
      (cOp f.w == 0x50 && op == 0x51 && f.bank != s.activeFor x))

/-- The waits of R136, R148, R160, R161 and R244 of a command of units 2 to 4. A command that waits for a ring entry has
completed (R97). -/
def State.vecReady (s : State) (x : Ctx) (e : CmdEntry) : Bool :=
  let own := (s.slotOf x.c x.p x.sl).inflight.filter fun f => decide (f.seq < e.seq) && !f.ended
  let other := (s.slotOf x.c x.p x.sl.other).inflight.filter fun f => !f.ended
  let u := unitOf e.w
  let bufs := bufsOf e.w e.desc
  !(own.any fun f => unitOf f.w == u) &&
    !(other.any fun f => unitOf f.w == u && f.begun) &&
    !(own.any fun f => (namedBufs e.w e.desc).any fun b => s.drainsInto x f b) &&
    !(own.any fun f => isVec f.w && bufConflict (bufsOf f.w f.desc) bufs) &&
    !(own.any fun f => cOp f.w == 0x70 && (namedBufs e.w e.desc).contains (dTbuf f.w)) &&
    !(other.any fun f => s.tblFirst x e f) &&
    !(cOp e.w == 0x71 && s.stepRuns x.l (KvDesc.of e.desc).pool)

/-- An ATT also waits, before it begins, for earlier commands naming its buffer and for a running STEP (R234, R244). -/
def State.attReady (s : State) (x : Ctx) (e : CmdEntry) : Bool :=
  e.begun ||
    (!((s.slotOf x.c x.p x.sl).inflight.any fun f =>
        decide (f.seq < e.seq) && !f.ended && isVec f.w && (namedBufs f.w f.desc).contains (dTbuf e.w)) &&
      !s.stepRuns x.l (AttDesc.of e.desc).pool)

/-! ### Which command a unit takes (R119, R120, R405) -/

/-- The command is ready for its unit (R119): it may begin there, or it has begun and goes on. An ATT asks for the engine at
every chunk (R246). One whose attempt failed a check waits for its recovery (R54). -/
def State.ready (s : State) (x : Ctx) (e : CmdEntry) : Bool :=
  e.fault == 0 && !e.done &&
    match unitOf e.w with
    | 1 => if cOp e.w = 0x70 then s.engineReady x e && s.attReady x e else e.begun || s.engineReady x e
    | 5 => true
    | _ => e.begun || s.vecReady x e

/-- The command asks for its unit as a new one does: a DRAIN once its buffer is FREE and its turn has come, an ATT at every
chunk. -/
def State.asks (s : State) (x : Ctx) (e : CmdEntry) : Bool :=
  cOp e.w == 0x70 || (!e.begun && (cOp e.w != 0x23 ||
    ((s.tcOf x.c).bufState x.p (cbits e.w 89 88) == 0 && s.drainTurn x e)))

/-- The slot a unit takes when both have a command ready (R119, R125): A, or the one it did not serve last. -/
def State.firstSlot (s : State) (c u : Nat) : Slot :=
  if s.gf (Reg.TC_SLOT_CTL c) Fld.TC_SLOT_CTL_MODE = 0 then .a else (tget (fun _ => Slot.b) (s.tcOf c).served u).other

/-- The other slot has a command ready for the unit, and the unit takes that one (R119). -/
def State.rival (s : State) (x : Ctx) (e : CmdEntry) : Bool :=
  let u := unitOf e.w
  let y : Ctx := { x with sl := x.sl.other }
  u != 5 && s.asks x e && s.firstSlot x.c u != x.sl &&
    (s.slotOf x.c x.p y.sl).inflight.any fun f => unitOf f.w == u && s.asks y f && s.ready y f

/-- The commands whose unit of work is non-preemptible (R123). -/
def CmdEntry.whole (e : CmdEntry) : Bool :=
  [0x20, 0x21, 0x22, 0x23, 0x70, 0x60, 0x61, 0x63, 0x62].contains (cOp e.w) || (cOp e.w == 0x71 && dFunc e.w == 4)

/-- A drain of the entry is writing into its buffer (R133). -/
def CmdEntry.draining (e : CmdEntry) : Bool := e.passed && !e.done

/-- A pooled core's units run the commands of its holder. Once the slice has ended only a non-preemptible unit in progress
runs on, one of each command (R123, R405, R408). -/
def State.inSlice (s : State) (x : Ctx) (e : CmdEntry) : Bool :=
  unitOf e.w == 5 || !s.pooled x.c ||
    (x.p == s.curPart x.c && (s.gf (Reg.TC_POOL_STAT x.c) Fld.TC_POOL_STAT_SWITCHING == 0 ||
      (e.whole && e.begun && (e.draining || !(s.tcOf x.c).late.contains (x.sl, e.seq)))))

/-- The command may begin, or go on, now. -/
def State.mayRun (s : State) (x : Ctx) (e : CmdEntry) : Bool := s.inSlice x e && s.ready x e && !s.rival x e

/-- What a command does when it begins or goes on. -/
def State.effect (s : State) (x : Ctx) (e : CmdEntry) : State × CmdEntry :=
  match cOp e.w with
  | 0x20 => s.passEff x e
  | 0x21 => s.tileEff x e
  | 0x22 => s.ldsEff x e
  | 0x23 => s.drainEff x e
  | 0x30 => s.vldEff x e
  | 0x31 => s.vstEff x e
  | 0x32 => s.vbinEff x e
  | 0x33 => s.vunEff x e
  | 0x34 => s.vfmaEff x e
  | 0x35 => s.vcvtEff x e
  | 0x36 => s.vfreeEff x e
  | 0x40 => s.redEff x e
  | 0x41 => s.topkEff x e
  | 0x42 => s.smx1Eff x e
  | 0x43 => s.smx2Eff x e
  | 0x50 => s.sfnEff x e
  | 0x51 => s.tloadEff x e
  | 0x52 => s.tswapEff x e
  | 0x60 => s.qntEff x e
  | 0x61 => s.dequantEff x e
  | 0x62 => if dFunc e.w = 1 then s.qclearEff x e else s.recordEff x e
  | 0x63 => s.osideEff x e
  | 0x70 => s.attEff x e
  | 0x71 => if dFunc e.w = 4 then s.appendEff x e else s.kvFnEff x e
  | 0x72 => s.kvFnEff x e
  | 0x80 => s.cmulEff x e
  | 0x81 => s.cinvEff x e
  | _ => s.llrpkEff x e

/-- The unit takes a command: it is the slot served last (R119); the engine stays for the PASS behind an LDS (R120). -/
def State.serve (s : State) (x : Ctx) (e : CmdEntry) : State :=
  let u := unitOf e.w
  if u = 5 then s
  else s.setTc x.c fun t =>
    { t with
      served := tput (fun _ => Slot.b) t.served u x.sl
      hold := if u != 1 then t.hold
        else if cOp e.w = 0x22 then some ⟨x.p, x.sl, (e.seq + 1) % 2 ^ 32, cbits e.w 105 105⟩ else none }

/-- The effect has brought the command further: waiting, or having waited, is no work. -/
def CmdEntry.moved (e f : CmdEntry) : Bool := f != { e with warned := f.warned, begun := f.begun }

/-- A non-preemptible unit has run past the end of the slice: the command will end with OVERRUN_CHARGED, and OVERRUN is set
(R124, R408). -/
def State.runOver (s : State) (x : Ctx) (e f : CmdEntry) : State × CmdEntry :=
  if s.pooled x.c && unitOf e.w != 5 && s.gf (Reg.TC_POOL_STAT x.c) Fld.TC_POOL_STAT_SWITCHING == 1 && e.moved f then
    ((s.setTc x.c fun t => { t with late := (x.sl, e.seq) :: t.late }).setFlagIf (!e.ovr) Reg.LDG_FLAG 3 (some x.l),
      { f with ovr := true })
  else (s, f)

/-- Bring a command on: its effect when it may run. Each effect sets its own arithmetic flags (R50). -/
def State.bringOn (s : State) (x : Ctx) (e : CmdEntry) : State × CmdEntry :=
  if !s.mayRun x e then (s, e)
  else
    let (t, f) := (if s.asks x e || !e.begun then s.serve x e else s).effect x { e with begun := e.begun || unitOf e.w != 5 }
    t.runOver x e f

/-! ### Issue -/

/-- Address of the 64-byte descriptor a command reads at decode, when it reads one (R105, R109). -/
def descAddrOf (w : CmdWord) : Option Nat :=
  let op := cOp w
  if op = 0x21 then some (64 * cbits w 46 32)
  else if op = 0x51 ∨ op = 0x60 ∨ op = 0x61 ∨ op = 0x62 ∨ op = 0x63 ∨ op = 0x70 ∨ op = 0x71 ∨ op = 0x72 ∨ op = 0x81 then some (dDesc w)
  else none

/-- The descriptor's 64 bytes, and whether they can be read. -/
def State.descAt (s : State) (x : Ctx) (w : CmdWord) : Nat × Bool :=
  match descAddrOf w with
  | some a => (s.rdLE (osAddr x.c + a) 64, s.poisoned (osAddr x.c + a) 64)
  | none => (0, false)

/-- The entry of a command at its issue: the bank its first load goes into, or the table bank of an SFN (R82, R161). -/
def State.newEntry (s : State) (x : Ctx) (seq : Nat) (w : CmdWord) (desc : Nat) : CmdEntry :=
  let t := s.slotOf x.c x.p x.sl
  { CmdEntry.mk' seq w desc t.att with
    stamp := (s.tcOf x.c).issued, bank := if cOp w = 0x50 then s.sfnBank x else t.nextBank }

/-- Issue a checked command: a page-manager function takes its place in the pool's queue; a command that may begin
does. -/
def State.issue (s : State) (x : Ctx) (seq : Nat) (w : CmdWord) (desc : Nat) : State :=
  let e := s.newEntry x seq w desc
  let s := if unitOf w = 5 then { s with kvq := s.kvq ++ [⟨x.l, (KvDesc.of desc).pool, x.c, x.p, x.sl, seq⟩] } else s
  let s := s.noteLoads x e
  let (s, e) := s.bringOn x e
  s.enter x e

/-- Decode a command of a unit: its checks, then its issue. -/
def unitRow (c : Fin 32) (sl : Slot) (w : CmdWord) (isRow : Bool) (s : State)
    (checks : State → Ctx → Nat → Attach → List (Bool × Nat)) : Host.Outcome State Fault Refusal :=
  decodeRow c sl w isRow s fun x seq s =>
    let (d, bad) := s.descAt x w
    let st := pick (checks s x d (s.slotOf x.c x.p x.sl).att)
    if st ≠ St.ok then s.complete x w seq st
    else if bad then s.complete x w seq St.integrity
    else s.issue x seq w d

/-! ### The rows -/

/-- PASS (R62, R101, R102): one whose mask clears every vector completes at issue, with no engine activity (R73). -/
def execPass (c : Fin 32) (sl : Slot) (w : CmdWord) (s : State) : Host.Outcome State Fault Refusal :=
  decodeRow c sl w (cOp w == 0x20) s fun x seq s =>
    let st := pick (s.passChecks x w (s.slotOf x.c x.p x.sl).att)
    if st ≠ St.ok then s.complete x w seq st
    else if !s.maskBad x w && s.passEmpty x w then (s.noteLoads x (s.newEntry x seq w 0)).complete x w seq St.ok
    else s.issue x seq w 0
/-- TILE (R80 to R87, R104). -/
def execTile (c : Fin 32) (sl : Slot) (w : CmdWord) (s : State) : Host.Outcome State Fault Refusal :=
  unitRow c sl w (cOp w == 0x21) s fun s x d att => s.tileChecks x w d att
/-- LDS (R59, R100). -/
def execLds (c : Fin 32) (sl : Slot) (w : CmdWord) (s : State) : Host.Outcome State Fault Refusal :=
  unitRow c sl w (cOp w == 0x22) s fun s x _ att => s.ldsChecks x w att
/-- DRAIN (R74, R103). -/
def execDrain (c : Fin 32) (sl : Slot) (w : CmdWord) (s : State) : Host.Outcome State Fault Refusal :=
  unitRow c sl w (cOp w == 0x23) s fun s x _ _ => s.drainChecks x w
/-- VLD (R145). -/
def execVld (c : Fin 32) (sl : Slot) (w : CmdWord) (s : State) : Host.Outcome State Fault Refusal :=
  unitRow c sl w (cOp w == 0x30) s fun s x _ _ => s.mChecks x w
/-- VST (R145). -/
def execVst (c : Fin 32) (sl : Slot) (w : CmdWord) (s : State) : Host.Outcome State Fault Refusal :=
  unitRow c sl w (cOp w == 0x31) s fun s x _ _ => s.mChecks x w
/-- VBIN (R141). -/
def execVbin (c : Fin 32) (sl : Slot) (w : CmdWord) (s : State) : Host.Outcome State Fault Refusal :=
  unitRow c sl w (cOp w == 0x32) s fun s x _ _ => s.vbinChecks x w
/-- VUN (R143). -/
def execVun (c : Fin 32) (sl : Slot) (w : CmdWord) (s : State) : Host.Outcome State Fault Refusal :=
  unitRow c sl w (cOp w == 0x33) s fun s x _ _ => s.vunChecks x w
/-- VFMA (R142). -/
def execVfma (c : Fin 32) (sl : Slot) (w : CmdWord) (s : State) : Host.Outcome State Fault Refusal :=
  unitRow c sl w (cOp w == 0x34) s fun s x _ _ => s.vfmaChecks x w
/-- VCVT (R144). -/
def execVcvt (c : Fin 32) (sl : Slot) (w : CmdWord) (s : State) : Host.Outcome State Fault Refusal :=
  unitRow c sl w (cOp w == 0x35) s fun s x _ _ => s.vcvtChecks x w
/-- VFREE (R146). -/
def execVfree (c : Fin 32) (sl : Slot) (w : CmdWord) (s : State) : Host.Outcome State Fault Refusal :=
  unitRow c sl w (cOp w == 0x36) s fun s x _ _ => s.vfreeChecks x w
/-- RED (R149). -/
def execRed (c : Fin 32) (sl : Slot) (w : CmdWord) (s : State) : Host.Outcome State Fault Refusal :=
  unitRow c sl w (cOp w == 0x40) s fun s x _ _ => s.redChecks x w
/-- TOPK (R151). -/
def execTopk (c : Fin 32) (sl : Slot) (w : CmdWord) (s : State) : Host.Outcome State Fault Refusal :=
  unitRow c sl w (cOp w == 0x41) s fun s x _ _ => s.topkChecks x w
/-- SMX1 (R164). -/
def execSmx1 (c : Fin 32) (sl : Slot) (w : CmdWord) (s : State) : Host.Outcome State Fault Refusal :=
  unitRow c sl w (cOp w == 0x42) s fun s x _ _ => s.smx1Checks x w
/-- SMX2 (R165). -/
def execSmx2 (c : Fin 32) (sl : Slot) (w : CmdWord) (s : State) : Host.Outcome State Fault Refusal :=
  unitRow c sl w (cOp w == 0x43) s fun s x _ _ => s.smx2Checks x w
/-- SFN (R153). -/
def execSfn (c : Fin 32) (sl : Slot) (w : CmdWord) (s : State) : Host.Outcome State Fault Refusal :=
  unitRow c sl w (cOp w == 0x50) s fun s x _ _ => s.sfnChecks x w
/-- TLOAD (R160). -/
def execTload (c : Fin 32) (sl : Slot) (w : CmdWord) (s : State) : Host.Outcome State Fault Refusal :=
  unitRow c sl w (cOp w == 0x51) s fun s x d _ => s.tloadChecks x w d
/-- TSWAP (R161). -/
def execTswap (c : Fin 32) (sl : Slot) (w : CmdWord) (s : State) : Host.Outcome State Fault Refusal :=
  unitRow c sl w (cOp w == 0x52) s fun s x _ _ => s.tswapChecks x w
/-- QNT (R178). -/
def execQnt (c : Fin 32) (sl : Slot) (w : CmdWord) (s : State) : Host.Outcome State Fault Refusal :=
  unitRow c sl w (cOp w == 0x60) s fun s x d _ => s.qntChecks x w d
/-- DQNT DEQUANT, and an illegal FUNC of DQNT (R180, R182). -/
def execDequant (c : Fin 32) (sl : Slot) (w : CmdWord) (s : State) : Host.Outcome State Fault Refusal :=
  unitRow c sl w (cOp w == 0x61 && dFunc w != 1 && dFunc w != 2) s fun s x d _ => s.dequantChecks x w d
/-- DQNT ATTACH (R184): the slot's attachment from now on. -/
def execAttach (c : Fin 32) (sl : Slot) (w : CmdWord) (s : State) : Host.Outcome State Fault Refusal :=
  decodeRow c sl w (cOp w == 0x61 && dFunc w == 1) s fun x seq s =>
    let (d, bad) := s.descAt x w
    let st := pick (s.attachChecks x w d)
    if st ≠ St.ok then s.complete x w seq st
    else if bad then s.complete x w seq St.integrity
    else (s.setAttach x (Attach.ofDesc d)).complete x w seq St.ok
/-- DQNT DETACH (R184). -/
def execDetach (c : Fin 32) (sl : Slot) (w : CmdWord) (s : State) : Host.Outcome State Fault Refusal :=
  decodeRow c sl w (cOp w == 0x61 && dFunc w == 2) s fun x seq s =>
    let st := pick (s.detachChecks x w)
    if st ≠ St.ok then s.complete x w seq st else (s.setAttach x Attach.off).complete x w seq St.ok
/-- QMAX RECORD, and an illegal FUNC of QMAX (R180, R183). -/
def execRecordMax (c : Fin 32) (sl : Slot) (w : CmdWord) (s : State) : Host.Outcome State Fault Refusal :=
  unitRow c sl w (cOp w == 0x62 && dFunc w != 1) s fun s x d _ => s.recordChecks x w d
/-- QMAX CLEAR (R183). -/
def execQmaxClear (c : Fin 32) (sl : Slot) (w : CmdWord) (s : State) : Host.Outcome State Fault Refusal :=
  unitRow c sl w (cOp w == 0x62 && dFunc w == 1) s fun s x d _ => s.qclearChecks x w d
/-- OSIDE (R188). -/
def execOside (c : Fin 32) (sl : Slot) (w : CmdWord) (s : State) : Host.Outcome State Fault Refusal :=
  unitRow c sl w (cOp w == 0x63) s fun s x d _ => s.osideChecks x w d
/-- ATT (R239 to R246). -/
def execAtt (c : Fin 32) (sl : Slot) (w : CmdWord) (s : State) : Host.Outcome State Fault Refusal :=
  unitRow c sl w (cOp w == 0x70) s fun s x d _ => s.attChecks x w d
/-- KVAPP POOL (R228). An illegal FUNC of KVAPP is decoded here and rejected with FORMAT (R110). -/
def execPoolCreate (c : Fin 32) (sl : Slot) (w : CmdWord) (s : State) : Host.Outcome State Fault Refusal :=
  unitRow c sl w (cOp w == 0x71 && (dFunc w == 0 || decide (9 < dFunc w))) s fun s x d _ =>
    s.poolChecks x w d ++ [(decide (9 < dFunc w), St.format)]
/-- KVAPP JOIN (R233). -/
def execJoin (c : Fin 32) (sl : Slot) (w : CmdWord) (s : State) : Host.Outcome State Fault Refusal :=
  unitRow c sl w (cOp w == 0x71 && dFunc w == 1) s fun s x d _ => s.joinChecks x w d
/-- KVAPP LEAVE (R233). -/
def execLeave (c : Fin 32) (sl : Slot) (w : CmdWord) (s : State) : Host.Outcome State Fault Refusal :=
  unitRow c sl w (cOp w == 0x71 && dFunc w == 2) s fun s x d _ => s.leaveChecks x w d
/-- KVAPP STEP (R254, R255). -/
def execKvappStep (c : Fin 32) (sl : Slot) (w : CmdWord) (s : State) : Host.Outcome State Fault Refusal :=
  unitRow c sl w (cOp w == 0x71 && dFunc w == 3) s fun s x d _ => s.stepChecks x w d
/-- KVAPP APPEND (R236). -/
def execAppend (c : Fin 32) (sl : Slot) (w : CmdWord) (s : State) : Host.Outcome State Fault Refusal :=
  unitRow c sl w (cOp w == 0x71 && dFunc w == 4) s fun s x d _ => s.appendChecks x w d
/-- KVAPP FORK (R237). -/
def execFork (c : Fin 32) (sl : Slot) (w : CmdWord) (s : State) : Host.Outcome State Fault Refusal :=
  unitRow c sl w (cOp w == 0x71 && dFunc w == 5) s fun s x d _ => s.forkChecks x w d
/-- KVAPP PIN (R238). -/
def execPinBlocks (c : Fin 32) (sl : Slot) (w : CmdWord) (s : State) : Host.Outcome State Fault Refusal :=
  unitRow c sl w (cOp w == 0x71 && dFunc w == 6) s fun s x d _ => s.pinChecks x w d
/-- KVAPP UNPIN (R233, R238). -/
def execUnpinBlocks (c : Fin 32) (sl : Slot) (w : CmdWord) (s : State) : Host.Outcome State Fault Refusal :=
  unitRow c sl w (cOp w == 0x71 && dFunc w == 7) s fun s x d _ => s.unpinChecks x w d
/-- KVAPP GROW (R233). -/
def execGrow (c : Fin 32) (sl : Slot) (w : CmdWord) (s : State) : Host.Outcome State Fault Refusal :=
  unitRow c sl w (cOp w == 0x71 && dFunc w == 8) s fun s x d _ => s.growChecks x w d
/-- KVAPP CLOSE (R228). -/
def execClose (c : Fin 32) (sl : Slot) (w : CmdWord) (s : State) : Host.Outcome State Fault Refusal :=
  unitRow c sl w (cOp w == 0x71 && dFunc w == 9) s fun s x d _ => s.closeChecks x w d
/-- PFX LOOKUP, and an illegal FUNC of PFX (R233, R249). -/
def execLookup (c : Fin 32) (sl : Slot) (w : CmdWord) (s : State) : Host.Outcome State Fault Refusal :=
  unitRow c sl w (cOp w == 0x72 && dFunc w != 1 && dFunc w != 2) s fun s x d _ => s.lookupChecks x w d
/-- PFX PUBLISH (R249). -/
def execPublish (c : Fin 32) (sl : Slot) (w : CmdWord) (s : State) : Host.Outcome State Fault Refusal :=
  unitRow c sl w (cOp w == 0x72 && dFunc w == 1) s fun s x d _ => s.publishChecks x w d
/-- PFX FLUSH (R233). -/
def execPfxFlush (c : Fin 32) (sl : Slot) (w : CmdWord) (s : State) : Host.Outcome State Fault Refusal :=
  unitRow c sl w (cOp w == 0x72 && dFunc w == 2) s fun s x d _ => s.flushChecks x w d
/-- CMUL (R282). -/
def execCmul (c : Fin 32) (sl : Slot) (w : CmdWord) (s : State) : Host.Outcome State Fault Refusal :=
  unitRow c sl w (cOp w == 0x80) s fun s x _ _ => s.cmulChecks x w
/-- CINV (R283). -/
def execCinv (c : Fin 32) (sl : Slot) (w : CmdWord) (s : State) : Host.Outcome State Fault Refusal :=
  unitRow c sl w (cOp w == 0x81) s fun s x d _ => s.cinvChecks x w d
/-- LLRPK (R284). -/
def execLlrpk (c : Fin 32) (sl : Slot) (w : CmdWord) (s : State) : Host.Outcome State Fault Refusal :=
  unitRow c sl w (cOp w == 0x82) s fun s x _ _ => s.llrpkChecks x w

/-! ### Completion (R96 to R98, R112) -/

/-- Put a changed entry back in its slot. -/
def State.putEntry (s : State) (x : Ctx) (e : CmdEntry) : State :=
  s.setSlot x.c x.p x.sl fun t => { t with inflight := t.inflight.map fun f => if f.seq = e.seq then e else f }

/-- The status an entry ends with: OVERRUN_CHARGED in place of OK when a unit of it ran past its slice (R124). -/
def CmdEntry.endSt (e : CmdEntry) : Nat := if e.st = St.ok ∧ e.ovr then St.overrun else e.st

/-- An entry that has done its work completes: it writes what it writes only then (R148, R179). Without a ring entry for a status
that needs one, the slot stalls (R97), and the entry has completed but for its record. -/
def State.endEntry (s : State) (x : Ctx) (e : CmdEntry) : State :=
  let s := if e.ended then s else s.atCompletion x e
  if e.endSt != St.ok && !e.claimed && (s.slotOf x.c x.p x.sl).ringFree == 0 then
    (s.putEntry x { e with ended := true }).stallRing x
  else
    let s := s.setSlot x.c x.p x.sl fun t => { t with inflight := t.inflight.filter fun f => f.seq != e.seq }
    (s.finish x e.w e.seq e.endSt e.ev 0 e.claimed false).checkDrain x

/-- The other ROTs of a round whose lengths differ: each completes with FORMAT too and its slot stops; one without a ring entry
is dropped by the teardown that follows (R97, R117, R416). -/
def State.endRound (s : State) (x : Ctx) (k : Nat) : State :=
  ((s.ringCores x.l).filter fun c => c != x.c).foldl (fun s c =>
    match s.rotOf c k with
    | some (sl, m) =>
      let y : Ctx := ⟨c, 0, x.l, sl⟩
      if m.st != St.format || (!m.claimed && (s.slotOf c 0 sl).ringFree == 0) then s
      else (s.setSlot c 0 sl fun t => { t with moves := t.moves.filter fun n => n.seq != m.seq }).finishMark y m.w m.seq m.st 0 0 m.claimed false
    | none => s) s

/-- The first move of a queue ends when it has done its work (R112, R117). -/
def State.endMove (s : State) (x : Ctx) : State :=
  match (s.slotOf x.c x.p x.sl).moves with
  | [] => s
  | m :: ms =>
    if !m.over then s
    else if m.st != St.ok && !m.claimed && (s.slotOf x.c x.p x.sl).ringFree == 0 then s.stallRing x
    else
      let s := s.setSlot x.c x.p x.sl fun t => { t with moves := ms }
      let s := if cOp m.w = 0x14 ∧ m.st = St.format then s.endRound x m.round else s
      (s.finish x m.w m.seq m.st 0 0 m.claimed false).checkDrain x

/-- The core holds the partition of the command: a command of another partition completes in its lodging's next slice (R124). -/
def State.atHome (s : State) (x : Ctx) (e : CmdEntry) : Bool := unitOf e.w == 5 || !s.pooled x.c || x.p == s.curPart x.c

/-- COMMAND_COMPLETION (R98) of the i-th command a slot has in flight; behind them, of the first move of its queue. A
command that waited begins first, when it may; one whose work is not done does not complete. -/
def execCommandCompletion (c : Fin 32) (p : Fin 4) (sl : Slot) (i : Nat) (s : State) : Host.Outcome State Fault Refusal :=
  let t := s.slotOf c.val p.val sl
  let x : Ctx := ⟨c.val, p.val, t.ldg, sl⟩
  match t.inflight[i]? with
  | none => .next (if i = t.inflight.length then s.endMove x else s)
  | some e =>
    let (s, e) := s.bringOn x e
    let s := s.putEntry x e
    .next (if e.done && s.atHome x e then s.endEntry x e else s)

/-- DRAIN_BUFFER_FREED (R133): a drain that waits begins once its buffer is FREE. -/
def execDrainBufferFreed (c : Fin 32) (p : Fin 4) (sl : Slot) (i : Nat) (s : State) : Host.Outcome State Fault Refusal :=
  let t := s.slotOf c.val p.val sl
  let x : Ctx := ⟨c.val, p.val, t.ldg, sl⟩
  match t.inflight[i]? with
  | none => .next s
  | some e =>
    if cOp e.w = 0x23 ∨ cOp e.w = 0x21 then
      let (s, e) := s.bringOn x e
      .next (s.putEntry x e)
    else .next s

end Sys2Proof.Machine
end

