-- ==== Sys2Proof/Machine/Pool.lean ====
section
/-! DEFINITION. Pooled cores (R403 to R408): rounds, the end of a slice, the switch. How many ENG cycles a lodging's
commands kept the units busy is an operand of the events: the model gives commands no duration. -/
namespace Sys2Proof.Machine
open Sys2Proof

/-- A command is work for its core (R119, R405): it is in progress there, or it is ready and comes further when it runs. -/
def State.entryWork (s : State) (x : Ctx) (e : CmdEntry) : Bool :=
  unitOf e.w != 5 && !e.ended && (e.done || (s.ready x e && e.moved (s.effect x e).2))

/-- A slot has work: a command that is work, or one it can still decode (R405, R412). -/
def State.slotWork (s : State) (c p : Nat) (sl : Slot) : Bool :=
  let t := s.slotOf c p sl
  t.active && ((t.st == 1 && t.wait == .none) || t.inflight.any fun e => s.entryWork ⟨c, p, t.ldg, sl⟩ e)

/-- A partition's lodging has work on the core. -/
def State.partWork (s : State) (c p : Nat) : Bool :=
  s.gf (Reg.TC_PART c p) Fld.TC_PART_VALID == 1 && (s.slotWork c p .a || s.slotWork c p .b)

/-- Lodging of a partition. -/
def State.partLdg (s : State) (c p : Nat) : Nat := s.gf (Reg.TC_PART c p) Fld.TC_PART_LODGING

/-- Partitions whose lodgings have work, by ascending lodging number (R405). -/
def State.workers (s : State) (c : Nat) : List Nat :=
  (List.range 16).flatMap fun l => (List.range 4).filter fun p => s.partWork c p && s.partLdg c p == l

/-- Deficit of a partition, signed (R430). -/
def State.deficit (s : State) (c p : Nat) : Int := (s.rr (Reg.TC_DEFICIT c p)).toInt
/-- Set a deficit. -/
def State.setDeficit (s : State) (c p : Nat) (v : Int) : State := s.wr (Reg.TC_DEFICIT c p) (BitVec.ofInt 32 v)

/-- Share of a partition's lodging. -/
def State.shareOf (s : State) (c p : Nat) : Nat := s.gf (Reg.LDG_SHARE (s.partLdg c p)) Fld.LDG_SHARE_SHARE

/-- The partition whose turn it is: the first of the round with deficit left (R405). -/
def State.turn (s : State) (c : Nat) : Option Nat := (s.tcOf c).round.find? fun p => decide (0 < s.deficit c p)

/-- Whether the turn is another partition's than the holder's: SWITCHING shows it (R407, R430). -/
def State.showSwitch (s : State) (c : Nat) : State :=
  s.sf (Reg.TC_POOL_STAT c) Fld.TC_POOL_STAT_SWITCHING
    (match s.turn c with
     | some p => if p = s.curPart c then 0 else 1
     | none => 0)

/-- ROUND (R405): a pooled core whose round is over starts another when some lodging has work. -/
def execRound (c : Fin 32) (s : State) : Host.Outcome State Fault Refusal :=
  let c := c.val
  let ws := s.workers c
  if !s.pooled c || (s.turn c).isSome || ws == [] then .next s
  else
    let sum := ws.foldl (fun n p => n + s.shareOf c p) 0
    let slice := s.gf Reg.LDG_SLICE Fld.LDG_SLICE_SLICE
    let s := ws.foldl (fun (s : State) p =>
      s.setDeficit c p (s.deficit c p + ((slice * 900 * s.shareOf c p / sum : Nat) : Int))) s
    .next ((s.setTc c fun t => { t with round := ws }).showSwitch c)

/-- Charge ENG cycles to a partition (R406): eng to the matrix engine, vec to the other units, busy in all. -/
def State.chargeEng (s : State) (c p eng vec busy : Nat) : State :=
  let l := s.partLdg c p
  let s := s.wr (Reg.LDG_ENG_BUSY l) (s.rr (Reg.LDG_ENG_BUSY l) + BitVec.ofNat 32 eng)
  let s := s.wr (Reg.LDG_VEC_BUSY l) (s.rr (Reg.LDG_VEC_BUSY l) + BitVec.ofNat 32 vec)
  s.setDeficit c p (s.deficit c p - busy)

/-- The busy cycles fit together: each busy cycle is one of some unit (R406). -/
def busyFits (eng vec busy : Nat) : Bool := decide (eng ≤ busy) && decide (busy ≤ eng + vec)

/-- A non-preemptible unit of the command is in progress (R123): it is made and has not completed, or a drain is writing. A
command that waits, or stands between two units, has none. -/
def CmdEntry.stuck (e : CmdEntry) : Bool := e.whole && e.begun && !e.ended && (e.done || e.passed)

/-- The commands of the holder whose non-preemptible unit is in progress will end with OVERRUN_CHARGED, and OVERRUN is set
(R124, R408). -/
def State.overrun (s : State) (c p : Nat) : State :=
  let tooLong (e : CmdEntry) : Bool := e.stuck && !e.ovr
  let any := (s.slotOf c p .a).inflight.any tooLong || (s.slotOf c p .b).inflight.any tooLong
  let mark (t : TcSlot) : TcSlot := { t with inflight := t.inflight.map fun e => if tooLong e then { e with ovr := true } else e }
  let s := (s.setSlot c p .a mark).setSlot c p .b mark
  s.setFlagIf any Reg.LDG_FLAG 3 (some (s.partLdg c p))

/-- SLICE_END (R405, R408): the holder's run ends when its deficit reaches 0, or when it has had no work for 64
cycles; a deficit left then is 0. -/
def execSliceEnd (c : Fin 32) (eng vec busy : Nat) (s : State) : Host.Outcome State Fault Refusal :=
  let c := c.val
  let p := s.curPart c
  if !s.pooled c || s.turn c != some p || !busyFits eng vec busy then .next s
  else
    let idle := !s.partWork c p
    if decide ((busy : Int) < s.deficit c p) && !idle then .next s
    else
      let s := s.chargeEng c p eng vec busy
      let s := if decide (0 < s.deficit c p) then s.setDeficit c p 0 else s.overrun c p
      .next ((s.setTc c fun t => { t with round := (t.round.filter fun q => q != p), late := [] }).showSwitch c)

/-- SWITCH (R407): the core passes to the lodging whose turn it is, once the holder's non-preemptible unit has
completed; the cycles it ran on are charged to the holder. No state is saved or restored. -/
def execSwitchLdg (c : Fin 32) (eng vec busy : Nat) (s : State) : Host.Outcome State Fault Refusal :=
  let c := c.val
  let f := s.curPart c
  match s.turn c with
  | none => .next s
  | some p =>
    let stuck (sl : Slot) : Bool := (s.slotOf c f sl).inflight.any CmdEntry.stuck
    if !s.pooled c || p == f || !busyFits eng vec busy || stuck .a || stuck .b then .next s
    else
      let s := s.chargeEng c f eng vec busy
      let r := Reg.TC_POOL_STAT c
      let s := s.event (0x10 + c) 0x300A (some (s.partLdg c p))
      .next (((s.sf r Fld.TC_POOL_STAT_HOLDER p).sf r Fld.TC_POOL_STAT_SWITCHING 0).setTc c fun t => { t with late := [] })

end Sys2Proof.Machine
end

