-- ==== Sys2Proof/Machine/Dispatch.lean ====
section
/-! DEFINITION. The dispatch: one arm per command, each a direct call of its meaning. -/
namespace Sys2Proof.Machine
open Sys2Proof

/-- The effect of one command on everything but the queue. -/
def exec (i : Instr) (s : State) : Host.Outcome State Fault Refusal :=
  match i with
  | .registerWrite who off be v => Sys2Proof.Machine.execRegisterWrite who off be v s
  | .nop c sl w => Sys2Proof.Machine.execNop c sl w s
  | .wait c sl w => Sys2Proof.Machine.execWait c sl w s
  | .waitSatisfied c p sl => Sys2Proof.Machine.execWaitSatisfied c p sl s
  | .signal c sl w => Sys2Proof.Machine.execSignal c sl w s
  | .arm c sl w => Sys2Proof.Machine.execArm c sl w s
  | .fence c sl w => Sys2Proof.Machine.execFence c sl w s
  | .endStream c sl w => Sys2Proof.Machine.execEndStream c sl w s
  | .mark c sl w => Sys2Proof.Machine.execMark c sl w s
  | .mov c sl w => Sys2Proof.Machine.execMov c sl w s
  | .moveStart c p sl => Sys2Proof.Machine.execMoveStart c p sl s
  | .rot c sl w => Sys2Proof.Machine.execRot c sl w s
  | .pagePut c sl w => Sys2Proof.Machine.execPagePut c sl w s
  | .pageGet c sl w => Sys2Proof.Machine.execPageGet c sl w s
  | .pass c sl w => Sys2Proof.Machine.execPass c sl w s
  | .tile c sl w => Sys2Proof.Machine.execTile c sl w s
  | .lds c sl w => Sys2Proof.Machine.execLds c sl w s
  | .drain c sl w => Sys2Proof.Machine.execDrain c sl w s
  | .drainBufferFreed c p sl ix => Sys2Proof.Machine.execDrainBufferFreed c p sl ix s
  | .vld c sl w => Sys2Proof.Machine.execVld c sl w s
  | .vst c sl w => Sys2Proof.Machine.execVst c sl w s
  | .vbin c sl w => Sys2Proof.Machine.execVbin c sl w s
  | .vun c sl w => Sys2Proof.Machine.execVun c sl w s
  | .vfma c sl w => Sys2Proof.Machine.execVfma c sl w s
  | .vcvt c sl w => Sys2Proof.Machine.execVcvt c sl w s
  | .vfree c sl w => Sys2Proof.Machine.execVfree c sl w s
  | .red c sl w => Sys2Proof.Machine.execRed c sl w s
  | .topk c sl w => Sys2Proof.Machine.execTopk c sl w s
  | .smx1 c sl w => Sys2Proof.Machine.execSmx1 c sl w s
  | .smx2 c sl w => Sys2Proof.Machine.execSmx2 c sl w s
  | .sfn c sl w => Sys2Proof.Machine.execSfn c sl w s
  | .tload c sl w => Sys2Proof.Machine.execTload c sl w s
  | .tswap c sl w => Sys2Proof.Machine.execTswap c sl w s
  | .qnt c sl w => Sys2Proof.Machine.execQnt c sl w s
  | .dequant c sl w => Sys2Proof.Machine.execDequant c sl w s
  | .attach c sl w => Sys2Proof.Machine.execAttach c sl w s
  | .detach c sl w => Sys2Proof.Machine.execDetach c sl w s
  | .recordMax c sl w => Sys2Proof.Machine.execRecordMax c sl w s
  | .qmaxClear c sl w => Sys2Proof.Machine.execQmaxClear c sl w s
  | .oside c sl w => Sys2Proof.Machine.execOside c sl w s
  | .att c sl w => Sys2Proof.Machine.execAtt c sl w s
  | .poolCreate c sl w => Sys2Proof.Machine.execPoolCreate c sl w s
  | .join c sl w => Sys2Proof.Machine.execJoin c sl w s
  | .leave c sl w => Sys2Proof.Machine.execLeave c sl w s
  | .kvappStep c sl w => Sys2Proof.Machine.execKvappStep c sl w s
  | .spillComplete l pool page => Sys2Proof.Machine.execSpillComplete l pool page s
  | .fetchComplete l pool page => Sys2Proof.Machine.execFetchComplete l pool page s
  | .append c sl w => Sys2Proof.Machine.execAppend c sl w s
  | .fork c sl w => Sys2Proof.Machine.execFork c sl w s
  | .pinBlocks c sl w => Sys2Proof.Machine.execPinBlocks c sl w s
  | .unpinBlocks c sl w => Sys2Proof.Machine.execUnpinBlocks c sl w s
  | .grow c sl w => Sys2Proof.Machine.execGrow c sl w s
  | .close c sl w => Sys2Proof.Machine.execClose c sl w s
  | .lookup c sl w => Sys2Proof.Machine.execLookup c sl w s
  | .publish c sl w => Sys2Proof.Machine.execPublish c sl w s
  | .pfxFlush c sl w => Sys2Proof.Machine.execPfxFlush c sl w s
  | .cmul c sl w => Sys2Proof.Machine.execCmul c sl w s
  | .cinv c sl w => Sys2Proof.Machine.execCinv c sl w s
  | .llrpk c sl w => Sys2Proof.Machine.execLlrpk c sl w s
  | .brk c sl w => Sys2Proof.Machine.execBrk c sl w s
  | .commandCompletion c p sl ix => Sys2Proof.Machine.execCommandCompletion c p sl ix s
  | .cringHeadWrite who c sl v => Sys2Proof.Machine.execCringHeadWrite who c sl v s
  | .sliceEnd c eng vec busy => Sys2Proof.Machine.execSliceEnd c eng vec busy s
  | .round c => Sys2Proof.Machine.execRound c s
  | .switchLdg c eng vec busy => Sys2Proof.Machine.execSwitchLdg c eng vec busy s
  | .refill l => Sys2Proof.Machine.execRefill l s
  | .tierRefresh ch => Sys2Proof.Machine.execTierRefresh ch s
  | .tierScrub a ce => Sys2Proof.Machine.execTierScrub a ce s
  | .sramScrub a ce last => Sys2Proof.Machine.execSramScrub a ce last s
  | .fhUplaneRx p bad frame ty eaxc seq sfn slot k prb0 meth width data => Sys2Proof.Machine.execFhUplaneRx p bad frame ty eaxc seq sfn slot k prb0 meth width data s
  | .arrMaxExpiry a sfn slot k => Sys2Proof.Machine.execArrMaxExpiry a sfn slot k s
  | .slotOrder l => Sys2Proof.Machine.execSlotOrder l s
  | .uplinkStageEnd a sfn slot k sym res foff sroff => Sys2Proof.Machine.execUplinkStageEnd a sfn slot k sym res foff sroff s
  | .downlinkStageEnd a sfn slot d2 k => Sys2Proof.Machine.execDownlinkStageEnd a sfn slot d2 k s
  | .cplaneSend a ul sfn slot => Sys2Proof.Machine.execCplaneSend a ul sfn slot s
  | .dlSymbolSend a sfn slot => Sys2Proof.Machine.execDlSymbolSend a sfn slot s
  | .deadline a sfn slot => Sys2Proof.Machine.execDeadline a sfn slot s
  | .reacq who a => Sys2Proof.Machine.execReacq who a s
  | .tblLoad who slot => Sys2Proof.Machine.execTblLoad who slot s
  | .tblLoadDone => Sys2Proof.Machine.execTblLoadDone s
  | .codeBlockDecode p => Sys2Proof.Machine.execCodeBlockDecode p s
  | .codeBlockDone p => Sys2Proof.Machine.execCodeBlockDone p s
  | .codeBlockEncode e => Sys2Proof.Machine.execCodeBlockEncode e s
  | .crcCmd who n poly len => Sys2Proof.Machine.execCrcCmd who n poly len s
  | .crcDone n => Sys2Proof.Machine.execCrcDone n s
  | .ibcNop n w mv => Sys2Proof.Machine.execIbcNop n w mv s
  | .ftap n w mv => Sys2Proof.Machine.execFtap n w mv s
  | .macIns n w mv => Sys2Proof.Machine.execMacIns n w mv s
  | .cmac n w mv => Sys2Proof.Machine.execCmac n w mv s
  | .alu n w mv => Sys2Proof.Machine.execAlu n w mv s
  | .alui n w mv => Sys2Proof.Machine.execAlui n w mv s
  | .ldi n w mv => Sys2Proof.Machine.execLdi n w mv s
  | .acop n w mv => Sys2Proof.Machine.execAcop n w mv s
  | .mv n w mv => Sys2Proof.Machine.execMv n w mv s
  | .ldst n w mv => Sys2Proof.Machine.execLdst n w mv s
  | .loopIns n w mv => Sys2Proof.Machine.execLoopIns n w mv s
  | .repIns n w mv => Sys2Proof.Machine.execRepIns n w mv s
  | .br n w mv => Sys2Proof.Machine.execBr n w mv s
  | .call n w mv => Sys2Proof.Machine.execCall n w mv s
  | .retIns n w mv => Sys2Proof.Machine.execRetIns n w mv s
  | .reti n w mv => Sys2Proof.Machine.execReti n w mv s
  | .ei n w mv => Sys2Proof.Machine.execEi n w mv s
  | .di n w mv => Sys2Proof.Machine.execDi n w mv s
  | .idleIbc n w mv => Sys2Proof.Machine.execIdleIbc n w mv s
  | .stopIbc n w mv => Sys2Proof.Machine.execStopIbc n w mv s
  | .trapIbc n w mv => Sys2Proof.Machine.execTrapIbc n w mv s
  | .ibcBrk n w mv => Sys2Proof.Machine.execIbcBrk n w mv s
  | .blkend n w mv => Sys2Proof.Machine.execBlkend n w mv s
  | .blkclr n w mv => Sys2Proof.Machine.execBlkclr n w mv s
  | .chkpt n w mv => Sys2Proof.Machine.execChkpt n w mv s
  | .sig n w mv => Sys2Proof.Machine.execSig n w mv s
  | .waits n w mv => Sys2Proof.Machine.execWaits n w mv s
  | .waitsSatisfied n => Sys2Proof.Machine.execWaitsSatisfied n s
  | .syncArm n w mv => Sys2Proof.Machine.execSyncArm n w mv s
  | .xfer n w mv => Sys2Proof.Machine.execXfer n w mv s
  | .xferDone n => Sys2Proof.Machine.execXferDone n s
  | .creg n w mv => Sys2Proof.Machine.execCreg n w mv s
  | .cregReadLand n => Sys2Proof.Machine.execCregReadLand n s
  | .interruptIbc n => Sys2Proof.Machine.execInterruptIbc n s
  | .checkpoint n => Sys2Proof.Machine.execCheckpoint n s
  | .ibcRun who n => Sys2Proof.Machine.execIbcRun who n s
  | .ibcRunStop who n => Sys2Proof.Machine.execIbcRunStop who n s
  | .irqSet who n v => Sys2Proof.Machine.execIrqSet who n v s
  | .mbox who n v => Sys2Proof.Machine.execMbox who n v s
  | .stTail who st v => Sys2Proof.Machine.execStTail who st v s
  | .frameTake d => Sys2Proof.Machine.execFrameTake d s
  | .frameReady d => Sys2Proof.Machine.execFrameReady d s
  | .takeBatch who l q => Sys2Proof.Machine.execTakeBatch who l q s
  | .bqRelease who l q => Sys2Proof.Machine.execBqRelease who l q s
  | .waybill l => Sys2Proof.Machine.execWaybill l s
  | .dispatch l => Sys2Proof.Machine.execDispatch l s
  | .waybillEnd l => Sys2Proof.Machine.execWaybillEnd l s
  | .limitExpiry l => Sys2Proof.Machine.execLimitExpiry l s
  | .cancel who l => Sys2Proof.Machine.execCancel who l s
  | .ldgReset who l => Sys2Proof.Machine.execLdgReset who l s
  | .beginStg who => Sys2Proof.Machine.execBeginStg who s
  | .checkStg who => Sys2Proof.Machine.execCheckStg who s
  | .commitStg who => Sys2Proof.Machine.execCommitStg who s
  | .commitInstant => Sys2Proof.Machine.execCommitInstant s
  | .abandonStg who => Sys2Proof.Machine.execAbandonStg who s
  | .autoAbandon => Sys2Proof.Machine.execAutoAbandon s
  | .resourceRelease ix => Sys2Proof.Machine.execResourceRelease ix s
  | .yieldLimitExpiry l => Sys2Proof.Machine.execYieldLimitExpiry l s
  | .nowFracRead who t => Sys2Proof.Machine.execNowFracRead who t s
  | .incrLoWrite who t v => Sys2Proof.Machine.execIncrLoWrite who t v s
  | .incrHiWrite who t v => Sys2Proof.Machine.execIncrHiWrite who t v s
  | .adjust who t => Sys2Proof.Machine.execAdjust who t s
  | .setTb who t => Sys2Proof.Machine.execSetTb who t s
  | .armOvr who t => Sys2Proof.Machine.execArmOvr who t s
  | .overrideExpiry t => Sys2Proof.Machine.execOverrideExpiry t s
  | .slewComplete t => Sys2Proof.Machine.execSlewComplete t s
  | .cmpArm who k => Sys2Proof.Machine.execCmpArm who k s
  | .cmpDisarm who k => Sys2Proof.Machine.execCmpDisarm who k s
  | .cmpFire k => Sys2Proof.Machine.execCmpFire k s
  | .trigPulseEnd k => Sys2Proof.Machine.execTrigPulseEnd k s
  | .captEdge ix fall => Sys2Proof.Machine.execCaptEdge ix fall s
  | .popCapt who ix => Sys2Proof.Machine.execPopCapt who ix s
  | .xcap who => Sys2Proof.Machine.execXcap who s
  | .ptpRx p frame => Sys2Proof.Machine.execPtpRx p frame s
  | .ptpTx p => Sys2Proof.Machine.execPtpTx p s
  | .blockLockLoss p => Sys2Proof.Machine.execBlockLockLoss p s
  | .blockLockReturn p => Sys2Proof.Machine.execBlockLockReturn p s
  | .syncSignal who o n => Sys2Proof.Machine.execSyncSignal who o n s
  | .syncClear who o => Sys2Proof.Machine.execSyncClear who o s
  | .syncArmedWrite who o v => Sys2Proof.Machine.execSyncArmedWrite who o v s
  | .recover u mech r => Sys2Proof.Machine.execRecover u mech r s
  | .watchdog u r => Sys2Proof.Machine.execWatchdog u r s
  | .marginCheck margin u => Sys2Proof.Machine.execMarginCheck margin u s
  | .lockstepMismatch v => Sys2Proof.Machine.execLockstepMismatch v s
  | .fwupd who t sig digest => Sys2Proof.Machine.execFwupd who t sig digest s
  | .fwupdPhaseEnd ok => Sys2Proof.Machine.execFwupdPhaseEnd ok s
  | .wearRecordWrite out => Sys2Proof.Machine.execWearRecordWrite out s
  | .snapshot => Sys2Proof.Machine.execSnapshot s
  | .cntLoRead who b ix => Sys2Proof.Machine.execCntLoRead who b ix s
  | .cntHiWrite who b ix v => Sys2Proof.Machine.execCntHiWrite who b ix v s
  | .attest who => Sys2Proof.Machine.execAttest who s
  | .idCert who => Sys2Proof.Machine.execIdCert who s
  | .sessionOpen who => Sys2Proof.Machine.execSessionOpen who s
  | .sessionClose who => Sys2Proof.Machine.execSessionClose who s
  | .rotate who => Sys2Proof.Machine.execRotate who s
  | .dbgChallenge who => Sys2Proof.Machine.execDbgChallenge who s
  | .dbgResponse who => Sys2Proof.Machine.execDbgResponse who s
  | .dbgRevoke who => Sys2Proof.Machine.execDbgRevoke who s
  | .lcReq who => Sys2Proof.Machine.execLcReq who s
  | .sweep => Sys2Proof.Machine.execSweep s
  | .resetN straps => Sys2Proof.Machine.execResetN straps s
  | .startUp x => Sys2Proof.Machine.execStartUp x s
  | .tierTrained ok => Sys2Proof.Machine.execTierTrained ok s
  | .supplyFault => Sys2Proof.Machine.execSupplyFault s
  | .refclkLoss => Sys2Proof.Machine.execRefclkLoss s
  | .refclkReturn => Sys2Proof.Machine.execRefclkReturn s
  | .restart who => Sys2Proof.Machine.execRestart who s
  | .confirm who => Sys2Proof.Machine.execConfirm who s
  | .stbyEnter who => Sys2Proof.Machine.execStbyEnter who s
  | .stbyExit who reg => Sys2Proof.Machine.execStbyExit who reg s
  | .vsetUpdate vout iout confirmed => Sys2Proof.Machine.execVsetUpdate vout iout confirmed s
  | .pmbAlert ok => Sys2Proof.Machine.execPmbAlert ok s
  | .sensorRead t => Sys2Proof.Machine.execSensorRead t s
  | .throttleUpdate => Sys2Proof.Machine.execThrottleUpdate s
  | .domReqWrite who k v => Sys2Proof.Machine.execDomReqWrite who k v s
  | .domainSwitched d => Sys2Proof.Machine.execDomainSwitched d s
  | .flr fn => Sys2Proof.Machine.execFlr fn s
  | .sqCfgWrite who r v => Sys2Proof.Machine.execSqCfgWrite who r v s
  | .sqTailWrite who l v => Sys2Proof.Machine.execSqTailWrite who l v s
  | .slotOrderEntry l => Sys2Proof.Machine.execSlotOrderEntry l s
  | .h2d l => Sys2Proof.Machine.execH2d l s
  | .d2h l => Sys2Proof.Machine.execD2h l s
  | .sqNop l => Sys2Proof.Machine.execSqNop l s
  | .copyComplete l hs units => Sys2Proof.Machine.execCopyComplete l hs units s
  | .bounceRecord l => Sys2Proof.Machine.execBounceRecord l s
  | .cqHeadWrite who l v => Sys2Proof.Machine.execCqHeadWrite who l v s
  | .completionWrite l => Sys2Proof.Machine.execCompletionWrite l s
  | .msixModeration l => Sys2Proof.Machine.execMsixModeration l s
  | .ptxTailWrite who p v => Sys2Proof.Machine.execPtxTailWrite who p v s
  | .linkTrain k ppm lanesOk certs mfg digest peerS => Sys2Proof.Machine.execLinkTrain k ppm lanesOk certs mfg digest peerS s
  | .linkTrainRetry k => Sys2Proof.Machine.execLinkTrainRetry k s
  | .retrain who k => Sys2Proof.Machine.execRetrain who k s
  | .dataFlitRx k ok seq ack idle lane => Sys2Proof.Machine.execDataFlitRx k ok seq ack idle lane s
  | .controlFlitRx k ok ack nak c0 c1 => Sys2Proof.Machine.execControlFlitRx k ok ack nak c0 c1 s
  | .ackTimeout k => Sys2Proof.Machine.execAckTimeout k s
  | .linkRecordRx k tag seq kind last src dst reg status op addr data => Sys2Proof.Machine.execLinkRecordRx k tag seq kind last src dst reg status op addr data s
  | .linkOpTimeout k op => Sys2Proof.Machine.execLinkOpTimeout k op s
  | .ident pec => Sys2Proof.Machine.execIdent pec s
  | .telemetry pec => Sys2Proof.Machine.execTelemetry pec s
  | .regRead pec off => Sys2Proof.Machine.execRegRead pec off s
  | .regWrite pec off v => Sys2Proof.Machine.execRegWrite pec off v s
  | .flashRead pec off n => Sys2Proof.Machine.execFlashRead pec off n s
  | .flashProgram pec off data => Sys2Proof.Machine.execFlashProgram pec off data s
  | .flashErase pec off => Sys2Proof.Machine.execFlashErase pec off s
  | .flashOpDone ok => Sys2Proof.Machine.execFlashOpDone ok s
  | .flashStatus pec => Sys2Proof.Machine.execFlashStatus pec s
  | .wake pec => Sys2Proof.Machine.execWake pec s
  | .tapReset => Sys2Proof.Machine.execTapReset s
  | .extest bits => Sys2Proof.Machine.execExtest bits s
  | .samplePreload bits => Sys2Proof.Machine.execSamplePreload bits s
  | .idcode => Sys2Proof.Machine.execIdcode s
  | .clamp => Sys2Proof.Machine.execClamp s
  | .highz => Sys2Proof.Machine.execHighz s
  | .bypass => Sys2Proof.Machine.execBypass s
  | .dbgaccRead a => Sys2Proof.Machine.execDbgaccRead a s
  | .dbgaccWrite a v => Sys2Proof.Machine.execDbgaccWrite a v s
  | .dbgaccReadNext => Sys2Proof.Machine.execDbgaccReadNext s
  | .ibcHalt n => Sys2Proof.Machine.execIbcHalt n s
  | .breakpoint n => Sys2Proof.Machine.execBreakpoint n s
  | .watchpoint n => Sys2Proof.Machine.execWatchpoint n s
  | .ibcStep n => Sys2Proof.Machine.execIbcStep n s
  | .ibcResume n => Sys2Proof.Machine.execIbcResume n s
  | .tcHalt c sl => Sys2Proof.Machine.execTcHalt c sl s
  | .tcStep c sl => Sys2Proof.Machine.execTcStep c sl s
  | .tcResume c sl => Sys2Proof.Machine.execTcResume c sl s
  | .resetNLow => Sys2Proof.Machine.execResetNLow s
  | .cntLoWrite who b ix v => Sys2Proof.Machine.execCntLoWrite who b ix v s
  | .vreqWrite who v => Sys2Proof.Machine.execVreqWrite who v s
  | .cycleCounterWrap b ix => Sys2Proof.Machine.execCycleCounterWrap b ix s
  | .alertResponse => Sys2Proof.Machine.execAlertResponse s
  | .configurationRequest => Sys2Proof.Machine.execConfigurationRequest s
  | .controlProcessorHalt porter => Sys2Proof.Machine.execControlProcessorHalt porter s
  | .controlProcessorStep porter => Sys2Proof.Machine.execControlProcessorStep porter s

end Sys2Proof.Machine
end

