-- ==== Sys2Proof/WellFormed.lean ====
section
/-! DEFINITION. Which commands are well formed: a row that carries a command word carries a word with the opcode, and the function,
of that row (R93, R340); values from outside lie in the ranges of the fields they come in. -/
namespace Sys2Proof

/-- Opcode of a tensor-core command word, and its FUNC field (R89, R93, R175). -/
def CmdWord.op (w : CmdWord) : Nat := w.toNat / 2 ^ 120
def CmdWord.func (w : CmdWord) : Nat := w.toNat / 2 ^ 78 % 32

/-- The opcodes that R93 assigns. -/
def CmdWord.assigned : List Nat :=
  [0x00, 0x01, 0x02, 0x03, 0x04, 0x05, 0x06, 0x10, 0x14, 0x18, 0x19, 0x20, 0x21, 0x22, 0x23, 0x30, 0x31, 0x32, 0x33, 0x34, 0x35,
    0x36, 0x40, 0x41, 0x42, 0x43, 0x50, 0x51, 0x52, 0x60, 0x61, 0x62, 0x63, 0x70, 0x71, 0x72, 0x80, 0x81, 0x82, 0xF0]

/-- Opcode of an Iambel instruction word, FN of CTL, FN of BLK and SYNC (R340, R351, R356, R359). -/
def Word.ibOp (w : Word) : Nat := w.toNat / 2 ^ 26 % 32
def Word.ibCtl (w : Word) : Nat := w.toNat / 2 ^ 22 % 16
def Word.ibFn (w : Word) : Nat := w.toNat / 2 ^ 24 % 4

/-- A well-formed command. -/
def Instr.wf (i : Instr) : Bool :=
  match i with
  | .registerWrite _ off _ _ => off.toNat % 4 == 0
  | .nop _ _ w => CmdWord.op w == 0x00 || !CmdWord.assigned.contains (CmdWord.op w)
  | .wait _ _ w => CmdWord.op w == 0x01
  | .waitSatisfied _ _ _ => true
  | .signal _ _ w => CmdWord.op w == 0x02
  | .arm _ _ w => CmdWord.op w == 0x03
  | .fence _ _ w => CmdWord.op w == 0x04
  | .endStream _ _ w => CmdWord.op w == 0x05
  | .mark _ _ w => CmdWord.op w == 0x06
  | .mov _ _ w => CmdWord.op w == 0x10
  | .moveStart _ _ _ => true
  | .rot _ _ w => CmdWord.op w == 0x14
  | .pagePut _ _ w => CmdWord.op w == 0x18
  | .pageGet _ _ w => CmdWord.op w == 0x19
  | .pass _ _ w => CmdWord.op w == 0x20
  | .tile _ _ w => CmdWord.op w == 0x21
  | .lds _ _ w => CmdWord.op w == 0x22
  | .drain _ _ w => CmdWord.op w == 0x23
  | .drainBufferFreed _ _ _ _ => true
  | .vld _ _ w => CmdWord.op w == 0x30
  | .vst _ _ w => CmdWord.op w == 0x31
  | .vbin _ _ w => CmdWord.op w == 0x32
  | .vun _ _ w => CmdWord.op w == 0x33
  | .vfma _ _ w => CmdWord.op w == 0x34
  | .vcvt _ _ w => CmdWord.op w == 0x35
  | .vfree _ _ w => CmdWord.op w == 0x36
  | .red _ _ w => CmdWord.op w == 0x40
  | .topk _ _ w => CmdWord.op w == 0x41
  | .smx1 _ _ w => CmdWord.op w == 0x42
  | .smx2 _ _ w => CmdWord.op w == 0x43
  | .sfn _ _ w => CmdWord.op w == 0x50
  | .tload _ _ w => CmdWord.op w == 0x51
  | .tswap _ _ w => CmdWord.op w == 0x52
  | .qnt _ _ w => CmdWord.op w == 0x60
  | .dequant _ _ w => CmdWord.op w == 0x61 && CmdWord.func w != 1 && CmdWord.func w != 2
  | .attach _ _ w => CmdWord.op w == 0x61 && CmdWord.func w == 1
  | .detach _ _ w => CmdWord.op w == 0x61 && CmdWord.func w == 2
  | .recordMax _ _ w => CmdWord.op w == 0x62 && CmdWord.func w != 1
  | .qmaxClear _ _ w => CmdWord.op w == 0x62 && CmdWord.func w == 1
  | .oside _ _ w => CmdWord.op w == 0x63
  | .att _ _ w => CmdWord.op w == 0x70
  | .poolCreate _ _ w => CmdWord.op w == 0x71 && (CmdWord.func w == 0 || decide (9 < CmdWord.func w))
  | .join _ _ w => CmdWord.op w == 0x71 && CmdWord.func w == 1
  | .leave _ _ w => CmdWord.op w == 0x71 && CmdWord.func w == 2
  | .kvappStep _ _ w => CmdWord.op w == 0x71 && CmdWord.func w == 3
  | .spillComplete _ _ _ => true
  | .fetchComplete _ _ _ => true
  | .append _ _ w => CmdWord.op w == 0x71 && CmdWord.func w == 4
  | .fork _ _ w => CmdWord.op w == 0x71 && CmdWord.func w == 5
  | .pinBlocks _ _ w => CmdWord.op w == 0x71 && CmdWord.func w == 6
  | .unpinBlocks _ _ w => CmdWord.op w == 0x71 && CmdWord.func w == 7
  | .grow _ _ w => CmdWord.op w == 0x71 && CmdWord.func w == 8
  | .close _ _ w => CmdWord.op w == 0x71 && CmdWord.func w == 9
  | .lookup _ _ w => CmdWord.op w == 0x72 && CmdWord.func w != 1 && CmdWord.func w != 2
  | .publish _ _ w => CmdWord.op w == 0x72 && CmdWord.func w == 1
  | .pfxFlush _ _ w => CmdWord.op w == 0x72 && CmdWord.func w == 2
  | .cmul _ _ w => CmdWord.op w == 0x80
  | .cinv _ _ w => CmdWord.op w == 0x81
  | .llrpk _ _ w => CmdWord.op w == 0x82
  | .brk _ _ w => CmdWord.op w == 0xF0
  | .commandCompletion _ _ _ _ => true
  | .cringHeadWrite _ _ _ _ => true
  | .sliceEnd _ _ _ _ => true
  | .round _ => true
  | .switchLdg _ _ _ _ => true
  | .refill _ => true
  | .tierRefresh _ => true
  | .tierScrub _ _ => true
  | .sramScrub _ _ _ => true
  | .fhUplaneRx _ _ _ ty eaxc seq _ _ _ prb0 meth width _ => decide (ty < 256) && decide (eaxc < 65536) && decide (seq < 65536) && decide (prb0 < 1024) && decide (meth < 16) && decide (width < 16)
  | .arrMaxExpiry _ _ _ _ => true
  | .slotOrder _ => true
  | .uplinkStageEnd _ _ _ _ _ _ _ _ => true
  | .downlinkStageEnd _ _ _ _ _ => true
  | .cplaneSend _ _ _ _ => true
  | .dlSymbolSend _ _ _ => true
  | .deadline _ _ _ => true
  | .reacq _ _ => true
  | .tblLoad _ _ => true
  | .tblLoadDone => true
  | .codeBlockDecode _ => true
  | .codeBlockDone _ => true
  | .codeBlockEncode _ => true
  | .crcCmd _ _ _ _ => true
  | .crcDone _ => true
  | .ibcNop _ w _ => Word.ibOp w == 0 || decide (0x12 < Word.ibOp w)
  | .ftap _ w _ => Word.ibOp w == 0x01
  | .macIns _ w _ => Word.ibOp w == 0x02
  | .cmac _ w _ => Word.ibOp w == 0x03
  | .alu _ w _ => Word.ibOp w == 0x04
  | .alui _ w _ => Word.ibOp w == 0x05
  | .ldi _ w _ => Word.ibOp w == 0x06
  | .acop _ w _ => Word.ibOp w == 0x07
  | .mv _ w _ => Word.ibOp w == 0x08
  | .ldst _ w _ => Word.ibOp w == 0x09
  | .loopIns _ w _ => Word.ibOp w == 0x0A
  | .repIns _ w _ => Word.ibOp w == 0x0B
  | .br _ w _ => Word.ibOp w == 0x0C
  | .call _ w _ => Word.ibOp w == 0x0D
  | .retIns _ w _ => Word.ibOp w == 0x0E && Word.ibCtl w == 0
  | .reti _ w _ => Word.ibOp w == 0x0E && Word.ibCtl w == 1
  | .ei _ w _ => Word.ibOp w == 0x0E && Word.ibCtl w == 2
  | .di _ w _ => Word.ibOp w == 0x0E && Word.ibCtl w == 3
  | .idleIbc _ w _ => Word.ibOp w == 0x0E && Word.ibCtl w == 4
  | .stopIbc _ w _ => Word.ibOp w == 0x0E && Word.ibCtl w == 5
  | .trapIbc _ w _ => Word.ibOp w == 0x0E && (Word.ibCtl w == 6 || decide (7 < Word.ibCtl w))
  | .ibcBrk _ w _ => Word.ibOp w == 0x0E && Word.ibCtl w == 7
  | .blkend _ w _ => Word.ibOp w == 0x0F && Word.ibFn w == 0
  | .blkclr _ w _ => Word.ibOp w == 0x0F && Word.ibFn w == 1
  | .chkpt _ w _ => Word.ibOp w == 0x0F && decide (1 < Word.ibFn w)
  | .sig _ w _ => Word.ibOp w == 0x10 && (Word.ibFn w == 0 || Word.ibFn w == 3)
  | .waits _ w _ => Word.ibOp w == 0x10 && Word.ibFn w == 1
  | .waitsSatisfied _ => true
  | .syncArm _ w _ => Word.ibOp w == 0x10 && Word.ibFn w == 2
  | .xfer _ w _ => Word.ibOp w == 0x11
  | .xferDone _ => true
  | .creg _ w _ => Word.ibOp w == 0x12
  | .cregReadLand _ => true
  | .interruptIbc _ => true
  | .checkpoint _ => true
  | .ibcRun _ _ => true
  | .ibcRunStop _ _ => true
  | .irqSet _ _ _ => true
  | .mbox _ _ _ => true
  | .stTail _ _ _ => true
  | .frameTake _ => true
  | .frameReady _ => true
  | .takeBatch _ _ _ => true
  | .bqRelease _ _ _ => true
  | .waybill _ => true
  | .dispatch _ => true
  | .waybillEnd _ => true
  | .limitExpiry _ => true
  | .cancel _ _ => true
  | .ldgReset _ _ => true
  | .beginStg _ => true
  | .checkStg _ => true
  | .commitStg _ => true
  | .commitInstant => true
  | .abandonStg _ => true
  | .autoAbandon => true
  | .resourceRelease _ => true
  | .yieldLimitExpiry _ => true
  | .nowFracRead _ _ => true
  | .incrLoWrite _ _ _ => true
  | .incrHiWrite _ _ _ => true
  | .adjust _ _ => true
  | .setTb _ _ => true
  | .armOvr _ _ => true
  | .overrideExpiry _ => true
  | .slewComplete _ => true
  | .cmpArm _ _ => true
  | .cmpDisarm _ _ => true
  | .cmpFire _ => true
  | .trigPulseEnd _ => true
  | .captEdge _ _ => true
  | .popCapt _ _ => true
  | .xcap _ => true
  | .ptpRx _ _ => true
  | .ptpTx _ => true
  | .blockLockLoss _ => true
  | .blockLockReturn _ => true
  | .syncSignal _ _ _ => true
  | .syncClear _ _ => true
  | .syncArmedWrite _ _ _ => true
  | .recover _ _ _ => true
  | .watchdog _ _ => true
  | .marginCheck _ _ => true
  | .lockstepMismatch _ => true
  | .fwupd _ _ _ _ => true
  | .fwupdPhaseEnd _ => true
  | .wearRecordWrite _ => true
  | .snapshot => true
  | .cntLoRead _ _ _ => true
  | .cntHiWrite _ _ _ _ => true
  | .attest _ => true
  | .idCert _ => true
  | .sessionOpen _ => true
  | .sessionClose _ => true
  | .rotate _ => true
  | .dbgChallenge _ => true
  | .dbgResponse _ => true
  | .dbgRevoke _ => true
  | .lcReq _ => true
  | .sweep => true
  | .resetN _ => true
  | .startUp x => decide (x.width < 64) && decide (x.speed < 16) && decide (x.vout < 65536)
  | .tierTrained _ => true
  | .supplyFault => true
  | .refclkLoss => true
  | .refclkReturn => true
  | .restart _ => true
  | .confirm _ => true
  | .stbyEnter _ => true
  | .stbyExit _ _ => true
  | .vsetUpdate vout iout _ => decide (vout < 65536) && decide (iout < 65536)
  | .pmbAlert _ => true
  | .sensorRead t => t.length == 32
  | .throttleUpdate => true
  | .domReqWrite _ _ _ => true
  | .domainSwitched _ => true
  | .flr _ => true
  | .sqCfgWrite _ _ _ => true
  | .sqTailWrite _ _ _ => true
  | .slotOrderEntry _ => true
  | .h2d _ => true
  | .d2h _ => true
  | .sqNop _ => true
  | .copyComplete _ _ _ => true
  | .bounceRecord _ => true
  | .cqHeadWrite _ _ _ => true
  | .completionWrite _ => true
  | .msixModeration _ => true
  | .ptxTailWrite _ _ _ => true
  | .linkTrain _ _ _ _ _ digest peerS => decide (digest < 2 ^ 384) && decide (peerS < 2 ^ 64)
  | .linkTrainRetry _ => true
  | .retrain _ _ => true
  | .dataFlitRx _ _ _ _ _ _ => true
  | .controlFlitRx _ _ _ _ c0 c1 => decide (c0 < 2 ^ 16) && decide (c1 < 2 ^ 16)
  | .ackTimeout _ => true
  | .linkRecordRx _ _ seq _ _ _ _ _ _ _ _ data => decide (seq < 2 ^ 64) && decide (data.length ≤ 4096)
  | .linkOpTimeout _ _ => true
  | .ident _ => true
  | .telemetry _ => true
  | .regRead _ _ => true
  | .regWrite _ _ _ => true
  | .flashRead _ _ _ => true
  | .flashProgram _ _ _ => true
  | .flashErase _ _ => true
  | .flashOpDone _ => true
  | .flashStatus _ => true
  | .wake _ => true
  | .tapReset => true
  | .extest _ => true
  | .samplePreload _ => true
  | .idcode => true
  | .clamp => true
  | .highz => true
  | .bypass => true
  | .dbgaccRead a => a.toNat % 4 == 0
  | .dbgaccWrite a _ => a.toNat % 4 == 0
  | .dbgaccReadNext => true
  | .ibcHalt _ => true
  | .breakpoint _ => true
  | .watchpoint _ => true
  | .ibcStep _ => true
  | .ibcResume _ => true
  | .tcHalt _ _ => true
  | .tcStep _ _ => true
  | .tcResume _ _ => true
  | .resetNLow => true
  | .cntLoWrite _ _ _ _ => true
  | .vreqWrite _ _ => true
  | .cycleCounterWrap _ _ => true
  | .alertResponse => true
  | .configurationRequest => true
  | .controlProcessorHalt _ => true
  | .controlProcessorStep _ => true

end Sys2Proof
end

