-- ==== Sys2Proof/Safety.lean ====
section
/-! DEFINITION. What a safe state and a safe run are, in the terms the claims use: the tables of the state keep their canonical
form, and a command ends in a next state. -/
namespace Sys2Proof.Machine
open Sys2Proof

/-- Device memory is in its canonical form (R193). -/
abbrev Memory.wf (m : Tbl Byte) : Bool := twf memInit m

/-- The register file, device memory, host memory, flash, poison map and tags are in canonical form: a key is listed once, in
rising order, with a value other than what it reads as unlisted. -/
structure State.Canon (s : State) : Prop where
  regs : twf RegMap.reset s.regs = true
  mem : Memory.wf s.mem = true
  host : Memory.wf s.host = true
  flash : twf flashInit s.flash = true
  poison : twf (fun _ => false) s.poison = true
  tags : twf (fun _ => 0) s.tags = true

/-- A later state keeps what every command keeps: the queue is as it was (exec has no part in it), and tables in canonical form stay
so. -/
structure State.Kept (s t : State) : Prop where
  pending : t.pending = s.pending
  canon : s.Canon → t.Canon

/-- Flag registers of the blocks (R50, R129, R170, R190, R222, R295, R299, R325, R373, R394, R427, R433, R460, R465, R482, R509,
R541, R574, R593, R604, R641) and, 4 above each, its companion count (R15). -/
def isFlagReg (a : Nat) : Bool :=
  let o := a % 0x10000
  let b := blockOf a
  if 0x30 ≤ b then o == 0x40 || o == 0x44
  else if 0x10 ≤ b then [0x80, 0x84, 0xC0, 0xC4, 0x130, 0x134, 0x140, 0x144].contains o
  else if [1, 0xA, 0xC, 0xE].contains b then o == 0x40 || o == 0x44
  else o == 0 || o == 4

/-- Registers that record what happened and steer nothing: flags, their counts, and the event counters (R15, R494). -/
def noteReg (a : Nat) : Bool := isFlagReg a || (decide (0x3000 ≤ a % 0x10000) && decide (a % 0x10000 < 0x3088))

/-- Two states are the same but for flags, their counts, event counters and the interrupt messages that a flag sends (R14, R15,
R497, R583). A frame stated with it says: nothing else has changed. -/
structure State.Notes (s t : State) : Prop where
  rest : t = { s with regs := t.regs, msgs := t.msgs }
  regs : ∀ a, noteReg a = false → t.rr a = s.rr a

/-- Two states agree on every register below the Iambel cores' blocks but flags and counters, on both memories and on the cycle:
what a signal's waiters, a move or an Iambel core, do not reach at once (R111, R362). -/
structure State.SameLow (s t : State) : Prop where
  regs : ∀ a, noteReg a = false → a < 0x300000 → t.rr a = s.rr a
  mem : t.mem = s.mem
  host : t.host = s.host
  cycle : t.cycle = s.cycle

/-- Nothing but registers differs. -/
def State.RegsOnly (s t : State) : Prop := t = { s with regs := t.regs }

/-- A command completes on s, and leaves u but for flags, counters and their messages. -/
def Yields (i : Instr) (s u : State) : Prop := ∃ t, exec i s = .next t ∧ u.Notes t

/-- A command completes on a state: it neither stops with a fault nor is refused. -/
def Completes (i : Instr) (s : State) : Prop := ∃ t, exec i s = .next t

end Sys2Proof.Machine
end

