-- ==== Sys2Proof/Certificates/Slice0/Obligations.lean ====
section
/-! DEFINITION. The statements for the provers: what the rules of spec/ say the commands and the block do. -/
open Sys2Proof Sys2Proof.Machine

/-- With a command c at the front of the queue, a step is exec of c on the state with the rest of the queue. The queue is the model's interface (first in, first out); no rule of the spec numbers it. -/
def Obligations.StepRunsFrontCommand : Prop :=
  ∀ (c : Instr) (rest : List Instr) (s : State), s.pending = c :: rest → step s = exec c { s with pending := rest }

/-- With an empty queue a step answers a next state (the model's choice, log 37): while the device is held in reset or REFCLK is lost nothing changes; else the CTL cycle count rises by one, the queue and the host memory stay, the device memory too while no page is in transfer and no page-manager function outlives its slot, and each of the four time bases makes its tick, so that a STOPPED one with no SET waiting keeps its time, and a RUNNING one without a slew or a new increment adds its increment (R434, R435). -/
def Obligations.EmptyQueueStepIsOneCtlCycle : Prop :=
  ∀ s : State, s.pending = [] → ∃ t, step s = .next t ∧ t.pending = [] ∧ t.host = s.host ∧
    (s.kvXfer = [] → s.kvRest = [] → t.mem = s.mem) ∧
    (s.alive = false → t = s) ∧
    (s.alive = true → t.cycle = s.cycle + 1 ∧
      (∀ n, n < 4 → t.tbOf n = (s.tbOf n).tick (s.slewOf n)) ∧
      (∀ n, n < 4 → (s.tbOf n).running = false → (s.tbOf n).start = none → t.tbOf n = s.tbOf n) ∧
      (∀ n, n < 4 → (s.tbOf n).running = true → (s.tbOf n).start = none → (s.tbOf n).next = none → (s.tbOf n).rem = 0 →
        t.now n = (s.now n + (s.tbOf n).incr) % tbWrap))

/-- State.reset: the queue is empty and the register file, device memory, host memory, flash, poison map and frame tags have the canonical form of their tables. -/
def Obligations.ResetIsCanonical : Prop :=
  State.reset.Canon ∧ State.reset.pending = []

/-- For every state in canonical form (register file, device memory, host memory, flash, poison map, tags: keys strictly rising, no entry at the value an unlisted key reads as) and whatever commands wait, the next state of a step is in canonical form. -/
def Obligations.StepKeepsCanon : Prop :=
  ∀ s t : State, s.Canon → step s = .next t → t.Canon

/-- Whatever the command and the state, when exec answers a next state its queue is the queue it was given. -/
def Obligations.ExecLeavesTheQueue : Prop :=
  ∀ (i : Instr) (s t : State), exec i s = .next t → t.pending = s.pending

/-- The block stops for no command: a command whose word is of its own row (WellFormed) completes on every state, with its effect, with a status, or with none where its occasion is not there. Nothing is refused and nothing faults. -/
def Obligations.WellFormedCommandsComplete : Prop :=
  ∀ (i : Instr) (s : State), i.wf = true → Completes i s

/-- The status of a request is OK exactly when none of its checks is broken; else it is a code of the list PERMISSION, FORMAT, BOUNDS, DIMENSION, JUMP_REFUSED, NOT_READY, STATE, BUSY whose check is broken while no check with an earlier code is broken. -/
def Obligations.RequestStatusOrder : Prop :=
  ∀ checks : List (Bool × Nat), (∀ c ∈ checks, c.2 ∈ St.order) →
    St.order = [St.permission, St.format, St.bounds, St.dimension, St.jumpRefused, St.notReady, St.state, St.busy] ∧
    (pick checks = St.ok ↔ ∀ c ∈ checks, c.1 = false) ∧
    ((∃ c ∈ checks, c.1 = true) → ∃ before after : List Nat, St.order = before ++ pick checks :: after ∧
      (true, pick checks) ∈ checks ∧ ∀ st ∈ before, (true, st) ∉ checks)

/-- A register of the blocks DLK, FH, AIR, LDPC, SMP and MEM (0x9 to 0xE) that no chapter gives a behaviour of its own: it is no
counter, no doorbell and no command register (R285, R309, R321, R375, R391, R525). -/
def plainUnitReg (a : Nat) : Prop :=
  9 ≤ blockOf a ∧ blockOf a < 0xF ∧ cntOf a = none ∧ ixOf a (Reg.DLK_CTL 0) 0x40 4 = none ∧ ixOf a (Reg.AIR_CAR_CTL 0) 0x40 8 = none ∧
    ixOf a (Reg.LDPC_CRC_CMD 0) 0x20 18 = none ∧ ixOf a (Reg.SMP_BQ_CTL 0) 0x20 16 = none ∧ ixOf a (Reg.SMP_ST_TAIL 0) 0x20 64 = none ∧
    a ≠ Reg.LDPC_TBL_CTL

/-- A REGISTER_WRITE by a requester that reaches the register (blocks 0x9 to 0xE, registers without a behaviour of their own), after the window of R20 has closed and with no staging open: a bit of an enabled byte in a W1C field is cleared by 1 and left by 0, one in an RW field takes the value; every other bit (RO, RWL, reserved, a byte not enabled) stays; no other register and nothing else of the state changes. -/
def Obligations.RegisterWriteByAccessType : Prop :=
  ∀ (who : Requester) (off : BitVec 24) (be : BitVec 4) (v : Word) (s : State), off.toNat % 4 = 0 →
    plainUnitReg off.toNat → s.reach who off.toNat true = true → s.stgSt = 0 → s.stg.closed = true →
    ∃ t, exec (.registerWrite who off be v) s = .next t ∧ s.RegsOnly t ∧
      (∀ b, b ≠ off.toNat → t.rr b = s.rr b) ∧
      ∀ i, i < 32 → (t.rr off.toNat).getLsbD i =
        if (byteMask be &&& accMask off.toNat .w1c).testBit i && v.getLsbD i then false
        else if (byteMask be &&& accMask off.toNat .rw).testBit i then v.getLsbD i
        else (s.rr off.toNat).getLsbD i

/-- The register that a register-write command writes, with its requester. -/
def writeOf (i : Instr) : Option (Requester × Nat) :=
  match i with
  | .cringHeadWrite who c sl _ => some (who, Reg.TC_SLOT_CRING c.val sl.idx)
  | .reacq who a => some (who, Reg.AIR_CAR_CTL a.val)
  | .tblLoad who _ => some (who, Reg.LDPC_TBL_CTL)
  | .crcCmd who n _ _ => some (who, Reg.LDPC_CRC_CMD n.val)
  | .xcap who => some (who, Reg.TB_XCAP)
  | .retrain who k => some (who, Reg.DLK_CTL k.val)
  | _ => none

/-- CRING_HEAD_WRITE, REACQ, TBL_LOAD, CRC_CMD, XCAP and RETRAIN from a requester that does not reach the register: the command completes, only flags, their counts and counters change, and a virtual function's refused access sets HIF.FLAG.VF_DENIED, the debug port's DBG.FLAG.ACC_ERR. -/
def Obligations.RefusedWriteOnlyFlags : Prop :=
  ∀ (i : Instr) (who : Requester) (off : Nat) (s : State), writeOf i = some (who, off) → s.reach who off true = false →
    ∃ t, exec i s = .next t ∧ s.Notes t ∧ (∀ l, who = .vf l → t.rbit Reg.HIF_FLAG 3 = true) ∧
      (who = .dbg → t.rbit Reg.DBG_FLAG 2 = true)

/-- The request a mailbox row writes to SEC.MB_CMD: its requester, and whether R540 lists that requester for the OP. -/
def mailOf (i : Instr) : Option (Requester × Bool) :=
  match i with
  | .attest who => some (who, mbAny who)
  | .idCert who => some (who, mbAny who)
  | .sessionOpen who => some (who, (mbLdg who).isSome)
  | .sessionClose who => some (who, (mbLdg who).isSome || isPf who)
  | .rotate who => some (who, (mbLdg who).isSome || isPf who)
  | .dbgChallenge who => some (who, isDbg who)
  | .dbgResponse who => some (who, isDbg who)
  | .dbgRevoke who => some (who, isDbg who || isPf who)
  | .lcReq who => some (who, isDbg who || isPf who)
  | _ => none

/-- A mailbox request of u ends in t: its status and the length of its answer stand in the requester's SEC.MB_STAT, its answer in
the requester's window, and nothing else but flags, counters and messages differs (R540, R542, R583). -/
def Answered (u t : State) (who : Requester) (st : Nat) (ans : List Byte) : Prop :=
  t = { u with
        regs := t.regs
        msgs := t.msgs
        mbData := t.mbData
        mbStat := t.mbStat } ∧ (∀ a, noteReg a = false → t.rr a = u.rr a) ∧
    tget (fun _ => 0) t.mbStat (reqIx who) = BitVec.ofNat 32 (st * 2 ^ 24 + ans.length) ∧
    ∀ (j : Nat) (b : Byte), ans[j]? = some b → t.mb who j = b

/-- The Porter takes a request of this requester: it reaches SEC.MB_CMD and the Porter is not busy with a halt or an update. -/
def porterTakes (s : State) (who : Requester) : Prop := s.reach who Reg.SEC_MB_CMD true = true ∧ s.porterBusy = false

/-- ATTEST of a bound lodging or of the device counts an attestation and answers a certificate of that scope over the nonce; a scope of another lodging, a nonce over 64 bytes, a scope number over 15 and an unbound lodging have their statuses in the order of R12. ID_CERT answers the certificate that byte 0 names, or BOUNDS. SESSION_OPEN with a valid point, a bound lodging and no session opens one. SESSION_CLOSE closes the session. ROTATE opens the next epoch: the count of CUR becomes that of OLD, CUR counts 0; OLD is live with its sweep, or retired at once when it counts no frame. While an OLD epoch is live a sweep step visits the next frame, and one tagged with it takes its owner's current tag. (Certificates and keys are free functions, log 36.) -/
def Obligations.AttestationsSessionsAndEpochs : Prop :=
  ∀ (who : Requester) (s : State) (l : Fin 16),
    (porterTakes s who → mbAny who = true →
      let scope := (s.mb who 0).toNat
      let n := (s.mb who 1).toNat
      let other : Prop := (∃ v, who = .vf v ∧ scope ≠ 0xFF ∧ scope ≠ v.val)
      (¬ other → n ≤ 64 → (scope = 0xFF ∨ (scope < 16 ∧ s.bound scope = true)) →
        let c := s.certify (if scope = 0xFF then none else some scope) (s.mbBytes who 16 n)
        c.1.attests = s.attests + 1 ∧ ∃ t, exec (.attest who) s = .next t ∧ Answered c.1 t who St.ok (c.2.take 4096)) ∧
      (other → ∃ t, exec (.attest who) s = .next t ∧ Answered s t who St.permission []) ∧
      (¬ other → (64 < n ∨ (scope ≠ 0xFF ∧ 16 ≤ scope)) → ∃ t, exec (.attest who) s = .next t ∧ Answered s t who St.bounds []) ∧
      (¬ other → n ≤ 64 → scope < 16 → s.bound scope = false →
        ∃ t, exec (.attest who) s = .next t ∧ Answered s t who St.notReady []) ∧
      (scope = 0 → ∃ t, exec (.idCert who) s = .next t ∧ Answered s t who St.ok (Config.deviceCert.take 4096)) ∧
      (scope = 1 → ∃ t, exec (.idCert who) s = .next t ∧ Answered s t who St.ok (Config.linkCert.take 4096)) ∧
      (1 < scope → ∃ t, exec (.idCert who) s = .next t ∧ Answered s t who St.bounds [])) ∧
    (porterTakes s (.vf l) →
      let q := s.mbBytes (.vf l) 0 97
      let used := tget (fun _ => 0) s.epochs l.val
      (Config.onCurve q = false → ∃ t, exec (.sessionOpen (.vf l)) s = .next t ∧ Answered s t (.vf l) St.format []) ∧
      (Config.onCurve q = true → s.bound l.val = true → (tget (fun _ => none) s.sess l.val).isSome = true →
        ∃ t, exec (.sessionOpen (.vf l)) s = .next t ∧ Answered s t (.vf l) St.busy []) ∧
      (Config.onCurve q = true → s.bound l.val = true → tget (fun _ => none) s.sess l.val = none →
        ∃ t, exec (.sessionOpen (.vf l)) s = .next t ∧ (tget (fun _ => none) t.sess l.val).isSome = true ∧
          t.gf (Reg.SEC_SESS l.val) Fld.SEC_SESS_OPEN = 1 ∧ t.attests = s.attests + 1 ∧ t.mem = s.mem ∧
          (tget (fun _ => 0) t.mbStat (1 + l.val)).toNat / 2 ^ 24 = St.ok) ∧
      (∃ t, exec (.sessionClose (.vf l)) s = .next t ∧ Answered (s.closeSess l.val) t (.vf l) St.ok [] ∧
        tget (fun _ => none) t.sess l.val = none ∧ t.rr (Reg.SEC_SESS l.val) = 0) ∧
      (s.bound l.val = false → ∃ t, exec (.rotate (.vf l)) s = .next t ∧ Answered s t (.vf l) St.notReady []) ∧
      (s.bound l.val = true → s.oldLive l.val = true → ∃ t, exec (.rotate (.vf l)) s = .next t ∧ Answered s t (.vf l) St.busy []) ∧
      (s.bound l.val = true → s.oldLive l.val = false → 2 ^ 24 - 1 ≤ used →
        ∃ t, exec (.rotate (.vf l)) s = .next t ∧ Answered s t (.vf l) St.failed []) ∧
      (s.bound l.val = true → s.oldLive l.val = false → used < 2 ^ 24 - 1 → ∃ t, exec (.rotate (.vf l)) s = .next t ∧
        tget (fun _ => 0) t.epochs l.val = used + 1 ∧ t.gf (Reg.SEC_EPOCH l.val) Fld.SEC_EPOCH_CUR = used + 1 ∧
        t.rr (Reg.SEC_CNT_OLD l.val) = s.rr (Reg.SEC_CNT_CUR l.val) ∧ t.rr (Reg.SEC_CNT_CUR l.val) = 0 ∧ t.rbit Reg.SEC_FLAG 1 = true ∧
        (s.rr (Reg.SEC_CNT_CUR l.val) = 0 → t.oldLive l.val = false ∧ t.rbit Reg.SEC_FLAG 0 = true) ∧
        (s.rr (Reg.SEC_CNT_CUR l.val) ≠ 0 → t.oldLive l.val = true) ∧ t.mem = s.mem ∧ t.tags = s.tags)) ∧
    (s.porterHalt = true ∨ s.tierBytes < 4096 ∨ (∀ m, m < 16 → s.oldLive m = false) → exec .sweep s = .next s) ∧
    (s.porterHalt = false → 4096 ≤ s.tierBytes → (∃ m, m < 16 ∧ s.oldLive m = true) →
      let n := s.tierBytes / 4096
      let f := s.sweepAt % n
      ∃ t, exec .sweep s = .next t ∧ t.sweepAt = (f + 1) % n ∧ t.mem = s.mem ∧
        (∀ m, s.tagLive f = some (m, true) → tget (fun _ => 0) t.tags f = BitVec.ofNat 32 (1 + 2 * m + 32 * s.curEpoch m)) ∧
        ((∀ m, s.tagLive f ≠ some (m, true)) → t = { s with sweepAt := t.sweepAt }))

/-- ATTEST, ID_CERT, SESSION_OPEN, SESSION_CLOSE, ROTATE, DBG_CHALLENGE, DBG_RESPONSE, DBG_REVOKE and LC_REQ: from a requester that does not reach SEC.MB_CMD, the refusal of such a write; while the Porter is halted by the debug port or restarts on new firmware, BUSY; from a requester that R540 does not list for the OP, PERMISSION; each of the last two with an empty answer and nothing else changed but flags, counters and messages. DBG_CHALLENGE answers 128 bytes, which is the challenge in force. A DBG_RESPONSE ends the challenge in force; with none, or an old one, or a signature that does not verify, or in lockout, it is refused with INTEGRITY: the grant stays as it is and DBG_FAIL is set, the eighth refusal in a row sets DBG_LOCK and the lockout. A response that verifies is refused with PERMISSION where the lifecycle state forbids it, else it gives the grant it names, with DBG_GRANT. DBG_REVOKE leaves no grant and no halt of the Innkeeper or Porter. LC_REQ burns a lifecycle state only along a transition of R538 and with a valid token. -/
def Obligations.MailboxAccessDebugGrantAndLifecycle : Prop :=
  (∀ (i : Instr) (who : Requester) (listed : Bool) (s : State), mailOf i = some (who, listed) →
      (s.reach who Reg.SEC_MB_CMD true = false → exec i s = .next (s.deny who)) ∧
      (s.reach who Reg.SEC_MB_CMD true = true →
        (s.porterBusy = true → ∃ t, exec i s = .next t ∧ Answered s t who St.busy []) ∧
        (s.porterBusy = false → listed = false → ∃ t, exec i s = .next t ∧ Answered s t who St.permission []))) ∧
  (∀ (who : Requester) (s : State), porterTakes s who →
      (isDbg who = true →
        (∃ t c, exec (.dbgChallenge who) s = .next t ∧ t.chal = some (c, s.cycle) ∧
          tget (fun _ => 0) t.mbStat (reqIx who) = BitVec.ofNat 32 128 ∧ t.grant = s.grant ∧ t.mem = s.mem) ∧
        (let lc := s.gf Reg.SEC_LC Fld.SEC_LC_STATE
         let body := s.mbBytes who 0 8
         let scope := ofBytes (body.take 4)
         let ldgs := ofBytes ((body.drop 4).take 2)
         let good : Prop := s.dbgLock = false ∧ ∃ c at_, s.chal = some (c, at_) ∧ s.cycle ≤ at_ + 36000000000 ∧
           Config.verify (if lc = 1 ∨ lc = 2 then 2 else 3) (sha (bytesLE 128 c ++ body)) (s.mbBytes who 8 96) = true
         (¬ good → ∃ t, exec (.dbgResponse who) s = .next t ∧ t.grant = s.grant ∧ t.chal = none ∧ t.dbgFails = s.dbgFails + 1 ∧
           t.rbit Reg.SEC_FLAG 6 = true ∧ t.mem = s.mem ∧
           tget (fun _ => 0) t.mbStat (reqIx who) = BitVec.ofNat 32 (St.integrity * 2 ^ 24) ∧
           (s.dbgFails = 7 → t.dbgLock = true ∧ t.rbit Reg.SEC_FLAG 7 = true) ∧ (s.dbgLock = true → t.dbgLock = true)) ∧
         (good → s.scopeBad scope ldgs = true → ∃ t, exec (.dbgResponse who) s = .next t ∧ t.grant = s.grant ∧ t.chal = none ∧
           t.dbgFails = s.dbgFails + 1 ∧ tget (fun _ => 0) t.mbStat (reqIx who) = BitVec.ofNat 32 (St.permission * 2 ^ 24)) ∧
         (good → s.scopeBad scope ldgs = false → scope < 32 → ofBytes (body.drop 6) = 0 → ∃ t, exec (.dbgResponse who) s = .next t ∧
           t.grant = some (scope, ldgs) ∧ t.chal = none ∧ t.dbgFails = 0 ∧ t.gf Reg.SEC_LC Fld.SEC_LC_DBG_ACTIVE = 1 ∧
           t.rbit Reg.SEC_FLAG 5 = true ∧ t.mem = s.mem))) ∧
      (isDbg who = true ∨ isPf who = true →
        (s.grant = none → ∃ t, exec (.dbgRevoke who) s = .next t ∧ Answered s t who St.ok []) ∧
        (∀ g, s.grant = some g → ∃ t, exec (.dbgRevoke who) s = .next t ∧ t.grant = none ∧ t.innHalt = false ∧ t.porterHalt = false ∧
          t.rbit Reg.DBG_FLAG 4 = true) ∧
        (let tok := s.mbBytes who 0 4096
         (lcStep s.fuses.1 (Config.tokenTo tok) = false → ∃ t, exec (.lcReq who) s = .next t ∧ Answered s t who St.state []) ∧
         (lcStep s.fuses.1 (Config.tokenTo tok) = true → Config.tokenOk s.fuses.1 tok = false →
           ∃ t, exec (.lcReq who) s = .next t ∧ Answered s t who St.integrity []) ∧
         (lcStep s.fuses.1 (Config.tokenTo tok) = true → Config.tokenOk s.fuses.1 tok = true →
           ∃ t, exec (.lcReq who) s = .next t ∧ Answered { s with fuses := (Config.tokenTo tok, s.fuses.2) } t who St.ok []))))

/-- What is outside the chip or in its fuses, and the model's own fields, is in t what it is in s. -/
def Outlives (s t : State) : Prop :=
  t.host = s.host ∧ t.flash = s.flash ∧ t.fuses = s.fuses ∧ t.msgs = s.msgs ∧ t.free = s.free

/-- RESET_N leaves every register at its reset value but PWR.STRAP, which holds the straps, every time base STOPPED, device memory as at reset, and the device alive. RESET_N low and SUPPLY_FAULT leave the same with the device held in reset, where no requester reaches a register. REFCLK_LOSS switches every domain off, sets REFCLK_LOSS and stops the device; the return keeps the PWR block, resets every other register and time base and starts anew (BOOT.STATE 0). RESTART by the host or the board controller keeps running time bases and resets the registers of every other block, with BOOT.STATE 4; another requester has no effect. Flash, fuses and host memory outlive all of them. -/
def Obligations.ResetsAndClockLoss : Prop :=
  ∀ (straps : Byte) (who : Requester) (s : State),
    (∃ t, exec (.resetN straps) s = .next t ∧ Outlives s t ∧ t.alive = true ∧ t.rr Reg.PWR_STRAP = straps.setWidth 32 ∧
      (∀ a, a ≠ Reg.PWR_STRAP → t.rr a = RegMap.reset a) ∧ (∀ n, (t.tbOf n).running = false) ∧ t.mem = []) ∧
    (∀ i ∈ [Instr.resetNLow, .supplyFault], ∃ t, exec i s = .next t ∧ Outlives s t ∧ t.inReset = true ∧
      (∀ a, t.rr a = RegMap.reset a) ∧ t.mem = [] ∧ ∀ (w : Requester) (off : Nat) (write : Bool), t.reach w off write = false) ∧
    (s.inReset = true ∨ s.refLoss = true → exec .refclkLoss s = .next s) ∧
    (s.inReset = false → s.refLoss = false → ∃ t, exec .refclkLoss s = .next t ∧ t.refLoss = true ∧ t.alive = false ∧
      t.rbit Reg.PWR_FLAG 6 = true ∧ t.tb = s.tb ∧ ∀ i, i < 176 → t.domOn i = false) ∧
    (s.refLoss = false → exec .refclkReturn s = .next s) ∧
    (s.refLoss = true → ∃ t, exec .refclkReturn s = .next t ∧ Outlives s t ∧ t.alive = true ∧
      t.gf Reg.PWR_BOOT Fld.PWR_BOOT_STATE = 0 ∧ (∀ a, blockOf a ≠ 5 → t.rr a = RegMap.reset a) ∧
      t.rr Reg.PWR_FLAG = s.rr Reg.PWR_FLAG ∧ (∀ n, (t.tbOf n).running = false) ∧ t.mem = []) ∧
    (s.reach who Reg.PWR_CTL true = false → exec (.restart who) s = .next (s.deny who)) ∧
    (s.reach who Reg.PWR_CTL true = true → pwrHears who = false → exec (.restart who) s = .next s) ∧
    (s.reach who Reg.PWR_CTL true = true → pwrHears who = true → ∃ t, exec (.restart who) s = .next t ∧ t.host = s.host ∧
      t.flash = s.flash ∧ t.fuses = s.fuses ∧ t.cycle = s.cycle ∧ t.gf Reg.PWR_BOOT Fld.PWR_BOOT_STATE = 4 ∧ t.rr Reg.PWR_OPSTAT = 0 ∧
      (∀ a, blockOf a ≠ 5 → t.rr a = RegMap.reset a) ∧ (∀ n, (s.tbOf n).running = true → t.tbOf n = s.tbOf n) ∧ t.mem = [])

/-- START does nothing outside a reset or a restart, while a start waits, or while the device is not alive; in test hold nothing but what the fuses hold is shown. Without a directory it ends in NO_IMAGE. With one and no restart of R552: the image of the preferred slot is started, on trial when TRIAL stands, when it passes its check; a trial not confirmed is given up for the other slot; when both slots fail, NO_IMAGE with the last status. TIER_TRAINED records the end of training once, with every tag cleared; a failed one leaves no tier and sets MEM.FLAG bit 5; a start that waited reaches service. CONFIRM by the host or the board controller ends a trial, and does nothing where there is none. -/
def Obligations.StartsReachServiceOrNoImage : Prop :=
  ∀ (x : StartIn) (ok : Bool) (who : Requester) (s : State),
    (s.alive = false ∨ (s.gf Reg.PWR_BOOT Fld.PWR_BOOT_STATE ≠ 0 ∧ s.gf Reg.PWR_BOOT Fld.PWR_BOOT_STATE ≠ 4) ∨ s.boot.waits = true →
      exec (.startUp x) s = .next s) ∧
    (s.alive = true → (s.gf Reg.PWR_BOOT Fld.PWR_BOOT_STATE = 0 ∨ s.gf Reg.PWR_BOOT Fld.PWR_BOOT_STATE = 4) → s.boot.waits = false →
      let v := (s.sf Reg.SEC_LC Fld.SEC_LC_STATE s.fuses.1).sf Reg.SEC_LC Fld.SEC_LC_SVN s.fuses.2
      let u := v.startPower x
      (s.testHold = true → exec (.startUp x) s = .next v) ∧
      (s.testHold = false → s.dir = none → ∃ t, exec (.startUp x) s = .next t ∧ t.gf Reg.PWR_BOOT Fld.PWR_BOOT_STATE = 2 ∧
        t.mem = (u.draw.2.noImage (u.draw.1 % 18)).mem) ∧
      (∀ d, s.testHold = false → s.dir = some d → s.boot.other = false →
        let pref := if d.pref = 1 then 1 else 0
        let st := u.imageCheck (d.slot pref) (if pref = 1 then x.sigB else x.sigA)
        let st2 := u.imageCheck (d.slot (1 - pref)) (if pref = 1 then x.sigA else x.sigB)
        ((d.trial && d.tried) = false → st = St.ok → exec (.startUp x) s = .next (u.startImage x d pref false false (d.trial && !d.tried))) ∧
        ((d.trial && d.tried) = true → st2 = St.ok → ∃ w : State, u.Notes w ∧ w.rbit Reg.PWR_FLAG 9 = true ∧
          exec (.startUp x) s = .next (w.startImage x d (1 - pref) false true false)) ∧
        ((d.trial && d.tried) = false → st ≠ St.ok → st2 = St.ok → ∃ w : State, u.Notes w ∧ w.rbit Reg.PWR_FLAG 8 = true ∧
          exec (.startUp x) s = .next (w.startImage x d (1 - pref) true false false)) ∧
        (st ≠ St.ok → st2 ≠ St.ok → ∃ t, exec (.startUp x) s = .next t ∧ t.gf Reg.PWR_BOOT Fld.PWR_BOOT_STATE = 2 ∧
          t.gf Reg.PWR_BOOT Fld.PWR_BOOT_STATUS = if (d.trial && d.tried) = true then st else st2))) ∧
    (s.alive = false ∨ s.trained.isSome = true → exec (.tierTrained ok) s = .next s) ∧
    (s.alive = true → s.trained = none → s.boot.waits = false → ∃ t, exec (.tierTrained ok) s = .next t ∧ t.trained = some ok ∧
      t.tags = [] ∧ t.mem = s.mem ∧ (ok = true → t = { s with
        tags := []
        trained := some ok }) ∧
      (ok = false → s.gf Reg.MEM_CAP Fld.MEM_CAP_ATTACHED ≠ 0 → t.gf Reg.MEM_CAP Fld.MEM_CAP_ATTACHED = 0 ∧ t.tierBytes = 0 ∧
        t.rbit Reg.MEM_FLAG 5 = true)) ∧
    (s.alive = true → s.trained = none → s.boot.waits = true → ∃ t, exec (.tierTrained ok) s = .next t ∧ t.inService = true ∧
      t.boot.waits = false) ∧
    (s.reach who Reg.PWR_BOOT_CTL true = true → pwrHears who = true →
      (s.gf Reg.PWR_BOOT Fld.PWR_BOOT_TRIAL = 0 → exec (.confirm who) s = .next s) ∧
      (s.gf Reg.PWR_BOOT Fld.PWR_BOOT_TRIAL = 1 → ∃ t, exec (.confirm who) s = .next t ∧ t.gf Reg.PWR_BOOT Fld.PWR_BOOT_TRIAL = 0 ∧
        t.mem = s.mem)) ∧
    (s.reach who Reg.PWR_BOOT_CTL true = true → pwrHears who = false → exec (.confirm who) s = .next s)

/-- VSET_UPDATE on a live device: the set-point rises at once to a higher target and falls by at most 5 mV; a change that is not confirmed sets PMBUS_FAIL and holds both duties at 8/16 or less, a confirmed one ends that. VREQ_WRITE takes a value of 720 to 900, or 0; any other is discarded. PMB_ALERT acts only when its read fails. SENSOR_READ: a site with both sensors within 3 °C shows the higher; T_hot is the highest site; at TRIP every domain goes off with THERM_TRIP, and in that state a fall to THR less 20 °C restarts. THROTTLE_UPDATE: at THR or above the unprotected duty falls by 1/16 to no less than 1/16; below THR less 2 °C a duty rises only 10 ms after it last rose, the protected one first; between the two nothing changes. DOM_REQ_WRITE by a requester that reaches the register: each field takes its value, a field of 3 stays, and OFF for a needed domain sets DOM_REFUSED. A switched domain is then as R561 wants it. STBY_ENTER with a lodging bound or out of service is refused with STATE; else BOOT.STATE is 3, the domain of PCIe is kept and no other domain is on. STBY_EXIT, a PCIe access of a function, and WAKE over SMBus lead from deep standby back to service; out of standby the write and the command answer STATE and the access does nothing. -/
def Obligations.VoltageTemperatureDomainsAndStandby : Prop :=
  (∀ (s : State), s.alive = true →
      (∀ (vout iout : Nat) (confirmed : Bool),
        let cur := s.gf Reg.PWR_VDD Fld.PWR_VDD_SET
        let new := vStep cur s.vTarget
        ∃ t, exec (.vsetUpdate vout iout confirmed) s = .next t ∧ t.mem = s.mem ∧ t.gf Reg.PWR_VDD Fld.PWR_VDD_SET = new ∧
          t.gf Reg.PWR_VDD Fld.PWR_VDD_MEAS = vout % 2 ^ 16 ∧ t.gf Reg.PWR_POWER Fld.PWR_POWER_IOUT = iout % 2 ^ 16 ∧
          (new = cur → s.pmbFail = false → t.pmbFail = false ∧ t.rr Reg.PWR_THERM = s.rr Reg.PWR_THERM) ∧
          (new ≠ cur ∨ s.pmbFail = true → confirmed = true → t.pmbFail = false ∧ t.rr Reg.PWR_THERM = s.rr Reg.PWR_THERM) ∧
          (new ≠ cur ∨ s.pmbFail = true → confirmed = false → t.pmbFail = true ∧ t.rbit Reg.PWR_FLAG 5 = true ∧
            t.gf Reg.PWR_THERM Fld.PWR_THERM_DU = min 8 (s.gf Reg.PWR_THERM Fld.PWR_THERM_DU) ∧
            t.gf Reg.PWR_THERM Fld.PWR_THERM_DP = min 8 (s.gf Reg.PWR_THERM Fld.PWR_THERM_DP))) ∧
      (∀ (who : Requester) (v : Word), s.reach who Reg.PWR_VREQ true = true →
        ((v.toNat % 65536 ≠ 0 ∧ (v.toNat % 65536 < 720 ∨ 900 < v.toNat % 65536)) → exec (.vreqWrite who v) s = .next s) ∧
        ((v.toNat % 65536 = 0 ∨ (720 ≤ v.toNat % 65536 ∧ v.toNat % 65536 ≤ 900)) → ∃ t, exec (.vreqWrite who v) s = .next t ∧
          t.vReq = v.toNat % 65536 ∧ t.mem = s.mem ∧ (s.isMfg = true → v.toNat % 65536 ≠ 0 →
            t.gf Reg.PWR_VDD Fld.PWR_VDD_SET = v.toNat % 65536) ∧
          (s.isMfg = false → t.rr Reg.PWR_VDD = s.rr Reg.PWR_VDD ∧
            (v.toNat % 65536 ≠ 0 → v.toNat % 65536 ≠ s.gf Reg.PWR_VDD Fld.PWR_VDD_SET → t.rbit Reg.PWR_FLAG 0 = true)))) ∧
      (exec (.pmbAlert true) s = .next s) ∧
      (∃ t, exec (.pmbAlert false) s = .next t ∧ t.pmbFail = true ∧ t.rbit Reg.PWR_FLAG 5 = true) ∧
      (∀ ts : List Int, ts.length = 32 → ∃ t, exec (.sensorRead ts) s = .next t ∧
        (∀ i, i < 16 → s.gf (Reg.PWR_SITE i) Fld.PWR_SITE_STATE = 0 → (ts.getD (2 * i) 0 - ts.getD (2 * i + 1) 0).natAbs ≤ 24 →
          t.gf (Reg.PWR_SITE i) Fld.PWR_SITE_T = (BitVec.ofInt 16 (max (ts.getD (2 * i) 0) (ts.getD (2 * i + 1) 0))).toNat) ∧
        (∀ i, i < 16 → sgn16 (t.gf (Reg.PWR_SITE i) Fld.PWR_SITE_T) ≤ t.tHot) ∧
        (∃ i, i < 16 ∧ sgn16 (t.gf (Reg.PWR_SITE i) Fld.PWR_SITE_T) = t.tHot) ∧
        (s.gf Reg.PWR_BOOT Fld.PWR_BOOT_STATE ≠ 5 → s.trip ≤ t.tHot → t.gf Reg.PWR_BOOT Fld.PWR_BOOT_STATE = 5 ∧
          t.rbit Reg.PWR_FLAG 4 = true ∧ ∀ i, i < 176 → t.domOn i = false) ∧
        (s.gf Reg.PWR_BOOT Fld.PWR_BOOT_STATE ≠ 5 → t.tHot < s.trip →
          t.gf Reg.PWR_BOOT Fld.PWR_BOOT_STATE = s.gf Reg.PWR_BOOT Fld.PWR_BOOT_STATE ∧ t.mem = s.mem) ∧
        (s.gf Reg.PWR_BOOT Fld.PWR_BOOT_STATE = 5 → t.gf Reg.PWR_BOOT Fld.PWR_BOOT_STATE = if t.tHot ≤ s.thr - 160 then 4 else 5)) ∧
      (let du := s.gf Reg.PWR_THERM Fld.PWR_THERM_DU
       let dp := s.gf Reg.PWR_THERM Fld.PWR_THERM_DP
       (s.thr ≤ s.tHot → ∃ t, exec .throttleUpdate s = .next t ∧ t.mem = s.mem ∧ t.gf Reg.PWR_THERM Fld.PWR_THERM_DU = max 1 (du - 1) ∧
         t.gf Reg.PWR_THERM Fld.PWR_THERM_DP =
           if dp < 16 ∨ (du = 1 ∧ s.thr + 16 ≤ s.tHot) then max 1 (dp - 1) else dp) ∧
       (s.thr - 16 ≤ s.tHot → s.tHot < s.thr → exec .throttleUpdate s = .next s) ∧
       (s.tHot < s.thr - 16 → dp < 16 → s.mayRise dp s.dutyUp.2 = true → ∃ t, exec .throttleUpdate s = .next t ∧
         t.gf Reg.PWR_THERM Fld.PWR_THERM_DP = dp + 1 ∧ t.gf Reg.PWR_THERM Fld.PWR_THERM_DU = du ∧ t.dutyUp = (s.dutyUp.1, s.cycle)) ∧
       (s.tHot < s.thr - 16 → 16 ≤ dp → s.mayRise du s.dutyUp.1 = true → ∃ t, exec .throttleUpdate s = .next t ∧
         t.gf Reg.PWR_THERM Fld.PWR_THERM_DU = du + 1 ∧ t.gf Reg.PWR_THERM Fld.PWR_THERM_DP = dp ∧ t.dutyUp = (s.cycle, s.dutyUp.2)) ∧
       (s.tHot < s.thr - 16 → (dp < 16 ∧ s.mayRise dp s.dutyUp.2 = false) ∨ (16 ≤ dp ∧ s.mayRise du s.dutyUp.1 = false) →
         exec .throttleUpdate s = .next s))) ∧
  (∀ (who : Requester) (s : State),
      (∀ (k : Fin 11) (v : Word), (s.reach who (Reg.PWR_DOM_REQ k.val) true = false → exec (.domReqWrite who k v) s = .next (s.deny who)) ∧
        (s.reach who (Reg.PWR_DOM_REQ k.val) true = true → ∃ t, exec (.domReqWrite who k v) s = .next t ∧
          (∀ i, i < 16 → t.domReq (16 * k.val + i) = if nbits v.toNat (2 * i + 1) (2 * i) = 3 then s.domReq (16 * k.val + i)
            else nbits v.toNat (2 * i + 1) (2 * i)) ∧
          (∀ a, a ≠ Reg.PWR_DOM_REQ k.val → noteReg a = false → t.rr a = s.rr a) ∧ t.mem = s.mem ∧
          (∀ i, i < 16 → nbits v.toNat (2 * i + 1) (2 * i) = 2 → s.needed (16 * k.val + i) = true → t.rbit Reg.PWR_FLAG 7 = true))) ∧
      (∀ d : Fin 176, (s.alive = false → exec (.domainSwitched d) s = .next s) ∧
        (s.alive = true → ∃ t, exec (.domainSwitched d) s = .next t ∧ t.domOn d.val = s.wantOn d.val ∧
          (s.domOn d.val = s.wantOn d.val → t = s))) ∧
      (s.reach who Reg.PWR_CTL true = true → pwrHears who = true →
        ((∃ l, l < 16 ∧ s.bound l = true) ∨ s.inService = false → ∃ t, exec (.stbyEnter who) s = .next t ∧
          t.rr Reg.PWR_OPSTAT = BitVec.ofNat 32 St.state ∧ t.mem = s.mem ∧
          ∀ a, a ≠ Reg.PWR_OPSTAT → noteReg a = false → t.rr a = s.rr a) ∧
        ((∀ l, l < 16 → s.bound l = false) → s.inService = true → ∃ t, exec (.stbyEnter who) s = .next t ∧ t.standby = true ∧
          t.rr Reg.PWR_OPSTAT = 0 ∧ t.domOn 173 = s.domOn 173 ∧ ∀ i, i < 176 → i ≠ 173 → t.domOn i = false) ∧
        (s.standby = true → ∃ t, exec (.stbyExit who true) s = .next t ∧ t.inService = true ∧ t.rr Reg.PWR_OPSTAT = 0) ∧
        (s.standby = false → ∃ t, exec (.stbyExit who true) s = .next t ∧ t.rr Reg.PWR_OPSTAT = BitVec.ofNat 32 St.state ∧
          t.mem = s.mem ∧ ∀ a, a ≠ Reg.PWR_OPSTAT → noteReg a = false → t.rr a = s.rr a)) ∧
      (∀ w ∈ Requester.pf :: (List.finRange 16).map Requester.vf,
        (s.standby = true → exec (.stbyExit w false) s = .next s.wake ∧ s.wake.inService = true) ∧
        (s.standby = false → exec (.stbyExit w false) s = .next s)) ∧
      (s.inReset = false → s.standby = true → ∃ t, exec (.wake true) s = .next t ∧ t.inService = true ∧ t.answer = [0]) ∧
      (s.inReset = false → s.standby = false → Yields (.wake true) s { s with answer := [BitVec.ofNat 8 St.state] }) ∧
      (s.inReset = false → ∃ t, exec (.wake false) s = .next t ∧ t.answer = [BitVec.ofNat 8 St.integrity] ∧ t.rbit Reg.HIF_FLAG 7 = true))

/-- A unit whose repair is not the remap of R473: a word of a store, a unit of the tier (R211, R471). -/
def isMemUnit : RelUnit → Bool
  | .word .. => true
  | .tier .. => true
  | _ => false

/-- RECOVER of a unit other than a memory word, and of a lane group whose own check did not fail (R54): a replay that passes counts TRANS of the unit's class with TRANSIENT and changes nothing else but REL.LAST, flags and the wear counts. A lasting fault of a lane group or of a bank with the core's spare unused maps it out, uses one spare, counts LAST and sets LASTING; one of a core takes the wing's spare position; without a spare NO_SPARE is set, the core is FAILED and the waybills that use it are torn down. A known poisoned word is no new detection. WATCHDOG enters the same rule with mechanism 5 when the unit has work, else nothing happens. TIER_SCRUB and SRAM_SCRUB count a corrected error; the last word of a pass starts the next; a pass that runs past 6 h 1 min sets SCRUB_LATE. -/
def Obligations.FaultsFollowTheRetryRule : Prop :=
  ∀ (s : State) (u : RelUnit) (m : Fin 7) (r : Replay) (c : Fin 32) (g : Fin 8) (b : Fin 32) (a : BitVec 48) (ce : Bool),
    (isMemUnit u = false → (∀ c g, u = .lane c g → s.laneBad c.val g.val = false) → ∃ t, exec (.recover u m .passes) s = .next t ∧ t.mem = s.mem ∧
      t.rr (Reg.REL_TRANS (relCls u)) = s.rr (Reg.REL_TRANS (relCls u)) + 1 ∧ t.rbit Reg.REL_FLAG 0 = true ∧
      ∀ x, noteReg x = false → x ≠ Reg.REL_TRANS (relCls u) → x ≠ Reg.REL_LAST → x ≠ Reg.REL_LAST_MS → t.rr x = s.rr x) ∧
    (s.gf (Reg.REL_LG_MAP c.val) Fld.REL_LG_MAP_LG = 15 → s.laneBad c.val g.val = false → ∃ t, exec (.recover (.lane c g) m (.lasting false)) s = .next t ∧
      t.mem = s.mem ∧ t.gf (Reg.REL_LG_MAP c.val) Fld.REL_LG_MAP_LG = g.val ∧ t.left 0 = s.left 0 - 1 ∧
      t.rr (Reg.REL_LAST_CNT 0) = s.rr (Reg.REL_LAST_CNT 0) + 1 ∧ t.rbit Reg.REL_FLAG 1 = true) ∧
    (s.gf (Reg.REL_LG_MAP c.val) Fld.REL_LG_MAP_BANK = 63 → ∃ t, exec (.recover (.bank c b) m (.lasting false)) s = .next t ∧
      t.mem = s.mem ∧ t.gf (Reg.REL_LG_MAP c.val) Fld.REL_LG_MAP_BANK = b.val ∧ t.left 2 = s.left 2 - 1 ∧
      t.rr (Reg.REL_LAST_CNT 2) = s.rr (Reg.REL_LAST_CNT 2) + 1 ∧ t.rbit Reg.REL_FLAG 1 = true) ∧
    (∀ q, s.wingSpare (c.val / 4) = some q → ∃ t, exec (.recover (.core c) m (.lasting false)) s = .next t ∧
      t.mem = s.mem ∧ t.physCore c.val = 5 * (c.val / 4) + q ∧ t.left 1 = s.left 1 - 1 ∧ (1, s.physCore c.val) ∈ t.retired ∧
      t.rbit Reg.REL_FLAG 1 = true) ∧
    (s.wingSpare (c.val / 4) = none → ∃ w : State, exec (.recover (.core c) m (.lasting false)) s = .next (w.unrecovered (.core c)) ∧
      w.mem = s.mem ∧ w.rbit Reg.REL_FLAG 1 = true ∧ w.rbit Reg.REL_FLAG 2 = true ∧
      (w.gf (Reg.REL_CORE_MAP (c.val / 4)) Fld.REL_CORE_MAP_FAILED).testBit (c.val % 4) = true) ∧
    (∀ (x : Nat) (dbl : Bool) (fix : Option Nat), s.poisoned x 8 = true → exec (.recover (.word x dbl fix) m r) s = .next s) ∧
    (∀ (x : Nat) (dbl : Bool) (fix : TierFix), s.poisoned (x / 64 * 64) 64 = true → exec (.recover (.tier x dbl fix) m r) s = .next s) ∧
    (s.watched u = true → exec (.watchdog u r) s = .next (s.recover u 5 r)) ∧
    (s.watched u = false → exec (.watchdog u r) s = .next s) ∧
    ((ce = false ∨ s.inTier (a.toNat / 64 * 64) = false ∨ s.poisoned (a.toNat / 64 * 64) 64 = true) → exec (.tierScrub a ce) s = .next s) ∧
    (ce = true → s.inTier (a.toNat / 64 * 64) = true → s.poisoned (a.toNat / 64 * 64) 64 = false →
      ∃ t, exec (.tierScrub a ce) s = .next t ∧ s.Notes t ∧ t.rbit Reg.MEM_FLAG 0 = true) ∧
    (exec (.sramScrub a false false) s = .next s) ∧
    (∀ last, ∃ t, exec (.sramScrub a true last) s = .next t ∧ t.mem = s.mem ∧ t.rr Reg.REL_CE_CNT = s.rr Reg.REL_CE_CNT + 1) ∧
    (∃ t, exec (.sramScrub a ce true) s = .next t ∧ t.scrubAt = s.cycle ∧ t.mem = s.mem ∧
      t.gf Reg.REL_SCRUB Fld.REL_SCRUB_PASS_MIN = min 65535 ((s.cycle - s.scrubAt) / 36000000000)) ∧
    (s.pending = [] → s.alive = true → s.kvXfer = [] → s.kvRest = [] → s.cycle = s.scrubAt + 361 * 36000000000 →
      ∃ t, step s = .next t ∧ t.rbit Reg.REL_FLAG 6 = true)

/-- MARGIN_CHECK shows the margin; with one at or above target, or in MANUFACTURE, nothing else changes; a lower one below WEAR_VMAX adds 5 mV to VWEAR with WEAR_VOLT, at most once in 100 ms; at WEAR_VMAX without a spare it sets WEAR_CRIT. LOCKSTEP_MISMATCH: a repeated interval that agrees is a transient fault; an outvoted core is retired and its spare used; without a spare, or when all differ, a full restart. FWUPD by a requester that may write it: TARGET 3 FORMAT, one under way BUSY, a signature that fails INTEGRITY with SIG_FAIL, else phase 1. FWUPD_PHASE_END goes on by a phase, ends FAILED in phase 4, or installs the firmware. WEAR_RECORD_WRITE writes the other bank with the next SEQ, when due. -/
def Obligations.WearLockstepAndFirmware : Prop :=
  ∀ (s : State) (u : RelUnit) (m : Int) (c : Fin 3) (who : Requester) (tg : Fin 4) (sig ok : Bool) (dg : BitVec 384),
    (∀ i ∈ [Instr.marginCheck m u, .lockstepMismatch (.outvoted c), .lockstepMismatch .agrees, .lockstepMismatch .allDiffer,
      .wearRecordWrite 0], s.alive = false → exec i s = .next s) ∧
    (s.alive = true →
      let low : Prop := m < 10 * s.gf Reg.REL_WEAR_CFG Fld.REL_WEAR_CFG_MARGIN_TGT ∧ s.gf Reg.SEC_LC Fld.SEC_LC_STATE ≠ 0
      let below : Prop := s.gf Reg.PWR_VDD Fld.PWR_VDD_SET + 5 ≤ s.gf Reg.REL_WEAR_CFG Fld.REL_WEAR_CFG_WEAR_VMAX
      (¬ low → ∃ t, exec (.marginCheck m u) s = .next t ∧ t = { s with regs := t.regs } ∧
        t.gf Reg.REL_WEAR Fld.REL_WEAR_MARGIN_MIN = (BitVec.ofInt 16 m).toNat ∧ ∀ x, x ≠ Reg.REL_WEAR → t.rr x = s.rr x) ∧
      (low → below → s.since s.wearStep 60000000 = true → ∃ t, exec (.marginCheck m u) s = .next t ∧ t.mem = s.mem ∧
        t.gf Reg.REL_WEAR Fld.REL_WEAR_VWEAR = (s.gf Reg.REL_WEAR Fld.REL_WEAR_VWEAR + 5) % 2 ^ 16 ∧ t.rbit Reg.REL_FLAG 7 = true ∧
        t.wearStep = some s.cycle) ∧
      (low → below → s.since s.wearStep 60000000 = false → ∃ t, exec (.marginCheck m u) s = .next t ∧ t = { s with regs := t.regs } ∧
        ∀ x, x ≠ Reg.REL_WEAR → t.rr x = s.rr x) ∧
      (low → ¬ below → s.hasSpare u = false → ∃ t, exec (.marginCheck m u) s = .next t ∧ t.mem = s.mem ∧ t.rbit Reg.REL_FLAG 9 = true) ∧
      (∃ t, exec (.lockstepMismatch .agrees) s = .next t ∧ t.mem = s.mem ∧ t.rr (Reg.REL_TRANS 11) = s.rr (Reg.REL_TRANS 11) + 1) ∧
      (s.left 11 ≠ 0 → ∃ t, exec (.lockstepMismatch (.outvoted c)) s = .next t ∧ t.mem = s.mem ∧ t.left 11 = s.left 11 - 1 ∧
        (11, c.val) ∈ t.retired ∧ t.rbit Reg.REL_FLAG 1 = true) ∧
      (∀ v ∈ [Vote.outvoted c, .allDiffer], v = .allDiffer ∨ s.left 11 = 0 → ∃ t, exec (.lockstepMismatch v) s = .next t ∧
        t.gf Reg.PWR_BOOT Fld.PWR_BOOT_STATE = 4 ∧ ∀ n, (s.tbOf n).running = true → t.tbOf n = s.tbOf n)) ∧
    (s.reach who Reg.REL_FWUPD_CTL true = true → pwrHears who = true →
      let st (t : State) : Nat := t.gf Reg.REL_FWUPD_STAT Fld.REL_FWUPD_STAT_STATUS
      (tg = 3 → ∃ t, exec (.fwupd who tg sig dg) s = .next t ∧ t.fwNew = s.fwNew ∧ st t = St.format) ∧
      (tg ≠ 3 → s.fwNew.isSome = true → ∃ t, exec (.fwupd who tg sig dg) s = .next t ∧ t.fwNew = s.fwNew ∧ st t = St.busy) ∧
      (tg ≠ 3 → s.fwNew = none → sig = false → ∃ t, exec (.fwupd who tg sig dg) s = .next t ∧ t.fwNew = none ∧ st t = St.integrity ∧
        t.rbit Reg.SEC_FLAG 8 = true) ∧
      (tg ≠ 3 → s.fwNew = none → sig = true → ∃ t, exec (.fwupd who tg sig dg) s = .next t ∧ t.fwNew = some (tg.val, dg.toNat) ∧
        st t = St.ok ∧ t.gf Reg.REL_FWUPD_STAT Fld.REL_FWUPD_STAT_PHASE = 1 ∧ t.mem = s.mem)) ∧
    (s.reach who Reg.REL_FWUPD_CTL true = true → pwrHears who = false → exec (.fwupd who tg sig dg) s = .next s) ∧
    (s.fwNew = none → exec (.fwupdPhaseEnd ok) s = .next s) ∧
    (∀ t d, s.fwNew = some (t, d) → let p := s.gf Reg.REL_FWUPD_STAT Fld.REL_FWUPD_STAT_PHASE
      ∃ z, exec (.fwupdPhaseEnd ok) s = .next z ∧ z.mem = s.mem ∧
        (t = 0 → p = 4 → ok = false → z.fwNew = none ∧ z.fw = s.fw ∧ z.gf Reg.REL_FWUPD_STAT Fld.REL_FWUPD_STAT_PHASE = 7) ∧
        (t = 0 → p < 5 → p ≠ 4 ∨ ok = true → z.fwNew = s.fwNew ∧ z.gf Reg.REL_FWUPD_STAT Fld.REL_FWUPD_STAT_PHASE = p + 1) ∧
        (t ≠ 0 ∨ 5 ≤ p → z.fwNew = none ∧ tget (fun _ => 0) z.fw t = d ∧ z.gf Reg.REL_FWUPD_STAT Fld.REL_FWUPD_STAT_PHASE = 6)) ∧
    (let at_ := if s.wearBank = 1 then s.wrec.1 else s.wrec.2
     let due : Prop := s.alive = true ∧ s.wearDue = true ∧ s.flashOp = none ∧ at_ ≠ 0
     (¬ due → ∀ out : Fin 3, exec (.wearRecordWrite out) s = .next s) ∧
     (due → (∃ t, exec (.wearRecordWrite 0) s = .next t ∧ t.wearDirty = false ∧ t.wearAt = s.cycle ∧ t.mem = s.mem ∧
         t.rr Reg.REL_WREC_SEQ = s.rr Reg.REL_WREC_SEQ + 1 ∧ t.gf Reg.REL_WREC_STAT Fld.REL_WREC_STAT_BANK = s.wearBank ∧
         t.gf Reg.REL_WREC_STAT Fld.REL_WREC_STAT_STATUS = St.ok) ∧
       (∀ out : Fin 3, out ≠ 0 → ∃ t, exec (.wearRecordWrite out) s = .next t ∧ t.mem = s.mem ∧ t.rbit Reg.REL_FLAG 10 = true ∧
         t.rr Reg.REL_WREC_SEQ = s.rr Reg.REL_WREC_SEQ)))

/-- By a requester that reaches the register: a CFG write that enables a ring with a LOG2 out of range, or that changes LOG2 while the ring is enabled (discarding the latter is the model's choice, log 39), changes only flags, with SQ_BAD; any other takes the writable bits, and EN 1 clears the ring's pointers. A TAIL write of 2^LOG2 or more changes only flags, with SQ_BAD; any other, and every HEAD write, is held with the other half of the register kept. FLR of a VF disables its rings, drops the copies and entries under way (log 41), masks its vectors and sets FLR; of the PF it masks the PF. A configuration request is answered with retry until step 2 of a start has ended. -/
def Obligations.HostRingRegisters : Prop :=
  ∀ (who : Requester) (r : HRing) (l : Fin 16) (p : Fin 12) (v : Word) (s : State),
    (s.reach who (cfgReg r) true = false → exec (.sqCfgWrite who r v) s = .next (s.deny who)) ∧
    (s.reach who (cfgReg r) true = true →
      (wbit v 31 = true → (∃ n ∈ cfgLogs r v, n.1 < 4 ∨ n.2 < n.1) → s.cfgBad r true v = true) ∧
      (s.cfgBad r true v = true → ∃ t, exec (.sqCfgWrite who r v) s = .next t ∧ s.Notes t ∧ t.rbit Reg.HIF_FLAG 0 = true) ∧
      (s.cfgBad r true v = false → ∃ t, exec (.sqCfgWrite who r v) s = .next t ∧ t.rr (cfgReg r) = v &&& cfgMask r ∧ t.mem = s.mem ∧
        t.host = s.host ∧ (∀ a, a ≠ cfgReg r → a ∉ ringPtrs r → t.rr a = s.rr a) ∧
        ∀ a ∈ ringPtrs r, t.rr a = if wbit v 31 = true then 0 else s.rr a)) ∧
    (s.reach who (Reg.HIF_SQ_PTR l.val) true = true →
      (2 ^ s.gf (Reg.HIF_SQ_CFG l.val) Fld.HIF_SQ_CFG_LOG2 ≤ v.toNat % 65536 →
        ∃ t, exec (.sqTailWrite who l v) s = .next t ∧ s.Notes t ∧ t.rbit Reg.HIF_FLAG 0 = true) ∧
      (v.toNat % 65536 < 2 ^ s.gf (Reg.HIF_SQ_CFG l.val) Fld.HIF_SQ_CFG_LOG2 → ∃ t, exec (.sqTailWrite who l v) s = .next t ∧
        s.RegsOnly t ∧ t.gf (Reg.HIF_SQ_PTR l.val) Fld.HIF_SQ_PTR_TAIL = v.toNat % 65536 ∧
        t.gf (Reg.HIF_SQ_PTR l.val) Fld.HIF_SQ_PTR_HEAD = s.gf (Reg.HIF_SQ_PTR l.val) Fld.HIF_SQ_PTR_HEAD ∧
        ∀ a, a ≠ Reg.HIF_SQ_PTR l.val → t.rr a = s.rr a)) ∧
    (s.reach who (Reg.HIF_PTX_PTR p.val) true = true →
      (2 ^ s.gf (Reg.HIF_PTP_CFG p.val) Fld.HIF_PTP_CFG_TX_LOG2 ≤ v.toNat % 65536 →
        ∃ t, exec (.ptxTailWrite who p v) s = .next t ∧ s.Notes t ∧ t.rbit Reg.HIF_FLAG 0 = true) ∧
      (v.toNat % 65536 < 2 ^ s.gf (Reg.HIF_PTP_CFG p.val) Fld.HIF_PTP_CFG_TX_LOG2 → ∃ t, exec (.ptxTailWrite who p v) s = .next t ∧
        s.RegsOnly t ∧ t.gf (Reg.HIF_PTX_PTR p.val) Fld.HIF_PTX_PTR_TAIL = v.toNat % 65536 ∧
        t.gf (Reg.HIF_PTX_PTR p.val) Fld.HIF_PTX_PTR_HEAD = s.gf (Reg.HIF_PTX_PTR p.val) Fld.HIF_PTX_PTR_HEAD ∧
        ∀ a, a ≠ Reg.HIF_PTX_PTR p.val → t.rr a = s.rr a)) ∧
    (s.reach who (Reg.HIF_CQ_PTR l.val) true = true → ∃ t, exec (.cqHeadWrite who l v) s = .next t ∧
      s.RegsOnly t ∧ t.gf (Reg.HIF_CQ_PTR l.val) Fld.HIF_CQ_PTR_HEAD = v.toNat % 65536 ∧
      t.gf (Reg.HIF_CQ_PTR l.val) Fld.HIF_CQ_PTR_TAIL = s.gf (Reg.HIF_CQ_PTR l.val) Fld.HIF_CQ_PTR_TAIL ∧
      ∀ a, a ≠ Reg.HIF_CQ_PTR l.val → t.rr a = s.rr a) ∧
    (∃ t, exec (.flr (some l)) s = .next t ∧ t.ringEn (.sq l) = false ∧ t.ringEn (.cq l) = false ∧ (t.ringsOf l.val).copies = [] ∧
      (t.ringsOf l.val).subs = [] ∧ (t.ringsOf l.val).open_ = [] ∧ 1 + l.val ∈ t.masked ∧ t.rbit Reg.HIF_FLAG 6 = true) ∧
    (∃ t, exec (.flr none) s = .next t ∧ 0 ∈ t.masked ∧ t.mem = s.mem ∧ t.rbit Reg.HIF_FLAG 6 = true) ∧
    (exec .configurationRequest s = .next { s with answer := [if s.step2 = true then 0 else 2] })

/-- H2D, D2H and NOP take the next entry of their type, else do nothing; a copy that is taken joins the lodging's copies, one that fails its check completes as KIND 4 with its status, and leaves memory; an unlisted type completes with FORMAT; a NOP with no entry open completes. The submission HEAD moves on by one. COPY_COMPLETE puts the copy's units to the regulator the first time (the copy stays while they wait); of an H2D whose units have passed it gives a KIND 3 record with all bytes, or with its error, and of a D2H with all bytes when no unit is uncorrectable; the oldest copy is gone. COMPLETION_WRITE puts the oldest completion at TAIL of a ring with room and moves TAIL on, and waits with CQ_STALL at a full one. MSIX_MODERATION sends the message that is due, and nothing else. A bounce record moves HEAD on; without a session it completes NOT_READY, one that does not open sets SESS_FAIL; neither writes memory. -/
def Obligations.HostEntriesCopiesAndCompletions : Prop :=
  ∀ (l : Fin 16) (s : State) (hs units : Nat),
    let r := s.ringsOf l.val
    let headNext (t : State) : Prop := s.conf l.val = false → t.gf (Reg.HIF_SQ_PTR l.val) Fld.HIF_SQ_PTR_HEAD =
      (s.gf (Reg.HIF_SQ_PTR l.val) Fld.HIF_SQ_PTR_HEAD + 1) % 2 ^ s.gf (Reg.HIF_SQ_CFG l.val) Fld.HIF_SQ_CFG_LOG2 % 2 ^ 16
    (s.nextSub l.val = none → exec (.h2d l) s = .next s ∧ exec (.d2h l) s = .next s ∧ exec (.sqNop l) s = .next s) ∧
    (∀ e, s.nextSub l.val = some e →
      (e.ty ≠ 3 ∨ 4 ≤ r.copies.length → exec (.h2d l) s = .next s) ∧ (e.ty ≠ 4 ∨ 4 ≤ r.copies.length → exec (.d2h l) s = .next s) ∧
      ((s.conf l.val = true → (s.sessOf l.val).isSome = true) → r.copies.length < 4 →
        ∀ i ∈ [(3, Instr.h2d l), (4, .d2h l)], e.ty = i.1 → ∃ t, exec i.2 s = .next t ∧ headNext t ∧ t.mem = s.mem ∧
          (s.copyCheck l.val e = St.ok → (t.ringsOf l.val).copies = r.copies ++ [⟨r.taken, e, 0, false⟩]) ∧
          (s.copyCheck l.val e ≠ St.ok → (t.ringsOf l.val).copies = r.copies ∧ ∃ more,
            (t.ringsOf l.val).hold = r.hold ++ ⟨4, kind4 (s.copyCheck l.val e) e.tag, e.idx⟩ :: more)) ∧
      ((s.conf l.val = true → (s.sessOf l.val).isSome = true) →
        (e.ty = 5 → e.badPlain = false → r.open_ = [] → r.nops = [] → ∃ t, exec (.sqNop l) s = .next t ∧ headNext t ∧ t.mem = s.mem ∧
          (t.ringsOf l.val).hold = r.hold ++ [⟨4, kind4 St.ok e.tag, e.idx⟩]) ∧
        (e.ty = 0 ∨ 5 < e.ty → ∃ t, exec (.sqNop l) s = .next t ∧ headNext t ∧ t.mem = s.mem ∧
          ∃ more, (t.ringsOf l.val).hold = r.hold ++ ⟨4, kind4 St.format e.tag, e.idx⟩ :: more)) ∧
      (e.ty ≠ 5 → e.ty ≠ 0 → e.ty ≤ 5 → exec (.sqNop l) s = .next s)) ∧
    (r.copies = [] → exec (.copyComplete l hs units) s = .next s) ∧
    (∀ c rest, r.copies = c :: rest → ∃ t, exec (.copyComplete l hs units) s = .next t ∧
      ((t.ringsOf l.val).copies = rest ∨ ∃ c', (t.ringsOf l.val).copies = c' :: rest ∧ c'.paid = true ∧ c'.e = c.e)) ∧
    (∀ c rest, r.copies = c :: rest → c.paid = true → s.owes l.val .host = false → c.e.ty ≠ 3 → s.conf l.val = false →
      r.hold.length < 256 → ∃ t, exec (.copyComplete l hs units) s = .next t ∧ (t.ringsOf l.val).copies = rest ∧
      let o := s.copyOut l.val ((s.region l.val c.e.reg).base + c.e.off) c.e.host (c.e.len / 64)
      ∃ more, (t.ringsOf l.val).hold = r.hold ++
        ⟨3, kind3 (if o.2.2 = true then St.integrity else St.ok) c.e.ty c.e.tag (64 * o.2.1), c.e.idx⟩ :: more) ∧
    (∀ c rest, r.copies = c :: rest → c.paid = true → s.owes l.val .host = false → c.e.ty = 3 → r.hold.length < 256 → ∃ t, exec (.copyComplete l hs units) s = .next t ∧
      (t.ringsOf l.val).copies = rest ∧ (hs ≠ 0 → t.rbit Reg.HIF_FLAG 4 = true) ∧ ∃ more, (t.ringsOf l.val).hold = r.hold ++
        ⟨3, kind3 (if hs = 0 then St.ok else if hs = 1 then St.failed else St.integrity) 3 c.e.tag
          (if hs = 0 then c.e.len else 64 * min units (c.e.len / 64)), c.e.idx⟩ :: more) ∧
    (r.hold = [] ∨ s.gf (Reg.HIF_CQ_CFG l.val) Fld.HIF_CQ_CFG_EN = 0 ∨ (s.conf l.val = true ∧ s.sessOf l.val = none) →
      exec (.completionWrite l) s = .next s) ∧
    (∀ c rest, r.hold = c :: rest → s.gf (Reg.HIF_CQ_CFG l.val) Fld.HIF_CQ_CFG_EN ≠ 0 →
      (s.conf l.val = true → (s.sessOf l.val).isSome = true) →
      (s.cqFull l.val = true → r.stalled = true → exec (.completionWrite l) s = .next s) ∧
      (s.cqFull l.val = true → r.stalled = false → ∃ t, exec (.completionWrite l) s = .next t ∧ t.rbit Reg.HIF_FLAG 1 = true ∧
        (t.ringsOf l.val).hold = r.hold ∧ t.host = s.host) ∧
      (s.cqFull l.val = false → ∃ t, exec (.completionWrite l) s = .next t ∧ (t.ringsOf l.val).hold = rest ∧ t.mem = s.mem ∧
        (t.ringsOf l.val).seq = (r.seq + 1) % 2 ^ 32 ∧
        t.gf (Reg.HIF_CQ_PTR l.val) Fld.HIF_CQ_PTR_TAIL = (s.gf (Reg.HIF_CQ_PTR l.val) Fld.HIF_CQ_PTR_TAIL + 1) %
          2 ^ s.gf (Reg.HIF_CQ_CFG l.val) Fld.HIF_CQ_CFG_LOG2 % 2 ^ 16 ∧
        (s.conf l.val = false → t.hrdLE (s.cqAddr l.val) 64 = c.entry r.phase r.seq % 2 ^ 512))) ∧
    ((∀ x, r.msgAt = some x → r.msgDue = false ∨ s.cycle < x + 600 * s.gf (Reg.HIF_CQ_CFG l.val) Fld.HIF_CQ_CFG_MOD) →
      exec (.msixModeration l) s = .next s) ∧
    (∀ x, r.msgAt = some x → r.msgDue = true → x + 600 * s.gf (Reg.HIF_CQ_CFG l.val) Fld.HIF_CQ_CFG_MOD ≤ s.cycle →
      ∃ t, exec (.msixModeration l) s = .next t ∧ (t.ringsOf l.val).msgDue = false ∧ t.regs = s.regs ∧
        t.msgs = if s.masked.contains (1 + l.val) = true then s.msgs else s.msgs ++ [(1 + l.val, 0)]) ∧
    (let hd := s.gf (Reg.HIF_SQ_PTR l.val) Fld.HIF_SQ_PTR_HEAD
     let due : Prop := s.conf l.val = true ∧ s.gf (Reg.HIF_SQ_CFG l.val) Fld.HIF_SQ_CFG_EN ≠ 0 ∧
       hd ≠ s.gf (Reg.HIF_SQ_PTR l.val) Fld.HIF_SQ_PTR_TAIL ∧ r.hold.length < 192
     let rec_ := (List.range 4096).map fun i =>
       s.hb (s.hostBase (Reg.HIF_SQ_BASE_LO l.val) (Reg.HIF_SQ_BASE_HI l.val) + 4096 * hd + i)
     (¬ due → exec (.bounceRecord l) s = .next s) ∧
     (due → s.sessOf l.val = none → ∃ t, exec (.bounceRecord l) s = .next t ∧ t.mem = s.mem ∧
       t.gf (Reg.HIF_SQ_PTR l.val) Fld.HIF_SQ_PTR_HEAD = (hd + 1) % 2 ^ s.gf (Reg.HIF_SQ_CFG l.val) Fld.HIF_SQ_CFG_LOG2 % 2 ^ 16 ∧
       (t.ringsOf l.val).hold = r.hold ++ [⟨4, kind4 St.notReady (ofBytes ((rec_.drop 0x18).take 8)), hd⟩]) ∧
     (∀ x, due → s.sessOf l.val = some x → Config.bounceOpen x.key rec_ = none → ∃ t, exec (.bounceRecord l) s = .next t ∧
       t.mem = s.mem ∧ t.rbit Reg.SEC_FLAG 3 = true ∧
       t.gf (Reg.HIF_SQ_PTR l.val) Fld.HIF_SQ_PTR_HEAD = (hd + 1) % 2 ^ s.gf (Reg.HIF_SQ_CFG l.val) Fld.HIF_SQ_CFG_LOG2 % 2 ^ 16 ∧
       (t.ringsOf l.val).hold = r.hold ++ [⟨4, kind4 St.integrity (ofBytes ((rec_.drop 0x18).take 8)), hd⟩]))

/-- LINK_TRAIN of a link that trains: FAILED with REF_OFFSET beyond 200 ppm, FAILED without enough lanes, FAILED with INTEGRITY and LINK_AUTH when the peer does not pass, else UP or DEGRADED with its width, authenticated, in a session number over both old ones. A FAILED enabled link trains again after 100 ms; RETRAIN by a requester that reaches it starts training. A data flit with a bad CRC is counted and asked for again; a good one that is next is counted once. NAK, and 4 µs without an acknowledgement, make a retry. A record with a bad tag or number is discarded once, and the second fails the link; a good one is applied. An operation unanswered for 1 ms ends with TIMEOUT. After a record or a time-out the page functions that waited for it go on (kvSettle). None of these does anything where its occasion is not there. -/
def Obligations.DeviceLinksTrainAndCarry : Prop :=
  ∀ (k : Fin 4) (s : State),
    (∀ (ppm : Int) (lanesOk certs mfg : Bool) (digest peerS : Nat),
      (s.linkSt k.val ≠ 1 → exec (.linkTrain k ppm lanesOk certs mfg digest peerS) s = .next s) ∧
      (s.linkSt k.val = 1 → ∃ t, exec (.linkTrain k ppm lanesOk certs mfg digest peerS) s = .next t ∧
        let w := linkWidth (s.linkOf k.val).lanes (s.linkPin k.val)
        (200 < ppm.natAbs → t.linkSt k.val = 4 ∧ t.rbit Reg.DLK_FLAG 5 = true ∧ t.rbit Reg.DLK_FLAG 4 = true) ∧
        (ppm.natAbs ≤ 200 → lanesOk = false ∨ w = 0 → t.linkSt k.val = 4 ∧ t.rbit Reg.DLK_FLAG 4 = true) ∧
        (ppm.natAbs ≤ 200 → lanesOk = true → w ≠ 0 → s.linkAuth k.val certs mfg digest = false → t.linkSt k.val = 4 ∧
          t.gf (Reg.DLK_STAT k.val) Fld.DLK_STAT_LAST_STATUS = St.integrity ∧
          t.gf (Reg.SEC_LINK k.val) Fld.SEC_LINK_AUTH_OK = 0 ∧ t.rbit Reg.SEC_FLAG 2 = true) ∧
        (ppm.natAbs ≤ 200 → lanesOk = true → w ≠ 0 → s.linkAuth k.val certs mfg digest = true →
          t.linkSt k.val = (if w = 8 then 2 else 3) ∧ t.gf (Reg.DLK_STAT k.val) Fld.DLK_STAT_WIDTH = w ∧
          t.gf (Reg.SEC_LINK k.val) Fld.SEC_LINK_AUTH_OK = 1 ∧ (t.linkOf k.val).s = max (s.linkOf k.val).s peerS + 1))) ∧
    (s.linkSt k.val ≠ 4 ∨ s.linkEn k.val = false ∨ s.cycle < (s.linkOf k.val).at_ + 60000000 → exec (.linkTrainRetry k) s = .next s) ∧
    (s.linkSt k.val = 4 → s.linkEn k.val = true → (s.linkOf k.val).at_ + 60000000 ≤ s.cycle →
      ∃ t, exec (.linkTrainRetry k) s = .next t ∧ t.linkSt k.val = 1 ∧ t.mem = s.mem) ∧
    (∀ who, s.reach who (Reg.DLK_CTL k.val) true = true →
      (s.linkEn k.val = false ∨ s.linkSt k.val = 1 → exec (.retrain who k) s = .next s) ∧
      (s.linkEn k.val = true → s.linkSt k.val ≠ 1 → ∃ t, exec (.retrain who k) s = .next t ∧ t.linkSt k.val = 1 ∧ t.mem = s.mem ∧
        t.linkTx = s.linkTx)) ∧
    (∀ (ok : Bool) (seq ack : BitVec 12) (idle : Bool) (lane : Option (Fin 9)),
      (s.linkLive k.val = false → exec (.dataFlitRx k ok seq ack idle lane) s = .next s) ∧
      (s.linkLive k.val = true → ok = false → (s.linkOf k.val).nak = false → ∃ t, exec (.dataFlitRx k ok seq ack idle lane) s = .next t ∧
        t.rr (Reg.DLK_CRC_ERR k.val) = s.rr (Reg.DLK_CRC_ERR k.val) + 1 ∧ t.mem = s.mem ∧
        t.linkOf k.val = { s.linkOf k.val with nak := true }) ∧
      (s.linkLive k.val = true → ok = false → (s.linkOf k.val).nak = true → ∃ t, exec (.dataFlitRx k ok seq ack idle lane) s = .next t ∧
        t.rr (Reg.DLK_CRC_ERR k.val) = s.rr (Reg.DLK_CRC_ERR k.val) + 1 ∧ t.rr (Reg.REL_LAST_CNT 9) = s.rr (Reg.REL_LAST_CNT 9) + 1 ∧
        (lane = none → t.linkSt k.val = 1)) ∧
      (s.linkLive k.val = true → ok = true → ∃ t, exec (.dataFlitRx k ok seq ack idle lane) s = .next t ∧ t.mem = s.mem ∧
        (idle = false → seq.toNat = (s.linkOf k.val).rx % 4096 → (t.linkOf k.val).rx = (s.linkOf k.val).rx + 1 ∧
          (t.linkOf k.val).nak = false) ∧
        (idle = true ∨ seq.toNat ≠ (s.linkOf k.val).rx % 4096 → (t.linkOf k.val).rx = (s.linkOf k.val).rx))) ∧
    (∀ (ok : Bool) (ack : BitVec 12) (nak : Bool) (c0 c1 : Nat),
      (ok = false ∨ s.linkLive k.val = false → exec (.controlFlitRx k ok ack nak c0 c1) s = .next s) ∧
      (ok = true → s.linkLive k.val = true → ∃ t, exec (.controlFlitRx k ok ack nak c0 c1) s = .next t ∧ t.mem = s.mem ∧
        (t.linkOf k.val).credit = (c0, c1) ∧
        (nak = true → t.rr (Reg.DLK_RETRY k.val) = s.rr (Reg.DLK_RETRY k.val) + 1 ∧ t.rbit Reg.DLK_FLAG 1 = true) ∧
        (nak = false → t.regs = s.regs))) ∧
    (let due : Prop := s.linkLive k.val = true ∧ tget (fun _ => []) s.linkTx k.val ≠ [] ∧ (s.linkOf k.val).ackAt + 2400 ≤ s.cycle
     (¬ due → exec (.ackTimeout k) s = .next s) ∧
     (due → ∃ t, exec (.ackTimeout k) s = .next t ∧ t.rr (Reg.DLK_RETRY k.val) = s.rr (Reg.DLK_RETRY k.val) + 1 ∧
       t.rbit Reg.DLK_FLAG 1 = true ∧ t.mem = s.mem ∧ (t.linkOf k.val).ackAt = s.cycle)) ∧
    (∀ (tag : Bool) (seq kind : Nat) (last : Bool) (src dst : Fin 16) (reg status op addr : Nat) (data : List Byte),
      let i := Instr.linkRecordRx k tag seq kind last src dst reg status op addr data
      (s.linkLive k.val = false → exec i s = .next s) ∧
      (s.linkLive k.val = true → tag = false ∨ seq ≠ (s.linkOf k.val).rxRec → (s.linkOf k.val).badRec = false →
        exec i s = .next (s.setLink k.val fun x => { x with badRec := true })) ∧
      (s.linkLive k.val = true → tag = false ∨ seq ≠ (s.linkOf k.val).rxRec → (s.linkOf k.val).badRec = true →
        ∃ t, exec i s = .next t ∧ t.linkSt k.val = 4 ∧ t.rbit Reg.SEC_FLAG 2 = true ∧ t.mem = s.mem) ∧
      (s.linkLive k.val = true → tag = true → seq = (s.linkOf k.val).rxRec → exec i s = .next
        ((s.setLink k.val fun x => { x with
          rxRec := x.rxRec + 1
          badRec := false }).rxRecord k.val ⟨kind, last, src.val, dst.val, reg, status, op, addr, data⟩).kvSettle)) ∧
    (∀ op : Nat, (s.opOf k.val op = none → exec (.linkOpTimeout k op) s = .next s) ∧
      (∀ o, s.opOf k.val op = some o → (s.cycle < o.since + 600000 → exec (.linkOpTimeout k op) s = .next s) ∧
        (o.since + 600000 ≤ s.cycle → ∃ t, exec (.linkOpTimeout k op) s = .next t.kvSettle ∧ t = s.opFail o St.timeout ∧ o ∉ t.linkOps ∧
          t.mem = s.mem ∧ t.regs = s.regs)))

/-- A command of the SMBus port completes on s: it leaves u, but for the status it counts, and answers. -/
def SmbSays (i : Instr) (s u : State) (st : Nat) (data : List Byte) : Prop :=
  Yields i s { u with answer := BitVec.ofNat 8 st :: data }

/-- No SMBus command has an effect or an answer in reset; one whose PEC fails answers INTEGRITY and sets SMB_PEC and nothing else. IDENT, TELEMETRY, FLASH_STATUS and FLASH_READ answer what R607 lists, and change nothing but the counters of the status. A register access of no register, or unaligned, answers BOUNDS; else it reads or writes with the port's access. A program or an erase outside its ranges is refused, of a locked bank PERMISSION, while one runs BUSY; one that is taken runs until FLASH_OP_DONE, which ANDs the programmed bytes into the flash, or erases 4,096 bytes to 0xFF, and nothing outside them. ALERT_RESPONSE answers the port's address. -/
def Obligations.SmbusCommands : Prop :=
  ∀ (s : State) (off v : Word) (n : Byte) (data : List Byte) (ok : Bool),
    (s.inReset = true → ∀ p : Bool, ∀ i ∈ [Instr.ident p, .telemetry p, .regRead p off, .regWrite p off v, .flashRead p off n,
      .flashProgram p off data, .flashErase p off, .flashStatus p, .alertResponse], exec i s = .next s) ∧
    (s.inReset = false →
      (∀ i ∈ [Instr.ident false, .telemetry false, .regRead false off, .regWrite false off v, .flashRead false off n,
        .flashProgram false off data, .flashErase false off, .flashStatus false],
        ∃ t u, exec i s = .next t ∧ s.Notes u ∧ t = { u with answer := [BitVec.ofNat 8 St.integrity] } ∧ t.rbit Reg.HIF_FLAG 7 = true) ∧
      (SmbSays (.ident true) s s St.ok ([0xB0, 0, BitVec.ofNat 8 (s.gf Reg.SEC_LC Fld.SEC_LC_STATE),
        BitVec.ofNat 8 (s.gf Reg.PWR_BOOT Fld.PWR_BOOT_STATE), BitVec.ofNat 8 (s.gf Reg.SEC_LC Fld.SEC_LC_SVN)] ++ idDigest.take 16)) ∧
      (SmbSays (.telemetry true) s s St.ok (bytesLE 4 (s.rr Reg.PWR_THERM).toNat ++ bytesLE 4 (s.rr Reg.PWR_VDD).toNat ++
        bytesLE 4 (s.rr Reg.PWR_POWER).toNat ++ bytesLE 4 (s.rr Reg.PWR_FLAG).toNat ++ bytesLE 4 (s.rr Reg.REL_FLAG).toNat)) ∧
      (SmbSays (.flashStatus true) s s St.ok [if s.flashOp.isSome then 1 else 0, BitVec.ofNat 8 s.flashStat]) ∧
      (exec .alertResponse s = .next { s with answer := [BitVec.ofNat 8 (0x40 + s.gf Reg.PWR_STRAP Fld.PWR_STRAP_SMBADDR)] }) ∧
      (s.smbBounds off.toNat = true → SmbSays (.regRead true off) s s St.bounds (bytesLE 4 0) ∧
        SmbSays (.regWrite true off v) s s St.bounds []) ∧
      (s.smbBounds off.toNat = false → SmbSays (.regRead true off) s ((s.busRead .smbus off.toNat).1.returns .smbus (s.busRead .smbus off.toNat).2) St.ok
          (bytesLE 4 (s.busRead .smbus off.toNat).2.toNat) ∧
        SmbSays (.regWrite true off v) s (s.busWrite .smbus off.toNat fullMask v) St.ok []) ∧
      (n = 0 ∨ 240 < n.toNat ∨ s.flashSize < off.toNat + n.toNat → SmbSays (.flashRead true off n) s s St.bounds []) ∧
      (n ≠ 0 → n.toNat ≤ 240 → off.toNat + n.toNat ≤ s.flashSize →
        SmbSays (.flashRead true off n) s s St.ok (s.flBytes off.toNat n.toNat)) ∧
      (let locked (len : Nat) : Bool := s.bankLocked && s.inBank off.toNat len
       let badP : Prop := data = [] ∨ 240 < data.length ∨ 256 < off.toNat % 256 + data.length ∨ s.flashSize < off.toNat + data.length
       let badE : Prop := off.toNat % 4096 ≠ 0 ∨ s.flashSize < off.toNat + 4096
       (locked data.length = true → SmbSays (.flashProgram true off data) s s St.permission []) ∧
       (locked data.length = false → badP → SmbSays (.flashProgram true off data) s s St.bounds []) ∧
       (locked data.length = false → ¬ badP → s.flashOp.isSome = true → SmbSays (.flashProgram true off data) s s St.busy []) ∧
       (locked data.length = false → ¬ badP → s.flashOp = none → SmbSays (.flashProgram true off data) s { s with flashOp := some (.program off.toNat data) } St.ok []) ∧
       (locked 4096 = true → SmbSays (.flashErase true off) s s St.permission []) ∧
       (locked 4096 = false → badE → SmbSays (.flashErase true off) s s St.bounds []) ∧
       (locked 4096 = false → ¬ badE → s.flashOp.isSome = true → SmbSays (.flashErase true off) s s St.busy []) ∧
       (locked 4096 = false → ¬ badE → s.flashOp = none →
         SmbSays (.flashErase true off) s { s with flashOp := some (.erase off.toNat) } St.ok []))) ∧
    (s.flashOp = none → exec (.flashOpDone ok) s = .next s) ∧
    (∀ a bs, s.flashOp = some (.program a bs) → ∃ t, exec (.flashOpDone ok) s = .next t ∧ t.flashOp = none ∧ t.regs = s.regs ∧
      t.mem = s.mem ∧ (ok = true → t.flashStat = St.ok ∧ ∀ j b, bs[j]? = some b → t.fl (a + j) = s.fl (a + j) &&& b) ∧
      (ok = false → t.flashStat = St.failed) ∧ ∀ x, x < a ∨ a + bs.length ≤ x → t.fl x = s.fl x) ∧
    (∀ a, s.flashOp = some (.erase a) → ∃ t, exec (.flashOpDone ok) s = .next t ∧ t.flashOp = none ∧ t.regs = s.regs ∧
      t.mem = s.mem ∧ (ok = true → t.flashStat = St.ok ∧ ∀ x, a ≤ x → x < a + 4096 → t.fl x = 0xFF) ∧
      (ok = false → t.flashStat = St.failed) ∧ ∀ x, x < a ∨ a + 4096 ≤ x → t.fl x = s.fl x)

/-- TAP_RESET, IDCODE, SAMPLE/PRELOAD and BYPASS select their instruction and change nothing else of the chip; IDCODE answers 0x109605AB. EXTEST, CLAMP and HIGHZ take effect with no lodging bound, in NO_IMAGE or in test hold; else BYPASS is selected and BSCAN_REFUSED set. A debug access in reset has no effect. One outside the grant, unaligned, in a hole or of a unit that is off or not halted ends with the status R12 chooses, ACC_ERR, and nothing else changed; a permitted read of memory brings the bytes of the region's lodging, a permitted write of memory stores four bytes. DBGACC_READ_NEXT reads at the previous address plus 4. -/
def Obligations.TestPortAndAccessRegister : Prop :=
  ∀ (s : State) (bits : List Bool) (a : BitVec 48) (v : Word),
    (exec .tapReset s = .next { s with tapIr := 2 }) ∧ (exec .bypass s = .next { s with tapIr := 0xFF }) ∧
    (exec (.samplePreload bits) s = .next { s with
      tapIr := 1
      bsr := bits }) ∧
    (exec .idcode s = .next { s with
      tapIr := 2
      answer := [0xAB, 0x05, 0x96, 0x10] }) ∧
    (((∀ l, l < 16 → s.bound l = false) ∨ s.gf Reg.PWR_BOOT Fld.PWR_BOOT_STATE = 2 ∨ s.testHold = true) →
      exec (.extest bits) s = .next { s with
        tapIr := 0
        bsr := bits } ∧
      exec .clamp s = .next { s with tapIr := 3 } ∧ exec .highz s = .next { s with tapIr := 4 }) ∧
    ((∃ l, l < 16 ∧ s.bound l = true) → s.gf Reg.PWR_BOOT Fld.PWR_BOOT_STATE ≠ 2 → s.testHold = false →
      ∀ i ∈ [Instr.extest bits, .clamp, .highz], ∃ t u, exec i s = .next t ∧ s.Notes u ∧ t = { u with tapIr := 0xFF } ∧
        t.rbit Reg.DBG_FLAG 3 = true) ∧
    (s.inReset = true → ∀ i ∈ [Instr.dbgaccRead a, .dbgaccWrite a v, .dbgaccReadNext], exec i s = .next s) ∧
    (s.inReset = false →
      (∀ (i : Instr) (x : Nat) (al : Bool), (i = .dbgaccRead a ∧ x = a.toNat ∧ al = (a.toNat % 4 == 0)) ∨
          (i = .dbgaccReadNext ∧ x = (s.dbgAcc.addr + 4) % 2 ^ 48 ∧ al = true) →
        (∀ st, s.dbgCheck x al false = st → st ≠ St.ok → ∃ t u, exec i s = .next t ∧ s.Notes u ∧
          t = { u with
                dbgAcc := t.dbgAcc
                answer := t.answer } ∧ t.dbgAcc.data = 0 ∧ t.dbgAcc.st = st ∧ t.rbit Reg.DBG_FLAG 2 = true) ∧
        (s.place x ≠ .control → s.dbgCheck x al false = St.ok →
          ∃ t, exec i s = .next t ∧ t.mem = (s.getBytes ((s.dbgRegion x).getD 0) x 4).1.mem ∧
            t.dbgAcc.addr = x ∧ t.dbgAcc.data = BitVec.ofNat 32 (s.getBytes ((s.dbgRegion x).getD 0) x 4).2.1 ∧
            t.dbgAcc.st = if (s.getBytes ((s.dbgRegion x).getD 0) x 4).2.2 = true then St.integrity else St.ok) ∧
        (s.place x = .control → s.dbgCheck x al false = St.ok →
          ∃ t, exec i s = .next t ∧ t.mem = (s.busRead .dbg (ctlOff x)).1.mem ∧ t.dbgAcc.addr = x ∧ t.dbgAcc.st = St.ok ∧
            t.dbgAcc.data = (s.busRead .dbg (ctlOff x)).2 ∧
            ∀ q, noteReg q = false → t.rr q = (s.busRead .dbg (ctlOff x)).1.rr q)) ∧
      (∀ st, s.dbgCheck a.toNat (a.toNat % 4 == 0) true = st → st ≠ St.ok → ∃ t u, exec (.dbgaccWrite a v) s = .next t ∧ s.Notes u ∧
        t = { u with
              dbgAcc := t.dbgAcc
              answer := t.answer } ∧ t.dbgAcc.data = s.dbgAcc.data ∧ t.dbgAcc.st = st ∧ t.rbit Reg.DBG_FLAG 2 = true) ∧
      (s.place a.toNat ≠ .control → s.dbgCheck a.toNat (a.toNat % 4 == 0) true = St.ok →
        ∃ t, exec (.dbgaccWrite a v) s = .next t ∧ t.mem = (s.put ((s.dbgRegion a.toNat).getD 0) a.toNat 4 v.toNat).mem ∧
          t.dbgAcc.addr = a.toNat ∧ t.dbgAcc.data = s.dbgAcc.data ∧ t.dbgAcc.st = St.ok) ∧
      (s.place a.toNat = .control → s.dbgCheck a.toNat (a.toNat % 4 == 0) true = St.ok →
        (blockOf (ctlOff a.toNat) ≠ 0xF ∨ (cntOf (ctlOff a.toNat)).isSome = true) →
        ∃ t, exec (.dbgaccWrite a v) s = .next t ∧
          (∀ q, noteReg q = false → t.rr q = (s.busWrite .dbg (ctlOff a.toNat) fullMask v).rr q) ∧
          t.dbgAcc.addr = a.toNat ∧ t.dbgAcc.st = St.ok) ∧
      (s.place a.toNat = .control → s.dbgCheck a.toNat (a.toNat % 4 == 0) true = St.ok →
        blockOf (ctlOff a.toNat) = 0xF → cntOf (ctlOff a.toNat) = none →
        ∃ t, exec (.dbgaccWrite a v) s = .next t ∧
          (∀ q, noteReg q = false → t.rr q = (s.dbgWrite .dbg (ctlOff a.toNat) v).1.rr q) ∧
          t.dbgAcc.addr = a.toNat ∧ t.dbgAcc.st = (s.dbgWrite .dbg (ctlOff a.toNat) v).2))

/-- One integer accumulation into a row (a complex row is two such): with p the row's previous value (0 for a fresh row) and g the cycle's group sum of products, the row takes p + g when it lies from -2^39 to 2^39 - 1, with no ACC_SAT; 2^39 - 1 above that range, -2^39 below it, each with the event that sets ACC_SAT of the core's TC.AFLAG. The residue predicted from the operands agrees with the sum's, and the row written holds the residue of its bits; RESIDUE shows only when a row read holds a wrong one (R52). A saturated row is an ordinary previous value: adding a sum of the opposite sign gives their exact sum again. -/
def Obligations.AccumulatorRowsSaturate : Prop :=
  ∀ (old : AccCell) (fresh : Bool) (ps : List (Int × Int)),
    let p : Int := if fresh = true then 0 else old.v.toInt
    let g : Int := dotInt ps
    let c := accInt old fresh ps
    let bad : Nat := if fresh = true ∨ old.good = true then Ev.none else Ev.residue
    (-(2 : Int) ^ 39 ≤ p + g → p + g ≤ 2 ^ 39 - 1 → c.1.v.toInt = p + g ∧ c.2 = bad) ∧
    (2 ^ 39 - 1 < p + g → c.1.v.toInt = 2 ^ 39 - 1 ∧ c.2 = Ev.accSat ||| bad) ∧
    (p + g < -(2 : Int) ^ 39 → c.1.v.toInt = -(2 : Int) ^ 39 ∧ c.2 = Ev.accSat ||| bad) ∧
    (bad = Ev.none → c.1.good = true) ∧
    (∀ qs : List (Int × Int), 2 ^ 39 - 1 < p + g → dotInt qs ≤ 0 → -(2 : Int) ^ 39 ≤ 2 ^ 39 - 1 + dotInt qs →
      (accInt c.1 false qs).1.v.toInt = 2 ^ 39 - 1 + dotInt qs ∧ (accInt c.1 false qs).2 = Ev.none) ∧
    (∀ qs : List (Int × Int), p + g < -(2 : Int) ^ 39 → 0 ≤ dotInt qs → -(2 : Int) ^ 39 + dotInt qs ≤ 2 ^ 39 - 1 →
      (accInt c.1 false qs).1.v.toInt = -(2 : Int) ^ 39 + dotInt qs ∧ (accInt c.1 false qs).2 = Ev.none) ∧
    (∀ (s : State) (x : Ctx), (s.arithFlags x Ev.accSat).rbit (Reg.TC_AFLAG x.c) 0 = true)

/-- The codes 0x0 to 0x7 of FP4 E2M1 read as 0, 0.5, 1.0, 1.5, 2.0, 3.0, 4.0 and 6.0 (twice each value is the whole number listed); code 0x1, the only subnormal, is consumed by an engine input as it stands, with no flush, and each code is produced again from its value with no event. -/
def Obligations.Fp4CodesHaveTheirValues : Prop :=
  ∀ x v, (x, v) ∈ [(0, 0), (1, 1), (2, 2), (3, 3), (4, 4), (5, 6), (6, 8), (7, 12)] →
    ∃ (m : Nat) (e : Int), decRaw 13 x = .fin false m e ∧ 0 ≤ e + 1 ∧ m * 2 ^ (e + 1).toNat = (v : Nat) ∧
      decIn 13 x = (decRaw 13 x, 0) ∧ convTo 13 (decRaw 13 x) = (x, 0)

/-- A requester may make a steering write of a time base: it reaches the register and it steers the time base (R437). -/
def maySteer (s : State) (who : Requester) (off t : Nat) : Prop := s.reach who off true = true ∧ s.steers who t = true

/-- A carrier other than c keeps what it has; a time base other than t keeps what it has; device and host memory stay. -/
def OtherTimeStays (s u : State) (t : Nat) : Prop :=
  (∀ k, k ≠ t → u.tbOf k = s.tbOf k) ∧ u.mem = s.mem ∧ u.host = s.host ∧ u.cycle = s.cycle

/-- By a requester that may steer, on a RUNNING time base with pending = new amount + remaining slew: ADJUST with no override and |pending| at most JUMP_LIMIT makes pending the remaining slew, status OK; beyond the limit nothing of the time base changes, LAST_STATUS is JUMP_REFUSED and the time base's JUMP_REFUSED flag is set; with the override armed (and no carrier enabled, whose slots R293 would end) it steps by pending in one tick, the slew becomes 0 and the override disarms. SET with nanoseconds below 10^9 on a STOPPED time base starts it at the SET time in the next tick, status OK. -/
def Obligations.PhaseAdjustmentTable : Prop :=
  ∀ (s : State) (who : Requester) (t : Fin 4), maySteer s who (Reg.TB_OP t.val) t.val →
    (∀ amount : Int, (s.tbOf t.val).running = true →
      amount = (s.rr (Reg.TB_ADJ_NS t.val)).toInt * 2 ^ 32 + ((s.gf (Reg.TB_OPFRAC t.val) Fld.TB_OPFRAC_FRAC * 2 ^ 16 : Nat) : Int) →
      ((s.tbOf t.val).ovr = none → (amount + (s.tbOf t.val).rem).natAbs ≤ s.jumpLimit t.val →
        Yields (.adjust who t) s ((s.setTb t.val fun b => { b with rem := amount + b.rem }).sf (Reg.TB_STAT t.val)
          Fld.TB_STAT_LAST_STATUS St.ok)) ∧
      ((s.tbOf t.val).ovr = none → s.jumpLimit t.val < (amount + (s.tbOf t.val).rem).natAbs →
        Yields (.adjust who t) s (s.sf (Reg.TB_STAT t.val) Fld.TB_STAT_LAST_STATUS St.jumpRefused) ∧
        ∀ u, exec (.adjust who t) s = .next u → u.rbit Reg.TB_FLAG t.val = true) ∧
      ((s.tbOf t.val).ovr ≠ none → (∀ a, a < 8 → s.carOn a = false) → ∃ u, exec (.adjust who t) s = .next u ∧
        (u.tbOf t.val) = { s.tbOf t.val with
          t := ((((s.tbOf t.val).t : Int) + (amount + (s.tbOf t.val).rem)) % tbWrap).toNat, rem := 0, ovr := none } ∧
        u.gf (Reg.TB_STAT t.val) Fld.TB_STAT_LAST_STATUS = St.ok ∧ OtherTimeStays s u t.val)) ∧
    ((s.tbOf t.val).running = false → (s.rr (Reg.TB_SET_NS t.val)).toNat < 1000000000 →
      Yields (.setTb who t) s ((s.setTb t.val fun b => { b with start := some (timeOf
        (s.gf (Reg.TB_SET_SHI t.val) Fld.TB_SET_SHI_SEC_HI) (s.rr (Reg.TB_SET_SLO t.val)).toNat (s.rr (Reg.TB_SET_NS t.val)).toNat
        (s.gf (Reg.TB_OPFRAC t.val) Fld.TB_OPFRAC_FRAC)) }).sf (Reg.TB_STAT t.val) Fld.TB_STAT_LAST_STATUS St.ok))

/-- NOW_FRAC_READ by a requester that reaches the register latches the whole time for that requester alone and returns its fraction. By a requester that may steer: INCR_LO_WRITE is held pending; INCR_HI_WRITE within 500 ppm of the nominal increment on a RUNNING time base applies its low byte with the pending low word, or the fraction in use, from the second tick, with LAST_STATUS OK; ARM_OVR arms the override. OVERRIDE_EXPIRY disarms it 10 s (6 x 10^9 CTL cycles) after arming and not before. Nothing else changes. When the next tick of a time base ends its slew, SLEW_COMPLETE is that CTL cycle: afterwards the remaining slew is 0 and the time has advanced by the increment and the remainder. When the next CTL cycle carries a counter of clock cycles past 2^48, CYCLE_COUNTER_WRAP is that CTL cycle. -/
def Obligations.TimeBaseLatchIncrementSlewAndWrap : Prop :=
  (∀ (s : State) (who : Requester) (t : Fin 4) (v : Word),
      (s.reach who (Reg.TB_NOW_FRAC t.val) false = true → ∃ u, exec (.nowFracRead who t) s = .next u ∧
        u = { s with tbLatch := u.tbLatch, rdata := u.rdata } ∧
        (∀ w k, u.latchOf w k = if w = who ∧ k = t.val then s.now t.val else s.latchOf w k) ∧
        tget (fun _ => 0) u.rdata (reqIx who) = BitVec.ofNat 32 (tFrac (s.now t.val))) ∧
      (maySteer s who (Reg.TB_INCR_LO t.val) t.val →
        exec (.incrLoWrite who t v) s = .next (s.setTb t.val fun b => { b with lo := some v.toNat })) ∧
      (maySteer s who (Reg.TB_INCR_HI t.val) t.val → (s.tbOf t.val).running = true →
        ∀ new, new = v.toNat % 256 * 2 ^ 32 + (s.tbOf t.val).lo.getD ((s.tbOf t.val).incr % 2 ^ 32) →
        new ≤ 0x1AAAAAAAB + 0x369D03 → 0x1AAAAAAAB ≤ new + 0x369D03 →
        Yields (.incrHiWrite who t v) s ((s.sf (Reg.TB_STAT t.val) Fld.TB_STAT_LAST_STATUS St.ok).setTb t.val fun b =>
          { b with next := some (new, 2), lo := none })) ∧
      (maySteer s who (Reg.TB_OP t.val) t.val →
        exec (.armOvr who t) s = .next (s.setTb t.val fun b => { b with ovr := some s.cycle })) ∧
      (∀ c, (s.tbOf t.val).ovr = some c → exec (.overrideExpiry t) s =
        .next (if s.cycle < c + 6000000000 then s else s.setTb t.val fun b => { b with ovr := none }))) ∧
  (∀ s : State,
      (∀ t : Fin 4, s.alive = true → (s.tbOf t.val).slewEnds (s.slewOf t.val) = true → (s.tbOf t.val).start = none → (s.tbOf t.val).next = none →
        ∃ u, exec (.slewComplete t) s = .next u ∧ u.cycle = s.cycle + 1 ∧ (u.tbOf t.val).rem = 0 ∧
          (u.tbOf t.val).t = (((s.tbOf t.val).t + (s.tbOf t.val).incr + (s.tbOf t.val).rem) % tbWrap : Int).toNat) ∧
      (∀ (b : Fin 66) (i : Fin 8), s.gf (Reg.CNT_SEL b.val i.val) Fld.CNT_SEL_EVENT = 1 →
        2 ^ 48 ≤ s.cntVal b.val i.val + s.blockCycles b.val → exec (.cycleCounterWrap b i) s = .next s.tick))

/-- A requester may write a timing register that an owner holds: it reaches the register and it is the owner (R442, R447). -/
def mayOwn (s : State) (who : Requester) (off : Nat) (owner : Option Nat) : Prop :=
  s.reach who off true = true ∧ s.isOwner who owner = true

/-- For the owner, on a comparator that is not the AIR block's: CMP_ARM with VALID 1 loads compare time and period from the pending registers and arms, with MISSED 0; CMP_DISARM disarms and keeps the rest. CMP_FIRE of an armed comparator whose RUNNING time base reads at least the compare time, with no pin, signal or interrupt action: one-shot disarms; periodic moves on by the least number k of periods that passes the time, MISSED counting k - 1. Before the compare time nothing happens. TRIG_PULSE_END ends the oldest pulse of the comparator whose time is over. -/
def Obligations.ComparatorsArmFireAndDisarm : Prop :=
  ∀ (s : State) (who : Requester) (k : Fin 32), s.cmpAir k.val = false →
    (mayOwn s who (Reg.TB_CMP_CTL k.val) (s.cmpOwner k.val) →
      (s.gf (Reg.TB_CMP_CFG k.val) Fld.TB_CMP_CFG_VALID = 1 → exec (.cmpArm who k) s = .next (s.setCmp k.val fun _ =>
        ⟨true, timeOf (s.gf (Reg.TB_CMP_SHI k.val) Fld.TB_CMP_SHI_SEC_HI) (s.rr (Reg.TB_CMP_SLO k.val)).toNat
            (s.rr (Reg.TB_CMP_NS k.val)).toNat 0,
          (s.rr (Reg.TB_CMP_PER_NS k.val)).toNat * 2 ^ 32 + s.gf (Reg.TB_CMP_PER_FRAC k.val) Fld.TB_CMP_PER_FRAC_FRAC * 2 ^ 16, 0⟩)) ∧
      exec (.cmpDisarm who k) s = .next (s.setCmp k.val fun c => { c with armed := false })) ∧
    ((s.cmpOf k.val).armed = true → s.now (s.cmpTb k.val) < (s.cmpOf k.val).due → exec (.cmpFire k) s = .next s) ∧
    (∀ c now, s.cmpOf k.val = c → s.now (s.cmpTb k.val) = now → c.armed = true → (s.tbOf (s.cmpTb k.val)).running = true → c.due ≤ now →
      s.gf (Reg.TB_CMP_CFG k.val) Fld.TB_CMP_CFG_PIN_EN = 0 → s.gf (Reg.TB_CMP_CFG k.val) Fld.TB_CMP_CFG_SIG_EN = 0 →
      s.gf (Reg.TB_CMP_CFG k.val) Fld.TB_CMP_CFG_IRQ_EN = 0 →
      (c.per = 0 → Yields (.cmpFire k) s (s.setCmp k.val fun _ => { c with armed := false })) ∧
      (∀ n, c.per ≠ 0 → c.due + n * c.per ≤ now → now < c.due + (n + 1) * c.per →
        Yields (.cmpFire k) s (s.setCmp k.val fun _ => { c with due := c.due + (n + 1) * c.per, missed := min 65535 (c.missed + n) }))) ∧
    (∀ p, s.pulses.find? (fun q => q.k == k.val && decide (q.fin ≤ s.cycle)) = some p →
      exec (.trigPulseEnd k) s = .next { s with pulses := s.pulses.erase p })

/-- CAPT_EDGE of a configured edge on a unit with a RUNNING time base, no action and room in its FIFO: SEQ rises by one modulo 2^16 and the entry (a time within 4 ns of the time base, the new SEQ, the edge) joins the FIFO; with the FIFO full SEQ rises, the entry is not stored and CAPT_OVF is set. The owner's POP drops the head. XCAP by the physical function latches fraction, nanoseconds and seconds of every time base. -/
def Obligations.CapturesStoreAndPop : Prop :=
  ∀ (s : State) (i : Fin 8) (fall : Bool) (who : Requester),
    (s.gf (Reg.TB_CAPT_CFG i.val) Fld.TB_CAPT_CFG_VALID = 1 →
      (s.gf (Reg.TB_CAPT_CFG i.val) Fld.TB_CAPT_CFG_EDGE = if fall then 1 else 0) →
      (s.tbOf (s.gf (Reg.TB_CAPT_CFG i.val) Fld.TB_CAPT_CFG_TB)).running = true →
      wbit (s.rr (Reg.TB_CAPT_CFG i.val)) Fld.TB_CMP_CFG_SIG_EN.lo = false → wbit (s.rr (Reg.TB_CAPT_CFG i.val)) Fld.TB_CMP_CFG_IRQ_EN.lo = false →
      ∃ (at_ : Nat) (u : State), exec (.captEdge i fall) s = .next u ∧ (u.captOf i.val).seq = ((s.captOf i.val).seq + 1) % 65536 ∧
        (u.captOf i.val).fifo = (s.captOf i.val).fifo ++
          (if 8 ≤ (s.captOf i.val).fifo.length then [] else [⟨at_, ((s.captOf i.val).seq + 1) % 65536, fall⟩]) ∧
        (∃ e : Int, -(4 * 2 ^ 32) ≤ e ∧ e ≤ 4 * 2 ^ 32 ∧
          at_ = (((s.now (s.gf (Reg.TB_CAPT_CFG i.val) Fld.TB_CAPT_CFG_TB) : Int) + e) % tbWrap).toNat) ∧
        (8 ≤ (s.captOf i.val).fifo.length → u.rbit Reg.TB_FLAG 9 = true) ∧
        (∀ j, j ≠ i.val → u.captOf j = s.captOf j) ∧ u.mem = s.mem ∧ u.tb = s.tb ∧ ∀ a, noteReg a = false → u.rr a = s.rr a) ∧
    (mayOwn s who (Reg.TB_CAPT_CTL i.val) (s.captOwner i.val) →
      exec (.popCapt who i) s = .next (s.setCapt i.val fun c => { c with fifo := c.fifo.tail })) ∧
    (s.reach .pf Reg.TB_XCAP true = true → ∃ u, exec (.xcap .pf) s = .next u ∧ s.RegsOnly u ∧
      (∀ t, t < 4 → u.rr (Reg.TB_XCAP_FRAC t) = BitVec.ofNat 32 (tFrac (s.now t)) ∧ u.rr (Reg.TB_XCAP_NS t) = BitVec.ofNat 32 (tNs (s.now t)) ∧
        u.rr (Reg.TB_XCAP_SLO t) = BitVec.ofNat 32 (tSec (s.now t)) ∧
        u.rr (Reg.TB_XCAP_SHI t) = BitVec.ofNat 32 (tSec (s.now t) / 2 ^ 32)) ∧
      ∀ a, (∀ t, t < 4 → a ≠ Reg.TB_XCAP_FRAC t ∧ a ≠ Reg.TB_XCAP_NS t ∧ a ≠ Reg.TB_XCAP_SLO t ∧ a ≠ Reg.TB_XCAP_SHI t) → u.rr a = s.rr a)

/-- A requester reaches a sync object through a register of the SYNC block (R459). -/
def mayObj (s : State) (who : Requester) (off o : Nat) : Prop := s.reach who off true = true ∧ s.reachObj who o = true

/-- By a requester that reaches the object: SYNC_SIGNAL sets its count to min(count + n, 2^32 - 1), with SAT set when it clamps; SYNC_ARMED_WRITE sets its armed threshold; SYNC_CLEAR sets both to 0. Every other object keeps count and threshold, and both memories stay. From a requester that does not reach the object only flags and counters change, and SYNC.FLAG.DENIED is set. -/
def Obligations.SyncObjectOperations : Prop :=
  ∀ (s : State) (who : Requester) (o : Fin 4096) (n : Fin 1048576) (v : Word),
    (mayObj s who Reg.SYNC_SIGNAL o.val → ∃ t, exec (.syncSignal who o n) s = .next t ∧ t.mem = s.mem ∧ t.host = s.host ∧
      (∀ p, p < 4096 → t.syncArmed p = s.syncArmed p ∧
        t.syncCount p = if p = o.val then min (s.syncCount o.val + n.val) (2 ^ 32 - 1) else s.syncCount p) ∧
      (2 ^ 32 - 1 < s.syncCount o.val + n.val → t.rbit Reg.SYNC_FLAG 0 = true)) ∧
    (mayObj s who (Reg.SYNC_ARMED o.val) o.val → ∃ t, exec (.syncArmedWrite who o v) s = .next t ∧ t.mem = s.mem ∧ t.host = s.host ∧
      ∀ p, p < 4096 → t.syncCount p = s.syncCount p ∧ t.syncArmed p = if p = o.val then v.toNat else s.syncArmed p) ∧
    (mayObj s who Reg.SYNC_CLEAR o.val → ∃ t, exec (.syncClear who o) s = .next t ∧ s.RegsOnly t ∧
      (∀ a, a ≠ Reg.SYNC_COUNT o.val → a ≠ Reg.SYNC_ARMED o.val → t.rr a = s.rr a) ∧ t.syncCount o.val = 0 ∧ t.syncArmed o.val = 0) ∧
    (s.reach who Reg.SYNC_SIGNAL true = true → s.reachObj who o.val = false →
      Yields (.syncSignal who o n) s s ∧ ∀ t, exec (.syncSignal who o n) s = .next t → t.rbit Reg.SYNC_FLAG 1 = true)

/-! ### Tensor-core streams -/

/-- The slot that a stream command concerns, of the partition its core serves. -/
def slotNow (s : State) (c : Fin 32) (sl : Slot) : TcSlot := s.slotOf c.val (s.curPart c.val) sl

/-- Change that slot. -/
def setNow (s : State) (c : Fin 32) (sl : Slot) (f : TcSlot → TcSlot) : State := s.setSlot c.val (s.curPart c.val) sl f

/-- The slot decodes the word now: it runs and waits for nothing, it does not stand at a SEQ match of the debug port, two ring
entries are free, and the word stands, readable, at its place in the buffer (R92, R94, R97, R637). -/
def Decodes (s : State) (c : Fin 32) (sl : Slot) (w : CmdWord) : Prop :=
  s.slotReads c.val sl = true ∧ s.seqMatch c.val sl = false ∧ 2 ≤ (slotNow s c sl).ringFree ∧
    s.poisoned (slotNow s c sl).nextAddr 16 = false ∧ s.rdLE (slotNow s c sl).nextAddr 16 = w.toNat

/-- The state in which a decoded command is checked and issued: the stream stands past it (R127). -/
def past (s : State) (c : Fin 32) (sl : Slot) : State := s.advance (s.ctx c.val sl)

/-- The command asks for no record and no signal, and the debug port does not step the slot. -/
def Quiet (s : State) (c : Fin 32) (sl : Slot) (w : CmdWord) : Prop :=
  cCpl w = false ∧ cSig w = false ∧ (slotNow s c sl).step = false

/-- The stream moves past one command. -/
def TcSlot.step1 (t : TcSlot) : TcSlot := { t with seq := (t.seq + 1) % 2 ^ 32, skipSeq := false }

/-- Every command row of a stream, with its core, its slot and its word. -/
def streamRow (i : Instr) : Option (Fin 32 × Slot × CmdWord) :=
  match i with
  | .nop c sl w => some (c, sl, w)
  | .wait c sl w => some (c, sl, w)
  | .signal c sl w => some (c, sl, w)
  | .arm c sl w => some (c, sl, w)
  | .fence c sl w => some (c, sl, w)
  | .endStream c sl w => some (c, sl, w)
  | .mark c sl w => some (c, sl, w)
  | .brk c sl w => some (c, sl, w)
  | .attach c sl w => some (c, sl, w)
  | .detach c sl w => some (c, sl, w)
  | .mov c sl w => some (c, sl, w)
  | .rot c sl w => some (c, sl, w)
  | .pagePut c sl w => some (c, sl, w)
  | .pageGet c sl w => some (c, sl, w)
  | .pass c sl w => some (c, sl, w)
  | .tile c sl w => some (c, sl, w)
  | .lds c sl w => some (c, sl, w)
  | .drain c sl w => some (c, sl, w)
  | .vld c sl w => some (c, sl, w)
  | .vst c sl w => some (c, sl, w)
  | .vbin c sl w => some (c, sl, w)
  | .vun c sl w => some (c, sl, w)
  | .vfma c sl w => some (c, sl, w)
  | .vcvt c sl w => some (c, sl, w)
  | .vfree c sl w => some (c, sl, w)
  | .red c sl w => some (c, sl, w)
  | .topk c sl w => some (c, sl, w)
  | .smx1 c sl w => some (c, sl, w)
  | .smx2 c sl w => some (c, sl, w)
  | .sfn c sl w => some (c, sl, w)
  | .tload c sl w => some (c, sl, w)
  | .tswap c sl w => some (c, sl, w)
  | .qnt c sl w => some (c, sl, w)
  | .dequant c sl w => some (c, sl, w)
  | .recordMax c sl w => some (c, sl, w)
  | .qmaxClear c sl w => some (c, sl, w)
  | .oside c sl w => some (c, sl, w)
  | .att c sl w => some (c, sl, w)
  | .poolCreate c sl w => some (c, sl, w)
  | .join c sl w => some (c, sl, w)
  | .leave c sl w => some (c, sl, w)
  | .kvappStep c sl w => some (c, sl, w)
  | .append c sl w => some (c, sl, w)
  | .fork c sl w => some (c, sl, w)
  | .pinBlocks c sl w => some (c, sl, w)
  | .unpinBlocks c sl w => some (c, sl, w)
  | .grow c sl w => some (c, sl, w)
  | .close c sl w => some (c, sl, w)
  | .lookup c sl w => some (c, sl, w)
  | .publish c sl w => some (c, sl, w)
  | .pfxFlush c sl w => some (c, sl, w)
  | .cmul c sl w => some (c, sl, w)
  | .cinv c sl w => some (c, sl, w)
  | .llrpk c sl w => some (c, sl, w)
  | _ => none

/-- For every well-formed command row of a stream (for moves: with fewer than 64 queued). A slot that does not run, or waits, changes nothing. One at a SEQ match of the debug port halts with cause SEQ. One with fewer than two free ring entries stalls, once: STATE WAITING, A_CRFULL or B_CRFULL set, its stream and its flight as before, device memory unchanged. One whose word is uncorrectable ends with INTEGRITY under OPCODE 0xFF (its record, then the stop). One whose buffer holds another word does nothing. -/
def Obligations.StreamSlotsWaitStallAndHalt : Prop :=
  ∀ (i : Instr) (c : Fin 32) (sl : Slot) (w : CmdWord) (s : State), streamRow i = some (c, sl, w) → i.wf = true →
    (slotNow s c sl).moves.length < 64 →
    (s.slotReads c.val sl = false → exec i s = .next s) ∧
    (s.slotReads c.val sl = true →
      (s.seqMatch c.val sl = true → exec i s = .next (s.haltSlot (s.ctx c.val sl) 3)) ∧
      (s.seqMatch c.val sl = false →
        ((slotNow s c sl).ringFree < 2 → (slotNow s c sl).stalled = true → exec i s = .next s) ∧
        ((slotNow s c sl).ringFree < 2 → (slotNow s c sl).stalled = false → ∃ t, exec i s = .next t ∧
          (setNow s c sl fun u => { u with st := 2, stalled := true }).Notes t ∧
          t.rbit (Reg.TC_SLOT_FLAG c.val) (2 + sl.idx) = true) ∧
        (2 ≤ (slotNow s c sl).ringFree →
          (s.poisoned (slotNow s c sl).nextAddr 16 = true →
            exec i s = .next ((past s c sl).badWord (s.ctx c.val sl) (slotNow s c sl).seq)) ∧
          (s.poisoned (slotNow s c sl).nextAddr 16 = false → s.rdLE (slotNow s c sl).nextAddr 16 ≠ w.toNat →
            exec i s = .next s))))

/-- The rows that run on a unit of the core or on the page manager, with the checks of each at decode. -/
def unitChecks (i : Instr) (s : State) (x : Ctx) (w : CmdWord) (d : Nat) (att : Attach) : Option (List (Bool × Nat)) :=
  match i with
  | .pass _ _ _ => some (s.passChecks x w att)
  | .tile _ _ _ => some (s.tileChecks x w d att)
  | .lds _ _ _ => some (s.ldsChecks x w att)
  | .drain _ _ _ => some (s.drainChecks x w)
  | .vld _ _ _ => some (s.mChecks x w)
  | .vst _ _ _ => some (s.mChecks x w)
  | .vbin _ _ _ => some (s.vbinChecks x w)
  | .vun _ _ _ => some (s.vunChecks x w)
  | .vfma _ _ _ => some (s.vfmaChecks x w)
  | .vcvt _ _ _ => some (s.vcvtChecks x w)
  | .vfree _ _ _ => some (s.vfreeChecks x w)
  | .red _ _ _ => some (s.redChecks x w)
  | .topk _ _ _ => some (s.topkChecks x w)
  | .smx1 _ _ _ => some (s.smx1Checks x w)
  | .smx2 _ _ _ => some (s.smx2Checks x w)
  | .sfn _ _ _ => some (s.sfnChecks x w)
  | .tload _ _ _ => some (s.tloadChecks x w d)
  | .tswap _ _ _ => some (s.tswapChecks x w)
  | .qnt _ _ _ => some (s.qntChecks x w d)
  | .dequant _ _ _ => some (s.dequantChecks x w d)
  | .recordMax _ _ _ => some (s.recordChecks x w d)
  | .qmaxClear _ _ _ => some (s.qclearChecks x w d)
  | .oside _ _ _ => some (s.osideChecks x w d)
  | .att _ _ _ => some (s.attChecks x w d)
  | .poolCreate _ _ _ => some (s.poolChecks x w d ++ [(decide (9 < dFunc w), St.format)])
  | .join _ _ _ => some (s.joinChecks x w d)
  | .leave _ _ _ => some (s.leaveChecks x w d)
  | .kvappStep _ _ _ => some (s.stepChecks x w d)
  | .append _ _ _ => some (s.appendChecks x w d)
  | .fork _ _ _ => some (s.forkChecks x w d)
  | .pinBlocks _ _ _ => some (s.pinChecks x w d)
  | .unpinBlocks _ _ _ => some (s.unpinChecks x w d)
  | .grow _ _ _ => some (s.growChecks x w d)
  | .close _ _ _ => some (s.closeChecks x w d)
  | .lookup _ _ _ => some (s.lookupChecks x w d)
  | .publish _ _ _ => some (s.publishChecks x w d)
  | .pfxFlush _ _ _ => some (s.flushChecks x w d)
  | .cmul _ _ _ => some (s.cmulChecks x w)
  | .cinv _ _ _ => some (s.cinvChecks x w d)
  | .llrpk _ _ _ => some (s.llrpkChecks x w)
  | _ => none

/-- What each of these rows does when its unit takes it up: the effect its own chapter gives it. -/
def unitEffect (i : Instr) (s : State) (x : Ctx) (e : CmdEntry) : State × CmdEntry :=
  match i with
  | .pass _ _ _ => s.passEff x e
  | .tile _ _ _ => s.tileEff x e
  | .lds _ _ _ => s.ldsEff x e
  | .drain _ _ _ => s.drainEff x e
  | .vld _ _ _ => s.vldEff x e
  | .vst _ _ _ => s.vstEff x e
  | .vbin _ _ _ => s.vbinEff x e
  | .vun _ _ _ => s.vunEff x e
  | .vfma _ _ _ => s.vfmaEff x e
  | .vcvt _ _ _ => s.vcvtEff x e
  | .vfree _ _ _ => s.vfreeEff x e
  | .red _ _ _ => s.redEff x e
  | .topk _ _ _ => s.topkEff x e
  | .smx1 _ _ _ => s.smx1Eff x e
  | .smx2 _ _ _ => s.smx2Eff x e
  | .sfn _ _ _ => s.sfnEff x e
  | .tload _ _ _ => s.tloadEff x e
  | .tswap _ _ _ => s.tswapEff x e
  | .qnt _ _ _ => s.qntEff x e
  | .dequant _ _ _ => s.dequantEff x e
  | .recordMax _ _ _ => s.recordEff x e
  | .qmaxClear _ _ _ => s.qclearEff x e
  | .oside _ _ _ => s.osideEff x e
  | .att _ _ _ => s.attEff x e
  | .append _ _ _ => s.appendEff x e
  | .cmul _ _ _ => s.cmulEff x e
  | .cinv _ _ _ => s.cinvEff x e
  | .llrpk _ _ _ => s.llrpkEff x e
  | _ => s.kvFnEff x e

/-- The command as it is put in flight at issue: its descriptor, the slot's attachment, its place in the order of issue; the bank of
its loads, for SFN the table bank in use (R82, R95, R161, R184). -/
def freshEntry (s : State) (c : Fin 32) (sl : Slot) (w : CmdWord) : CmdEntry :=
  let x := s.ctx c.val sl
  let u := past s c sl
  { CmdEntry.mk' (slotNow s c sl).seq w (u.descAt x w).1 (u.slotOf x.c x.p x.sl).att with
    stamp := (u.tcOf x.c).issued, bank := if cOp w = 0x50 then u.sfnBank x else (u.slotOf x.c x.p x.sl).nextBank }

/-- The state in which the unit takes the command up: a page-manager function has taken its place in the pool's queue (R234), a load its place in the issue records (R61). -/
def queued (s : State) (c : Fin 32) (sl : Slot) (w : CmdWord) : State :=
  let x := s.ctx c.val sl
  let u := past s c sl
  let v := if unitOf w = 5 then { u with kvq := u.kvq ++ [⟨x.l, (KvDesc.of (u.descAt x w).1).pool, x.c, x.p, x.sl, (slotNow s c sl).seq⟩] } else u
  v.noteLoads x (freshEntry s c sl w)

/-- What a unit makes of a row that it takes up: it serves that slot (R119), the row's own effect is made, and work past the end of
a slice is marked (R124). -/
def takenUp (i : Instr) (u : State) (x : Ctx) (e : CmdEntry) : State × CmdEntry :=
  let r := unitEffect i (u.serve x e) x { e with begun := unitOf e.w != 5 }
  r.1.runOver x e r.2

/-- The row is a PASS whose readable mask clears every vector: it completes at issue (R73). -/
def emptyPass (i : Instr) (s : State) (x : Ctx) (w : CmdWord) : Bool :=
  match i with
  | .pass _ _ _ => !s.maskBad x w && s.passEmpty x w
  | _ => false

/-- For each of the 40 unit rows, decoded and well-formed, with all its checks passed and its descriptor readable, the command completes its issue: when its unit may run it at once, the effect of that very row is made and it is put in flight behind the slot's others; when not, it is put in flight with nothing done. A PASS whose mask clears every vector completes at issue with OK and no effect on the engine. -/
def Obligations.UnitCommandsIssueAndRun : Prop :=
  ∀ (i : Instr) (c : Fin 32) (sl : Slot) (w : CmdWord) (s : State) (cs : List (Bool × Nat)),
    streamRow i = some (c, sl, w) → i.wf = true → Decodes s c sl w →
    unitChecks i (past s c sl) (s.ctx c.val sl) w ((past s c sl).descAt (s.ctx c.val sl) w).1
      ((past s c sl).slotOf c.val (s.curPart c.val) sl).att = some cs → pick cs = St.ok →
    ((past s c sl).descAt (s.ctx c.val sl) w).2 = false →
    let x := s.ctx c.val sl
    let e := freshEntry s c sl w
    let u := queued s c sl w
    (emptyPass i (past s c sl) x w = true → exec i s = .next (u.complete x w (slotNow s c sl).seq St.ok)) ∧
    (emptyPass i (past s c sl) x w = false →
      (u.mayRun x e = true → exec i s = .next ((takenUp i u x e).1.enter x (takenUp i u x e).2)) ∧
      (u.mayRun x e = false → exec i s = .next (u.enter x e)))

/-- For each unit row, decoded and well-formed: when a check fails it completes at once with the status that R12 picks; when its descriptor is uncorrectable it completes with INTEGRITY. In both cases its own effect is not made: the state is the one past the command, with the completion alone (count of the status, record, stop of the slot). -/
def Obligations.UnitCommandsRejected : Prop :=
  ∀ (i : Instr) (c : Fin 32) (sl : Slot) (w : CmdWord) (s : State) (cs : List (Bool × Nat)),
    streamRow i = some (c, sl, w) → i.wf = true → Decodes s c sl w →
    unitChecks i (past s c sl) (s.ctx c.val sl) w ((past s c sl).descAt (s.ctx c.val sl) w).1
      ((past s c sl).slotOf c.val (s.curPart c.val) sl).att = some cs →
    (pick cs ≠ St.ok → exec i s = .next ((past s c sl).complete (s.ctx c.val sl) w (slotNow s c sl).seq (pick cs))) ∧
    (pick cs = St.ok → ((past s c sl).descAt (s.ctx c.val sl) w).2 = true →
      exec i s = .next ((past s c sl).complete (s.ctx c.val sl) w (slotNow s c sl).seq St.integrity))

/-- For a decoded command that asks for no record and no signal, with its reserved bits 0 and its object bound to the lodging: NOP, and BRK with the slot's BRK_EN clear, only move the stream on; SIGNAL adds N to the object's count, clamped, and ARM sets its armed threshold, every other object as before; WAIT with the count at least THRESH only moves the stream on, else the slot is WAITING for that object and threshold; ATTACH with a readable descriptor and DETACH, their checks passed, set or end the slot's attachment. -/
def Obligations.ControlCommandsComplete : Prop :=
  ∀ (c : Fin 32) (sl : Slot) (w : CmdWord) (s : State), Decodes s c sl w → Quiet s c sl w →
    let o := cObj w
    (w = 0 → Yields (.nop c sl w) s (setNow s c sl TcSlot.step1)) ∧
    (w.toNat = 0xF0 * 2 ^ 120 → s.gf (Reg.DBG_TC_CTL c.val) (match sl with
        | .a => Fld.DBG_TC_CTL_A_BRK_EN
        | .b => Fld.DBG_TC_CTL_B_BRK_EN) = 0 → Yields (.brk c sl w) s (setNow s c sl TcSlot.step1)) ∧
    (cOp w = 0x02 → cbits w 61 0 = 0 → s.holdsObj (slotNow s c sl).ldg o = true → ∃ t, exec (.signal c sl w) s = .next t ∧
      t.mem = s.mem ∧ ∀ p, p < 4096 → t.syncArmed p = s.syncArmed p ∧
        t.syncCount p = if p = o then min (s.syncCount o + cVal w) (2 ^ 32 - 1) else s.syncCount p) ∧
    (cOp w = 0x03 → cbits w 61 0 = 0 → s.holdsObj (slotNow s c sl).ldg o = true → ∃ t, exec (.arm c sl w) s = .next t ∧
      t.mem = s.mem ∧ ∀ p, p < 4096 → t.syncCount p = s.syncCount p ∧
        t.syncArmed p = if p = o then cVal w else s.syncArmed p) ∧
    (cOp w = 0x01 → cbits w 61 0 = 0 → s.holdsObj (slotNow s c sl).ldg o = true →
      (cVal w ≤ s.syncCount o → Yields (.wait c sl w) s (setNow s c sl TcSlot.step1)) ∧
      (s.syncCount o < cVal w → Yields (.wait c sl w) s (setNow s c sl fun u =>
        { TcSlot.step1 u with wait := .obj o (cVal w) (slotNow s c sl).seq w, st := 2 }))) ∧
    (cOp w = 0x61 → dFunc w = 1 → pick ((past s c sl).attachChecks (s.ctx c.val sl) w ((past s c sl).descAt (s.ctx c.val sl) w).1) = St.ok →
      s.poisoned (osAddr c.val + dDesc w) 64 = false →
      Yields (.attach c sl w) s (setNow s c sl fun u => { TcSlot.step1 u with att := Attach.ofDesc (s.rdLE (osAddr c.val + dDesc w) 64) })) ∧
    (cOp w = 0x61 → dFunc w = 2 → pick (s.detachChecks (s.ctx c.val sl) w) = St.ok →
      Yields (.detach c sl w) s (setNow s c sl fun u => { TcSlot.step1 u with att := Attach.off }))

/-- For a decoded FENCE, MARK or END with its reserved bits 0, no signal asked for, and CPL 0 for FENCE. While an earlier command of the slot or a move is not complete, the slot is WAITING for it. When none is: FENCE only moves the stream on; MARK writes a record with status OK and its TAG at TAIL of the completion ring and advances TAIL; END writes its record, advances TAIL, ends the stream and leaves the slot IDLE. Beyond the 16 bytes of the record no byte of memory changes. -/
def Obligations.DrainCommandsWaitForTheSlot : Prop :=
  ∀ (c : Fin 32) (sl : Slot) (w : CmdWord) (s : State), Decodes s c sl w → cSig w = false → (slotNow s c sl).step = false →
    let t := slotNow s c sl
    let rec_ := fun (op tag : Nat) (m : State) => m.wrLE (t.ring + 16 * t.tail) 16 (recordBytes 0 op 0 t.seq tag (t.ldg % 16 + 16 * sl.idx))
    (t.quiet = false →
      (cOp w = 0x04 → cCpl w = false → cbits w 105 0 = 0 → Yields (.fence c sl w) s (setNow s c sl fun u =>
        { TcSlot.step1 u with wait := .drain t.seq w, st := 2 })) ∧
      (cOp w = 0x06 → cbits w 73 0 = 0 → Yields (.mark c sl w) s (setNow s c sl fun u =>
        { TcSlot.step1 u with wait := .drain t.seq w, st := 2, claimed := u.claimed + 1 })) ∧
      (cOp w = 0x05 → cbits w 105 0 = 0 → Yields (.endStream c sl w) s (setNow s c sl fun u =>
        { TcSlot.step1 u with wait := .drain t.seq w, st := 2, claimed := u.claimed + 1 }))) ∧
    (t.quiet = true →
      (cOp w = 0x04 → cCpl w = false → cbits w 105 0 = 0 → Yields (.fence c sl w) s (setNow s c sl TcSlot.step1)) ∧
      (cOp w = 0x06 → cbits w 73 0 = 0 → Yields (.mark c sl w) s (rec_ 0x06 (cbits w 105 74) (setNow s c sl fun u =>
        { TcSlot.step1 u with tail := (u.tail + 1) % u.ringN }))) ∧
      (cOp w = 0x05 → cbits w 105 0 = 0 → Yields (.endStream c sl w) s (rec_ 0x05 0 (setNow s c sl fun u =>
        { TcSlot.step1 u with tail := (u.tail + 1) % u.ringN, st := 0, ended := true }))))

/-! ### What happens to a stream, its moves and its debug halts -/

/-- Change one slot of a partition. -/
abbrev onSlot (s : State) (c : Fin 32) (p : Fin 4) (sl : Slot) (f : TcSlot → TcSlot) : State := s.setSlot c.val p.val sl f

/-- WAIT_SATISFIED: a slot that waits for an object whose count is at least THRESH stops waiting (WAITING becomes RUN); below THRESH nothing changes (for a WAIT without record or signal). COMMAND_COMPLETION of a finished command of the partition that the core serves, with status OK, no record, no signal and no drain waiting, makes what it makes at completion (R179) and removes exactly that command from flight. DRAIN_BUFFER_FREED makes the effect of a waiting DRAIN or TILE that may now run, and leaves any other as it is. CRING_HEAD_WRITE sets HEAD, and a slot stalled for ring entries with no other wait becomes RUN when two are free. -/
def Obligations.StreamEventsFinishCommands : Prop :=
  ∀ (s : State) (c : Fin 32) (p : Fin 4) (sl : Slot) (w : CmdWord),
    (∀ o th q, (s.slotOf c.val p.val sl).wait = .obj o th q w → cCpl w = false → cSig w = false →
      (s.syncCount o < th → exec (.waitSatisfied c p sl) s = .next s) ∧
      (th ≤ s.syncCount o → (s.slotOf c.val p.val sl).st = 2 →
        Yields (.waitSatisfied c p sl) s (onSlot s c p sl fun u => { u with wait := .none, st := 1 }))) ∧
    (∀ i e, (s.slotOf c.val p.val sl).inflight[i]? = some e → e.w = w → e.done = true → e.st = St.ok → e.ovr = false → e.claimed = false →
      let x : Ctx := ⟨c.val, p.val, (s.slotOf c.val p.val sl).ldg, sl⟩
      s.atHome x e = true → cCpl w = false → cSig w = false → (∀ q v, (s.slotOf c.val p.val sl).wait ≠ .drain q v) →
      Yields (.commandCompletion c p sl i) s (onSlot (if e.ended then s else (s.putEntry x e).atCompletion x e) c p sl fun u =>
        { u with inflight := u.inflight.filter fun f => f.seq != e.seq })) ∧
    (∀ i e, (s.slotOf c.val p.val sl).inflight[i]? = some e → e.w = w → (cOp w = 0x23 ∨ cOp w = 0x21) → e.done = false →
      let x : Ctx := ⟨c.val, p.val, (s.slotOf c.val p.val sl).ldg, sl⟩
      (s.mayRun x e = false → exec (.drainBufferFreed c p sl i) s = .next (s.putEntry x e)) ∧
      let r := (if s.asks x e || !e.begun then s.serve x e else s).effect x { e with begun := true }
      (s.mayRun x e = true → exec (.drainBufferFreed c p sl i) s = .next ((r.1.runOver x e r.2).1.putEntry x (r.1.runOver x e r.2).2))) ∧
    (∀ who v, s.reach who (Reg.TC_SLOT_CRING c.val sl.idx) true = true →
      let h := getF v Fld.TC_SLOT_CRING_HEAD
      let t := slotNow s c sl
      (t.stalled = false → exec (.cringHeadWrite who c sl v) s = .next (setNow s c sl fun u => { u with head := h })) ∧
      (t.stalled = true → t.st = 2 → t.wait = .none → 2 ≤ TcSlot.ringFree { t with head := h } →
        exec (.cringHeadWrite who c sl v) s = .next (setNow s c sl fun u => { u with head := h, stalled := false, st := 1 })))

/-- MOV, ROT, PAGE_PUT and PAGE_GET, decoded, asking for no record, with fewer than 64 moves queued and all checks passed, join the end of the slot's move queue with addresses, length and regulator classes of their operands, and the stream moves on; with 64 queued nothing happens. MOVE_START with no move that may start changes nothing; else the first queued move not yet started begins: a MOV moves as far as its tokens go, a ROT makes its round when it is complete, a page transfer sends its page or its request. -/
def Obligations.MovesQueueInOrder : Prop :=
  ∀ (c : Fin 32) (sl : Slot) (w : CmdWord) (s : State), Decodes s c sl w → cCpl w = false → (slotNow s c sl).step = false →
    let l := (slotNow s c sl).ldg
    let x := s.ctx c.val sl
    let a := s.region l (cbits w 92 87)
    let b := s.region l (cbits w 56 51)
    let joins := fun (i : Instr) (m : MoveEntry) =>
      Yields i s (setNow s c sl fun u => { TcSlot.step1 u with moves := u.moves ++ [m] })
    (64 ≤ (slotNow s c sl).moves.length →
      (cOp w = 0x10 → exec (.mov c sl w) s = .next s) ∧ (cOp w = 0x14 → exec (.rot c sl w) s = .next s) ∧
      (cOp w = 0x18 → exec (.pagePut c sl w) s = .next s) ∧ (cOp w = 0x19 → exec (.pageGet c sl w) s = .next s)) ∧
    ((slotNow s c sl).moves.length < 64 →
      (cOp w = 0x10 → pick ((past s c sl).movChecks x w) = St.ok → joins (.mov c sl w)
        ⟨(slotNow s c sl).seq, w, a.base + 64 * cbits w 86 57, b.base + 64 * cbits w 50 21, cbits w 20 5 + 1, 0, routeClasses a b,
          s.waitMet w, false, St.ok, 0, false, s.rr (Reg.LDG_REGION3 l (cbits w 92 87)), s.rr (Reg.LDG_REGION3 l (cbits w 56 51)), 0⟩) ∧
      (cOp w = 0x14 → pick ((past s c sl).rotChecks x w) = St.ok →
        ∃ t, exec (.rot c sl w) s = .next t ∧ (t.slotOf c.val (s.curPart c.val) sl).moves = (slotNow s c sl).moves ++
          [⟨(slotNow s c sl).seq, w, osAddr c.val + 64 * cbits w 92 78, osAddr c.val + 64 * cbits w 77 63, cbits w 62 48 + 1, 0, 0,
            s.waitMet w, false, St.ok, (s.tcOf c.val).rots, false,
            0, 0, 0⟩] ∧ (t.tcOf c.val).rots = (s.tcOf c.val).rots + 1 ∧ t.mem = s.mem) ∧
      (cOp w = 0x18 → pick ((past s c sl).pageChecks x w) = St.ok → exec (.pagePut c sl w) s = .next
        ((past s c sl).enqueue x ((past s c sl).newMove (slotNow s c sl).seq w (cbits w 86 63) (cbits w 62 39)
          ((past s c sl).pageUnits x.l (cbits w 86 63) true).1 ((past s c sl).pageUnits x.l (cbits w 86 63) true).2 0 0 0))) ∧
      (cOp w = 0x19 → pick ((past s c sl).pageChecks x w) = St.ok → exec (.pageGet c sl w) s = .next
        ((past s c sl).enqueue x ((past s c sl).newMove (slotNow s c sl).seq w (cbits w 62 39) (cbits w 86 63)
          ((past s c sl).pageUnits x.l (cbits w 86 63) false).1 ((past s c sl).pageUnits x.l (cbits w 86 63) false).2 0 0 0)))) ∧
    ∀ (p : Fin 4) (m : MoveEntry),
      (s.startable (s.slotOf c.val p.val sl) = none → exec (.moveStart c p sl) s = .next s) ∧
      (s.startable (s.slotOf c.val p.val sl) = some m → m.started = false ∧ m ∈ (s.slotOf c.val p.val sl).moves ∧
        (m.released || s.waitMet m.w) = true ∧ (∀ n ∈ (s.slotOf c.val p.val sl).moves, n.started = true → n.units ≤ n.done) ∧
        let t := s.setMove c.val p.val sl m.seq fun m => { m with started := true }
        (cOp m.w = 0x10 → exec (.moveStart c p sl) s = .next (t.pump (s.slotOf c.val p.val sl).ldg)) ∧
        (cOp m.w = 0x14 → exec (.moveStart c p sl) s = .next (t.rotRound (s.slotOf c.val p.val sl).ldg m.round)) ∧
        (cOp m.w ≠ 0x10 → cOp m.w ≠ 0x14 → exec (.moveStart c p sl) s = .next
          (((t.pageStart c.val p.val sl (s.slotOf c.val p.val sl).ldg m).pump (s.slotOf c.val p.val sl).ldg).kvSettle)))

/-- One unit of a move inside the device, from a source without poison to a destination outside the encrypted tier: every byte of the destination reads afterwards as the source byte did (zero for a tier source that another lodging's tag covers), every byte outside the 64 destination bytes reads as before, registers other than flags and counters stay, and the unit is not reported uncorrectable. From a source with poison nothing is moved and the unit is reported. -/
def Obligations.MovedUnitIsCopied : Prop :=
  ∀ (s : State) (l dst src : Nat), s.inTier dst = false →
    (s.poisoned src 64 = true → s.moveUnit l dst src = (s, true)) ∧
    (s.poisoned src 64 = false → (s.moveUnit l dst src).2 = false ∧
      (∀ i, i < 64 → (s.moveUnit l dst src).1.rb (dst + i) = if s.inTier src && s.readsZero l src then 0 else s.rb (src + i)) ∧
      (∀ a, ¬(dst ≤ a ∧ a < dst + 64) → (s.moveUnit l dst src).1.rb a = s.rb a) ∧
      (s.moveUnit l dst src).1.tc = s.tc ∧ ∀ a, noteReg a = false → (s.moveUnit l dst src).1.rr a = s.rr a)

/-- The spill of a page whose units have all moved (R250). -/
def spillOver (l : Fin 16) (pool : Fin 4) (page : Fin 4194304) (m : KvMove) : Bool :=
  m.l == l.val && m.pool == pool.val && m.page == page.val && m.kind == .spill && decide (m.units ≤ m.done)

/-- The fetch of a page whose units have all moved (R250, R253). -/
def fetchOver (l : Fin 16) (pool : Fin 4) (page : Fin 4194304) (m : KvMove) : Bool :=
  m.l == l.val && m.pool == pool.val && m.page == page.val && m.kind != .spill && m.started && decide (m.units ≤ m.done)

/-- REFILL before its time changes nothing; at its time each class of the lodging is given min(capacity of the bucket, tokens + refill), the next refill is 600 CTL cycles (1 us) later, and waiting units are admitted; with nothing of the lodging waiting no other register or byte of memory changes. TIER_REFRESH completes and only counts its event. SPILL_COMPLETE and FETCH_COMPLETE of a page whose units have all moved complete its spill or fetch, and of any other page nothing. -/
def Obligations.RegulatorRefillsAndPagesComplete : Prop :=
  ∀ (s : State) (l : Fin 16) (ch : Fin 8) (pool : Fin 4) (page : Fin 4194304),
    let at_ := tget (fun _ => 0) s.refillAt l.val
    (s.cycle < at_ → exec (.refill l) s = .next s) ∧
    (at_ ≤ s.cycle → ∃ u : State, exec (.refill l) s = .next (u.pump l.val) ∧ u.mem = s.mem ∧
      (∀ k, k < 3 → u.tokens l.val k = min (s.bucketCap l.val k) (s.tokens l.val k + s.refillUnits l.val k)) ∧
      tget (fun _ => 0) u.refillAt l.val = at_ + 600) ∧
    (at_ ≤ s.cycle → s.queuesOf l.val = [] → s.kvMoves = [] → s.owedAll l.val = 0 → ∃ t, exec (.refill l) s = .next t ∧
      (∀ k, k < 3 → t.tokens l.val k = min (s.bucketCap l.val k) (s.tokens l.val k + s.refillUnits l.val k)) ∧
      tget (fun _ => 0) t.refillAt l.val = at_ + 600 ∧ t = { s with regs := t.regs, refillAt := t.refillAt } ∧
      ∀ a, (∀ k, k < 3 → a ≠ lvlReg l.val k) → t.rr a = s.rr a) ∧
    (exec (.tierRefresh ch) s = .next (s.event 8 0x3003 none) ∧ Yields (.tierRefresh ch) s s) ∧
    (s.kvMoves.find? (spillOver l pool page) = none → exec (.spillComplete l pool page) s = .next s) ∧
    (∀ m, s.kvMoves.find? (spillOver l pool page) = some m →
      exec (.spillComplete l pool page) s = .next ((s.spillDone (s.kvOf l.val pool.val) m).kvSettle)) ∧
    (s.kvMoves.find? (fetchOver l pool page) = none → exec (.fetchComplete l pool page) s = .next s) ∧
    (∀ m, s.kvMoves.find? (fetchOver l pool page) = some m →
      exec (.fetchComplete l pool page) s = .next ((s.fetchDone (s.kvOf l.val pool.val) m).kvSettle))

/-! ### Pooled cores, waybills, batches, sample frames -/

/-- Total share of a list of partitions of a core. -/
def shareSum (s : State) (c : Nat) (ps : List Nat) : Nat := (ps.map fun p => s.shareOf c p).sum

/-- ROUND of a pooled core whose round is over and some of whose lodgings have work: the round is those partitions, by ascending lodging, each deficit rises by SLICE x 900 x share / total share, every other stays. SWITCH to another partition whose turn it is, with no non-preemptible unit of the holder in progress: HOLDER is that partition, SWITCHING 0, the unit cycles are charged; no slot, no unit and no memory changes. SLICE_END of a holder that has used its deficit up: it leaves the round, its cycles are charged. On a core that is not pooled none of the three does anything. -/
def Obligations.PooledCoreRounds : Prop :=
  ∀ (s : State) (c : Fin 32) (eng vec busy : Nat),
    (s.pooled c.val = false → exec (.round c) s = .next s ∧ exec (.sliceEnd c eng vec busy) s = .next s ∧
      exec (.switchLdg c eng vec busy) s = .next s) ∧
    (s.pooled c.val = true → s.turn c.val = none → s.workers c.val ≠ [] → ∃ t, exec (.round c) s = .next t ∧
      (t.tcOf c.val).round = s.workers c.val ∧ t.mem = s.mem ∧
      ∀ p, p < 4 → t.rr (Reg.TC_DEFICIT c.val p) = if p ∈ s.workers c.val then
        BitVec.ofInt 32 (s.deficit c.val p + ((s.gf Reg.LDG_SLICE Fld.LDG_SLICE_SLICE * 900 * s.shareOf c.val p /
          shareSum s c.val (s.workers c.val) : Nat) : Int)) else s.rr (Reg.TC_DEFICIT c.val p)) ∧
    (∀ p, s.pooled c.val = true → s.turn c.val = some p → p ≠ s.curPart c.val → p < 4 → eng ≤ busy → busy ≤ eng + vec →
      (∀ sl, ∀ e ∈ (s.slotOf c.val (s.curPart c.val) sl).inflight, e.stuck = false) →
      ∃ t, exec (.switchLdg c eng vec busy) s = .next t ∧ t = { s with regs := t.regs, tc := t.tc } ∧
        (∀ k, t.tcOf k = if k = c.val then { s.tcOf k with late := [] } else s.tcOf k) ∧
        t.gf (Reg.TC_POOL_STAT c.val) Fld.TC_POOL_STAT_HOLDER = p ∧ t.gf (Reg.TC_POOL_STAT c.val) Fld.TC_POOL_STAT_SWITCHING = 0 ∧
        t.rr (Reg.LDG_ENG_BUSY (s.partLdg c.val (s.curPart c.val))) =
          s.rr (Reg.LDG_ENG_BUSY (s.partLdg c.val (s.curPart c.val))) + BitVec.ofNat 32 eng ∧
        t.rr (Reg.LDG_VEC_BUSY (s.partLdg c.val (s.curPart c.val))) =
          s.rr (Reg.LDG_VEC_BUSY (s.partLdg c.val (s.curPart c.val))) + BitVec.ofNat 32 vec) ∧
    (s.pooled c.val = true → s.turn c.val = some (s.curPart c.val) → s.curPart c.val < 4 → eng ≤ busy → busy ≤ eng + vec →
      s.deficit c.val (s.curPart c.val) ≤ busy → -(2 ^ 31) ≤ s.deficit c.val (s.curPart c.val) - busy →
      ∃ t, exec (.sliceEnd c eng vec busy) s = .next t ∧ t.mem = s.mem ∧
        (t.tcOf c.val).round = (s.tcOf c.val).round.filter (fun q => q != s.curPart c.val) ∧
        t.deficit c.val (s.curPart c.val) = s.deficit c.val (s.curPart c.val) - busy ∧
        t.rr (Reg.LDG_VEC_BUSY (s.partLdg c.val (s.curPart c.val))) =
          s.rr (Reg.LDG_VEC_BUSY (s.partLdg c.val (s.curPart c.val))) + BitVec.ofNat 32 vec)

/-- A waybill may be dispatched on its lodging now (R411, R425, R474). -/
def Dispatchable (s : State) (l : Nat) (w : Wb) : Prop :=
  s.bound l = true ∧ (s.lodgeOf l).run = none ∧ (s.lodgeOf l).dbgAt = none ∧ s.innHalt = false ∧ s.wbHeld l w = false ∧
    (∀ e ∈ w.slots, s.mayUse l e.core = true) ∧ (∀ n ∈ coresOf w.ibc, s.ibcBound n = some l ∧ (s.ibcOf n).st = 0) ∧
    s.objBad l w.yieldObj = false ∧ s.objBad l w.doneObj = false ∧ s.failedUnit w = none ∧ (w.slots ≠ [] ∨ w.ibc ≠ 0)

/-- The state of a slot that a waybill has just started: RUN, at the first command of its buffer, with an empty ring. -/
def startedSlot (l : Nat) (e : WbSlot) : TcSlot :=
  { TcSlot.idle with active := true, st := 1, ldg := l, buf := e.buf, ring := e.ring, ringN := e.ringN }

/-- WAYBILL takes the next entry of the lodging's ring: malformed it is refused with FORMAT, else admitted under R410. DISPATCH of the oldest queued waybill that may be dispatched: the lodging runs it, its buckets are filled; with none of the lodging's units waiting for a token it leaves the queue and runs from this cycle, its slots RUN at the first command of their buffers with HEAD and TAIL 0. An IDLE lodging with an empty queue dispatches nothing. WAYBILL_END with every slot ended and every core stopped through STOP ends it; before, nothing. LIMIT_EXPIRY past LIMIT us outside DEBUG tears it down with cause 3, TIMEOUT; before, nothing. CANCEL and RESET by the physical function tear down and reset. -/
def Obligations.WaybillsRunFromDispatchToEnd : Prop :=
  ∀ (s : State) (l : Fin 16),
    (∀ e, s.nextSub l.val = some e → e.ty = 1 → s.conf l.val = false →
      (e.badPlain = true → exec (.waybill l) s = .next ((s.tookSub l.val).refuseSub l.val e (s.ringsOf l.val).taken St.format)) ∧
      (e.badPlain = false → exec (.waybill l) s = .next ((s.tookSub l.val).takeWaybill l.val e (s.ringsOf l.val).taken))) ∧
    ((s.lodgeOf l.val).queue = [] → exec (.dispatch l) s = .next s) ∧
    (∀ w rest, (s.lodgeOf l.val).queue = w :: rest → Dispatchable s l.val w → (w.slots.map fun e => (e.core, e.sl)).Nodup →
      ∃ t, exec (.dispatch l) s = .next t ∧ (t.lodgeOf l.val).run = some w ∧ (t.lodgeOf l.val).stopped = 0 ∧
        (s.queuesOf l.val = [] → s.kvMoves = [] → s.owedAll l.val = 0 → (t.lodgeOf l.val).queue = rest ∧
        (t.lodgeOf l.val).since = s.cycle ∧ ∀ e ∈ w.slots, t.slotOf e.core (s.partIx l.val e.core) e.sl = startedSlot l.val e)) ∧
    (∀ w, (s.lodgeOf l.val).run = some w →
      (s.wbOver l.val w = true → exec (.waybillEnd l) s = .next (s.wbFinish l.val w)) ∧
      (s.wbOver l.val w = false → exec (.waybillEnd l) s = .next s) ∧
      (w.limit ≠ 0 → (s.lodgeOf l.val).dbgAt = none → (s.lodgeOf l.val).since + (s.lodgeOf l.val).inDebug + 600 * w.limit ≤ s.cycle →
        exec (.limitExpiry l) s = .next (s.teardown l.val 3 0xFF 0xFF 0 St.timeout)) ∧
      (s.cycle < (s.lodgeOf l.val).since + (s.lodgeOf l.val).inDebug + 600 * w.limit → exec (.limitExpiry l) s = .next s)) ∧
    (s.reach .pf (Reg.LDG_CTL l.val) true = true → exec (.cancel .pf l) s = .next (s.teardown l.val 5 0xFF 0xFF 0 0) ∧
      (s.bound l.val = true → exec (.ldgReset .pf l) s = .next
        ((((s.teardown l.val 6 0xFF 0xFF 0 0).dropQueue l.val 6).dropPools l.val).clearAll l.val)) ∧
      (s.bound l.val = false → exec (.ldgReset .pf l) s = .next s))

/-- The teardown of a lodging's running waybill: the lodging runs none; every slot that served it is inactive with nothing in flight, no move and no wait (a slot that stopped under R98 stays STOPPED, any other is IDLE); every sync object of the lodging has count and threshold 0; the teardown flag is set. Without a running waybill nothing changes. -/
def Obligations.TeardownStopsTheWaybill : Prop :=
  ∀ (s : State) (l cause unit slot seq cstat : Nat),
    ((s.lodgeOf l).run = none → s.teardown l cause unit slot seq cstat = s) ∧
    ∀ w, (s.lodgeOf l).run = some w →
      ((s.teardown l cause unit slot seq cstat).lodgeOf l).run = none ∧
      (∀ e ∈ s.liveSlots l w,
        let t := (s.teardown l cause unit slot seq cstat).slotOf e.1.core e.2 e.1.sl
        t.active = false ∧ t.inflight = [] ∧ t.moves = [] ∧ t.wait = .none ∧
          t.st = if (s.slotOf e.1.core e.2 e.1.sl).st = 3 then 3 else 0) ∧
      (∀ o, o < 4096 → s.syncHolder o = some l → (s.teardown l cause unit slot seq cstat).syncCount o = 0 ∧
        (s.teardown l cause unit slot seq cstat).syncArmed o = 0) ∧
      (s.teardown l cause unit slot seq cstat).rbit Reg.LDG_FLAG 1 = true

/-- ST_TAIL by a requester that reaches the register posts the entries between the old and the new tail and leaves memory. FRAME_TAKE by a decoder that may not take does nothing; by one that may, the stream taken is the first of the posted streams (oldest entry first) whose queue has 8 free slots; its frame number moves on by one and its oldest post is gone. FRAME_READY of a decoder that holds a frame with a sound header whose tier traffic the regulator has admitted writes its outputs and makes them ready; of one that holds none it does nothing. TAKE by a requester that reaches SMP.BQ_CTL, on a valid MODE 1 queue that holds no batch: the first BMAX ready samples, in ready order, are the batch; the outcomes listed with it are gone from the queue, its number rises by one and BQ_STAT shows HELD. On a queue that holds a batch nothing forms and the flag is set. RELEASE frees the slots of the batch held. The other queues of the lodging stay as they are. -/
def Obligations.FramesAndBatches : Prop :=
  (∀ (s : State) (d : Fin 2) (st : Fin 64) (v : Word) (who : Requester),
      (s.reach who (Reg.SMP_ST_TAIL st.val) true = true → ∃ t, exec (.stTail who st v) s = .next t ∧
        t.gf (Reg.SMP_ST_TAIL st.val) Fld.SMP_ST_TAIL_TAIL = v.toNat % 4096 ∧ t.mem = s.mem ∧
        (∀ n, sdInSize (s.strmOf st.val).desc = n → s.gf (Reg.SMP_ST_TAIL st.val) Fld.SMP_ST_TAIL_TAIL < n → v.toNat % 4096 < n →
          (t.strmOf st.val).posts = (s.strmOf st.val).posts ++ List.replicate
            (if s.gf (Reg.SMP_ST_TAIL st.val) Fld.SMP_ST_TAIL_TAIL ≤ v.toNat % 4096 then
              v.toNat % 4096 - s.gf (Reg.SMP_ST_TAIL st.val) Fld.SMP_ST_TAIL_TAIL
            else v.toNat % 4096 + n - s.gf (Reg.SMP_ST_TAIL st.val) Fld.SMP_ST_TAIL_TAIL) s.cycle)) ∧
      (s.mayTake d.val = false → exec (.frameTake d) s = .next s) ∧
      (∀ k rest, s.mayTake d.val = true → s.posted = k :: rest → k < 64 → s.roomFor k = true →
        exec (.frameTake d) s = .next ((s.takeFrame d.val k).takeTraffic d.val) ∧ ∀ t, exec (.frameTake d) s = .next t →
          t.rr (Reg.SMP_ST_FRAME k) = s.rr (Reg.SMP_ST_FRAME k) + 1 ∧ (t.strmOf k).posts = (s.strmOf k).posts.drop 1) ∧
      (∀ k, s.mayTake d.val = true → s.posted.find? (fun k => s.roomFor k) = some k → ∃ u : State, s.Notes u ∧
        exec (.frameTake d) s = .next ((u.takeFrame d.val k).takeTraffic d.val)) ∧
      (s.smpOf d.val = none → exec (.frameReady d) s = .next s) ∧
      (∀ j h, s.smpOf d.val = some j → headers (jbytes j.bytes) (2 ^ 32) = .ok h → s.owes j.l .sample = false →
        exec (.frameReady d) s = .next (s.frameReady d.val j h) ∧
        ∀ t, exec (.frameReady d) s = .next t → t.smpOf d.val = none)) ∧
  (∀ (s : State) (l : Fin 16) (q : Fin 4) (who : Requester), s.reach who (Reg.SMP_BQ_CTL l.val) true = true →
      bqMode (s.bqOf l.val q.val).desc = 1 →
      let b := s.bqOf l.val q.val
      (s.bqValid l.val q.val = true → b.held = none → ∃ t, exec (.takeBatch who l q) s = .next t ∧
        t.bqOf l.val q.val = { b with
          ready := b.ready.drop (bqBmax b.desc)
          held := some ((b.ready.take (bqBmax b.desc)).map fun x => x.slot)
          drops := []
          dropOvf := 0
          seq := (b.seq + 1) % 2 ^ 32 } ∧
        (∀ r, r < 4 → r ≠ q.val → t.bqOf l.val r = s.bqOf l.val r) ∧ t.rbit (Reg.SMP_BQ_STAT l.val) (Fld.SMP_BQ_STAT_HELD.lo + q.val) = true) ∧
      (s.bqValid l.val q.val = true → b.held.isSome = true → Yields (.takeBatch who l q) s s ∧
        ∀ t, exec (.takeBatch who l q) s = .next t → t.rbit Reg.SMP_FLAG 6 = true) ∧
      (∀ ks, b.held = some ks → ∃ t, exec (.bqRelease who l q) s = .next t ∧
        t.bqOf l.val q.val = { b with held := none, used := b.used.filter fun k => !ks.contains k } ∧
        (∀ r, r < 4 → r ≠ q.val → t.bqOf l.val r = s.bqOf l.val r) ∧ t.mem = s.mem))

/-! ### The air path, LDPC and CRC -/

/-- A command completes without a change but one flag. -/
def OnlyFlag (i : Instr) (s : State) (reg bit : Nat) : Prop := ∃ t, exec i s = .next t ∧ s.Notes t ∧ t.rbit reg bit = true

/-- A message with a bad FCS or FEC sets FCS_ERR alone. One whose eAxC ID names no carrier and stream sets EAXC_UNK alone, or UNSUP alone when its frame or message is of a kind R263 does not list. Of a carrier's stream it uses its sequence ID; unlisted, or of type 0 in a dynamic header with a width R263 does not list, it sets UNSUP; of type 2 it does nothing more. Data before the symbol's air time sets EARLY and after ARR_MAX LATE, and stores nothing; data for a slot that never had an order sets UNSCHED; in time, with an accepted order, each PRB not yet received is stored and the symbol's arrivals are noted. -/
def Obligations.FronthaulMessages : Prop :=
  ∀ (s : State) (p : Fin 12) (bad : Bool) (frame : FhFrame) (ty id seq : Nat) (sfn : Fin 1024) (slot : Fin 80) (k : Fin 14)
    (prb0 meth width : Nat) (data : List Byte),
    let rx := Instr.fhUplaneRx p bad frame ty id seq sfn slot k prb0 meth width data
    (bad = true → OnlyFlag (.fhUplaneRx p bad frame ty id seq sfn slot k prb0 meth width data) s Reg.FH_FLAG 1) ∧
    (bad = false → s.eaxc p.val (id % 65536) sfn.val slot.val = none →
      OnlyFlag rx s Reg.FH_FLAG (if frameOk frame ty then 3 else 4)) ∧
    (bad = false → ∀ a st, s.eaxc p.val (id % 65536) sfn.val slot.val = some (a, st) →
      let x := s.slotCfg a sfn.val slot.val
      let static := x.gf (Reg.AIR_CAR_CFG1 a) Fld.AIR_CAR_CFG1_STATIC = 1
      let listed := (meth = 0 ∧ width = 16) ∨ (meth = 1 ∧ (width = 9 ∨ width = 12 ∨ width = 14))
      (frameOk frame ty = false ∨ (ty = 0 ∧ ¬static ∧ ¬listed) → ∃ t, exec rx s = .next t ∧
        State.Notes { s with fhSeq := t.fhSeq } t ∧ t.rbit Reg.FH_FLAG 4 = true) ∧
      (frameOk frame ty = true → ty = 2 → ∃ t, exec rx s = .next t ∧ State.Notes { s with fhSeq := t.fhSeq } t) ∧
      (frameOk frame ty = true → ty = 0 → (static ∨ listed) →
        (s.orderAt a true sfn.val slot.val = none → ∃ t, exec rx s = .next t ∧ State.Notes { s with fhSeq := t.fhSeq } t ∧
          ((∀ y ∈ (s.carOf a).seen, y ≠ (s.slotStart a sfn.val slot.val, true)) → t.rbit Reg.AIR_FLAG 7 = true)) ∧
        ∀ o, s.orderAt a true sfn.val slot.val = some o →
          let now := s.now (x.carTb a)
          let opens := o.start + symOff (x.carNum a) k.val
          let closes := o.start + symOff (x.carNum a) (k.val + 1) + x.carArrMax a * usU
          (now < opens → ∃ t, exec rx s = .next t ∧ State.Notes { s with fhSeq := t.fhSeq } t ∧ t.rbit Reg.FH_FLAG 5 = true) ∧
          (opens ≤ now → closes < now → ∃ t, exec rx s = .next t ∧ State.Notes { s with fhSeq := t.fhSeq } t ∧
            t.rbit Reg.FH_FLAG 6 = true) ∧
          (opens ≤ now → now ≤ closes → ∃ u : State, s.Notes { u with fhSeq := s.fhSeq } ∧
            exec rx s = .next (u.ingest o st k.val (if x.gf (Reg.AIR_CAR_CFG1 a) Fld.AIR_CAR_CFG1_STATIC = 1 then x.carCmp a else width)
              prb0 data))))

/-- For an uplink slot without an accepted order none of the three commands does anything. ARR_MAX_EXPIRY at air(k) + ARR_MAX of a symbol not yet ingested writes 0 in every PRB that has not come and counts the symbol in object b + 0; before that time nothing. UPLINK_STAGE_END of S1 ends a symbol that has come whole; of S2, S4, S5, S6 a stage that has begun, with the signals of R279; of S3 also the offsets and the tracking of R285; of S7 once every code block is decoded; of S8 the slot's results, once its tier traffic is admitted. A stage that has not begun does not end. DEADLINE, outside DEBUG and at the slot's deadline, delivers what is left with TIMEOUT; before it nothing. -/
def Obligations.UplinkSlotsRunTheirStages : Prop :=
  ∀ (s : State) (a : Fin 8) (sfn : Fin 1024) (slot : Fin 80) (k : Fin 9) (sym : Fin 14) (res foff sroff : Int),
    (s.orderAt a.val true sfn.val slot.val = none → exec (.arrMaxExpiry a sfn slot sym) s = .next s ∧
      exec (.uplinkStageEnd a sfn slot k sym res foff sroff) s = .next s ∧ exec (.deadline a sfn slot) s = .next s) ∧
    ∀ o, s.orderAt a.val true sfn.val slot.val = some o →
      let due := s.airEnd o sym.val + (s.asOf o).carArrMax a.val * usU
      (s.oNow o < due → exec (.arrMaxExpiry a sfn slot sym) s = .next s) ∧
      (due ≤ s.oNow o → o.has (100 + sym.val) = false → o.car = a.val → ∃ t, exec (.arrMaxExpiry a sfn slot sym) s = .next t ∧
        t.syncCount ((s.asOf o).carObj a.val) = min (s.syncCount ((s.asOf o).carObj a.val) + 1) (2 ^ 32 - 1) ∧
        ∀ m ∈ s.missing o sym.val, ∀ i, i < 48 → t.rb (ulIq a.val m.1 sym.val + 48 * m.2 + i) = 0) ∧
      (k.val = 1 → o.has (100 + sym.val) = false → s.symFull o sym.val = true →
        exec (.uplinkStageEnd a sfn slot k sym res foff sroff) s = .next
          ((s.lateIf o ((o.endOf (200 + sym.val)).getD 0) (window 1 ((s.asOf o).carNum a.val))).symDone o sym.val)) ∧
      (k.val ≠ 1 → s.stageBegin o k.val = none → exec (.uplinkStageEnd a sfn slot k sym res foff sroff) s = .next s) ∧
      (∀ t, k.val ≠ 1 → o.has k.val = false → s.stageBegin o k.val = some t →
        (k.val = 2 ∨ k.val = 4 ∨ k.val = 5 ∨ k.val = 6 → exec (.uplinkStageEnd a sfn slot k sym res foff sroff) s = .next (s.stageEnd o k.val t)) ∧
        (k.val = 3 → exec (.uplinkStageEnd a sfn slot k sym res foff sroff) s = .next
          (((s.stageEnd { o with off := (res, foff, sroff) } 3 t).offsets o foff sroff).track a.val o.start (o.dmrs != 0) res)) ∧
        (k.val = 7 → exec (.uplinkStageEnd a sfn slot k sym res foff sroff) s = .next (if o.decoded then s.stageEnd o 7 t else s)) ∧
        (k.val = 8 → exec (.uplinkStageEnd a sfn slot k sym res foff sroff) s = .next (if s.owes o.l .air || s.owes o.l .ldpc then s
          else (s.lateIf o t (window 8 ((s.asOf o).carNum a.val))).ulFinish o none))) ∧
      (s.oNow o < s.deadlineOf o → exec (.deadline a sfn slot) s = .next s) ∧
      (s.carDebug a.val = true → exec (.deadline a sfn slot) s = .next s) ∧
      (s.carDebug a.val = false → s.deadlineOf o ≤ s.oNow o →
        exec (.deadline a sfn slot) s = .next ((s.ulFinish o (some St.timeout)).setFlagIf (!o.blks.isEmpty) Reg.AIR_FLAG 0 (some o.l)))

/-- At the end of S3 of an enabled carrier: in ACQUIRE, the second pilot slot in a row with a residual of at most 0.005 of the spacing puts it into TRACK; in TRACK, the third slot in a row with pilots and a residual above 0.02 of the spacing, or a slot with 16 slots gone without pilots, puts it into ACQUIRE with TRACK_LOST. REACQ by a requester that reaches AIR.CAR_CTL puts a carrier in TRACK and out of DEBUG into ACQUIRE and does nothing to one in another state. -/
def Obligations.CarrierTracking : Prop :=
  ∀ (s : State) (a : Fin 8) (start : Nat) (res : Int) (who : Requester),
    let c := s.carOf a.val
    let st := fun (u : State) => u.gf (Reg.AIR_CAR_STAT a.val) Fld.AIR_CAR_STAT_STATE
    let len := slotUs (s.carNum a.val) * usU
    (st s = 1 → 1 ≤ c.good → 1000 * res.natAbs ≤ 5 * 65536 → st (s.track a.val start true res) = 2) ∧
    (s.carOn a.val = true → st s = 2 → 2 ≤ c.bad → c.badAt + len = start → 2 * 65536 < 100 * res.natAbs →
      st (s.track a.val start true res) = 1 ∧ (s.track a.val start true res).rbit Reg.AIR_FLAG 3 = true) ∧
    (s.carOn a.val = true → st s = 2 → c.pilotAt ≠ 0 → c.pilotAt + 16 * len ≤ start →
      st (s.track a.val start false res) = 1 ∧ (s.track a.val start false res).rbit Reg.AIR_FLAG 3 = true) ∧
    (s.reach who (Reg.AIR_CAR_CTL a.val) true = true →
      (st s ≠ 2 → exec (.reacq who a) s = .next s) ∧
      (s.carOn a.val = true → st s = 2 → s.carDebug a.val = false → ∃ t, exec (.reacq who a) s = .next t ∧ st t = 1 ∧
        (t.carOf a.val).good = 0 ∧ t.mem = s.mem ∧ ∀ b, b ≠ Reg.AIR_CAR_STAT a.val → t.rr b = s.rr b))

/-- SLOT_ORDER_ENTRY hands a well-formed order entry of the ring to the AIR block, behind the others; SLOT_ORDER takes the lodging's oldest once its earlier reads are admitted. For a downlink slot with an order: D1 ends once every block is encoded and counts in object b + 8; D2 of a symbol only after D1. CPLANE_SEND at slot start minus CP_ADV, once, sends one C-plane message on every stream with its eAxC ID and the next sequence ID, and no byte of memory changes; before, nothing. DL_SYMBOL_SEND before its time does nothing; at it a symbol that was ready by then is sent, one that was not sets DL_LATE and is passed over. -/
def Obligations.SlotOrdersAndDownlink : Prop :=
  ∀ (s : State) (l : Fin 16) (a : Fin 8) (ul : Bool) (sfn : Fin 1024) (slot : Fin 80) (k : Fin 14),
    (∀ e, s.nextSub l.val = some e → e.ty = 2 → s.conf l.val = false → e.badPlain = false → exec (.slotOrderEntry l) s = .next
      { s.tookSub l.val with airIn := (s.tookSub l.val).airIn ++ [(l.val, (s.ringsOf l.val).taken, e.idx, e.reg, e.off)] }) ∧
    ((∀ x ∈ s.airIn, x.1 ≠ l.val) ∨ s.owes l.val .air = true → exec (.slotOrder l) s = .next s) ∧
    (s.owes l.val .air = false → ∀ no idx reg off rest, s.airIn = (l.val, no, idx, reg, off) :: rest →
      exec (.slotOrder l) s = .next ({ s with airIn := rest }.takeOrder l.val no idx reg off)) ∧
    (∀ o, s.orderAt a.val false sfn.val slot.val = some o →
      (o.has 1 = false → (∃ b ∈ o.blks, b.cbs = []) → exec (.downlinkStageEnd a sfn slot false k) s = .next s) ∧
      (o.has 1 = false → (∀ b ∈ o.blks, b.cbs ≠ []) → ∃ t, exec (.downlinkStageEnd a sfn slot false k) s = .next t ∧ t.mem = s.mem ∧
        t.syncCount ((s.asOf o).carObj a.val + 8) = min (s.syncCount ((s.asOf o).carObj a.val + 8) + 1) (2 ^ 32 - 1)) ∧
      (o.endOf 1 = none → exec (.downlinkStageEnd a sfn slot true k) s = .next s) ∧
      (∀ t, o.endOf 1 = some t → o.has (100 + k.val) = false → (∃ x ∈ o.ends, 100 ≤ x.1) → s.owes o.l .air = false →
        exec (.downlinkStageEnd a sfn slot true k) s = .next ((s.d2 o k.val).setOrder (o.mark (100 + k.val) (s.oNow o)))) ∧
      let due := o.start + symOff ((s.asOf o).carNum o.car) o.syms - (s.asOf o).carDlAdv o.car * usU
      (s.oNow o < due → exec (.dlSymbolSend a sfn slot) s = .next s) ∧
      (due ≤ s.oNow o →
        (∀ t, o.endOf (100 + o.syms) = some t → t ≤ due → exec (.dlSymbolSend a sfn slot) s = .next (s.sendSym o)) ∧
        ((∀ t, o.endOf (100 + o.syms) = some t → due < t) → exec (.dlSymbolSend a sfn slot) s = .next ((s.dlNext o true).setFlag Reg.AIR_FLAG 5 (some o.l))))) ∧
    (∀ o, s.orderAt a.val ul sfn.val slot.val = some o →
      let x := s.asOf o
      (s.oNow o + x.carCpAdv a.val * usU < o.start → exec (.cplaneSend a ul sfn slot) s = .next s) ∧
      (o.cplane = false → o.start ≤ s.oNow o + x.carCpAdv a.val * usU → ∃ t, exec (.cplaneSend a ul sfn slot) s = .next t ∧
        t.mem = s.mem ∧ t.host = s.host ∧ ∃ d, t.fhTx = s.fhTx ++ (List.range (if ul then x.carUl a.val else x.carDl a.val)).map fun st =>
          ⟨x.gf (Reg.AIR_CAR_CFG0 o.car) Fld.AIR_CAR_CFG0_FH_PORT, 0, x.eaxcOf o.car st, o.car, st, 0,
            tget (fun _ => 0) s.fhSeq (2 * (16 * o.car + st) + 1), d⟩))

/-- CODE_BLOCK_DECODE at a position that is busy, or for which no code block waits, does nothing; else the position holds the job of the code block that waits first and ENG_STAT shows it BUSY; for a block that decodes alone device memory stays. CODE_BLOCK_DONE of a busy position, once the tier traffic of its order is admitted, makes it free again and leaves device memory, and a failed decode sets the flag; of a free one it does nothing. CODE_BLOCK_ENCODE with a downlink block waiting leaves in the order its scrambled codeword; with none, or on a FAILED engine, it does nothing; with both FAILED the order ends with FAILED. -/
def Obligations.CodeBlocksDecodeAndEncode : Prop :=
  ∀ (s : State) (p : Fin 4) (e : Fin 2),
    ((s.engOf p.val).isSome = true ∨ s.cbFor p.val = none → exec (.codeBlockDecode p) s = .next s) ∧
    (∀ w b, s.engOf p.val = none → s.cbFor p.val = some w → w.o.blks[w.tbi]? = some b → ∃ t j, exec (.codeBlockDecode p) s = .next t ∧
      t.engOf p.val = some j ∧ j.car = w.o.car ∧ j.start = w.o.start ∧ j.tbi = w.tbi ∧ j.cb = w.cb ∧
      t.rbit Reg.LDPC_ENG_STAT p.val = true ∧ (b.mode = 1 → t.mem = s.mem)) ∧
    (s.engOf p.val = none → exec (.codeBlockDone p) s = .next s) ∧
    (∀ j, s.engOf p.val = some j → (∀ o ∈ (s.carOf j.car).orders, o.ul = true → o.start = j.start → s.owes o.l .ldpc = false) →
      ∃ t, exec (.codeBlockDone p) s = .next t ∧ t.engOf p.val = none ∧
      t.rbit Reg.LDPC_ENG_STAT p.val = false ∧ t.mem = s.mem ∧
      ∀ o b, (s.carOf j.car).orders.find? (fun o => o.ul && o.start == j.start) = some o → o.blks[j.tbi]? = some b →
        (b.coding.decode j.table j.imax j.llr).2.2 = false → t.rbit Reg.LDPC_FLAG 0 = true) ∧
    (s.encNext = none → exec (.codeBlockEncode e) s = .next s) ∧
    (∀ w, s.encNext = some w → s.encFailed 0 = true → s.encFailed 1 = true →
      exec (.codeBlockEncode e) s = .next ((s.orderResult w.o St.failed).dropOrder w.car w.o)) ∧
    (∀ w, s.encNext = some w → (s.encFailed 0 = false ∨ s.encFailed 1 = false) → s.encFailed e.val = true →
      exec (.codeBlockEncode e) s = .next s) ∧
    (∀ w b, s.encNext = some w → s.encFailed e.val = false → s.owes w.o.l .ldpc = false → w.o.blks[w.tbi]? = some b →
      let n := (b.tbs + 7) / 8
      let s' := s.tierCharge w.o.l .ldpc b.data n false
      ∃ u v bad, s'.getBytes w.o.l b.data n = (u, v, bad) ∧ Yields (.codeBlockEncode e) s (s'.setOrder (w.o.setBlk w.tbi fun b =>
        let cw := b.coding.encode (payloadBits b.tbs v) ((s.asOf w.o).ncbOf w.car b) b.rv b.g b.nlt b.qm b.cinit
        { b with cbs := [(0, cw.length, true, packBits cw)] })))

/-- TBL_LOAD by a requester that reaches LDPC.TBL_CTL, with a source on a multiple of 64 whose 192 bytes exist, no load running and SEL of the slot not staged: the load is noted, BUSY 1, DONE 0, STATUS OK. TBL_LOAD_DONE of a source outside the tier: with poison the status is INTEGRITY, with a malformed table FORMAT, and no table changes; else the 192 bytes become the standby copy of the slot, every other copy stays, status OK. In every case BUSY is 0 and DONE 1. With no load running it does nothing. CRC_CMD by a requester that reaches the unit: an illegal polynomial gives FORMAT; bits outside 1 to 65536 or outside the holder's regions BOUNDS; a busy unit BUSY; each leaves the unit's job. Accepted it notes the job and shows BUSY, status OK. CRC_DONE of a job whose reads are admitted gives in CRC_RES the CRC of the message's bits, most significant first, with BUSY clear, status OK (INTEGRITY with poison), and makes source 3 of the core pending; with no job it does nothing. -/
def Obligations.DecoderTablesAndCrcUnits : Prop :=
  (∀ (s : State) (who : Requester) (slot : Fin 16),
      let src := (s.rr Reg.LDPC_TBL_SRC_LO).toNat + 2 ^ 32 * s.gf Reg.LDPC_TBL_SRC_HI Fld.LDPC_TBL_SRC_HI_ADDR_HI
      let stat := fun (u : State) (busy done st : Nat) => u.gf Reg.LDPC_TBL_STAT Fld.LDPC_TBL_STAT_BUSY = busy ∧
        u.gf Reg.LDPC_TBL_STAT Fld.LDPC_TBL_STAT_DONE = done ∧ u.gf Reg.LDPC_TBL_STAT Fld.LDPC_TBL_STAT_STATUS = st
      (s.reach who Reg.LDPC_TBL_CTL true = true → src % 64 = 0 → s.place src ≠ .hole → s.place (src + 191) ≠ .hole → s.ldpcLoad = none →
        s.selStaged slot.val = false → ∃ t, exec (.tblLoad who slot) s = .next t ∧ t.ldpcLoad = some (slot.val, src) ∧ stat t 1 0 St.ok ∧
          t.mem = s.mem ∧ t.ldpcTbl = s.ldpcTbl) ∧
      (s.ldpcLoad = none → exec .tblLoadDone s = .next s) ∧
      (∀ n at_, s.ldpcLoad = some (n, at_) → s.inTier at_ = false →
        ∃ t, exec .tblLoadDone s = .next t ∧ t.ldpcLoad = none ∧ t.mem = s.mem ∧
          stat t 0 1 (if s.poisoned at_ 192 then St.integrity else if tblBad (s.rdLE at_ 192) then St.format else St.ok) ∧
          ∀ i, tget (fun _ => 0) t.ldpcTbl i =
            if s.poisoned at_ 192 = false ∧ tblBad (s.rdLE at_ 192) = false ∧ i = 2 * n + (if s.rbit Reg.LDPC_TBL_SEL n then 0 else 1)
            then s.rdLE at_ 192 else tget (fun _ => 0) s.ldpcTbl i)) ∧
  (∀ (s : State) (who : Requester) (n : Fin 18) (poly : Fin 8) (len : Fin 131072),
      let addr := (s.rr (Reg.LDPC_CRC_ADDR_LO n.val)).toNat + 2 ^ 32 * s.gf (Reg.LDPC_CRC_ADDR_HI n.val) Fld.LDPC_CRC_ADDR_HI_ADDR_HI
      let stat := fun (u : State) => u.gf (Reg.LDPC_CRC_STAT n.val) Fld.LDPC_CRC_STAT_STATUS
      let fits := ∃ l, s.ibcHolder n.val = some l ∧ s.inRegions l addr (cdiv len.val 8) = true
      (s.reach who (Reg.LDPC_CRC_CMD n.val) true = true → ∃ t, exec (.crcCmd who n poly len) s = .next t ∧ t.mem = s.mem ∧
        (5 < poly.val → stat t = St.format ∧ t.crcOf n.val = s.crcOf n.val) ∧
        (poly.val ≤ 5 → ¬fits ∨ len.val = 0 ∨ 65536 < len.val → stat t = St.bounds ∧ t.crcOf n.val = s.crcOf n.val) ∧
        (poly.val ≤ 5 → fits → len.val ≠ 0 → len.val ≤ 65536 → s.crcOf n.val ≠ none → stat t = St.busy ∧ t.crcOf n.val = s.crcOf n.val) ∧
        (poly.val ≤ 5 → fits → len.val ≠ 0 → len.val ≤ 65536 → s.crcOf n.val = none → stat t = St.ok ∧
          s.ibcHolder n.val = (t.crcOf n.val).map CrcJob.l ∧
          (t.crcOf n.val).map (fun j => (j.poly, j.len, j.addr)) = some (poly.val, len.val, addr) ∧ t.gf (Reg.LDPC_CRC_RES n.val) Fld.LDPC_CRC_RES_BUSY = 1)) ∧
      (s.crcOf n.val = none → exec (.crcDone n) s = .next s) ∧
      (∀ j, s.crcOf n.val = some j → s.owes j.l .ldpc = false → s.inTier j.addr = false → ∃ t, exec (.crcDone n) s = .next t ∧ t.crcOf n.val = none ∧
        stat t = (if s.poisoned j.addr (cdiv j.len 8) then St.integrity else St.ok) ∧
        (s.poisoned j.addr (cdiv j.len 8) = false → t.rr (Reg.LDPC_CRC_RES n.val) =
          BitVec.ofNat 32 (crcBits j.poly (payloadBits j.len (s.rdLE j.addr (cdiv j.len 8))))) ∧
        t.rbit (Reg.IBC_IRQ_PEND n.val) 3 = true))

/-! ### Iambel cores -/

/-- The registers of core n as its next instruction sees them: every result due has landed (R337). -/
def ibSees (s : State) (n : Fin 18) : IbArch := (s.ibNow n.val).a

/-- What that instruction reads its memories from, a checkpoint not being due. -/
def ibEnv (s : State) (n : Fin 18) : IbEnv :=
  ⟨s.setIbc n.val fun b => { b with a := ibSees s n }, n.val, ibSees s n⟩

/-- Core n issues the words w and mv now: it runs outside a REP, the words stand, readable, at its PC, no breakpoint, watchpoint,
CREG read in flight, due checkpoint, stop, halt or step stands in the way (R337, R340, R361, R368, R370, R634). -/
def Issues (s : State) (n : Fin 18) (w mv : Word) : Prop :=
  let b := s.ibcOf n.val
  b.st = 1 ∧ b.a.rep = none ∧ (ibSees s n).rep = none ∧ b.wp = none ∧ b.reads = [] ∧ s.bpAt n.val (ibSees s n).pc = none ∧
    b.ckDue = false ∧ b.stopReq = false ∧ b.haltReq = false ∧ b.stepping = false ∧
    (s.ibNow n.val).words = (w.toNat, if iBnd w then mv.toNat else 0, false)

/-- The core has run on to the registers a, and nothing else has changed. -/
def ranTo (s : State) (n : Fin 18) (a : IbArch) : State := s.setIbc n.val fun b => { b with a := a, skipBp := false }

/-- The same with a checkpoint taken of those registers (R368). -/
def ranToCk (s : State) (n : Fin 18) (a : IbArch) : State :=
  s.setIbc n.val fun b => { b with a := a, skipBp := false, ck := a, ckAt := a.cyc, undo := [] }

/-- The rows that compute, move and access memory: core, words and effect (R340 to R352). -/
def ibBundle (i : Instr) (s : State) : Option (Fin 18 × Word × Word × Nat × IbRes) :=
  match i with
  | .ibcNop n w mv => some (n, w, mv, 0, (ibEnv s n).bundle w mv)
  | .ftap n w mv => some (n, w, mv, 1, (ibEnv s n).bundle w mv)
  | .macIns n w mv => some (n, w, mv, 2, (ibEnv s n).bundle w mv)
  | .cmac n w mv => some (n, w, mv, 3, (ibEnv s n).bundle w mv)
  | .alu n w mv => some (n, w, mv, 4, (ibEnv s n).bundle w mv)
  | .alui n w mv => some (n, w, mv, 5, (ibEnv s n).bundle w mv)
  | .ldi n w mv => some (n, w, mv, 6, (ibEnv s n).bundle w mv)
  | .acop n w mv => some (n, w, mv, 7, (ibEnv s n).bundle w mv)
  | .mv n w mv => some (n, w, mv, 8, (ibEnv s n).bundle w mv)
  | .ldst n w mv => some (n, w, mv, 9, (ibEnv s n).ldst w)
  | _ => none

/-- The least headroom after tracking more (R351). -/
def leastHead (h : Option Int) (l : List Int) : Option Int :=
  l.foldl (fun h x => some (match h with
    | some y => min x y
    | none => x)) h

/-- For NOP, FTAP, MAC, CMAC, ALU, ALUI, LDI, ACOP, MV (with or without a move pair) and LDST that the core issues and that do not trap: the results are in flight with their latencies behind the earlier ones, the headroom tracked is the least, one cycle has passed (plus the fetch a PC-mode FTAP waits for), the PC is the next address or the loop's first, memory is changed by the instruction's own stores alone, and no register of the register space changes but flags and counters. -/
def Obligations.IambelBundlesIssue : Prop :=
  ∀ (i : Instr) (s : State) (n : Fin 18) (w mv : Word) (op : Nat) (o : IbOut), ibBundle i s = some (n, w, mv, op, .ok o) → iOp w = op →
    Issues s n w mv → o.bad = false → ∃ t, exec i s = .next t ∧ (t.ibcOf n.val).st = 1 ∧
      (t.ibcOf n.val).a = IbArch.goOn { ibSees s n with
        flight := (ibSees s n).flight ++ o.ws
        head := leastHead (ibSees s n).head o.track
        cyc := (ibSees s n).cyc + 1 + (ibEnv s n).fetchWait w } (ibSees s n).pc (pcNext (ibSees s n).pc w) ∧
      t.mem = (o.mem.foldl (fun u x => u.ibStore n.val x) s).mem ∧ t.host = s.host ∧ ∀ r, noteReg r = false → t.rr r = s.rr r

/-- A core that no running waybill has started: its trap tears nothing down (R367, R415). -/
def Loose (s : State) (n : Fin 18) : Prop := ∀ l, s.ibcHolder n.val = some l → (s.lodgeOf l).run = none

/-- The command leaves the core TRAPPED with a cause and a status at its PC, TRAP set, its registers and all memory as they were. -/
def Traps (i : Instr) (s : State) (n : Fin 18) (cause st : Nat) : Prop :=
  ∃ t, exec i s = .next t ∧ (t.ibcOf n.val).st = 4 ∧ t.gf (Reg.IBC_TRAP n.val) Fld.IBC_TRAP_CAUSE = cause ∧
    t.gf (Reg.IBC_TRAP n.val) Fld.IBC_TRAP_STATUS = st ∧ t.gf (Reg.IBC_TRAP n.val) Fld.IBC_TRAP_PC = (ibSees s n).pc % 2 ^ 14 ∧
    t.rbit (Reg.IBC_FLAG n.val) 0 = true ∧ t.mem = s.mem ∧ (t.ibcOf n.val).a = ibSees s n

/-- A bundle, memory access or software TRAP that the core issues and that traps, on a core no running waybill has started: STATE is TRAPPED, IBC.TRAP holds cause, status and PC, TRAP is set; registers and memory stay. ILLEGAL traps with FORMAT, MEMFAULT with BOUNDS, a poisoned read with XFER and INTEGRITY, TRAP with its own code. A CALL with a full and a RET with an empty return stack, and a RETI at the base level, trap too. -/
def Obligations.IambelTraps : Prop :=
  ∀ (s : State) (n : Fin 18) (w mv : Word), Issues s n w mv → Loose s n →
    (∀ i op c, ibBundle i s = some (n, w, mv, op, .error c) → iOp w = op → c < 16 →
      Traps i s n c (if c = 1 then St.format else if c = 4 then St.permission else St.bounds)) ∧
    (∀ i op o, ibBundle i s = some (n, w, mv, op, .ok o) → iOp w = op → o.bad = true → Traps i s n 7 St.integrity) ∧
    (iOp w = 0x0E → ib w 25 22 = 6 → iBnd w = false → ib w 21 8 = 0 → Traps (.trapIbc n w mv) s n 6 (ib w 7 0)) ∧
    (iOp w = 0x0D → iBnd w = false → ib w 25 14 = 0 → 8 ≤ (ibSees s n).ras.length → Traps (.call n w mv) s n 5 St.bounds) ∧
    (iOp w = 0x0E → ib w 25 22 = 0 → iBnd w = false → ib w 21 0 = 0 → (ibSees s n).ras = [] → Traps (.retIns n w mv) s n 5 St.bounds) ∧
    (iOp w = 0x0E → ib w 25 22 = 1 → iBnd w = false → ib w 21 0 = 0 → (ibSees s n).lev = 0 → Traps (.reti n w mv) s n 1 St.format)

/-- For a core that issues the word, unbundled and with its reserved bits 0: BR jumps when its condition holds and goes on when not; BR on the loop counter lowers LC (from 0 to a free value) and jumps unless it is 0. CALL pushes the return address, RET pops it. RETI at level 2 or 1 returns to what was saved there and takes a checkpoint. EI and DI set and clear enables. LOOP with a count loads LC and the loop, with 0 skips its body; REP holds the next instruction for its count. Nothing outside the core changes but counters. -/
def Obligations.IambelControlFlow : Prop :=
  ∀ (s : State) (n : Fin 18) (w mv : Word), Issues s n w mv → iBnd w = false →
    let a := ibSees s n
    let cond := ib w 25 22
    (iOp w = 0x0C → ib w 21 14 = 0 →
      (cond ≠ 13 → cond ≠ 15 → Yields (.br n w mv) s (ranTo s n (if a.cond cond then a.jump (ib w 13 0) else a.step1))) ∧
      (cond = 13 → a.lc ≠ 0 → Yields (.br n w mv) s (ranTo s n (if a.lc - 1 = 0 then IbArch.step1 { a with lc := a.lc - 1 }
        else IbArch.jump { a with lc := a.lc - 1 } (ib w 13 0)))) ∧
      (cond = 13 → a.lc = 0 → ∃ v t, v ≤ 65536 ∧ exec (.br n w mv) s = .next t ∧ t.mem = s.mem ∧ (∀ r, noteReg r = false → t.rr r = s.rr r) ∧
        (t.ibcOf n.val).a = if v = 0 then IbArch.step1 { a with lc := v } else IbArch.jump { a with lc := v } (ib w 13 0))) ∧
    (iOp w = 0x0D → ib w 25 14 = 0 → a.ras.length < 8 →
      Yields (.call n w mv) s (ranTo s n { a.jump (ib w 13 0) with ras := ((a.pc + 1) % 2 ^ 14) :: a.ras })) ∧
    (∀ r rest, iOp w = 0x0E → cond = 0 → ib w 21 0 = 0 → a.ras = r :: rest →
      Yields (.retIns n w mv) s (ranTo s n { a.jump r with ras := rest })) ∧
    (iOp w = 0x0E → cond = 1 → ib w 21 0 = 0 → a.lev = 2 → Yields (.reti n w mv) s (ranToCk s n
      { a.after 3 with high := false, pc := a.hi.pc, lc := a.hi.lc, loop := a.hi.loop })) ∧
    (iOp w = 0x0E → cond = 1 → ib w 21 0 = 0 → a.lev = 1 → ∃ t b, exec (.reti n w mv) s = .next t ∧ (ranToCk s n b).Notes t ∧
      b.pc = a.low.pc ∧ b.lc = a.low.lc ∧ b.loop = a.low.loop ∧ b.cur.st = a.low.st) ∧
    (iOp w = 0x0E → cond = 2 → ib w 21 2 = 0 → Yields (.ei n w mv) s (ranTo s n (a.enables true (ib w 1 0)).step1)) ∧
    (iOp w = 0x0E → cond = 3 → ib w 21 2 = 0 → Yields (.di n w mv) s (ranTo s n (a.enables false (ib w 1 0)).step1)) ∧
    (iOp w = 0x0A → ib w 2 0 = 0 → (ib w 3 3 = 1 → ib w 19 4 = 0) → a.loop = none →
      let count := if ib w 3 3 = 1 then a.lc else ib w 19 4 + 1
      (count = 0 → Yields (.loopIns n w mv) s (ranTo s n { a.after 1 with pc := (a.pc + 2 + ib w 25 20) % 2 ^ 14 })) ∧
      (count ≠ 0 → ∃ t b l, exec (.loopIns n w mv) s = .next t ∧ (ranTo s n b).Notes t ∧ b.lc = count ∧ b.pc = (a.pc + 1) % 2 ^ 14 ∧
        b.loop = some l ∧ l.first = (a.pc + 1) % 2 ^ 14 ∧ l.last = (a.pc + 1 + ib w 25 20) % 2 ^ 14 ∧ l.again = false)) ∧
    (∀ x : Word, iOp w = 0x0B → ib w 8 0 = 0 → ib w 25 25 = 0 → iOp x ≤ 9 → iBnd x = false →
      (ibEnv s n).fetch ((a.pc + 1) % 2 ^ 14) = (x.toNat, false) →
      ib w 24 9 + 1 ≤ s.gf (Reg.IBC_CTL n.val) Fld.IBC_CTL_REP_LIMIT → Yields (.repIns n w mv) s
        (ranTo s n { a.after 1 with pc := (a.pc + 1) % 2 ^ 14, rep := some (ib w 24 9 + 1, x, 0) }))

/-- For a core that issues the word, unbundled and with its reserved bits 0: IDLE leaves it IDLE past the instruction; STOP leaves it STOPPED, with the flag set and, for a core its lodging's waybill started, its stop noted; BRK with BRK_EN 0 only goes on, with 1 halts the core with cause 5; BLKCLR puts BEXP 0 in flight and clears the headroom; BLKEND puts BEXP - SHIFT in flight, and a new SHIFT when adaptation is on and headroom was tracked; BLKEND and CHKPT take a checkpoint. -/
def Obligations.IambelStatesAndBlocks : Prop :=
  ∀ (s : State) (n : Fin 18) (w mv : Word), Issues s n w mv → iBnd w = false →
    let a := ibSees s n
    (iOp w = 0x0E → ib w 25 22 = 4 → ib w 21 0 = 0 → Yields (.idleIbc n w mv) s
      (s.setIbc n.val fun b => { b with st := 3, a := a.step1, skipBp := false })) ∧
    (iOp w = 0x0E → ib w 25 22 = 5 → ib w 21 0 = 0 → ∃ t, exec (.stopIbc n w mv) s = .next t ∧ (t.ibcOf n.val).st = 0 ∧
      (t.ibcOf n.val).a = a.step1 ∧ t.rbit (Reg.IBC_FLAG n.val) 1 = true ∧ t.mem = s.mem ∧
      ∀ l u, s.ibcHolder n.val = some l → (s.lodgeOf l).run = some u → u.ibc.testBit n.val = true →
        (t.lodgeOf l).stopped = (s.lodgeOf l).stopped ||| 2 ^ n.val) ∧
    (iOp w = 0x0E → ib w 25 22 = 7 → ib w 21 0 = 0 →
      (s.gf (Reg.DBG_IBC_CTL n.val) Fld.DBG_IBC_CTL_BRK_EN ≠ 1 → Yields (.ibcBrk n w mv) s (ranTo s n a.step1)) ∧
      (s.gf (Reg.DBG_IBC_CTL n.val) Fld.DBG_IBC_CTL_BRK_EN = 1 → ∃ t, exec (.ibcBrk n w mv) s = .next t ∧ (t.ibcOf n.val).st = 5 ∧
        t.gf (Reg.DBG_IBC_CAUSE n.val) Fld.DBG_IBC_CAUSE_CAUSE = 5 ∧ t.rbit Reg.DBG_FLAG 0 = true ∧ t.mem = s.mem)) ∧
    (iOp w = 0x0F → ib w 25 24 = 1 → ib w 23 0 = 0 → Yields (.blkclr n w mv) s
      (ranTo s n (IbArch.step1 { a with flight := a.flight ++ [a.out 2 0 .bexp 0], head := none }))) ∧
    (iOp w = 0x0F → ib w 25 24 = 2 → ib w 23 0 = 0 → Yields (.chkpt n w mv) s (ranToCk s n a.step1)) ∧
    (iOp w = 0x0F → ib w 25 24 = 0 → ib w 23 0 = 0 → ∃ extra, Yields (.blkend n w mv) s (ranToCk s n
        (IbArch.step1 { a with flight := a.flight ++ a.out 2 0 .bexp (satI 16 (a.bexp - a.shift)).1 :: extra, head := none })) ∧
      (a.head = none ∨ a.st.testBit 4 = false → extra = []) ∧
      ∀ h, a.head = some h → a.st.testBit 4 = true →
        extra = [a.out 2 0 .shift (max (-8) (min 7 (a.shift + h - (Sys2Proof.Machine.nbits a.st 6 5 : Nat))))])

/-- The bytes of a queue entry of core n for an XFER word (R360). -/
def xferOf (s : State) (n : Fin 18) (w : Word) : IbXfer :=
  let a := ibSees s n
  let l := (s.ibcHolder n.val).getD 0
  let dn := (a.d (ib w 12 9)).toNat
  ⟨(s.ibcOf n.val).xno, ib w 25 25 == 0, ibWord n.val (ib w 24 23) (dn % 65536), (s.region l (ib w 22 17)).base + (a.d (ib w 16 13)).toNat,
    dn / 65536 + 1, 0, (a.d (ib w 8 5)).toNat % 4096, ib w 4 4 == 1, s.rr (Reg.LDG_REGION3 l (ib w 22 17)), false, St.ok, 0, a.pc⟩

/-- The rights an XFER needs (R360): a lodging that holds the core, RD or WR of the region, the object. -/
def XferMay (s : State) (n : Fin 18) (w : Word) (l : Nat) : Prop :=
  let r := s.region l (ib w 22 17)
  s.ibcHolder n.val = some l ∧ (r.valid = true → (if ib w 25 25 = 0 then r.rd else r.wr) = true) ∧
    (ib w 4 4 = 1 → s.holdsObj l (xferOf s n w).obj = true)

/-- The region, the ranges and the alignments of an XFER (R360). -/
def XferFits (s : State) (n : Fin 18) (w : Word) (l : Nat) : Prop :=
  let x := xferOf s n w
  let a := ibSees s n
  (s.region l (ib w 22 17)).holds (a.d (ib w 16 13)).toNat (16 * x.units) = true ∧ (a.d (ib w 16 13)).toNat % 16 = 0 ∧
    (a.d (ib w 12 9)).toNat % 65536 % 4 = 0 ∧ (a.d (ib w 12 9)).toNat % 65536 + 4 * x.units ≤ ibWords (ib w 24 23)

/-- For a core that issues a SYNC with its reserved bits 0 on an object of its own lodging: SIG adds Dn to the count, clamped, and goes on; ARM sets the armed threshold and goes on; WAITS goes on when the count is at least Dn, else the core is WAITING at the WAITS for that object and value. No other object changes, nor memory. WAITS_SATISFIED lets a waiting core go on past the WAITS once the count is there, and does nothing before. An object of another lodging traps PERM. -/
def Obligations.IambelSyncObjects : Prop :=
  ∀ (s : State) (n : Fin 18) (w mv : Word), Issues s n w mv → iBnd w = false → iOp w = 0x10 → ib w 15 0 = 0 →
    let a := ibSees s n
    let o := (a.d (ib w 23 20)).toNat
    let v := (a.d (ib w 19 16)).toNat
    o < 4096 →
    (s.ibcHolder n.val ≠ none → s.syncHolder o = s.ibcHolder n.val →
      (ib w 25 24 = 0 → ∃ t, exec (.sig n w mv) s = .next t ∧ t.mem = s.mem ∧ (t.ibcOf n.val).a = a.step1 ∧ (t.ibcOf n.val).st = 1 ∧
        ∀ p, p < 4096 → t.syncArmed p = s.syncArmed p ∧ t.syncCount p = if p = o then min (s.syncCount o + v) (2 ^ 32 - 1) else s.syncCount p) ∧
      (ib w 25 24 = 2 → ∃ t, exec (.syncArm n w mv) s = .next t ∧ t.mem = s.mem ∧ (t.ibcOf n.val).a = a.step1 ∧ (t.ibcOf n.val).st = 1 ∧
        ∀ p, p < 4096 → t.syncCount p = s.syncCount p ∧ t.syncArmed p = if p = o then v else s.syncArmed p) ∧
      (ib w 25 24 = 1 → v ≤ s.syncCount o → Yields (.waits n w mv) s (ranTo s n a.step1)) ∧
      (ib w 25 24 = 1 → s.syncCount o < v → Yields (.waits n w mv) s
        (s.setIbc n.val fun b => { b with st := 2, waits := (o, v), a := a.after 1, skipBp := false }))) ∧
    (Loose s n → s.syncHolder o ≠ s.ibcHolder n.val → (ib w 25 24 = 0 → Traps (.sig n w mv) s n 4 St.permission) ∧
      (ib w 25 24 = 1 → Traps (.waits n w mv) s n 4 St.permission) ∧ (ib w 25 24 = 2 → Traps (.syncArm n w mv) s n 4 St.permission))

/-- WAITS_SATISFIED of a core that waits for a count not reached does nothing; with it reached the core runs on past its WAITS with every result landed. XFER_DONE with an empty queue does nothing; of a first transfer inside the device, without poison and outside the encrypted tier, no unit of its lodging waiting for a token: the bytes of the source are at the destination, all other memory is as before, the transfer has left the queue, and when it asked for a signal its object has counted one and source 4 is pending. -/
def Obligations.IambelWaitsAndTransfersEnd : Prop :=
  ∀ (s : State) (n : Fin 18),
    ((s.ibcOf n.val).st = 2 → s.syncCount (s.ibcOf n.val).waits.1 < (s.ibcOf n.val).waits.2 → exec (.waitsSatisfied n) s = .next s) ∧
    ((s.ibcOf n.val).st = 2 → (s.ibcOf n.val).waits.2 ≤ s.syncCount (s.ibcOf n.val).waits.1 → Yields (.waitsSatisfied n) s
      (s.setIbc n.val fun b => { b with st := 1, a := b.a.landAll.step1 })) ∧
    ((s.ibcOf n.val).xq = [] → exec (.xferDone n) s = .next s) ∧
    ∀ x rest, (s.ibcOf n.val).xq = x :: rest → x.st = St.ok → w3Remote x.w3 = false → rest = [] → s.owes ((s.ibcHolder n.val).getD 0) .air = false →
      s.inTier x.addr = false → s.inTier x.local_ = false →
      let src := if x.toCore then x.addr else x.local_
      let dst := if x.toCore then x.local_ else x.addr
      s.poisoned src (16 * x.units) = false → ∃ t, exec (.xferDone n) s = .next t ∧ (t.ibcOf n.val).xq = [] ∧
        (∀ i, i < 16 * x.units → t.rb (dst + i) = s.rb (src + i)) ∧ (∀ b, ¬(dst ≤ b ∧ b < dst + 16 * x.units) → t.rb b = s.rb b) ∧
        (x.sig = true → x.obj < 4096 → t.syncCount x.obj = min (s.syncCount x.obj + 1) (2 ^ 32 - 1) ∧
          t.rbit (Reg.IBC_IRQ_PEND n.val) 4 = true)

/-- For a core that issues the word: XFER waits while 8 transfers are queued; bundled, with MEM 3 or a reserved bit it traps ILLEGAL, without the rights PERM, out of range or misaligned XFER with BOUNDS; one whose checks pass joins the end of the queue, the core going on, and the first of an empty queue starts, a remote one on a link that is down with FAILED. CREG bundled or with a reserved bit traps ILLEGAL. CREG of a register the core reaches: a read is taken now and stands as the last read in flight for Dn; a write is made, the core going on. CREG of one it does not reach traps PERM. CREG_READ_LAND puts the oldest read's value in its register, and with none in flight does nothing. -/
def Obligations.IambelTransfersAndRegisters : Prop :=
  ∀ (s : State) (n : Fin 18) (w mv : Word),
    ((s.ibcOf n.val).reads = [] → exec (.cregReadLand n) s = .next s) ∧
    (∀ r rest, (s.ibcOf n.val).reads = r :: rest → exec (.cregReadLand n) s = .next (s.setIbc n.val fun b => { b.landRead r with reads := rest })) ∧
    (iOp w = 0x11 → 8 ≤ (s.ibcOf n.val).xq.length → exec (.xfer n w mv) s = .next s) ∧
    (Issues s n w mv → Loose s n → (s.ibcOf n.val).xq.length < 8 →
      (iOp w = 0x11 → iBnd w = true ∨ ib w 24 23 = 3 ∨ ib w 3 0 ≠ 0 → Traps (.xfer n w mv) s n 1 St.format) ∧
      (iOp w = 0x12 → iBnd w = true ∨ ib w 16 0 ≠ 0 → Traps (.creg n w mv) s n 1 St.format)) ∧
    (Issues s n w mv → iBnd w = false →
      (∀ l, iOp w = 0x11 → ib w 24 23 ≠ 3 → ib w 3 0 = 0 → (s.ibcOf n.val).xq.length < 8 → l = (s.ibcHolder n.val).getD 0 →
        (Loose s n → ¬ XferMay s n w l → Traps (.xfer n w mv) s n 4 St.permission) ∧
        (Loose s n → XferMay s n w l → ¬ XferFits s n w l → Traps (.xfer n w mv) s n 7 St.bounds) ∧
        (XferMay s n w l → XferFits s n w l → ∃ t, exec (.xfer n w mv) s = .next t ∧ t.mem = s.mem ∧
          (∀ r, noteReg r = false → (∀ k, k < 3 → r ≠ lvlReg l k) → t.rr r = s.rr r) ∧
          (t.ibcOf n.val).a = (ibSees s n).step1 ∧
          (∀ x rest, (s.ibcOf n.val).xq = x :: rest → x.started = true → (t.ibcOf n.val).xq = x :: rest ++ [xferOf s n w]) ∧
          ((s.ibcOf n.val).xq = [] → (t.ibcOf n.val).xq = [{ xferOf s n w with
            started := true
            st := if w3Remote (xferOf s n w).w3 = true ∧ s.linkUp (w3Link (xferOf s n w).w3) = false then St.failed else St.ok }]))) ∧
      (iOp w = 0x12 → ib w 16 0 = 0 →
        let off := ((ibSees s n).d (ib w 24 21)).toNat % 2 ^ 24
        let u := (s.event (0x30 + n.val) 0x3000 (s.ibcHolder n.val)).setIbc n.val fun b => { b with a := ibSees s n }
        (off % 4 = 0 → s.reach (.ibc n) off false = true → ib w 25 25 = 0 → ∃ t, exec (.creg n w mv) s = .next t ∧ t.mem = s.mem ∧
          (t.ibcOf n.val).a = (ibSees s n).step1 ∧
          (t.ibcOf n.val).reads = [⟨(ibSees s n).high, ib w 20 17, (u.busRead (.ibc n) off).2, (ibSees s n).cyc⟩]) ∧
        (off % 4 = 0 → s.reach (.ibc n) off true = true → ib w 25 25 = 1 → exec (.creg n w mv) s = .next
          (((u.setIbc n.val fun b => { Ibc.checkpoint b with a := (ibSees s n).step1 }).busWrite (.ibc n) off fullMask
            ((ibSees s n).d (ib w 20 17))).setIbc n.val fun b => { b with skipBp := false })) ∧
        (Loose s n → off % 4 ≠ 0 ∨ s.reach (.ibc n) off (ib w 25 25 == 1) = false → Traps (.creg n w mv) s n 4 St.permission)))

/-- INTERRUPT with none to take does nothing; else, at a boundary of a running core, its source is no longer pending, the PC is the vector of its level, the old PC, ST, LC and loop are saved for that level, LEV is the level, and the core runs. CHECKPOINT when due records the registers and empties the undo log, else nothing. By a requester that reaches it: RUN = 1 on a STOPPED or TRAPPED core starts it at ENTRY and on another does nothing; RUN = 0 stops a core, inside a REP only at its end; IRQ_SET makes sources 5 to 7 of its bits pending; MBOX holds the value and makes source 2 pending unless the core wrote it itself. -/
def Obligations.IambelInterruptsAndRequests : Prop :=
  ∀ (s : State) (n : Fin 18) (who : Requester) (v : Word),
    let b := s.ibcOf n.val
    (s.irqPick n.val = none → exec (.interruptIbc n) s = .next s) ∧
    (∀ src high, s.irqPick n.val = some (src, high) → (b.st = 1 ∨ b.st = 2 ∨ b.st = 3) → b.a.rep = none → b.wp = none →
      b.stepping = false → b.stopReq = false → b.haltReq = false → ∃ t, exec (.interruptIbc n) s = .next t ∧ t.mem = s.mem ∧
        t.rbit (Reg.IBC_IRQ_PEND n.val) src = false ∧ (t.ibcOf n.val).st = 1 ∧
        let a := b.a.landAll.after 12
        let save : IbSave := ⟨a.pc, a.cur.st, a.lc, a.loop⟩
        let u := (t.ibcOf n.val).a
        u.loop = none ∧ (high = true → u.hi = save ∧ u.high = true ∧ u.lev = 2 ∧ u.pc = s.gf (Reg.IBC_VEC n.val) Fld.IBC_VEC_HIGH) ∧
          (high = false → u.low = save ∧ u.high = a.high ∧ u.lev = 1 ∧ u.pc = s.gf (Reg.IBC_VEC n.val) Fld.IBC_VEC_LOW)) ∧
    ((b.st = 1 ∨ b.st = 2 ∨ b.st = 3) → b.ckDue = true → exec (.checkpoint n) s = .next (s.setIbc n.val Ibc.checkpoint)) ∧
    (b.ckDue = false → exec (.checkpoint n) s = .next s) ∧
    (s.reach who (Reg.IBC_CTL n.val) true = true →
      (b.st = 0 ∨ b.st = 4 → (∃ t, exec (.ibcRun who n) s = .next t ∧ (t.ibcOf n.val).st = 1 ∧ t.mem = s.mem ∧ t.regs = s.regs ∧
          (t.ibcOf n.val).a.pc = s.gf (Reg.IBC_ENTRY n.val) Fld.IBC_ENTRY_ENTRY ∧ (t.ibcOf n.val).a.ras = [] ∧ (t.ibcOf n.val).a.loop = none) ∧
        exec (.ibcRunStop who n) s = .next s) ∧
      (b.st ≠ 0 → b.st ≠ 4 → exec (.ibcRun who n) s = .next s ∧
        (b.a.rep.isSome = true → b.st = 1 → exec (.ibcRunStop who n) s = .next (s.setIbc n.val fun b => { b with stopReq := true })) ∧
        (b.a.rep = none → ∃ t, exec (.ibcRunStop who n) s = .next t ∧ (t.ibcOf n.val).st = 0 ∧ t.mem = s.mem))) ∧
    (s.reach who (Reg.IBC_IRQ_SET n.val) true = true → ∃ t, exec (.irqSet who n v) s = .next t ∧ t.mem = s.mem ∧
      ∀ i, i < 8 → t.rbit (Reg.IBC_IRQ_PEND n.val) i = (s.rbit (Reg.IBC_IRQ_PEND n.val) i || (decide (5 ≤ i) && v.getLsbD i))) ∧
    (s.reach who (Reg.IBC_MBOX n.val) true = true → ∃ t, exec (.mbox who n v) s = .next t ∧ t.mem = s.mem ∧ t.rr (Reg.IBC_MBOX n.val) = v ∧
      (who ≠ .ibc n → t.rbit (Reg.IBC_IRQ_PEND n.val) 2 = true) ∧
      (who = .ibc n → t.rbit (Reg.IBC_IRQ_PEND n.val) 2 = s.rbit (Reg.IBC_IRQ_PEND n.val) 2))

/-- Inside the grant: TC_HALT of a RUN or WAITING slot leaves it HALTED with cause 1 and HALTED set; TC_STEP of a HALTED slot lets exactly one command through, after which the slot is HALTED with cause 2 (shown for NOP); TC_RESUME lets it run on; BRK with BRK_EN leaves it HALTED with cause 5. STEP and RESUME of a slot that is not halted, and any of the three outside the grant, change nothing but ACC_ERR. CONTROL_PROCESSOR_HALT inside the grant halts the Porter or the Innkeeper, CONTROL_PROCESSOR_STEP of a halted one leaves it halted. Inside the grant: IBC_HALT of a core that runs, waits or idles outside a REP leaves it HALTED with cause 1; inside a REP the halt is noted. STEP of a halted core lets it run as it was with the step noted; RESUME lets it run on; both of a core that is not halted, and all three outside the grant, change nothing but ACC_ERR. BREAKPOINT at an enabled one leaves a running core HALTED with cause 3 and the index, at none it does nothing; WATCHPOINT of one that matched halts with cause 4, outside a REP. -/
def Obligations.DebugHalts : Prop :=
  (∀ (s : State) (c : Fin 32) (sl : Slot) (w : CmdWord) (porter : Bool),
      let cause := match sl with
        | .a => Fld.DBG_TC_CAUSE_A_CAUSE
        | .b => Fld.DBG_TC_CAUSE_B_CAUSE
      let t := slotNow s c sl
      let halts := fun (i : Instr) (why : Nat) => ∃ u, exec i s = .next u ∧ (u.slotOf c.val (s.curPart c.val) sl).st = 4 ∧
        u.gf (Reg.DBG_TC_CAUSE c.val) cause = why ∧ u.rbit Reg.DBG_FLAG 0 = true ∧ u.mem = s.mem ∧ u.host = s.host
      (s.grants 1 (s.slotLdg c.val sl) = true →
        (t.active = true → (t.st = 1 ∨ t.st = 2) → halts (.tcHalt c sl) 1) ∧
        (t.st = 4 → Yields (.tcStep c sl) s (setNow s c sl fun u => { u with st := u.free, skipSeq := true, step := true }) ∧
          Yields (.tcResume c sl) s (State.leaveDebug (setNow s c sl fun u => { u with st := u.free, skipSeq := true, step := false }) t.ldg)) ∧
        (t.st ≠ 4 → Yields (.tcStep c sl) s s ∧ Yields (.tcResume c sl) s s)) ∧
      (s.grants 1 (s.slotLdg c.val sl) = false → Yields (.tcHalt c sl) s s ∧ Yields (.tcStep c sl) s s ∧ Yields (.tcResume c sl) s s ∧
        ∀ u, exec (.tcHalt c sl) s = .next u → u.rbit Reg.DBG_FLAG 2 = true) ∧
      (Decodes s c sl w → w = 0 → t.step = true → halts (.nop c sl w) 2) ∧
      (Decodes s c sl w → w.toNat = 0xF0 * 2 ^ 120 → t.step = false → s.gf (Reg.DBG_TC_CTL c.val) (match sl with
          | .a => Fld.DBG_TC_CTL_A_BRK_EN
          | .b => Fld.DBG_TC_CTL_B_BRK_EN) = 1 → halts (.brk c sl w) 5) ∧
      (s.grantsCp porter = true →
        (porter = true → s.porterHalt = false → Yields (.controlProcessorHalt porter) s { s with porterHalt := true }) ∧
        (porter = false → s.innHalt = false → Yields (.controlProcessorHalt porter) s { s with innHalt := true }) ∧
        ((if porter then s.porterHalt else s.innHalt) = true → Yields (.controlProcessorStep porter) s s))) ∧
  (∀ (s : State) (n : Fin 16),
      let b := s.ibcOf n.val
      let halts := fun (i : Instr) (why ix : Nat) => ∃ t, exec i s = .next t ∧ (t.ibcOf n.val).st = 5 ∧
        t.gf (Reg.DBG_IBC_CAUSE n.val) Fld.DBG_IBC_CAUSE_CAUSE = why ∧ t.gf (Reg.DBG_IBC_CAUSE n.val) Fld.DBG_IBC_CAUSE_INDEX = ix ∧
        t.rbit Reg.DBG_FLAG 0 = true ∧ t.mem = s.mem
      (s.grants 0 (s.ibcHolder n.val) = true →
        ((b.st = 1 ∨ b.st = 2 ∨ b.st = 3) → b.a.rep = none → halts (.ibcHalt n) 1 0) ∧
        (b.st = 1 → b.a.rep.isSome = true → Yields (.ibcHalt n) s (s.setIbc n.val fun b => { b with haltReq := true })) ∧
        (b.st = 5 → Yields (.ibcStep n) s (s.setIbc n.val fun b => { b with st := if b.preHalt = 3 then 3 else 1, stepping := true, skipBp := true, wp := none }) ∧
          ∃ t, exec (.ibcResume n) s = .next t ∧ (t.ibcOf n.val).st = (if b.preHalt = 3 then 3 else 1) ∧ (t.ibcOf n.val).a = b.a ∧ t.mem = s.mem) ∧
        (b.st ≠ 5 → Yields (.ibcStep n) s s ∧ Yields (.ibcResume n) s s)) ∧
      (s.grants 0 (s.ibcHolder n.val) = false → Yields (.ibcHalt n) s s ∧ Yields (.ibcStep n) s s ∧ Yields (.ibcResume n) s s ∧
        ∀ t, exec (.ibcHalt n) s = .next t → t.rbit Reg.DBG_FLAG 2 = true) ∧
      (s.bpAt n.val b.a.pc = none → exec (.breakpoint n) s = .next s) ∧
      (∀ k, s.bpAt n.val b.a.pc = some k → b.st = 1 → halts (.breakpoint n) 3 k) ∧
      (b.wp = none → exec (.watchpoint n) s = .next s) ∧
      (∀ k, b.wp = some k → k < 8 → b.st = 1 → b.a.rep = none → halts (.watchpoint n) 4 k))

/-- STATUS of STG.STAT (R420). -/
def stgStatus (s : State) : Nat := s.gf Reg.STG_STAT Fld.STG_STAT_STATUS

/-- An operation of a staging touches nothing but the staging, STG.STAT, STG.FAIL, flags and counters. -/
def StagingOnly (s t : State) : Prop :=
  t = { s with regs := t.regs, msgs := t.msgs, stg := t.stg } ∧
    ∀ a, a ≠ Reg.STG_STAT → a ≠ Reg.STG_FAIL → noteReg a = false → t.rr a = s.rr a

/-- By a requester that may stage and reaches STG.CTL. IDLE: BEGIN opens the staging for its writer; CHECK, COMMIT and ABANDON do nothing but STATUS reads STATE. Open for its owner: BEGIN is BUSY and opens nothing; ABANDON closes it, its staged values gone. OPEN: CHECK writes STATUS and STG.FAIL, leaves it OPEN and its staged values as they are. PENDING: CHECK and COMMIT change nothing but flags. Another requester's write is discarded with FOREIGN. One that cannot stage has no effect on an IDLE staging. AUTO_ABANDON after 1 s OPEN closes it with its flag, and not before. -/
def Obligations.StagingOperations : Prop :=
  ∀ (who : Requester) (s : State),
    (s.reach who Reg.STG_CTL true = false → ∀ i ∈ [Instr.beginStg who, .checkStg who, .commitStg who, .abandonStg who],
      exec i s = .next (s.deny who)) ∧
    (s.reach who Reg.STG_CTL true = true →
      (s.stgSt ≠ 0 → ownerCode who ≠ s.stgOwner →
        ∀ i ∈ [Instr.beginStg who, .checkStg who, .commitStg who, .abandonStg who],
          ∃ t, exec i s = .next t ∧ s.Notes t ∧ t.rbit Reg.STG_FLAG 4 = true) ∧
      (s.stgSt = 0 → ownerCode who = 0 → ∀ i ∈ [Instr.beginStg who, .checkStg who, .commitStg who, .abandonStg who],
        exec i s = .next s) ∧
      (ownerCode who ≠ 0 →
        (s.stgSt = 0 → ∃ t, exec (.beginStg who) s = .next t ∧ StagingOnly s t ∧ t.stgSt = 1 ∧ t.stgOwner = ownerCode who ∧
          stgStatus t = St.ok ∧ t.stg.vals = s.stg.vals) ∧
        (s.stgSt = 0 → ∀ i ∈ [Instr.checkStg who, .commitStg who, .abandonStg who],
          ∃ t, exec i s = .next t ∧ StagingOnly s t ∧ t.stg = s.stg ∧ t.stgSt = 0 ∧ stgStatus t = St.state) ∧
        (s.stgSt ≠ 0 → s.stgOwner = ownerCode who →
          (∃ t, exec (.beginStg who) s = .next t ∧ StagingOnly s t ∧ t.stg = s.stg ∧ t.stgSt = s.stgSt ∧ t.stgOwner = s.stgOwner ∧
            stgStatus t = St.busy) ∧
          (∃ t, exec (.abandonStg who) s = .next t ∧ StagingOnly s t ∧ t.stgSt = 0 ∧ t.stgOwner = 0 ∧ t.stg.vals = [] ∧
            stgStatus t = St.ok)) ∧
        (s.stgSt = 1 → s.stgOwner = ownerCode who → ∃ t, exec (.checkStg who) s = .next t ∧ t.stgSt = 1 ∧
          t.stg.vals = s.stg.vals ∧ t.mem = (s.stgCheck false).1.mem ∧ stgStatus t = (s.stgCheck false).2.1 ∧
          t.rr Reg.STG_FAIL = BitVec.ofNat 32 (s.stgCheck false).2.2) ∧
        (s.stgSt ≠ 0 → s.stgSt ≠ 1 → s.stgOwner = ownerCode who → ∀ i ∈ [Instr.checkStg who, .commitStg who],
          ∃ t, exec i s = .next t ∧ StagingOnly s t ∧ t.stg = s.stg ∧ t.stgSt = s.stgSt ∧ stgStatus t = St.busy))) ∧
    (s.stgSt = 1 → s.stg.at_ + 600000000 ≤ s.cycle → ∃ t, exec .autoAbandon s = .next t ∧ StagingOnly s t ∧ t.stgSt = 0 ∧
      t.stg.vals = [] ∧ t.rbit Reg.STG_FLAG 3 = true) ∧
    (s.stgSt ≠ 1 ∨ s.cycle < s.stg.at_ + 600000000 → exec .autoAbandon s = .next s)

/-- COMMIT of an OPEN staging by its owner, with u the state after the check: refused (STATE OPEN, the check's status, REFUSED, the failing register in STG.FAIL, the values still staged); live at once in MODE 0 with the Innkeeper running; else PENDING with STATUS BUSY. A pending commit at its instant becomes live within 100 µs of its first check, and after that as its second check says. A commit that is live leaves the staging IDLE with no owner and no value, STATUS OK, STG.FAIL 0 and COMMITTED set. A held resource is released once its carriers' deadlines have passed and its waybill has ended, and not while the Innkeeper is halted; when none is left RELEASED is set and RELEASING reads 0. A lodging that has not yielded in time is torn down with CAUSE 4 and YIELD_TD. -/
def Obligations.CommitTakesEffect : Prop :=
  ∀ (who : Requester) (s : State) (l : Fin 16) (n : Nat),
    (s.applyCommit.stgSt = 0 ∧ s.applyCommit.stgOwner = 0 ∧ s.applyCommit.stg.vals = [] ∧ stgStatus s.applyCommit = St.ok ∧
      s.applyCommit.rr Reg.STG_FAIL = 0 ∧ s.applyCommit.rbit Reg.STG_FLAG 0 = true) ∧
    (s.reach who Reg.STG_CTL true = true → ownerCode who ≠ 0 → s.stgSt = 1 → s.stgOwner = ownerCode who →
      ∀ u st reg, s.stgCheck true = (u, st, reg) →
        (st ≠ St.ok → ∃ t, exec (.commitStg who) s = .next t ∧ StagingOnly u t ∧ t.stgSt = 1 ∧ stgStatus t = st ∧ t.stg.vals = u.stg.vals ∧
          t.rr Reg.STG_FAIL = BitVec.ofNat 32 reg ∧ t.rbit Reg.STG_FLAG 1 = true) ∧
        (st = St.ok → u.gf Reg.STG_WHEN Fld.STG_WHEN_MODE = 0 → u.innHalt = false →
          exec (.commitStg who) s = .next u.applyCommit) ∧
        (st = St.ok → u.gf Reg.STG_WHEN Fld.STG_WHEN_MODE ≠ 0 ∨ u.innHalt = true → ∃ t, exec (.commitStg who) s = .next t ∧
          StagingOnly u t ∧ t.stgSt = 3 ∧ stgStatus t = St.busy ∧ t.stg.vals = u.stg.vals ∧ t.rr Reg.STG_FAIL = 0)) ∧
    (s.stgSt ≠ 3 ∨ s.innHalt = true ∨ s.instant = false → exec .commitInstant s = .next s) ∧
    (s.stgSt = 3 → s.innHalt = false → s.instant = true →
      (s.cycle < s.stg.at_ + 60000 → exec .commitInstant s = .next s.applyCommit) ∧
      (s.stg.at_ + 60000 ≤ s.cycle → ∀ u st reg, s.stgCheck false = (u, st, reg) →
        (st = St.ok → exec .commitInstant s = .next u.applyCommit) ∧
        (st ≠ St.ok → exec .commitInstant s = .next (u.refuseCommit st reg)))) ∧
    (s.stg.releases[n]? = none → exec (.resourceRelease n) s = .next s) ∧
    (∀ r, s.stg.releases[n]? = some r →
      (s.innHalt = true ∨ (∃ x ∈ r.car, s.now x.1 < x.2) ∨ (∃ w, (s.lodgeOf r.from_).run = some w ∧ r.wb = some w.no) →
        exec (.resourceRelease n) s = .next s) ∧
      (s.innHalt = false → (∀ x ∈ r.car, x.2 ≤ s.now x.1) → (∀ w, (s.lodgeOf r.from_).run = some w → r.wb ≠ some w.no) →
        let u := ({ s with stg := { s.stg with releases := s.stg.releases.eraseIdx n } }.clearRes r).enterCores
        ∃ t, exec (.resourceRelease n) s = .next t ∧ t.mem = u.mem ∧
          (u.stg.releases = [] → t.rbit Reg.STG_FLAG 2 = true ∧ t.gf Reg.STG_STAT Fld.STG_STAT_RELEASING = 0) ∧
          (u.stg.releases ≠ [] → t.gf Reg.STG_STAT Fld.STG_STAT_RELEASING = 1))) ∧
    ((s.lodgeOf l.val).yieldAt = none → exec (.yieldLimitExpiry l) s = .next s) ∧
    (∀ y, (s.lodgeOf l.val).yieldAt = some y →
      (s.innHalt = true ∨ s.cycle < y + 600 * s.gf (Reg.LDG_YIELD l.val) Fld.LDG_YIELD_LIMIT → exec (.yieldLimitExpiry l) s = .next s) ∧
      (s.innHalt = false → y + 600 * s.gf (Reg.LDG_YIELD l.val) Fld.LDG_YIELD_LIMIT ≤ s.cycle → ∃ t, exec (.yieldLimitExpiry l) s = .next t ∧
        (s.teardown l.val 4 0xFF 0xFF 0 St.timeout).Notes t ∧ t.rbit Reg.LDG_FLAG 2 = true))

/-- A read of CNT_LO that is allowed returns the low word and latches bits [47:32] for its requester; one that is not returns 0. A write of CNT_LO by a requester that may write counters is held; a write of CNT_HI loads the word held, or the present low word, with its own 16 bits. Another requester's write changes only flags. A snapshot that is not due, or with the Ledger off, does nothing; the one that is due takes the next number, sets when the next is due 600 × INTERVAL cycles on, and one that was missed takes a number and sets SKIP. (The first has number 0: the model's choice, log 38.) -/
def Obligations.CountersAndSnapshots : Prop :=
  ∀ (who : Requester) (b : Fin 66) (i : Fin 8) (v : Word) (s : State),
    (s.reach who (Reg.CNT_LO b.val i.val) false = true → s.mayReadCnt who b.val i.val = true →
      ∃ t, exec (.cntLoRead who b i) s = .next t ∧
        t = { s with
              rdata := t.rdata
              cntLatch := t.cntLatch } ∧
        tget (fun _ => 0) t.rdata (reqIx who) = BitVec.ofNat 32 (s.cntVal b.val i.val) ∧
        t.readCntHi who b.val i.val = BitVec.ofNat 32 (s.cntVal b.val i.val / 2 ^ 32)) ∧
    (s.reach who (Reg.CNT_LO b.val i.val) false = false ∨ s.mayReadCnt who b.val i.val = false →
      ∃ u : State, s.Notes u ∧ exec (.cntLoRead who b i) s = .next (u.returns who 0)) ∧
    (s.reach who (Reg.CNT_LO b.val i.val) true = true → mayWriteCnt who = true →
      ∃ t, exec (.cntLoWrite who b i v) s = .next t ∧ t = { s with cntPend := t.cntPend } ∧
        tget (fun _ => none) t.cntPend (Reg.CNT_LO b.val i.val) = some v.toNat) ∧
    (s.reach who (Reg.CNT_HI b.val i.val) true = true → mayWriteCnt who = true →
      ∀ lo, lo < 2 ^ 32 → (tget (fun _ => none) s.cntPend (Reg.CNT_LO b.val i.val)).getD (s.rr (Reg.CNT_LO b.val i.val)).toNat = lo →
        ∃ t, exec (.cntHiWrite who b i v) s = .next t ∧ t.cntVal b.val i.val = lo + 2 ^ 32 * (v.toNat % 2 ^ 16) ∧
          tget (fun _ => none) t.cntPend (Reg.CNT_LO b.val i.val) = none ∧ t.mem = s.mem ∧
          ∀ a, a ≠ Reg.CNT_LO b.val i.val → a ≠ Reg.CNT_HI b.val i.val → t.rr a = s.rr a) ∧
    (s.reach who (Reg.CNT_LO b.val i.val) true = false ∨ mayWriteCnt who = false → Yields (.cntLoWrite who b i v) s s) ∧
    (s.reach who (Reg.CNT_HI b.val i.val) true = false ∨ mayWriteCnt who = false → Yields (.cntHiWrite who b i v) s s) ∧
    (s.gf Reg.LEDG_CFG Fld.LEDG_CFG_EN = 0 ∨ s.cycle < s.ledgDue → exec .snapshot s = .next s) ∧
    (s.gf Reg.LEDG_CFG Fld.LEDG_CFG_EN ≠ 0 → s.ledgPeriod ≠ 0 → s.ledgDue ≤ s.cycle →
      ∃ t, exec .snapshot s = .next t ∧
        t.rr Reg.LEDG_SEQ = s.rr Reg.LEDG_SEQ + BitVec.ofNat 32 ((s.cycle - s.ledgDue) / s.ledgPeriod + 1) ∧
        t.ledgDue = s.ledgDue + ((s.cycle - s.ledgDue) / s.ledgPeriod + 1) * s.ledgPeriod ∧ s.cycle < t.ledgDue ∧
        (s.ledgDue + s.ledgPeriod ≤ s.cycle → t.rbit Reg.LEDG_FLAG 1 = true))

/-- PTP_RX: a frame that is no PTP frame of an encapsulation the port has on only sets UNSUP of FH.FLAG; a recognised one that is not forwarded is put, whole and behind a header with its length and port, into the port's receive ring when there is room, whose TAIL moves on by one; without room the host's memory stays and PTP_RX_FULL is set. A forwarded one joins the transmit queue of every other port of FWD whose queue holds fewer than 16. PTP_TX sends the frame that waits longest in the queue, an untouched one when it is no event message; with an empty queue and an empty or disabled ring it does nothing. BLOCK_LOCK_LOSS squelches the SyncE outputs that follow the port, sets LINK_DOWN of FH.FLAG and with such an output SYNCE_SQUELCH; BLOCK_LOCK_RETURN ends both. -/
def Obligations.PtpFramesAndBlockLock : Prop :=
  ∀ (p : Fin 12) (f : List Byte) (s : State),
    (encap f = none ∨ (∃ e, encap f = some e ∧ s.ptpOn p.val e = false) →
      ∃ t, exec (.ptpRx p f) s = .next t ∧ s.Notes t ∧ t.rbit Reg.FH_FLAG 4 = true) ∧
    (∀ e, encap f = some e → s.ptpOn p.val e = true → ∃ t, exec (.ptpRx p f) s = .next t ∧
      (∀ b, b < 12 → b ≠ p.val → (s.gf (Reg.TB_PTP_CFG p.val) Fld.TB_PTP_CFG_FWD).testBit b = true →
        (tget (fun _ => []) s.ptpQ b).length < 16 → tget (fun _ => []) t.ptpQ b = tget (fun _ => []) s.ptpQ b ++ [(s.cycle, f)]) ∧
      (s.gf (Reg.TB_PTP_CFG p.val) Fld.TB_PTP_CFG_FWD = 0 → s.gf (Reg.HIF_PTP_CFG p.val) Fld.HIF_PTP_CFG_EN ≠ 0 →
        let r := Reg.HIF_PRX_PTR p.val
        let n := s.prxLen p.val
        let tail := s.gf r Fld.HIF_PRX_PTR_TAIL
        let a := s.hostBase (Reg.HIF_PRX_BASE_LO p.val) (Reg.HIF_PRX_BASE_HI p.val) + 2048 * tail
        let room := s.gf r Fld.HIF_PRX_PTR_HEAD < n ∧ (tail + 1) % n ≠ s.gf r Fld.HIF_PRX_PTR_HEAD ∧ f.length ≤ 2032
        (room → t.gf r Fld.HIF_PRX_PTR_TAIL = (tail + 1) % n % 2 ^ 16 ∧ t.hrdLE a 2 = f.length ∧ t.hrdLE (a + 2) 1 = p.val ∧
          ∀ j b, f[j]? = some b → t.hb (a + 16 + j) = b) ∧
        (¬ room → t.host = s.host ∧ t.rbit Reg.HIF_FLAG 5 = true))) ∧
    (∀ at_ g rest, tget (fun _ => []) s.ptpQ p.val = (at_, g) :: rest → ∃ t, exec (.ptpTx p) s = .next t ∧
      tget (fun _ => []) t.ptpQ p.val = rest ∧ (∀ b, b ≠ p.val → tget (fun _ => []) t.ptpQ b = tget (fun _ => []) s.ptpQ b) ∧
      t.mem = s.mem ∧ t.host = s.host ∧ ∃ h, t.fhTx = s.fhTx ++ [⟨p.val, 2, 0, 0, 0, 0, 0, h⟩] ∧
        (encap g = none ∨ (∃ e, encap g = some e ∧ 3 < ptpType g e) → h = g)) ∧
    (tget (fun _ => []) s.ptpQ p.val = [] →
      s.gf (Reg.HIF_PTP_CFG p.val) Fld.HIF_PTP_CFG_EN = 0 ∨
        s.gf (Reg.HIF_PTX_PTR p.val) Fld.HIF_PTX_PTR_HEAD = s.gf (Reg.HIF_PTX_PTR p.val) Fld.HIF_PTX_PTR_TAIL →
      ∃ t, exec (.ptpTx p) s = .next t ∧ t = { s with free := t.free }) ∧
    (∃ t, exec (.blockLockLoss p) s = .next t ∧ p.val ∈ t.unlocked ∧ t.rbit Reg.FH_FLAG 0 = true ∧
      ∀ k, k ∈ s.synceOf p.val → t.gf (Reg.TB_SYNCE k) Fld.TB_SYNCE_SQUELCHED = 1 ∧ t.rbit Reg.TB_FLAG 13 = true) ∧
    (∃ t, exec (.blockLockReturn p) s = .next t ∧ p.val ∉ t.unlocked ∧
      ∀ k, k ∈ s.synceOf p.val → t.gf (Reg.TB_SYNCE k) Fld.TB_SYNCE_SQUELCHED = 0)
end

