-- ==== Sys2Proof/Laws/Tbl.lean ====
section
/-! SUPPORT. The laws of the sparse tables: what a read sees after a write, and that every operation keeps the canonical form. -/
namespace Sys2Proof

variable {α : Type}

/-- A bound below a table. -/
def tbelow (b : Option Nat) (k : Nat) : Bool :=
  match b with
  | none => true
  | some m => decide (m < k)

section reads

@[simp] theorem tget_nil (d : Nat → α) (k : Nat) : tget d [] k = d k := rfl

theorem tget_tdel (d : Nat → α) (t : Tbl α) (k j : Nat) : tget d (tdel t k) j = if j = k then d j else tget d t j := by
  induction t with
  | nil => simp [tdel, tget]
  | cons e t ih =>
    obtain ⟨i, v⟩ := e
    by_cases h : k = i
    · subst h
      by_cases h2 : j = k
      · subst h2; simpa [tdel] using ih
      · simp [tdel, tget, ih, h2]
    · by_cases h2 : j = i
      · subst h2
        have : ¬ j = k := fun x => h x.symm
        simp [tdel, tget, h, this]
      · simp [tdel, tget, h, h2, ih]

theorem tget_tins (d : Nat → α) (t : Tbl α) (k : Nat) (v : α) (j : Nat) (h : ∀ e ∈ t, e.1 ≠ k) :
    tget d (tins t k v) j = if j = k then v else tget d t j := by
  induction t with
  | nil => simp [tins, tget]
  | cons e t ih =>
    obtain ⟨i, w⟩ := e
    have hi : i ≠ k := h (i, w) (by simp)
    have ih := ih fun e he => h e (by simp [he])
    by_cases hk : k < i
    · simp [tins, tget, hk]
    · by_cases h2 : j = i
      · subst h2; simp [tins, tget, hk, hi]
      · simp [tins, tget, hk, h2, ih]

theorem tdel_keys (t : Tbl α) (k : Nat) : ∀ e ∈ tdel t k, e.1 ≠ k := by
  induction t with
  | nil => simp [tdel]
  | cons e t ih =>
    obtain ⟨i, v⟩ := e
    by_cases h : k = i
    · subst h
      simp only [tdel, if_true]
      exact ih
    · intro e he
      simp only [tdel, h, if_false, List.mem_cons] at he
      rcases he with rfl | he
      · exact fun x => h x.symm
      · exact ih e he

variable [DecidableEq α]

/-- A read after a write: the written key holds the value, every other key is as before. -/
theorem tget_tput (d : Nat → α) (t : Tbl α) (k : Nat) (v : α) (j : Nat) :
    tget d (tput d t k v) j = if j = k then v else tget d t j := by
  unfold tput
  by_cases hv : v = d k
  · simp only [hv, if_true, tget_tdel]
    by_cases h : j = k <;> simp [h]
  · simp only [hv, if_false]
    rw [tget_tins d _ _ _ _ (tdel_keys t k), tget_tdel]
    by_cases h : j = k <;> simp [h]

@[simp] theorem tget_tput_same (d : Nat → α) (t : Tbl α) (k : Nat) (v : α) : tget d (tput d t k v) k = v := by
  simp [tget_tput]

theorem tget_tput_other (d : Nat → α) (t : Tbl α) (k : Nat) (v : α) (j : Nat) (h : j ≠ k) :
    tget d (tput d t k v) j = tget d t j := by simp [tget_tput, h]

theorem tget_tmod (d : Nat → α) (t : Tbl α) (k : Nat) (f : α → α) (j : Nat) :
    tget d (tmod d t k f) j = if j = k then f (tget d t k) else tget d t j := by
  simp [tmod, tget_tput]

omit [DecidableEq α] in
theorem tget_tclear (d : Nat → α) (lo hi : Nat) (t : Tbl α) (j : Nat) :
    tget d (tclear lo hi t) j = if lo ≤ j ∧ j < hi then d j else tget d t j := by
  induction t with
  | nil => simp [tclear, tget]
  | cons e t ih =>
    obtain ⟨i, v⟩ := e
    by_cases h : lo ≤ i ∧ i < hi
    · by_cases h2 : j = i
      · subst h2; simp [tclear, tget, h, ih]
      · simp only [tclear, h, and_self, if_true, ih, tget, h2, if_false]
    · by_cases h2 : j = i
      · subst h2; simp [tclear, tget, h]
      · simp only [tclear, h, if_false, tget, h2, ih]

theorem tget_tputN (d : Nat → α) (f : Nat → α) (k n : Nat) (t : Tbl α) (j : Nat) :
    tget d (tputN d f k n t) j = if k ≤ j ∧ j < k + n then f (j - k) else tget d t j := by
  induction n with
  | zero =>
    have : ¬ (k ≤ j ∧ j < k + 0) := by omega
    simp only [tputN]
    rw [if_neg this]
  | succ n ih =>
    simp only [tputN, tget_tput, ih]
    by_cases h : j = k + n
    · subst h; simp
    · by_cases h2 : k ≤ j ∧ j < k + n
      · have : k ≤ j ∧ j < k + (n + 1) := by omega
        simp [h, h2, this]
      · have : ¬ (k ≤ j ∧ j < k + (n + 1)) := by omega
        simp [h, h2, this]

end reads

section form

variable [DecidableEq α]

theorem twfFrom_weaken (d : Nat → α) (t : Tbl α) (b c : Option Nat) (h : twfFrom d b t = true)
    (hbc : ∀ k, tbelow b k = true → tbelow c k = true) : twfFrom d c t = true := by
  cases t with
  | nil => rfl
  | cons e t =>
    obtain ⟨i, v⟩ := e
    simp only [twfFrom, Bool.and_eq_true] at h ⊢
    refine ⟨⟨?_, h.1.2⟩, h.2⟩
    have := hbc i
    unfold tbelow at this
    exact this h.1.1

theorem twfFrom_tdel (d : Nat → α) (t : Tbl α) (b : Option Nat) (k : Nat) (h : twfFrom d b t = true) :
    twfFrom d b (tdel t k) = true := by
  induction t generalizing b with
  | nil => rfl
  | cons e t ih =>
    obtain ⟨i, v⟩ := e
    simp only [twfFrom, Bool.and_eq_true] at h
    by_cases hk : k = i
    · simp only [tdel, hk, if_true]
      refine ih b (twfFrom_weaken d t (some i) b (by simpa [hk] using h.2) ?_) |> fun x => by simpa [hk] using x
      intro j hj
      have h1 := h.1.1
      cases b with
      | none => rfl
      | some m => simp only [tbelow, decide_eq_true_eq] at *; omega
    · simp only [tdel, hk, if_false, twfFrom, Bool.and_eq_true]
      exact ⟨h.1, ih _ h.2⟩

theorem twfFrom_tins (d : Nat → α) (t : Tbl α) (b : Option Nat) (k : Nat) (v : α) (h : twfFrom d b t = true)
    (hb : tbelow b k = true) (hv : v ≠ d k) (hk : ∀ e ∈ t, e.1 ≠ k) : twfFrom d b (tins t k v) = true := by
  induction t generalizing b with
  | nil =>
    simp only [tins, twfFrom, Bool.and_eq_true, Bool.and_true]
    exact ⟨hb, by simp [hv]⟩
  | cons e t ih =>
    obtain ⟨i, w⟩ := e
    have hi : i ≠ k := hk (i, w) (by simp)
    have h0 := h
    simp only [twfFrom, Bool.and_eq_true] at h
    by_cases hlt : k < i
    · simp only [tins, hlt, if_true, twfFrom, Bool.and_eq_true]
      exact ⟨⟨hb, by simp [hv]⟩, ⟨by simp [hlt], h.1.2⟩, h.2⟩
    · simp only [tins, hlt, if_false, twfFrom, Bool.and_eq_true]
      refine ⟨h.1, ih _ h.2 ?_ fun e he => hk e (by simp [he])⟩
      simp only [tbelow, decide_eq_true_eq]; omega

/-- A write keeps the canonical form. -/
theorem twf_tput (d : Nat → α) (t : Tbl α) (k : Nat) (v : α) (h : twf d t = true) : twf d (tput d t k v) = true := by
  unfold tput twf
  by_cases hv : v = d k
  · simpa [hv] using twfFrom_tdel d t none k h
  · simpa [hv] using twfFrom_tins d _ none k v (twfFrom_tdel d t none k h) rfl hv (tdel_keys t k)

theorem twf_tmod (d : Nat → α) (t : Tbl α) (k : Nat) (f : α → α) (h : twf d t = true) : twf d (tmod d t k f) = true :=
  twf_tput d t k _ h

theorem twf_tputN (d : Nat → α) (f : Nat → α) (k n : Nat) (t : Tbl α) (h : twf d t = true) :
    twf d (tputN d f k n t) = true := by
  induction n with
  | zero => exact h
  | succ n ih => exact twf_tput d _ _ _ ih

theorem twfFrom_filter (d : Nat → α) (p : Nat × α → Bool) (t : Tbl α) (b : Option Nat) (h : twfFrom d b t = true) :
    twfFrom d b (t.filter p) = true := by
  induction t generalizing b with
  | nil => rfl
  | cons e t ih =>
    obtain ⟨i, v⟩ := e
    simp only [twfFrom, Bool.and_eq_true] at h
    by_cases hp : p (i, v) = true
    · simp only [List.filter_cons, hp, if_true, twfFrom, Bool.and_eq_true]
      exact ⟨h.1, ih _ h.2⟩
    · simp only [List.filter_cons, hp]
      refine twfFrom_weaken d _ (some i) b (ih _ h.2) ?_
      intro j hj
      have h1 := h.1.1
      cases b with
      | none => rfl
      | some m => simp only [tbelow, decide_eq_true_eq] at *; omega

/-- Dropping entries keeps the canonical form. -/
theorem twf_filter (d : Nat → α) (p : Nat × α → Bool) (t : Tbl α) (h : twf d t = true) : twf d (t.filter p) = true :=
  twfFrom_filter d p t none h

omit [DecidableEq α] in
theorem tclear_eq_filter (lo hi : Nat) (t : Tbl α) : tclear lo hi t = t.filter fun e => !(decide (lo ≤ e.1) && decide (e.1 < hi)) := by
  induction t with
  | nil => rfl
  | cons e t ih =>
    obtain ⟨i, v⟩ := e
    by_cases h : lo ≤ i ∧ i < hi
    · simp [tclear, h, ih]
    · have : ¬ (decide (lo ≤ i) && decide (i < hi)) = true := by simpa using h
      simp only [tclear, h, if_false, ih, List.filter_cons]
      simp [this]

theorem twf_tclear (d : Nat → α) (lo hi : Nat) (t : Tbl α) (h : twf d t = true) : twf d (tclear lo hi t) = true := by
  rw [tclear_eq_filter]; exact twf_filter d _ t h

end form

end Sys2Proof
end

