-- ==== Sys2Proof/Laws/Kept.lean ====
section
/-! SUPPORT. What every operation of the model keeps: the queue, and the canonical form of the tables. -/
namespace Sys2Proof.Machine
open Sys2Proof

/-- The state after reset is in canonical form. -/
theorem reset_canon : State.reset.Canon := ⟨rfl, rfl, rfl, rfl, rfl, rfl⟩

theorem Kept.refl (s : State) : State.Kept s s := ⟨rfl, id⟩
theorem Kept.trans {s t u : State} (h : State.Kept s t) (h2 : State.Kept t u) : State.Kept s u :=
  ⟨h2.pending.trans h.pending, fun x => h2.canon (h.canon x)⟩

/-- A step to a state with the same queue and tables. -/
theorem Kept.same {s t u : State} (h : State.Kept s t) (hp : u.pending = t.pending) (hr : u.regs = t.regs) (hm : u.mem = t.mem)
    (hh : u.host = t.host) (hf : u.flash = t.flash) (hq : u.poison = t.poison) (ht : u.tags = t.tags) : State.Kept s u :=
  ⟨hp.trans h.pending, fun x =>
    let c := h.canon x
    ⟨hr ▸ c.regs, hm ▸ c.mem, hh ▸ c.host, hf ▸ c.flash, hq ▸ c.poison, ht ▸ c.tags⟩⟩

/-- A record update of the other fields. -/
theorem Kept.upd {s₀ s : State} (h : State.Kept s₀ s)
    {a1 a2 a7 a9 a10 a11 a12 a13 a14 a15 a16 a17 a18 a19 a20 a21 a22 a23 a24 a25 a26 a27 a28 a29 a30 a31 a32 a33 a34 a35 a36 a37 a38 a39 a40 a41 a42 a43 a44 a45 a46 a47 a48 a49 a50 a51 a52 a53 a54 a55 a56 a57 a58 a59 a60 a61 a62 a63 a64 a65 a66 a67 a68 a69 a70 a71 a72 a74 a75 a76 a77 a78 a79 a80 a81 a82 a83 a84 a85 a86 a87 a88 a89 a90 a91 a92 a93 a94 a95 a96 a97 a98 a99 a100 a101 a102} :
    State.Kept s₀ (State.mk s.pending a1 a2 s.regs s.mem s.host s.poison a7 s.tags a9 a10 a11 a12 a13 a14 a15 a16 a17 a18 a19 a20 a21 a22 a23 a24 a25 a26 a27 a28 a29 a30 a31 a32 a33 a34 a35 a36 a37 a38 a39 a40 a41 a42 a43 a44 a45 a46 a47 a48 a49 a50 a51 a52 a53 a54 a55 a56 a57 a58 a59 a60 a61 a62 a63 a64 a65 a66 a67 a68 a69 a70 a71 a72 s.flash a74 a75 a76 a77 a78 a79 a80 a81 a82 a83 a84 a85 a86 a87 a88 a89 a90 a91 a92 a93 a94 a95 a96 a97 a98 a99 a100 a101 a102) := Kept.same h rfl rfl rfl rfl rfl rfl rfl

theorem Kept.ite {s₀ a b : State} {c : Prop} [Decidable c] (ha : State.Kept s₀ a) (hb : State.Kept s₀ b) :
    State.Kept s₀ (if c then a else b) := by split <;> assumption
theorem Kept.foldl {α : Type} {s₀ s : State} {f : State → α → State} {l : List α} (h : State.Kept s₀ s)
    (hf : ∀ t x, State.Kept s₀ t → State.Kept s₀ (f t x)) : State.Kept s₀ (l.foldl f s) := by
  induction l generalizing s with
  | nil => exact h
  | cons x l ih => exact ih (hf s x h)
theorem Kept.foldl1 {α β : Type} {s₀ : State} {p : State × β} {f : State × β → α → State × β} {l : List α} (h : State.Kept s₀ p.1)
    (hf : ∀ q x, State.Kept s₀ q.1 → State.Kept s₀ (f q x).1) : State.Kept s₀ (l.foldl f p).1 := by
  induction l generalizing p with
  | nil => exact h
  | cons x l ih => exact ih (hf p x h)

/-- An outcome that keeps what a state keeps: it is a next state that does, or the fault of a word of another row, where that is
allowed. -/
def Fine (s₀ : State) (other : Prop) (o : Host.Outcome State Fault Refusal) : Prop :=
  (other ∧ o = .fault .notThisRow) ∨ ∃ t, o = .next t ∧ State.Kept s₀ t

theorem Fine.next {s₀ t : State} {p : Prop} (h : State.Kept s₀ t) : Fine s₀ p (.next t) := .inr ⟨t, rfl, h⟩
theorem Fine.guard {s₀ : State} {b : Bool} {o : Host.Outcome State Fault Refusal} (h : Fine s₀ (b = false) o) :
    Fine s₀ (b = false) (if (!b) = true then .fault .notThisRow else o) := by
  cases b
  · exact .inl ⟨rfl, rfl⟩
  · exact h
theorem Fine.ite {s₀ : State} {p : Prop} {a b : Host.Outcome State Fault Refusal} {c : Prop} [Decidable c] (ha : Fine s₀ p a)
    (hb : Fine s₀ p b) : Fine s₀ p (if c then a else b) := by split <;> assumption

end Sys2Proof.Machine
end

