-- ==== Sys2Proof/Laws/KeptBase.lean ====
section
/-! SUPPORT. What every operation keeps, the queue and the canonical form of the tables: flags, memories, requesters, the tier, the host hold, teardown and the Iambel cores. One lemma for
each operation. -/
namespace Sys2Proof.Machine
open Sys2Proof
set_option linter.unusedSimpArgs false
set_option linter.unusedVariables false

theorem State.wr_kept {s₀ : State} {s : State} (a : Nat) (v : Word) (h_s : s₀.Kept s) :
    s₀.Kept (State.wr s a v) := ⟨h_s.pending, fun x => let c := h_s.canon x; ⟨twf_tput _ _ _ _ c.regs, c.mem, c.host, c.flash, c.poison, c.tags⟩⟩
theorem State.sf_kept {s₀ : State} {s : State} (a : Nat) (f : Fld) (v : Nat) (h_s : s₀.Kept s) :
    s₀.Kept (State.sf s a f v) := by
  unfold State.sf
  repeat' (first | done | simp +contextual (maxDischargeDepth := 99) only [State.wr_kept, Kept.upd, Kept.ite, Kept.foldl, Kept.foldl1, implies_true, *] | split | with_reducible apply Kept.foldl | with_reducible apply Kept.foldl1 | (intro _; intros))
theorem State.msg_kept {s₀ : State} {s : State} (fn : Nat) (vec : Nat) (h_s : s₀.Kept s) :
    s₀.Kept (State.msg s fn vec) := by
  unfold State.msg
  repeat' (first | done | simp +contextual (maxDischargeDepth := 99) only [Kept.upd, Kept.ite, Kept.foldl, Kept.foldl1, implies_true, *] | split | with_reducible apply Kept.foldl | with_reducible apply Kept.foldl1 | (intro _; intros))
theorem State.raise_kept {s₀ : State} {s : State} (a : Nat) (bit : Nat) (h_s : s₀.Kept s) :
    s₀.Kept (State.raise s a bit) := by
  unfold State.raise
  repeat' (first | done | simp +contextual (maxDischargeDepth := 99) only [State.wr_kept, State.msg_kept, Kept.upd, Kept.ite, Kept.foldl, Kept.foldl1, implies_true, *] | split | with_reducible apply Kept.foldl | with_reducible apply Kept.foldl1 | (intro _; intros))
theorem State.setCnt_kept {s₀ : State} {s : State} (blk : Nat) (i : Nat) (v : Nat) (h_s : s₀.Kept s) :
    s₀.Kept (State.setCnt s blk i v) := by
  unfold State.setCnt
  repeat' (first | done | simp +contextual (maxDischargeDepth := 99) only [State.wr_kept, State.sf_kept, Kept.upd, Kept.ite, Kept.foldl, Kept.foldl1, implies_true, *] | split | with_reducible apply Kept.foldl | with_reducible apply Kept.foldl1 | (intro _; intros))
theorem State.count_kept {s₀ : State} {s : State} (n0 : Nat) (n1 : Nat) (n2 : Nat) (n3 : Option Nat) (n4 : Nat) (h_s : s₀.Kept s) :
    s₀.Kept (State.count s n0 n1 n2 n3 n4) := by
  induction n0 generalizing s n1 n2 n3 n4 with
  | zero =>
    unfold State.count
    repeat' (first | done | simp +contextual (maxDischargeDepth := 99) only [State.raise_kept, State.setCnt_kept, Kept.upd, Kept.ite, Kept.foldl, Kept.foldl1, implies_true, *] | split | with_reducible apply Kept.foldl | with_reducible apply Kept.foldl1 | (intro _; intros))
  | succ k ih =>
    unfold State.count
    repeat' (first | done | simp +contextual (maxDischargeDepth := 99) only [State.raise_kept, State.setCnt_kept, Kept.upd, Kept.ite, Kept.foldl, Kept.foldl1, implies_true, *] | split | with_reducible apply Kept.foldl | with_reducible apply Kept.foldl1 | (intro _; intros))
theorem State.event_kept {s₀ : State} {s : State} (blk : Nat) (ev : Nat) (ldg : Option Nat) (n : Nat) (h_s : s₀.Kept s) :
    s₀.Kept (State.event s blk ev ldg n) := by
  unfold State.event
  repeat' (first | done | simp +contextual (maxDischargeDepth := 99) only [State.count_kept, Kept.upd, Kept.ite, Kept.foldl, Kept.foldl1, implies_true, *] | split | with_reducible apply Kept.foldl | with_reducible apply Kept.foldl1 | (intro _; intros))
theorem State.setFlag_kept {s₀ : State} {s : State} (a : Nat) (bit : Nat) (ldg : Option Nat) (h_s : s₀.Kept s) :
    s₀.Kept (State.setFlag s a bit ldg) := by
  unfold State.setFlag
  repeat' (first | done | simp +contextual (maxDischargeDepth := 99) only [State.raise_kept, State.event_kept, Kept.upd, Kept.ite, Kept.foldl, Kept.foldl1, implies_true, *] | split | with_reducible apply Kept.foldl | with_reducible apply Kept.foldl1 | (intro _; intros))
theorem State.setFlagIf_kept {s₀ : State} {s : State} (p : Bool) (a : Nat) (bit : Nat) (ldg : Option Nat) (h_s : s₀.Kept s) :
    s₀.Kept (State.setFlagIf s p a bit ldg) := by
  unfold State.setFlagIf
  repeat' (first | done | simp +contextual (maxDischargeDepth := 99) only [State.setFlag_kept, Kept.upd, Kept.ite, Kept.foldl, Kept.foldl1, implies_true, *] | split | with_reducible apply Kept.foldl | with_reducible apply Kept.foldl1 | (intro _; intros))
theorem State.countStatus_kept {s₀ : State} {s : State} (blk : Nat) (st : Nat) (ldg : Option Nat) (h_s : s₀.Kept s) :
    s₀.Kept (State.countStatus s blk st ldg) := by
  unfold State.countStatus
  repeat' (first | done | simp +contextual (maxDischargeDepth := 99) only [State.event_kept, Kept.upd, Kept.ite, Kept.foldl, Kept.foldl1, implies_true, *] | split | with_reducible apply Kept.foldl | with_reducible apply Kept.foldl1 | (intro _; intros))
theorem State.draw_kept {s₀ : State} {s : State} (h_s : s₀.Kept s) :
    s₀.Kept (State.draw s).2 := by
  unfold State.draw
  repeat' (first | done | simp +contextual (maxDischargeDepth := 99) only [Kept.upd, Kept.ite, Kept.foldl, Kept.foldl1, implies_true, *] | split | with_reducible apply Kept.foldl | with_reducible apply Kept.foldl1 | (intro _; intros))
theorem State.wb_kept {s₀ : State} {s : State} (a : Nat) (v : Byte) (h_s : s₀.Kept s) :
    s₀.Kept (State.wb s a v) := ⟨h_s.pending, fun x => let c := h_s.canon x; ⟨c.regs, twf_tput _ _ _ _ c.mem, c.host, c.flash, c.poison, c.tags⟩⟩
theorem State.wrLE_kept {s₀ : State} {s : State} (a : Nat) (n0 : Nat) (n1 : Nat) (h_s : s₀.Kept s) :
    s₀.Kept (State.wrLE s a n0 n1) := by
  induction n0 generalizing s a n1 with
  | zero => exact h_s
  | succ k ih => exact ih _ _ (State.wb_kept _ _ h_s)
theorem State.zero_kept {s₀ : State} {s : State} (a : Nat) (n : Nat) (h_s : s₀.Kept s) :
    s₀.Kept (State.zero s a n) := ⟨h_s.pending, fun x => let c := h_s.canon x; ⟨c.regs, twf_tclear _ _ _ _ c.mem, c.host, c.flash, c.poison, c.tags⟩⟩
theorem State.hwrLE_kept {s₀ : State} {s : State} (a : Nat) (n0 : Nat) (n1 : Nat) (h_s : s₀.Kept s) :
    s₀.Kept (State.hwrLE s a n0 n1) := by
  induction n0 generalizing s a n1 with
  | zero => exact h_s
  | succ k ih => exact ih _ _ ⟨h_s.pending, fun x => let c := h_s.canon x; ⟨c.regs, c.mem, twf_tput _ _ _ _ c.host, c.flash, c.poison, c.tags⟩⟩
theorem State.copy_kept {s₀ : State} {s : State} (dst : Nat) (src : Nat) (n0 : Nat) (h_s : s₀.Kept s) :
    s₀.Kept (State.copy s dst src n0) := by
  induction n0 generalizing s dst src with
  | zero => exact h_s
  | succ k ih => exact ih _ _ (State.wb_kept _ _ h_s)
theorem State.addPoison_kept {s₀ : State} {s : State} (a : Nat) (n : Nat) (h_s : s₀.Kept s) :
    s₀.Kept (State.addPoison s a n) := ⟨h_s.pending, fun x => let c := h_s.canon x; ⟨c.regs, c.mem, c.host, c.flash, twf_tputN _ _ _ _ _ c.poison, c.tags⟩⟩
theorem State.clearPoison_kept {s₀ : State} {s : State} (a : Nat) (n : Nat) (h_s : s₀.Kept s) :
    s₀.Kept (State.clearPoison s a n) := by
  unfold State.clearPoison
  split
  · exact h_s
  · exact ⟨h_s.pending, fun x => let c := h_s.canon x; ⟨c.regs, c.mem, c.host, c.flash, twf_tclear _ _ _ _ c.poison, c.tags⟩⟩
theorem State.setTc_kept {s₀ : State} {s : State} (c : Nat) (f : Tc → Tc) (h_s : s₀.Kept s) :
    s₀.Kept (State.setTc s c f) := by
  unfold State.setTc
  repeat' (first | done | simp +contextual (maxDischargeDepth := 99) only [Kept.upd, Kept.ite, Kept.foldl, Kept.foldl1, implies_true, *] | split | with_reducible apply Kept.foldl | with_reducible apply Kept.foldl1 | (intro _; intros))
theorem State.setSlot_kept {s₀ : State} {s : State} (c : Nat) (p : Nat) (sl : Slot) (f : TcSlot → TcSlot) (h_s : s₀.Kept s) :
    s₀.Kept (State.setSlot s c p sl f) := by
  unfold State.setSlot
  repeat' (first | done | simp +contextual (maxDischargeDepth := 99) only [State.setTc_kept, Kept.upd, Kept.ite, Kept.foldl, Kept.foldl1, implies_true, *] | split | with_reducible apply Kept.foldl | with_reducible apply Kept.foldl1 | (intro _; intros))
theorem State.irqPend_kept {s₀ : State} {s : State} (n : Nat) (src : Nat) (h_s : s₀.Kept s) :
    s₀.Kept (State.irqPend s n src) := by
  unfold State.irqPend
  repeat' (first | done | simp +contextual (maxDischargeDepth := 99) only [State.setFlag_kept, Kept.upd, Kept.ite, Kept.foldl, Kept.foldl1, implies_true, *] | split | with_reducible apply Kept.foldl | with_reducible apply Kept.foldl1 | (intro _; intros))
theorem State.passage_kept {s₀ : State} {s : State} (o : Nat) (h_s : s₀.Kept s) :
    s₀.Kept (State.passage s o) := by
  unfold State.passage
  repeat' (first | done | simp +contextual (maxDischargeDepth := 99) only [State.irqPend_kept, Kept.upd, Kept.ite, Kept.foldl, Kept.foldl1, implies_true, *] | split | with_reducible apply Kept.foldl | with_reducible apply Kept.foldl1 | (intro _; intros))
theorem State.signal_kept {s₀ : State} {s : State} (o : Nat) (n : Nat) (h_s : s₀.Kept s) :
    s₀.Kept (State.signal s o n) := by
  unfold State.signal
  repeat' (first | done | simp +contextual (maxDischargeDepth := 99) only [State.wr_kept, State.event_kept, State.setFlagIf_kept, State.passage_kept, Kept.upd, Kept.ite, Kept.foldl, Kept.foldl1, implies_true, *] | split | with_reducible apply Kept.foldl | with_reducible apply Kept.foldl1 | (intro _; intros))
theorem State.arm_kept {s₀ : State} {s : State} (o : Nat) (th : Nat) (h_s : s₀.Kept s) :
    s₀.Kept (State.arm s o th) := by
  unfold State.arm
  repeat' (first | done | simp +contextual (maxDischargeDepth := 99) only [State.wr_kept, State.passage_kept, Kept.upd, Kept.ite, Kept.foldl, Kept.foldl1, implies_true, *] | split | with_reducible apply Kept.foldl | with_reducible apply Kept.foldl1 | (intro _; intros))
theorem State.syncClear_kept {s₀ : State} {s : State} (o : Nat) (h_s : s₀.Kept s) :
    s₀.Kept (State.syncClear s o) := by
  unfold State.syncClear
  repeat' (first | done | simp +contextual (maxDischargeDepth := 99) only [State.wr_kept, Kept.upd, Kept.ite, Kept.foldl, Kept.foldl1, implies_true, *] | split | with_reducible apply Kept.foldl | with_reducible apply Kept.foldl1 | (intro _; intros))
theorem State.clearBlock_kept {s₀ : State} {s : State} (k : Nat) (h_s : s₀.Kept s) :
    s₀.Kept (State.clearBlock s k) := ⟨h_s.pending, fun x => let c := h_s.canon x; ⟨twf_tclear _ _ _ _ c.regs, c.mem, c.host, c.flash, c.poison, c.tags⟩⟩
theorem State.deny_kept {s₀ : State} {s : State} (who : Requester) (h_s : s₀.Kept s) :
    s₀.Kept (State.deny s who) := by
  unfold State.deny
  repeat' (first | done | simp +contextual (maxDischargeDepth := 99) only [State.setFlag_kept, Kept.upd, Kept.ite, Kept.foldl, Kept.foldl1, implies_true, *] | split | with_reducible apply Kept.foldl | with_reducible apply Kept.foldl1 | (intro _; intros))
theorem State.asWrite_kept {s₀ : State} {s : State} (who : Requester) (off : Nat) (eff : State → State) (h_eff : ∀ (x0 : State), s₀.Kept x0 → s₀.Kept (eff x0)) (h_s : s₀.Kept s) :
    s₀.Kept (State.asWrite s who off eff) := by
  unfold State.asWrite
  repeat' (first | done | simp +contextual (maxDischargeDepth := 99) only [State.deny_kept, Kept.upd, Kept.ite, Kept.foldl, Kept.foldl1, implies_true, *] | split | with_reducible apply Kept.foldl | with_reducible apply Kept.foldl1 | (intro _; intros))
theorem State.oldLess_kept {s₀ : State} {s : State} (l : Nat) (h_s : s₀.Kept s) :
    s₀.Kept (State.oldLess s l) := by
  unfold State.oldLess
  repeat' (first | done | simp +contextual (maxDischargeDepth := 99) only [State.wr_kept, State.sf_kept, State.setFlag_kept, Kept.upd, Kept.ite, Kept.foldl, Kept.foldl1, implies_true, *] | split | with_reducible apply Kept.foldl | with_reducible apply Kept.foldl1 | (intro _; intros))
theorem State.curMore_kept {s₀ : State} {s : State} (l : Nat) (h_s : s₀.Kept s) :
    s₀.Kept (State.curMore s l) := by
  unfold State.curMore
  repeat' (first | done | simp +contextual (maxDischargeDepth := 99) only [State.wr_kept, Kept.upd, Kept.ite, Kept.foldl, Kept.foldl1, implies_true, *] | split | with_reducible apply Kept.foldl | with_reducible apply Kept.foldl1 | (intro _; intros))
theorem State.curLess_kept {s₀ : State} {s : State} (l : Nat) (h_s : s₀.Kept s) :
    s₀.Kept (State.curLess s l) := by
  unfold State.curLess
  repeat' (first | done | simp +contextual (maxDischargeDepth := 99) only [State.wr_kept, Kept.upd, Kept.ite, Kept.foldl, Kept.foldl1, implies_true, *] | split | with_reducible apply Kept.foldl | with_reducible apply Kept.foldl1 | (intro _; intros))
theorem State.retag_kept {s₀ : State} {s : State} (l : Nat) (f : Nat) (h_s : s₀.Kept s) :
    s₀.Kept (State.retag s l f) := ⟨h_s.pending, fun x => let c := h_s.canon x; ⟨c.regs, c.mem, c.host, c.flash, c.poison, twf_tput _ _ _ _ c.tags⟩⟩
theorem State.rewrite_kept {s₀ : State} {s : State} (l : Nat) (f : Nat) (h_s : s₀.Kept s) :
    s₀.Kept (State.rewrite s l f) := by
  unfold State.rewrite
  repeat' (first | done | simp +contextual (maxDischargeDepth := 99) only [State.zero_kept, State.clearPoison_kept, State.oldLess_kept, State.curMore_kept, State.curLess_kept, State.retag_kept, Kept.upd, Kept.ite, Kept.foldl, Kept.foldl1, implies_true, *] | split | with_reducible apply Kept.foldl | with_reducible apply Kept.foldl1 | (intro _; intros))
theorem State.tierReady_kept {s₀ : State} {s : State} (l : Nat) (a : Nat) (n : Nat) (h_s : s₀.Kept s) :
    s₀.Kept (State.tierReady s l a n) := by
  unfold State.tierReady
  repeat' (first | done | simp +contextual (maxDischargeDepth := 99) only [State.rewrite_kept, Kept.upd, Kept.ite, Kept.foldl, Kept.foldl1, implies_true, *] | split | with_reducible apply Kept.foldl | with_reducible apply Kept.foldl1 | (intro _; intros))
theorem State.put_kept {s₀ : State} {s : State} (l : Nat) (a : Nat) (n : Nat) (v : Nat) (h_s : s₀.Kept s) :
    s₀.Kept (State.put s l a n v) := by
  unfold State.put
  repeat' (first | done | simp +contextual (maxDischargeDepth := 99) only [State.wrLE_kept, State.clearPoison_kept, State.tierReady_kept, Kept.upd, Kept.ite, Kept.foldl, Kept.foldl1, implies_true, *] | split | with_reducible apply Kept.foldl | with_reducible apply Kept.foldl1 | (intro _; intros))
theorem State.getUnit_kept {s₀ : State} {s : State} (l : Nat) (a : Nat) (h_s : s₀.Kept s) :
    s₀.Kept (State.getUnit s l a).1 := by
  unfold State.getUnit
  repeat' (first | done | simp +contextual (maxDischargeDepth := 99) only [State.setFlag_kept, Kept.upd, Kept.ite, Kept.foldl, Kept.foldl1, implies_true, *] | split | with_reducible apply Kept.foldl | with_reducible apply Kept.foldl1 | (intro _; intros))
theorem State.getBytes_kept {s₀ : State} {s : State} (l : Nat) (a : Nat) (n : Nat) (h_s : s₀.Kept s) :
    s₀.Kept (State.getBytes s l a n).1 := by
  unfold State.getBytes
  repeat' (first | done | simp +contextual (maxDischargeDepth := 99) only [State.setFlagIf_kept, State.zero_kept, Kept.upd, Kept.ite, Kept.foldl, Kept.foldl1, implies_true, *] | split | with_reducible apply Kept.foldl | with_reducible apply Kept.foldl1 | (intro _; intros))
theorem State.moveUnit_kept {s₀ : State} {s : State} (l : Nat) (dst : Nat) (src : Nat) (h_s : s₀.Kept s) :
    s₀.Kept (State.moveUnit s l dst src).1 := by
  unfold State.moveUnit
  repeat' (first | done | simp +contextual (maxDischargeDepth := 99) only [State.put_kept, State.getUnit_kept, Kept.upd, Kept.ite, Kept.foldl, Kept.foldl1, implies_true, *] | split | with_reducible apply Kept.foldl | with_reducible apply Kept.foldl1 | (intro _; intros))
theorem State.moveUnits_kept {s₀ : State} {s : State} (l : Nat) (dst : Nat) (src : Nat) (n0 : Nat) (h_s : s₀.Kept s) :
    s₀.Kept (State.moveUnits s l dst src n0).1 := by
  induction n0 generalizing s with
  | zero =>
    unfold State.moveUnits
    repeat' (first | done | simp +contextual (maxDischargeDepth := 99) only [State.moveUnit_kept, Kept.upd, Kept.ite, Kept.foldl, Kept.foldl1, implies_true, *] | split | with_reducible apply Kept.foldl | with_reducible apply Kept.foldl1 | (intro _; intros))
  | succ k ih =>
    unfold State.moveUnits
    repeat' (first | done | simp +contextual (maxDischargeDepth := 99) only [State.moveUnit_kept, Kept.upd, Kept.ite, Kept.foldl, Kept.foldl1, implies_true, *] | split | with_reducible apply Kept.foldl | with_reducible apply Kept.foldl1 | (intro _; intros))
theorem State.setTokens_kept {s₀ : State} {s : State} (l : Nat) (cls : Nat) (n : Nat) (h_s : s₀.Kept s) :
    s₀.Kept (State.setTokens s l cls n) := by
  unfold State.setTokens
  repeat' (first | done | simp +contextual (maxDischargeDepth := 99) only [State.wr_kept, Kept.upd, Kept.ite, Kept.foldl, Kept.foldl1, implies_true, *] | split | with_reducible apply Kept.foldl | with_reducible apply Kept.foldl1 | (intro _; intros))
theorem State.fillBuckets_kept {s₀ : State} {s : State} (l : Nat) (h_s : s₀.Kept s) :
    s₀.Kept (State.fillBuckets s l) := by
  unfold State.fillBuckets
  repeat' (first | done | simp +contextual (maxDischargeDepth := 99) only [State.setTokens_kept, Kept.upd, Kept.ite, Kept.foldl, Kept.foldl1, implies_true, *] | split | with_reducible apply Kept.foldl | with_reducible apply Kept.foldl1 | (intro _; intros))
theorem State.take_kept {s₀ : State} {s : State} (l : Nat) (cls : Nat) (n : Nat) (h_s : s₀.Kept s) :
    s₀.Kept (State.take s l cls n) := by
  unfold State.take
  repeat' (first | done | simp +contextual (maxDischargeDepth := 99) only [State.event_kept, State.setTokens_kept, Kept.upd, Kept.ite, Kept.foldl, Kept.foldl1, implies_true, *] | split | with_reducible apply Kept.foldl | with_reducible apply Kept.foldl1 | (intro _; intros))
theorem State.pay_kept {s₀ : State} {s : State} (l : Nat) (classes : Nat) (h_s : s₀.Kept s) :
    s₀.Kept (State.pay s l classes) := by
  unfold State.pay
  repeat' (first | done | simp +contextual (maxDischargeDepth := 99) only [State.take_kept, Kept.upd, Kept.ite, Kept.foldl, Kept.foldl1, implies_true, *] | split | with_reducible apply Kept.foldl | with_reducible apply Kept.foldl1 | (intro _; intros))
theorem State.setOwed_kept {s₀ : State} {s : State} (l : Nat) (r : Payer) (cls : Nat) (n : Nat) (h_s : s₀.Kept s) :
    s₀.Kept (State.setOwed s l r cls n) := by
  unfold State.setOwed
  repeat' (first | done | simp +contextual (maxDischargeDepth := 99) only [Kept.upd, Kept.ite, Kept.foldl, Kept.foldl1, implies_true, *] | split | with_reducible apply Kept.foldl | with_reducible apply Kept.foldl1 | (intro _; intros))
theorem State.charge_kept {s₀ : State} {s : State} (l : Nat) (r : Payer) (cls : Nat) (n : Nat) (h_s : s₀.Kept s) :
    s₀.Kept (State.charge s l r cls n) := by
  unfold State.charge
  repeat' (first | done | simp +contextual (maxDischargeDepth := 99) only [State.take_kept, State.setOwed_kept, Kept.upd, Kept.ite, Kept.foldl, Kept.foldl1, implies_true, *] | split | with_reducible apply Kept.foldl | with_reducible apply Kept.foldl1 | (intro _; intros))
theorem State.tierCharge_kept {s₀ : State} {s : State} (l : Nat) (r : Payer) (a : Nat) (n : Nat) (wr : Bool) (h_s : s₀.Kept s) :
    s₀.Kept (State.tierCharge s l r a n wr) := by
  unfold State.tierCharge
  repeat' (first | done | simp +contextual (maxDischargeDepth := 99) only [State.wr_kept, State.charge_kept, Kept.upd, Kept.ite, Kept.foldl, Kept.foldl1, implies_true, *] | split | with_reducible apply Kept.foldl | with_reducible apply Kept.foldl1 | (intro _; intros))
theorem State.dueRound_kept {s₀ : State} {s : State} (l : Nat) (h_s : s₀.Kept s) :
    s₀.Kept (State.dueRound s l).1 := by
  unfold State.dueRound
  repeat' (first | done | simp +contextual (maxDischargeDepth := 99) only [State.take_kept, State.setOwed_kept, Kept.upd, Kept.ite, Kept.foldl, Kept.foldl1, implies_true, *] | split | with_reducible apply Kept.foldl | with_reducible apply Kept.foldl1 | (intro _; intros))
theorem State.setLink_kept {s₀ : State} {s : State} (k : Nat) (f : Link → Link) (h_s : s₀.Kept s) :
    s₀.Kept (State.setLink s k f) := by
  unfold State.setLink
  repeat' (first | done | simp +contextual (maxDischargeDepth := 99) only [Kept.upd, Kept.ite, Kept.foldl, Kept.foldl1, implies_true, *] | split | with_reducible apply Kept.foldl | with_reducible apply Kept.foldl1 | (intro _; intros))
theorem State.linkSend_kept {s₀ : State} {s : State} (k : Nat) (r : LinkRec) (h_s : s₀.Kept s) :
    s₀.Kept (State.linkSend s k r) := by
  unfold State.linkSend
  repeat' (first | done | simp +contextual (maxDischargeDepth := 99) only [State.setLink_kept, Kept.upd, Kept.ite, Kept.foldl, Kept.foldl1, implies_true, *] | split | with_reducible apply Kept.foldl | with_reducible apply Kept.foldl1 | (intro _; intros))
theorem State.linkAsk_kept {s₀ : State} {s : State} (k : Nat) (kind : Nat) (ldg : Nat) (src : LinkSrc) (recs : List LinkRec) (h_s : s₀.Kept s) :
    s₀.Kept (State.linkAsk s k kind ldg src recs) := by
  unfold State.linkAsk
  repeat' (first | done | simp +contextual (maxDischargeDepth := 99) only [State.linkSend_kept, Kept.upd, Kept.ite, Kept.foldl, Kept.foldl1, implies_true, *] | split | with_reducible apply Kept.foldl | with_reducible apply Kept.foldl1 | (intro _; intros))
theorem State.setRings_kept {s₀ : State} {s : State} (l : Nat) (f : Rings → Rings) (h_s : s₀.Kept s) :
    s₀.Kept (State.setRings s l f) := by
  unfold State.setRings
  repeat' (first | done | simp +contextual (maxDischargeDepth := 99) only [Kept.upd, Kept.ite, Kept.foldl, Kept.foldl1, implies_true, *] | split | with_reducible apply Kept.foldl | with_reducible apply Kept.foldl1 | (intro _; intros))
theorem State.hold_kept {s₀ : State} {s : State} (l : Nat) (c : Cpl) (h_s : s₀.Kept s) :
    s₀.Kept (State.hold s l c) := by
  unfold State.hold
  repeat' (first | done | simp +contextual (maxDischargeDepth := 99) only [State.setFlag_kept, State.setRings_kept, Kept.upd, Kept.ite, Kept.foldl, Kept.foldl1, implies_true, *] | split | with_reducible apply Kept.foldl | with_reducible apply Kept.foldl1 | (intro _; intros))
theorem State.flushNops_kept {s₀ : State} {s : State} (l : Nat) (h_s : s₀.Kept s) :
    s₀.Kept (State.flushNops s l) := by
  unfold State.flushNops
  repeat' (first | done | simp +contextual (maxDischargeDepth := 99) only [State.countStatus_kept, State.setRings_kept, State.hold_kept, Kept.upd, Kept.ite, Kept.foldl, Kept.foldl1, implies_true, *] | split | with_reducible apply Kept.foldl | with_reducible apply Kept.foldl1 | (intro _; intros))
theorem State.closeEntry_kept {s₀ : State} {s : State} (l : Nat) (no : Nat) (h_s : s₀.Kept s) :
    s₀.Kept (State.closeEntry s l no) := by
  unfold State.closeEntry
  repeat' (first | done | simp +contextual (maxDischargeDepth := 99) only [State.setRings_kept, State.flushNops_kept, Kept.upd, Kept.ite, Kept.foldl, Kept.foldl1, implies_true, *] | split | with_reducible apply Kept.foldl | with_reducible apply Kept.foldl1 | (intro _; intros))
theorem State.hostDone_kept {s₀ : State} {s : State} (l : Nat) (no : Nat) (idx : Nat) (kind : Nat) (body : Nat) (h_s : s₀.Kept s) :
    s₀.Kept (State.hostDone s l no idx kind body) := by
  unfold State.hostDone
  repeat' (first | done | simp +contextual (maxDischargeDepth := 99) only [State.hold_kept, State.closeEntry_kept, Kept.upd, Kept.ite, Kept.foldl, Kept.foldl1, implies_true, *] | split | with_reducible apply Kept.foldl | with_reducible apply Kept.foldl1 | (intro _; intros))
theorem State.tookSub_kept {s₀ : State} {s : State} (l : Nat) (h_s : s₀.Kept s) :
    s₀.Kept (State.tookSub s l) := by
  unfold State.tookSub
  repeat' (first | done | simp +contextual (maxDischargeDepth := 99) only [State.sf_kept, State.setRings_kept, Kept.upd, Kept.ite, Kept.foldl, Kept.foldl1, implies_true, *] | split | with_reducible apply Kept.foldl | with_reducible apply Kept.foldl1 | (intro _; intros))
theorem State.refuseSub_kept {s₀ : State} {s : State} (l : Nat) (e : Sub) (no : Nat) (st : Nat) (h_s : s₀.Kept s) :
    s₀.Kept (State.refuseSub s l e no st) := by
  unfold State.refuseSub
  repeat' (first | done | simp +contextual (maxDischargeDepth := 99) only [State.countStatus_kept, State.hostDone_kept, Kept.upd, Kept.ite, Kept.foldl, Kept.foldl1, implies_true, *] | split | with_reducible apply Kept.foldl | with_reducible apply Kept.foldl1 | (intro _; intros))
theorem subRow_kept {s₀ : State} (l : Fin 16) (isTy : Nat → Bool) {s : State} (body : Sub → Nat → State → State) (h_body : ∀ (x0 : Sub) (x1 : Nat) (x2 : State), s₀.Kept x2 → s₀.Kept (body x0 x1 x2)) (h_s : s₀.Kept s) :
    Fine s₀ False (subRow l isTy s body) := by
  unfold subRow
  repeat' (first | done | simp +contextual (maxDischargeDepth := 99) only [State.tookSub_kept, State.refuseSub_kept, Kept.upd, Kept.ite, Kept.foldl, Kept.foldl1, implies_true, Fine.ite, Fine.next, Fine.guard, *] | split | with_reducible apply Kept.foldl | with_reducible apply Kept.foldl1 | (intro _; intros) | with_reducible apply Fine.next | with_reducible apply Fine.guard)
theorem State.setBq_kept {s₀ : State} {s : State} (l : Nat) (q : Nat) (f : BatchQ → BatchQ) (h_s : s₀.Kept s) :
    s₀.Kept (State.setBq s l q f) := by
  unfold State.setBq
  repeat' (first | done | simp +contextual (maxDischargeDepth := 99) only [Kept.upd, Kept.ite, Kept.foldl, Kept.foldl1, implies_true, *] | split | with_reducible apply Kept.foldl | with_reducible apply Kept.foldl1 | (intro _; intros))
theorem State.formBatch_kept {s₀ : State} {s : State} (l : Nat) (q : Nat) (h_s : s₀.Kept s) :
    s₀.Kept (State.formBatch s l q) := by
  unfold State.formBatch
  repeat' (first | done | simp +contextual (maxDischargeDepth := 99) only [State.sf_kept, State.put_kept, State.take_kept, State.setBq_kept, Kept.upd, Kept.ite, Kept.foldl, Kept.foldl1, implies_true, *] | split | with_reducible apply Kept.foldl | with_reducible apply Kept.foldl1 | (intro _; intros))
theorem State.freeBatch_kept {s₀ : State} {s : State} (l : Nat) (q : Nat) (h_s : s₀.Kept s) :
    s₀.Kept (State.freeBatch s l q) := by
  unfold State.freeBatch
  repeat' (first | done | simp +contextual (maxDischargeDepth := 99) only [State.sf_kept, State.setBq_kept, Kept.upd, Kept.ite, Kept.foldl, Kept.foldl1, implies_true, *] | split | with_reducible apply Kept.foldl | with_reducible apply Kept.foldl1 | (intro _; intros))
theorem State.takeMask_kept {s₀ : State} {s : State} (l : Nat) (mask : Nat) (h_s : s₀.Kept s) :
    s₀.Kept (State.takeMask s l mask) := by
  unfold State.takeMask
  repeat' (first | done | simp +contextual (maxDischargeDepth := 99) only [State.setFlag_kept, State.formBatch_kept, Kept.upd, Kept.ite, Kept.foldl, Kept.foldl1, implies_true, *] | split | with_reducible apply Kept.foldl | with_reducible apply Kept.foldl1 | (intro _; intros))
theorem State.releaseMask_kept {s₀ : State} {s : State} (l : Nat) (mask : Nat) (h_s : s₀.Kept s) :
    s₀.Kept (State.releaseMask s l mask) := by
  unfold State.releaseMask
  repeat' (first | done | simp +contextual (maxDischargeDepth := 99) only [State.freeBatch_kept, Kept.upd, Kept.ite, Kept.foldl, Kept.foldl1, implies_true, *] | split | with_reducible apply Kept.foldl | with_reducible apply Kept.foldl1 | (intro _; intros))
theorem execTakeBatch_kept {s₀ : State} (who : Requester) (l : Fin 16) (q : Fin 4) {s : State} (h_s : s₀.Kept s) :
    Fine s₀ False (execTakeBatch who l q s) := by
  unfold execTakeBatch
  repeat' (first | done | simp +contextual (maxDischargeDepth := 99) only [State.asWrite_kept, State.takeMask_kept, Kept.upd, Kept.ite, Kept.foldl, Kept.foldl1, implies_true, Fine.ite, Fine.next, Fine.guard, *] | split | with_reducible apply Kept.foldl | with_reducible apply Kept.foldl1 | (intro _; intros) | with_reducible apply State.asWrite_kept | with_reducible apply Fine.next | with_reducible apply Fine.guard)
theorem execBqRelease_kept {s₀ : State} (who : Requester) (l : Fin 16) (q : Fin 4) {s : State} (h_s : s₀.Kept s) :
    Fine s₀ False (execBqRelease who l q s) := by
  unfold execBqRelease
  repeat' (first | done | simp +contextual (maxDischargeDepth := 99) only [State.asWrite_kept, State.releaseMask_kept, Kept.upd, Kept.ite, Kept.foldl, Kept.foldl1, implies_true, Fine.ite, Fine.next, Fine.guard, *] | split | with_reducible apply Kept.foldl | with_reducible apply Kept.foldl1 | (intro _; intros) | with_reducible apply State.asWrite_kept | with_reducible apply Fine.next | with_reducible apply Fine.guard)
theorem State.setLodge_kept {s₀ : State} {s : State} (l : Nat) (f : Lodge → Lodge) (h_s : s₀.Kept s) :
    s₀.Kept (State.setLodge s l f) := by
  unfold State.setLodge
  repeat' (first | done | simp +contextual (maxDischargeDepth := 99) only [Kept.upd, Kept.ite, Kept.foldl, Kept.foldl1, implies_true, *] | split | with_reducible apply Kept.foldl | with_reducible apply Kept.foldl1 | (intro _; intros))
theorem State.setIbc_kept {s₀ : State} {s : State} (n : Nat) (f : Ibc → Ibc) (h_s : s₀.Kept s) :
    s₀.Kept (State.setIbc s n f) := by
  unfold State.setIbc
  repeat' (first | done | simp +contextual (maxDischargeDepth := 99) only [Kept.upd, Kept.ite, Kept.foldl, Kept.foldl1, implies_true, *] | split | with_reducible apply Kept.foldl | with_reducible apply Kept.foldl1 | (intro _; intros))
theorem State.marker_kept {s₀ : State} {s : State} (l : Nat) (a : Nat) (id : Nat) (st : Nat) (h_s : s₀.Kept s) :
    s₀.Kept (State.marker s l a id st) := by
  unfold State.marker
  repeat' (first | done | simp +contextual (maxDischargeDepth := 99) only [State.put_kept, Kept.upd, Kept.ite, Kept.foldl, Kept.foldl1, implies_true, *] | split | with_reducible apply Kept.foldl | with_reducible apply Kept.foldl1 | (intro _; intros))
theorem State.wbDone_kept {s₀ : State} {s : State} (l : Nat) (w : Wb) (st : Nat) (cause : Nat) (unit : Nat) (slot : Nat) (seq : Nat) (cstat : Nat) (h_s : s₀.Kept s) :
    s₀.Kept (State.wbDone s l w st cause unit slot seq cstat) := by
  unfold State.wbDone
  repeat' (first | done | simp +contextual (maxDischargeDepth := 99) only [State.sf_kept, State.countStatus_kept, State.hostDone_kept, Kept.upd, Kept.ite, Kept.foldl, Kept.foldl1, implies_true, *] | split | with_reducible apply Kept.foldl | with_reducible apply Kept.foldl1 | (intro _; intros))
theorem State.setIss_kept {s₀ : State} {s : State} (c : Nat) (b : Nat) (r : BankRec) (h_s : s₀.Kept s) :
    s₀.Kept (State.setIss s c b r) := by
  unfold State.setIss
  repeat' (first | done | simp +contextual (maxDischargeDepth := 99) only [State.setTc_kept, Kept.upd, Kept.ite, Kept.foldl, Kept.foldl1, implies_true, *] | split | with_reducible apply Kept.foldl | with_reducible apply Kept.foldl1 | (intro _; intros))
theorem State.setRecord_kept {s₀ : State} {s : State} (c : Nat) (b : Nat) (r : BankRec) (h_s : s₀.Kept s) :
    s₀.Kept (State.setRecord s c b r) := by
  unfold State.setRecord
  repeat' (first | done | simp +contextual (maxDischargeDepth := 99) only [State.sf_kept, State.setTc_kept, Kept.upd, Kept.ite, Kept.foldl, Kept.foldl1, implies_true, *] | split | with_reducible apply Kept.foldl | with_reducible apply Kept.foldl1 | (intro _; intros))
theorem State.clearTiles_kept {s₀ : State} {s : State} (c : Nat) (p : Nat) (r0 : Nat) (n : Nat) (h_s : s₀.Kept s) :
    s₀.Kept (State.clearTiles s c p r0 n) := by
  unfold State.clearTiles
  repeat' (first | done | simp +contextual (maxDischargeDepth := 99) only [State.setTc_kept, Kept.upd, Kept.ite, Kept.foldl, Kept.foldl1, implies_true, *] | split | with_reducible apply Kept.foldl | with_reducible apply Kept.foldl1 | (intro _; intros))
theorem State.clearAcc_kept {s₀ : State} {s : State} (c : Nat) (r0 : Nat) (n : Nat) (h_s : s₀.Kept s) :
    s₀.Kept (State.clearAcc s c r0 n) := by
  unfold State.clearAcc
  repeat' (first | done | simp +contextual (maxDischargeDepth := 99) only [State.setTc_kept, Kept.upd, Kept.ite, Kept.foldl, Kept.foldl1, implies_true, *] | split | with_reducible apply Kept.foldl | with_reducible apply Kept.foldl1 | (intro _; intros))
theorem State.dropBanks_kept {s₀ : State} {s : State} (c : Nat) (p : Nat) (l : Nat) (h_s : s₀.Kept s) :
    s₀.Kept (State.dropBanks s c p l) := by
  unfold State.dropBanks
  repeat' (first | done | simp +contextual (maxDischargeDepth := 99) only [State.setTc_kept, State.setIss_kept, State.setRecord_kept, Kept.upd, Kept.ite, Kept.foldl, Kept.foldl1, implies_true, *] | split | with_reducible apply Kept.foldl | with_reducible apply Kept.foldl1 | (intro _; intros))
theorem State.clearBanks_kept {s₀ : State} {s : State} (c : Nat) (h_s : s₀.Kept s) :
    s₀.Kept (State.clearBanks s c) := by
  unfold State.clearBanks
  repeat' (first | done | simp +contextual (maxDischargeDepth := 99) only [State.setIss_kept, State.setRecord_kept, Kept.upd, Kept.ite, Kept.foldl, Kept.foldl1, implies_true, *] | split | with_reducible apply Kept.foldl | with_reducible apply Kept.foldl1 | (intro _; intros))
theorem State.dropAttach_kept {s₀ : State} {s : State} (c : Nat) (p : Nat) (h_s : s₀.Kept s) :
    s₀.Kept (State.dropAttach s c p) := by
  unfold State.dropAttach
  repeat' (first | done | simp +contextual (maxDischargeDepth := 99) only [State.setSlot_kept, Kept.upd, Kept.ite, Kept.foldl, Kept.foldl1, implies_true, *] | split | with_reducible apply Kept.foldl | with_reducible apply Kept.foldl1 | (intro _; intros))
theorem State.clearUnits_kept {s₀ : State} {s : State} (c : Nat) (p : Nat) (l : Nat) (acc : Nat × Nat) (tb : Nat × Nat) (h_s : s₀.Kept s) :
    s₀.Kept (State.clearUnits s c p l acc tb) := by
  unfold State.clearUnits
  repeat' (first | done | simp +contextual (maxDischargeDepth := 99) only [State.clearTiles_kept, State.clearAcc_kept, State.dropBanks_kept, State.dropAttach_kept, Kept.upd, Kept.ite, Kept.foldl, Kept.foldl1, implies_true, *] | split | with_reducible apply Kept.foldl | with_reducible apply Kept.foldl1 | (intro _; intros))
theorem State.keepRest_kept {s₀ : State} {s : State} (c : Nat) (p : Nat) (sl : Slot) (h_s : s₀.Kept s) :
    s₀.Kept (State.keepRest s c p sl) := by
  unfold State.keepRest
  repeat' (first | done | simp +contextual (maxDischargeDepth := 99) only [Kept.upd, Kept.ite, Kept.foldl, Kept.foldl1, implies_true, *] | split | with_reducible apply Kept.foldl | with_reducible apply Kept.foldl1 | (intro _; intros))
theorem State.setCar_kept {s₀ : State} {s : State} (a : Nat) (f : Car → Car) (h_s : s₀.Kept s) :
    s₀.Kept (State.setCar s a f) := by
  unfold State.setCar
  repeat' (first | done | simp +contextual (maxDischargeDepth := 99) only [Kept.upd, Kept.ite, Kept.foldl, Kept.foldl1, implies_true, *] | split | with_reducible apply Kept.foldl | with_reducible apply Kept.foldl1 | (intro _; intros))
theorem State.acquire_kept {s₀ : State} {s : State} (a : Nat) (h_s : s₀.Kept s) :
    s₀.Kept (State.acquire s a) := by
  unfold State.acquire
  repeat' (first | done | simp +contextual (maxDischargeDepth := 99) only [State.sf_kept, State.setCar_kept, Kept.upd, Kept.ite, Kept.foldl, Kept.foldl1, implies_true, *] | split | with_reducible apply Kept.foldl | with_reducible apply Kept.foldl1 | (intro _; intros))
theorem State.enterDebug_kept {s₀ : State} {s : State} (l : Option Nat) (h_s : s₀.Kept s) :
    s₀.Kept (State.enterDebug s l) := by
  unfold State.enterDebug
  repeat' (first | done | simp +contextual (maxDischargeDepth := 99) only [State.setFlag_kept, State.setLodge_kept, Kept.upd, Kept.ite, Kept.foldl, Kept.foldl1, implies_true, *] | split | with_reducible apply Kept.foldl | with_reducible apply Kept.foldl1 | (intro _; intros))
theorem State.leaveDebug_kept {s₀ : State} {s : State} (l : Nat) (h_s : s₀.Kept s) :
    s₀.Kept (State.leaveDebug s l) := by
  unfold State.leaveDebug
  repeat' (first | done | simp +contextual (maxDischargeDepth := 99) only [State.setLodge_kept, State.acquire_kept, Kept.upd, Kept.ite, Kept.foldl, Kept.foldl1, implies_true, *] | split | with_reducible apply Kept.foldl | with_reducible apply Kept.foldl1 | (intro _; intros))
theorem State.ibHalted_kept {s₀ : State} {s : State} (n : Nat) (cause : Nat) (index : Nat) (h_s : s₀.Kept s) :
    s₀.Kept (State.ibHalted s n cause index) := by
  unfold State.ibHalted
  repeat' (first | done | simp +contextual (maxDischargeDepth := 99) only [State.sf_kept, State.setIbc_kept, State.enterDebug_kept, Kept.upd, Kept.ite, Kept.foldl, Kept.foldl1, implies_true, *] | split | with_reducible apply Kept.foldl | with_reducible apply Kept.foldl1 | (intro _; intros))
theorem State.freeBatches_kept {s₀ : State} {s : State} (l : Nat) (bq : Nat) (h_s : s₀.Kept s) :
    s₀.Kept (State.freeBatches s l bq) := by
  unfold State.freeBatches
  repeat' (first | done | simp +contextual (maxDischargeDepth := 99) only [State.freeBatch_kept, Kept.upd, Kept.ite, Kept.foldl, Kept.foldl1, implies_true, *] | split | with_reducible apply Kept.foldl | with_reducible apply Kept.foldl1 | (intro _; intros))
theorem State.teardown_kept {s₀ : State} {s : State} (l : Nat) (cause : Nat) (unit : Nat) (slot : Nat) (seq : Nat) (cstat : Nat) (h_s : s₀.Kept s) :
    s₀.Kept (State.teardown s l cause unit slot seq cstat) := by
  unfold State.teardown
  repeat' (first | done | simp +contextual (maxDischargeDepth := 99) only [State.setFlag_kept, State.setSlot_kept, State.clearBlock_kept, State.setLodge_kept, State.setIbc_kept, State.marker_kept, State.wbDone_kept, State.clearUnits_kept, State.keepRest_kept, State.leaveDebug_kept, State.freeBatches_kept, Kept.upd, Kept.ite, Kept.foldl, Kept.foldl1, implies_true, *] | split | with_reducible apply Kept.foldl | with_reducible apply Kept.foldl1 | (intro _; intros))
theorem State.ibStore_kept {s₀ : State} {s : State} (n : Nat) (w : Nat × Nat × Nat) (h_s : s₀.Kept s) :
    s₀.Kept (State.ibStore s n w) := by
  unfold State.ibStore
  repeat' (first | done | simp +contextual (maxDischargeDepth := 99) only [State.wrLE_kept, State.clearPoison_kept, State.setIbc_kept, Kept.upd, Kept.ite, Kept.foldl, Kept.foldl1, implies_true, *] | split | with_reducible apply Kept.foldl | with_reducible apply Kept.foldl1 | (intro _; intros))
theorem State.ibTrap_kept {s₀ : State} {s : State} (n : Nat) (cause : Nat) (st : Nat) (pc : Nat) (h_s : s₀.Kept s) :
    s₀.Kept (State.ibTrap s n cause st pc) := by
  unfold State.ibTrap
  repeat' (first | done | simp +contextual (maxDischargeDepth := 99) only [State.sf_kept, State.setFlag_kept, State.setIbc_kept, State.teardown_kept, Kept.upd, Kept.ite, Kept.foldl, Kept.foldl1, implies_true, *] | split | with_reducible apply Kept.foldl | with_reducible apply Kept.foldl1 | (intro _; intros))
theorem State.ibEdge_kept {s₀ : State} {s : State} (n : Nat) (h_s : s₀.Kept s) :
    s₀.Kept (State.ibEdge s n) := by
  unfold State.ibEdge
  repeat' (first | done | simp +contextual (maxDischargeDepth := 99) only [State.setIbc_kept, State.ibHalted_kept, Kept.upd, Kept.ite, Kept.foldl, Kept.foldl1, implies_true, *] | split | with_reducible apply Kept.foldl | with_reducible apply Kept.foldl1 | (intro _; intros))
theorem State.ibCommit_kept {s₀ : State} {s : State} (e : IbEnv) (w : Word) (o : IbOut) (h_s : s₀.Kept s) :
    s₀.Kept (State.ibCommit s e w o) := by
  unfold State.ibCommit
  repeat' (first | done | simp +contextual (maxDischargeDepth := 99) only [State.setIbc_kept, State.ibStore_kept, State.ibEdge_kept, Kept.upd, Kept.ite, Kept.foldl, Kept.foldl1, implies_true, *] | split | with_reducible apply Kept.foldl | with_reducible apply Kept.foldl1 | (intro _; intros))
theorem State.ibSet_kept {s₀ : State} {s : State} (n : Nat) (a : IbArch) (h_s : s₀.Kept s) :
    s₀.Kept (State.ibSet s n a) := by
  unfold State.ibSet
  repeat' (first | done | simp +contextual (maxDischargeDepth := 99) only [State.setIbc_kept, State.ibEdge_kept, Kept.upd, Kept.ite, Kept.foldl, Kept.foldl1, implies_true, *] | split | with_reducible apply Kept.foldl | with_reducible apply Kept.foldl1 | (intro _; intros))
theorem State.ibIssued_kept {s₀ : State} {s : State} (n : Nat) (e : IbEnv) (w : Word) (h_s : s₀.Kept s) :
    s₀.Kept (State.ibIssued s n e w) := by
  unfold State.ibIssued
  repeat' (first | done | simp +contextual (maxDischargeDepth := 99) only [State.event_kept, Kept.upd, Kept.ite, Kept.foldl, Kept.foldl1, implies_true, *] | split | with_reducible apply Kept.foldl | with_reducible apply Kept.foldl1 | (intro _; intros))
theorem ibRow_kept {s₀ : State} (n : Fin 18) (w : Word) (mv : Word) (isRow : Bool) (reads : IbEnv → List Nat) {s : State} (body : State → IbEnv → State) (h_body : ∀ (x0 : State) (x1 : IbEnv), s₀.Kept x0 → s₀.Kept (body x0 x1)) (h_s : s₀.Kept s) :
    Fine s₀ (isRow = false) (ibRow n w mv isRow reads s body) := by
  unfold ibRow
  repeat' (first | done | simp +contextual (maxDischargeDepth := 99) only [State.setIbc_kept, State.ibTrap_kept, State.ibIssued_kept, Kept.upd, Kept.ite, Kept.foldl, Kept.foldl1, implies_true, Fine.ite, Fine.next, Fine.guard, *] | split | with_reducible apply Kept.foldl | with_reducible apply Kept.foldl1 | (intro _; intros) | with_reducible apply Fine.next | with_reducible apply Fine.guard)
theorem State.ibEnd_kept {s₀ : State} {s : State} (e : IbEnv) (w : Word) (r : IbRes) (h_s : s₀.Kept s) :
    s₀.Kept (State.ibEnd s e w r) := by
  unfold State.ibEnd
  repeat' (first | done | simp +contextual (maxDischargeDepth := 99) only [State.ibTrap_kept, State.ibCommit_kept, Kept.upd, Kept.ite, Kept.foldl, Kept.foldl1, implies_true, *] | split | with_reducible apply Kept.foldl | with_reducible apply Kept.foldl1 | (intro _; intros))
theorem State.ibEndW_kept {s₀ : State} {s : State} (e : IbEnv) (w : Word) (mv : Word) (r : IbRes) (h_s : s₀.Kept s) :
    s₀.Kept (State.ibEndW s e w mv r) := by
  unfold State.ibEndW
  repeat' (first | done | simp +contextual (maxDischargeDepth := 99) only [State.wr_kept, State.setIbc_kept, State.ibEnd_kept, Kept.upd, Kept.ite, Kept.foldl, Kept.foldl1, implies_true, *] | split | with_reducible apply Kept.foldl | with_reducible apply Kept.foldl1 | (intro _; intros))
theorem bundleRow_kept {s₀ : State} (op : Nat) (n : Fin 18) (w : Word) (mv : Word) {s : State} (h_s : s₀.Kept s) :
    Fine s₀ ((iOp w == op) = false) (bundleRow op n w mv s) := by
  unfold bundleRow
  repeat' (first | done | simp +contextual (maxDischargeDepth := 99) only [ibRow_kept, State.ibEndW_kept, Kept.upd, Kept.ite, Kept.foldl, Kept.foldl1, implies_true, Fine.ite, Fine.next, Fine.guard, *] | split | with_reducible apply Kept.foldl | with_reducible apply Kept.foldl1 | (intro _; intros) | with_reducible apply ibRow_kept | with_reducible apply Fine.next | with_reducible apply Fine.guard)
theorem execIbcNop_kept {s₀ : State} (n : Fin 18) (w : Word) (mv : Word) {s : State} (h_s : s₀.Kept s) :
    Fine s₀ ((iOp w == 0 || !ibAssigned (iOp w)) = false) (execIbcNop n w mv s) := by
  unfold execIbcNop
  repeat' (first | done | simp +contextual (maxDischargeDepth := 99) only [ibRow_kept, State.ibEndW_kept, Kept.upd, Kept.ite, Kept.foldl, Kept.foldl1, implies_true, Fine.ite, Fine.next, Fine.guard, *] | split | with_reducible apply Kept.foldl | with_reducible apply Kept.foldl1 | (intro _; intros) | with_reducible apply ibRow_kept | with_reducible apply Fine.next | with_reducible apply Fine.guard)
theorem execFtap_kept {s₀ : State} (n : Fin 18) (w : Word) (mv : Word) {s : State} (h_s : s₀.Kept s) :
    Fine s₀ ((iOp w == 1) = false) (execFtap n w mv s) := by
  unfold execFtap
  repeat' (first | done | simp +contextual (maxDischargeDepth := 99) only [bundleRow_kept, Kept.upd, Kept.ite, Kept.foldl, Kept.foldl1, implies_true, Fine.ite, Fine.next, Fine.guard, *] | split | with_reducible apply Kept.foldl | with_reducible apply Kept.foldl1 | (intro _; intros) | with_reducible apply Fine.next | with_reducible apply Fine.guard)
theorem execMacIns_kept {s₀ : State} (n : Fin 18) (w : Word) (mv : Word) {s : State} (h_s : s₀.Kept s) :
    Fine s₀ ((iOp w == 2) = false) (execMacIns n w mv s) := by
  unfold execMacIns
  repeat' (first | done | simp +contextual (maxDischargeDepth := 99) only [bundleRow_kept, Kept.upd, Kept.ite, Kept.foldl, Kept.foldl1, implies_true, Fine.ite, Fine.next, Fine.guard, *] | split | with_reducible apply Kept.foldl | with_reducible apply Kept.foldl1 | (intro _; intros) | with_reducible apply Fine.next | with_reducible apply Fine.guard)
theorem execCmac_kept {s₀ : State} (n : Fin 18) (w : Word) (mv : Word) {s : State} (h_s : s₀.Kept s) :
    Fine s₀ ((iOp w == 3) = false) (execCmac n w mv s) := by
  unfold execCmac
  repeat' (first | done | simp +contextual (maxDischargeDepth := 99) only [bundleRow_kept, Kept.upd, Kept.ite, Kept.foldl, Kept.foldl1, implies_true, Fine.ite, Fine.next, Fine.guard, *] | split | with_reducible apply Kept.foldl | with_reducible apply Kept.foldl1 | (intro _; intros) | with_reducible apply Fine.next | with_reducible apply Fine.guard)
theorem execAlu_kept {s₀ : State} (n : Fin 18) (w : Word) (mv : Word) {s : State} (h_s : s₀.Kept s) :
    Fine s₀ ((iOp w == 4) = false) (execAlu n w mv s) := by
  unfold execAlu
  repeat' (first | done | simp +contextual (maxDischargeDepth := 99) only [bundleRow_kept, Kept.upd, Kept.ite, Kept.foldl, Kept.foldl1, implies_true, Fine.ite, Fine.next, Fine.guard, *] | split | with_reducible apply Kept.foldl | with_reducible apply Kept.foldl1 | (intro _; intros) | with_reducible apply Fine.next | with_reducible apply Fine.guard)
theorem execAlui_kept {s₀ : State} (n : Fin 18) (w : Word) (mv : Word) {s : State} (h_s : s₀.Kept s) :
    Fine s₀ ((iOp w == 5) = false) (execAlui n w mv s) := by
  unfold execAlui
  repeat' (first | done | simp +contextual (maxDischargeDepth := 99) only [bundleRow_kept, Kept.upd, Kept.ite, Kept.foldl, Kept.foldl1, implies_true, Fine.ite, Fine.next, Fine.guard, *] | split | with_reducible apply Kept.foldl | with_reducible apply Kept.foldl1 | (intro _; intros) | with_reducible apply Fine.next | with_reducible apply Fine.guard)
theorem execLdi_kept {s₀ : State} (n : Fin 18) (w : Word) (mv : Word) {s : State} (h_s : s₀.Kept s) :
    Fine s₀ ((iOp w == 6) = false) (execLdi n w mv s) := by
  unfold execLdi
  repeat' (first | done | simp +contextual (maxDischargeDepth := 99) only [bundleRow_kept, Kept.upd, Kept.ite, Kept.foldl, Kept.foldl1, implies_true, Fine.ite, Fine.next, Fine.guard, *] | split | with_reducible apply Kept.foldl | with_reducible apply Kept.foldl1 | (intro _; intros) | with_reducible apply Fine.next | with_reducible apply Fine.guard)
theorem execAcop_kept {s₀ : State} (n : Fin 18) (w : Word) (mv : Word) {s : State} (h_s : s₀.Kept s) :
    Fine s₀ ((iOp w == 7) = false) (execAcop n w mv s) := by
  unfold execAcop
  repeat' (first | done | simp +contextual (maxDischargeDepth := 99) only [bundleRow_kept, Kept.upd, Kept.ite, Kept.foldl, Kept.foldl1, implies_true, Fine.ite, Fine.next, Fine.guard, *] | split | with_reducible apply Kept.foldl | with_reducible apply Kept.foldl1 | (intro _; intros) | with_reducible apply Fine.next | with_reducible apply Fine.guard)
theorem execMv_kept {s₀ : State} (n : Fin 18) (w : Word) (mv : Word) {s : State} (h_s : s₀.Kept s) :
    Fine s₀ ((iOp w == 8) = false) (execMv n w mv s) := by
  unfold execMv
  repeat' (first | done | simp +contextual (maxDischargeDepth := 99) only [bundleRow_kept, Kept.upd, Kept.ite, Kept.foldl, Kept.foldl1, implies_true, Fine.ite, Fine.next, Fine.guard, *] | split | with_reducible apply Kept.foldl | with_reducible apply Kept.foldl1 | (intro _; intros) | with_reducible apply Fine.next | with_reducible apply Fine.guard)
theorem execLdst_kept {s₀ : State} (n : Fin 18) (w : Word) (mv : Word) {s : State} (h_s : s₀.Kept s) :
    Fine s₀ ((iOp w == 9) = false) (execLdst n w mv s) := by
  unfold execLdst
  repeat' (first | done | simp +contextual (maxDischargeDepth := 99) only [ibRow_kept, State.ibEndW_kept, Kept.upd, Kept.ite, Kept.foldl, Kept.foldl1, implies_true, Fine.ite, Fine.next, Fine.guard, *] | split | with_reducible apply Kept.foldl | with_reducible apply Kept.foldl1 | (intro _; intros) | with_reducible apply ibRow_kept | with_reducible apply Fine.next | with_reducible apply Fine.guard)
theorem execLoopIns_kept {s₀ : State} (n : Fin 18) (w : Word) (mv : Word) {s : State} (h_s : s₀.Kept s) :
    Fine s₀ ((iOp w == 0x0A) = false) (execLoopIns n w mv s) := by
  unfold execLoopIns
  repeat' (first | done | simp +contextual (maxDischargeDepth := 99) only [State.count_kept, State.ibTrap_kept, State.ibSet_kept, ibRow_kept, Kept.upd, Kept.ite, Kept.foldl, Kept.foldl1, implies_true, Fine.ite, Fine.next, Fine.guard, *] | split | with_reducible apply Kept.foldl | with_reducible apply Kept.foldl1 | (intro _; intros) | with_reducible apply ibRow_kept | with_reducible apply Fine.next | with_reducible apply Fine.guard)
theorem execRepIns_kept {s₀ : State} (n : Fin 18) (w : Word) (mv : Word) {s : State} (h_s : s₀.Kept s) :
    Fine s₀ ((iOp w == 0x0B) = false) (execRepIns n w mv s) := by
  unfold execRepIns
  repeat' (first | done | simp +contextual (maxDischargeDepth := 99) only [State.count_kept, State.ibTrap_kept, State.ibSet_kept, ibRow_kept, Kept.upd, Kept.ite, Kept.foldl, Kept.foldl1, implies_true, Fine.ite, Fine.next, Fine.guard, *] | split | with_reducible apply Kept.foldl | with_reducible apply Kept.foldl1 | (intro _; intros) | with_reducible apply ibRow_kept | with_reducible apply Fine.next | with_reducible apply Fine.guard)
theorem execBr_kept {s₀ : State} (n : Fin 18) (w : Word) (mv : Word) {s : State} (h_s : s₀.Kept s) :
    Fine s₀ ((iOp w == 0x0C) = false) (execBr n w mv s) := by
  unfold execBr
  repeat' (first | done | simp +contextual (maxDischargeDepth := 99) only [State.draw_kept, State.ibTrap_kept, State.ibSet_kept, ibRow_kept, Kept.upd, Kept.ite, Kept.foldl, Kept.foldl1, implies_true, Fine.ite, Fine.next, Fine.guard, *] | split | with_reducible apply Kept.foldl | with_reducible apply Kept.foldl1 | (intro _; intros) | with_reducible apply ibRow_kept | with_reducible apply Fine.next | with_reducible apply Fine.guard)
theorem execCall_kept {s₀ : State} (n : Fin 18) (w : Word) (mv : Word) {s : State} (h_s : s₀.Kept s) :
    Fine s₀ ((iOp w == 0x0D) = false) (execCall n w mv s) := by
  unfold execCall
  repeat' (first | done | simp +contextual (maxDischargeDepth := 99) only [State.ibTrap_kept, State.ibSet_kept, ibRow_kept, Kept.upd, Kept.ite, Kept.foldl, Kept.foldl1, implies_true, Fine.ite, Fine.next, Fine.guard, *] | split | with_reducible apply Kept.foldl | with_reducible apply Kept.foldl1 | (intro _; intros) | with_reducible apply ibRow_kept | with_reducible apply Fine.next | with_reducible apply Fine.guard)
theorem ctlRow_kept {s₀ : State} (fn : Nat) (argMask : Nat) (n : Fin 18) (w : Word) (mv : Word) {s : State} (body : State → IbEnv → State) (h_body : ∀ (x0 : State) (x1 : IbEnv), s₀.Kept x0 → s₀.Kept (body x0 x1)) (h_s : s₀.Kept s) :
    Fine s₀ ((iOp w == 0x0E && ib w 25 22 == fn) = false) (ctlRow fn argMask n w mv s body) := by
  unfold ctlRow
  repeat' (first | done | simp +contextual (maxDischargeDepth := 99) only [State.ibTrap_kept, ibRow_kept, Kept.upd, Kept.ite, Kept.foldl, Kept.foldl1, implies_true, Fine.ite, Fine.next, Fine.guard, *] | split | with_reducible apply Kept.foldl | with_reducible apply Kept.foldl1 | (intro _; intros) | with_reducible apply ibRow_kept | with_reducible apply Fine.next | with_reducible apply Fine.guard)
theorem execRetIns_kept {s₀ : State} (n : Fin 18) (w : Word) (mv : Word) {s : State} (h_s : s₀.Kept s) :
    Fine s₀ ((iOp w == 0x0E && ib w 25 22 == 0) = false) (execRetIns n w mv s) := by
  unfold execRetIns
  repeat' (first | done | simp +contextual (maxDischargeDepth := 99) only [State.ibTrap_kept, State.ibSet_kept, ctlRow_kept, Kept.upd, Kept.ite, Kept.foldl, Kept.foldl1, implies_true, Fine.ite, Fine.next, Fine.guard, *] | split | with_reducible apply Kept.foldl | with_reducible apply Kept.foldl1 | (intro _; intros) | with_reducible apply ctlRow_kept | with_reducible apply Fine.next | with_reducible apply Fine.guard)
theorem execReti_kept {s₀ : State} (n : Fin 18) (w : Word) (mv : Word) {s : State} (h_s : s₀.Kept s) :
    Fine s₀ ((iOp w == 0x0E && ib w 25 22 == 1) = false) (execReti n w mv s) := by
  unfold execReti
  repeat' (first | done | simp +contextual (maxDischargeDepth := 99) only [State.setIbc_kept, State.ibTrap_kept, State.ibSet_kept, ctlRow_kept, Kept.upd, Kept.ite, Kept.foldl, Kept.foldl1, implies_true, Fine.ite, Fine.next, Fine.guard, *] | split | with_reducible apply Kept.foldl | with_reducible apply Kept.foldl1 | (intro _; intros) | with_reducible apply ctlRow_kept | with_reducible apply Fine.next | with_reducible apply Fine.guard)
theorem execEi_kept {s₀ : State} (n : Fin 18) (w : Word) (mv : Word) {s : State} (h_s : s₀.Kept s) :
    Fine s₀ ((iOp w == 0x0E && ib w 25 22 == 2) = false) (execEi n w mv s) := by
  unfold execEi
  repeat' (first | done | simp +contextual (maxDischargeDepth := 99) only [State.ibSet_kept, ctlRow_kept, Kept.upd, Kept.ite, Kept.foldl, Kept.foldl1, implies_true, Fine.ite, Fine.next, Fine.guard, *] | split | with_reducible apply Kept.foldl | with_reducible apply Kept.foldl1 | (intro _; intros) | with_reducible apply ctlRow_kept | with_reducible apply Fine.next | with_reducible apply Fine.guard)
theorem execDi_kept {s₀ : State} (n : Fin 18) (w : Word) (mv : Word) {s : State} (h_s : s₀.Kept s) :
    Fine s₀ ((iOp w == 0x0E && ib w 25 22 == 3) = false) (execDi n w mv s) := by
  unfold execDi
  repeat' (first | done | simp +contextual (maxDischargeDepth := 99) only [State.ibSet_kept, ctlRow_kept, Kept.upd, Kept.ite, Kept.foldl, Kept.foldl1, implies_true, Fine.ite, Fine.next, Fine.guard, *] | split | with_reducible apply Kept.foldl | with_reducible apply Kept.foldl1 | (intro _; intros) | with_reducible apply ctlRow_kept | with_reducible apply Fine.next | with_reducible apply Fine.guard)
theorem execIdleIbc_kept {s₀ : State} (n : Fin 18) (w : Word) (mv : Word) {s : State} (h_s : s₀.Kept s) :
    Fine s₀ ((iOp w == 0x0E && ib w 25 22 == 4) = false) (execIdleIbc n w mv s) := by
  unfold execIdleIbc
  repeat' (first | done | simp +contextual (maxDischargeDepth := 99) only [State.setIbc_kept, State.ibEdge_kept, ctlRow_kept, Kept.upd, Kept.ite, Kept.foldl, Kept.foldl1, implies_true, Fine.ite, Fine.next, Fine.guard, *] | split | with_reducible apply Kept.foldl | with_reducible apply Kept.foldl1 | (intro _; intros) | with_reducible apply ctlRow_kept | with_reducible apply Fine.next | with_reducible apply Fine.guard)
theorem execStopIbc_kept {s₀ : State} (n : Fin 18) (w : Word) (mv : Word) {s : State} (h_s : s₀.Kept s) :
    Fine s₀ ((iOp w == 0x0E && ib w 25 22 == 5) = false) (execStopIbc n w mv s) := by
  unfold execStopIbc
  repeat' (first | done | simp +contextual (maxDischargeDepth := 99) only [State.setFlag_kept, State.setLodge_kept, State.setIbc_kept, ctlRow_kept, Kept.upd, Kept.ite, Kept.foldl, Kept.foldl1, implies_true, Fine.ite, Fine.next, Fine.guard, *] | split | with_reducible apply Kept.foldl | with_reducible apply Kept.foldl1 | (intro _; intros) | with_reducible apply ctlRow_kept | with_reducible apply Fine.next | with_reducible apply Fine.guard)
theorem execTrapIbc_kept {s₀ : State} (n : Fin 18) (w : Word) (mv : Word) {s : State} (h_s : s₀.Kept s) :
    Fine s₀ ((iOp w == 0x0E && (ib w 25 22 == 6 || decide (7 < ib w 25 22))) = false) (execTrapIbc n w mv s) := by
  unfold execTrapIbc
  repeat' (first | done | simp +contextual (maxDischargeDepth := 99) only [State.ibTrap_kept, ibRow_kept, Kept.upd, Kept.ite, Kept.foldl, Kept.foldl1, implies_true, Fine.ite, Fine.next, Fine.guard, *] | split | with_reducible apply Kept.foldl | with_reducible apply Kept.foldl1 | (intro _; intros) | with_reducible apply ibRow_kept | with_reducible apply Fine.next | with_reducible apply Fine.guard)
theorem execIbcBrk_kept {s₀ : State} (n : Fin 18) (w : Word) (mv : Word) {s : State} (h_s : s₀.Kept s) :
    Fine s₀ ((iOp w == 0x0E && ib w 25 22 == 7) = false) (execIbcBrk n w mv s) := by
  unfold execIbcBrk
  repeat' (first | done | simp +contextual (maxDischargeDepth := 99) only [State.setIbc_kept, State.ibHalted_kept, State.ibSet_kept, ctlRow_kept, Kept.upd, Kept.ite, Kept.foldl, Kept.foldl1, implies_true, Fine.ite, Fine.next, Fine.guard, *] | split | with_reducible apply Kept.foldl | with_reducible apply Kept.foldl1 | (intro _; intros) | with_reducible apply ctlRow_kept | with_reducible apply Fine.next | with_reducible apply Fine.guard)
theorem blkRow_kept {s₀ : State} (isFn : Nat → Bool) (n : Fin 18) (w : Word) (mv : Word) {s : State} (body : State → IbEnv → State) (h_body : ∀ (x0 : State) (x1 : IbEnv), s₀.Kept x0 → s₀.Kept (body x0 x1)) (h_s : s₀.Kept s) :
    Fine s₀ ((iOp w == 0x0F && isFn (ib w 25 24)) = false) (blkRow isFn n w mv s body) := by
  unfold blkRow
  repeat' (first | done | simp +contextual (maxDischargeDepth := 99) only [State.ibTrap_kept, ibRow_kept, Kept.upd, Kept.ite, Kept.foldl, Kept.foldl1, implies_true, Fine.ite, Fine.next, Fine.guard, *] | split | with_reducible apply Kept.foldl | with_reducible apply Kept.foldl1 | (intro _; intros) | with_reducible apply ibRow_kept | with_reducible apply Fine.next | with_reducible apply Fine.guard)
theorem execBlkend_kept {s₀ : State} (n : Fin 18) (w : Word) (mv : Word) {s : State} (h_s : s₀.Kept s) :
    Fine s₀ ((iOp w == 0x0F && (· == 0) (ib w 25 24)) = false) (execBlkend n w mv s) := by
  unfold execBlkend
  refine blkRow_kept (· == 0) _ _ _ _ ?_ h_s
  repeat' (first | done | simp +contextual (maxDischargeDepth := 99) only [State.setIbc_kept, State.ibSet_kept, blkRow_kept, Kept.upd, Kept.ite, Kept.foldl, Kept.foldl1, implies_true, Fine.ite, Fine.next, Fine.guard, *] | split | with_reducible apply Kept.foldl | with_reducible apply Kept.foldl1 | (intro _; intros) | with_reducible apply blkRow_kept | with_reducible apply Fine.next | with_reducible apply Fine.guard)
theorem execBlkclr_kept {s₀ : State} (n : Fin 18) (w : Word) (mv : Word) {s : State} (h_s : s₀.Kept s) :
    Fine s₀ ((iOp w == 0x0F && (· == 1) (ib w 25 24)) = false) (execBlkclr n w mv s) := by
  unfold execBlkclr
  refine blkRow_kept (· == 1) _ _ _ _ ?_ h_s
  repeat' (first | done | simp +contextual (maxDischargeDepth := 99) only [State.ibSet_kept, blkRow_kept, Kept.upd, Kept.ite, Kept.foldl, Kept.foldl1, implies_true, Fine.ite, Fine.next, Fine.guard, *] | split | with_reducible apply Kept.foldl | with_reducible apply Kept.foldl1 | (intro _; intros) | with_reducible apply blkRow_kept | with_reducible apply Fine.next | with_reducible apply Fine.guard)
theorem execChkpt_kept {s₀ : State} (n : Fin 18) (w : Word) (mv : Word) {s : State} (h_s : s₀.Kept s) :
    Fine s₀ ((iOp w == 0x0F && (fun f => f == 2 || f == 3) (ib w 25 24)) = false) (execChkpt n w mv s) := by
  unfold execChkpt
  refine blkRow_kept (fun f => f == 2 || f == 3) _ _ _ _ ?_ h_s
  repeat' (first | done | simp +contextual (maxDischargeDepth := 99) only [State.setIbc_kept, State.ibSet_kept, blkRow_kept, Kept.upd, Kept.ite, Kept.foldl, Kept.foldl1, implies_true, Fine.ite, Fine.next, Fine.guard, *] | split | with_reducible apply Kept.foldl | with_reducible apply Kept.foldl1 | (intro _; intros) | with_reducible apply blkRow_kept | with_reducible apply Fine.next | with_reducible apply Fine.guard)
theorem syncRow_kept {s₀ : State} (isFn : Nat → Bool) (ck : Bool) (n : Fin 18) (w : Word) (mv : Word) {s : State} (body : State → IbEnv → Nat → Nat → State) (h_body : ∀ (x0 : State) (x1 : IbEnv) (x2 : Nat) (x3 : Nat), s₀.Kept x0 → s₀.Kept (body x0 x1 x2 x3)) (h_s : s₀.Kept s) :
    Fine s₀ ((iOp w == 0x10 && isFn (ib w 25 24)) = false) (syncRow isFn ck n w mv s body) := by
  unfold syncRow
  repeat' (first | done | simp +contextual (maxDischargeDepth := 99) only [State.setIbc_kept, State.ibTrap_kept, ibRow_kept, Kept.upd, Kept.ite, Kept.foldl, Kept.foldl1, implies_true, Fine.ite, Fine.next, Fine.guard, *] | split | with_reducible apply Kept.foldl | with_reducible apply Kept.foldl1 | (intro _; intros) | with_reducible apply ibRow_kept | with_reducible apply Fine.next | with_reducible apply Fine.guard)
theorem execSig_kept {s₀ : State} (n : Fin 18) (w : Word) (mv : Word) {s : State} (h_s : s₀.Kept s) :
    Fine s₀ ((iOp w == 0x10 && (fun f => f == 0 || f == 3) (ib w 25 24)) = false) (execSig n w mv s) := by
  unfold execSig
  refine syncRow_kept (fun f => f == 0 || f == 3) _ _ _ _ _ ?_ h_s
  repeat' (first | done | simp +contextual (maxDischargeDepth := 99) only [State.signal_kept, State.ibSet_kept, syncRow_kept, Kept.upd, Kept.ite, Kept.foldl, Kept.foldl1, implies_true, Fine.ite, Fine.next, Fine.guard, *] | split | with_reducible apply Kept.foldl | with_reducible apply Kept.foldl1 | (intro _; intros) | with_reducible apply syncRow_kept | with_reducible apply Fine.next | with_reducible apply Fine.guard)
theorem execWaits_kept {s₀ : State} (n : Fin 18) (w : Word) (mv : Word) {s : State} (h_s : s₀.Kept s) :
    Fine s₀ ((iOp w == 0x10 && (· == 1) (ib w 25 24)) = false) (execWaits n w mv s) := by
  unfold execWaits
  refine syncRow_kept (· == 1) _ _ _ _ _ ?_ h_s
  repeat' (first | done | simp +contextual (maxDischargeDepth := 99) only [State.setIbc_kept, State.ibEdge_kept, State.ibSet_kept, syncRow_kept, Kept.upd, Kept.ite, Kept.foldl, Kept.foldl1, implies_true, Fine.ite, Fine.next, Fine.guard, *] | split | with_reducible apply Kept.foldl | with_reducible apply Kept.foldl1 | (intro _; intros) | with_reducible apply syncRow_kept | with_reducible apply Fine.next | with_reducible apply Fine.guard)
theorem execSyncArm_kept {s₀ : State} (n : Fin 18) (w : Word) (mv : Word) {s : State} (h_s : s₀.Kept s) :
    Fine s₀ ((iOp w == 0x10 && (· == 2) (ib w 25 24)) = false) (execSyncArm n w mv s) := by
  unfold execSyncArm
  refine syncRow_kept (· == 2) _ _ _ _ _ ?_ h_s
  repeat' (first | done | simp +contextual (maxDischargeDepth := 99) only [State.arm_kept, State.ibSet_kept, syncRow_kept, Kept.upd, Kept.ite, Kept.foldl, Kept.foldl1, implies_true, Fine.ite, Fine.next, Fine.guard, *] | split | with_reducible apply Kept.foldl | with_reducible apply Kept.foldl1 | (intro _; intros) | with_reducible apply syncRow_kept | with_reducible apply Fine.next | with_reducible apply Fine.guard)
theorem execWaitsSatisfied_kept {s₀ : State} (n : Fin 18) {s : State} (h_s : s₀.Kept s) :
    Fine s₀ False (execWaitsSatisfied n s) := by
  unfold execWaitsSatisfied
  repeat' (first | done | simp +contextual (maxDischargeDepth := 99) only [State.event_kept, State.setIbc_kept, Kept.upd, Kept.ite, Kept.foldl, Kept.foldl1, implies_true, Fine.ite, Fine.next, Fine.guard, *] | split | with_reducible apply Kept.foldl | with_reducible apply Kept.foldl1 | (intro _; intros) | with_reducible apply Fine.next | with_reducible apply Fine.guard)
theorem State.setXfer_kept {s₀ : State} {s : State} (n : Nat) (id : Nat) (f : IbXfer → IbXfer) (h_s : s₀.Kept s) :
    s₀.Kept (State.setXfer s n id f) := by
  unfold State.setXfer
  repeat' (first | done | simp +contextual (maxDischargeDepth := 99) only [State.setIbc_kept, Kept.upd, Kept.ite, Kept.foldl, Kept.foldl1, implies_true, *] | split | with_reducible apply Kept.foldl | with_reducible apply Kept.foldl1 | (intro _; intros))
theorem State.xferCharge_kept {s₀ : State} {s : State} (l : Nat) (x : IbXfer) (h_s : s₀.Kept s) :
    s₀.Kept (State.xferCharge s l x) := by
  unfold State.xferCharge
  repeat' (first | done | simp +contextual (maxDischargeDepth := 99) only [State.charge_kept, State.tierCharge_kept, Kept.upd, Kept.ite, Kept.foldl, Kept.foldl1, implies_true, *] | split | with_reducible apply Kept.foldl | with_reducible apply Kept.foldl1 | (intro _; intros))
theorem State.xferStart_kept {s₀ : State} {s : State} (n : Nat) (h_s : s₀.Kept s) :
    s₀.Kept (State.xferStart s n) := by
  unfold State.xferStart
  repeat' (first | done | simp +contextual (maxDischargeDepth := 99) only [State.linkAsk_kept, State.setXfer_kept, State.xferCharge_kept, Kept.upd, Kept.ite, Kept.foldl, Kept.foldl1, implies_true, *] | split | with_reducible apply Kept.foldl | with_reducible apply Kept.foldl1 | (intro _; intros))
theorem execXfer_kept {s₀ : State} (n : Fin 18) (w : Word) (mv : Word) {s : State} (h_s : s₀.Kept s) :
    Fine s₀ ((iOp w == 0x11) = false) (execXfer n w mv s) := by
  unfold execXfer
  repeat' (first | done | simp +contextual (maxDischargeDepth := 99) only [State.wr_kept, State.countStatus_kept, State.setIbc_kept, State.ibTrap_kept, State.ibSet_kept, ibRow_kept, State.xferStart_kept, Kept.upd, Kept.ite, Kept.foldl, Kept.foldl1, implies_true, Fine.ite, Fine.next, Fine.guard, *] | split | with_reducible apply Kept.foldl | with_reducible apply Kept.foldl1 | (intro _; intros) | with_reducible apply ibRow_kept | with_reducible apply Fine.next | with_reducible apply Fine.guard)
theorem execXferDone_kept {s₀ : State} (n : Fin 18) {s : State} (h_s : s₀.Kept s) :
    Fine s₀ False (execXferDone n s) := by
  unfold execXferDone
  repeat' (first | done | simp +contextual (maxDischargeDepth := 99) only [State.countStatus_kept, State.irqPend_kept, State.signal_kept, State.put_kept, State.getBytes_kept, State.setIbc_kept, State.ibTrap_kept, State.xferStart_kept, Kept.upd, Kept.ite, Kept.foldl, Kept.foldl1, implies_true, Fine.ite, Fine.next, Fine.guard, *] | split | with_reducible apply Kept.foldl | with_reducible apply Kept.foldl1 | (intro _; intros) | with_reducible apply Fine.next | with_reducible apply Fine.guard)
theorem execInterruptIbc_kept {s₀ : State} (n : Fin 18) {s : State} (h_s : s₀.Kept s) :
    Fine s₀ False (execInterruptIbc n s) := by
  unfold execInterruptIbc
  repeat' (first | done | simp +contextual (maxDischargeDepth := 99) only [State.sf_kept, State.setIbc_kept, State.ibEdge_kept, Kept.upd, Kept.ite, Kept.foldl, Kept.foldl1, implies_true, Fine.ite, Fine.next, Fine.guard, *] | split | with_reducible apply Kept.foldl | with_reducible apply Kept.foldl1 | (intro _; intros) | with_reducible apply Fine.next | with_reducible apply Fine.guard)
theorem execCheckpoint_kept {s₀ : State} (n : Fin 18) {s : State} (h_s : s₀.Kept s) :
    Fine s₀ False (execCheckpoint n s) := by
  unfold execCheckpoint
  repeat' (first | done | simp +contextual (maxDischargeDepth := 99) only [State.setIbc_kept, Kept.upd, Kept.ite, Kept.foldl, Kept.foldl1, implies_true, Fine.ite, Fine.next, Fine.guard, *] | split | with_reducible apply Kept.foldl | with_reducible apply Kept.foldl1 | (intro _; intros) | with_reducible apply Fine.next | with_reducible apply Fine.guard)
theorem State.ibReplay_kept {s₀ : State} {s : State} (n : Nat) (h_s : s₀.Kept s) :
    s₀.Kept (State.ibReplay s n) := by
  unfold State.ibReplay
  repeat' (first | done | simp +contextual (maxDischargeDepth := 99) only [State.setFlag_kept, State.wb_kept, State.setIbc_kept, Kept.upd, Kept.ite, Kept.foldl, Kept.foldl1, implies_true, *] | split | with_reducible apply Kept.foldl | with_reducible apply Kept.foldl1 | (intro _; intros))
theorem State.ibStart_kept {s₀ : State} {s : State} (n : Nat) (h_s : s₀.Kept s) :
    s₀.Kept (State.ibStart s n) := by
  unfold State.ibStart
  repeat' (first | done | simp +contextual (maxDischargeDepth := 99) only [State.setIbc_kept, Kept.upd, Kept.ite, Kept.foldl, Kept.foldl1, implies_true, *] | split | with_reducible apply Kept.foldl | with_reducible apply Kept.foldl1 | (intro _; intros))
theorem State.ibRun_kept {s₀ : State} {s : State} (n : Nat) (h_s : s₀.Kept s) :
    s₀.Kept (State.ibRun s n) := by
  unfold State.ibRun
  repeat' (first | done | simp +contextual (maxDischargeDepth := 99) only [State.ibStart_kept, Kept.upd, Kept.ite, Kept.foldl, Kept.foldl1, implies_true, *] | split | with_reducible apply Kept.foldl | with_reducible apply Kept.foldl1 | (intro _; intros))
theorem State.ibStop_kept {s₀ : State} {s : State} (n : Nat) (h_s : s₀.Kept s) :
    s₀.Kept (State.ibStop s n) := by
  unfold State.ibStop
  repeat' (first | done | simp +contextual (maxDischargeDepth := 99) only [State.setIbc_kept, State.leaveDebug_kept, Kept.upd, Kept.ite, Kept.foldl, Kept.foldl1, implies_true, *] | split | with_reducible apply Kept.foldl | with_reducible apply Kept.foldl1 | (intro _; intros))
theorem execIbcRun_kept {s₀ : State} (who : Requester) (n : Fin 18) {s : State} (h_s : s₀.Kept s) :
    Fine s₀ False (execIbcRun who n s) := by
  unfold execIbcRun
  repeat' (first | done | simp +contextual (maxDischargeDepth := 99) only [State.asWrite_kept, State.ibRun_kept, Kept.upd, Kept.ite, Kept.foldl, Kept.foldl1, implies_true, Fine.ite, Fine.next, Fine.guard, *] | split | with_reducible apply Kept.foldl | with_reducible apply Kept.foldl1 | (intro _; intros) | with_reducible apply State.asWrite_kept | with_reducible apply Fine.next | with_reducible apply Fine.guard)
theorem execIbcRunStop_kept {s₀ : State} (who : Requester) (n : Fin 18) {s : State} (h_s : s₀.Kept s) :
    Fine s₀ False (execIbcRunStop who n s) := by
  unfold execIbcRunStop
  repeat' (first | done | simp +contextual (maxDischargeDepth := 99) only [State.asWrite_kept, State.ibStop_kept, Kept.upd, Kept.ite, Kept.foldl, Kept.foldl1, implies_true, Fine.ite, Fine.next, Fine.guard, *] | split | with_reducible apply Kept.foldl | with_reducible apply Kept.foldl1 | (intro _; intros) | with_reducible apply State.asWrite_kept | with_reducible apply Fine.next | with_reducible apply Fine.guard)
theorem State.irqSet_kept {s₀ : State} {s : State} (n : Nat) (v : Nat) (h_s : s₀.Kept s) :
    s₀.Kept (State.irqSet s n v) := by
  unfold State.irqSet
  repeat' (first | done | simp +contextual (maxDischargeDepth := 99) only [State.irqPend_kept, Kept.upd, Kept.ite, Kept.foldl, Kept.foldl1, implies_true, *] | split | with_reducible apply Kept.foldl | with_reducible apply Kept.foldl1 | (intro _; intros))
theorem execIrqSet_kept {s₀ : State} (who : Requester) (n : Fin 18) (v : Word) {s : State} (h_s : s₀.Kept s) :
    Fine s₀ False (execIrqSet who n v s) := by
  unfold execIrqSet
  repeat' (first | done | simp +contextual (maxDischargeDepth := 99) only [State.asWrite_kept, State.irqSet_kept, Kept.upd, Kept.ite, Kept.foldl, Kept.foldl1, implies_true, Fine.ite, Fine.next, Fine.guard, *] | split | with_reducible apply Kept.foldl | with_reducible apply Kept.foldl1 | (intro _; intros) | with_reducible apply State.asWrite_kept | with_reducible apply Fine.next | with_reducible apply Fine.guard)
theorem State.mbox_kept {s₀ : State} {s : State} (who : Requester) (n : Nat) (v : Word) (h_s : s₀.Kept s) :
    s₀.Kept (State.mbox s who n v) := by
  unfold State.mbox
  repeat' (first | done | simp +contextual (maxDischargeDepth := 99) only [State.wr_kept, State.irqPend_kept, Kept.upd, Kept.ite, Kept.foldl, Kept.foldl1, implies_true, *] | split | with_reducible apply Kept.foldl | with_reducible apply Kept.foldl1 | (intro _; intros))
theorem execMbox_kept {s₀ : State} (who : Requester) (n : Fin 18) (v : Word) {s : State} (h_s : s₀.Kept s) :
    Fine s₀ False (execMbox who n v s) := by
  unfold execMbox
  repeat' (first | done | simp +contextual (maxDischargeDepth := 99) only [State.asWrite_kept, State.mbox_kept, Kept.upd, Kept.ite, Kept.foldl, Kept.foldl1, implies_true, Fine.ite, Fine.next, Fine.guard, *] | split | with_reducible apply Kept.foldl | with_reducible apply Kept.foldl1 | (intro _; intros) | with_reducible apply State.asWrite_kept | with_reducible apply Fine.next | with_reducible apply Fine.guard)
theorem State.dbgIbHalt_kept {s₀ : State} {s : State} (n : Nat) (h_s : s₀.Kept s) :
    s₀.Kept (State.dbgIbHalt s n).1 := by
  unfold State.dbgIbHalt
  repeat' (first | done | simp +contextual (maxDischargeDepth := 99) only [State.setIbc_kept, State.ibHalted_kept, Kept.upd, Kept.ite, Kept.foldl, Kept.foldl1, implies_true, *] | split | with_reducible apply Kept.foldl | with_reducible apply Kept.foldl1 | (intro _; intros))
theorem State.dbgIbStep_kept {s₀ : State} {s : State} (n : Nat) (h_s : s₀.Kept s) :
    s₀.Kept (State.dbgIbStep s n).1 := by
  unfold State.dbgIbStep
  repeat' (first | done | simp +contextual (maxDischargeDepth := 99) only [State.setIbc_kept, Kept.upd, Kept.ite, Kept.foldl, Kept.foldl1, implies_true, *] | split | with_reducible apply Kept.foldl | with_reducible apply Kept.foldl1 | (intro _; intros))
theorem State.ibFree_kept {s₀ : State} {s : State} (n : Nat) (h_s : s₀.Kept s) :
    s₀.Kept (State.ibFree s n) := by
  unfold State.ibFree
  repeat' (first | done | simp +contextual (maxDischargeDepth := 99) only [State.setIbc_kept, State.leaveDebug_kept, Kept.upd, Kept.ite, Kept.foldl, Kept.foldl1, implies_true, *] | split | with_reducible apply Kept.foldl | with_reducible apply Kept.foldl1 | (intro _; intros))
theorem State.dbgIbResume_kept {s₀ : State} {s : State} (n : Nat) (h_s : s₀.Kept s) :
    s₀.Kept (State.dbgIbResume s n).1 := by
  unfold State.dbgIbResume
  repeat' (first | done | simp +contextual (maxDischargeDepth := 99) only [State.ibFree_kept, Kept.upd, Kept.ite, Kept.foldl, Kept.foldl1, implies_true, *] | split | with_reducible apply Kept.foldl | with_reducible apply Kept.foldl1 | (intro _; intros))
theorem accEnd_kept {s₀ : State} (r : State × Nat) (h_r : s₀.Kept r.1) :
    s₀.Kept (accEnd r) := by
  unfold accEnd
  repeat' (first | done | simp +contextual (maxDischargeDepth := 99) only [State.setFlagIf_kept, State.countStatus_kept, Kept.upd, Kept.ite, Kept.foldl, Kept.foldl1, implies_true, *] | split | with_reducible apply Kept.foldl | with_reducible apply Kept.foldl1 | (intro _; intros))
theorem execIbcHalt_kept {s₀ : State} (n : Fin 16) {s : State} (h_s : s₀.Kept s) :
    Fine s₀ False (execIbcHalt n s) := by
  unfold execIbcHalt
  repeat' (first | done | simp +contextual (maxDischargeDepth := 99) only [State.dbgIbHalt_kept, accEnd_kept, Kept.upd, Kept.ite, Kept.foldl, Kept.foldl1, implies_true, Fine.ite, Fine.next, Fine.guard, *] | split | with_reducible apply Kept.foldl | with_reducible apply Kept.foldl1 | (intro _; intros) | with_reducible apply Fine.next | with_reducible apply Fine.guard)
theorem execIbcStep_kept {s₀ : State} (n : Fin 16) {s : State} (h_s : s₀.Kept s) :
    Fine s₀ False (execIbcStep n s) := by
  unfold execIbcStep
  repeat' (first | done | simp +contextual (maxDischargeDepth := 99) only [State.dbgIbStep_kept, accEnd_kept, Kept.upd, Kept.ite, Kept.foldl, Kept.foldl1, implies_true, Fine.ite, Fine.next, Fine.guard, *] | split | with_reducible apply Kept.foldl | with_reducible apply Kept.foldl1 | (intro _; intros) | with_reducible apply Fine.next | with_reducible apply Fine.guard)
theorem execIbcResume_kept {s₀ : State} (n : Fin 16) {s : State} (h_s : s₀.Kept s) :
    Fine s₀ False (execIbcResume n s) := by
  unfold execIbcResume
  repeat' (first | done | simp +contextual (maxDischargeDepth := 99) only [State.dbgIbResume_kept, accEnd_kept, Kept.upd, Kept.ite, Kept.foldl, Kept.foldl1, implies_true, Fine.ite, Fine.next, Fine.guard, *] | split | with_reducible apply Kept.foldl | with_reducible apply Kept.foldl1 | (intro _; intros) | with_reducible apply Fine.next | with_reducible apply Fine.guard)
theorem execBreakpoint_kept {s₀ : State} (n : Fin 16) {s : State} (h_s : s₀.Kept s) :
    Fine s₀ False (execBreakpoint n s) := by
  unfold execBreakpoint
  repeat' (first | done | simp +contextual (maxDischargeDepth := 99) only [State.setIbc_kept, State.ibHalted_kept, Kept.upd, Kept.ite, Kept.foldl, Kept.foldl1, implies_true, Fine.ite, Fine.next, Fine.guard, *] | split | with_reducible apply Kept.foldl | with_reducible apply Kept.foldl1 | (intro _; intros) | with_reducible apply Fine.next | with_reducible apply Fine.guard)
theorem execWatchpoint_kept {s₀ : State} (n : Fin 16) {s : State} (h_s : s₀.Kept s) :
    Fine s₀ False (execWatchpoint n s) := by
  unfold execWatchpoint
  repeat' (first | done | simp +contextual (maxDischargeDepth := 99) only [State.setIbc_kept, State.ibHalted_kept, Kept.upd, Kept.ite, Kept.foldl, Kept.foldl1, implies_true, Fine.ite, Fine.next, Fine.guard, *] | split | with_reducible apply Kept.foldl | with_reducible apply Kept.foldl1 | (intro _; intros) | with_reducible apply Fine.next | with_reducible apply Fine.guard)

end Sys2Proof.Machine
end

