-- ==== Sys2Proof/Laws/KeptEngines.lean ====
section
/-! SUPPORT. What every operation keeps, the queue and the canonical form of the tables: streams, the matrix and vector engines, quantisation, the KV pools and attention, the air commands. One lemma for
each operation. -/
namespace Sys2Proof.Machine
open Sys2Proof
set_option linter.unusedSimpArgs false
set_option linter.unusedVariables false

theorem State.writeRecord_kept {s₀ : State} {s : State} (x : Ctx) (st : Nat) (op : Nat) (ev : Nat) (seq : Nat) (tag : Nat) (h_s : s₀.Kept s) :
    s₀.Kept (State.writeRecord s x st op ev seq tag) := by
  unfold State.writeRecord
  repeat' (first | done | simp +contextual (maxDischargeDepth := 99) only [State.wrLE_kept, State.setSlot_kept, Kept.upd, Kept.ite, Kept.foldl, Kept.foldl1, implies_true, *] | split | with_reducible apply Kept.foldl | with_reducible apply Kept.foldl1 | (intro _; intros))
theorem State.stallRing_kept {s₀ : State} {s : State} (x : Ctx) (h_s : s₀.Kept s) :
    s₀.Kept (State.stallRing s x) := by
  unfold State.stallRing
  repeat' (first | done | simp +contextual (maxDischargeDepth := 99) only [State.setFlag_kept, State.setSlot_kept, Kept.upd, Kept.ite, Kept.foldl, Kept.foldl1, implies_true, *] | split | with_reducible apply Kept.foldl | with_reducible apply Kept.foldl1 | (intro _; intros))
theorem State.arithFlags_kept {s₀ : State} {s : State} (x : Ctx) (ev : Nat) (h_s : s₀.Kept s) :
    s₀.Kept (State.arithFlags s x ev) := by
  unfold State.arithFlags
  repeat' (first | done | simp +contextual (maxDischargeDepth := 99) only [State.setFlagIf_kept, Kept.upd, Kept.ite, Kept.foldl, Kept.foldl1, implies_true, *] | split | with_reducible apply Kept.foldl | with_reducible apply Kept.foldl1 | (intro _; intros))
theorem State.stopMark_kept {s₀ : State} {s : State} (x : Ctx) (op : Nat) (st : Nat) (h_s : s₀.Kept s) :
    s₀.Kept (State.stopMark s x op st) := by
  unfold State.stopMark
  repeat' (first | done | simp +contextual (maxDischargeDepth := 99) only [State.setFlag_kept, State.setSlot_kept, Kept.upd, Kept.ite, Kept.foldl, Kept.foldl1, implies_true, *] | split | with_reducible apply Kept.foldl | with_reducible apply Kept.foldl1 | (intro _; intros))
theorem State.stopSlot_kept {s₀ : State} {s : State} (x : Ctx) (op : Nat) (st : Nat) (seq : Nat) (h_s : s₀.Kept s) :
    s₀.Kept (State.stopSlot s x op st seq) := by
  unfold State.stopSlot
  repeat' (first | done | simp +contextual (maxDischargeDepth := 99) only [State.teardown_kept, State.stopMark_kept, Kept.upd, Kept.ite, Kept.foldl, Kept.foldl1, implies_true, *] | split | with_reducible apply Kept.foldl | with_reducible apply Kept.foldl1 | (intro _; intros))
theorem State.finishMark_kept {s₀ : State} {s : State} (x : Ctx) (w : CmdWord) (seq : Nat) (st : Nat) (ev : Nat) (tag : Nat) (claimed : Bool) (force : Bool) (h_s : s₀.Kept s) :
    s₀.Kept (State.finishMark s x w seq st ev tag claimed force) := by
  unfold State.finishMark
  repeat' (first | done | simp +contextual (maxDischargeDepth := 99) only [State.countStatus_kept, State.setSlot_kept, State.signal_kept, State.writeRecord_kept, State.stopMark_kept, Kept.upd, Kept.ite, Kept.foldl, Kept.foldl1, implies_true, *] | split | with_reducible apply Kept.foldl | with_reducible apply Kept.foldl1 | (intro _; intros))
theorem State.finish_kept {s₀ : State} {s : State} (x : Ctx) (w : CmdWord) (seq : Nat) (st : Nat) (ev : Nat) (tag : Nat) (claimed : Bool) (force : Bool) (h_s : s₀.Kept s) :
    s₀.Kept (State.finish s x w seq st ev tag claimed force) := by
  unfold State.finish
  repeat' (first | done | simp +contextual (maxDischargeDepth := 99) only [State.teardown_kept, State.finishMark_kept, Kept.upd, Kept.ite, Kept.foldl, Kept.foldl1, implies_true, *] | split | with_reducible apply Kept.foldl | with_reducible apply Kept.foldl1 | (intro _; intros))
theorem State.tcHalted_kept {s₀ : State} {s : State} (c : Nat) (l : Nat) (sl : Slot) (cause : Nat) (h_s : s₀.Kept s) :
    s₀.Kept (State.tcHalted s c l sl cause) := by
  unfold State.tcHalted
  repeat' (first | done | simp +contextual (maxDischargeDepth := 99) only [State.sf_kept, State.enterDebug_kept, Kept.upd, Kept.ite, Kept.foldl, Kept.foldl1, implies_true, *] | split | with_reducible apply Kept.foldl | with_reducible apply Kept.foldl1 | (intro _; intros))
theorem State.haltSlot_kept {s₀ : State} {s : State} (x : Ctx) (cause : Nat) (h_s : s₀.Kept s) :
    s₀.Kept (State.haltSlot s x cause) := by
  unfold State.haltSlot
  repeat' (first | done | simp +contextual (maxDischargeDepth := 99) only [State.setSlot_kept, State.tcHalted_kept, Kept.upd, Kept.ite, Kept.foldl, Kept.foldl1, implies_true, *] | split | with_reducible apply Kept.foldl | with_reducible apply Kept.foldl1 | (intro _; intros))
theorem State.advance_kept {s₀ : State} {s : State} (x : Ctx) (h_s : s₀.Kept s) :
    s₀.Kept (State.advance s x) := by
  unfold State.advance
  repeat' (first | done | simp +contextual (maxDischargeDepth := 99) only [State.event_kept, State.setSlot_kept, State.tcHalted_kept, Kept.upd, Kept.ite, Kept.foldl, Kept.foldl1, implies_true, *] | split | with_reducible apply Kept.foldl | with_reducible apply Kept.foldl1 | (intro _; intros))
theorem State.badWord_kept {s₀ : State} {s : State} (x : Ctx) (seq : Nat) (h_s : s₀.Kept s) :
    s₀.Kept (State.badWord s x seq) := by
  unfold State.badWord
  repeat' (first | done | simp +contextual (maxDischargeDepth := 99) only [State.countStatus_kept, State.writeRecord_kept, State.stopSlot_kept, Kept.upd, Kept.ite, Kept.foldl, Kept.foldl1, implies_true, *] | split | with_reducible apply Kept.foldl | with_reducible apply Kept.foldl1 | (intro _; intros))
theorem decodeRow_kept {s₀ : State} (c : Fin 32) (sl : Slot) (w : CmdWord) (isRow : Bool) {s : State} (body : Ctx → Nat → State → State) (h_body : ∀ (x0 : Ctx) (x1 : Nat) (x2 : State), s₀.Kept x2 → s₀.Kept (body x0 x1 x2)) (h_s : s₀.Kept s) :
    Fine s₀ (isRow = false) (decodeRow c sl w isRow s body) := by
  unfold decodeRow
  repeat' (first | done | simp +contextual (maxDischargeDepth := 99) only [State.stallRing_kept, State.haltSlot_kept, State.advance_kept, State.badWord_kept, Kept.upd, Kept.ite, Kept.foldl, Kept.foldl1, implies_true, Fine.ite, Fine.next, Fine.guard, *] | split | with_reducible apply Kept.foldl | with_reducible apply Kept.foldl1 | (intro _; intros) | with_reducible apply Fine.next | with_reducible apply Fine.guard)
theorem State.claim_kept {s₀ : State} {s : State} (x : Ctx) (w : CmdWord) (h_s : s₀.Kept s) :
    s₀.Kept (State.claim s x w) := by
  unfold State.claim
  repeat' (first | done | simp +contextual (maxDischargeDepth := 99) only [State.setSlot_kept, Kept.upd, Kept.ite, Kept.foldl, Kept.foldl1, implies_true, *] | split | with_reducible apply Kept.foldl | with_reducible apply Kept.foldl1 | (intro _; intros))
theorem State.enter_kept {s₀ : State} {s : State} (x : Ctx) (e : CmdEntry) (h_s : s₀.Kept s) :
    s₀.Kept (State.enter s x e) := by
  unfold State.enter
  repeat' (first | done | simp +contextual (maxDischargeDepth := 99) only [State.setTc_kept, State.setSlot_kept, State.claim_kept, Kept.upd, Kept.ite, Kept.foldl, Kept.foldl1, implies_true, *] | split | with_reducible apply Kept.foldl | with_reducible apply Kept.foldl1 | (intro _; intros))
theorem State.complete_kept {s₀ : State} {s : State} (x : Ctx) (w : CmdWord) (seq : Nat) (st : Nat) (ev : Nat) (h_s : s₀.Kept s) :
    s₀.Kept (State.complete s x w seq st ev) := by
  unfold State.complete
  repeat' (first | done | simp +contextual (maxDischargeDepth := 99) only [State.finish_kept, Kept.upd, Kept.ite, Kept.foldl, Kept.foldl1, implies_true, *] | split | with_reducible apply Kept.foldl | with_reducible apply Kept.foldl1 | (intro _; intros))
theorem State.endStream_kept {s₀ : State} {s : State} (x : Ctx) (h_s : s₀.Kept s) :
    s₀.Kept (State.endStream s x) := by
  unfold State.endStream
  repeat' (first | done | simp +contextual (maxDischargeDepth := 99) only [State.setSlot_kept, Kept.upd, Kept.ite, Kept.foldl, Kept.foldl1, implies_true, *] | split | with_reducible apply Kept.foldl | with_reducible apply Kept.foldl1 | (intro _; intros))
theorem State.finishDrain_kept {s₀ : State} {s : State} (x : Ctx) (seq : Nat) (w : CmdWord) (claimed : Bool) (h_s : s₀.Kept s) :
    s₀.Kept (State.finishDrain s x seq w claimed) := by
  unfold State.finishDrain
  repeat' (first | done | simp +contextual (maxDischargeDepth := 99) only [State.setSlot_kept, State.finish_kept, State.endStream_kept, Kept.upd, Kept.ite, Kept.foldl, Kept.foldl1, implies_true, *] | split | with_reducible apply Kept.foldl | with_reducible apply Kept.foldl1 | (intro _; intros))
theorem State.checkDrain_kept {s₀ : State} {s : State} (x : Ctx) (h_s : s₀.Kept s) :
    s₀.Kept (State.checkDrain s x) := by
  unfold State.checkDrain
  repeat' (first | done | simp +contextual (maxDischargeDepth := 99) only [State.finishDrain_kept, Kept.upd, Kept.ite, Kept.foldl, Kept.foldl1, implies_true, *] | split | with_reducible apply Kept.foldl | with_reducible apply Kept.foldl1 | (intro _; intros))
theorem State.issueDrain_kept {s₀ : State} {s : State} (x : Ctx) (seq : Nat) (w : CmdWord) (h_s : s₀.Kept s) :
    s₀.Kept (State.issueDrain s x seq w) := by
  unfold State.issueDrain
  repeat' (first | done | simp +contextual (maxDischargeDepth := 99) only [State.setSlot_kept, State.finishDrain_kept, Kept.upd, Kept.ite, Kept.foldl, Kept.foldl1, implies_true, *] | split | with_reducible apply Kept.foldl | with_reducible apply Kept.foldl1 | (intro _; intros))
theorem execNop_kept {s₀ : State} (c : Fin 32) (sl : Slot) (w : CmdWord) {s : State} (h_s : s₀.Kept s) :
    Fine s₀ ((cOp w == 0x00 || !assignedOps.contains (cOp w)) = false) (execNop c sl w s) := by
  unfold execNop
  repeat' (first | done | simp +contextual (maxDischargeDepth := 99) only [decodeRow_kept, State.complete_kept, Kept.upd, Kept.ite, Kept.foldl, Kept.foldl1, implies_true, Fine.ite, Fine.next, Fine.guard, *] | split | with_reducible apply Kept.foldl | with_reducible apply Kept.foldl1 | (intro _; intros) | with_reducible apply decodeRow_kept | with_reducible apply Fine.next | with_reducible apply Fine.guard)
theorem execWait_kept {s₀ : State} (c : Fin 32) (sl : Slot) (w : CmdWord) {s : State} (h_s : s₀.Kept s) :
    Fine s₀ ((cOp w == 0x01) = false) (execWait c sl w s) := by
  unfold execWait
  repeat' (first | done | simp +contextual (maxDischargeDepth := 99) only [State.setSlot_kept, decodeRow_kept, State.complete_kept, Kept.upd, Kept.ite, Kept.foldl, Kept.foldl1, implies_true, Fine.ite, Fine.next, Fine.guard, *] | split | with_reducible apply Kept.foldl | with_reducible apply Kept.foldl1 | (intro _; intros) | with_reducible apply decodeRow_kept | with_reducible apply Fine.next | with_reducible apply Fine.guard)
theorem execWaitSatisfied_kept {s₀ : State} (c : Fin 32) (p : Fin 4) (sl : Slot) {s : State} (h_s : s₀.Kept s) :
    Fine s₀ False (execWaitSatisfied c p sl s) := by
  unfold execWaitSatisfied
  repeat' (first | done | simp +contextual (maxDischargeDepth := 99) only [State.event_kept, State.setSlot_kept, State.finish_kept, Kept.upd, Kept.ite, Kept.foldl, Kept.foldl1, implies_true, Fine.ite, Fine.next, Fine.guard, *] | split | with_reducible apply Kept.foldl | with_reducible apply Kept.foldl1 | (intro _; intros) | with_reducible apply Fine.next | with_reducible apply Fine.guard)
theorem execSignal_kept {s₀ : State} (c : Fin 32) (sl : Slot) (w : CmdWord) {s : State} (h_s : s₀.Kept s) :
    Fine s₀ ((cOp w == 0x02) = false) (execSignal c sl w s) := by
  unfold execSignal
  repeat' (first | done | simp +contextual (maxDischargeDepth := 99) only [State.signal_kept, decodeRow_kept, State.complete_kept, Kept.upd, Kept.ite, Kept.foldl, Kept.foldl1, implies_true, Fine.ite, Fine.next, Fine.guard, *] | split | with_reducible apply Kept.foldl | with_reducible apply Kept.foldl1 | (intro _; intros) | with_reducible apply decodeRow_kept | with_reducible apply Fine.next | with_reducible apply Fine.guard)
theorem execArm_kept {s₀ : State} (c : Fin 32) (sl : Slot) (w : CmdWord) {s : State} (h_s : s₀.Kept s) :
    Fine s₀ ((cOp w == 0x03) = false) (execArm c sl w s) := by
  unfold execArm
  repeat' (first | done | simp +contextual (maxDischargeDepth := 99) only [State.arm_kept, decodeRow_kept, State.complete_kept, Kept.upd, Kept.ite, Kept.foldl, Kept.foldl1, implies_true, Fine.ite, Fine.next, Fine.guard, *] | split | with_reducible apply Kept.foldl | with_reducible apply Kept.foldl1 | (intro _; intros) | with_reducible apply decodeRow_kept | with_reducible apply Fine.next | with_reducible apply Fine.guard)
theorem execFence_kept {s₀ : State} (c : Fin 32) (sl : Slot) (w : CmdWord) {s : State} (h_s : s₀.Kept s) :
    Fine s₀ ((cOp w == 0x04) = false) (execFence c sl w s) := by
  unfold execFence
  repeat' (first | done | simp +contextual (maxDischargeDepth := 99) only [decodeRow_kept, State.complete_kept, State.issueDrain_kept, Kept.upd, Kept.ite, Kept.foldl, Kept.foldl1, implies_true, Fine.ite, Fine.next, Fine.guard, *] | split | with_reducible apply Kept.foldl | with_reducible apply Kept.foldl1 | (intro _; intros) | with_reducible apply decodeRow_kept | with_reducible apply Fine.next | with_reducible apply Fine.guard)
theorem execEndStream_kept {s₀ : State} (c : Fin 32) (sl : Slot) (w : CmdWord) {s : State} (h_s : s₀.Kept s) :
    Fine s₀ ((cOp w == 0x05) = false) (execEndStream c sl w s) := by
  unfold execEndStream
  repeat' (first | done | simp +contextual (maxDischargeDepth := 99) only [decodeRow_kept, State.complete_kept, State.issueDrain_kept, Kept.upd, Kept.ite, Kept.foldl, Kept.foldl1, implies_true, Fine.ite, Fine.next, Fine.guard, *] | split | with_reducible apply Kept.foldl | with_reducible apply Kept.foldl1 | (intro _; intros) | with_reducible apply decodeRow_kept | with_reducible apply Fine.next | with_reducible apply Fine.guard)
theorem execMark_kept {s₀ : State} (c : Fin 32) (sl : Slot) (w : CmdWord) {s : State} (h_s : s₀.Kept s) :
    Fine s₀ ((cOp w == 0x06) = false) (execMark c sl w s) := by
  unfold execMark
  repeat' (first | done | simp +contextual (maxDischargeDepth := 99) only [decodeRow_kept, State.complete_kept, State.issueDrain_kept, Kept.upd, Kept.ite, Kept.foldl, Kept.foldl1, implies_true, Fine.ite, Fine.next, Fine.guard, *] | split | with_reducible apply Kept.foldl | with_reducible apply Kept.foldl1 | (intro _; intros) | with_reducible apply decodeRow_kept | with_reducible apply Fine.next | with_reducible apply Fine.guard)
theorem State.cringHead_kept {s₀ : State} {s : State} (c : Nat) (sl : Slot) (v : Nat) (h_s : s₀.Kept s) :
    s₀.Kept (State.cringHead s c sl v) := by
  unfold State.cringHead
  repeat' (first | done | simp +contextual (maxDischargeDepth := 99) only [State.setSlot_kept, Kept.upd, Kept.ite, Kept.foldl, Kept.foldl1, implies_true, *] | split | with_reducible apply Kept.foldl | with_reducible apply Kept.foldl1 | (intro _; intros))
theorem execCringHeadWrite_kept {s₀ : State} (who : Requester) (c : Fin 32) (sl : Slot) (v : Word) {s : State} (h_s : s₀.Kept s) :
    Fine s₀ False (execCringHeadWrite who c sl v s) := by
  unfold execCringHeadWrite
  repeat' (first | done | simp +contextual (maxDischargeDepth := 99) only [State.asWrite_kept, State.cringHead_kept, Kept.upd, Kept.ite, Kept.foldl, Kept.foldl1, implies_true, Fine.ite, Fine.next, Fine.guard, *] | split | with_reducible apply Kept.foldl | with_reducible apply Kept.foldl1 | (intro _; intros) | with_reducible apply State.asWrite_kept | with_reducible apply Fine.next | with_reducible apply Fine.guard)
theorem State.engineActive_kept {s₀ : State} {s : State} (x : Ctx) (h_s : s₀.Kept s) :
    s₀.Kept (State.engineActive s x) := by
  unfold State.engineActive
  repeat' (first | done | simp +contextual (maxDischargeDepth := 99) only [State.sf_kept, State.event_kept, State.setTc_kept, Kept.upd, Kept.ite, Kept.foldl, Kept.foldl1, implies_true, *] | split | with_reducible apply Kept.foldl | with_reducible apply Kept.foldl1 | (intro _; intros))
theorem State.dropBank_kept {s₀ : State} {s : State} (c : Nat) (b : Nat) (h_s : s₀.Kept s) :
    s₀.Kept (State.dropBank s c b) := by
  unfold State.dropBank
  repeat' (first | done | simp +contextual (maxDischargeDepth := 99) only [State.setRecord_kept, Kept.upd, Kept.ite, Kept.foldl, Kept.foldl1, implies_true, *] | split | with_reducible apply Kept.foldl | with_reducible apply Kept.foldl1 | (intro _; intros))
theorem State.load_kept {s₀ : State} {s : State} (x : Ctx) (b : Nat) (f : Nat) (n : Nat) (kp : Nat) (at_ : Nat → Nat) (sc : Option Scales) (row0 : Nat) (h_s : s₀.Kept s) :
    s₀.Kept (State.load s x b f n kp at_ sc row0) := by
  unfold State.load
  repeat' (first | done | simp +contextual (maxDischargeDepth := 99) only [State.clearPoison_kept, State.setTc_kept, State.setRecord_kept, State.engineActive_kept, Kept.upd, Kept.ite, Kept.foldl, Kept.foldl1, implies_true, *] | split | with_reducible apply Kept.foldl | with_reducible apply Kept.foldl1 | (intro _; intros))
theorem State.reload_kept {s₀ : State} {s : State} (x : Ctx) (b : Nat) (h_s : s₀.Kept s) :
    s₀.Kept (State.reload s x b) := by
  unfold State.reload
  repeat' (first | done | simp +contextual (maxDischargeDepth := 99) only [State.clearPoison_kept, State.setTc_kept, State.setRecord_kept, State.engineActive_kept, Kept.upd, Kept.ite, Kept.foldl, Kept.foldl1, implies_true, *] | split | with_reducible apply Kept.foldl | with_reducible apply Kept.foldl1 | (intro _; intros))
theorem State.accLane_kept {s₀ : State} {s : State} (x : Ctx) (b : Nat) (r : BankRec) (q : PassSpec) (row0 : Nat) (m : Nat) (n : Nat) (a : Nat) {s0 : State} (h_s : s₀.Kept s) (h_s0 : s₀.Kept s0) :
    s₀.Kept (State.accLane s x b r q row0 m n a s0).1 := by
  unfold State.accLane
  repeat' (first | done | simp +contextual (maxDischargeDepth := 99) only [State.zero_kept, State.setTc_kept, Kept.upd, Kept.ite, Kept.foldl, Kept.foldl1, implies_true, *] | split | with_reducible apply Kept.foldl | with_reducible apply Kept.foldl1 | (intro _; intros))
theorem State.streamRow_kept {s₀ : State} {s : State} (x : Ctx) (b : Nat) (r : BankRec) (q : PassSpec) (row0 : Nat) (m : Nat) (a : Nat) {s0 : State} (h_s : s₀.Kept s) (h_s0 : s₀.Kept s0) :
    s₀.Kept (State.streamRow s x b r q row0 m a s0).1 := by
  unfold State.streamRow
  repeat' (first | done | simp +contextual (maxDischargeDepth := 99) only [State.arithFlags_kept, State.accLane_kept, Kept.upd, Kept.ite, Kept.foldl, Kept.foldl1, implies_true, *] | split | with_reducible apply Kept.foldl | with_reducible apply Kept.foldl1 | (intro _; intros))
theorem State.runPass_kept {s₀ : State} {s : State} (x : Ctx) (b : Nat) (q : PassSpec) (mask : Nat → Bool) (vec : Nat → Nat) (h_s : s₀.Kept s) :
    s₀.Kept (State.runPass s x b q mask vec).1 := by
  unfold State.runPass
  repeat' (first | done | simp +contextual (maxDischargeDepth := 99) only [State.event_kept, State.engineActive_kept, State.streamRow_kept, Kept.upd, Kept.ite, Kept.foldl, Kept.foldl1, implies_true, *] | split | with_reducible apply Kept.foldl | with_reducible apply Kept.foldl1 | (intro _; intros))
theorem State.settle_kept {s₀ : State} {s : State} (x : Ctx) (e : CmdEntry) (r : State × CmdEntry) (ev : Nat) (h_r : s₀.Kept r.1) (h_s : s₀.Kept s) :
    s₀.Kept (State.settle s x e r ev).1 := by
  unfold State.settle
  repeat' (first | done | simp +contextual (maxDischargeDepth := 99) only [State.setFlag_kept, Kept.upd, Kept.ite, Kept.foldl, Kept.foldl1, implies_true, *] | split | with_reducible apply Kept.foldl | with_reducible apply Kept.foldl1 | (intro _; intros))
theorem State.drainRows_kept {s₀ : State} {s : State} (x : Ctx) (buf : Nat) (rows : Nat) (cols : Nat) (tile : Bool) (as_ : Bool) (src : Nat → Nat) (dst : Nat → Nat) (keep : Nat → Bool) (h_s : s₀.Kept s) :
    s₀.Kept (State.drainRows s x buf rows cols tile as_ src dst keep).1 := by
  unfold State.drainRows
  repeat' (first | done | simp +contextual (maxDischargeDepth := 99) only [State.zero_kept, State.clearPoison_kept, State.setTc_kept, State.arithFlags_kept, Kept.upd, Kept.ite, Kept.foldl, Kept.foldl1, implies_true, *] | split | with_reducible apply Kept.foldl | with_reducible apply Kept.foldl1 | (intro _; intros))
theorem State.tbWait_kept {s₀ : State} {s : State} (x : Ctx) (h_s : s₀.Kept s) :
    s₀.Kept (State.tbWait s x) := by
  unfold State.tbWait
  repeat' (first | done | simp +contextual (maxDischargeDepth := 99) only [State.event_kept, State.setFlag_kept, Kept.upd, Kept.ite, Kept.foldl, Kept.foldl1, implies_true, *] | split | with_reducible apply Kept.foldl | with_reducible apply Kept.foldl1 | (intro _; intros))
theorem State.drainWaits_kept {s₀ : State} {s : State} (x : Ctx) (buf : Nat) (e : CmdEntry) (h_s : s₀.Kept s) :
    s₀.Kept (State.drainWaits s x buf e).1 := by
  unfold State.drainWaits
  repeat' (first | done | simp +contextual (maxDischargeDepth := 99) only [State.tbWait_kept, Kept.upd, Kept.ite, Kept.foldl, Kept.foldl1, implies_true, *] | split | with_reducible apply Kept.foldl | with_reducible apply Kept.foldl1 | (intro _; intros))
theorem State.ldsEff_kept {s₀ : State} {s : State} (x : Ctx) (e : CmdEntry) (h_s : s₀.Kept s) :
    s₀.Kept (State.ldsEff s x e).1 := by
  unfold State.ldsEff
  repeat' (first | done | simp +contextual (maxDischargeDepth := 99) only [State.load_kept, Kept.upd, Kept.ite, Kept.foldl, Kept.foldl1, implies_true, *] | split | with_reducible apply Kept.foldl | with_reducible apply Kept.foldl1 | (intro _; intros))
theorem State.passEff_kept {s₀ : State} {s : State} (x : Ctx) (e : CmdEntry) (h_s : s₀.Kept s) :
    s₀.Kept (State.passEff s x e).1 := by
  unfold State.passEff
  repeat' (first | done | simp +contextual (maxDischargeDepth := 99) only [State.reload_kept, State.runPass_kept, State.settle_kept, Kept.upd, Kept.ite, Kept.foldl, Kept.foldl1, implies_true, *] | split | with_reducible apply Kept.foldl | with_reducible apply Kept.foldl1 | (intro _; intros))
theorem State.passGroup_some {s₀ : State} {s : State} (x : Ctx) (b : Nat) (fl : Nat) (ln : Nat) (kp : Nat) (at_ : Nat → Nat) (sc : Option Scales) (row0 : Nat) (q : PassSpec) (mask : Nat → Bool) (vec : Nat → Nat) (h_s : s₀.Kept s) {t}
    (h_o : State.passGroup s x b fl ln kp at_ sc row0 q mask vec = some t) : s₀.Kept t.1 := by
  unfold State.passGroup at h_o
  dsimp only at h_o
  split at h_o
  · cases h_o
  · split at h_o
    · cases h_o
    · cases h_o; exact State.runPass_kept (h_s := State.load_kept (h_s := h_s) ..) ..
theorem State.sideStep_some {s₀ : State} {s : State} (x : Ctx) (lAddr : Nat) (lStride : Nat) (ln : Nat) (sAddr : Nat) (sStride : Nat) (sn : Nat) (base : Nat) (p : Nat) (j : Nat) (b : Nat) (mask : Nat → Bool) (h_s : s₀.Kept s) {t}
    (h_o : State.sideStep s x lAddr lStride ln sAddr sStride sn base p j b mask = some t) : s₀.Kept t.1 := State.passGroup_some (h_s := h_s) (h_o := h_o) ..
theorem State.tileGroup_some {s₀ : State} {s : State} (x : Ctx) (q : TileSpec) (f : Fold) (att : Attach) (b0 : Nat) (t : Nat) (h_s : s₀.Kept s) {u_o}
    (h_o : State.tileGroup s x q f att b0 t = some u_o) : s₀.Kept u_o.1 := by
  unfold State.tileGroup at h_o
  repeat' (first | (exact State.passGroup_some (h_s := h_s) (h_o := h_o) ..) | (exact State.sideStep_some (h_s := h_s) (h_o := h_o) ..) | (cases h_o; done) | split at h_o | dsimp only at h_o)
theorem State.tileDrain_kept {s₀ : State} {s : State} (x : Ctx) (q : TileSpec) (f : Fold) (i : Nat) (h_s : s₀.Kept s) :
    s₀.Kept (State.tileDrain s x q f i).1 := by
  unfold State.tileDrain
  repeat' (first | done | simp +contextual (maxDischargeDepth := 99) only [State.drainRows_kept, Kept.upd, Kept.ite, Kept.foldl, Kept.foldl1, implies_true, *] | split | with_reducible apply Kept.foldl | with_reducible apply Kept.foldl1 | (intro _; intros))
theorem State.drainEnds_kept {s₀ : State} {s : State} (x : Ctx) (e : CmdEntry) (buf : Nat) (h_s : s₀.Kept s) :
    s₀.Kept (State.drainEnds s x e buf) := by
  unfold State.drainEnds
  repeat' (first | done | simp +contextual (maxDischargeDepth := 99) only [State.setTc_kept, State.setSlot_kept, State.tbWait_kept, Kept.upd, Kept.ite, Kept.foldl, Kept.foldl1, implies_true, *] | split | with_reducible apply Kept.foldl | with_reducible apply Kept.foldl1 | (intro _; intros))
theorem State.drainEff_kept {s₀ : State} {s : State} (x : Ctx) (e : CmdEntry) (h_s : s₀.Kept s) :
    s₀.Kept (State.drainEff s x e).1 := by
  unfold State.drainEff
  repeat' (first | done | simp +contextual (maxDischargeDepth := 99) only [State.settle_kept, State.drainRows_kept, State.drainWaits_kept, State.drainEnds_kept, Kept.upd, Kept.ite, Kept.foldl, Kept.foldl1, implies_true, *] | split | with_reducible apply Kept.foldl | with_reducible apply Kept.foldl1 | (intro _; intros))
theorem State.tileRun_kept {s₀ : State} {s : State} (x : Ctx) (q : TileSpec) (f : Fold) (n0 : Nat) (n1 : CmdEntry) (h_s : s₀.Kept s) :
    s₀.Kept (State.tileRun s x q f n0 n1).1 := by
  induction n0 generalizing s n1 with
  | zero => exact h_s
  | succ k ih =>
    unfold State.tileRun
    dsimp only
    repeat' (first | done | simp +contextual (maxDischargeDepth := 99) only [State.settle_kept, State.tileDrain_kept, State.drainWaits_kept, Kept.upd, implies_true, h_s, ih] | split)
    have hp := State.tileGroup_some (h_s := h_s) (h_o := ‹s.tileGroup _ _ _ _ _ _ = some _›) ..
    simp +contextual (maxDischargeDepth := 99) only [State.settle_kept, State.tileDrain_kept, State.drainWaits_kept, Kept.upd, implies_true, h_s, ih, hp]
theorem State.tileEff_kept {s₀ : State} {s : State} (x : Ctx) (e : CmdEntry) (h_s : s₀.Kept s) :
    s₀.Kept (State.tileEff s x e).1 := by
  unfold State.tileEff
  repeat' (first | done | simp +contextual (maxDischargeDepth := 99) only [State.drainEnds_kept, State.tileRun_kept, Kept.upd, Kept.ite, Kept.foldl, Kept.foldl1, implies_true, *] | split | with_reducible apply Kept.foldl | with_reducible apply Kept.foldl1 | (intro _; intros))
theorem State.osideRun_some {s₀ : State} {s : State} (x : Ctx) (d : Nat) (n0 : Nat) (n1 : Nat) (h_s : s₀.Kept s) {t}
    (h_o : State.osideRun s x d n0 n1 = some t) : s₀.Kept t.1 := by
  induction n0 generalizing s n1 t with
  | zero => cases h_o; exact h_s
  | succ k ih =>
    unfold State.osideRun at h_o
    dsimp only at h_o
    split at h_o
    · cases h_o
    · rename_i h1
      split at h_o
      · cases h_o
      · rename_i h2
        cases h_o
        have h3 := ih (h_s := State.sideStep_some (h_s := h_s) (h_o := h1) ..) (h_o := h2) ..
        exact h3
theorem State.osideEff_kept {s₀ : State} {s : State} (x : Ctx) (e : CmdEntry) (h_s : s₀.Kept s) :
    s₀.Kept (State.osideEff s x e).1 := by
  unfold State.osideEff
  split
  · exact h_s
  · have hp := State.osideRun_some (h_s := h_s) (h_o := ‹s.osideRun _ _ _ _ = some _›) ..
    simp +contextual (maxDischargeDepth := 99) only [State.settle_kept, Kept.upd, implies_true, h_s, hp]
theorem State.issLoads_kept {s₀ : State} {s : State} (c : Nat) (b0 : Nat) (n : Nat) (r : Nat → BankRec) (h_s : s₀.Kept s) :
    s₀.Kept (State.issLoads s c b0 n r) := by
  unfold State.issLoads
  repeat' (first | done | simp +contextual (maxDischargeDepth := 99) only [State.setIss_kept, Kept.upd, Kept.ite, Kept.foldl, Kept.foldl1, implies_true, *] | split | with_reducible apply Kept.foldl | with_reducible apply Kept.foldl1 | (intro _; intros))
theorem State.noteLoads_kept {s₀ : State} {s : State} (x : Ctx) (e : CmdEntry) (h_s : s₀.Kept s) :
    s₀.Kept (State.noteLoads s x e) := by
  unfold State.noteLoads
  repeat' (first | done | simp +contextual (maxDischargeDepth := 99) only [State.setSlot_kept, State.setIss_kept, State.issLoads_kept, Kept.upd, Kept.ite, Kept.foldl, Kept.foldl1, implies_true, *] | split | with_reducible apply Kept.foldl | with_reducible apply Kept.foldl1 | (intro _; intros))
theorem rowLoop_kept {s₀ : State} (x : Ctx) (n : Nat) (row : State → Nat → Option (State × Nat)) (n0 : Nat) {n1 : State} (n2 : CmdEntry) (h_row : ∀ (x0 : State) (x1 : Nat) u, s₀.Kept x0 → row x0 x1 = some u → s₀.Kept u.1) (h_n1 : s₀.Kept n1) :
    s₀.Kept (rowLoop x n row n0 n1 n2).1 := by
  induction n0 generalizing n1 n2 with
  | zero => exact h_n1
  | succ k ih =>
    unfold rowLoop
    split
    · exact h_n1
    · have h1 := h_row _ _ _ h_n1 ‹row _ _ = some _›
      dsimp only at h1 ⊢
      split
      · exact State.arithFlags_kept _ _ h1
      · exact ih _ (State.arithFlags_kept _ _ h1)
theorem State.rows_kept {s₀ : State} {s : State} (x : Ctx) (e : CmdEntry) (n : Nat) (row : State → Nat → Option (State × Nat)) (h_row : ∀ (x0 : State) (x1 : Nat) u, s₀.Kept x0 → row x0 x1 = some u → s₀.Kept u.1) (h_s : s₀.Kept s) :
    s₀.Kept (State.rows s x e n row).1 := by
  unfold State.rows
  exact rowLoop_kept (h_row := h_row) (h_n1 := h_s) ..
theorem State.takeBufs_kept {s₀ : State} {s : State} (x : Ctx) (e : CmdEntry) (named : List Nat) (written : List Nat) (h_s : s₀.Kept s) :
    s₀.Kept (State.takeBufs s x e named written) := by
  unfold State.takeBufs
  repeat' (first | done | simp +contextual (maxDischargeDepth := 99) only [State.setTc_kept, Kept.upd, Kept.ite, Kept.foldl, Kept.foldl1, implies_true, *] | split | with_reducible apply Kept.foldl | with_reducible apply Kept.foldl1 | (intro _; intros))
theorem State.putEls_kept {s₀ : State} {s : State} (x : Ctx) (buf : Nat) (row : Nat) (col : Nat) (f : Nat) (vs : List Nat) (h_s : s₀.Kept s) :
    s₀.Kept (State.putEls s x buf row col f vs) := by
  unfold State.putEls
  repeat' (first | done | simp +contextual (maxDischargeDepth := 99) only [State.clearPoison_kept, State.setTc_kept, Kept.upd, Kept.ite, Kept.foldl, Kept.foldl1, implies_true, *] | split | with_reducible apply Kept.foldl | with_reducible apply Kept.foldl1 | (intro _; intros))
theorem State.putCol_kept {s₀ : State} {s : State} (x : Ctx) (buf : Nat) (row : Nat) (col : Nat) (v : Nat) (h_s : s₀.Kept s) :
    s₀.Kept (State.putCol s x buf row col v) := by
  unfold State.putCol
  repeat' (first | done | simp +contextual (maxDischargeDepth := 99) only [State.clearPoison_kept, State.setTc_kept, Kept.upd, Kept.ite, Kept.foldl, Kept.foldl1, implies_true, *] | split | with_reducible apply Kept.foldl | with_reducible apply Kept.foldl1 | (intro _; intros))
theorem State.elRow_some {s₀ : State} {s : State} (x : Ctx) (w : CmdWord) (fd : Nat) (reads : Nat → List (Nat × Nat × Nat × Nat)) (f : Tc → Nat → List (Nat × Nat)) (i : Nat) (h_s : s₀.Kept s) {t}
    (h_o : State.elRow s x w fd reads f i = some t) : s₀.Kept t.1 := by
  unfold State.elRow at h_o
  dsimp only at h_o
  split at h_o
  · cases h_o
  · cases h_o; exact State.putEls_kept (h_s := h_s) ..
theorem State.vldEff_kept {s₀ : State} {s : State} (x : Ctx) (e : CmdEntry) (h_s : s₀.Kept s) :
    s₀.Kept (State.vldEff s x e).1 := by
  unfold State.vldEff
  try dsimp only
  refine State.rows_kept (h_s := State.takeBufs_kept (h_s := h_s) ..) (h_row := ?_) ..
  intro s i u hs ho
  try dsimp only at ho
  repeat' (first | (split at ho) | (cases ho; done) | (cases ho; simp +contextual (maxDischargeDepth := 99) only [State.putEls_kept, State.setTc_kept, State.wrLE_kept, State.clearPoison_kept, Kept.ite, Kept.upd, Kept.foldl, Kept.foldl1, implies_true, hs]))
theorem State.vstEff_kept {s₀ : State} {s : State} (x : Ctx) (e : CmdEntry) (h_s : s₀.Kept s) :
    s₀.Kept (State.vstEff s x e).1 := by
  unfold State.vstEff
  try dsimp only
  refine State.rows_kept (h_s := State.takeBufs_kept (h_s := h_s) ..) (h_row := ?_) ..
  intro s i u hs ho
  try dsimp only at ho
  repeat' (first | (split at ho) | (cases ho; done) | (cases ho; simp +contextual (maxDischargeDepth := 99) only [State.putEls_kept, State.setTc_kept, State.wrLE_kept, State.clearPoison_kept, Kept.ite, Kept.upd, Kept.foldl, Kept.foldl1, implies_true, hs]))
theorem State.vbinEff_kept {s₀ : State} {s : State} (x : Ctx) (e : CmdEntry) (h_s : s₀.Kept s) :
    s₀.Kept (State.vbinEff s x e).1 := by
  unfold State.vbinEff
  try dsimp only
  refine State.rows_kept (h_s := State.takeBufs_kept (h_s := h_s) ..) (h_row := ?_) ..
  intro s i u hs ho
  try dsimp only at ho
  repeat' (first | (exact State.elRow_some (h_s := hs) (h_o := ho) ..) | (split at ho) | (cases ho; done) | (cases ho; simp +contextual (maxDischargeDepth := 99) only [State.putEls_kept, State.setTc_kept, State.wrLE_kept, State.clearPoison_kept, Kept.ite, Kept.upd, Kept.foldl, Kept.foldl1, implies_true, hs]))
theorem State.vfmaEff_kept {s₀ : State} {s : State} (x : Ctx) (e : CmdEntry) (h_s : s₀.Kept s) :
    s₀.Kept (State.vfmaEff s x e).1 := by
  unfold State.vfmaEff
  try dsimp only
  refine State.rows_kept (h_s := State.takeBufs_kept (h_s := h_s) ..) (h_row := ?_) ..
  intro s i u hs ho
  try dsimp only at ho
  repeat' (first | (exact State.elRow_some (h_s := hs) (h_o := ho) ..) | (split at ho) | (cases ho; done) | (cases ho; simp +contextual (maxDischargeDepth := 99) only [State.putEls_kept, State.setTc_kept, State.wrLE_kept, State.clearPoison_kept, Kept.ite, Kept.upd, Kept.foldl, Kept.foldl1, implies_true, hs]))
theorem State.vunEff_kept {s₀ : State} {s : State} (x : Ctx) (e : CmdEntry) (h_s : s₀.Kept s) :
    s₀.Kept (State.vunEff s x e).1 := by
  unfold State.vunEff
  try dsimp only
  refine State.rows_kept (h_s := State.takeBufs_kept (h_s := h_s) ..) (h_row := ?_) ..
  intro s i u hs ho
  try dsimp only at ho
  repeat' (first | (exact State.elRow_some (h_s := hs) (h_o := ho) ..) | (split at ho) | (cases ho; done) | (cases ho; simp +contextual (maxDischargeDepth := 99) only [State.putEls_kept, State.setTc_kept, State.wrLE_kept, State.clearPoison_kept, Kept.ite, Kept.upd, Kept.foldl, Kept.foldl1, implies_true, hs]))
theorem State.vcvtEff_kept {s₀ : State} {s : State} (x : Ctx) (e : CmdEntry) (h_s : s₀.Kept s) :
    s₀.Kept (State.vcvtEff s x e).1 := by
  unfold State.vcvtEff
  try dsimp only
  refine State.rows_kept (h_s := State.takeBufs_kept (h_s := h_s) ..) (h_row := ?_) ..
  intro s i u hs ho
  try dsimp only at ho
  repeat' (first | (exact State.elRow_some (h_s := hs) (h_o := ho) ..) | (split at ho) | (cases ho; done) | (cases ho; simp +contextual (maxDischargeDepth := 99) only [State.putEls_kept, State.setTc_kept, State.wrLE_kept, State.clearPoison_kept, Kept.ite, Kept.upd, Kept.foldl, Kept.foldl1, implies_true, hs]))
theorem State.vfreeEff_kept {s₀ : State} {s : State} (x : Ctx) (e : CmdEntry) (h_s : s₀.Kept s) :
    s₀.Kept (State.vfreeEff s x e).1 := by
  unfold State.vfreeEff
  repeat' (first | done | simp +contextual (maxDischargeDepth := 99) only [State.setTc_kept, Kept.upd, Kept.ite, Kept.foldl, Kept.foldl1, implies_true, *] | split | with_reducible apply Kept.foldl | with_reducible apply Kept.foldl1 | (intro _; intros))
theorem State.redEff_kept {s₀ : State} {s : State} (x : Ctx) (e : CmdEntry) (h_s : s₀.Kept s) :
    s₀.Kept (State.redEff s x e).1 := by
  unfold State.redEff
  try dsimp only
  refine State.rows_kept (h_s := State.takeBufs_kept (h_s := h_s) ..) (h_row := ?_) ..
  intro s i u hs ho
  try dsimp only at ho
  repeat' (first | (split at ho) | (cases ho; done) | (cases ho; simp +contextual (maxDischargeDepth := 99) only [State.putEls_kept, State.putCol_kept, State.setTc_kept, State.wrLE_kept, State.clearPoison_kept, Kept.ite, Kept.upd, Kept.foldl, Kept.foldl1, implies_true, hs]))
theorem State.topkEff_kept {s₀ : State} {s : State} (x : Ctx) (e : CmdEntry) (h_s : s₀.Kept s) :
    s₀.Kept (State.topkEff s x e).1 := by
  unfold State.topkEff
  try dsimp only
  refine State.rows_kept (h_s := State.takeBufs_kept (h_s := h_s) ..) (h_row := ?_) ..
  intro s i u hs ho
  rw [← Option.some.inj (Option.ite_none_left_eq_some.mp ho).2]
  refine Kept.foldl1 hs ?_
  intro q j hq
  split
  · exact State.putCol_kept (h_s := State.putCol_kept (h_s := hq) ..) ..
  · exact State.putCol_kept (h_s := State.putCol_kept (h_s := hq) ..) ..
theorem State.smx1Eff_kept {s₀ : State} {s : State} (x : Ctx) (e : CmdEntry) (h_s : s₀.Kept s) :
    s₀.Kept (State.smx1Eff s x e).1 := by
  unfold State.smx1Eff
  try dsimp only
  refine State.rows_kept (h_s := State.takeBufs_kept (h_s := h_s) ..) (h_row := ?_) ..
  intro s i u hs ho
  try dsimp only at ho
  repeat' (first | (split at ho) | (cases ho; done) | (cases ho; simp +contextual (maxDischargeDepth := 99) only [State.putEls_kept, State.putCol_kept, State.setTc_kept, State.wrLE_kept, State.clearPoison_kept, Kept.ite, Kept.upd, Kept.foldl, Kept.foldl1, implies_true, hs]))
theorem State.smx2Eff_kept {s₀ : State} {s : State} (x : Ctx) (e : CmdEntry) (h_s : s₀.Kept s) :
    s₀.Kept (State.smx2Eff s x e).1 := by
  unfold State.smx2Eff
  try dsimp only
  refine State.setFlagIf_kept _ _ _ _ ?_
  refine State.rows_kept (h_s := State.takeBufs_kept (h_s := h_s) ..) (h_row := ?_) ..
  intro s i u hs ho
  try dsimp only at ho
  repeat' (first | (split at ho) | (cases ho; done) | (cases ho; simp +contextual (maxDischargeDepth := 99) only [State.putEls_kept, State.putCol_kept, State.setTc_kept, State.wrLE_kept, State.clearPoison_kept, Kept.ite, Kept.upd, Kept.foldl, Kept.foldl1, implies_true, hs]))
theorem State.tblReload_kept {s₀ : State} {s : State} (x : Ctx) (h_s : s₀.Kept s) :
    s₀.Kept (State.tblReload s x) := by
  unfold State.tblReload
  repeat' (first | done | simp +contextual (maxDischargeDepth := 99) only [State.sf_kept, State.setFlagIf_kept, State.clearPoison_kept, State.setTc_kept, Kept.upd, Kept.ite, Kept.foldl, Kept.foldl1, implies_true, *] | split | with_reducible apply Kept.foldl | with_reducible apply Kept.foldl1 | (intro _; intros))
theorem State.tblNote_kept {s₀ : State} {s : State} (x : Ctx) (h_s : s₀.Kept s) :
    s₀.Kept (State.tblNote s x) := by
  unfold State.tblNote
  repeat' (first | done | simp +contextual (maxDischargeDepth := 99) only [State.setTc_kept, Kept.upd, Kept.ite, Kept.foldl, Kept.foldl1, implies_true, *] | split | with_reducible apply Kept.foldl | with_reducible apply Kept.foldl1 | (intro _; intros))
theorem State.tloadEff_kept {s₀ : State} {s : State} (x : Ctx) (e : CmdEntry) (h_s : s₀.Kept s) :
    s₀.Kept (State.tloadEff s x e).1 := by
  unfold State.tloadEff
  repeat' (first | done | simp +contextual (maxDischargeDepth := 99) only [State.sf_kept, State.clearPoison_kept, State.setTc_kept, State.tblReload_kept, State.tblNote_kept, Kept.upd, Kept.ite, Kept.foldl, Kept.foldl1, implies_true, *] | split | with_reducible apply Kept.foldl | with_reducible apply Kept.foldl1 | (intro _; intros))
theorem State.tswapEff_kept {s₀ : State} {s : State} (x : Ctx) (e : CmdEntry) (h_s : s₀.Kept s) :
    s₀.Kept (State.tswapEff s x e).1 := by
  unfold State.tswapEff
  repeat' (first | done | simp +contextual (maxDischargeDepth := 99) only [State.sf_kept, State.setTc_kept, State.tblNote_kept, Kept.upd, Kept.ite, Kept.foldl, Kept.foldl1, implies_true, *] | split | with_reducible apply Kept.foldl | with_reducible apply Kept.foldl1 | (intro _; intros))
theorem State.sfnEff_kept {s₀ : State} {s : State} (x : Ctx) (e : CmdEntry) (h_s : s₀.Kept s) :
    s₀.Kept (State.sfnEff s x e).1 := by
  unfold State.sfnEff
  try dsimp only
  refine State.rows_kept (h_s := State.takeBufs_kept (h_s := State.tblReload_kept (h_s := h_s) ..) ..) (h_row := ?_) ..
  intro s i u hs ho
  try dsimp only at ho
  repeat' (first | (exact State.elRow_some (h_s := hs) (h_o := ho) ..) | (split at ho) | (cases ho; done) | (cases ho; simp +contextual (maxDischargeDepth := 99) only [State.putEls_kept, State.putCol_kept, State.setTc_kept, State.wrLE_kept, State.clearPoison_kept, Kept.ite, Kept.upd, Kept.foldl, Kept.foldl1, implies_true, hs]))
theorem State.histUpdate_kept {s₀ : State} {s : State} (x : Ctx) (q : QDesc) (maxima : List Nat) (h_s : s₀.Kept s) :
    s₀.Kept (State.histUpdate s x q maxima) := by
  unfold State.histUpdate
  repeat' (first | done | simp +contextual (maxDischargeDepth := 99) only [State.wb_kept, State.wrLE_kept, State.clearPoison_kept, Kept.upd, Kept.ite, Kept.foldl, Kept.foldl1, implies_true, *] | split | with_reducible apply Kept.foldl | with_reducible apply Kept.foldl1 | (intro _; intros))
theorem State.putQRow_kept {s₀ : State} {s : State} (x : Ctx) (fd : Nat) (q : QDesc) (i : Nat) (r : QRow) (h_s : s₀.Kept s) :
    s₀.Kept (State.putQRow s x fd q i r) := by
  unfold State.putQRow
  repeat' (first | done | simp +contextual (maxDischargeDepth := 99) only [State.wrLE_kept, State.clearPoison_kept, Kept.upd, Kept.ite, Kept.foldl, Kept.foldl1, implies_true, *] | split | with_reducible apply Kept.foldl | with_reducible apply Kept.foldl1 | (intro _; intros))
theorem State.zeroRange_kept {s₀ : State} {s : State} (x : Ctx) (n0 : Nat) (h_s : s₀.Kept s) :
    s₀.Kept (State.zeroRange s x n0) := by
  induction n0 generalizing s with
  | zero =>
    unfold State.zeroRange
    repeat' (first | done | simp +contextual (maxDischargeDepth := 99) only [State.setFlag_kept, Kept.upd, Kept.ite, Kept.foldl, Kept.foldl1, implies_true, *] | split | with_reducible apply Kept.foldl | with_reducible apply Kept.foldl1 | (intro _; intros))
  | succ k ih =>
    unfold State.zeroRange
    repeat' (first | done | simp +contextual (maxDischargeDepth := 99) only [State.setFlag_kept, Kept.upd, Kept.ite, Kept.foldl, Kept.foldl1, implies_true, *] | split | with_reducible apply Kept.foldl | with_reducible apply Kept.foldl1 | (intro _; intros))
theorem State.qntEff_kept {s₀ : State} {s : State} (x : Ctx) (e : CmdEntry) (h_s : s₀.Kept s) :
    s₀.Kept (State.qntEff s x e).1 := by
  unfold State.qntEff
  try dsimp only
  refine State.rows_kept (h_s := by split <;> first | exact State.setFlag_kept _ _ _ h_s | exact h_s) (h_row := ?_) ..
  intro s i u hs ho
  try dsimp only at ho
  repeat' (first | (split at ho) | (cases ho; done) | (cases ho; simp +contextual (maxDischargeDepth := 99) only [State.putQRow_kept, State.zeroRange_kept, State.wrLE_kept, State.clearPoison_kept, Kept.ite, Kept.upd, Kept.foldl, Kept.foldl1, implies_true, hs]))
theorem State.dequantEff_kept {s₀ : State} {s : State} (x : Ctx) (e : CmdEntry) (h_s : s₀.Kept s) :
    s₀.Kept (State.dequantEff s x e).1 := by
  unfold State.dequantEff
  try dsimp only
  refine State.rows_kept (h_s := h_s) (h_row := ?_) ..
  intro s i u hs ho
  try dsimp only at ho
  repeat' (first | (split at ho) | (cases ho; done) | (cases ho; simp +contextual (maxDischargeDepth := 99) only [State.putQRow_kept, State.zeroRange_kept, State.wrLE_kept, State.clearPoison_kept, Kept.ite, Kept.upd, Kept.foldl, Kept.foldl1, implies_true, hs]))
theorem State.recordEff_kept {s₀ : State} {s : State} (x : Ctx) (e : CmdEntry) (h_s : s₀.Kept s) :
    s₀.Kept (State.recordEff s x e).1 := by
  unfold State.recordEff
  try dsimp only
  refine State.rows_kept (h_s := h_s) (h_row := ?_) ..
  intro s i u hs ho
  try dsimp only at ho
  repeat' (first | (split at ho) | (cases ho; done) | (cases ho; simp +contextual (maxDischargeDepth := 99) only [State.putQRow_kept, State.zeroRange_kept, State.wrLE_kept, State.clearPoison_kept, Kept.ite, Kept.upd, Kept.foldl, Kept.foldl1, implies_true, hs]))
theorem State.atCompletion_kept {s₀ : State} {s : State} (x : Ctx) (e : CmdEntry) (h_s : s₀.Kept s) :
    s₀.Kept (State.atCompletion s x e) := by
  unfold State.atCompletion
  repeat' (first | done | simp +contextual (maxDischargeDepth := 99) only [State.histUpdate_kept, Kept.upd, Kept.ite, Kept.foldl, Kept.foldl1, implies_true, *] | split | with_reducible apply Kept.foldl | with_reducible apply Kept.foldl1 | (intro _; intros))
theorem State.qclearEff_kept {s₀ : State} {s : State} (x : Ctx) (e : CmdEntry) (h_s : s₀.Kept s) :
    s₀.Kept (State.qclearEff s x e).1 := by
  unfold State.qclearEff
  repeat' (first | done | simp +contextual (maxDischargeDepth := 99) only [State.wb_kept, State.wrLE_kept, State.zero_kept, State.clearPoison_kept, Kept.upd, Kept.ite, Kept.foldl, Kept.foldl1, implies_true, *] | split | with_reducible apply Kept.foldl | with_reducible apply Kept.foldl1 | (intro _; intros))
theorem State.setAttach_kept {s₀ : State} {s : State} (x : Ctx) (a : Attach) (h_s : s₀.Kept s) :
    s₀.Kept (State.setAttach s x a) := by
  unfold State.setAttach
  repeat' (first | done | simp +contextual (maxDischargeDepth := 99) only [State.setSlot_kept, Kept.upd, Kept.ite, Kept.foldl, Kept.foldl1, implies_true, *] | split | with_reducible apply Kept.foldl | with_reducible apply Kept.foldl1 | (intro _; intros))
theorem State.kvSet_kept {s₀ : State} {s : State} (P : Kv) (o : Nat) (v : Nat) (h_s : s₀.Kept s) :
    s₀.Kept (State.kvSet s P o v) := by
  unfold State.kvSet
  repeat' (first | done | simp +contextual (maxDischargeDepth := 99) only [State.wrLE_kept, Kept.upd, Kept.ite, Kept.foldl, Kept.foldl1, implies_true, *] | split | with_reducible apply Kept.foldl | with_reducible apply Kept.foldl1 | (intro _; intros))
theorem State.kvAdd_kept {s₀ : State} {s : State} (P : Kv) (o : Nat) (n : Nat) (h_s : s₀.Kept s) :
    s₀.Kept (State.kvAdd s P o n) := by
  unfold State.kvAdd
  repeat' (first | done | simp +contextual (maxDischargeDepth := 99) only [State.kvSet_kept, Kept.upd, Kept.ite, Kept.foldl, Kept.foldl1, implies_true, *] | split | with_reducible apply Kept.foldl | with_reducible apply Kept.foldl1 | (intro _; intros))
theorem State.setPage_kept {s₀ : State} {s : State} (P : Kv) (i : Nat) (d : PageD) (h_s : s₀.Kept s) :
    s₀.Kept (State.setPage s P i d) := by
  unfold State.setPage
  repeat' (first | done | simp +contextual (maxDischargeDepth := 99) only [State.wrLE_kept, Kept.upd, Kept.ite, Kept.foldl, Kept.foldl1, implies_true, *] | split | with_reducible apply Kept.foldl | with_reducible apply Kept.foldl1 | (intro _; intros))
theorem State.modPage_kept {s₀ : State} {s : State} (P : Kv) (i : Nat) (f : PageD → PageD) (h_s : s₀.Kept s) :
    s₀.Kept (State.modPage s P i f) := by
  unfold State.modPage
  repeat' (first | done | simp +contextual (maxDischargeDepth := 99) only [State.setPage_kept, Kept.upd, Kept.ite, Kept.foldl, Kept.foldl1, implies_true, *] | split | with_reducible apply Kept.foldl | with_reducible apply Kept.foldl1 | (intro _; intros))
theorem State.modXfer_kept {s₀ : State} {s : State} (P : Kv) (i : Nat) (f : KvXfer → KvXfer) (h_s : s₀.Kept s) :
    s₀.Kept (State.modXfer s P i f) := by
  unfold State.modXfer
  repeat' (first | done | simp +contextual (maxDischargeDepth := 99) only [Kept.upd, Kept.ite, Kept.foldl, Kept.foldl1, implies_true, *] | split | with_reducible apply Kept.foldl | with_reducible apply Kept.foldl1 | (intro _; intros))
theorem State.setSeqB_kept {s₀ : State} {s : State} (P : Kv) (q : Nat) (o : Nat) (v : Nat) (h_s : s₀.Kept s) :
    s₀.Kept (State.setSeqB s P q o v) := by
  unfold State.setSeqB
  repeat' (first | done | simp +contextual (maxDischargeDepth := 99) only [State.wb_kept, Kept.upd, Kept.ite, Kept.foldl, Kept.foldl1, implies_true, *] | split | with_reducible apply Kept.foldl | with_reducible apply Kept.foldl1 | (intro _; intros))
theorem State.setSeqW_kept {s₀ : State} {s : State} (P : Kv) (q : Nat) (o : Nat) (v : Nat) (h_s : s₀.Kept s) :
    s₀.Kept (State.setSeqW s P q o v) := by
  unfold State.setSeqW
  repeat' (first | done | simp +contextual (maxDischargeDepth := 99) only [State.wrLE_kept, Kept.upd, Kept.ite, Kept.foldl, Kept.foldl1, implies_true, *] | split | with_reducible apply Kept.foldl | with_reducible apply Kept.foldl1 | (intro _; intros))
theorem State.setPt_kept {s₀ : State} {s : State} (P : Kv) (q : Nat) (b : Nat) (g : Nat) (h_s : s₀.Kept s) :
    s₀.Kept (State.setPt s P q b g) := by
  unfold State.setPt
  repeat' (first | done | simp +contextual (maxDischargeDepth := 99) only [State.wrLE_kept, Kept.upd, Kept.ite, Kept.foldl, Kept.foldl1, implies_true, *] | split | with_reducible apply Kept.foldl | with_reducible apply Kept.foldl1 | (intro _; intros))
theorem State.kvSync_kept {s₀ : State} {s : State} (P : Kv) (h_s : s₀.Kept s) :
    s₀.Kept (State.kvSync s P) := by
  unfold State.kvSync
  repeat' (first | done | simp +contextual (maxDischargeDepth := 99) only [State.kvSet_kept, Kept.upd, Kept.ite, Kept.foldl, Kept.foldl1, implies_true, *] | split | with_reducible apply Kept.foldl | with_reducible apply Kept.foldl1 | (intro _; intros))
theorem State.pfxDrop_kept {s₀ : State} {s : State} (j : Nat) (h_s : s₀.Kept s) :
    s₀.Kept (State.pfxDrop s j) := by
  unfold State.pfxDrop
  repeat' (first | done | simp +contextual (maxDischargeDepth := 99) only [State.zero_kept, Kept.upd, Kept.ite, Kept.foldl, Kept.foldl1, implies_true, *] | split | with_reducible apply Kept.foldl | with_reducible apply Kept.foldl1 | (intro _; intros))
theorem State.pfxDropPool_kept {s₀ : State} {s : State} (P : Kv) (h_s : s₀.Kept s) :
    s₀.Kept (State.pfxDropPool s P) := by
  unfold State.pfxDropPool
  repeat' (first | done | simp +contextual (maxDischargeDepth := 99) only [State.pfxDrop_kept, Kept.upd, Kept.ite, Kept.foldl, Kept.foldl1, implies_true, *] | split | with_reducible apply Kept.foldl | with_reducible apply Kept.foldl1 | (intro _; intros))
theorem State.pfxDropLodging_kept {s₀ : State} {s : State} (l : Nat) (h_s : s₀.Kept s) :
    s₀.Kept (State.pfxDropLodging s l) := by
  unfold State.pfxDropLodging
  repeat' (first | done | simp +contextual (maxDischargeDepth := 99) only [State.pfxDrop_kept, Kept.upd, Kept.ite, Kept.foldl, Kept.foldl1, implies_true, *] | split | with_reducible apply Kept.foldl | with_reducible apply Kept.foldl1 | (intro _; intros))
theorem State.setRefs_kept {s₀ : State} {s : State} (P : Kv) (g : Nat) (n : Nat) (h_s : s₀.Kept s) :
    s₀.Kept (State.setRefs s P g n) := by
  unfold State.setRefs
  repeat' (first | done | simp +contextual (maxDischargeDepth := 99) only [State.wrLE_kept, State.modPage_kept, Kept.upd, Kept.ite, Kept.foldl, Kept.foldl1, implies_true, *] | split | with_reducible apply Kept.foldl | with_reducible apply Kept.foldl1 | (intro _; intros))
theorem State.freePage_kept {s₀ : State} {s : State} (P : Kv) (i : Nat) (h_s : s₀.Kept s) :
    s₀.Kept (State.freePage s P i) := by
  unfold State.freePage
  repeat' (first | done | simp +contextual (maxDischargeDepth := 99) only [State.setPage_kept, State.modXfer_kept, Kept.upd, Kept.ite, Kept.foldl, Kept.foldl1, implies_true, *] | split | with_reducible apply Kept.foldl | with_reducible apply Kept.foldl1 | (intro _; intros))
theorem State.freeGroup_kept {s₀ : State} {s : State} (P : Kv) (g : Nat) (h_s : s₀.Kept s) :
    s₀.Kept (State.freeGroup s P g) := by
  unfold State.freeGroup
  repeat' (first | done | simp +contextual (maxDischargeDepth := 99) only [State.pfxDrop_kept, State.freePage_kept, Kept.upd, Kept.ite, Kept.foldl, Kept.foldl1, implies_true, *] | split | with_reducible apply Kept.foldl | with_reducible apply Kept.foldl1 | (intro _; intros))
theorem State.releaseGroup_kept {s₀ : State} {s : State} (P : Kv) (g : Nat) (h_s : s₀.Kept s) :
    s₀.Kept (State.releaseGroup s P g) := by
  unfold State.releaseGroup
  repeat' (first | done | simp +contextual (maxDischargeDepth := 99) only [State.setRefs_kept, State.freeGroup_kept, Kept.upd, Kept.ite, Kept.foldl, Kept.foldl1, implies_true, *] | split | with_reducible apply Kept.foldl | with_reducible apply Kept.foldl1 | (intro _; intros))
theorem State.reclaim_kept {s₀ : State} {s : State} (P : Kv) (g : Nat) (h_s : s₀.Kept s) :
    s₀.Kept (State.reclaim s P g) := by
  unfold State.reclaim
  repeat' (first | done | simp +contextual (maxDischargeDepth := 99) only [State.kvAdd_kept, State.freeGroup_kept, Kept.upd, Kept.ite, Kept.foldl, Kept.foldl1, implies_true, *] | split | with_reducible apply Kept.foldl | with_reducible apply Kept.foldl1 | (intro _; intros))
theorem State.landUnit_kept {s₀ : State} {s : State} (l : Nat) (dst : Nat) (v : Nat) (raw : Nat) (bad : Bool) (h_s : s₀.Kept s) :
    s₀.Kept (State.landUnit s l dst v raw bad) := by
  unfold State.landUnit
  repeat' (first | done | simp +contextual (maxDischargeDepth := 99) only [State.addPoison_kept, State.put_kept, Kept.upd, Kept.ite, Kept.foldl, Kept.foldl1, implies_true, *] | split | with_reducible apply Kept.foldl | with_reducible apply Kept.foldl1 | (intro _; intros))
theorem State.copyUnits_kept {s₀ : State} {s : State} (l : Nat) (dst : Nat) (src : Nat) (n : Nat) (h_s : s₀.Kept s) :
    s₀.Kept (State.copyUnits s l dst src n) := by
  unfold State.copyUnits
  repeat' (first | done | simp +contextual (maxDischargeDepth := 99) only [State.getUnit_kept, State.landUnit_kept, Kept.upd, Kept.ite, Kept.foldl, Kept.foldl1, implies_true, *] | split | with_reducible apply Kept.foldl | with_reducible apply Kept.foldl1 | (intro _; intros))
theorem State.swapUnits_kept {s₀ : State} {s : State} (l : Nat) (a : Nat) (b : Nat) (n : Nat) (h_s : s₀.Kept s) :
    s₀.Kept (State.swapUnits s l a b n) := by
  unfold State.swapUnits
  repeat' (first | done | simp +contextual (maxDischargeDepth := 99) only [State.getUnit_kept, State.landUnit_kept, Kept.upd, Kept.ite, Kept.foldl, Kept.foldl1, implies_true, *] | split | with_reducible apply Kept.foldl | with_reducible apply Kept.foldl1 | (intro _; intros))
theorem State.takeUnit_some {s₀ : State} {s : State} (P : Kv) (h_s : s₀.Kept s) {t}
    (h_o : State.takeUnit s P = some t) : s₀.Kept t.1 := by
  unfold State.takeUnit at h_o
  split at h_o
  · cases h_o; exact h_s
  · split at h_o
    · cases h_o; exact Kept.upd h_s
    · cases h_o
theorem State.spillOne_some {s₀ : State} {s : State} (P : Kv) (h_s : s₀.Kept s) {t}
    (h_o : State.spillOne s P = some t) : s₀.Kept t := by
  unfold State.spillOne at h_o
  split at h_o
  · cases h_o
  · split at h_o
    · cases h_o
    · rename_i h
      cases h_o
      exact Kept.upd (State.setPage_kept _ _ _ (State.copyUnits_kept _ _ _ _ (State.takeUnit_some _ h_s h)))
theorem State.reclaimOne_some {s₀ : State} {s : State} (P : Kv) (h_s : s₀.Kept s) {t}
    (h_o : State.reclaimOne s P = some t) : s₀.Kept t := by
  unfold State.reclaimOne at h_o
  dsimp only at h_o
  split at h_o
  · cases h_o
  · cases h_o; exact State.kvAdd_kept _ _ _ (State.freeGroup_kept _ _ h_s)
theorem State.makeRoom_kept {s₀ : State} {s : State} (P : Kv) (n : Nat) (n0 : Nat) (h_s : s₀.Kept s) :
    s₀.Kept (State.makeRoom s P n n0) := by
  induction n0 generalizing s with
  | zero => exact h_s
  | succ k ih =>
    unfold State.makeRoom
    split
    · exact h_s
    · split
      · rename_i h; exact ih (State.reclaimOne_some _ h_s h)
      · split
        · rename_i h; exact ih (State.spillOne_some _ h_s h)
        · exact h_s
theorem State.keepLwm_kept {s₀ : State} {s : State} (P : Kv) (h_s : s₀.Kept s) :
    s₀.Kept (State.keepLwm s P) := by
  unfold State.keepLwm
  repeat' (first | done | simp +contextual (maxDischargeDepth := 99) only [State.makeRoom_kept, Kept.upd, Kept.ite, Kept.foldl, Kept.foldl1, implies_true, *] | split | with_reducible apply Kept.foldl | with_reducible apply Kept.foldl1 | (intro _; intros))
theorem State.allocSlot_some {s₀ : State} {s : State} (P : Kv) (h_s : s₀.Kept s) {t}
    (h_o : State.allocSlot s P = some t) : s₀.Kept t.1 := by
  unfold State.allocSlot at h_o
  split at h_o
  · cases h_o; exact h_s
  · split at h_o
    · cases h_o; exact Kept.upd h_s
    · cases h_o
theorem State.allocPage_some {s₀ : State} {s : State} (P : Kv) (i : Nat) (h_s : s₀.Kept s) {t}
    (h_o : State.allocPage s P i = some t) : s₀.Kept t := by
  unfold State.allocPage at h_o
  split at h_o
  · cases h_o
  · rename_i h
    cases h_o
    exact State.setPage_kept _ _ _ (State.zero_kept _ _ (State.clearPoison_kept _ _ (State.zero_kept _ _ (State.allocSlot_some _ h_s h))))
theorem State.allocGroup_some {s₀ : State} {s : State} (P : Kv) (h_s : s₀.Kept s) {t}
    (h_o : State.allocGroup s P = some t) : s₀.Kept t.1 := by
  unfold State.allocGroup at h_o
  split at h_o
  · cases h_o
  · rename_i g _
    have key : ∀ (l : List Nat) (o : Option (State × Nat)), (∀ r, o = some r → s₀.Kept r.1) → ∀ r,
        l.foldl (fun (o : Option (State × Nat)) i => match o with
          | none => none
          | some (s, g) => (s.allocPage P (P.pg g i)).map fun s => (s, g)) o = some r → s₀.Kept r.1 := by
      intro l
      induction l with
      | nil => exact fun _ ho => ho
      | cons i l ih =>
        intro o ho
        refine ih _ ?_
        intro r hr
        dsimp only at hr
        split at hr
        · cases hr
        · rename_i s' g'
          simp only [Option.map_eq_some_iff] at hr
          obtain ⟨u, hu, rfl⟩ := hr
          exact State.allocPage_some _ _ (ho _ rfl) hu
    exact key _ _ (fun r hr => by cases hr; exact h_s) _ h_o
theorem State.allocFor_kept {s₀ : State} {s : State} (P : Kv) (q : Nat) (n0 : Nat) (h_s : s₀.Kept s) :
    s₀.Kept (State.allocFor s P q n0) := by
  induction n0 generalizing s with
  | zero => exact h_s
  | succ k ih =>
    unfold State.allocFor
    dsimp only
    split
    · exact h_s
    · split
      · exact h_s
      · rename_i h
        exact ih (State.setSeqW_kept _ _ _ _ (State.setPt_kept _ _ _ _ (State.allocGroup_some _ h_s h)))
theorem State.askPage_kept {s₀ : State} {s : State} (P : Kv) (i : Nat) (k : KvKind) (h_s : s₀.Kept s) :
    s₀.Kept (State.askPage s P i k) := by
  unfold State.askPage
  repeat' (first | done | simp +contextual (maxDischargeDepth := 99) only [Kept.upd, Kept.ite, Kept.foldl, Kept.foldl1, implies_true, *] | split | with_reducible apply Kept.foldl | with_reducible apply Kept.foldl1 | (intro _; intros))
theorem State.exchange_kept {s₀ : State} {s : State} (P : Kv) (m : KvMove) (h_s : s₀.Kept s) :
    s₀.Kept (State.exchange s P m) := by
  unfold State.exchange
  repeat' (first | done | simp +contextual (maxDischargeDepth := 99) only [State.setPage_kept, State.modPage_kept, State.swapUnits_kept, Kept.upd, Kept.ite, Kept.foldl, Kept.foldl1, implies_true, *] | split | with_reducible apply Kept.foldl | with_reducible apply Kept.foldl1 | (intro _; intros))
theorem State.startFetch_kept {s₀ : State} {s : State} (P : Kv) (m : KvMove) (h_s : s₀.Kept s) :
    s₀.Kept (State.startFetch s P m) := by
  unfold State.startFetch
  repeat' (first | done | simp +contextual (maxDischargeDepth := 99) only [State.setPage_kept, State.copyUnits_kept, State.makeRoom_kept, State.keepLwm_kept, State.exchange_kept, Kept.upd, Kept.ite, Kept.foldl, Kept.foldl1, implies_true, *] | split | with_reducible apply Kept.foldl | with_reducible apply Kept.foldl1 | (intro _; intros))
theorem State.kvPump_kept {s₀ : State} {s : State} (P : Kv) (h_s : s₀.Kept s) :
    s₀.Kept (State.kvPump s P) := by
  unfold State.kvPump
  repeat' (first | done | simp +contextual (maxDischargeDepth := 99) only [State.kvSync_kept, State.startFetch_kept, Kept.upd, Kept.ite, Kept.foldl, Kept.foldl1, implies_true, *] | split | with_reducible apply Kept.foldl | with_reducible apply Kept.foldl1 | (intro _; intros))
theorem State.kvAdmit_some {s₀ : State} {s : State} (l : Nat) (h_s : s₀.Kept s) {t}
    (h_o : State.kvAdmit s l = some t) : s₀.Kept t := by
  unfold State.kvAdmit at h_o
  split at h_o
  · cases h_o
  · split at h_o
    · cases h_o; exact Kept.upd (State.pay_kept _ _ h_s)
    · cases h_o
theorem State.pagePlaced_kept {s₀ : State} {s : State} (P : Kv) (m : KvMove) (st : Nat) (slot : Nat) (unit : Nat) (h_s : s₀.Kept s) :
    s₀.Kept (State.pagePlaced s P m st slot unit) := by
  unfold State.pagePlaced
  repeat' (first | done | simp +contextual (maxDischargeDepth := 99) only [State.setPage_kept, State.modPage_kept, State.modXfer_kept, Kept.upd, Kept.ite, Kept.foldl, Kept.foldl1, implies_true, *] | split | with_reducible apply Kept.foldl | with_reducible apply Kept.foldl1 | (intro _; intros))
theorem State.spillDone_kept {s₀ : State} {s : State} (P : Kv) (m : KvMove) (h_s : s₀.Kept s) :
    s₀.Kept (State.spillDone s P m) := by
  unfold State.spillDone
  repeat' (first | done | simp +contextual (maxDischargeDepth := 99) only [State.kvAdd_kept, State.kvPump_kept, State.pagePlaced_kept, Kept.upd, Kept.ite, Kept.foldl, Kept.foldl1, implies_true, *] | split | with_reducible apply Kept.foldl | with_reducible apply Kept.foldl1 | (intro _; intros))
theorem State.fetchDone_kept {s₀ : State} {s : State} (P : Kv) (m : KvMove) (h_s : s₀.Kept s) :
    s₀.Kept (State.fetchDone s P m) := by
  unfold State.fetchDone
  repeat' (first | done | simp +contextual (maxDischargeDepth := 99) only [State.kvAdd_kept, State.kvPump_kept, State.pagePlaced_kept, Kept.upd, Kept.ite, Kept.foldl, Kept.foldl1, implies_true, *] | split | with_reducible apply Kept.foldl | with_reducible apply Kept.foldl1 | (intro _; intros))
theorem State.fixAsides_kept {s₀ : State} {s : State} (P : Kv) (h_s : s₀.Kept s) :
    s₀.Kept (State.fixAsides s P) := by
  unfold State.fixAsides
  repeat' (first | done | simp +contextual (maxDischargeDepth := 99) only [State.setSeqW_kept, Kept.upd, Kept.ite, Kept.foldl, Kept.foldl1, implies_true, *] | split | with_reducible apply Kept.foldl | with_reducible apply Kept.foldl1 | (intro _; intros))
theorem State.leaveSeq_kept {s₀ : State} {s : State} (P : Kv) (q : Nat) (h_s : s₀.Kept s) :
    s₀.Kept (State.leaveSeq s P q) := by
  unfold State.leaveSeq
  repeat' (first | done | simp +contextual (maxDischargeDepth := 99) only [State.zero_kept, State.setPt_kept, State.releaseGroup_kept, Kept.upd, Kept.ite, Kept.foldl, Kept.foldl1, implies_true, *] | split | with_reducible apply Kept.foldl | with_reducible apply Kept.foldl1 | (intro _; intros))
theorem State.pauseLoop_kept {s₀ : State} {s : State} (P : Kv) (n0 : Nat) (n1 : List Nat) (n2 : List Nat) (h_s : s₀.Kept s) :
    s₀.Kept (State.pauseLoop s P n0 n1 n2).1 := by
  induction n0 generalizing s n1 n2 with
  | zero =>
    unfold State.pauseLoop
    repeat' (first | done | simp +contextual (maxDischargeDepth := 99) only [State.kvAdd_kept, State.setSeqB_kept, Kept.upd, Kept.ite, Kept.foldl, Kept.foldl1, implies_true, *] | split | with_reducible apply Kept.foldl | with_reducible apply Kept.foldl1 | (intro _; intros))
  | succ k ih =>
    unfold State.pauseLoop
    repeat' (first | done | simp +contextual (maxDischargeDepth := 99) only [State.kvAdd_kept, State.setSeqB_kept, Kept.upd, Kept.ite, Kept.foldl, Kept.foldl1, implies_true, *] | split | with_reducible apply Kept.foldl | with_reducible apply Kept.foldl1 | (intro _; intros))
theorem State.resumeLoop_kept {s₀ : State} {s : State} (P : Kv) (n0 : List Nat) (n1 : List Nat) (h_s : s₀.Kept s) :
    s₀.Kept (State.resumeLoop s P n0 n1).1 := by
  induction n0 generalizing s n1 with
  | nil =>
    unfold State.resumeLoop
    repeat' (first | done | simp +contextual (maxDischargeDepth := 99) only [State.setSeqB_kept, State.makeRoom_kept, State.allocFor_kept, Kept.upd, Kept.ite, Kept.foldl, Kept.foldl1, implies_true, *] | split | with_reducible apply Kept.foldl | with_reducible apply Kept.foldl1 | (intro _; intros))
  | cons q qs ih =>
    unfold State.resumeLoop
    repeat' (first | done | simp +contextual (maxDischargeDepth := 99) only [State.setSeqB_kept, State.makeRoom_kept, State.allocFor_kept, Kept.upd, Kept.ite, Kept.foldl, Kept.foldl1, implies_true, *] | split | with_reducible apply Kept.foldl | with_reducible apply Kept.foldl1 | (intro _; intros))
theorem State.joinLoop_kept {s₀ : State} {s : State} (P : Kv) (n0 : List Nat) (n1 : List Nat) (h_s : s₀.Kept s) :
    s₀.Kept (State.joinLoop s P n0 n1).1 := by
  induction n0 generalizing s n1 with
  | nil =>
    unfold State.joinLoop
    repeat' (first | done | simp +contextual (maxDischargeDepth := 99) only [State.kvAdd_kept, State.setSeqB_kept, State.setSeqW_kept, State.makeRoom_kept, State.allocFor_kept, Kept.upd, Kept.ite, Kept.foldl, Kept.foldl1, implies_true, *] | split | with_reducible apply Kept.foldl | with_reducible apply Kept.foldl1 | (intro _; intros))
  | cons q qs ih =>
    unfold State.joinLoop
    repeat' (first | done | simp +contextual (maxDischargeDepth := 99) only [State.kvAdd_kept, State.setSeqB_kept, State.setSeqW_kept, State.makeRoom_kept, State.allocFor_kept, Kept.upd, Kept.ite, Kept.foldl, Kept.foldl1, implies_true, *] | split | with_reducible apply Kept.foldl | with_reducible apply Kept.foldl1 | (intro _; intros))
theorem State.runStep_kept {s₀ : State} {s : State} (P : Kv) (h_s : s₀.Kept s) :
    s₀.Kept (State.runStep s P).1 := by
  unfold State.runStep
  repeat' (first | done | simp +contextual (maxDischargeDepth := 99) only [State.kvAdd_kept, State.makeRoom_kept, State.keepLwm_kept, State.allocFor_kept, State.kvPump_kept, State.fixAsides_kept, State.leaveSeq_kept, State.pauseLoop_kept, State.resumeLoop_kept, State.joinLoop_kept, Kept.upd, Kept.ite, Kept.foldl, Kept.foldl1, implies_true, *] | split | with_reducible apply Kept.foldl | with_reducible apply Kept.foldl1 | (intro _; intros))
theorem State.summarise_kept {s₀ : State} {s : State} (P : Kv) (i : Nat) (h_s : s₀.Kept s) :
    s₀.Kept (State.summarise s P i).1 := by
  unfold State.summarise
  repeat' (first | done | simp +contextual (maxDischargeDepth := 99) only [State.wrLE_kept, Kept.upd, Kept.ite, Kept.foldl, Kept.foldl1, implies_true, *] | split | with_reducible apply Kept.foldl | with_reducible apply Kept.foldl1 | (intro _; intros))
theorem State.poolEff_kept {s₀ : State} {s : State} (x : Ctx) (k : KvDesc) (h_s : s₀.Kept s) :
    s₀.Kept (State.poolEff s x k) := by
  unfold State.poolEff
  repeat' (first | done | simp +contextual (maxDischargeDepth := 99) only [State.wrLE_kept, State.zero_kept, State.clearPoison_kept, State.setPage_kept, State.kvSync_kept, Kept.upd, Kept.ite, Kept.foldl, Kept.foldl1, implies_true, *] | split | with_reducible apply Kept.foldl | with_reducible apply Kept.foldl1 | (intro _; intros))
theorem State.closeEff_kept {s₀ : State} {s : State} (P : Kv) (h_s : s₀.Kept s) :
    s₀.Kept (State.closeEff s P) := by
  unfold State.closeEff
  repeat' (first | done | simp +contextual (maxDischargeDepth := 99) only [State.pfxDropPool_kept, Kept.upd, Kept.ite, Kept.foldl, Kept.foldl1, implies_true, *] | split | with_reducible apply Kept.foldl | with_reducible apply Kept.foldl1 | (intro _; intros))
theorem State.joinEff_kept {s₀ : State} {s : State} (x : Ctx) (P : Kv) (k : KvDesc) (h_s : s₀.Kept s) :
    s₀.Kept (State.joinEff s x P k) := by
  unfold State.joinEff
  repeat' (first | done | simp +contextual (maxDischargeDepth := 99) only [State.count_kept, State.wrLE_kept, State.zero_kept, State.kvAdd_kept, State.setSeqB_kept, State.setSeqW_kept, State.setPt_kept, State.setRefs_kept, Kept.upd, Kept.ite, Kept.foldl, Kept.foldl1, implies_true, *] | split | with_reducible apply Kept.foldl | with_reducible apply Kept.foldl1 | (intro _; intros))
theorem State.stepEff_kept {s₀ : State} {s : State} (x : Ctx) (P : Kv) (k : KvDesc) (h_s : s₀.Kept s) :
    s₀.Kept (State.stepEff s x P k) := by
  unfold State.stepEff
  repeat' (first | done | simp +contextual (maxDischargeDepth := 99) only [State.put_kept, State.runStep_kept, Kept.upd, Kept.ite, Kept.foldl, Kept.foldl1, implies_true, *] | split | with_reducible apply Kept.foldl | with_reducible apply Kept.foldl1 | (intro _; intros))
theorem State.forkEff_kept {s₀ : State} {s : State} (P : Kv) (k : KvDesc) (h_s : s₀.Kept s) :
    s₀.Kept (State.forkEff s P k) := by
  unfold State.forkEff
  repeat' (first | done | simp +contextual (maxDischargeDepth := 99) only [State.wrLE_kept, State.zero_kept, State.setSeqB_kept, State.setSeqW_kept, State.setPt_kept, State.setRefs_kept, State.keepLwm_kept, State.kvPump_kept, Kept.upd, Kept.ite, Kept.foldl, Kept.foldl1, implies_true, *] | split | with_reducible apply Kept.foldl | with_reducible apply Kept.foldl1 | (intro _; intros))
theorem State.pinAsk_kept {s₀ : State} {s : State} (P : Kv) (k : KvDesc) (h_s : s₀.Kept s) :
    s₀.Kept (State.pinAsk s P k) := by
  unfold State.pinAsk
  repeat' (first | done | simp +contextual (maxDischargeDepth := 99) only [State.count_kept, State.askPage_kept, State.kvPump_kept, Kept.upd, Kept.ite, Kept.foldl, Kept.foldl1, implies_true, *] | split | with_reducible apply Kept.foldl | with_reducible apply Kept.foldl1 | (intro _; intros))
theorem State.pinEff_kept {s₀ : State} {s : State} (P : Kv) (k : KvDesc) (h_s : s₀.Kept s) :
    s₀.Kept (State.pinEff s P k) := by
  unfold State.pinEff
  repeat' (first | done | simp +contextual (maxDischargeDepth := 99) only [State.count_kept, State.modPage_kept, State.pinAsk_kept, Kept.upd, Kept.ite, Kept.foldl, Kept.foldl1, implies_true, *] | split | with_reducible apply Kept.foldl | with_reducible apply Kept.foldl1 | (intro _; intros))
theorem State.unpinEff_kept {s₀ : State} {s : State} (P : Kv) (k : KvDesc) (h_s : s₀.Kept s) :
    s₀.Kept (State.unpinEff s P k) := by
  unfold State.unpinEff
  repeat' (first | done | simp +contextual (maxDischargeDepth := 99) only [State.count_kept, State.modPage_kept, State.kvPump_kept, Kept.upd, Kept.ite, Kept.foldl, Kept.foldl1, implies_true, *] | split | with_reducible apply Kept.foldl | with_reducible apply Kept.foldl1 | (intro _; intros))
theorem State.lookupEff_kept {s₀ : State} {s : State} (x : Ctx) (P : Kv) (k : KvDesc) (h_s : s₀.Kept s) :
    s₀.Kept (State.lookupEff s x P k) := by
  unfold State.lookupEff
  repeat' (first | done | simp +contextual (maxDischargeDepth := 99) only [State.count_kept, State.put_kept, Kept.upd, Kept.ite, Kept.foldl, Kept.foldl1, implies_true, *] | split | with_reducible apply Kept.foldl | with_reducible apply Kept.foldl1 | (intro _; intros))
theorem State.pfxTake_some {s₀ : State} {s : State} (P : Kv) (hsh : Nat) (h_s : s₀.Kept s) {t}
    (h_o : State.pfxTake s P hsh = some t) : s₀.Kept t.1 := by
  unfold State.pfxTake at h_o
  dsimp only at h_o
  split at h_o
  · cases h_o; exact h_s
  · split at h_o
    · cases h_o
    · have h := Option.some.inj h_o
      rw [← h]
      exact State.kvSync_kept _ (State.reclaim_kept (h_s := h_s) ..)
theorem State.publishLoop_kept {s₀ : State} {s : State} (x : Ctx) (P : Kv) (q : Nat) (n0 : Nat) (n1 : Nat) (n2 : Nat) (n3 : Nat) (h_s : s₀.Kept s) :
    s₀.Kept (State.publishLoop s x P q n0 n1 n2 n3).1 := by
  induction n0 generalizing s n1 n2 n3 with
  | zero => exact h_s
  | succ k ih =>
    unfold State.publishLoop
    refine ih _ _ _ ?_
    split
    · exact State.kvAdd_kept _ _ _ h_s
    · split
      · exact State.kvAdd_kept _ _ _ h_s
      · rename_i h
        exact State.wrLE_kept _ _ _ (State.wrLE_kept _ _ _ (State.zero_kept _ _ (State.pfxTake_some _ _ h_s h)))
theorem State.publishEff_kept {s₀ : State} {s : State} (x : Ctx) (P : Kv) (k : KvDesc) (h_s : s₀.Kept s) :
    s₀.Kept (State.publishEff s x P k) := by
  unfold State.publishEff
  repeat' (first | done | simp +contextual (maxDischargeDepth := 99) only [State.wrLE_kept, State.setSeqW_kept, State.kvPump_kept, State.publishLoop_kept, Kept.upd, Kept.ite, Kept.foldl, Kept.foldl1, implies_true, *] | split | with_reducible apply Kept.foldl | with_reducible apply Kept.foldl1 | (intro _; intros))
theorem State.flushEff_kept {s₀ : State} {s : State} (P : Kv) (h_s : s₀.Kept s) :
    s₀.Kept (State.flushEff s P) := by
  unfold State.flushEff
  repeat' (first | done | simp +contextual (maxDischargeDepth := 99) only [State.pfxDropPool_kept, State.reclaim_kept, State.kvPump_kept, Kept.upd, Kept.ite, Kept.foldl, Kept.foldl1, implies_true, *] | split | with_reducible apply Kept.foldl | with_reducible apply Kept.foldl1 | (intro _; intros))
theorem State.putToken_kept {s₀ : State} {s : State} (P : Kv) (a : Nat) (t : Nat) (v : Bool) (row : List (FV × Nat)) (h_s : s₀.Kept s) :
    s₀.Kept (State.putToken s P a t v row).1 := by
  unfold State.putToken
  repeat' (first | done | simp +contextual (maxDischargeDepth := 99) only [State.wrLE_kept, Kept.upd, Kept.ite, Kept.foldl, Kept.foldl1, implies_true, *] | split | with_reducible apply Kept.foldl | with_reducible apply Kept.foldl1 | (intro _; intros))
theorem State.copyOnWrite_kept {s₀ : State} {s : State} (P : Kv) (q : Nat) (h_s : s₀.Kept s) :
    s₀.Kept (State.copyOnWrite s P q) := by
  unfold State.copyOnWrite
  dsimp only
  split
  · exact h_s
  · have h1 : s₀.Kept (match s.asideOf P q (s.ptEntry P q (s.seqLen P q / 64)) with
        | some r => s.setSeqW P r 0x2C (s.seqW P r 0x2C - 1)
        | none => s) := by
      split
      · exact State.setSeqW_kept _ _ _ _ h_s
      · exact h_s
    split
    · exact h1
    · rename_i h
      have h2 := State.allocGroup_some _ h1 h
      refine State.kvSync_kept _ (State.fixAsides_kept _ (State.kvAdd_kept _ _ _ (State.setPt_kept _ _ _ _ (State.setRefs_kept _ _ _
        (Kept.foldl h2 ?_)))))
      intro t x ht
      exact State.modPage_kept _ _ _ (State.copy_kept _ _ _ (State.copyUnits_kept _ _ _ _ ht))
theorem State.appendToken_kept {s₀ : State} {s : State} (x : Ctx) (P : Kv) (fa : Nat) (k : KvDesc) (len : Nat) (i : Nat) (h_s : s₀.Kept s) :
    s₀.Kept (State.appendToken s x P fa k len i).1 := by
  unfold State.appendToken
  repeat' (first | done | simp +contextual (maxDischargeDepth := 99) only [State.modPage_kept, State.putToken_kept, Kept.upd, Kept.ite, Kept.foldl, Kept.foldl1, implies_true, *] | split | with_reducible apply Kept.foldl | with_reducible apply Kept.foldl1 | (intro _; intros))
theorem appendLoop_kept {s₀ : State} (x : Ctx) (P : Kv) (k : KvDesc) (len : Nat) (n0 : Nat) {n1 : State} (n2 : CmdEntry) (h_n1 : s₀.Kept n1) :
    s₀.Kept (appendLoop x P k len n0 n1 n2).1 := by
  induction n0 generalizing n1 n2 with
  | zero =>
    unfold appendLoop
    repeat' (first | done | simp +contextual (maxDischargeDepth := 99) only [State.arithFlags_kept, State.zeroRange_kept, State.appendToken_kept, Kept.upd, Kept.ite, Kept.foldl, Kept.foldl1, implies_true, *] | split | with_reducible apply Kept.foldl | with_reducible apply Kept.foldl1 | (intro _; intros))
  | succ k ih =>
    unfold appendLoop
    repeat' (first | done | simp +contextual (maxDischargeDepth := 99) only [State.arithFlags_kept, State.zeroRange_kept, State.appendToken_kept, Kept.upd, Kept.ite, Kept.foldl, Kept.foldl1, implies_true, *] | split | with_reducible apply Kept.foldl | with_reducible apply Kept.foldl1 | (intro _; intros))
theorem State.appendEnd_kept {s₀ : State} {s : State} (x : Ctx) (P : Kv) (k : KvDesc) (len : Nat) (e : CmdEntry) (h_s : s₀.Kept s) :
    s₀.Kept (State.appendEnd s x P k len e).1 := by
  unfold State.appendEnd
  repeat' (first | done | simp +contextual (maxDischargeDepth := 99) only [State.count_kept, State.arithFlags_kept, State.setSeqW_kept, State.summarise_kept, Kept.upd, Kept.ite, Kept.foldl, Kept.foldl1, implies_true, *] | split | with_reducible apply Kept.foldl | with_reducible apply Kept.foldl1 | (intro _; intros))
theorem State.appendEff_kept {s₀ : State} {s : State} (x : Ctx) (e : CmdEntry) (h_s : s₀.Kept s) :
    s₀.Kept (State.appendEff s x e).1 := by
  unfold State.appendEff
  repeat' (first | done | simp +contextual (maxDischargeDepth := 99) only [State.count_kept, State.kvAdd_kept, State.askPage_kept, State.kvPump_kept, State.copyOnWrite_kept, appendLoop_kept, State.appendEnd_kept, Kept.upd, Kept.ite, Kept.foldl, Kept.foldl1, implies_true, *] | split | with_reducible apply Kept.foldl | with_reducible apply Kept.foldl1 | (intro _; intros))
theorem State.kvLeave_kept {s₀ : State} {s : State} (x : Ctx) (seq : Nat) (h_s : s₀.Kept s) :
    s₀.Kept (State.kvLeave s x seq) := by
  unfold State.kvLeave
  repeat' (first | done | simp +contextual (maxDischargeDepth := 99) only [Kept.upd, Kept.ite, Kept.foldl, Kept.foldl1, implies_true, *] | split | with_reducible apply Kept.foldl | with_reducible apply Kept.foldl1 | (intro _; intros))
theorem State.kvApply_kept {s₀ : State} {s : State} (x : Ctx) (w : CmdWord) (P : Kv) (k : KvDesc) (h_s : s₀.Kept s) :
    s₀.Kept (State.kvApply s x w P k) := by
  unfold State.kvApply
  repeat' (first | done | simp +contextual (maxDischargeDepth := 99) only [State.count_kept, State.setSeqB_kept, State.setSeqW_kept, State.poolEff_kept, State.closeEff_kept, State.joinEff_kept, State.stepEff_kept, State.forkEff_kept, State.pinEff_kept, State.unpinEff_kept, State.lookupEff_kept, State.publishEff_kept, State.flushEff_kept, Kept.upd, Kept.ite, Kept.foldl, Kept.foldl1, implies_true, *] | split | with_reducible apply Kept.foldl | with_reducible apply Kept.foldl1 | (intro _; intros))
theorem State.kvFnEff_kept {s₀ : State} {s : State} (x : Ctx) (e : CmdEntry) (h_s : s₀.Kept s) :
    s₀.Kept (State.kvFnEff s x e).1 := by
  unfold State.kvFnEff
  dsimp only
  have h1 := State.kvApply_kept x e.w (s.kvOf x.l (KvDesc.of e.desc).pool) (KvDesc.of e.desc) h_s
  have h2 := State.kvLeave_kept x e.seq h1
  have h3 := State.kvLeave_kept x e.seq h_s
  have h4 := fun P k => State.pinAsk_kept P k h_s
  have h5 := fun P k => State.pinAsk_kept P k h2
  have h6 := fun P k => State.pinAsk_kept P k h1
  repeat' (first | (with_reducible assumption) | (with_reducible exact h4 _ _) | (with_reducible exact h5 _ _) | (with_reducible exact h6 _ _) | split)
theorem State.restStep_kept {s₀ : State} {s : State} (r : KvRest) (h_s : s₀.Kept s) :
    s₀.Kept (State.restStep s r).1 := by
  unfold State.restStep
  repeat' (first | done | simp +contextual (maxDischargeDepth := 99) only [State.appendEff_kept, State.kvFnEff_kept, Kept.upd, Kept.ite, Kept.foldl, Kept.foldl1, implies_true, *] | split | with_reducible apply Kept.foldl | with_reducible apply Kept.foldl1 | (intro _; intros))
theorem State.restGo_kept {s₀ : State} {s : State} (h_s : s₀.Kept s) :
    s₀.Kept (State.restGo s) := by
  unfold State.restGo
  repeat' (first | done | simp +contextual (maxDischargeDepth := 99) only [State.restStep_kept, Kept.upd, Kept.ite, Kept.foldl, Kept.foldl1, implies_true, *] | split | with_reducible apply Kept.foldl | with_reducible apply Kept.foldl1 | (intro _; intros))
theorem State.attPredict_kept {s₀ : State} {s : State} (x : Ctx) (a : AttDesc) (P : Kv) (fa : Nat) (imm : Nat) (len : Nat) (h_s : s₀.Kept s) :
    s₀.Kept (State.attPredict s x a P fa imm len) := by
  unfold State.attPredict
  repeat' (first | done | simp +contextual (maxDischargeDepth := 99) only [State.modPage_kept, State.askPage_kept, State.kvPump_kept, Kept.upd, Kept.ite, Kept.foldl, Kept.foldl1, implies_true, *] | split | with_reducible apply Kept.foldl | with_reducible apply Kept.foldl1 | (intro _; intros))
theorem State.attBank_kept {s₀ : State} {s : State} (x : Ctx) (b : Nat) (fa : Nat) (h_s : s₀.Kept s) :
    s₀.Kept (State.attBank s x b fa) := by
  unfold State.attBank
  repeat' (first | done | simp +contextual (maxDischargeDepth := 99) only [State.clearPoison_kept, State.setTc_kept, State.setRecord_kept, Kept.upd, Kept.ite, Kept.foldl, Kept.foldl1, implies_true, *] | split | with_reducible apply Kept.foldl | with_reducible apply Kept.foldl1 | (intro _; intros))
theorem State.attLoads_kept {s₀ : State} {s : State} (x : Ctx) (fa : Nat) (h_s : s₀.Kept s) :
    s₀.Kept (State.attLoads s x fa) := by
  unfold State.attLoads
  repeat' (first | done | simp +contextual (maxDischargeDepth := 99) only [State.engineActive_kept, State.attBank_kept, Kept.upd, Kept.ite, Kept.foldl, Kept.foldl1, implies_true, *] | split | with_reducible apply Kept.foldl | with_reducible apply Kept.foldl1 | (intro _; intros))
theorem State.attBegin_kept {s₀ : State} {s : State} (x : Ctx) (a : AttDesc) (P : Kv) (e : CmdEntry) (h_s : s₀.Kept s) :
    s₀.Kept (State.attBegin s x a P e).1 := by
  unfold State.attBegin
  repeat' (first | done | simp +contextual (maxDischargeDepth := 99) only [State.arithFlags_kept, State.rows_kept, State.attPredict_kept, State.attLoads_kept, Kept.upd, Kept.ite, Kept.foldl, Kept.foldl1, implies_true, *] | split | with_reducible apply Kept.foldl | with_reducible apply Kept.foldl1 | (intro _; intros))
theorem State.attStep_kept {s₀ : State} {s : State} (x : Ctx) (a : AttDesc) (P : Kv) (e : CmdEntry) (h_s : s₀.Kept s) :
    s₀.Kept (State.attStep s x a P e).1 := by
  unfold State.attStep
  repeat' (first | done | simp +contextual (maxDischargeDepth := 99) only [State.arithFlags_kept, State.rows_kept, State.kvAdd_kept, State.modPage_kept, State.askPage_kept, State.kvPump_kept, State.attLoads_kept, Kept.upd, Kept.ite, Kept.foldl, Kept.foldl1, implies_true, *] | split | with_reducible apply Kept.foldl | with_reducible apply Kept.foldl1 | (intro _; intros))
theorem State.attWrite_kept {s₀ : State} {s : State} (x : Ctx) (P : Kv) (e : CmdEntry) (h_s : s₀.Kept s) :
    s₀.Kept (State.attWrite s x P e).1 := by
  unfold State.attWrite
  repeat' (first | done | simp +contextual (maxDischargeDepth := 99) only [State.setFlagIf_kept, State.setTc_kept, State.arithFlags_kept, State.finish_kept, State.rows_kept, State.putEls_kept, Kept.upd, Kept.ite, Kept.foldl, Kept.foldl1, implies_true, *] | split | with_reducible apply Kept.foldl | with_reducible apply Kept.foldl1 | (intro _; intros))
theorem State.attClear_kept {s₀ : State} {s : State} (x : Ctx) (h_s : s₀.Kept s) :
    s₀.Kept (State.attClear s x) := by
  unfold State.attClear
  repeat' (first | done | simp +contextual (maxDischargeDepth := 99) only [State.setTc_kept, Kept.upd, Kept.ite, Kept.foldl, Kept.foldl1, implies_true, *] | split | with_reducible apply Kept.foldl | with_reducible apply Kept.foldl1 | (intro _; intros))
theorem State.attEff_kept {s₀ : State} {s : State} (x : Ctx) (e : CmdEntry) (h_s : s₀.Kept s) :
    s₀.Kept (State.attEff s x e).1 := by
  unfold State.attEff
  repeat' (first | done | simp +contextual (maxDischargeDepth := 99) only [State.attBegin_kept, State.attStep_kept, State.attWrite_kept, State.attClear_kept, Kept.upd, Kept.ite, Kept.foldl, Kept.foldl1, implies_true, *] | split | with_reducible apply Kept.foldl | with_reducible apply Kept.foldl1 | (intro _; intros))
theorem State.cmulEff_kept {s₀ : State} {s : State} (x : Ctx) (e : CmdEntry) (h_s : s₀.Kept s) :
    s₀.Kept (State.cmulEff s x e).1 := by
  unfold State.cmulEff
  try dsimp only
  refine State.rows_kept (h_s := h_s) (h_row := ?_) ..
  intro s i u hs ho
  try dsimp only at ho
  repeat' (first | (exact State.elRow_some (h_s := hs) (h_o := ho) ..) | (split at ho) | (cases ho; done) | (cases ho; simp +contextual (maxDischargeDepth := 99) only [State.putEls_kept, State.putCol_kept, State.setTc_kept, State.wrLE_kept, State.clearPoison_kept, Kept.ite, Kept.upd, Kept.foldl, Kept.foldl1, implies_true, hs]))
theorem State.llrpkEff_kept {s₀ : State} {s : State} (x : Ctx) (e : CmdEntry) (h_s : s₀.Kept s) :
    s₀.Kept (State.llrpkEff s x e).1 := by
  unfold State.llrpkEff
  try dsimp only
  refine State.rows_kept (h_s := h_s) (h_row := ?_) ..
  intro s i u hs ho
  try dsimp only at ho
  repeat' (first | (exact State.elRow_some (h_s := hs) (h_o := ho) ..) | (split at ho) | (cases ho; done) | (cases ho; simp +contextual (maxDischargeDepth := 99) only [State.putEls_kept, State.putCol_kept, State.setTc_kept, State.wrLE_kept, State.clearPoison_kept, Kept.ite, Kept.upd, Kept.foldl, Kept.foldl1, implies_true, hs]))
theorem State.cinvEff_kept {s₀ : State} {s : State} (x : Ctx) (e : CmdEntry) (h_s : s₀.Kept s) :
    s₀.Kept (State.cinvEff s x e).1 := by
  unfold State.cinvEff
  try dsimp only
  refine State.rows_kept (h_s := h_s) (h_row := ?_) ..
  intro s i u hs ho
  try dsimp only at ho
  repeat' (first | (split at ho) | (cases ho; done) | (cases ho; simp +contextual (maxDischargeDepth := 99) only [State.putEls_kept, State.putCol_kept, State.setTc_kept, State.wrLE_kept, State.clearPoison_kept, Kept.ite, Kept.upd, Kept.foldl, Kept.foldl1, implies_true, hs]))

end Sys2Proof.Machine
end

