-- ==== Sys2Proof/Laws/KeptFabric.lean ====
section
/-! SUPPORT. What every operation keeps, the queue and the canonical form of the tables: moves, pooled cores, lodgings, time bases and the air path. One lemma for
each operation. -/
namespace Sys2Proof.Machine
open Sys2Proof
set_option linter.unusedSimpArgs false
set_option linter.unusedVariables false

theorem State.enqueue_kept {s₀ : State} {s : State} (x : Ctx) (m : MoveEntry) (h_s : s₀.Kept s) :
    s₀.Kept (State.enqueue s x m) := by
  unfold State.enqueue
  repeat' (first | done | simp +contextual (maxDischargeDepth := 99) only [State.setSlot_kept, State.claim_kept, Kept.upd, Kept.ite, Kept.foldl, Kept.foldl1, implies_true, *] | split | with_reducible apply Kept.foldl | with_reducible apply Kept.foldl1 | (intro _; intros))
theorem moveRow_kept {s₀ : State} (c : Fin 32) (sl : Slot) (w : CmdWord) (op : Nat) {s : State} (checks : State → Ctx → List (Bool × Nat)) (go : State → Ctx → Nat → State) (h_go : ∀ (x0 : State) (x1 : Ctx) (x2 : Nat), s₀.Kept x0 → s₀.Kept (go x0 x1 x2)) (h_s : s₀.Kept s) :
    Fine s₀ ((cOp w == op) = false) (moveRow c sl w op s checks go) := by
  unfold moveRow
  repeat' (first | done | simp +contextual (maxDischargeDepth := 99) only [decodeRow_kept, State.complete_kept, Kept.upd, Kept.ite, Kept.foldl, Kept.foldl1, implies_true, Fine.ite, Fine.next, Fine.guard, *] | split | with_reducible apply Kept.foldl | with_reducible apply Kept.foldl1 | (intro _; intros) | with_reducible apply decodeRow_kept | with_reducible apply Fine.next | with_reducible apply Fine.guard)
theorem execMov_kept {s₀ : State} (c : Fin 32) (sl : Slot) (w : CmdWord) {s : State} (h_s : s₀.Kept s) :
    Fine s₀ ((cOp w == 0x10) = false) (execMov c sl w s) := by
  unfold execMov
  repeat' (first | done | simp +contextual (maxDischargeDepth := 99) only [State.enqueue_kept, moveRow_kept, Kept.upd, Kept.ite, Kept.foldl, Kept.foldl1, implies_true, Fine.ite, Fine.next, Fine.guard, *] | split | with_reducible apply Kept.foldl | with_reducible apply Kept.foldl1 | (intro _; intros) | with_reducible apply moveRow_kept | with_reducible apply Fine.next | with_reducible apply Fine.guard)
theorem execRot_kept {s₀ : State} (c : Fin 32) (sl : Slot) (w : CmdWord) {s : State} (h_s : s₀.Kept s) :
    Fine s₀ ((cOp w == 0x14) = false) (execRot c sl w s) := by
  unfold execRot
  repeat' (first | done | simp +contextual (maxDischargeDepth := 99) only [State.setTc_kept, State.enqueue_kept, moveRow_kept, Kept.upd, Kept.ite, Kept.foldl, Kept.foldl1, implies_true, Fine.ite, Fine.next, Fine.guard, *] | split | with_reducible apply Kept.foldl | with_reducible apply Kept.foldl1 | (intro _; intros) | with_reducible apply moveRow_kept | with_reducible apply Fine.next | with_reducible apply Fine.guard)
theorem execPagePut_kept {s₀ : State} (c : Fin 32) (sl : Slot) (w : CmdWord) {s : State} (h_s : s₀.Kept s) :
    Fine s₀ ((cOp w == 0x18) = false) (execPagePut c sl w s) := by
  unfold execPagePut
  repeat' (first | done | simp +contextual (maxDischargeDepth := 99) only [State.enqueue_kept, moveRow_kept, Kept.upd, Kept.ite, Kept.foldl, Kept.foldl1, implies_true, Fine.ite, Fine.next, Fine.guard, *] | split | with_reducible apply Kept.foldl | with_reducible apply Kept.foldl1 | (intro _; intros) | with_reducible apply moveRow_kept | with_reducible apply Fine.next | with_reducible apply Fine.guard)
theorem execPageGet_kept {s₀ : State} (c : Fin 32) (sl : Slot) (w : CmdWord) {s : State} (h_s : s₀.Kept s) :
    Fine s₀ ((cOp w == 0x19) = false) (execPageGet c sl w s) := by
  unfold execPageGet
  repeat' (first | done | simp +contextual (maxDischargeDepth := 99) only [State.enqueue_kept, moveRow_kept, Kept.upd, Kept.ite, Kept.foldl, Kept.foldl1, implies_true, Fine.ite, Fine.next, Fine.guard, *] | split | with_reducible apply Kept.foldl | with_reducible apply Kept.foldl1 | (intro _; intros) | with_reducible apply moveRow_kept | with_reducible apply Fine.next | with_reducible apply Fine.guard)
theorem State.setMoves_kept {s₀ : State} {s : State} (c : Nat) (p : Nat) (sl : Slot) (f : MoveEntry → MoveEntry) (h_s : s₀.Kept s) :
    s₀.Kept (State.setMoves s c p sl f) := by
  unfold State.setMoves
  repeat' (first | done | simp +contextual (maxDischargeDepth := 99) only [State.setSlot_kept, Kept.upd, Kept.ite, Kept.foldl, Kept.foldl1, implies_true, *] | split | with_reducible apply Kept.foldl | with_reducible apply Kept.foldl1 | (intro _; intros))
theorem State.setMove_kept {s₀ : State} {s : State} (c : Nat) (p : Nat) (sl : Slot) (seq : Nat) (f : MoveEntry → MoveEntry) (h_s : s₀.Kept s) :
    s₀.Kept (State.setMove s c p sl seq f) := by
  unfold State.setMove
  repeat' (first | done | simp +contextual (maxDischargeDepth := 99) only [State.setMoves_kept, Kept.upd, Kept.ite, Kept.foldl, Kept.foldl1, implies_true, *] | split | with_reducible apply Kept.foldl | with_reducible apply Kept.foldl1 | (intro _; intros))
theorem State.pageUse_kept {s₀ : State} {s : State} (l : Nat) (pool : Nat) (i : Nat) (h_s : s₀.Kept s) :
    s₀.Kept (State.pageUse s l pool i) := by
  unfold State.pageUse
  repeat' (first | done | simp +contextual (maxDischargeDepth := 99) only [State.setPage_kept, Kept.upd, Kept.ite, Kept.foldl, Kept.foldl1, implies_true, *] | split | with_reducible apply Kept.foldl | with_reducible apply Kept.foldl1 | (intro _; intros))
theorem State.pageSwitch_kept {s₀ : State} {s : State} (P : Kv) (i : Nat) (a : Nat) (last : List Byte) (h_s : s₀.Kept s) :
    s₀.Kept (State.pageSwitch s P i a last) := by
  unfold State.pageSwitch
  repeat' (first | done | simp +contextual (maxDischargeDepth := 99) only [State.wrLE_kept, State.setPage_kept, Kept.upd, Kept.ite, Kept.foldl, Kept.foldl1, implies_true, *] | split | with_reducible apply Kept.foldl | with_reducible apply Kept.foldl1 | (intro _; intros))
theorem State.pageArrived_kept {s₀ : State} {s : State} (P : Kv) (i : Nat) (a : Nat) (last : List Byte) (h_s : s₀.Kept s) :
    s₀.Kept (State.pageArrived s P i a last) := by
  unfold State.pageArrived
  repeat' (first | done | simp +contextual (maxDischargeDepth := 99) only [State.modXfer_kept, State.pageUse_kept, Kept.upd, Kept.ite, Kept.foldl, Kept.foldl1, implies_true, *] | split | with_reducible apply Kept.foldl | with_reducible apply Kept.foldl1 | (intro _; intros))
theorem State.settlePage_kept {s₀ : State} {s : State} (u : KvXfer) (h_s : s₀.Kept s) :
    s₀.Kept (State.settlePage s u) := by
  unfold State.settlePage
  repeat' (first | done | simp +contextual (maxDischargeDepth := 99) only [State.setPage_kept, State.modPage_kept, State.kvSync_kept, State.kvPump_kept, State.pageSwitch_kept, Kept.upd, Kept.ite, Kept.foldl, Kept.foldl1, implies_true, *] | split | with_reducible apply Kept.foldl | with_reducible apply Kept.foldl1 | (intro _; intros))
theorem State.kvSettle_kept {s₀ : State} {s : State} (h_s : s₀.Kept s) :
    s₀.Kept (State.kvSettle s) := by
  unfold State.kvSettle
  repeat' (first | done | simp +contextual (maxDischargeDepth := 99) only [State.restGo_kept, State.settlePage_kept, Kept.upd, Kept.ite, Kept.foldl, Kept.foldl1, implies_true, *] | split | with_reducible apply Kept.foldl | with_reducible apply Kept.foldl1 | (intro _; intros))
theorem State.pageRecs_kept {s₀ : State} {s : State} (P : Kv) (i : Nat) (kind : Nat) (l : Nat) (peer : Nat) (pool : Nat) (page : Nat) (h_s : s₀.Kept s) :
    s₀.Kept (State.pageRecs s P i kind l peer pool page).1 := by
  unfold State.pageRecs
  repeat' (first | done | simp +contextual (maxDischargeDepth := 99) only [State.getBytes_kept, State.setPage_kept, Kept.upd, Kept.ite, Kept.foldl, Kept.foldl1, implies_true, *] | split | with_reducible apply Kept.foldl | with_reducible apply Kept.foldl1 | (intro _; intros))
theorem State.sendPage_kept {s₀ : State} {s : State} (c : Nat) (p : Nat) (sl : Slot) (l : Nat) (m : MoveEntry) (h_s : s₀.Kept s) :
    s₀.Kept (State.sendPage s c p sl l m) := by
  unfold State.sendPage
  repeat' (first | done | simp +contextual (maxDischargeDepth := 99) only [State.linkAsk_kept, State.setMove_kept, State.pageRecs_kept, Kept.upd, Kept.ite, Kept.foldl, Kept.foldl1, implies_true, *] | split | with_reducible apply Kept.foldl | with_reducible apply Kept.foldl1 | (intro _; intros))
theorem State.moveStep_kept {s₀ : State} {s : State} (c : Nat) (p : Nat) (sl : Slot) (l : Nat) (m : MoveEntry) (h_s : s₀.Kept s) :
    s₀.Kept (State.moveStep s c p sl l m) := by
  unfold State.moveStep
  repeat' (first | done | simp +contextual (maxDischargeDepth := 99) only [State.getUnit_kept, State.moveUnit_kept, State.pay_kept, State.linkAsk_kept, State.setMove_kept, State.sendPage_kept, Kept.upd, Kept.ite, Kept.foldl, Kept.foldl1, implies_true, *] | split | with_reducible apply Kept.foldl | with_reducible apply Kept.foldl1 | (intro _; intros))
theorem State.slotAdmit_some {s₀ : State} {s : State} (c : Nat) (p : Nat) (sl : Slot) (l : Nat) (h_s : s₀.Kept s) {t}
    (h_o : State.slotAdmit s c p sl l = some t) : s₀.Kept t := by
  unfold State.slotAdmit at h_o
  split at h_o
  · cases h_o
  · split at h_o
    · cases h_o; exact State.moveStep_kept _ _ _ _ _ h_s
    · cases h_o
theorem State.queueAdmit_some {s₀ : State} {s : State} (l : Nat) (n0 : Option (Nat × Nat × Slot)) (h_s : s₀.Kept s) {t}
    (h_o : State.queueAdmit s l n0 = some t) : s₀.Kept t := by
  unfold State.queueAdmit at h_o
  split at h_o
  · exact State.slotAdmit_some (h_s := h_s) (h_o := h_o) ..
  · exact State.kvAdmit_some (h_s := h_s) (h_o := h_o) ..
theorem State.admitRound_kept {s₀ : State} {s : State} (l : Nat) (h_s : s₀.Kept s) :
    s₀.Kept (State.admitRound s l).1 := by
  unfold State.admitRound
  refine Kept.foldl1 (State.dueRound_kept (h_s := h_s) ..) ?_
  intro q x hq
  split
  · rename_i h; exact Kept.upd (State.queueAdmit_some (h_s := hq) (h_o := h) ..)
  · exact hq
theorem State.admitAll_kept {s₀ : State} {s : State} (l : Nat) (n0 : Nat) (h_s : s₀.Kept s) :
    s₀.Kept (State.admitAll s l n0) := by
  induction n0 generalizing s with
  | zero =>
    unfold State.admitAll
    repeat' (first | done | simp +contextual (maxDischargeDepth := 99) only [State.admitRound_kept, Kept.upd, Kept.ite, Kept.foldl, Kept.foldl1, implies_true, *] | split | with_reducible apply Kept.foldl | with_reducible apply Kept.foldl1 | (intro _; intros))
  | succ k ih =>
    unfold State.admitAll
    repeat' (first | done | simp +contextual (maxDischargeDepth := 99) only [State.admitRound_kept, Kept.upd, Kept.ite, Kept.foldl, Kept.foldl1, implies_true, *] | split | with_reducible apply Kept.foldl | with_reducible apply Kept.foldl1 | (intro _; intros))
theorem State.pump_kept {s₀ : State} {s : State} (l : Nat) (h_s : s₀.Kept s) :
    s₀.Kept (State.pump s l) := by
  unfold State.pump
  repeat' (first | done | simp +contextual (maxDischargeDepth := 99) only [State.admitAll_kept, Kept.upd, Kept.ite, Kept.foldl, Kept.foldl1, implies_true, *] | split | with_reducible apply Kept.foldl | with_reducible apply Kept.foldl1 | (intro _; intros))
theorem State.rotRound_kept {s₀ : State} {s : State} (l : Nat) (k : Nat) (h_s : s₀.Kept s) :
    s₀.Kept (State.rotRound s l k) := by
  unfold State.rotRound
  repeat' (first | done | simp +contextual (maxDischargeDepth := 99) only [State.wrLE_kept, State.clearPoison_kept, State.setMove_kept, Kept.upd, Kept.ite, Kept.foldl, Kept.foldl1, implies_true, *] | split | with_reducible apply Kept.foldl | with_reducible apply Kept.foldl1 | (intro _; intros))
theorem State.pageStart_kept {s₀ : State} {s : State} (c : Nat) (p : Nat) (sl : Slot) (l : Nat) (m : MoveEntry) (h_s : s₀.Kept s) :
    s₀.Kept (State.pageStart s c p sl l m) := by
  unfold State.pageStart
  repeat' (first | done | simp +contextual (maxDischargeDepth := 99) only [State.put_kept, State.setMove_kept, State.pageUse_kept, State.sendPage_kept, Kept.upd, Kept.ite, Kept.foldl, Kept.foldl1, implies_true, *] | split | with_reducible apply Kept.foldl | with_reducible apply Kept.foldl1 | (intro _; intros))
theorem execMoveStart_kept {s₀ : State} (c : Fin 32) (p : Fin 4) (sl : Slot) {s : State} (h_s : s₀.Kept s) :
    Fine s₀ False (execMoveStart c p sl s) := by
  unfold execMoveStart
  repeat' (first | done | simp +contextual (maxDischargeDepth := 99) only [State.setMove_kept, State.kvSettle_kept, State.pump_kept, State.rotRound_kept, State.pageStart_kept, Kept.upd, Kept.ite, Kept.foldl, Kept.foldl1, implies_true, Fine.ite, Fine.next, Fine.guard, *] | split | with_reducible apply Kept.foldl | with_reducible apply Kept.foldl1 | (intro _; intros) | with_reducible apply Fine.next | with_reducible apply Fine.guard)
theorem execRefill_kept {s₀ : State} (l : Fin 16) {s : State} (h_s : s₀.Kept s) :
    Fine s₀ False (execRefill l s) := by
  unfold execRefill
  repeat' (first | done | simp +contextual (maxDischargeDepth := 99) only [State.wr_kept, State.setTokens_kept, State.pump_kept, Kept.upd, Kept.ite, Kept.foldl, Kept.foldl1, implies_true, Fine.ite, Fine.next, Fine.guard, *] | split | with_reducible apply Kept.foldl | with_reducible apply Kept.foldl1 | (intro _; intros) | with_reducible apply Fine.next | with_reducible apply Fine.guard)
theorem execTierRefresh_kept {s₀ : State} (_ch : Fin 8) {s : State} (h_s : s₀.Kept s) :
    Fine s₀ False (execTierRefresh _ch s) := by
  unfold execTierRefresh
  repeat' (first | done | simp +contextual (maxDischargeDepth := 99) only [State.event_kept, Kept.upd, Kept.ite, Kept.foldl, Kept.foldl1, implies_true, Fine.ite, Fine.next, Fine.guard, *] | split | with_reducible apply Kept.foldl | with_reducible apply Kept.foldl1 | (intro _; intros) | with_reducible apply Fine.next | with_reducible apply Fine.guard)
theorem execSpillComplete_kept {s₀ : State} (l : Fin 16) (pool : Fin 4) (page : Fin 4194304) {s : State} (h_s : s₀.Kept s) :
    Fine s₀ False (execSpillComplete l pool page s) := by
  unfold execSpillComplete
  repeat' (first | done | simp +contextual (maxDischargeDepth := 99) only [State.spillDone_kept, State.kvSettle_kept, Kept.upd, Kept.ite, Kept.foldl, Kept.foldl1, implies_true, Fine.ite, Fine.next, Fine.guard, *] | split | with_reducible apply Kept.foldl | with_reducible apply Kept.foldl1 | (intro _; intros) | with_reducible apply Fine.next | with_reducible apply Fine.guard)
theorem execFetchComplete_kept {s₀ : State} (l : Fin 16) (pool : Fin 4) (page : Fin 4194304) {s : State} (h_s : s₀.Kept s) :
    Fine s₀ False (execFetchComplete l pool page s) := by
  unfold execFetchComplete
  repeat' (first | done | simp +contextual (maxDischargeDepth := 99) only [State.fetchDone_kept, State.kvSettle_kept, Kept.upd, Kept.ite, Kept.foldl, Kept.foldl1, implies_true, Fine.ite, Fine.next, Fine.guard, *] | split | with_reducible apply Kept.foldl | with_reducible apply Kept.foldl1 | (intro _; intros) | with_reducible apply Fine.next | with_reducible apply Fine.guard)
theorem State.effect_kept {s₀ : State} {s : State} (x : Ctx) (e : CmdEntry) (h_s : s₀.Kept s) :
    s₀.Kept (State.effect s x e).1 := by
  unfold State.effect
  repeat' (first | done | simp +contextual (maxDischargeDepth := 99) only [State.ldsEff_kept, State.passEff_kept, State.drainEff_kept, State.tileEff_kept, State.osideEff_kept, State.vldEff_kept, State.vstEff_kept, State.vbinEff_kept, State.vfmaEff_kept, State.vunEff_kept, State.vcvtEff_kept, State.vfreeEff_kept, State.redEff_kept, State.topkEff_kept, State.smx1Eff_kept, State.smx2Eff_kept, State.tloadEff_kept, State.tswapEff_kept, State.sfnEff_kept, State.qntEff_kept, State.dequantEff_kept, State.recordEff_kept, State.qclearEff_kept, State.appendEff_kept, State.kvFnEff_kept, State.attEff_kept, State.cmulEff_kept, State.llrpkEff_kept, State.cinvEff_kept, Kept.upd, Kept.ite, Kept.foldl, Kept.foldl1, implies_true, *] | split | with_reducible apply Kept.foldl | with_reducible apply Kept.foldl1 | (intro _; intros))
theorem State.serve_kept {s₀ : State} {s : State} (x : Ctx) (e : CmdEntry) (h_s : s₀.Kept s) :
    s₀.Kept (State.serve s x e) := by
  unfold State.serve
  repeat' (first | done | simp +contextual (maxDischargeDepth := 99) only [State.setTc_kept, State.hold_kept, Kept.upd, Kept.ite, Kept.foldl, Kept.foldl1, implies_true, *] | split | with_reducible apply Kept.foldl | with_reducible apply Kept.foldl1 | (intro _; intros))
theorem State.runOver_kept {s₀ : State} {s : State} (x : Ctx) (e : CmdEntry) (f : CmdEntry) (h_s : s₀.Kept s) :
    s₀.Kept (State.runOver s x e f).1 := by
  unfold State.runOver
  repeat' (first | done | simp +contextual (maxDischargeDepth := 99) only [State.setFlagIf_kept, State.setTc_kept, Kept.upd, Kept.ite, Kept.foldl, Kept.foldl1, implies_true, *] | split | with_reducible apply Kept.foldl | with_reducible apply Kept.foldl1 | (intro _; intros))
theorem State.bringOn_kept {s₀ : State} {s : State} (x : Ctx) (e : CmdEntry) (h_s : s₀.Kept s) :
    s₀.Kept (State.bringOn s x e).1 := by
  unfold State.bringOn
  repeat' (first | done | simp +contextual (maxDischargeDepth := 99) only [State.effect_kept, State.serve_kept, State.runOver_kept, Kept.upd, Kept.ite, Kept.foldl, Kept.foldl1, implies_true, *] | split | with_reducible apply Kept.foldl | with_reducible apply Kept.foldl1 | (intro _; intros))
theorem State.issue_kept {s₀ : State} {s : State} (x : Ctx) (seq : Nat) (w : CmdWord) (desc : Nat) (h_s : s₀.Kept s) :
    s₀.Kept (State.issue s x seq w desc) := by
  unfold State.issue
  repeat' (first | done | simp +contextual (maxDischargeDepth := 99) only [State.enter_kept, State.noteLoads_kept, State.bringOn_kept, Kept.upd, Kept.ite, Kept.foldl, Kept.foldl1, implies_true, *] | split | with_reducible apply Kept.foldl | with_reducible apply Kept.foldl1 | (intro _; intros))
theorem unitRow_kept {s₀ : State} (c : Fin 32) (sl : Slot) (w : CmdWord) (isRow : Bool) {s : State} (checks : State → Ctx → Nat → Attach → List (Bool × Nat)) (h_s : s₀.Kept s) :
    Fine s₀ (isRow = false) (unitRow c sl w isRow s checks) := by
  unfold unitRow
  repeat' (first | done | simp +contextual (maxDischargeDepth := 99) only [decodeRow_kept, State.complete_kept, State.issue_kept, Kept.upd, Kept.ite, Kept.foldl, Kept.foldl1, implies_true, Fine.ite, Fine.next, Fine.guard, *] | split | with_reducible apply Kept.foldl | with_reducible apply Kept.foldl1 | (intro _; intros) | with_reducible apply decodeRow_kept | with_reducible apply Fine.next | with_reducible apply Fine.guard)
theorem execPass_kept {s₀ : State} (c : Fin 32) (sl : Slot) (w : CmdWord) {s : State} (h_s : s₀.Kept s) :
    Fine s₀ ((cOp w == 0x20) = false) (execPass c sl w s) := by
  unfold execPass
  repeat' (first | done | simp +contextual (maxDischargeDepth := 99) only [decodeRow_kept, State.complete_kept, State.noteLoads_kept, State.issue_kept, Kept.upd, Kept.ite, Kept.foldl, Kept.foldl1, implies_true, Fine.ite, Fine.next, Fine.guard, *] | split | with_reducible apply Kept.foldl | with_reducible apply Kept.foldl1 | (intro _; intros) | with_reducible apply decodeRow_kept | with_reducible apply Fine.next | with_reducible apply Fine.guard)
theorem execTile_kept {s₀ : State} (c : Fin 32) (sl : Slot) (w : CmdWord) {s : State} (h_s : s₀.Kept s) :
    Fine s₀ ((cOp w == 0x21) = false) (execTile c sl w s) := by
  unfold execTile
  repeat' (first | done | simp +contextual (maxDischargeDepth := 99) only [unitRow_kept, Kept.upd, Kept.ite, Kept.foldl, Kept.foldl1, implies_true, Fine.ite, Fine.next, Fine.guard, *] | split | with_reducible apply Kept.foldl | with_reducible apply Kept.foldl1 | (intro _; intros) | with_reducible apply Fine.next | with_reducible apply Fine.guard)
theorem execLds_kept {s₀ : State} (c : Fin 32) (sl : Slot) (w : CmdWord) {s : State} (h_s : s₀.Kept s) :
    Fine s₀ ((cOp w == 0x22) = false) (execLds c sl w s) := by
  unfold execLds
  repeat' (first | done | simp +contextual (maxDischargeDepth := 99) only [unitRow_kept, Kept.upd, Kept.ite, Kept.foldl, Kept.foldl1, implies_true, Fine.ite, Fine.next, Fine.guard, *] | split | with_reducible apply Kept.foldl | with_reducible apply Kept.foldl1 | (intro _; intros) | with_reducible apply Fine.next | with_reducible apply Fine.guard)
theorem execDrain_kept {s₀ : State} (c : Fin 32) (sl : Slot) (w : CmdWord) {s : State} (h_s : s₀.Kept s) :
    Fine s₀ ((cOp w == 0x23) = false) (execDrain c sl w s) := by
  unfold execDrain
  repeat' (first | done | simp +contextual (maxDischargeDepth := 99) only [unitRow_kept, Kept.upd, Kept.ite, Kept.foldl, Kept.foldl1, implies_true, Fine.ite, Fine.next, Fine.guard, *] | split | with_reducible apply Kept.foldl | with_reducible apply Kept.foldl1 | (intro _; intros) | with_reducible apply Fine.next | with_reducible apply Fine.guard)
theorem execVld_kept {s₀ : State} (c : Fin 32) (sl : Slot) (w : CmdWord) {s : State} (h_s : s₀.Kept s) :
    Fine s₀ ((cOp w == 0x30) = false) (execVld c sl w s) := by
  unfold execVld
  repeat' (first | done | simp +contextual (maxDischargeDepth := 99) only [unitRow_kept, Kept.upd, Kept.ite, Kept.foldl, Kept.foldl1, implies_true, Fine.ite, Fine.next, Fine.guard, *] | split | with_reducible apply Kept.foldl | with_reducible apply Kept.foldl1 | (intro _; intros) | with_reducible apply Fine.next | with_reducible apply Fine.guard)
theorem execVst_kept {s₀ : State} (c : Fin 32) (sl : Slot) (w : CmdWord) {s : State} (h_s : s₀.Kept s) :
    Fine s₀ ((cOp w == 0x31) = false) (execVst c sl w s) := by
  unfold execVst
  repeat' (first | done | simp +contextual (maxDischargeDepth := 99) only [unitRow_kept, Kept.upd, Kept.ite, Kept.foldl, Kept.foldl1, implies_true, Fine.ite, Fine.next, Fine.guard, *] | split | with_reducible apply Kept.foldl | with_reducible apply Kept.foldl1 | (intro _; intros) | with_reducible apply Fine.next | with_reducible apply Fine.guard)
theorem execVbin_kept {s₀ : State} (c : Fin 32) (sl : Slot) (w : CmdWord) {s : State} (h_s : s₀.Kept s) :
    Fine s₀ ((cOp w == 0x32) = false) (execVbin c sl w s) := by
  unfold execVbin
  repeat' (first | done | simp +contextual (maxDischargeDepth := 99) only [unitRow_kept, Kept.upd, Kept.ite, Kept.foldl, Kept.foldl1, implies_true, Fine.ite, Fine.next, Fine.guard, *] | split | with_reducible apply Kept.foldl | with_reducible apply Kept.foldl1 | (intro _; intros) | with_reducible apply Fine.next | with_reducible apply Fine.guard)
theorem execVun_kept {s₀ : State} (c : Fin 32) (sl : Slot) (w : CmdWord) {s : State} (h_s : s₀.Kept s) :
    Fine s₀ ((cOp w == 0x33) = false) (execVun c sl w s) := by
  unfold execVun
  repeat' (first | done | simp +contextual (maxDischargeDepth := 99) only [unitRow_kept, Kept.upd, Kept.ite, Kept.foldl, Kept.foldl1, implies_true, Fine.ite, Fine.next, Fine.guard, *] | split | with_reducible apply Kept.foldl | with_reducible apply Kept.foldl1 | (intro _; intros) | with_reducible apply Fine.next | with_reducible apply Fine.guard)
theorem execVfma_kept {s₀ : State} (c : Fin 32) (sl : Slot) (w : CmdWord) {s : State} (h_s : s₀.Kept s) :
    Fine s₀ ((cOp w == 0x34) = false) (execVfma c sl w s) := by
  unfold execVfma
  repeat' (first | done | simp +contextual (maxDischargeDepth := 99) only [unitRow_kept, Kept.upd, Kept.ite, Kept.foldl, Kept.foldl1, implies_true, Fine.ite, Fine.next, Fine.guard, *] | split | with_reducible apply Kept.foldl | with_reducible apply Kept.foldl1 | (intro _; intros) | with_reducible apply Fine.next | with_reducible apply Fine.guard)
theorem execVcvt_kept {s₀ : State} (c : Fin 32) (sl : Slot) (w : CmdWord) {s : State} (h_s : s₀.Kept s) :
    Fine s₀ ((cOp w == 0x35) = false) (execVcvt c sl w s) := by
  unfold execVcvt
  repeat' (first | done | simp +contextual (maxDischargeDepth := 99) only [unitRow_kept, Kept.upd, Kept.ite, Kept.foldl, Kept.foldl1, implies_true, Fine.ite, Fine.next, Fine.guard, *] | split | with_reducible apply Kept.foldl | with_reducible apply Kept.foldl1 | (intro _; intros) | with_reducible apply Fine.next | with_reducible apply Fine.guard)
theorem execVfree_kept {s₀ : State} (c : Fin 32) (sl : Slot) (w : CmdWord) {s : State} (h_s : s₀.Kept s) :
    Fine s₀ ((cOp w == 0x36) = false) (execVfree c sl w s) := by
  unfold execVfree
  repeat' (first | done | simp +contextual (maxDischargeDepth := 99) only [unitRow_kept, Kept.upd, Kept.ite, Kept.foldl, Kept.foldl1, implies_true, Fine.ite, Fine.next, Fine.guard, *] | split | with_reducible apply Kept.foldl | with_reducible apply Kept.foldl1 | (intro _; intros) | with_reducible apply Fine.next | with_reducible apply Fine.guard)
theorem execRed_kept {s₀ : State} (c : Fin 32) (sl : Slot) (w : CmdWord) {s : State} (h_s : s₀.Kept s) :
    Fine s₀ ((cOp w == 0x40) = false) (execRed c sl w s) := by
  unfold execRed
  repeat' (first | done | simp +contextual (maxDischargeDepth := 99) only [unitRow_kept, Kept.upd, Kept.ite, Kept.foldl, Kept.foldl1, implies_true, Fine.ite, Fine.next, Fine.guard, *] | split | with_reducible apply Kept.foldl | with_reducible apply Kept.foldl1 | (intro _; intros) | with_reducible apply Fine.next | with_reducible apply Fine.guard)
theorem execTopk_kept {s₀ : State} (c : Fin 32) (sl : Slot) (w : CmdWord) {s : State} (h_s : s₀.Kept s) :
    Fine s₀ ((cOp w == 0x41) = false) (execTopk c sl w s) := by
  unfold execTopk
  repeat' (first | done | simp +contextual (maxDischargeDepth := 99) only [unitRow_kept, Kept.upd, Kept.ite, Kept.foldl, Kept.foldl1, implies_true, Fine.ite, Fine.next, Fine.guard, *] | split | with_reducible apply Kept.foldl | with_reducible apply Kept.foldl1 | (intro _; intros) | with_reducible apply Fine.next | with_reducible apply Fine.guard)
theorem execSmx1_kept {s₀ : State} (c : Fin 32) (sl : Slot) (w : CmdWord) {s : State} (h_s : s₀.Kept s) :
    Fine s₀ ((cOp w == 0x42) = false) (execSmx1 c sl w s) := by
  unfold execSmx1
  repeat' (first | done | simp +contextual (maxDischargeDepth := 99) only [unitRow_kept, Kept.upd, Kept.ite, Kept.foldl, Kept.foldl1, implies_true, Fine.ite, Fine.next, Fine.guard, *] | split | with_reducible apply Kept.foldl | with_reducible apply Kept.foldl1 | (intro _; intros) | with_reducible apply Fine.next | with_reducible apply Fine.guard)
theorem execSmx2_kept {s₀ : State} (c : Fin 32) (sl : Slot) (w : CmdWord) {s : State} (h_s : s₀.Kept s) :
    Fine s₀ ((cOp w == 0x43) = false) (execSmx2 c sl w s) := by
  unfold execSmx2
  repeat' (first | done | simp +contextual (maxDischargeDepth := 99) only [unitRow_kept, Kept.upd, Kept.ite, Kept.foldl, Kept.foldl1, implies_true, Fine.ite, Fine.next, Fine.guard, *] | split | with_reducible apply Kept.foldl | with_reducible apply Kept.foldl1 | (intro _; intros) | with_reducible apply Fine.next | with_reducible apply Fine.guard)
theorem execSfn_kept {s₀ : State} (c : Fin 32) (sl : Slot) (w : CmdWord) {s : State} (h_s : s₀.Kept s) :
    Fine s₀ ((cOp w == 0x50) = false) (execSfn c sl w s) := by
  unfold execSfn
  repeat' (first | done | simp +contextual (maxDischargeDepth := 99) only [unitRow_kept, Kept.upd, Kept.ite, Kept.foldl, Kept.foldl1, implies_true, Fine.ite, Fine.next, Fine.guard, *] | split | with_reducible apply Kept.foldl | with_reducible apply Kept.foldl1 | (intro _; intros) | with_reducible apply Fine.next | with_reducible apply Fine.guard)
theorem execTload_kept {s₀ : State} (c : Fin 32) (sl : Slot) (w : CmdWord) {s : State} (h_s : s₀.Kept s) :
    Fine s₀ ((cOp w == 0x51) = false) (execTload c sl w s) := by
  unfold execTload
  repeat' (first | done | simp +contextual (maxDischargeDepth := 99) only [unitRow_kept, Kept.upd, Kept.ite, Kept.foldl, Kept.foldl1, implies_true, Fine.ite, Fine.next, Fine.guard, *] | split | with_reducible apply Kept.foldl | with_reducible apply Kept.foldl1 | (intro _; intros) | with_reducible apply Fine.next | with_reducible apply Fine.guard)
theorem execTswap_kept {s₀ : State} (c : Fin 32) (sl : Slot) (w : CmdWord) {s : State} (h_s : s₀.Kept s) :
    Fine s₀ ((cOp w == 0x52) = false) (execTswap c sl w s) := by
  unfold execTswap
  repeat' (first | done | simp +contextual (maxDischargeDepth := 99) only [unitRow_kept, Kept.upd, Kept.ite, Kept.foldl, Kept.foldl1, implies_true, Fine.ite, Fine.next, Fine.guard, *] | split | with_reducible apply Kept.foldl | with_reducible apply Kept.foldl1 | (intro _; intros) | with_reducible apply Fine.next | with_reducible apply Fine.guard)
theorem execQnt_kept {s₀ : State} (c : Fin 32) (sl : Slot) (w : CmdWord) {s : State} (h_s : s₀.Kept s) :
    Fine s₀ ((cOp w == 0x60) = false) (execQnt c sl w s) := by
  unfold execQnt
  repeat' (first | done | simp +contextual (maxDischargeDepth := 99) only [unitRow_kept, Kept.upd, Kept.ite, Kept.foldl, Kept.foldl1, implies_true, Fine.ite, Fine.next, Fine.guard, *] | split | with_reducible apply Kept.foldl | with_reducible apply Kept.foldl1 | (intro _; intros) | with_reducible apply Fine.next | with_reducible apply Fine.guard)
theorem execDequant_kept {s₀ : State} (c : Fin 32) (sl : Slot) (w : CmdWord) {s : State} (h_s : s₀.Kept s) :
    Fine s₀ ((cOp w == 0x61 && dFunc w != 1 && dFunc w != 2) = false) (execDequant c sl w s) := by
  unfold execDequant
  repeat' (first | done | simp +contextual (maxDischargeDepth := 99) only [unitRow_kept, Kept.upd, Kept.ite, Kept.foldl, Kept.foldl1, implies_true, Fine.ite, Fine.next, Fine.guard, *] | split | with_reducible apply Kept.foldl | with_reducible apply Kept.foldl1 | (intro _; intros) | with_reducible apply Fine.next | with_reducible apply Fine.guard)
theorem execAttach_kept {s₀ : State} (c : Fin 32) (sl : Slot) (w : CmdWord) {s : State} (h_s : s₀.Kept s) :
    Fine s₀ ((cOp w == 0x61 && dFunc w == 1) = false) (execAttach c sl w s) := by
  unfold execAttach
  repeat' (first | done | simp +contextual (maxDischargeDepth := 99) only [decodeRow_kept, State.complete_kept, State.setAttach_kept, Kept.upd, Kept.ite, Kept.foldl, Kept.foldl1, implies_true, Fine.ite, Fine.next, Fine.guard, *] | split | with_reducible apply Kept.foldl | with_reducible apply Kept.foldl1 | (intro _; intros) | with_reducible apply decodeRow_kept | with_reducible apply Fine.next | with_reducible apply Fine.guard)
theorem execDetach_kept {s₀ : State} (c : Fin 32) (sl : Slot) (w : CmdWord) {s : State} (h_s : s₀.Kept s) :
    Fine s₀ ((cOp w == 0x61 && dFunc w == 2) = false) (execDetach c sl w s) := by
  unfold execDetach
  repeat' (first | done | simp +contextual (maxDischargeDepth := 99) only [decodeRow_kept, State.complete_kept, State.setAttach_kept, Kept.upd, Kept.ite, Kept.foldl, Kept.foldl1, implies_true, Fine.ite, Fine.next, Fine.guard, *] | split | with_reducible apply Kept.foldl | with_reducible apply Kept.foldl1 | (intro _; intros) | with_reducible apply decodeRow_kept | with_reducible apply Fine.next | with_reducible apply Fine.guard)
theorem execRecordMax_kept {s₀ : State} (c : Fin 32) (sl : Slot) (w : CmdWord) {s : State} (h_s : s₀.Kept s) :
    Fine s₀ ((cOp w == 0x62 && dFunc w != 1) = false) (execRecordMax c sl w s) := by
  unfold execRecordMax
  repeat' (first | done | simp +contextual (maxDischargeDepth := 99) only [unitRow_kept, Kept.upd, Kept.ite, Kept.foldl, Kept.foldl1, implies_true, Fine.ite, Fine.next, Fine.guard, *] | split | with_reducible apply Kept.foldl | with_reducible apply Kept.foldl1 | (intro _; intros) | with_reducible apply Fine.next | with_reducible apply Fine.guard)
theorem execQmaxClear_kept {s₀ : State} (c : Fin 32) (sl : Slot) (w : CmdWord) {s : State} (h_s : s₀.Kept s) :
    Fine s₀ ((cOp w == 0x62 && dFunc w == 1) = false) (execQmaxClear c sl w s) := by
  unfold execQmaxClear
  repeat' (first | done | simp +contextual (maxDischargeDepth := 99) only [unitRow_kept, Kept.upd, Kept.ite, Kept.foldl, Kept.foldl1, implies_true, Fine.ite, Fine.next, Fine.guard, *] | split | with_reducible apply Kept.foldl | with_reducible apply Kept.foldl1 | (intro _; intros) | with_reducible apply Fine.next | with_reducible apply Fine.guard)
theorem execOside_kept {s₀ : State} (c : Fin 32) (sl : Slot) (w : CmdWord) {s : State} (h_s : s₀.Kept s) :
    Fine s₀ ((cOp w == 0x63) = false) (execOside c sl w s) := by
  unfold execOside
  repeat' (first | done | simp +contextual (maxDischargeDepth := 99) only [unitRow_kept, Kept.upd, Kept.ite, Kept.foldl, Kept.foldl1, implies_true, Fine.ite, Fine.next, Fine.guard, *] | split | with_reducible apply Kept.foldl | with_reducible apply Kept.foldl1 | (intro _; intros) | with_reducible apply Fine.next | with_reducible apply Fine.guard)
theorem execAtt_kept {s₀ : State} (c : Fin 32) (sl : Slot) (w : CmdWord) {s : State} (h_s : s₀.Kept s) :
    Fine s₀ ((cOp w == 0x70) = false) (execAtt c sl w s) := by
  unfold execAtt
  repeat' (first | done | simp +contextual (maxDischargeDepth := 99) only [unitRow_kept, Kept.upd, Kept.ite, Kept.foldl, Kept.foldl1, implies_true, Fine.ite, Fine.next, Fine.guard, *] | split | with_reducible apply Kept.foldl | with_reducible apply Kept.foldl1 | (intro _; intros) | with_reducible apply Fine.next | with_reducible apply Fine.guard)
theorem execPoolCreate_kept {s₀ : State} (c : Fin 32) (sl : Slot) (w : CmdWord) {s : State} (h_s : s₀.Kept s) :
    Fine s₀ ((cOp w == 0x71 && (dFunc w == 0 || decide (9 < dFunc w))) = false) (execPoolCreate c sl w s) := by
  unfold execPoolCreate
  repeat' (first | done | simp +contextual (maxDischargeDepth := 99) only [unitRow_kept, Kept.upd, Kept.ite, Kept.foldl, Kept.foldl1, implies_true, Fine.ite, Fine.next, Fine.guard, *] | split | with_reducible apply Kept.foldl | with_reducible apply Kept.foldl1 | (intro _; intros) | with_reducible apply Fine.next | with_reducible apply Fine.guard)
theorem execJoin_kept {s₀ : State} (c : Fin 32) (sl : Slot) (w : CmdWord) {s : State} (h_s : s₀.Kept s) :
    Fine s₀ ((cOp w == 0x71 && dFunc w == 1) = false) (execJoin c sl w s) := by
  unfold execJoin
  repeat' (first | done | simp +contextual (maxDischargeDepth := 99) only [unitRow_kept, Kept.upd, Kept.ite, Kept.foldl, Kept.foldl1, implies_true, Fine.ite, Fine.next, Fine.guard, *] | split | with_reducible apply Kept.foldl | with_reducible apply Kept.foldl1 | (intro _; intros) | with_reducible apply Fine.next | with_reducible apply Fine.guard)
theorem execLeave_kept {s₀ : State} (c : Fin 32) (sl : Slot) (w : CmdWord) {s : State} (h_s : s₀.Kept s) :
    Fine s₀ ((cOp w == 0x71 && dFunc w == 2) = false) (execLeave c sl w s) := by
  unfold execLeave
  repeat' (first | done | simp +contextual (maxDischargeDepth := 99) only [unitRow_kept, Kept.upd, Kept.ite, Kept.foldl, Kept.foldl1, implies_true, Fine.ite, Fine.next, Fine.guard, *] | split | with_reducible apply Kept.foldl | with_reducible apply Kept.foldl1 | (intro _; intros) | with_reducible apply Fine.next | with_reducible apply Fine.guard)
theorem execKvappStep_kept {s₀ : State} (c : Fin 32) (sl : Slot) (w : CmdWord) {s : State} (h_s : s₀.Kept s) :
    Fine s₀ ((cOp w == 0x71 && dFunc w == 3) = false) (execKvappStep c sl w s) := by
  unfold execKvappStep
  repeat' (first | done | simp +contextual (maxDischargeDepth := 99) only [unitRow_kept, Kept.upd, Kept.ite, Kept.foldl, Kept.foldl1, implies_true, Fine.ite, Fine.next, Fine.guard, *] | split | with_reducible apply Kept.foldl | with_reducible apply Kept.foldl1 | (intro _; intros) | with_reducible apply Fine.next | with_reducible apply Fine.guard)
theorem execAppend_kept {s₀ : State} (c : Fin 32) (sl : Slot) (w : CmdWord) {s : State} (h_s : s₀.Kept s) :
    Fine s₀ ((cOp w == 0x71 && dFunc w == 4) = false) (execAppend c sl w s) := by
  unfold execAppend
  repeat' (first | done | simp +contextual (maxDischargeDepth := 99) only [unitRow_kept, Kept.upd, Kept.ite, Kept.foldl, Kept.foldl1, implies_true, Fine.ite, Fine.next, Fine.guard, *] | split | with_reducible apply Kept.foldl | with_reducible apply Kept.foldl1 | (intro _; intros) | with_reducible apply Fine.next | with_reducible apply Fine.guard)
theorem execFork_kept {s₀ : State} (c : Fin 32) (sl : Slot) (w : CmdWord) {s : State} (h_s : s₀.Kept s) :
    Fine s₀ ((cOp w == 0x71 && dFunc w == 5) = false) (execFork c sl w s) := by
  unfold execFork
  repeat' (first | done | simp +contextual (maxDischargeDepth := 99) only [unitRow_kept, Kept.upd, Kept.ite, Kept.foldl, Kept.foldl1, implies_true, Fine.ite, Fine.next, Fine.guard, *] | split | with_reducible apply Kept.foldl | with_reducible apply Kept.foldl1 | (intro _; intros) | with_reducible apply Fine.next | with_reducible apply Fine.guard)
theorem execPinBlocks_kept {s₀ : State} (c : Fin 32) (sl : Slot) (w : CmdWord) {s : State} (h_s : s₀.Kept s) :
    Fine s₀ ((cOp w == 0x71 && dFunc w == 6) = false) (execPinBlocks c sl w s) := by
  unfold execPinBlocks
  repeat' (first | done | simp +contextual (maxDischargeDepth := 99) only [unitRow_kept, Kept.upd, Kept.ite, Kept.foldl, Kept.foldl1, implies_true, Fine.ite, Fine.next, Fine.guard, *] | split | with_reducible apply Kept.foldl | with_reducible apply Kept.foldl1 | (intro _; intros) | with_reducible apply Fine.next | with_reducible apply Fine.guard)
theorem execUnpinBlocks_kept {s₀ : State} (c : Fin 32) (sl : Slot) (w : CmdWord) {s : State} (h_s : s₀.Kept s) :
    Fine s₀ ((cOp w == 0x71 && dFunc w == 7) = false) (execUnpinBlocks c sl w s) := by
  unfold execUnpinBlocks
  repeat' (first | done | simp +contextual (maxDischargeDepth := 99) only [unitRow_kept, Kept.upd, Kept.ite, Kept.foldl, Kept.foldl1, implies_true, Fine.ite, Fine.next, Fine.guard, *] | split | with_reducible apply Kept.foldl | with_reducible apply Kept.foldl1 | (intro _; intros) | with_reducible apply Fine.next | with_reducible apply Fine.guard)
theorem execGrow_kept {s₀ : State} (c : Fin 32) (sl : Slot) (w : CmdWord) {s : State} (h_s : s₀.Kept s) :
    Fine s₀ ((cOp w == 0x71 && dFunc w == 8) = false) (execGrow c sl w s) := by
  unfold execGrow
  repeat' (first | done | simp +contextual (maxDischargeDepth := 99) only [unitRow_kept, Kept.upd, Kept.ite, Kept.foldl, Kept.foldl1, implies_true, Fine.ite, Fine.next, Fine.guard, *] | split | with_reducible apply Kept.foldl | with_reducible apply Kept.foldl1 | (intro _; intros) | with_reducible apply Fine.next | with_reducible apply Fine.guard)
theorem execClose_kept {s₀ : State} (c : Fin 32) (sl : Slot) (w : CmdWord) {s : State} (h_s : s₀.Kept s) :
    Fine s₀ ((cOp w == 0x71 && dFunc w == 9) = false) (execClose c sl w s) := by
  unfold execClose
  repeat' (first | done | simp +contextual (maxDischargeDepth := 99) only [unitRow_kept, Kept.upd, Kept.ite, Kept.foldl, Kept.foldl1, implies_true, Fine.ite, Fine.next, Fine.guard, *] | split | with_reducible apply Kept.foldl | with_reducible apply Kept.foldl1 | (intro _; intros) | with_reducible apply Fine.next | with_reducible apply Fine.guard)
theorem execLookup_kept {s₀ : State} (c : Fin 32) (sl : Slot) (w : CmdWord) {s : State} (h_s : s₀.Kept s) :
    Fine s₀ ((cOp w == 0x72 && dFunc w != 1 && dFunc w != 2) = false) (execLookup c sl w s) := by
  unfold execLookup
  repeat' (first | done | simp +contextual (maxDischargeDepth := 99) only [unitRow_kept, Kept.upd, Kept.ite, Kept.foldl, Kept.foldl1, implies_true, Fine.ite, Fine.next, Fine.guard, *] | split | with_reducible apply Kept.foldl | with_reducible apply Kept.foldl1 | (intro _; intros) | with_reducible apply Fine.next | with_reducible apply Fine.guard)
theorem execPublish_kept {s₀ : State} (c : Fin 32) (sl : Slot) (w : CmdWord) {s : State} (h_s : s₀.Kept s) :
    Fine s₀ ((cOp w == 0x72 && dFunc w == 1) = false) (execPublish c sl w s) := by
  unfold execPublish
  repeat' (first | done | simp +contextual (maxDischargeDepth := 99) only [unitRow_kept, Kept.upd, Kept.ite, Kept.foldl, Kept.foldl1, implies_true, Fine.ite, Fine.next, Fine.guard, *] | split | with_reducible apply Kept.foldl | with_reducible apply Kept.foldl1 | (intro _; intros) | with_reducible apply Fine.next | with_reducible apply Fine.guard)
theorem execPfxFlush_kept {s₀ : State} (c : Fin 32) (sl : Slot) (w : CmdWord) {s : State} (h_s : s₀.Kept s) :
    Fine s₀ ((cOp w == 0x72 && dFunc w == 2) = false) (execPfxFlush c sl w s) := by
  unfold execPfxFlush
  repeat' (first | done | simp +contextual (maxDischargeDepth := 99) only [unitRow_kept, Kept.upd, Kept.ite, Kept.foldl, Kept.foldl1, implies_true, Fine.ite, Fine.next, Fine.guard, *] | split | with_reducible apply Kept.foldl | with_reducible apply Kept.foldl1 | (intro _; intros) | with_reducible apply Fine.next | with_reducible apply Fine.guard)
theorem execCmul_kept {s₀ : State} (c : Fin 32) (sl : Slot) (w : CmdWord) {s : State} (h_s : s₀.Kept s) :
    Fine s₀ ((cOp w == 0x80) = false) (execCmul c sl w s) := by
  unfold execCmul
  repeat' (first | done | simp +contextual (maxDischargeDepth := 99) only [unitRow_kept, Kept.upd, Kept.ite, Kept.foldl, Kept.foldl1, implies_true, Fine.ite, Fine.next, Fine.guard, *] | split | with_reducible apply Kept.foldl | with_reducible apply Kept.foldl1 | (intro _; intros) | with_reducible apply Fine.next | with_reducible apply Fine.guard)
theorem execCinv_kept {s₀ : State} (c : Fin 32) (sl : Slot) (w : CmdWord) {s : State} (h_s : s₀.Kept s) :
    Fine s₀ ((cOp w == 0x81) = false) (execCinv c sl w s) := by
  unfold execCinv
  repeat' (first | done | simp +contextual (maxDischargeDepth := 99) only [unitRow_kept, Kept.upd, Kept.ite, Kept.foldl, Kept.foldl1, implies_true, Fine.ite, Fine.next, Fine.guard, *] | split | with_reducible apply Kept.foldl | with_reducible apply Kept.foldl1 | (intro _; intros) | with_reducible apply Fine.next | with_reducible apply Fine.guard)
theorem execLlrpk_kept {s₀ : State} (c : Fin 32) (sl : Slot) (w : CmdWord) {s : State} (h_s : s₀.Kept s) :
    Fine s₀ ((cOp w == 0x82) = false) (execLlrpk c sl w s) := by
  unfold execLlrpk
  repeat' (first | done | simp +contextual (maxDischargeDepth := 99) only [unitRow_kept, Kept.upd, Kept.ite, Kept.foldl, Kept.foldl1, implies_true, Fine.ite, Fine.next, Fine.guard, *] | split | with_reducible apply Kept.foldl | with_reducible apply Kept.foldl1 | (intro _; intros) | with_reducible apply Fine.next | with_reducible apply Fine.guard)
theorem State.putEntry_kept {s₀ : State} {s : State} (x : Ctx) (e : CmdEntry) (h_s : s₀.Kept s) :
    s₀.Kept (State.putEntry s x e) := by
  unfold State.putEntry
  repeat' (first | done | simp +contextual (maxDischargeDepth := 99) only [State.setSlot_kept, Kept.upd, Kept.ite, Kept.foldl, Kept.foldl1, implies_true, *] | split | with_reducible apply Kept.foldl | with_reducible apply Kept.foldl1 | (intro _; intros))
theorem State.endEntry_kept {s₀ : State} {s : State} (x : Ctx) (e : CmdEntry) (h_s : s₀.Kept s) :
    s₀.Kept (State.endEntry s x e) := by
  unfold State.endEntry
  repeat' (first | done | simp +contextual (maxDischargeDepth := 99) only [State.setSlot_kept, State.stallRing_kept, State.finish_kept, State.checkDrain_kept, State.atCompletion_kept, State.putEntry_kept, Kept.upd, Kept.ite, Kept.foldl, Kept.foldl1, implies_true, *] | split | with_reducible apply Kept.foldl | with_reducible apply Kept.foldl1 | (intro _; intros))
theorem State.endRound_kept {s₀ : State} {s : State} (x : Ctx) (k : Nat) (h_s : s₀.Kept s) :
    s₀.Kept (State.endRound s x k) := by
  unfold State.endRound
  repeat' (first | done | simp +contextual (maxDischargeDepth := 99) only [State.setSlot_kept, State.finishMark_kept, Kept.upd, Kept.ite, Kept.foldl, Kept.foldl1, implies_true, *] | split | with_reducible apply Kept.foldl | with_reducible apply Kept.foldl1 | (intro _; intros))
theorem State.endMove_kept {s₀ : State} {s : State} (x : Ctx) (h_s : s₀.Kept s) :
    s₀.Kept (State.endMove s x) := by
  unfold State.endMove
  repeat' (first | done | simp +contextual (maxDischargeDepth := 99) only [State.setSlot_kept, State.stallRing_kept, State.finish_kept, State.checkDrain_kept, State.endRound_kept, Kept.upd, Kept.ite, Kept.foldl, Kept.foldl1, implies_true, *] | split | with_reducible apply Kept.foldl | with_reducible apply Kept.foldl1 | (intro _; intros))
theorem execCommandCompletion_kept {s₀ : State} (c : Fin 32) (p : Fin 4) (sl : Slot) (i : Nat) {s : State} (h_s : s₀.Kept s) :
    Fine s₀ False (execCommandCompletion c p sl i s) := by
  unfold execCommandCompletion
  repeat' (first | done | simp +contextual (maxDischargeDepth := 99) only [State.bringOn_kept, State.putEntry_kept, State.endEntry_kept, State.endMove_kept, Kept.upd, Kept.ite, Kept.foldl, Kept.foldl1, implies_true, Fine.ite, Fine.next, Fine.guard, *] | split | with_reducible apply Kept.foldl | with_reducible apply Kept.foldl1 | (intro _; intros) | with_reducible apply Fine.next | with_reducible apply Fine.guard)
theorem execDrainBufferFreed_kept {s₀ : State} (c : Fin 32) (p : Fin 4) (sl : Slot) (i : Nat) {s : State} (h_s : s₀.Kept s) :
    Fine s₀ False (execDrainBufferFreed c p sl i s) := by
  unfold execDrainBufferFreed
  repeat' (first | done | simp +contextual (maxDischargeDepth := 99) only [State.bringOn_kept, State.putEntry_kept, Kept.upd, Kept.ite, Kept.foldl, Kept.foldl1, implies_true, Fine.ite, Fine.next, Fine.guard, *] | split | with_reducible apply Kept.foldl | with_reducible apply Kept.foldl1 | (intro _; intros) | with_reducible apply Fine.next | with_reducible apply Fine.guard)
theorem State.setDeficit_kept {s₀ : State} {s : State} (c : Nat) (p : Nat) (v : Int) (h_s : s₀.Kept s) :
    s₀.Kept (State.setDeficit s c p v) := by
  unfold State.setDeficit
  repeat' (first | done | simp +contextual (maxDischargeDepth := 99) only [State.wr_kept, Kept.upd, Kept.ite, Kept.foldl, Kept.foldl1, implies_true, *] | split | with_reducible apply Kept.foldl | with_reducible apply Kept.foldl1 | (intro _; intros))
theorem State.showSwitch_kept {s₀ : State} {s : State} (c : Nat) (h_s : s₀.Kept s) :
    s₀.Kept (State.showSwitch s c) := by
  unfold State.showSwitch
  repeat' (first | done | simp +contextual (maxDischargeDepth := 99) only [State.sf_kept, Kept.upd, Kept.ite, Kept.foldl, Kept.foldl1, implies_true, *] | split | with_reducible apply Kept.foldl | with_reducible apply Kept.foldl1 | (intro _; intros))
theorem execRound_kept {s₀ : State} (c : Fin 32) {s : State} (h_s : s₀.Kept s) :
    Fine s₀ False (execRound c s) := by
  unfold execRound
  repeat' (first | done | simp +contextual (maxDischargeDepth := 99) only [State.setTc_kept, State.setDeficit_kept, State.showSwitch_kept, Kept.upd, Kept.ite, Kept.foldl, Kept.foldl1, implies_true, Fine.ite, Fine.next, Fine.guard, *] | split | with_reducible apply Kept.foldl | with_reducible apply Kept.foldl1 | (intro _; intros) | with_reducible apply Fine.next | with_reducible apply Fine.guard)
theorem State.chargeEng_kept {s₀ : State} {s : State} (c : Nat) (p : Nat) (eng : Nat) (vec : Nat) (busy : Nat) (h_s : s₀.Kept s) :
    s₀.Kept (State.chargeEng s c p eng vec busy) := by
  unfold State.chargeEng
  repeat' (first | done | simp +contextual (maxDischargeDepth := 99) only [State.wr_kept, State.setDeficit_kept, Kept.upd, Kept.ite, Kept.foldl, Kept.foldl1, implies_true, *] | split | with_reducible apply Kept.foldl | with_reducible apply Kept.foldl1 | (intro _; intros))
theorem State.overrun_kept {s₀ : State} {s : State} (c : Nat) (p : Nat) (h_s : s₀.Kept s) :
    s₀.Kept (State.overrun s c p) := by
  unfold State.overrun
  repeat' (first | done | simp +contextual (maxDischargeDepth := 99) only [State.setFlagIf_kept, State.setSlot_kept, Kept.upd, Kept.ite, Kept.foldl, Kept.foldl1, implies_true, *] | split | with_reducible apply Kept.foldl | with_reducible apply Kept.foldl1 | (intro _; intros))
theorem execSliceEnd_kept {s₀ : State} (c : Fin 32) (eng : Nat) (vec : Nat) (busy : Nat) {s : State} (h_s : s₀.Kept s) :
    Fine s₀ False (execSliceEnd c eng vec busy s) := by
  unfold execSliceEnd
  repeat' (first | done | simp +contextual (maxDischargeDepth := 99) only [State.setTc_kept, State.setDeficit_kept, State.showSwitch_kept, State.chargeEng_kept, State.overrun_kept, Kept.upd, Kept.ite, Kept.foldl, Kept.foldl1, implies_true, Fine.ite, Fine.next, Fine.guard, *] | split | with_reducible apply Kept.foldl | with_reducible apply Kept.foldl1 | (intro _; intros) | with_reducible apply Fine.next | with_reducible apply Fine.guard)
theorem execSwitchLdg_kept {s₀ : State} (c : Fin 32) (eng : Nat) (vec : Nat) (busy : Nat) {s : State} (h_s : s₀.Kept s) :
    Fine s₀ False (execSwitchLdg c eng vec busy s) := by
  unfold execSwitchLdg
  repeat' (first | done | simp +contextual (maxDischargeDepth := 99) only [State.sf_kept, State.event_kept, State.setTc_kept, State.chargeEng_kept, Kept.upd, Kept.ite, Kept.foldl, Kept.foldl1, implies_true, Fine.ite, Fine.next, Fine.guard, *] | split | with_reducible apply Kept.foldl | with_reducible apply Kept.foldl1 | (intro _; intros) | with_reducible apply Fine.next | with_reducible apply Fine.guard)
theorem State.clearSlots_kept {s₀ : State} {s : State} (c : Nat) (p : Nat) (h_s : s₀.Kept s) :
    s₀.Kept (State.clearSlots s c p) := by
  unfold State.clearSlots
  repeat' (first | done | simp +contextual (maxDischargeDepth := 99) only [State.setSlot_kept, Kept.upd, Kept.ite, Kept.foldl, Kept.foldl1, implies_true, *] | split | with_reducible apply Kept.foldl | with_reducible apply Kept.foldl1 | (intro _; intros))
theorem State.dropTables_kept {s₀ : State} {s : State} (c : Nat) (h_s : s₀.Kept s) :
    s₀.Kept (State.dropTables s c) := by
  unfold State.dropTables
  repeat' (first | done | simp +contextual (maxDischargeDepth := 99) only [State.wr_kept, State.setTc_kept, Kept.upd, Kept.ite, Kept.foldl, Kept.foldl1, implies_true, *] | split | with_reducible apply Kept.foldl | with_reducible apply Kept.foldl1 | (intro _; intros))
theorem State.clearCore_kept {s₀ : State} {s : State} (c : Nat) (h_s : s₀.Kept s) :
    s₀.Kept (State.clearCore s c) := by
  unfold State.clearCore
  repeat' (first | done | simp +contextual (maxDischargeDepth := 99) only [State.zero_kept, State.clearPoison_kept, State.clearTiles_kept, State.clearAcc_kept, State.clearBanks_kept, State.clearSlots_kept, State.dropTables_kept, Kept.upd, Kept.ite, Kept.foldl, Kept.foldl1, implies_true, *] | split | with_reducible apply Kept.foldl | with_reducible apply Kept.foldl1 | (intro _; intros))
theorem State.clearPart_kept {s₀ : State} {s : State} (c : Nat) (p : Nat) (l : Nat) (os : Nat × Nat) (acc : Nat × Nat) (tb : Nat × Nat) (h_s : s₀.Kept s) :
    s₀.Kept (State.clearPart s c p l os acc tb) := by
  unfold State.clearPart
  repeat' (first | done | simp +contextual (maxDischargeDepth := 99) only [State.zero_kept, State.clearPoison_kept, State.setTc_kept, State.clearTiles_kept, State.clearAcc_kept, State.dropBanks_kept, State.clearSlots_kept, State.dropTables_kept, Kept.upd, Kept.ite, Kept.foldl, Kept.foldl1, implies_true, *] | split | with_reducible apply Kept.foldl | with_reducible apply Kept.foldl1 | (intro _; intros))
theorem State.clearIbc_kept {s₀ : State} {s : State} (n : Nat) (h_s : s₀.Kept s) :
    s₀.Kept (State.clearIbc s n) := by
  have h := State.clearPoison_kept (iamAddr n) 0x40000 (State.zero_kept (iamAddr n) 0x40000 h_s)
  unfold State.clearIbc
  dsimp only
  refine State.sf_kept _ _ _ ⟨h.pending, fun x => ?_⟩
  have c := h.canon x
  exact ⟨twf_tclear _ _ _ _ (twf_tclear _ _ _ _ c.regs), c.mem, c.host, c.flash, c.poison, c.tags⟩
theorem State.clearGranule_kept {s₀ : State} {s : State} (a : Nat) (h_s : s₀.Kept s) :
    s₀.Kept (State.clearGranule s a) := by
  unfold State.clearGranule
  repeat' (first | done | simp +contextual (maxDischargeDepth := 99) only [State.zero_kept, State.clearPoison_kept, Kept.upd, Kept.ite, Kept.foldl, Kept.foldl1, implies_true, *] | split | with_reducible apply Kept.foldl | with_reducible apply Kept.foldl1 | (intro _; intros))
theorem State.clearAll_kept {s₀ : State} {s : State} (l : Nat) (h_s : s₀.Kept s) :
    s₀.Kept (State.clearAll s l) := by
  unfold State.clearAll
  repeat' (first | done | simp +contextual (maxDischargeDepth := 99) only [State.clearBlock_kept, State.clearCore_kept, State.clearPart_kept, State.clearIbc_kept, State.clearGranule_kept, Kept.upd, Kept.ite, Kept.foldl, Kept.foldl1, implies_true, *] | split | with_reducible apply Kept.foldl | with_reducible apply Kept.foldl1 | (intro _; intros))
theorem State.dropPools_kept {s₀ : State} {s : State} (l : Nat) (h_s : s₀.Kept s) :
    s₀.Kept (State.dropPools s l) := by
  unfold State.dropPools
  repeat' (first | done | simp +contextual (maxDischargeDepth := 99) only [State.pfxDropLodging_kept, Kept.upd, Kept.ite, Kept.foldl, Kept.foldl1, implies_true, *] | split | with_reducible apply Kept.foldl | with_reducible apply Kept.foldl1 | (intro _; intros))
theorem State.wbReject_kept {s₀ : State} {s : State} (l : Nat) (w : Wb) (st : Nat) (h_s : s₀.Kept s) :
    s₀.Kept (State.wbReject s l w st) := by
  unfold State.wbReject
  repeat' (first | done | simp +contextual (maxDischargeDepth := 99) only [State.setFlag_kept, State.wbDone_kept, Kept.upd, Kept.ite, Kept.foldl, Kept.foldl1, implies_true, *] | split | with_reducible apply Kept.foldl | with_reducible apply Kept.foldl1 | (intro _; intros))
theorem State.takeWaybill_kept {s₀ : State} {s : State} (l : Nat) (e : Sub) (no : Nat) (h_s : s₀.Kept s) :
    s₀.Kept (State.takeWaybill s l e no) := by
  unfold State.takeWaybill
  repeat' (first | done | simp +contextual (maxDischargeDepth := 99) only [State.getBytes_kept, State.setLodge_kept, State.wbReject_kept, Kept.upd, Kept.ite, Kept.foldl, Kept.foldl1, implies_true, *] | split | with_reducible apply Kept.foldl | with_reducible apply Kept.foldl1 | (intro _; intros))
theorem execWaybill_kept {s₀ : State} (l : Fin 16) {s : State} (h_s : s₀.Kept s) :
    Fine s₀ False (execWaybill l s) := by
  unfold execWaybill
  repeat' (first | done | simp +contextual (maxDischargeDepth := 99) only [State.refuseSub_kept, subRow_kept, State.takeWaybill_kept, Kept.upd, Kept.ite, Kept.foldl, Kept.foldl1, implies_true, Fine.ite, Fine.next, Fine.guard, *] | split | with_reducible apply Kept.foldl | with_reducible apply Kept.foldl1 | (intro _; intros) | with_reducible apply subRow_kept | with_reducible apply Fine.next | with_reducible apply Fine.guard)
theorem State.wbFinish_kept {s₀ : State} {s : State} (l : Nat) (w : Wb) (h_s : s₀.Kept s) :
    s₀.Kept (State.wbFinish s l w) := by
  unfold State.wbFinish
  repeat' (first | done | simp +contextual (maxDischargeDepth := 99) only [State.setSlot_kept, State.signal_kept, State.setLodge_kept, State.marker_kept, State.wbDone_kept, State.dropAttach_kept, State.leaveDebug_kept, State.freeBatches_kept, Kept.upd, Kept.ite, Kept.foldl, Kept.foldl1, implies_true, *] | split | with_reducible apply Kept.foldl | with_reducible apply Kept.foldl1 | (intro _; intros))
theorem State.startSlot_kept {s₀ : State} {s : State} (l : Nat) (e : WbSlot) (h_s : s₀.Kept s) :
    s₀.Kept (State.startSlot s l e) := by
  unfold State.startSlot
  repeat' (first | done | simp +contextual (maxDischargeDepth := 99) only [State.setSlot_kept, Kept.upd, Kept.ite, Kept.foldl, Kept.foldl1, implies_true, *] | split | with_reducible apply Kept.foldl | with_reducible apply Kept.foldl1 | (intro _; intros))
theorem State.rotsFresh_kept {s₀ : State} {s : State} (l : Nat) (h_s : s₀.Kept s) :
    s₀.Kept (State.rotsFresh s l) := by
  unfold State.rotsFresh
  repeat' (first | done | simp +contextual (maxDischargeDepth := 99) only [State.setTc_kept, Kept.upd, Kept.ite, Kept.foldl, Kept.foldl1, implies_true, *] | split | with_reducible apply Kept.foldl | with_reducible apply Kept.foldl1 | (intro _; intros))
theorem execDispatch_kept {s₀ : State} (l : Fin 16) {s : State} (h_s : s₀.Kept s) :
    Fine s₀ False (execDispatch l s) := by
  unfold execDispatch
  repeat' (first | done | simp +contextual (maxDischargeDepth := 99) only [State.fillBuckets_kept, State.formBatch_kept, State.setLodge_kept, State.marker_kept, State.teardown_kept, State.ibStart_kept, State.pump_kept, State.wbReject_kept, State.wbFinish_kept, State.startSlot_kept, State.rotsFresh_kept, Kept.upd, Kept.ite, Kept.foldl, Kept.foldl1, implies_true, Fine.ite, Fine.next, Fine.guard, *] | split | with_reducible apply Kept.foldl | with_reducible apply Kept.foldl1 | (intro _; intros) | with_reducible apply Fine.next | with_reducible apply Fine.guard)
theorem execWaybillEnd_kept {s₀ : State} (l : Fin 16) {s : State} (h_s : s₀.Kept s) :
    Fine s₀ False (execWaybillEnd l s) := by
  unfold execWaybillEnd
  repeat' (first | done | simp +contextual (maxDischargeDepth := 99) only [State.wbFinish_kept, Kept.upd, Kept.ite, Kept.foldl, Kept.foldl1, implies_true, Fine.ite, Fine.next, Fine.guard, *] | split | with_reducible apply Kept.foldl | with_reducible apply Kept.foldl1 | (intro _; intros) | with_reducible apply Fine.next | with_reducible apply Fine.guard)
theorem execLimitExpiry_kept {s₀ : State} (l : Fin 16) {s : State} (h_s : s₀.Kept s) :
    Fine s₀ False (execLimitExpiry l s) := by
  unfold execLimitExpiry
  repeat' (first | done | simp +contextual (maxDischargeDepth := 99) only [State.teardown_kept, Kept.upd, Kept.ite, Kept.foldl, Kept.foldl1, implies_true, Fine.ite, Fine.next, Fine.guard, *] | split | with_reducible apply Kept.foldl | with_reducible apply Kept.foldl1 | (intro _; intros) | with_reducible apply Fine.next | with_reducible apply Fine.guard)
theorem State.cancel_kept {s₀ : State} {s : State} (who : Requester) (l : Nat) (h_s : s₀.Kept s) :
    s₀.Kept (State.cancel s who l) := by
  unfold State.cancel
  repeat' (first | done | simp +contextual (maxDischargeDepth := 99) only [State.teardown_kept, Kept.upd, Kept.ite, Kept.foldl, Kept.foldl1, implies_true, *] | split | with_reducible apply Kept.foldl | with_reducible apply Kept.foldl1 | (intro _; intros))
theorem execCancel_kept {s₀ : State} (who : Requester) (l : Fin 16) {s : State} (h_s : s₀.Kept s) :
    Fine s₀ False (execCancel who l s) := by
  unfold execCancel
  repeat' (first | done | simp +contextual (maxDischargeDepth := 99) only [State.asWrite_kept, State.cancel_kept, Kept.upd, Kept.ite, Kept.foldl, Kept.foldl1, implies_true, Fine.ite, Fine.next, Fine.guard, *] | split | with_reducible apply Kept.foldl | with_reducible apply Kept.foldl1 | (intro _; intros) | with_reducible apply State.asWrite_kept | with_reducible apply Fine.next | with_reducible apply Fine.guard)
theorem State.dropQueue_kept {s₀ : State} {s : State} (l : Nat) (cause : Nat) (h_s : s₀.Kept s) :
    s₀.Kept (State.dropQueue s l cause) := by
  unfold State.dropQueue
  repeat' (first | done | simp +contextual (maxDischargeDepth := 99) only [State.setLodge_kept, State.wbDone_kept, Kept.upd, Kept.ite, Kept.foldl, Kept.foldl1, implies_true, *] | split | with_reducible apply Kept.foldl | with_reducible apply Kept.foldl1 | (intro _; intros))
theorem State.partialReset_kept {s₀ : State} {s : State} (l : Nat) (h_s : s₀.Kept s) :
    s₀.Kept (State.partialReset s l) := by
  unfold State.partialReset
  repeat' (first | done | simp +contextual (maxDischargeDepth := 99) only [State.teardown_kept, State.clearAll_kept, State.dropPools_kept, State.dropQueue_kept, Kept.upd, Kept.ite, Kept.foldl, Kept.foldl1, implies_true, *] | split | with_reducible apply Kept.foldl | with_reducible apply Kept.foldl1 | (intro _; intros))
theorem State.ldgReset_kept {s₀ : State} {s : State} (who : Requester) (l : Nat) (h_s : s₀.Kept s) :
    s₀.Kept (State.ldgReset s who l) := by
  unfold State.ldgReset
  repeat' (first | done | simp +contextual (maxDischargeDepth := 99) only [State.deny_kept, State.partialReset_kept, Kept.upd, Kept.ite, Kept.foldl, Kept.foldl1, implies_true, *] | split | with_reducible apply Kept.foldl | with_reducible apply Kept.foldl1 | (intro _; intros))
theorem execLdgReset_kept {s₀ : State} (who : Requester) (l : Fin 16) {s : State} (h_s : s₀.Kept s) :
    Fine s₀ False (execLdgReset who l s) := by
  unfold execLdgReset
  repeat' (first | done | simp +contextual (maxDischargeDepth := 99) only [State.asWrite_kept, State.ldgReset_kept, Kept.upd, Kept.ite, Kept.foldl, Kept.foldl1, implies_true, Fine.ite, Fine.next, Fine.guard, *] | split | with_reducible apply Kept.foldl | with_reducible apply Kept.foldl1 | (intro _; intros) | with_reducible apply State.asWrite_kept | with_reducible apply Fine.next | with_reducible apply Fine.guard)
theorem State.setTb_kept {s₀ : State} {s : State} (n : Nat) (f : TimeBase → TimeBase) (h_s : s₀.Kept s) :
    s₀.Kept (State.setTb s n f) := by
  unfold State.setTb
  repeat' (first | done | simp +contextual (maxDischargeDepth := 99) only [Kept.upd, Kept.ite, Kept.foldl, Kept.foldl1, implies_true, *] | split | with_reducible apply Kept.foldl | with_reducible apply Kept.foldl1 | (intro _; intros))
theorem State.asOf_kept {s₀ : State} {s : State} (o : SlotOrd) (h_s : s₀.Kept s) :
    s₀.Kept (State.asOf s o) := by
  unfold State.asOf
  repeat' (first | done | simp +contextual (maxDischargeDepth := 99) only [State.wr_kept, Kept.upd, Kept.ite, Kept.foldl, Kept.foldl1, implies_true, *] | split | with_reducible apply Kept.foldl | with_reducible apply Kept.foldl1 | (intro _; intros))
theorem State.readRows_kept {s₀ : State} {s : State} (l : Nat) (a : Nat) (stride : Nat) (n : Nat) (k : Nat) (h_s : s₀.Kept s) :
    s₀.Kept (State.readRows s l a stride n k).1 := by
  unfold State.readRows
  repeat' (first | done | simp +contextual (maxDischargeDepth := 99) only [State.getBytes_kept, State.tierCharge_kept, Kept.upd, Kept.ite, Kept.foldl, Kept.foldl1, implies_true, *] | split | with_reducible apply Kept.foldl | with_reducible apply Kept.foldl1 | (intro _; intros))
theorem State.orderCheck_kept {s₀ : State} {s : State} (l : Nat) (no : Nat) (idx : Nat) (reg : Nat) (off : Nat) (h_s : s₀.Kept s) :
    s₀.Kept (State.orderCheck s l no idx reg off).1 := by
  unfold State.orderCheck
  dsimp only
  have h1 := fun a b => State.getBytes_kept l a 64 (State.tierCharge_kept l .air b 64 false h_s)
  repeat' (first | exact h_s | (exact h1 _ _) | (exact State.readRows_kept _ _ _ _ _ (State.readRows_kept _ _ _ _ _ (h1 _ _))) | split)
theorem State.orderResult_kept {s₀ : State} {s : State} (o : SlotOrd) (st : Nat) (h_s : s₀.Kept s) :
    s₀.Kept (State.orderResult s o st) := by
  unfold State.orderResult
  repeat' (first | done | simp +contextual (maxDischargeDepth := 99) only [State.hostDone_kept, Kept.upd, Kept.ite, Kept.foldl, Kept.foldl1, implies_true, *] | split | with_reducible apply Kept.foldl | with_reducible apply Kept.foldl1 | (intro _; intros))
theorem State.dropOrder_kept {s₀ : State} {s : State} (a : Nat) (o : SlotOrd) (h_s : s₀.Kept s) :
    s₀.Kept (State.dropOrder s a o) := by
  unfold State.dropOrder
  repeat' (first | done | simp +contextual (maxDischargeDepth := 99) only [State.setCar_kept, Kept.upd, Kept.ite, Kept.foldl, Kept.foldl1, implies_true, *] | split | with_reducible apply Kept.foldl | with_reducible apply Kept.foldl1 | (intro _; intros))
theorem State.setOrder_kept {s₀ : State} {s : State} (o : SlotOrd) (h_s : s₀.Kept s) :
    s₀.Kept (State.setOrder s o) := by
  unfold State.setOrder
  repeat' (first | done | simp +contextual (maxDischargeDepth := 99) only [State.setCar_kept, Kept.upd, Kept.ite, Kept.foldl, Kept.foldl1, implies_true, *] | split | with_reducible apply Kept.foldl | with_reducible apply Kept.foldl1 | (intro _; intros))
theorem State.takeOrder_kept {s₀ : State} {s : State} (l : Nat) (no : Nat) (idx : Nat) (reg : Nat) (off : Nat) (h_s : s₀.Kept s) :
    s₀.Kept (State.takeOrder s l no idx reg off) := by
  unfold State.takeOrder
  repeat' (first | done | simp +contextual (maxDischargeDepth := 99) only [State.setFlag_kept, State.countStatus_kept, State.put_kept, State.setCar_kept, State.orderCheck_kept, State.orderResult_kept, Kept.upd, Kept.ite, Kept.foldl, Kept.foldl1, implies_true, *] | split | with_reducible apply Kept.foldl | with_reducible apply Kept.foldl1 | (intro _; intros))
theorem execSlotOrder_kept {s₀ : State} (l : Fin 16) {s : State} (h_s : s₀.Kept s) :
    Fine s₀ False (execSlotOrder l s) := by
  unfold execSlotOrder
  repeat' (first | done | simp +contextual (maxDischargeDepth := 99) only [State.takeOrder_kept, Kept.upd, Kept.ite, Kept.foldl, Kept.foldl1, implies_true, Fine.ite, Fine.next, Fine.guard, *] | split | with_reducible apply Kept.foldl | with_reducible apply Kept.foldl1 | (intro _; intros) | with_reducible apply Fine.next | with_reducible apply Fine.guard)
theorem execSlotOrderEntry_kept {s₀ : State} (l : Fin 16) {s : State} (h_s : s₀.Kept s) :
    Fine s₀ False (execSlotOrderEntry l s) := by
  unfold execSlotOrderEntry
  repeat' (first | done | simp +contextual (maxDischargeDepth := 99) only [State.refuseSub_kept, subRow_kept, Kept.upd, Kept.ite, Kept.foldl, Kept.foldl1, implies_true, Fine.ite, Fine.next, Fine.guard, *] | split | with_reducible apply Kept.foldl | with_reducible apply Kept.foldl1 | (intro _; intros) | with_reducible apply subRow_kept | with_reducible apply Fine.next | with_reducible apply Fine.guard)
theorem State.setTensor_kept {s₀ : State} {s : State} (o : SlotOrd) (t : Nat) (f : Nat → Nat) (h_s : s₀.Kept s) :
    s₀.Kept (State.setTensor s o t f) := by
  unfold State.setTensor
  repeat' (first | done | simp +contextual (maxDischargeDepth := 99) only [State.put_kept, Kept.upd, Kept.ite, Kept.foldl, Kept.foldl1, implies_true, *] | split | with_reducible apply Kept.foldl | with_reducible apply Kept.foldl1 | (intro _; intros))
theorem State.stage2_kept {s₀ : State} {s : State} (o : SlotOrd) (h_s : s₀.Kept s) :
    s₀.Kept (State.stage2 s o) := by
  unfold State.stage2
  repeat' (first | done | simp +contextual (maxDischargeDepth := 99) only [State.setTensor_kept, Kept.upd, Kept.ite, Kept.foldl, Kept.foldl1, implies_true, *] | split | with_reducible apply Kept.foldl | with_reducible apply Kept.foldl1 | (intro _; intros))
theorem State.stage4_kept {s₀ : State} {s : State} (o : SlotOrd) (h_s : s₀.Kept s) :
    s₀.Kept (State.stage4 s o) := by
  unfold State.stage4
  repeat' (first | done | simp +contextual (maxDischargeDepth := 99) only [State.setTensor_kept, Kept.upd, Kept.ite, Kept.foldl, Kept.foldl1, implies_true, *] | split | with_reducible apply Kept.foldl | with_reducible apply Kept.foldl1 | (intro _; intros))
theorem State.stage5_kept {s₀ : State} {s : State} (o : SlotOrd) (h_s : s₀.Kept s) :
    s₀.Kept (State.stage5 s o) := by
  unfold State.stage5
  repeat' (first | done | simp +contextual (maxDischargeDepth := 99) only [State.setTensor_kept, Kept.upd, Kept.ite, Kept.foldl, Kept.foldl1, implies_true, *] | split | with_reducible apply Kept.foldl | with_reducible apply Kept.foldl1 | (intro _; intros))
theorem State.correct_kept {s₀ : State} {s : State} (o : SlotOrd) (h_s : s₀.Kept s) :
    s₀.Kept (State.correct s o) := by
  unfold State.correct
  repeat' (first | done | simp +contextual (maxDischargeDepth := 99) only [State.setTensor_kept, Kept.upd, Kept.ite, Kept.foldl, Kept.foldl1, implies_true, *] | split | with_reducible apply Kept.foldl | with_reducible apply Kept.foldl1 | (intro _; intros))
theorem State.stage6_kept {s₀ : State} {s : State} (o : SlotOrd) (i : Nat) (b : Blk) (h_s : s₀.Kept s) :
    s₀.Kept (State.stage6 s o i b) := by
  unfold State.stage6
  repeat' (first | done | simp +contextual (maxDischargeDepth := 99) only [State.put_kept, Kept.upd, Kept.ite, Kept.foldl, Kept.foldl1, implies_true, *] | split | with_reducible apply Kept.foldl | with_reducible apply Kept.foldl1 | (intro _; intros))
theorem State.stageWork_kept {s₀ : State} {s : State} (o : SlotOrd) (k : Nat) (h_s : s₀.Kept s) :
    s₀.Kept (State.stageWork s o k) := by
  unfold State.stageWork
  repeat' (first | done | simp +contextual (maxDischargeDepth := 99) only [State.stage2_kept, State.stage4_kept, State.stage5_kept, State.correct_kept, State.stage6_kept, Kept.upd, Kept.ite, Kept.foldl, Kept.foldl1, implies_true, *] | split | with_reducible apply Kept.foldl | with_reducible apply Kept.foldl1 | (intro _; intros))
theorem State.slotCfg_kept {s₀ : State} {s : State} (a : Nat) (sfn : Nat) (slot : Nat) (h_s : s₀.Kept s) :
    s₀.Kept (State.slotCfg s a sfn slot) := by
  unfold State.slotCfg
  repeat' (first | done | simp +contextual (maxDischargeDepth := 99) only [State.asOf_kept, Kept.upd, Kept.ite, Kept.foldl, Kept.foldl1, implies_true, *] | split | with_reducible apply Kept.foldl | with_reducible apply Kept.foldl1 | (intro _; intros))
theorem State.seqCheck_kept {s₀ : State} {s : State} (a : Nat) (st : Nat) (seq : Nat) (h_s : s₀.Kept s) :
    s₀.Kept (State.seqCheck s a st seq) := by
  unfold State.seqCheck
  repeat' (first | done | simp +contextual (maxDischargeDepth := 99) only [State.setFlagIf_kept, Kept.upd, Kept.ite, Kept.foldl, Kept.foldl1, implies_true, *] | split | with_reducible apply Kept.foldl | with_reducible apply Kept.foldl1 | (intro _; intros))
theorem State.storePrb_kept {s₀ : State} {s : State} (l : Nat) (a : Nat) (st : Nat) (k : Nat) (w : Nat) (p : Nat) (d : List Byte) (h_s : s₀.Kept s) :
    s₀.Kept (State.storePrb s l a st k w p d) := by
  unfold State.storePrb
  repeat' (first | done | simp +contextual (maxDischargeDepth := 99) only [State.setFlagIf_kept, State.put_kept, Kept.upd, Kept.ite, Kept.foldl, Kept.foldl1, implies_true, *] | split | with_reducible apply Kept.foldl | with_reducible apply Kept.foldl1 | (intro _; intros))
theorem State.ingest_kept {s₀ : State} {s : State} (o : SlotOrd) (st : Nat) (k : Nat) (w : Nat) (p0 : Nat) (d : List Byte) (h_s : s₀.Kept s) :
    s₀.Kept (State.ingest s o st k w p0 d) := by
  unfold State.ingest
  repeat' (first | done | simp +contextual (maxDischargeDepth := 99) only [State.asOf_kept, State.setOrder_kept, State.storePrb_kept, Kept.upd, Kept.ite, Kept.foldl, Kept.foldl1, implies_true, *] | split | with_reducible apply Kept.foldl | with_reducible apply Kept.foldl1 | (intro _; intros))
theorem State.uplane_kept {s₀ : State} {s : State} (a : Nat) (st : Nat) (sfn : Nat) (slot : Nat) (k : Nat) (w : Nat) (p0 : Nat) (d : List Byte) (h_s : s₀.Kept s) :
    s₀.Kept (State.uplane s a st sfn slot k w p0 d) := by
  unfold State.uplane
  repeat' (first | done | simp +contextual (maxDischargeDepth := 99) only [State.setFlag_kept, State.setFlagIf_kept, State.slotCfg_kept, State.ingest_kept, Kept.upd, Kept.ite, Kept.foldl, Kept.foldl1, implies_true, *] | split | with_reducible apply Kept.foldl | with_reducible apply Kept.foldl1 | (intro _; intros))
theorem execFhUplaneRx_kept {s₀ : State} (p : Fin 12) (bad : Bool) (frame : FhFrame) (ty : Nat) (eaxc : Nat) (seq : Nat) (sfn : Fin 1024) (slot : Fin 80) (k : Fin 14) (prb0 : Nat) (meth : Nat) (width : Nat) (data : List Byte) {s : State} (h_s : s₀.Kept s) :
    Fine s₀ False (execFhUplaneRx p bad frame ty eaxc seq sfn slot k prb0 meth width data s) := by
  unfold execFhUplaneRx
  repeat' (first | done | simp +contextual (maxDischargeDepth := 99) only [State.event_kept, State.setFlag_kept, State.slotCfg_kept, State.seqCheck_kept, State.uplane_kept, Kept.upd, Kept.ite, Kept.foldl, Kept.foldl1, implies_true, Fine.ite, Fine.next, Fine.guard, *] | split | with_reducible apply Kept.foldl | with_reducible apply Kept.foldl1 | (intro _; intros) | with_reducible apply Fine.next | with_reducible apply Fine.guard)
theorem State.symDone_kept {s₀ : State} {s : State} (o : SlotOrd) (k : Nat) (h_s : s₀.Kept s) :
    s₀.Kept (State.symDone s o k) := by
  unfold State.symDone
  repeat' (first | done | simp +contextual (maxDischargeDepth := 99) only [State.signal_kept, State.asOf_kept, State.setOrder_kept, Kept.upd, Kept.ite, Kept.foldl, Kept.foldl1, implies_true, *] | split | with_reducible apply Kept.foldl | with_reducible apply Kept.foldl1 | (intro _; intros))
theorem execArrMaxExpiry_kept {s₀ : State} (a : Fin 8) (sfn : Fin 1024) (slot : Fin 80) (k : Fin 14) {s : State} (h_s : s₀.Kept s) :
    Fine s₀ False (execArrMaxExpiry a sfn slot k s) := by
  unfold execArrMaxExpiry
  repeat' (first | done | simp +contextual (maxDischargeDepth := 99) only [State.setFlagIf_kept, State.put_kept, State.asOf_kept, State.symDone_kept, Kept.upd, Kept.ite, Kept.foldl, Kept.foldl1, implies_true, Fine.ite, Fine.next, Fine.guard, *] | split | with_reducible apply Kept.foldl | with_reducible apply Kept.foldl1 | (intro _; intros) | with_reducible apply Fine.next | with_reducible apply Fine.guard)
theorem State.lateIf_kept {s₀ : State} {s : State} (o : SlotOrd) (began : Nat) (win : Nat) (h_s : s₀.Kept s) :
    s₀.Kept (State.lateIf s o began win) := by
  unfold State.lateIf
  repeat' (first | done | simp +contextual (maxDischargeDepth := 99) only [State.event_kept, State.setFlag_kept, Kept.upd, Kept.ite, Kept.foldl, Kept.foldl1, implies_true, *] | split | with_reducible apply Kept.foldl | with_reducible apply Kept.foldl1 | (intro _; intros))
theorem State.trackLost_kept {s₀ : State} {s : State} (a : Nat) (h_s : s₀.Kept s) :
    s₀.Kept (State.trackLost s a) := by
  unfold State.trackLost
  repeat' (first | done | simp +contextual (maxDischargeDepth := 99) only [State.setFlag_kept, State.acquire_kept, Kept.upd, Kept.ite, Kept.foldl, Kept.foldl1, implies_true, *] | split | with_reducible apply Kept.foldl | with_reducible apply Kept.foldl1 | (intro _; intros))
theorem State.track_kept {s₀ : State} {s : State} (a : Nat) (start : Nat) (pilots : Bool) (res : Int) (h_s : s₀.Kept s) :
    s₀.Kept (State.track s a start pilots res) := by
  unfold State.track
  repeat' (first | done | simp +contextual (maxDischargeDepth := 99) only [State.sf_kept, State.setCar_kept, State.trackLost_kept, Kept.upd, Kept.ite, Kept.foldl, Kept.foldl1, implies_true, *] | split | with_reducible apply Kept.foldl | with_reducible apply Kept.foldl1 | (intro _; intros))
theorem State.softCharge_kept {s₀ : State} {s : State} (l : Nat) (n : Nat) (wr : Bool) (h_s : s₀.Kept s) :
    s₀.Kept (State.softCharge s l n wr) := by
  unfold State.softCharge
  repeat' (first | done | simp +contextual (maxDischargeDepth := 99) only [State.wr_kept, State.tierCharge_kept, Kept.upd, Kept.ite, Kept.foldl, Kept.foldl1, implies_true, *] | split | with_reducible apply Kept.foldl | with_reducible apply Kept.foldl1 | (intro _; intros))
theorem State.softEnd_kept {s₀ : State} {s : State} (o : SlotOrd) (b : Blk) (st : Nat) (h_s : s₀.Kept s) :
    s₀.Kept (State.softEnd s o b st) := by
  unfold State.softEnd
  repeat' (first | done | simp +contextual (maxDischargeDepth := 99) only [State.put_kept, State.getBytes_kept, State.softCharge_kept, Kept.upd, Kept.ite, Kept.foldl, Kept.foldl1, implies_true, *] | split | with_reducible apply Kept.foldl | with_reducible apply Kept.foldl1 | (intro _; intros))
theorem State.deliver_kept {s₀ : State} {s : State} (o : SlotOrd) (i : Nat) (b : Blk) (st : Nat) (h_s : s₀.Kept s) :
    s₀.Kept (State.deliver s o i b st) := by
  unfold State.deliver
  repeat' (first | done | simp +contextual (maxDischargeDepth := 99) only [State.event_kept, State.countStatus_kept, State.put_kept, State.take_kept, State.tierCharge_kept, State.hold_kept, State.softEnd_kept, Kept.upd, Kept.ite, Kept.foldl, Kept.foldl1, implies_true, *] | split | with_reducible apply Kept.foldl | with_reducible apply Kept.foldl1 | (intro _; intros))
theorem State.deliverAll_kept {s₀ : State} {s : State} (o : SlotOrd) (force : Option Nat) (h_s : s₀.Kept s) :
    s₀.Kept (State.deliverAll s o force) := by
  unfold State.deliverAll
  repeat' (first | done | simp +contextual (maxDischargeDepth := 99) only [State.closeEntry_kept, State.deliver_kept, Kept.upd, Kept.ite, Kept.foldl, Kept.foldl1, implies_true, *] | split | with_reducible apply Kept.foldl | with_reducible apply Kept.foldl1 | (intro _; intros))
theorem State.dropEngines_kept {s₀ : State} {s : State} (o : SlotOrd) (h_s : s₀.Kept s) :
    s₀.Kept (State.dropEngines s o) := by
  unfold State.dropEngines
  repeat' (first | done | simp +contextual (maxDischargeDepth := 99) only [State.sf_kept, Kept.upd, Kept.ite, Kept.foldl, Kept.foldl1, implies_true, *] | split | with_reducible apply Kept.foldl | with_reducible apply Kept.foldl1 | (intro _; intros))
theorem State.setSlack_kept {s₀ : State} {s : State} (o : SlotOrd) (h_s : s₀.Kept s) :
    s₀.Kept (State.setSlack s o) := by
  unfold State.setSlack
  repeat' (first | done | simp +contextual (maxDischargeDepth := 99) only [State.sf_kept, Kept.upd, Kept.ite, Kept.foldl, Kept.foldl1, implies_true, *] | split | with_reducible apply Kept.foldl | with_reducible apply Kept.foldl1 | (intro _; intros))
theorem State.ulFinish_kept {s₀ : State} {s : State} (o : SlotOrd) (force : Option Nat) (h_s : s₀.Kept s) :
    s₀.Kept (State.ulFinish s o force) := by
  unfold State.ulFinish
  repeat' (first | done | simp +contextual (maxDischargeDepth := 99) only [State.event_kept, State.signal_kept, State.asOf_kept, State.dropOrder_kept, State.deliverAll_kept, State.dropEngines_kept, State.setSlack_kept, Kept.upd, Kept.ite, Kept.foldl, Kept.foldl1, implies_true, *] | split | with_reducible apply Kept.foldl | with_reducible apply Kept.foldl1 | (intro _; intros))
theorem State.stageEnd_kept {s₀ : State} {s : State} (o : SlotOrd) (k : Nat) (began : Nat) (h_s : s₀.Kept s) :
    s₀.Kept (State.stageEnd s o k began) := by
  unfold State.stageEnd
  repeat' (first | done | simp +contextual (maxDischargeDepth := 99) only [State.signal_kept, State.asOf_kept, State.setOrder_kept, State.stageWork_kept, State.lateIf_kept, Kept.upd, Kept.ite, Kept.foldl, Kept.foldl1, implies_true, *] | split | with_reducible apply Kept.foldl | with_reducible apply Kept.foldl1 | (intro _; intros))
theorem State.offsets_kept {s₀ : State} {s : State} (o : SlotOrd) (foff : Int) (sroff : Int) (h_s : s₀.Kept s) :
    s₀.Kept (State.offsets s o foff sroff) := by
  unfold State.offsets
  repeat' (first | done | simp +contextual (maxDischargeDepth := 99) only [State.wr_kept, Kept.upd, Kept.ite, Kept.foldl, Kept.foldl1, implies_true, *] | split | with_reducible apply Kept.foldl | with_reducible apply Kept.foldl1 | (intro _; intros))
theorem execUplinkStageEnd_kept {s₀ : State} (a : Fin 8) (sfn : Fin 1024) (slot : Fin 80) (k : Fin 9) (sym : Fin 14) (res : Int) (foff : Int) (sroff : Int) {s : State} (h_s : s₀.Kept s) :
    Fine s₀ False (execUplinkStageEnd a sfn slot k sym res foff sroff s) := by
  unfold execUplinkStageEnd
  repeat' (first | done | simp +contextual (maxDischargeDepth := 99) only [State.asOf_kept, State.symDone_kept, State.lateIf_kept, State.track_kept, State.ulFinish_kept, State.stageEnd_kept, State.offsets_kept, Kept.upd, Kept.ite, Kept.foldl, Kept.foldl1, implies_true, Fine.ite, Fine.next, Fine.guard, *] | split | with_reducible apply Kept.foldl | with_reducible apply Kept.foldl1 | (intro _; intros) | with_reducible apply Fine.next | with_reducible apply Fine.guard)
theorem execDeadline_kept {s₀ : State} (a : Fin 8) (sfn : Fin 1024) (slot : Fin 80) {s : State} (h_s : s₀.Kept s) :
    Fine s₀ False (execDeadline a sfn slot s) := by
  unfold execDeadline
  repeat' (first | done | simp +contextual (maxDischargeDepth := 99) only [State.setFlagIf_kept, State.ulFinish_kept, Kept.upd, Kept.ite, Kept.foldl, Kept.foldl1, implies_true, Fine.ite, Fine.next, Fine.guard, *] | split | with_reducible apply Kept.foldl | with_reducible apply Kept.foldl1 | (intro _; intros) | with_reducible apply Fine.next | with_reducible apply Fine.guard)
theorem State.reacq_kept {s₀ : State} {s : State} (a : Nat) (h_s : s₀.Kept s) :
    s₀.Kept (State.reacq s a) := by
  unfold State.reacq
  repeat' (first | done | simp +contextual (maxDischargeDepth := 99) only [State.acquire_kept, Kept.upd, Kept.ite, Kept.foldl, Kept.foldl1, implies_true, *] | split | with_reducible apply Kept.foldl | with_reducible apply Kept.foldl1 | (intro _; intros))
theorem execReacq_kept {s₀ : State} (who : Requester) (a : Fin 8) {s : State} (h_s : s₀.Kept s) :
    Fine s₀ False (execReacq who a s) := by
  unfold execReacq
  repeat' (first | done | simp +contextual (maxDischargeDepth := 99) only [State.asWrite_kept, State.reacq_kept, Kept.upd, Kept.ite, Kept.foldl, Kept.foldl1, implies_true, Fine.ite, Fine.next, Fine.guard, *] | split | with_reducible apply Kept.foldl | with_reducible apply Kept.foldl1 | (intro _; intros) | with_reducible apply State.asWrite_kept | with_reducible apply Fine.next | with_reducible apply Fine.guard)
theorem State.endSlots_kept {s₀ : State} {s : State} (a : Nat) (begun : SlotOrd → Bool) (h_s : s₀.Kept s) :
    s₀.Kept (State.endSlots s a begun) := by
  unfold State.endSlots
  repeat' (first | done | simp +contextual (maxDischargeDepth := 99) only [State.orderResult_kept, State.dropOrder_kept, State.ulFinish_kept, Kept.upd, Kept.ite, Kept.foldl, Kept.foldl1, implies_true, *] | split | with_reducible apply Kept.foldl | with_reducible apply Kept.foldl1 | (intro _; intros))
theorem State.carStep_kept {s₀ : State} {s : State} (t : Nat) (before : Nat) (h_s : s₀.Kept s) :
    s₀.Kept (State.carStep s t before) := by
  unfold State.carStep
  repeat' (first | done | simp +contextual (maxDischargeDepth := 99) only [State.setFlag_kept, State.acquire_kept, State.endSlots_kept, Kept.upd, Kept.ite, Kept.foldl, Kept.foldl1, implies_true, *] | split | with_reducible apply Kept.foldl | with_reducible apply Kept.foldl1 | (intro _; intros))

end Sys2Proof.Machine
end

