-- ==== Sys2Proof/Laws/KeptUnits.lean ====
section
/-! SUPPORT. What every operation keeps, the queue and the canonical form of the tables: decoders, the downlink, timing commands, PTP, power domains, sample decoders, checks, the retry rule, slot debug. One lemma for
each operation. -/
namespace Sys2Proof.Machine
open Sys2Proof
set_option linter.unusedSimpArgs false
set_option linter.unusedVariables false

theorem State.setEng_kept {s₀ : State} {s : State} (p : Nat) (j : Option EngJob) (h_s : s₀.Kept s) :
    s₀.Kept (State.setEng s p j) := by
  unfold State.setEng
  repeat' (first | done | simp +contextual (maxDischargeDepth := 99) only [State.sf_kept, Kept.upd, Kept.ite, Kept.foldl, Kept.foldl1, implies_true, *] | split | with_reducible apply Kept.foldl | with_reducible apply Kept.foldl1 | (intro _; intros))
theorem State.softStart_kept {s₀ : State} {s : State} (o : SlotOrd) (b : Blk) (h_s : s₀.Kept s) :
    s₀.Kept (State.softStart s o b).1 := by
  unfold State.softStart
  repeat' (first | done | simp +contextual (maxDischargeDepth := 99) only [State.setFlag_kept, State.getBytes_kept, State.softCharge_kept, Kept.upd, Kept.ite, Kept.foldl, Kept.foldl1, implies_true, *] | split | with_reducible apply Kept.foldl | with_reducible apply Kept.foldl1 | (intro _; intros))
theorem State.combine_kept {s₀ : State} {s : State} (o : SlotOrd) (b : Blk) (r : Nat) (own : List Int) (h_s : s₀.Kept s) :
    s₀.Kept (State.combine s o b r own).1 := by
  unfold State.combine
  repeat' (first | done | simp +contextual (maxDischargeDepth := 99) only [State.copy_kept, State.put_kept, State.getBytes_kept, State.asOf_kept, State.softCharge_kept, Kept.upd, Kept.ite, Kept.foldl, Kept.foldl1, implies_true, *] | split | with_reducible apply Kept.foldl | with_reducible apply Kept.foldl1 | (intro _; intros))
theorem State.beginBlk_kept {s₀ : State} {s : State} (o : SlotOrd) (i : Nat) (b : Blk) (h_s : s₀.Kept s) :
    s₀.Kept (State.beginBlk s o i b).1 := by
  unfold State.beginBlk
  repeat' (first | done | simp +contextual (maxDischargeDepth := 99) only [State.setOrder_kept, State.softStart_kept, Kept.upd, Kept.ite, Kept.foldl, Kept.foldl1, implies_true, *] | split | with_reducible apply Kept.foldl | with_reducible apply Kept.foldl1 | (intro _; intros))
theorem execCodeBlockDecode_kept {s₀ : State} (p : Fin 4) {s : State} (h_s : s₀.Kept s) :
    Fine s₀ False (execCodeBlockDecode p s) := by
  unfold execCodeBlockDecode
  repeat' (first | done | simp +contextual (maxDischargeDepth := 99) only [State.getBytes_kept, State.asOf_kept, State.setEng_kept, State.combine_kept, State.beginBlk_kept, Kept.upd, Kept.ite, Kept.foldl, Kept.foldl1, implies_true, Fine.ite, Fine.next, Fine.guard, *] | split | with_reducible apply Kept.foldl | with_reducible apply Kept.foldl1 | (intro _; intros) | with_reducible apply Fine.next | with_reducible apply Fine.guard)
theorem execCodeBlockDone_kept {s₀ : State} (p : Fin 4) {s : State} (h_s : s₀.Kept s) :
    Fine s₀ False (execCodeBlockDone p s) := by
  unfold execCodeBlockDone
  repeat' (first | done | simp +contextual (maxDischargeDepth := 99) only [State.event_kept, State.setFlagIf_kept, State.take_kept, State.setOrder_kept, State.setEng_kept, Kept.upd, Kept.ite, Kept.foldl, Kept.foldl1, implies_true, Fine.ite, Fine.next, Fine.guard, *] | split | with_reducible apply Kept.foldl | with_reducible apply Kept.foldl1 | (intro _; intros) | with_reducible apply Fine.next | with_reducible apply Fine.guard)
theorem execCodeBlockEncode_kept {s₀ : State} (e : Fin 2) {s : State} (h_s : s₀.Kept s) :
    Fine s₀ False (execCodeBlockEncode e s) := by
  unfold execCodeBlockEncode
  repeat' (first | done | simp +contextual (maxDischargeDepth := 99) only [State.event_kept, State.getBytes_kept, State.tierCharge_kept, State.asOf_kept, State.orderResult_kept, State.dropOrder_kept, State.setOrder_kept, Kept.upd, Kept.ite, Kept.foldl, Kept.foldl1, implies_true, Fine.ite, Fine.next, Fine.guard, *] | split | with_reducible apply Kept.foldl | with_reducible apply Kept.foldl1 | (intro _; intros) | with_reducible apply Fine.next | with_reducible apply Fine.guard)
theorem State.tblStat_kept {s₀ : State} {s : State} (busy : Nat) (done : Nat) (st : Nat) (h_s : s₀.Kept s) :
    s₀.Kept (State.tblStat s busy done st) := by
  unfold State.tblStat
  repeat' (first | done | simp +contextual (maxDischargeDepth := 99) only [State.sf_kept, Kept.upd, Kept.ite, Kept.foldl, Kept.foldl1, implies_true, *] | split | with_reducible apply Kept.foldl | with_reducible apply Kept.foldl1 | (intro _; intros))
theorem State.tblLoad_kept {s₀ : State} {s : State} (slot : Nat) (h_s : s₀.Kept s) :
    s₀.Kept (State.tblLoad s slot) := by
  unfold State.tblLoad
  repeat' (first | done | simp +contextual (maxDischargeDepth := 99) only [State.sf_kept, State.countStatus_kept, State.tblStat_kept, Kept.upd, Kept.ite, Kept.foldl, Kept.foldl1, implies_true, *] | split | with_reducible apply Kept.foldl | with_reducible apply Kept.foldl1 | (intro _; intros))
theorem execTblLoad_kept {s₀ : State} (who : Requester) (slot : Fin 16) {s : State} (h_s : s₀.Kept s) :
    Fine s₀ False (execTblLoad who slot s) := by
  unfold execTblLoad
  repeat' (first | done | simp +contextual (maxDischargeDepth := 99) only [State.asWrite_kept, State.tblLoad_kept, Kept.upd, Kept.ite, Kept.foldl, Kept.foldl1, implies_true, Fine.ite, Fine.next, Fine.guard, *] | split | with_reducible apply Kept.foldl | with_reducible apply Kept.foldl1 | (intro _; intros) | with_reducible apply State.asWrite_kept | with_reducible apply Fine.next | with_reducible apply Fine.guard)
theorem execTblLoadDone_kept {s₀ : State} {s : State} (h_s : s₀.Kept s) :
    Fine s₀ False (execTblLoadDone s) := by
  unfold execTblLoadDone
  repeat' (first | done | simp +contextual (maxDischargeDepth := 99) only [State.copy_kept, State.tblStat_kept, Kept.upd, Kept.ite, Kept.foldl, Kept.foldl1, implies_true, Fine.ite, Fine.next, Fine.guard, *] | split | with_reducible apply Kept.foldl | with_reducible apply Kept.foldl1 | (intro _; intros) | with_reducible apply Fine.next | with_reducible apply Fine.guard)
theorem State.crcCmd_kept {s₀ : State} {s : State} (n : Nat) (poly : Nat) (len : Nat) (h_s : s₀.Kept s) :
    s₀.Kept (State.crcCmd s n poly len) := by
  unfold State.crcCmd
  repeat' (first | done | simp +contextual (maxDischargeDepth := 99) only [State.sf_kept, State.countStatus_kept, State.tierCharge_kept, Kept.upd, Kept.ite, Kept.foldl, Kept.foldl1, implies_true, *] | split | with_reducible apply Kept.foldl | with_reducible apply Kept.foldl1 | (intro _; intros))
theorem execCrcCmd_kept {s₀ : State} (who : Requester) (n : Fin 18) (poly : Fin 8) (len : Fin 131072) {s : State} (h_s : s₀.Kept s) :
    Fine s₀ False (execCrcCmd who n poly len s) := by
  unfold execCrcCmd
  repeat' (first | done | simp +contextual (maxDischargeDepth := 99) only [State.asWrite_kept, State.crcCmd_kept, Kept.upd, Kept.ite, Kept.foldl, Kept.foldl1, implies_true, Fine.ite, Fine.next, Fine.guard, *] | split | with_reducible apply Kept.foldl | with_reducible apply Kept.foldl1 | (intro _; intros) | with_reducible apply State.asWrite_kept | with_reducible apply Fine.next | with_reducible apply Fine.guard)
theorem execCrcDone_kept {s₀ : State} (n : Fin 18) {s : State} (h_s : s₀.Kept s) :
    Fine s₀ False (execCrcDone n s) := by
  unfold execCrcDone
  repeat' (first | done | simp +contextual (maxDischargeDepth := 99) only [State.wr_kept, State.sf_kept, State.irqPend_kept, State.getBytes_kept, Kept.upd, Kept.ite, Kept.foldl, Kept.foldl1, implies_true, Fine.ite, Fine.next, Fine.guard, *] | split | with_reducible apply Kept.foldl | with_reducible apply Kept.foldl1 | (intro _; intros) | with_reducible apply Fine.next | with_reducible apply Fine.guard)
theorem State.d2_kept {s₀ : State} {s : State} (o : SlotOrd) (k : Nat) (h_s : s₀.Kept s) :
    s₀.Kept (State.d2 s o k) := by
  unfold State.d2
  repeat' (first | done | simp +contextual (maxDischargeDepth := 99) only [State.put_kept, State.getBytes_kept, State.tierCharge_kept, State.asOf_kept, Kept.upd, Kept.ite, Kept.foldl, Kept.foldl1, implies_true, *] | split | with_reducible apply Kept.foldl | with_reducible apply Kept.foldl1 | (intro _; intros))
theorem execDownlinkStageEnd_kept {s₀ : State} (a : Fin 8) (sfn : Fin 1024) (slot : Fin 80) (d2 : Bool) (k : Fin 14) {s : State} (h_s : s₀.Kept s) :
    Fine s₀ False (execDownlinkStageEnd a sfn slot d2 k s) := by
  unfold execDownlinkStageEnd
  repeat' (first | done | simp +contextual (maxDischargeDepth := 99) only [State.signal_kept, State.asOf_kept, State.setOrder_kept, State.lateIf_kept, State.d2_kept, Kept.upd, Kept.ite, Kept.foldl, Kept.foldl1, implies_true, Fine.ite, Fine.next, Fine.guard, *] | split | with_reducible apply Kept.foldl | with_reducible apply Kept.foldl1 | (intro _; intros) | with_reducible apply Fine.next | with_reducible apply Fine.guard)
theorem State.fhSend_kept {s₀ : State} {s : State} (o : SlotOrd) (plane : Nat) (st : Nat) (k : Nat) (d : List Byte) (h_s : s₀.Kept s) :
    s₀.Kept (State.fhSend s o plane st k d) := by
  unfold State.fhSend
  repeat' (first | done | simp +contextual (maxDischargeDepth := 99) only [State.event_kept, State.asOf_kept, Kept.upd, Kept.ite, Kept.foldl, Kept.foldl1, implies_true, *] | split | with_reducible apply Kept.foldl | with_reducible apply Kept.foldl1 | (intro _; intros))
theorem execCplaneSend_kept {s₀ : State} (a : Fin 8) (ul : Bool) (sfn : Fin 1024) (slot : Fin 80) {s : State} (h_s : s₀.Kept s) :
    Fine s₀ False (execCplaneSend a ul sfn slot s) := by
  unfold execCplaneSend
  repeat' (first | done | simp +contextual (maxDischargeDepth := 99) only [State.asOf_kept, State.setOrder_kept, State.fhSend_kept, Kept.upd, Kept.ite, Kept.foldl, Kept.foldl1, implies_true, Fine.ite, Fine.next, Fine.guard, *] | split | with_reducible apply Kept.foldl | with_reducible apply Kept.foldl1 | (intro _; intros) | with_reducible apply Fine.next | with_reducible apply Fine.guard)
theorem State.dlNext_kept {s₀ : State} {s : State} (o : SlotOrd) (late : Bool) (h_s : s₀.Kept s) :
    s₀.Kept (State.dlNext s o late) := by
  unfold State.dlNext
  repeat' (first | done | simp +contextual (maxDischargeDepth := 99) only [State.orderResult_kept, State.dropOrder_kept, State.setOrder_kept, Kept.upd, Kept.ite, Kept.foldl, Kept.foldl1, implies_true, *] | split | with_reducible apply Kept.foldl | with_reducible apply Kept.foldl1 | (intro _; intros))
theorem State.sendSym_kept {s₀ : State} {s : State} (o : SlotOrd) (h_s : s₀.Kept s) :
    s₀.Kept (State.sendSym s o) := by
  unfold State.sendSym
  repeat' (first | done | simp +contextual (maxDischargeDepth := 99) only [State.signal_kept, State.asOf_kept, State.lateIf_kept, State.fhSend_kept, State.dlNext_kept, Kept.upd, Kept.ite, Kept.foldl, Kept.foldl1, implies_true, *] | split | with_reducible apply Kept.foldl | with_reducible apply Kept.foldl1 | (intro _; intros))
theorem execDlSymbolSend_kept {s₀ : State} (a : Fin 8) (sfn : Fin 1024) (slot : Fin 80) {s : State} (h_s : s₀.Kept s) :
    Fine s₀ False (execDlSymbolSend a sfn slot s) := by
  unfold execDlSymbolSend
  repeat' (first | done | simp +contextual (maxDischargeDepth := 99) only [State.setFlag_kept, State.dlNext_kept, State.sendSym_kept, Kept.upd, Kept.ite, Kept.foldl, Kept.foldl1, implies_true, Fine.ite, Fine.next, Fine.guard, *] | split | with_reducible apply Kept.foldl | with_reducible apply Kept.foldl1 | (intro _; intros) | with_reducible apply Fine.next | with_reducible apply Fine.guard)
theorem State.returns_kept {s₀ : State} {s : State} (who : Requester) (v : Word) (h_s : s₀.Kept s) :
    s₀.Kept (State.returns s who v) := by
  unfold State.returns
  repeat' (first | done | simp +contextual (maxDischargeDepth := 99) only [Kept.upd, Kept.ite, Kept.foldl, Kept.foldl1, implies_true, *] | split | with_reducible apply Kept.foldl | with_reducible apply Kept.foldl1 | (intro _; intros))
theorem State.latchNow_kept {s₀ : State} {s : State} (who : Requester) (t : Nat) (h_s : s₀.Kept s) :
    s₀.Kept (State.latchNow s who t) := by
  unfold State.latchNow
  repeat' (first | done | simp +contextual (maxDischargeDepth := 99) only [Kept.upd, Kept.ite, Kept.foldl, Kept.foldl1, implies_true, *] | split | with_reducible apply Kept.foldl | with_reducible apply Kept.foldl1 | (intro _; intros))
theorem State.readNow_kept {s₀ : State} {s : State} (who : Requester) (t : Nat) (h_s : s₀.Kept s) :
    s₀.Kept (State.readNow s who t) := by
  unfold State.readNow
  repeat' (first | done | simp +contextual (maxDischargeDepth := 99) only [State.returns_kept, State.latchNow_kept, Kept.upd, Kept.ite, Kept.foldl, Kept.foldl1, implies_true, *] | split | with_reducible apply Kept.foldl | with_reducible apply Kept.foldl1 | (intro _; intros))
theorem execNowFracRead_kept {s₀ : State} (who : Requester) (t : Fin 4) {s : State} (h_s : s₀.Kept s) :
    Fine s₀ False (execNowFracRead who t s) := by
  unfold execNowFracRead
  repeat' (first | done | simp +contextual (maxDischargeDepth := 99) only [State.deny_kept, State.returns_kept, State.readNow_kept, Kept.upd, Kept.ite, Kept.foldl, Kept.foldl1, implies_true, Fine.ite, Fine.next, Fine.guard, *] | split | with_reducible apply Kept.foldl | with_reducible apply Kept.foldl1 | (intro _; intros) | with_reducible apply Fine.next | with_reducible apply Fine.guard)
theorem State.steerDenied_kept {s₀ : State} {s : State} (who : Requester) (h_s : s₀.Kept s) :
    s₀.Kept (State.steerDenied s who) := by
  unfold State.steerDenied
  repeat' (first | done | simp +contextual (maxDischargeDepth := 99) only [State.setFlag_kept, Kept.upd, Kept.ite, Kept.foldl, Kept.foldl1, implies_true, *] | split | with_reducible apply Kept.foldl | with_reducible apply Kept.foldl1 | (intro _; intros))
theorem State.asSteer_kept {s₀ : State} {s : State} (who : Requester) (off : Nat) (t : Nat) (eff : State → State) (h_eff : ∀ (x0 : State), s₀.Kept x0 → s₀.Kept (eff x0)) (h_s : s₀.Kept s) :
    s₀.Kept (State.asSteer s who off t eff) := by
  unfold State.asSteer
  repeat' (first | done | simp +contextual (maxDischargeDepth := 99) only [State.deny_kept, State.steerDenied_kept, Kept.upd, Kept.ite, Kept.foldl, Kept.foldl1, implies_true, *] | split | with_reducible apply Kept.foldl | with_reducible apply Kept.foldl1 | (intro _; intros))
theorem State.tbStatus_kept {s₀ : State} {s : State} (who : Requester) (t : Nat) (st : Nat) (h_s : s₀.Kept s) :
    s₀.Kept (State.tbStatus s who t st) := by
  unfold State.tbStatus
  repeat' (first | done | simp +contextual (maxDischargeDepth := 99) only [State.sf_kept, State.countStatus_kept, Kept.upd, Kept.ite, Kept.foldl, Kept.foldl1, implies_true, *] | split | with_reducible apply Kept.foldl | with_reducible apply Kept.foldl1 | (intro _; intros))
theorem State.incrLo_kept {s₀ : State} {s : State} (t : Nat) (v : Nat) (h_s : s₀.Kept s) :
    s₀.Kept (State.incrLo s t v) := by
  unfold State.incrLo
  repeat' (first | done | simp +contextual (maxDischargeDepth := 99) only [State.setTb_kept, Kept.upd, Kept.ite, Kept.foldl, Kept.foldl1, implies_true, *] | split | with_reducible apply Kept.foldl | with_reducible apply Kept.foldl1 | (intro _; intros))
theorem State.incrHi_kept {s₀ : State} {s : State} (who : Requester) (t : Nat) (hi : Nat) (h_s : s₀.Kept s) :
    s₀.Kept (State.incrHi s who t hi) := by
  unfold State.incrHi
  repeat' (first | done | simp +contextual (maxDischargeDepth := 99) only [State.setFlagIf_kept, State.setTb_kept, State.tbStatus_kept, Kept.upd, Kept.ite, Kept.foldl, Kept.foldl1, implies_true, *] | split | with_reducible apply Kept.foldl | with_reducible apply Kept.foldl1 | (intro _; intros))
theorem execIncrLoWrite_kept {s₀ : State} (who : Requester) (t : Fin 4) (v : Word) {s : State} (h_s : s₀.Kept s) :
    Fine s₀ False (execIncrLoWrite who t v s) := by
  unfold execIncrLoWrite
  repeat' (first | done | simp +contextual (maxDischargeDepth := 99) only [State.asSteer_kept, State.incrLo_kept, Kept.upd, Kept.ite, Kept.foldl, Kept.foldl1, implies_true, Fine.ite, Fine.next, Fine.guard, *] | split | with_reducible apply Kept.foldl | with_reducible apply Kept.foldl1 | (intro _; intros) | with_reducible apply State.asSteer_kept | with_reducible apply Fine.next | with_reducible apply Fine.guard)
theorem execIncrHiWrite_kept {s₀ : State} (who : Requester) (t : Fin 4) (v : Word) {s : State} (h_s : s₀.Kept s) :
    Fine s₀ False (execIncrHiWrite who t v s) := by
  unfold execIncrHiWrite
  repeat' (first | done | simp +contextual (maxDischargeDepth := 99) only [State.asSteer_kept, State.incrHi_kept, Kept.upd, Kept.ite, Kept.foldl, Kept.foldl1, implies_true, Fine.ite, Fine.next, Fine.guard, *] | split | with_reducible apply Kept.foldl | with_reducible apply Kept.foldl1 | (intro _; intros) | with_reducible apply State.asSteer_kept | with_reducible apply Fine.next | with_reducible apply Fine.guard)
theorem State.setCmp_kept {s₀ : State} {s : State} (k : Nat) (f : Cmp → Cmp) (h_s : s₀.Kept s) :
    s₀.Kept (State.setCmp s k f) := by
  unfold State.setCmp
  repeat' (first | done | simp +contextual (maxDischargeDepth := 99) only [Kept.upd, Kept.ite, Kept.foldl, Kept.foldl1, implies_true, *] | split | with_reducible apply Kept.foldl | with_reducible apply Kept.foldl1 | (intro _; intros))
theorem State.realign_kept {s₀ : State} {s : State} (t : Nat) (h_s : s₀.Kept s) :
    s₀.Kept (State.realign s t) := by
  unfold State.realign
  repeat' (first | done | simp +contextual (maxDischargeDepth := 99) only [State.setCmp_kept, Kept.upd, Kept.ite, Kept.foldl, Kept.foldl1, implies_true, *] | split | with_reducible apply Kept.foldl | with_reducible apply Kept.foldl1 | (intro _; intros))
theorem State.step__kept {s₀ : State} {s : State} (t : Nat) (amount : Int) (h_s : s₀.Kept s) :
    s₀.Kept (State.step_ s t amount) := by
  unfold State.step_
  repeat' (first | done | simp +contextual (maxDischargeDepth := 99) only [State.setFlag_kept, State.setTb_kept, State.carStep_kept, State.realign_kept, Kept.upd, Kept.ite, Kept.foldl, Kept.foldl1, implies_true, *] | split | with_reducible apply Kept.foldl | with_reducible apply Kept.foldl1 | (intro _; intros))
theorem State.adjust_kept {s₀ : State} {s : State} (who : Requester) (t : Nat) (amount : Int) (h_s : s₀.Kept s) :
    s₀.Kept (State.adjust s who t amount) := by
  unfold State.adjust
  repeat' (first | done | simp +contextual (maxDischargeDepth := 99) only [State.setFlag_kept, State.setTb_kept, State.tbStatus_kept, State.step__kept, Kept.upd, Kept.ite, Kept.foldl, Kept.foldl1, implies_true, *] | split | with_reducible apply Kept.foldl | with_reducible apply Kept.foldl1 | (intro _; intros))
theorem State.opAdjust_kept {s₀ : State} {s : State} (who : Requester) (t : Nat) (h_s : s₀.Kept s) :
    s₀.Kept (State.opAdjust s who t) := by
  unfold State.opAdjust
  repeat' (first | done | simp +contextual (maxDischargeDepth := 99) only [State.tbStatus_kept, State.adjust_kept, Kept.upd, Kept.ite, Kept.foldl, Kept.foldl1, implies_true, *] | split | with_reducible apply Kept.foldl | with_reducible apply Kept.foldl1 | (intro _; intros))
theorem State.opSet_kept {s₀ : State} {s : State} (who : Requester) (t : Nat) (h_s : s₀.Kept s) :
    s₀.Kept (State.opSet s who t) := by
  unfold State.opSet
  repeat' (first | done | simp +contextual (maxDischargeDepth := 99) only [State.setTb_kept, State.tbStatus_kept, State.adjust_kept, Kept.upd, Kept.ite, Kept.foldl, Kept.foldl1, implies_true, *] | split | with_reducible apply Kept.foldl | with_reducible apply Kept.foldl1 | (intro _; intros))
theorem State.armOvr_kept {s₀ : State} {s : State} (t : Nat) (h_s : s₀.Kept s) :
    s₀.Kept (State.armOvr s t) := by
  unfold State.armOvr
  repeat' (first | done | simp +contextual (maxDischargeDepth := 99) only [State.setTb_kept, Kept.upd, Kept.ite, Kept.foldl, Kept.foldl1, implies_true, *] | split | with_reducible apply Kept.foldl | with_reducible apply Kept.foldl1 | (intro _; intros))
theorem execAdjust_kept {s₀ : State} (who : Requester) (t : Fin 4) {s : State} (h_s : s₀.Kept s) :
    Fine s₀ False (execAdjust who t s) := by
  unfold execAdjust
  repeat' (first | done | simp +contextual (maxDischargeDepth := 99) only [State.asSteer_kept, State.opAdjust_kept, Kept.upd, Kept.ite, Kept.foldl, Kept.foldl1, implies_true, Fine.ite, Fine.next, Fine.guard, *] | split | with_reducible apply Kept.foldl | with_reducible apply Kept.foldl1 | (intro _; intros) | with_reducible apply State.asSteer_kept | with_reducible apply Fine.next | with_reducible apply Fine.guard)
theorem execSetTb_kept {s₀ : State} (who : Requester) (t : Fin 4) {s : State} (h_s : s₀.Kept s) :
    Fine s₀ False (execSetTb who t s) := by
  unfold execSetTb
  repeat' (first | done | simp +contextual (maxDischargeDepth := 99) only [State.asSteer_kept, State.opSet_kept, Kept.upd, Kept.ite, Kept.foldl, Kept.foldl1, implies_true, Fine.ite, Fine.next, Fine.guard, *] | split | with_reducible apply Kept.foldl | with_reducible apply Kept.foldl1 | (intro _; intros) | with_reducible apply State.asSteer_kept | with_reducible apply Fine.next | with_reducible apply Fine.guard)
theorem execArmOvr_kept {s₀ : State} (who : Requester) (t : Fin 4) {s : State} (h_s : s₀.Kept s) :
    Fine s₀ False (execArmOvr who t s) := by
  unfold execArmOvr
  repeat' (first | done | simp +contextual (maxDischargeDepth := 99) only [State.asSteer_kept, State.armOvr_kept, Kept.upd, Kept.ite, Kept.foldl, Kept.foldl1, implies_true, Fine.ite, Fine.next, Fine.guard, *] | split | with_reducible apply Kept.foldl | with_reducible apply Kept.foldl1 | (intro _; intros) | with_reducible apply State.asSteer_kept | with_reducible apply Fine.next | with_reducible apply Fine.guard)
theorem execOverrideExpiry_kept {s₀ : State} (t : Fin 4) {s : State} (h_s : s₀.Kept s) :
    Fine s₀ False (execOverrideExpiry t s) := by
  unfold execOverrideExpiry
  repeat' (first | done | simp +contextual (maxDischargeDepth := 99) only [State.setTb_kept, Kept.upd, Kept.ite, Kept.foldl, Kept.foldl1, implies_true, Fine.ite, Fine.next, Fine.guard, *] | split | with_reducible apply Kept.foldl | with_reducible apply Kept.foldl1 | (intro _; intros) | with_reducible apply Fine.next | with_reducible apply Fine.guard)
theorem State.asOwner_kept {s₀ : State} {s : State} (who : Requester) (off : Nat) (owner : Option Nat) (eff : State → State) (h_eff : ∀ (x0 : State), s₀.Kept x0 → s₀.Kept (eff x0)) (h_s : s₀.Kept s) :
    s₀.Kept (State.asOwner s who off owner eff) := by
  unfold State.asOwner
  repeat' (first | done | simp +contextual (maxDischargeDepth := 99) only [State.deny_kept, State.steerDenied_kept, Kept.upd, Kept.ite, Kept.foldl, Kept.foldl1, implies_true, *] | split | with_reducible apply Kept.foldl | with_reducible apply Kept.foldl1 | (intro _; intros))
theorem State.cmpArm_kept {s₀ : State} {s : State} (k : Nat) (h_s : s₀.Kept s) :
    s₀.Kept (State.cmpArm s k) := by
  unfold State.cmpArm
  repeat' (first | done | simp +contextual (maxDischargeDepth := 99) only [State.setCmp_kept, Kept.upd, Kept.ite, Kept.foldl, Kept.foldl1, implies_true, *] | split | with_reducible apply Kept.foldl | with_reducible apply Kept.foldl1 | (intro _; intros))
theorem State.cmpDisarm_kept {s₀ : State} {s : State} (k : Nat) (h_s : s₀.Kept s) :
    s₀.Kept (State.cmpDisarm s k) := by
  unfold State.cmpDisarm
  repeat' (first | done | simp +contextual (maxDischargeDepth := 99) only [State.setCmp_kept, Kept.upd, Kept.ite, Kept.foldl, Kept.foldl1, implies_true, *] | split | with_reducible apply Kept.foldl | with_reducible apply Kept.foldl1 | (intro _; intros))
theorem execCmpArm_kept {s₀ : State} (who : Requester) (k : Fin 32) {s : State} (h_s : s₀.Kept s) :
    Fine s₀ False (execCmpArm who k s) := by
  unfold execCmpArm
  repeat' (first | done | simp +contextual (maxDischargeDepth := 99) only [State.asOwner_kept, State.cmpArm_kept, Kept.upd, Kept.ite, Kept.foldl, Kept.foldl1, implies_true, Fine.ite, Fine.next, Fine.guard, *] | split | with_reducible apply Kept.foldl | with_reducible apply Kept.foldl1 | (intro _; intros) | with_reducible apply State.asOwner_kept | with_reducible apply Fine.next | with_reducible apply Fine.guard)
theorem execCmpDisarm_kept {s₀ : State} (who : Requester) (k : Fin 32) {s : State} (h_s : s₀.Kept s) :
    Fine s₀ False (execCmpDisarm who k s) := by
  unfold execCmpDisarm
  repeat' (first | done | simp +contextual (maxDischargeDepth := 99) only [State.asOwner_kept, State.cmpDisarm_kept, Kept.upd, Kept.ite, Kept.foldl, Kept.foldl1, implies_true, Fine.ite, Fine.next, Fine.guard, *] | split | with_reducible apply Kept.foldl | with_reducible apply Kept.foldl1 | (intro _; intros) | with_reducible apply State.asOwner_kept | with_reducible apply Fine.next | with_reducible apply Fine.guard)
theorem State.tbActions_kept {s₀ : State} {s : State} (cfg : Word) (h_s : s₀.Kept s) :
    s₀.Kept (State.tbActions s cfg) := by
  unfold State.tbActions
  repeat' (first | done | simp +contextual (maxDischargeDepth := 99) only [State.irqPend_kept, State.signal_kept, Kept.upd, Kept.ite, Kept.foldl, Kept.foldl1, implies_true, *] | split | with_reducible apply Kept.foldl | with_reducible apply Kept.foldl1 | (intro _; intros))
theorem execCmpFire_kept {s₀ : State} (k : Fin 32) {s : State} (h_s : s₀.Kept s) :
    Fine s₀ False (execCmpFire k s) := by
  unfold execCmpFire
  repeat' (first | done | simp +contextual (maxDischargeDepth := 99) only [State.setFlagIf_kept, State.setCmp_kept, State.tbActions_kept, Kept.upd, Kept.ite, Kept.foldl, Kept.foldl1, implies_true, Fine.ite, Fine.next, Fine.guard, *] | split | with_reducible apply Kept.foldl | with_reducible apply Kept.foldl1 | (intro _; intros) | with_reducible apply Fine.next | with_reducible apply Fine.guard)
theorem execTrigPulseEnd_kept {s₀ : State} (k : Fin 32) {s : State} (h_s : s₀.Kept s) :
    Fine s₀ False (execTrigPulseEnd k s) := by
  unfold execTrigPulseEnd
  repeat' (first | done | simp +contextual (maxDischargeDepth := 99) only [Kept.upd, Kept.ite, Kept.foldl, Kept.foldl1, implies_true, Fine.ite, Fine.next, Fine.guard, *] | split | with_reducible apply Kept.foldl | with_reducible apply Kept.foldl1 | (intro _; intros) | with_reducible apply Fine.next | with_reducible apply Fine.guard)
theorem State.setCapt_kept {s₀ : State} {s : State} (i : Nat) (f : Capt → Capt) (h_s : s₀.Kept s) :
    s₀.Kept (State.setCapt s i f) := by
  unfold State.setCapt
  repeat' (first | done | simp +contextual (maxDischargeDepth := 99) only [Kept.upd, Kept.ite, Kept.foldl, Kept.foldl1, implies_true, *] | split | with_reducible apply Kept.foldl | with_reducible apply Kept.foldl1 | (intro _; intros))
theorem execCaptEdge_kept {s₀ : State} (i : Fin 8) (fall : Bool) {s : State} (h_s : s₀.Kept s) :
    Fine s₀ False (execCaptEdge i fall s) := by
  unfold execCaptEdge
  repeat' (first | done | simp +contextual (maxDischargeDepth := 99) only [State.setFlagIf_kept, State.draw_kept, State.tbActions_kept, State.setCapt_kept, Kept.upd, Kept.ite, Kept.foldl, Kept.foldl1, implies_true, Fine.ite, Fine.next, Fine.guard, *] | split | with_reducible apply Kept.foldl | with_reducible apply Kept.foldl1 | (intro _; intros) | with_reducible apply Fine.next | with_reducible apply Fine.guard)
theorem State.captPop_kept {s₀ : State} {s : State} (i : Nat) (h_s : s₀.Kept s) :
    s₀.Kept (State.captPop s i) := by
  unfold State.captPop
  repeat' (first | done | simp +contextual (maxDischargeDepth := 99) only [State.setCapt_kept, Kept.upd, Kept.ite, Kept.foldl, Kept.foldl1, implies_true, *] | split | with_reducible apply Kept.foldl | with_reducible apply Kept.foldl1 | (intro _; intros))
theorem execPopCapt_kept {s₀ : State} (who : Requester) (i : Fin 8) {s : State} (h_s : s₀.Kept s) :
    Fine s₀ False (execPopCapt who i s) := by
  unfold execPopCapt
  repeat' (first | done | simp +contextual (maxDischargeDepth := 99) only [State.asOwner_kept, State.captPop_kept, Kept.upd, Kept.ite, Kept.foldl, Kept.foldl1, implies_true, Fine.ite, Fine.next, Fine.guard, *] | split | with_reducible apply Kept.foldl | with_reducible apply Kept.foldl1 | (intro _; intros) | with_reducible apply State.asOwner_kept | with_reducible apply Fine.next | with_reducible apply Fine.guard)
theorem State.xcapOne_kept {s₀ : State} {s : State} (t : Nat) (h_s : s₀.Kept s) :
    s₀.Kept (State.xcapOne s t) := by
  unfold State.xcapOne
  repeat' (first | done | simp +contextual (maxDischargeDepth := 99) only [State.wr_kept, Kept.upd, Kept.ite, Kept.foldl, Kept.foldl1, implies_true, *] | split | with_reducible apply Kept.foldl | with_reducible apply Kept.foldl1 | (intro _; intros))
theorem State.xcap_kept {s₀ : State} {s : State} (who : Requester) (h_s : s₀.Kept s) :
    s₀.Kept (State.xcap s who) := by
  unfold State.xcap
  repeat' (first | done | simp +contextual (maxDischargeDepth := 99) only [State.steerDenied_kept, State.xcapOne_kept, Kept.upd, Kept.ite, Kept.foldl, Kept.foldl1, implies_true, *] | split | with_reducible apply Kept.foldl | with_reducible apply Kept.foldl1 | (intro _; intros))
theorem execXcap_kept {s₀ : State} (who : Requester) {s : State} (h_s : s₀.Kept s) :
    Fine s₀ False (execXcap who s) := by
  unfold execXcap
  repeat' (first | done | simp +contextual (maxDischargeDepth := 99) only [State.asWrite_kept, State.xcap_kept, Kept.upd, Kept.ite, Kept.foldl, Kept.foldl1, implies_true, Fine.ite, Fine.next, Fine.guard, *] | split | with_reducible apply Kept.foldl | with_reducible apply Kept.foldl1 | (intro _; intros) | with_reducible apply State.asWrite_kept | with_reducible apply Fine.next | with_reducible apply Fine.guard)
theorem State.syncDenied_kept {s₀ : State} {s : State} (who : Requester) (h_s : s₀.Kept s) :
    s₀.Kept (State.syncDenied s who) := by
  unfold State.syncDenied
  repeat' (first | done | simp +contextual (maxDischargeDepth := 99) only [State.setFlag_kept, State.deny_kept, Kept.upd, Kept.ite, Kept.foldl, Kept.foldl1, implies_true, *] | split | with_reducible apply Kept.foldl | with_reducible apply Kept.foldl1 | (intro _; intros))
theorem State.asSync_kept {s₀ : State} {s : State} (who : Requester) (off : Nat) (o : Nat) (eff : State → State) (h_eff : ∀ (x0 : State), s₀.Kept x0 → s₀.Kept (eff x0)) (h_s : s₀.Kept s) :
    s₀.Kept (State.asSync s who off o eff) := by
  unfold State.asSync
  repeat' (first | done | simp +contextual (maxDischargeDepth := 99) only [State.deny_kept, State.syncDenied_kept, Kept.upd, Kept.ite, Kept.foldl, Kept.foldl1, implies_true, *] | split | with_reducible apply Kept.foldl | with_reducible apply Kept.foldl1 | (intro _; intros))
theorem execSyncSignal_kept {s₀ : State} (who : Requester) (o : Fin 4096) (n : Fin 1048576) {s : State} (h_s : s₀.Kept s) :
    Fine s₀ False (execSyncSignal who o n s) := by
  unfold execSyncSignal
  repeat' (first | done | simp +contextual (maxDischargeDepth := 99) only [State.signal_kept, State.asSync_kept, Kept.upd, Kept.ite, Kept.foldl, Kept.foldl1, implies_true, Fine.ite, Fine.next, Fine.guard, *] | split | with_reducible apply Kept.foldl | with_reducible apply Kept.foldl1 | (intro _; intros) | with_reducible apply State.asSync_kept | with_reducible apply Fine.next | with_reducible apply Fine.guard)
theorem execSyncClear_kept {s₀ : State} (who : Requester) (o : Fin 4096) {s : State} (h_s : s₀.Kept s) :
    Fine s₀ False (execSyncClear who o s) := by
  unfold execSyncClear
  repeat' (first | done | simp +contextual (maxDischargeDepth := 99) only [State.syncClear_kept, State.asSync_kept, Kept.upd, Kept.ite, Kept.foldl, Kept.foldl1, implies_true, Fine.ite, Fine.next, Fine.guard, *] | split | with_reducible apply Kept.foldl | with_reducible apply Kept.foldl1 | (intro _; intros) | with_reducible apply State.asSync_kept | with_reducible apply Fine.next | with_reducible apply Fine.guard)
theorem execSyncArmedWrite_kept {s₀ : State} (who : Requester) (o : Fin 4096) (v : Word) {s : State} (h_s : s₀.Kept s) :
    Fine s₀ False (execSyncArmedWrite who o v s) := by
  unfold execSyncArmedWrite
  repeat' (first | done | simp +contextual (maxDischargeDepth := 99) only [State.arm_kept, State.asSync_kept, Kept.upd, Kept.ite, Kept.foldl, Kept.foldl1, implies_true, Fine.ite, Fine.next, Fine.guard, *] | split | with_reducible apply Kept.foldl | with_reducible apply Kept.foldl1 | (intro _; intros) | with_reducible apply State.asSync_kept | with_reducible apply Fine.next | with_reducible apply Fine.guard)
theorem State.ptpDeliver_kept {s₀ : State} {s : State} (p : Nat) (head : Nat) (f : List Byte) (h_s : s₀.Kept s) :
    s₀.Kept (State.ptpDeliver s p head f) := by
  unfold State.ptpDeliver
  repeat' (first | done | simp +contextual (maxDischargeDepth := 99) only [State.sf_kept, State.msg_kept, State.setFlag_kept, State.hwrLE_kept, Kept.upd, Kept.ite, Kept.foldl, Kept.foldl1, implies_true, *] | split | with_reducible apply Kept.foldl | with_reducible apply Kept.foldl1 | (intro _; intros))
theorem State.ptpJoin_kept {s₀ : State} {s : State} (f : List Byte) (b : Nat) (h_s : s₀.Kept s) :
    s₀.Kept (State.ptpJoin s f b) := by
  unfold State.ptpJoin
  repeat' (first | done | simp +contextual (maxDischargeDepth := 99) only [State.setFlag_kept, Kept.upd, Kept.ite, Kept.foldl, Kept.foldl1, implies_true, *] | split | with_reducible apply Kept.foldl | with_reducible apply Kept.foldl1 | (intro _; intros))
theorem execPtpRx_kept {s₀ : State} (p : Fin 12) (frame : List Byte) {s : State} (h_s : s₀.Kept s) :
    Fine s₀ False (execPtpRx p frame s) := by
  unfold execPtpRx
  repeat' (first | done | simp +contextual (maxDischargeDepth := 99) only [State.event_kept, State.setFlag_kept, State.draw_kept, State.copy_kept, State.ptpDeliver_kept, State.ptpJoin_kept, Kept.upd, Kept.ite, Kept.foldl, Kept.foldl1, implies_true, Fine.ite, Fine.next, Fine.guard, *] | split | with_reducible apply Kept.foldl | with_reducible apply Kept.foldl1 | (intro _; intros) | with_reducible apply Fine.next | with_reducible apply Fine.guard)
theorem State.ptpSend_kept {s₀ : State} {s : State} (p : Nat) (f : List Byte) (h_s : s₀.Kept s) :
    s₀.Kept (State.ptpSend s p f) := by
  unfold State.ptpSend
  repeat' (first | done | simp +contextual (maxDischargeDepth := 99) only [State.event_kept, Kept.upd, Kept.ite, Kept.foldl, Kept.foldl1, implies_true, *] | split | with_reducible apply Kept.foldl | with_reducible apply Kept.foldl1 | (intro _; intros))
theorem State.ptpForward_kept {s₀ : State} {s : State} (p : Nat) (at_ : Nat) (draw : Nat) (f : List Byte) (h_s : s₀.Kept s) :
    s₀.Kept (State.ptpForward s p at_ draw f) := by
  unfold State.ptpForward
  repeat' (first | done | simp +contextual (maxDischargeDepth := 99) only [State.draw_kept, State.ptpSend_kept, Kept.upd, Kept.ite, Kept.foldl, Kept.foldl1, implies_true, *] | split | with_reducible apply Kept.foldl | with_reducible apply Kept.foldl1 | (intro _; intros))
theorem State.ptpTake_kept {s₀ : State} {s : State} (p : Nat) (draw : Nat) (h_s : s₀.Kept s) :
    s₀.Kept (State.ptpTake s p draw) := by
  unfold State.ptpTake
  repeat' (first | done | simp +contextual (maxDischargeDepth := 99) only [State.sf_kept, State.setFlag_kept, State.draw_kept, State.ptpSend_kept, Kept.upd, Kept.ite, Kept.foldl, Kept.foldl1, implies_true, *] | split | with_reducible apply Kept.foldl | with_reducible apply Kept.foldl1 | (intro _; intros))
theorem execPtpTx_kept {s₀ : State} (p : Fin 12) {s : State} (h_s : s₀.Kept s) :
    Fine s₀ False (execPtpTx p s) := by
  unfold execPtpTx
  repeat' (first | done | simp +contextual (maxDischargeDepth := 99) only [State.draw_kept, State.ptpForward_kept, State.ptpTake_kept, Kept.upd, Kept.ite, Kept.foldl, Kept.foldl1, implies_true, Fine.ite, Fine.next, Fine.guard, *] | split | with_reducible apply Kept.foldl | with_reducible apply Kept.foldl1 | (intro _; intros) | with_reducible apply Fine.next | with_reducible apply Fine.guard)
theorem execBlockLockLoss_kept {s₀ : State} (p : Fin 12) {s : State} (h_s : s₀.Kept s) :
    Fine s₀ False (execBlockLockLoss p s) := by
  unfold execBlockLockLoss
  repeat' (first | done | simp +contextual (maxDischargeDepth := 99) only [State.sf_kept, State.setFlag_kept, State.setFlagIf_kept, Kept.upd, Kept.ite, Kept.foldl, Kept.foldl1, implies_true, Fine.ite, Fine.next, Fine.guard, *] | split | with_reducible apply Kept.foldl | with_reducible apply Kept.foldl1 | (intro _; intros) | with_reducible apply Fine.next | with_reducible apply Fine.guard)
theorem execBlockLockReturn_kept {s₀ : State} (p : Fin 12) {s : State} (h_s : s₀.Kept s) :
    Fine s₀ False (execBlockLockReturn p s) := by
  unfold execBlockLockReturn
  repeat' (first | done | simp +contextual (maxDischargeDepth := 99) only [State.sf_kept, Kept.upd, Kept.ite, Kept.foldl, Kept.foldl1, implies_true, Fine.ite, Fine.next, Fine.guard, *] | split | with_reducible apply Kept.foldl | with_reducible apply Kept.foldl1 | (intro _; intros) | with_reducible apply Fine.next | with_reducible apply Fine.guard)
theorem State.setDom_kept {s₀ : State} {s : State} (i : Nat) (on : Bool) (h_s : s₀.Kept s) :
    s₀.Kept (State.setDom s i on) := by
  unfold State.setDom
  repeat' (first | done | simp +contextual (maxDischargeDepth := 99) only [State.wr_kept, Kept.upd, Kept.ite, Kept.foldl, Kept.foldl1, implies_true, *] | split | with_reducible apply Kept.foldl | with_reducible apply Kept.foldl1 | (intro _; intros))
theorem State.wipe_kept {s₀ : State} {s : State} (a : Nat) (n : Nat) (h_s : s₀.Kept s) :
    s₀.Kept (State.wipe s a n) := by
  unfold State.wipe
  repeat' (first | done | simp +contextual (maxDischargeDepth := 99) only [State.zero_kept, State.clearPoison_kept, Kept.upd, Kept.ite, Kept.foldl, Kept.foldl1, implies_true, *] | split | with_reducible apply Kept.foldl | with_reducible apply Kept.foldl1 | (intro _; intros))
theorem State.domWipe_kept {s₀ : State} {s : State} (i : Nat) (h_s : s₀.Kept s) :
    s₀.Kept (State.domWipe s i) := by
  unfold State.domWipe
  repeat' (first | done | simp +contextual (maxDischargeDepth := 99) only [State.wr_kept, State.setTc_kept, State.setIbc_kept, State.clearBanks_kept, State.wipe_kept, Kept.upd, Kept.ite, Kept.foldl, Kept.foldl1, implies_true, *] | split | with_reducible apply Kept.foldl | with_reducible apply Kept.foldl1 | (intro _; intros))
theorem State.switchDom_kept {s₀ : State} {s : State} (i : Nat) (on : Bool) (h_s : s₀.Kept s) :
    s₀.Kept (State.switchDom s i on) := by
  unfold State.switchDom
  repeat' (first | done | simp +contextual (maxDischargeDepth := 99) only [State.setDom_kept, State.domWipe_kept, Kept.upd, Kept.ite, Kept.foldl, Kept.foldl1, implies_true, *] | split | with_reducible apply Kept.foldl | with_reducible apply Kept.foldl1 | (intro _; intros))
theorem State.powerNeeded_kept {s₀ : State} {s : State} (need : Nat → Bool) (h_s : s₀.Kept s) :
    s₀.Kept (State.powerNeeded s need) := by
  unfold State.powerNeeded
  repeat' (first | done | simp +contextual (maxDischargeDepth := 99) only [State.switchDom_kept, Kept.upd, Kept.ite, Kept.foldl, Kept.foldl1, implies_true, *] | split | with_reducible apply Kept.foldl | with_reducible apply Kept.foldl1 | (intro _; intros))
theorem State.powerOff_kept {s₀ : State} {s : State} (keep : Nat → Bool) (h_s : s₀.Kept s) :
    s₀.Kept (State.powerOff s keep) := by
  unfold State.powerOff
  repeat' (first | done | simp +contextual (maxDischargeDepth := 99) only [State.switchDom_kept, Kept.upd, Kept.ite, Kept.foldl, Kept.foldl1, implies_true, *] | split | with_reducible apply Kept.foldl | with_reducible apply Kept.foldl1 | (intro _; intros))
theorem State.setStrm_kept {s₀ : State} {s : State} (k : Nat) (f : Strm → Strm) (h_s : s₀.Kept s) :
    s₀.Kept (State.setStrm s k f) := by
  unfold State.setStrm
  repeat' (first | done | simp +contextual (maxDischargeDepth := 99) only [Kept.upd, Kept.ite, Kept.foldl, Kept.foldl1, implies_true, *] | split | with_reducible apply Kept.foldl | with_reducible apply Kept.foldl1 | (intro _; intros))
theorem State.postTail_kept {s₀ : State} {s : State} (k : Nat) (v : Nat) (h_s : s₀.Kept s) :
    s₀.Kept (State.postTail s k v) := by
  unfold State.postTail
  repeat' (first | done | simp +contextual (maxDischargeDepth := 99) only [State.sf_kept, State.setStrm_kept, Kept.upd, Kept.ite, Kept.foldl, Kept.foldl1, implies_true, *] | split | with_reducible apply Kept.foldl | with_reducible apply Kept.foldl1 | (intro _; intros))
theorem execStTail_kept {s₀ : State} (who : Requester) (st : Fin 64) (v : Word) {s : State} (h_s : s₀.Kept s) :
    Fine s₀ False (execStTail who st v s) := by
  unfold execStTail
  repeat' (first | done | simp +contextual (maxDischargeDepth := 99) only [State.asWrite_kept, State.postTail_kept, Kept.upd, Kept.ite, Kept.foldl, Kept.foldl1, implies_true, Fine.ite, Fine.next, Fine.guard, *] | split | with_reducible apply Kept.foldl | with_reducible apply Kept.foldl1 | (intro _; intros) | with_reducible apply State.asWrite_kept | with_reducible apply Fine.next | with_reducible apply Fine.guard)
theorem State.decStat_kept {s₀ : State} {s : State} (d : Nat) (busy : Bool) (k : Nat) (h_s : s₀.Kept s) :
    s₀.Kept (State.decStat s d busy k) := by
  unfold State.decStat
  repeat' (first | done | simp +contextual (maxDischargeDepth := 99) only [State.sf_kept, Kept.upd, Kept.ite, Kept.foldl, Kept.foldl1, implies_true, *] | split | with_reducible apply Kept.foldl | with_reducible apply Kept.foldl1 | (intro _; intros))
theorem State.frameDrop_kept {s₀ : State} {s : State} (l : Nat) (q : Nat) (k : Nat) (st : Nat) (frame : Nat) (cause : Nat) (tag : Nat) (h_s : s₀.Kept s) :
    s₀.Kept (State.frameDrop s l q k st frame cause tag) := by
  unfold State.frameDrop
  repeat' (first | done | simp +contextual (maxDischargeDepth := 99) only [State.setFlag_kept, State.setFlagIf_kept, State.countStatus_kept, State.setBq_kept, Kept.upd, Kept.ite, Kept.foldl, Kept.foldl1, implies_true, *] | split | with_reducible apply Kept.foldl | with_reducible apply Kept.foldl1 | (intro _; intros))
theorem State.frameBytes_kept {s₀ : State} {s : State} (l : Nat) (a : Nat) (n : Nat) (h_s : s₀.Kept s) :
    s₀.Kept (State.frameBytes s l a n).1 := by
  unfold State.frameBytes
  repeat' (first | done | simp +contextual (maxDischargeDepth := 99) only [State.getBytes_kept, Kept.upd, Kept.ite, Kept.foldl, Kept.foldl1, implies_true, *] | split | with_reducible apply Kept.foldl | with_reducible apply Kept.foldl1 | (intro _; intros))
theorem State.checkFrame_kept {s₀ : State} {s : State} (d : Nat) (l : Nat) (q : Nat) (k : Nat) (frame : Nat) (desc : Nat) (e : FrameEnt) (resv : List Nat) (h_s : s₀.Kept s) :
    s₀.Kept (State.checkFrame s d l q k frame desc e resv) := by
  unfold State.checkFrame
  repeat' (first | done | simp +contextual (maxDischargeDepth := 99) only [State.setFlagIf_kept, State.draw_kept, State.getUnit_kept, State.take_kept, State.tierCharge_kept, State.setBq_kept, State.decStat_kept, State.frameDrop_kept, State.frameBytes_kept, Kept.upd, Kept.ite, Kept.foldl, Kept.foldl1, implies_true, *] | split | with_reducible apply Kept.foldl | with_reducible apply Kept.foldl1 | (intro _; intros))
theorem State.takeFrame_kept {s₀ : State} {s : State} (d : Nat) (k : Nat) (h_s : s₀.Kept s) :
    s₀.Kept (State.takeFrame s d k) := by
  unfold State.takeFrame
  repeat' (first | done | simp +contextual (maxDischargeDepth := 99) only [State.wr_kept, State.sf_kept, State.event_kept, State.getBytes_kept, State.take_kept, State.tierCharge_kept, State.setStrm_kept, State.frameDrop_kept, State.checkFrame_kept, Kept.upd, Kept.ite, Kept.foldl, Kept.foldl1, implies_true, *] | split | with_reducible apply Kept.foldl | with_reducible apply Kept.foldl1 | (intro _; intros))
theorem State.putOutput_kept {s₀ : State} {s : State} (j : SmpJob) (h : JHdr) (pix : Nat → McuPix) (lost : List Nat) (grey : Bool) (out : Nat × (Nat × Nat × Nat × Nat) × Nat × Nat) (slot : Nat) (h_s : s₀.Kept s) :
    s₀.Kept (State.putOutput s j h pix lost grey out slot) := by
  unfold State.putOutput
  repeat' (first | done | simp +contextual (maxDischargeDepth := 99) only [State.setFlagIf_kept, State.put_kept, Kept.upd, Kept.ite, Kept.foldl, Kept.foldl1, implies_true, *] | split | with_reducible apply Kept.foldl | with_reducible apply Kept.foldl1 | (intro _; intros))
theorem State.putRef_kept {s₀ : State} {s : State} (j : SmpJob) (h : JHdr) (ms : List (Nat × McuPix)) (h_s : s₀.Kept s) :
    s₀.Kept (State.putRef s j h ms) := by
  unfold State.putRef
  repeat' (first | done | simp +contextual (maxDischargeDepth := 99) only [State.put_kept, Kept.upd, Kept.ite, Kept.foldl, Kept.foldl1, implies_true, *] | split | with_reducible apply Kept.foldl | with_reducible apply Kept.foldl1 | (intro _; intros))
theorem State.frameTraffic_kept {s₀ : State} {s : State} (j : SmpJob) (h : JHdr) (h_s : s₀.Kept s) :
    s₀.Kept (State.frameTraffic s j h) := by
  unfold State.frameTraffic
  repeat' (first | done | simp +contextual (maxDischargeDepth := 99) only [State.tierCharge_kept, Kept.upd, Kept.ite, Kept.foldl, Kept.foldl1, implies_true, *] | split | with_reducible apply Kept.foldl | with_reducible apply Kept.foldl1 | (intro _; intros))
theorem State.frameReady_kept {s₀ : State} {s : State} (d : Nat) (j : SmpJob) (h : JHdr) (h_s : s₀.Kept s) :
    s₀.Kept (State.frameReady s d j h) := by
  unfold State.frameReady
  repeat' (first | done | simp +contextual (maxDischargeDepth := 99) only [State.event_kept, State.setFlagIf_kept, State.countStatus_kept, State.setBq_kept, State.setStrm_kept, State.decStat_kept, State.putOutput_kept, State.putRef_kept, Kept.upd, Kept.ite, Kept.foldl, Kept.foldl1, implies_true, *] | split | with_reducible apply Kept.foldl | with_reducible apply Kept.foldl1 | (intro _; intros))
theorem State.takeTraffic_kept {s₀ : State} {s : State} (d : Nat) (h_s : s₀.Kept s) :
    s₀.Kept (State.takeTraffic s d) := by
  unfold State.takeTraffic
  repeat' (first | done | simp +contextual (maxDischargeDepth := 99) only [State.frameTraffic_kept, Kept.upd, Kept.ite, Kept.foldl, Kept.foldl1, implies_true, *] | split | with_reducible apply Kept.foldl | with_reducible apply Kept.foldl1 | (intro _; intros))
theorem execFrameTake_kept {s₀ : State} (d : Fin 2) {s : State} (h_s : s₀.Kept s) :
    Fine s₀ False (execFrameTake d s) := by
  unfold execFrameTake
  repeat' (first | done | simp +contextual (maxDischargeDepth := 99) only [State.setFlag_kept, State.takeFrame_kept, State.takeTraffic_kept, Kept.upd, Kept.ite, Kept.foldl, Kept.foldl1, implies_true, Fine.ite, Fine.next, Fine.guard, *] | split | with_reducible apply Kept.foldl | with_reducible apply Kept.foldl1 | (intro _; intros) | with_reducible apply Fine.next | with_reducible apply Fine.guard)
theorem execFrameReady_kept {s₀ : State} (d : Fin 2) {s : State} (h_s : s₀.Kept s) :
    Fine s₀ False (execFrameReady d s) := by
  unfold execFrameReady
  repeat' (first | done | simp +contextual (maxDischargeDepth := 99) only [State.frameReady_kept, Kept.upd, Kept.ite, Kept.foldl, Kept.foldl1, implies_true, Fine.ite, Fine.next, Fine.guard, *] | split | with_reducible apply Kept.foldl | with_reducible apply Kept.foldl1 | (intro _; intros) | with_reducible apply Fine.next | with_reducible apply Fine.guard)
theorem State.overlay_kept {s₀ : State} {s : State} (h_s : s₀.Kept s) :
    s₀.Kept (State.overlay s) := by
  unfold State.overlay
  repeat' (first | done | simp +contextual (maxDischargeDepth := 99) only [State.wr_kept, Kept.upd, Kept.ite, Kept.foldl, Kept.foldl1, implies_true, *] | split | with_reducible apply Kept.foldl | with_reducible apply Kept.foldl1 | (intro _; intros))
theorem State.wearCount_kept {s₀ : State} {s : State} (k : Nat) (h_s : s₀.Kept s) :
    s₀.Kept (State.wearCount s k) := by
  unfold State.wearCount
  repeat' (first | done | simp +contextual (maxDischargeDepth := 99) only [Kept.upd, Kept.ite, Kept.foldl, Kept.foldl1, implies_true, *] | split | with_reducible apply Kept.foldl | with_reducible apply Kept.foldl1 | (intro _; intros))
theorem State.relLast_kept {s₀ : State} {s : State} (cls : Nat) (mech : Nat) (outc : Nat) (unit : Nat) (l : Option Nat) (h_s : s₀.Kept s) :
    s₀.Kept (State.relLast s cls mech outc unit l) := by
  unfold State.relLast
  repeat' (first | done | simp +contextual (maxDischargeDepth := 99) only [State.wr_kept, Kept.upd, Kept.ite, Kept.foldl, Kept.foldl1, implies_true, *] | split | with_reducible apply Kept.foldl | with_reducible apply Kept.foldl1 | (intro _; intros))
theorem State.history_kept {s₀ : State} {s : State} (cls : Nat) (mech : Nat) (outc : Nat) (unit : Nat) (spare : Nat) (l : Option Nat) (h_s : s₀.Kept s) :
    s₀.Kept (State.history s cls mech outc unit spare l) := by
  unfold State.history
  repeat' (first | done | simp +contextual (maxDischargeDepth := 99) only [Kept.upd, Kept.ite, Kept.foldl, Kept.foldl1, implies_true, *] | split | with_reducible apply Kept.foldl | with_reducible apply Kept.foldl1 | (intro _; intros))
theorem State.relFault_kept {s₀ : State} {s : State} (cls : Nat) (mech : Nat) (outc : Nat) (unit : Nat) (spare : Nat) (l : Option Nat) (h_s : s₀.Kept s) :
    s₀.Kept (State.relFault s cls mech outc unit spare l) := by
  unfold State.relFault
  repeat' (first | done | simp +contextual (maxDischargeDepth := 99) only [State.relLast_kept, State.history_kept, Kept.upd, Kept.ite, Kept.foldl, Kept.foldl1, implies_true, *] | split | with_reducible apply Kept.foldl | with_reducible apply Kept.foldl1 | (intro _; intros))
theorem State.relTrans_kept {s₀ : State} {s : State} (cls : Nat) (mech : Nat) (unit : Nat) (l : Option Nat) (h_s : s₀.Kept s) :
    s₀.Kept (State.relTrans s cls mech unit l) := by
  unfold State.relTrans
  repeat' (first | done | simp +contextual (maxDischargeDepth := 99) only [State.wr_kept, State.setFlag_kept, State.wearCount_kept, State.relLast_kept, Kept.upd, Kept.ite, Kept.foldl, Kept.foldl1, implies_true, *] | split | with_reducible apply Kept.foldl | with_reducible apply Kept.foldl1 | (intro _; intros))
theorem State.relLasting_kept {s₀ : State} {s : State} (cls : Nat) (l : Option Nat) (h_s : s₀.Kept s) :
    s₀.Kept (State.relLasting s cls l) := by
  unfold State.relLasting
  repeat' (first | done | simp +contextual (maxDischargeDepth := 99) only [State.wr_kept, State.setFlag_kept, State.wearCount_kept, Kept.upd, Kept.ite, Kept.foldl, Kept.foldl1, implies_true, *] | split | with_reducible apply Kept.foldl | with_reducible apply Kept.foldl1 | (intro _; intros))
theorem State.spend_kept {s₀ : State} {s : State} (cls : Nat) (low : Bool) (l : Option Nat) (h_s : s₀.Kept s) :
    s₀.Kept (State.spend s cls low l) := by
  unfold State.spend
  repeat' (first | done | simp +contextual (maxDischargeDepth := 99) only [State.sf_kept, State.setFlagIf_kept, Kept.upd, Kept.ite, Kept.foldl, Kept.foldl1, implies_true, *] | split | with_reducible apply Kept.foldl | with_reducible apply Kept.foldl1 | (intro _; intros))
theorem State.unrecovered_kept {s₀ : State} {s : State} (u : RelUnit) (h_s : s₀.Kept s) :
    s₀.Kept (State.unrecovered s u) := by
  unfold State.unrecovered
  repeat' (first | done | simp +contextual (maxDischargeDepth := 99) only [State.teardown_kept, State.setEng_kept, Kept.upd, Kept.ite, Kept.foldl, Kept.foldl1, implies_true, *] | split | with_reducible apply Kept.foldl | with_reducible apply Kept.foldl1 | (intro _; intros))
theorem State.noSpare_kept {s₀ : State} {s : State} (cls : Nat) (mech : Nat) (unit : Nat) (l : Option Nat) (h_s : s₀.Kept s) :
    s₀.Kept (State.noSpare s cls mech unit l) := by
  unfold State.noSpare
  repeat' (first | done | simp +contextual (maxDischargeDepth := 99) only [State.setFlag_kept, State.relFault_kept, Kept.upd, Kept.ite, Kept.foldl, Kept.foldl1, implies_true, *] | split | with_reducible apply Kept.foldl | with_reducible apply Kept.foldl1 | (intro _; intros))
theorem State.failUnit_kept {s₀ : State} {s : State} (u : RelUnit) (h_s : s₀.Kept s) :
    s₀.Kept (State.failUnit s u) := by
  unfold State.failUnit
  repeat' (first | done | simp +contextual (maxDischargeDepth := 99) only [State.sf_kept, State.unrecovered_kept, Kept.upd, Kept.ite, Kept.foldl, Kept.foldl1, implies_true, *] | split | with_reducible apply Kept.foldl | with_reducible apply Kept.foldl1 | (intro _; intros))
theorem State.coreDoms_kept {s₀ : State} {s : State} (p : Nat) (on : Bool) (h_s : s₀.Kept s) :
    s₀.Kept (State.coreDoms s p on) := by
  unfold State.coreDoms
  repeat' (first | done | simp +contextual (maxDischargeDepth := 99) only [State.setDom_kept, Kept.upd, Kept.ite, Kept.foldl, Kept.foldl1, implies_true, *] | split | with_reducible apply Kept.foldl | with_reducible apply Kept.foldl1 | (intro _; intros))
theorem State.remapCore_kept {s₀ : State} {s : State} (c : Nat) (q : Nat) (l : Option Nat) (h_s : s₀.Kept s) :
    s₀.Kept (State.remapCore s c q l) := by
  unfold State.remapCore
  repeat' (first | done | simp +contextual (maxDischargeDepth := 99) only [State.wr_kept, State.sf_kept, State.spend_kept, State.coreDoms_kept, Kept.upd, Kept.ite, Kept.foldl, Kept.foldl1, implies_true, *] | split | with_reducible apply Kept.foldl | with_reducible apply Kept.foldl1 | (intro _; intros))
theorem State.coreFault_kept {s₀ : State} {s : State} (c : Fin 32) (mech : Nat) (outc : Nat) (l : Option Nat) (h_s : s₀.Kept s) :
    s₀.Kept (State.coreFault s c mech outc l).1 := by
  unfold State.coreFault
  repeat' (first | done | simp +contextual (maxDischargeDepth := 99) only [State.relFault_kept, State.noSpare_kept, State.remapCore_kept, Kept.upd, Kept.ite, Kept.foldl, Kept.foldl1, implies_true, *] | split | with_reducible apply Kept.foldl | with_reducible apply Kept.foldl1 | (intro _; intros))
theorem State.remap_kept {s₀ : State} {s : State} (u : RelUnit) (mech : Nat) (outc : Nat) (h_s : s₀.Kept s) :
    s₀.Kept (State.remap s u mech outc).1 := by
  unfold State.remap
  repeat' (first | done | simp +contextual (maxDischargeDepth := 99) only [State.sf_kept, State.setDom_kept, State.relFault_kept, State.relLasting_kept, State.spend_kept, State.noSpare_kept, State.failUnit_kept, State.coreFault_kept, Kept.upd, Kept.ite, Kept.foldl, Kept.foldl1, implies_true, *] | split | with_reducible apply Kept.foldl | with_reducible apply Kept.foldl1 | (intro _; intros))
theorem State.dataLoss_kept {s₀ : State} {s : State} (cls : Nat) (mech : Nat) (ix : Nat) (a : Nat) (n : Nat) (l : Option Nat) (h_s : s₀.Kept s) :
    s₀.Kept (State.dataLoss s cls mech ix a n l) := by
  unfold State.dataLoss
  repeat' (first | done | simp +contextual (maxDischargeDepth := 99) only [State.setFlag_kept, State.addPoison_kept, State.relFault_kept, Kept.upd, Kept.ite, Kept.foldl, Kept.foldl1, implies_true, *] | split | with_reducible apply Kept.foldl | with_reducible apply Kept.foldl1 | (intro _; intros))
theorem State.sramCe_kept {s₀ : State} {s : State} (a : Nat) (h_s : s₀.Kept s) :
    s₀.Kept (State.sramCe s a) := by
  unfold State.sramCe
  repeat' (first | done | simp +contextual (maxDischargeDepth := 99) only [State.wr_kept, Kept.upd, Kept.ite, Kept.foldl, Kept.foldl1, implies_true, *] | split | with_reducible apply Kept.foldl | with_reducible apply Kept.foldl1 | (intro _; intros))
theorem State.wordLasting_kept {s₀ : State} {s : State} (u : RelUnit) (a : Nat) (dbl : Bool) (fix : Option Nat) (mech : Nat) (h_s : s₀.Kept s) :
    s₀.Kept (State.wordLasting s u a dbl fix mech) := by
  unfold State.wordLasting
  repeat' (first | done | simp +contextual (maxDischargeDepth := 99) only [State.sf_kept, State.relFault_kept, State.relLasting_kept, State.spend_kept, State.dataLoss_kept, Kept.upd, Kept.ite, Kept.foldl, Kept.foldl1, implies_true, *] | split | with_reducible apply Kept.foldl | with_reducible apply Kept.foldl1 | (intro _; intros))
theorem State.tierEntry_kept {s₀ : State} {s : State} (a : Nat) (kind : Nat) (h_s : s₀.Kept s) :
    s₀.Kept (State.tierEntry s a kind) := by
  unfold State.tierEntry
  repeat' (first | done | simp +contextual (maxDischargeDepth := 99) only [Kept.upd, Kept.ite, Kept.foldl, Kept.foldl1, implies_true, *] | split | with_reducible apply Kept.foldl | with_reducible apply Kept.foldl1 | (intro _; intros))
theorem State.showFrames_kept {s₀ : State} {s : State} (h_s : s₀.Kept s) :
    s₀.Kept (State.showFrames s) := by
  unfold State.showFrames
  repeat' (first | done | simp +contextual (maxDischargeDepth := 99) only [State.sf_kept, Kept.upd, Kept.ite, Kept.foldl, Kept.foldl1, implies_true, *] | split | with_reducible apply Kept.foldl | with_reducible apply Kept.foldl1 | (intro _; intros))
theorem State.tierLasting_kept {s₀ : State} {s : State} (u : RelUnit) (a : Nat) (dbl : Bool) (fix : TierFix) (mech : Nat) (h_s : s₀.Kept s) :
    s₀.Kept (State.tierLasting s u a dbl fix mech) := by
  unfold State.tierLasting
  repeat' (first | done | simp +contextual (maxDischargeDepth := 99) only [State.wr_kept, State.setFlag_kept, State.addPoison_kept, State.relFault_kept, State.relLasting_kept, State.noSpare_kept, State.dataLoss_kept, State.tierEntry_kept, State.showFrames_kept, Kept.upd, Kept.ite, Kept.foldl, Kept.foldl1, implies_true, *] | split | with_reducible apply Kept.foldl | with_reducible apply Kept.foldl1 | (intro _; intros))
theorem State.mapEntries_kept {s₀ : State} {s : State} (c : Nat) (f : CmdEntry → CmdEntry) (h_s : s₀.Kept s) :
    s₀.Kept (State.mapEntries s c f) := by
  unfold State.mapEntries
  repeat' (first | done | simp +contextual (maxDischargeDepth := 99) only [State.setTc_kept, Kept.upd, Kept.ite, Kept.foldl, Kept.foldl1, implies_true, *] | split | with_reducible apply Kept.foldl | with_reducible apply Kept.foldl1 | (intro _; intros))
theorem State.laneCheck_kept {s₀ : State} {s : State} (c : Nat) (h_s : s₀.Kept s) :
    s₀.Kept (State.laneCheck s c) := by
  unfold State.laneCheck
  repeat' (first | done | simp +contextual (maxDischargeDepth := 99) only [State.setFlag_kept, State.mapEntries_kept, Kept.upd, Kept.ite, Kept.foldl, Kept.foldl1, implies_true, *] | split | with_reducible apply Kept.foldl | with_reducible apply Kept.foldl1 | (intro _; intros))
theorem State.laneGo_kept {s₀ : State} {s : State} (c : Nat) (g : Nat) (h_s : s₀.Kept s) :
    s₀.Kept (State.laneGo s c g) := by
  unfold State.laneGo
  repeat' (first | done | simp +contextual (maxDischargeDepth := 99) only [State.mapEntries_kept, Kept.upd, Kept.ite, Kept.foldl, Kept.foldl1, implies_true, *] | split | with_reducible apply Kept.foldl | with_reducible apply Kept.foldl1 | (intro _; intros))
theorem State.detected_kept {s₀ : State} {s : State} (u : RelUnit) (h_s : s₀.Kept s) :
    s₀.Kept (State.detected s u) := by
  unfold State.detected
  repeat' (first | done | simp +contextual (maxDischargeDepth := 99) only [State.setFlag_kept, State.sramCe_kept, State.laneCheck_kept, Kept.upd, Kept.ite, Kept.foldl, Kept.foldl1, implies_true, *] | split | with_reducible apply Kept.foldl | with_reducible apply Kept.foldl1 | (intro _; intros))
theorem State.recheck_kept {s₀ : State} {s : State} (u : RelUnit) (h_s : s₀.Kept s) :
    s₀.Kept (State.recheck s u) := by
  unfold State.recheck
  repeat' (first | done | simp +contextual (maxDischargeDepth := 99) only [State.laneCheck_kept, Kept.upd, Kept.ite, Kept.foldl, Kept.foldl1, implies_true, *] | split | with_reducible apply Kept.foldl | with_reducible apply Kept.foldl1 | (intro _; intros))
theorem State.recovered_kept {s₀ : State} {s : State} (u : RelUnit) (h_s : s₀.Kept s) :
    s₀.Kept (State.recovered s u) := by
  unfold State.recovered
  repeat' (first | done | simp +contextual (maxDischargeDepth := 99) only [State.laneGo_kept, Kept.upd, Kept.ite, Kept.foldl, Kept.foldl1, implies_true, *] | split | with_reducible apply Kept.foldl | with_reducible apply Kept.foldl1 | (intro _; intros))
theorem State.recover_kept {s₀ : State} {s : State} (u : RelUnit) (mech : Nat) (r : Replay) (h_s : s₀.Kept s) :
    s₀.Kept (State.recover s u mech r) := by
  unfold State.recover
  repeat' (first | done | simp +contextual (maxDischargeDepth := 99) only [State.setFlag_kept, State.relFault_kept, State.relTrans_kept, State.relLasting_kept, State.unrecovered_kept, State.remap_kept, State.wordLasting_kept, State.tierLasting_kept, State.detected_kept, State.recheck_kept, State.recovered_kept, Kept.upd, Kept.ite, Kept.foldl, Kept.foldl1, implies_true, *] | split | with_reducible apply Kept.foldl | with_reducible apply Kept.foldl1 | (intro _; intros))
theorem execRecover_kept {s₀ : State} (u : RelUnit) (mech : Fin 7) (r : Replay) {s : State} (h_s : s₀.Kept s) :
    Fine s₀ False (execRecover u mech r s) := by
  unfold execRecover
  repeat' (first | done | simp +contextual (maxDischargeDepth := 99) only [State.recover_kept, Kept.upd, Kept.ite, Kept.foldl, Kept.foldl1, implies_true, Fine.ite, Fine.next, Fine.guard, *] | split | with_reducible apply Kept.foldl | with_reducible apply Kept.foldl1 | (intro _; intros) | with_reducible apply Fine.next | with_reducible apply Fine.guard)
theorem execWatchdog_kept {s₀ : State} (u : RelUnit) (r : Replay) {s : State} (h_s : s₀.Kept s) :
    Fine s₀ False (execWatchdog u r s) := by
  unfold execWatchdog
  repeat' (first | done | simp +contextual (maxDischargeDepth := 99) only [State.recover_kept, Kept.upd, Kept.ite, Kept.foldl, Kept.foldl1, implies_true, Fine.ite, Fine.next, Fine.guard, *] | split | with_reducible apply Kept.foldl | with_reducible apply Kept.foldl1 | (intro _; intros) | with_reducible apply Fine.next | with_reducible apply Fine.guard)
theorem execTierScrub_kept {s₀ : State} (a : BitVec 48) (ce : Bool) {s : State} (h_s : s₀.Kept s) :
    Fine s₀ False (execTierScrub a ce s) := by
  unfold execTierScrub
  repeat' (first | done | simp +contextual (maxDischargeDepth := 99) only [State.setFlag_kept, Kept.upd, Kept.ite, Kept.foldl, Kept.foldl1, implies_true, Fine.ite, Fine.next, Fine.guard, *] | split | with_reducible apply Kept.foldl | with_reducible apply Kept.foldl1 | (intro _; intros) | with_reducible apply Fine.next | with_reducible apply Fine.guard)
theorem execSramScrub_kept {s₀ : State} (a : BitVec 48) (ce : Bool) (last : Bool) {s : State} (h_s : s₀.Kept s) :
    Fine s₀ False (execSramScrub a ce last s) := by
  unfold execSramScrub
  repeat' (first | done | simp +contextual (maxDischargeDepth := 99) only [State.sf_kept, State.sramCe_kept, Kept.upd, Kept.ite, Kept.foldl, Kept.foldl1, implies_true, Fine.ite, Fine.next, Fine.guard, *] | split | with_reducible apply Kept.foldl | with_reducible apply Kept.foldl1 | (intro _; intros) | with_reducible apply Fine.next | with_reducible apply Fine.guard)
theorem execBrk_kept {s₀ : State} (c : Fin 32) (sl : Slot) (w : CmdWord) {s : State} (h_s : s₀.Kept s) :
    Fine s₀ ((cOp w == 0xF0) = false) (execBrk c sl w s) := by
  unfold execBrk
  repeat' (first | done | simp +contextual (maxDischargeDepth := 99) only [State.haltSlot_kept, decodeRow_kept, State.complete_kept, Kept.upd, Kept.ite, Kept.foldl, Kept.foldl1, implies_true, Fine.ite, Fine.next, Fine.guard, *] | split | with_reducible apply Kept.foldl | with_reducible apply Kept.foldl1 | (intro _; intros) | with_reducible apply decodeRow_kept | with_reducible apply Fine.next | with_reducible apply Fine.guard)
theorem State.dbgTcHalt_kept {s₀ : State} {s : State} (c : Nat) (sl : Slot) (h_s : s₀.Kept s) :
    s₀.Kept (State.dbgTcHalt s c sl).1 := by
  unfold State.dbgTcHalt
  repeat' (first | done | simp +contextual (maxDischargeDepth := 99) only [State.haltSlot_kept, Kept.upd, Kept.ite, Kept.foldl, Kept.foldl1, implies_true, *] | split | with_reducible apply Kept.foldl | with_reducible apply Kept.foldl1 | (intro _; intros))
theorem State.dbgTcStep_kept {s₀ : State} {s : State} (c : Nat) (sl : Slot) (h_s : s₀.Kept s) :
    s₀.Kept (State.dbgTcStep s c sl).1 := by
  unfold State.dbgTcStep
  repeat' (first | done | simp +contextual (maxDischargeDepth := 99) only [State.setSlot_kept, Kept.upd, Kept.ite, Kept.foldl, Kept.foldl1, implies_true, *] | split | with_reducible apply Kept.foldl | with_reducible apply Kept.foldl1 | (intro _; intros))
theorem State.tcFree_kept {s₀ : State} {s : State} (c : Nat) (p : Nat) (sl : Slot) (h_s : s₀.Kept s) :
    s₀.Kept (State.tcFree s c p sl) := by
  unfold State.tcFree
  repeat' (first | done | simp +contextual (maxDischargeDepth := 99) only [State.setSlot_kept, State.leaveDebug_kept, Kept.upd, Kept.ite, Kept.foldl, Kept.foldl1, implies_true, *] | split | with_reducible apply Kept.foldl | with_reducible apply Kept.foldl1 | (intro _; intros))
theorem State.dbgTcResume_kept {s₀ : State} {s : State} (c : Nat) (sl : Slot) (h_s : s₀.Kept s) :
    s₀.Kept (State.dbgTcResume s c sl).1 := by
  unfold State.dbgTcResume
  repeat' (first | done | simp +contextual (maxDischargeDepth := 99) only [State.tcFree_kept, Kept.upd, Kept.ite, Kept.foldl, Kept.foldl1, implies_true, *] | split | with_reducible apply Kept.foldl | with_reducible apply Kept.foldl1 | (intro _; intros))
theorem execTcHalt_kept {s₀ : State} (c : Fin 32) (sl : Slot) {s : State} (h_s : s₀.Kept s) :
    Fine s₀ False (execTcHalt c sl s) := by
  unfold execTcHalt
  repeat' (first | done | simp +contextual (maxDischargeDepth := 99) only [accEnd_kept, State.dbgTcHalt_kept, Kept.upd, Kept.ite, Kept.foldl, Kept.foldl1, implies_true, Fine.ite, Fine.next, Fine.guard, *] | split | with_reducible apply Kept.foldl | with_reducible apply Kept.foldl1 | (intro _; intros) | with_reducible apply Fine.next | with_reducible apply Fine.guard)
theorem execTcStep_kept {s₀ : State} (c : Fin 32) (sl : Slot) {s : State} (h_s : s₀.Kept s) :
    Fine s₀ False (execTcStep c sl s) := by
  unfold execTcStep
  repeat' (first | done | simp +contextual (maxDischargeDepth := 99) only [accEnd_kept, State.dbgTcStep_kept, Kept.upd, Kept.ite, Kept.foldl, Kept.foldl1, implies_true, Fine.ite, Fine.next, Fine.guard, *] | split | with_reducible apply Kept.foldl | with_reducible apply Kept.foldl1 | (intro _; intros) | with_reducible apply Fine.next | with_reducible apply Fine.guard)
theorem execTcResume_kept {s₀ : State} (c : Fin 32) (sl : Slot) {s : State} (h_s : s₀.Kept s) :
    Fine s₀ False (execTcResume c sl s) := by
  unfold execTcResume
  repeat' (first | done | simp +contextual (maxDischargeDepth := 99) only [accEnd_kept, State.dbgTcResume_kept, Kept.upd, Kept.ite, Kept.foldl, Kept.foldl1, implies_true, Fine.ite, Fine.next, Fine.guard, *] | split | with_reducible apply Kept.foldl | with_reducible apply Kept.foldl1 | (intro _; intros) | with_reducible apply Fine.next | with_reducible apply Fine.guard)
theorem execControlProcessorHalt_kept {s₀ : State} (porter : Bool) {s : State} (h_s : s₀.Kept s) :
    Fine s₀ False (execControlProcessorHalt porter s) := by
  unfold execControlProcessorHalt
  repeat' (first | done | simp +contextual (maxDischargeDepth := 99) only [State.setFlag_kept, accEnd_kept, Kept.upd, Kept.ite, Kept.foldl, Kept.foldl1, implies_true, Fine.ite, Fine.next, Fine.guard, *] | split | with_reducible apply Kept.foldl | with_reducible apply Kept.foldl1 | (intro _; intros) | with_reducible apply Fine.next | with_reducible apply Fine.guard)
theorem execControlProcessorStep_kept {s₀ : State} (porter : Bool) {s : State} (h_s : s₀.Kept s) :
    Fine s₀ False (execControlProcessorStep porter s) := by
  unfold execControlProcessorStep
  repeat' (first | done | simp +contextual (maxDischargeDepth := 99) only [State.setFlag_kept, accEnd_kept, Kept.upd, Kept.ite, Kept.foldl, Kept.foldl1, implies_true, Fine.ite, Fine.next, Fine.guard, *] | split | with_reducible apply Kept.foldl | with_reducible apply Kept.foldl1 | (intro _; intros) | with_reducible apply Fine.next | with_reducible apply Fine.guard)
theorem State.clearBreaks_kept {s₀ : State} {s : State} (h_s : s₀.Kept s) :
    s₀.Kept (State.clearBreaks s) := by
  unfold State.clearBreaks
  repeat' (first | done | simp +contextual (maxDischargeDepth := 99) only [State.wr_kept, State.sf_kept, Kept.upd, Kept.ite, Kept.foldl, Kept.foldl1, implies_true, *] | split | with_reducible apply Kept.foldl | with_reducible apply Kept.foldl1 | (intro _; intros))
theorem State.endGrant_kept {s₀ : State} {s : State} (h_s : s₀.Kept s) :
    s₀.Kept (State.endGrant s) := by
  unfold State.endGrant
  repeat' (first | done | simp +contextual (maxDischargeDepth := 99) only [State.sf_kept, State.setFlag_kept, State.ibFree_kept, State.tcFree_kept, State.clearBreaks_kept, Kept.upd, Kept.ite, Kept.foldl, Kept.foldl1, implies_true, *] | split | with_reducible apply Kept.foldl | with_reducible apply Kept.foldl1 | (intro _; intros))

end Sys2Proof.Machine
end

