-- ==== Sys2Proof/Laws/KeptControl.lean ====
section
/-! SUPPORT. What every operation keeps, the queue and the canonical form of the tables: links, stagings, the Porter, the clock, the Ledger. One lemma for
each operation. -/
namespace Sys2Proof.Machine
open Sys2Proof
set_option linter.unusedSimpArgs false
set_option linter.unusedVariables false

theorem State.linkGo_kept {s₀ : State} {s : State} (k : Nat) (st : Nat) (width : Nat) (h_s : s₀.Kept s) :
    s₀.Kept (State.linkGo s k st width) := by
  unfold State.linkGo
  repeat' (first | done | simp +contextual (maxDischargeDepth := 99) only [State.sf_kept, State.setFlagIf_kept, State.setLink_kept, Kept.upd, Kept.ite, Kept.foldl, Kept.foldl1, implies_true, *] | split | with_reducible apply Kept.foldl | with_reducible apply Kept.foldl1 | (intro _; intros))
theorem State.linkStart_kept {s₀ : State} {s : State} (k : Nat) (h_s : s₀.Kept s) :
    s₀.Kept (State.linkStart s k) := by
  unfold State.linkStart
  repeat' (first | done | simp +contextual (maxDischargeDepth := 99) only [State.setLink_kept, State.linkGo_kept, Kept.upd, Kept.ite, Kept.foldl, Kept.foldl1, implies_true, *] | split | with_reducible apply Kept.foldl | with_reducible apply Kept.foldl1 | (intro _; intros))
theorem State.linkStop_kept {s₀ : State} {s : State} (k : Nat) (h_s : s₀.Kept s) :
    s₀.Kept (State.linkStop s k) := by
  unfold State.linkStop
  repeat' (first | done | simp +contextual (maxDischargeDepth := 99) only [State.setLink_kept, State.linkGo_kept, Kept.upd, Kept.ite, Kept.foldl, Kept.foldl1, implies_true, *] | split | with_reducible apply Kept.foldl | with_reducible apply Kept.foldl1 | (intro _; intros))
theorem State.opFail_kept {s₀ : State} {s : State} (o : LinkOp) (st : Nat) (h_s : s₀.Kept s) :
    s₀.Kept (State.opFail s o st) := by
  unfold State.opFail
  repeat' (first | done | simp +contextual (maxDischargeDepth := 99) only [State.setIbc_kept, State.setMove_kept, Kept.upd, Kept.ite, Kept.foldl, Kept.foldl1, implies_true, *] | split | with_reducible apply Kept.foldl | with_reducible apply Kept.foldl1 | (intro _; intros))
theorem State.linkFail_kept {s₀ : State} {s : State} (k : Nat) (st : Nat) (h_s : s₀.Kept s) :
    s₀.Kept (State.linkFail s k st) := by
  unfold State.linkFail
  repeat' (first | done | simp +contextual (maxDischargeDepth := 99) only [State.sf_kept, State.setFlag_kept, State.linkGo_kept, State.opFail_kept, Kept.upd, Kept.ite, Kept.foldl, Kept.foldl1, implies_true, *] | split | with_reducible apply Kept.foldl | with_reducible apply Kept.foldl1 | (intro _; intros))
theorem State.linkOpen_kept {s₀ : State} {s : State} (k : Nat) (peerS : Nat) (h_s : s₀.Kept s) :
    s₀.Kept (State.linkOpen s k peerS) := by
  unfold State.linkOpen
  repeat' (first | done | simp +contextual (maxDischargeDepth := 99) only [State.wr_kept, State.sf_kept, State.setLink_kept, State.linkGo_kept, Kept.upd, Kept.ite, Kept.foldl, Kept.foldl1, implies_true, *] | split | with_reducible apply Kept.foldl | with_reducible apply Kept.foldl1 | (intro _; intros))
theorem execLinkTrain_kept {s₀ : State} (k : Fin 4) (ppm : Int) (lanesOk : Bool) (certs : Bool) (mfg : Bool) (digest : Nat) (peerS : Nat) {s : State} (h_s : s₀.Kept s) :
    Fine s₀ False (execLinkTrain k ppm lanesOk certs mfg digest peerS s) := by
  unfold execLinkTrain
  repeat' (first | done | simp +contextual (maxDischargeDepth := 99) only [State.sf_kept, State.setFlag_kept, State.linkFail_kept, State.linkOpen_kept, Kept.upd, Kept.ite, Kept.foldl, Kept.foldl1, implies_true, Fine.ite, Fine.next, Fine.guard, *] | split | with_reducible apply Kept.foldl | with_reducible apply Kept.foldl1 | (intro _; intros) | with_reducible apply Fine.next | with_reducible apply Fine.guard)
theorem execLinkTrainRetry_kept {s₀ : State} (k : Fin 4) {s : State} (h_s : s₀.Kept s) :
    Fine s₀ False (execLinkTrainRetry k s) := by
  unfold execLinkTrainRetry
  repeat' (first | done | simp +contextual (maxDischargeDepth := 99) only [State.linkStart_kept, Kept.upd, Kept.ite, Kept.foldl, Kept.foldl1, implies_true, Fine.ite, Fine.next, Fine.guard, *] | split | with_reducible apply Kept.foldl | with_reducible apply Kept.foldl1 | (intro _; intros) | with_reducible apply Fine.next | with_reducible apply Fine.guard)
theorem State.retrain_kept {s₀ : State} {s : State} (k : Nat) (h_s : s₀.Kept s) :
    s₀.Kept (State.retrain s k) := by
  unfold State.retrain
  repeat' (first | done | simp +contextual (maxDischargeDepth := 99) only [State.linkStart_kept, Kept.upd, Kept.ite, Kept.foldl, Kept.foldl1, implies_true, *] | split | with_reducible apply Kept.foldl | with_reducible apply Kept.foldl1 | (intro _; intros))
theorem execRetrain_kept {s₀ : State} (who : Requester) (k : Fin 4) {s : State} (h_s : s₀.Kept s) :
    Fine s₀ False (execRetrain who k s) := by
  unfold execRetrain
  repeat' (first | done | simp +contextual (maxDischargeDepth := 99) only [State.asWrite_kept, State.retrain_kept, Kept.upd, Kept.ite, Kept.foldl, Kept.foldl1, implies_true, Fine.ite, Fine.next, Fine.guard, *] | split | with_reducible apply Kept.foldl | with_reducible apply Kept.foldl1 | (intro _; intros) | with_reducible apply State.asWrite_kept | with_reducible apply Fine.next | with_reducible apply Fine.guard)
theorem State.linkAck_kept {s₀ : State} {s : State} (k : Nat) (ack : BitVec 12) (h_s : s₀.Kept s) :
    s₀.Kept (State.linkAck s k ack) := by
  unfold State.linkAck
  repeat' (first | done | simp +contextual (maxDischargeDepth := 99) only [State.setLink_kept, Kept.upd, Kept.ite, Kept.foldl, Kept.foldl1, implies_true, *] | split | with_reducible apply Kept.foldl | with_reducible apply Kept.foldl1 | (intro _; intros))
theorem State.linkDegrade_kept {s₀ : State} {s : State} (k : Nat) (h_s : s₀.Kept s) :
    s₀.Kept (State.linkDegrade s k) := by
  unfold State.linkDegrade
  repeat' (first | done | simp +contextual (maxDischargeDepth := 99) only [State.setFlag_kept, State.linkGo_kept, State.linkFail_kept, Kept.upd, Kept.ite, Kept.foldl, Kept.foldl1, implies_true, *] | split | with_reducible apply Kept.foldl | with_reducible apply Kept.foldl1 | (intro _; intros))
theorem State.linkLane_kept {s₀ : State} {s : State} (k : Nat) (lane : Option Nat) (h_s : s₀.Kept s) :
    s₀.Kept (State.linkLane s k lane) := by
  unfold State.linkLane
  repeat' (first | done | simp +contextual (maxDischargeDepth := 99) only [State.sf_kept, State.setFlag_kept, State.setLink_kept, State.relFault_kept, State.relLasting_kept, State.spend_kept, State.noSpare_kept, State.linkStart_kept, State.linkDegrade_kept, Kept.upd, Kept.ite, Kept.foldl, Kept.foldl1, implies_true, *] | split | with_reducible apply Kept.foldl | with_reducible apply Kept.foldl1 | (intro _; intros))
theorem execDataFlitRx_kept {s₀ : State} (k : Fin 4) (ok : Bool) (seq : BitVec 12) (ack : BitVec 12) (idle : Bool) (lane : Option (Fin 9)) {s : State} (h_s : s₀.Kept s) :
    Fine s₀ False (execDataFlitRx k ok seq ack idle lane s) := by
  unfold execDataFlitRx
  repeat' (first | done | simp +contextual (maxDischargeDepth := 99) only [State.wr_kept, State.setLink_kept, State.relTrans_kept, State.linkAck_kept, State.linkLane_kept, Kept.upd, Kept.ite, Kept.foldl, Kept.foldl1, implies_true, Fine.ite, Fine.next, Fine.guard, *] | split | with_reducible apply Kept.foldl | with_reducible apply Kept.foldl1 | (intro _; intros) | with_reducible apply Fine.next | with_reducible apply Fine.guard)
theorem State.linkRetry_kept {s₀ : State} {s : State} (k : Nat) (h_s : s₀.Kept s) :
    s₀.Kept (State.linkRetry s k) := by
  unfold State.linkRetry
  repeat' (first | done | simp +contextual (maxDischargeDepth := 99) only [State.wr_kept, State.setFlag_kept, State.setLink_kept, Kept.upd, Kept.ite, Kept.foldl, Kept.foldl1, implies_true, *] | split | with_reducible apply Kept.foldl | with_reducible apply Kept.foldl1 | (intro _; intros))
theorem execControlFlitRx_kept {s₀ : State} (k : Fin 4) (ok : Bool) (ack : BitVec 12) (nak : Bool) (c0 : Nat) (c1 : Nat) {s : State} (h_s : s₀.Kept s) :
    Fine s₀ False (execControlFlitRx k ok ack nak c0 c1 s) := by
  unfold execControlFlitRx
  repeat' (first | done | simp +contextual (maxDischargeDepth := 99) only [State.setLink_kept, State.linkAck_kept, State.linkRetry_kept, Kept.upd, Kept.ite, Kept.foldl, Kept.foldl1, implies_true, Fine.ite, Fine.next, Fine.guard, *] | split | with_reducible apply Kept.foldl | with_reducible apply Kept.foldl1 | (intro _; intros) | with_reducible apply Fine.next | with_reducible apply Fine.guard)
theorem execAckTimeout_kept {s₀ : State} (k : Fin 4) {s : State} (h_s : s₀.Kept s) :
    Fine s₀ False (execAckTimeout k s) := by
  unfold execAckTimeout
  repeat' (first | done | simp +contextual (maxDischargeDepth := 99) only [State.linkRetry_kept, Kept.upd, Kept.ite, Kept.foldl, Kept.foldl1, implies_true, Fine.ite, Fine.next, Fine.guard, *] | split | with_reducible apply Kept.foldl | with_reducible apply Kept.foldl1 | (intro _; intros) | with_reducible apply Fine.next | with_reducible apply Fine.guard)
theorem State.opDone_kept {s₀ : State} {s : State} (o : LinkOp) (h_s : s₀.Kept s) :
    s₀.Kept (State.opDone s o) := by
  unfold State.opDone
  repeat' (first | done | simp +contextual (maxDischargeDepth := 99) only [Kept.upd, Kept.ite, Kept.foldl, Kept.foldl1, implies_true, *] | split | with_reducible apply Kept.foldl | with_reducible apply Kept.foldl1 | (intro _; intros))
theorem State.unitAnswered_kept {s₀ : State} {s : State} (o : LinkOp) (h_s : s₀.Kept s) :
    s₀.Kept (State.unitAnswered s o) := by
  unfold State.unitAnswered
  repeat' (first | done | simp +contextual (maxDischargeDepth := 99) only [State.setIbc_kept, State.setMove_kept, Kept.upd, Kept.ite, Kept.foldl, Kept.foldl1, implies_true, *] | split | with_reducible apply Kept.foldl | with_reducible apply Kept.foldl1 | (intro _; intros))
theorem State.unitLands_kept {s₀ : State} {s : State} (o : LinkOp) (data : List Byte) (h_s : s₀.Kept s) :
    s₀.Kept (State.unitLands s o data) := by
  unfold State.unitLands
  repeat' (first | done | simp +contextual (maxDischargeDepth := 99) only [State.put_kept, Kept.upd, Kept.ite, Kept.foldl, Kept.foldl1, implies_true, *] | split | with_reducible apply Kept.foldl | with_reducible apply Kept.foldl1 | (intro _; intros))
theorem State.pageLand_some {s₀ : State} {s : State} (P : Kv) (h_s : s₀.Kept s) {t}
    (h_o : State.pageLand s P = some t) : s₀.Kept t.1 := by
  unfold State.pageLand at h_o
  dsimp only at h_o
  have slot : ∀ {v : State} {f : State × Nat → State × Nat} {r}, (∀ x, s₀.Kept x.1 → s₀.Kept (f x).1) → s₀.Kept v →
      (v.allocSlot P).map f = some r → s₀.Kept r.1 := by
    intro v f r hf hv h
    simp only [Option.map_eq_some_iff] at h
    obtain ⟨w, hw, rfl⟩ := h
    exact hf _ (State.allocSlot_some (t := w) _ hv hw)
  have unit : ∀ {f : Nat → State × Nat} {o : Option Nat} {r}, (∀ u, s₀.Kept (f u).1) → o.map f = some r → s₀.Kept r.1 := by
    intro f o r hf h
    simp only [Option.map_eq_some_iff] at h
    obtain ⟨w, _, rfl⟩ := h
    exact hf w
  have hu : ∀ u, s₀.Kept ({ s with landing := s.landing ++ [s.unitAddr P u] } : State) := fun u => Kept.upd h_s
  split at h_o
  · exact unit hu h_o
  · split at h_o
    · exact slot (fun x hx => State.keepLwm_kept _ (Kept.upd hx)) (State.makeRoom_kept (h_s := h_s) ..) h_o
    · split at h_o
      · exact slot (fun x hx => State.keepLwm_kept _ (Kept.upd hx)) h_s h_o
      · exact unit hu h_o
theorem State.pageBytesIn_kept {s₀ : State} {s : State} (l : Nat) (a : Nat) (got : Nat) (data : List Byte) (remote : Bool) (h_s : s₀.Kept s) :
    s₀.Kept (State.pageBytesIn s l a got data remote) := by
  unfold State.pageBytesIn
  repeat' (first | done | simp +contextual (maxDischargeDepth := 99) only [State.put_kept, State.charge_kept, State.tierCharge_kept, Kept.upd, Kept.ite, Kept.foldl, Kept.foldl1, implies_true, *] | split | with_reducible apply Kept.foldl | with_reducible apply Kept.foldl1 | (intro _; intros))
theorem State.linkAnswer_kept {s₀ : State} {s : State} (k : Nat) (r : LinkRec) (h_s : s₀.Kept s) :
    s₀.Kept (State.linkAnswer s k r) := by
  unfold State.linkAnswer
  repeat' (first | done | simp +contextual (maxDischargeDepth := 99) only [State.countStatus_kept, State.linkSend_kept, Kept.upd, Kept.ite, Kept.foldl, Kept.foldl1, implies_true, *] | split | with_reducible apply Kept.foldl | with_reducible apply Kept.foldl1 | (intro _; intros))
theorem State.chargePeer_kept {s₀ : State} {s : State} (l : Nat) (a : Nat) (n : Nat) (wr : Bool) (h_s : s₀.Kept s) :
    s₀.Kept (State.chargePeer s l a n wr) := by
  unfold State.chargePeer
  repeat' (first | done | simp +contextual (maxDischargeDepth := 99) only [State.wr_kept, State.charge_kept, State.tierCharge_kept, Kept.upd, Kept.ite, Kept.foldl, Kept.foldl1, implies_true, *] | split | with_reducible apply Kept.foldl | with_reducible apply Kept.foldl1 | (intro _; intros))
theorem State.rxWrite_kept {s₀ : State} {s : State} (k : Nat) (r : LinkIn) (h_s : s₀.Kept s) :
    s₀.Kept (State.rxWrite s k r) := by
  unfold State.rxWrite
  repeat' (first | done | simp +contextual (maxDischargeDepth := 99) only [State.put_kept, State.linkAnswer_kept, State.chargePeer_kept, Kept.upd, Kept.ite, Kept.foldl, Kept.foldl1, implies_true, *] | split | with_reducible apply Kept.foldl | with_reducible apply Kept.foldl1 | (intro _; intros))
theorem State.rxRead_kept {s₀ : State} {s : State} (k : Nat) (r : LinkIn) (h_s : s₀.Kept s) :
    s₀.Kept (State.rxRead s k r) := by
  unfold State.rxRead
  repeat' (first | done | simp +contextual (maxDischargeDepth := 99) only [State.getBytes_kept, State.linkAnswer_kept, State.chargePeer_kept, Kept.upd, Kept.ite, Kept.foldl, Kept.foldl1, implies_true, *] | split | with_reducible apply Kept.foldl | with_reducible apply Kept.foldl1 | (intro _; intros))
theorem State.putAnswer_kept {s₀ : State} {s : State} (k : Nat) (r : LinkIn) (st : Nat) (h_s : s₀.Kept s) :
    s₀.Kept (State.putAnswer s k r st) := by
  unfold State.putAnswer
  repeat' (first | done | simp +contextual (maxDischargeDepth := 99) only [State.linkAnswer_kept, Kept.upd, Kept.ite, Kept.foldl, Kept.foldl1, implies_true, *] | split | with_reducible apply Kept.foldl | with_reducible apply Kept.foldl1 | (intro _; intros))
theorem State.putOp_kept {s₀ : State} {s : State} (k : Nat) (r : LinkIn) (h_s : s₀.Kept s) :
    s₀.Kept (State.putOp s k r).1 := by
  unfold State.putOp
  dsimp only
  repeat' (first | (exact h_s) | (exact Kept.upd h_s) | (exact Kept.upd (State.pageUse_kept (h_s := State.pageLand_some _ h_s ‹s.pageLand _ = some _›) ..)) | split)
theorem State.opGot_kept {s₀ : State} {s : State} (o : LinkOp) (n : Nat) (h_s : s₀.Kept s) :
    s₀.Kept (State.opGot s o n) := by
  unfold State.opGot
  repeat' (first | done | simp +contextual (maxDischargeDepth := 99) only [Kept.upd, Kept.ite, Kept.foldl, Kept.foldl1, implies_true, *] | split | with_reducible apply Kept.foldl | with_reducible apply Kept.foldl1 | (intro _; intros))
theorem State.rxPut_kept {s₀ : State} {s : State} (k : Nat) (r : LinkIn) (h_s : s₀.Kept s) :
    s₀.Kept (State.rxPut s k r) := by
  unfold State.rxPut
  dsimp only
  have h1 := State.putOp_kept k r h_s
  repeat' (first | (with_reducible exact State.opGot_kept _ _ h1) | (with_reducible exact State.opGot_kept _ _ (State.pageBytesIn_kept (h_s := h1) ..)) |
    (with_reducible exact State.putAnswer_kept _ _ _ (State.opDone_kept _ h1)) | (with_reducible exact State.putAnswer_kept _ _ _ (State.pageArrived_kept (h_s := Kept.upd h1) ..)) | split)
theorem State.rxGet_kept {s₀ : State} {s : State} (k : Nat) (r : LinkIn) (h_s : s₀.Kept s) :
    s₀.Kept (State.rxGet s k r) := by
  unfold State.rxGet
  dsimp only
  have hp := State.pageRecs_kept (s.kvOf r.dst r.reg) r.addr 7 r.dst r.src 0 0 h_s
  split
  · exact State.linkAnswer_kept _ _ h_s
  · split
    · rename_i h; rw [h] at hp; exact State.linkAnswer_kept _ _ hp
    · rename_i h; rw [h] at hp
      exact Kept.foldl (State.chargePeer_kept (h_s := hp) ..) fun t x ht => State.linkSend_kept (h_s := ht) ..
theorem State.putAnswered_kept {s₀ : State} {s : State} (o : LinkOp) (st : Nat) (h_s : s₀.Kept s) :
    s₀.Kept (State.putAnswered s o st) := by
  unfold State.putAnswered
  repeat' (first | done | simp +contextual (maxDischargeDepth := 99) only [State.modPage_kept, State.setMove_kept, State.opFail_kept, State.opDone_kept, Kept.upd, Kept.ite, Kept.foldl, Kept.foldl1, implies_true, *] | split | with_reducible apply Kept.foldl | with_reducible apply Kept.foldl1 | (intro _; intros))
theorem State.getBody_kept {s₀ : State} {s : State} (o : LinkOp) (P : Kv) (own : List (Bool × Nat)) (data : List Byte) (h_s : s₀.Kept s) :
    s₀.Kept (State.getBody s o P own data) := by
  unfold State.getBody
  dsimp only
  repeat' (first | (with_reducible exact Kept.upd h_s) | (with_reducible exact Kept.upd (State.pageBytesIn_kept (h_s := h_s) ..)) |
    (with_reducible exact Kept.upd (State.pageLand_some _ h_s ‹s.pageLand _ = some _›)) |
    (with_reducible exact Kept.upd (State.pageBytesIn_kept (h_s := State.pageLand_some _ h_s ‹s.pageLand _ = some _›) ..)) | split)
theorem State.rxPage_kept {s₀ : State} {s : State} (o : LinkOp) (r : LinkIn) (h_s : s₀.Kept s) :
    s₀.Kept (State.rxPage s o r) := by
  unfold State.rxPage
  repeat' (first | done | simp +contextual (maxDischargeDepth := 99) only [State.setMove_kept, State.pageArrived_kept, State.opFail_kept, State.opDone_kept, State.getBody_kept, Kept.upd, Kept.ite, Kept.foldl, Kept.foldl1, implies_true, *] | split | with_reducible apply Kept.foldl | with_reducible apply Kept.foldl1 | (intro _; intros))
theorem State.rxRecord_kept {s₀ : State} {s : State} (k : Nat) (r : LinkIn) (h_s : s₀.Kept s) :
    s₀.Kept (State.rxRecord s k r) := by
  unfold State.rxRecord
  repeat' (first | done | simp +contextual (maxDischargeDepth := 99) only [State.opFail_kept, State.opDone_kept, State.unitAnswered_kept, State.unitLands_kept, State.linkAnswer_kept, State.rxWrite_kept, State.rxRead_kept, State.rxPut_kept, State.rxGet_kept, State.putAnswered_kept, State.rxPage_kept, Kept.upd, Kept.ite, Kept.foldl, Kept.foldl1, implies_true, *] | split | with_reducible apply Kept.foldl | with_reducible apply Kept.foldl1 | (intro _; intros))
theorem execLinkRecordRx_kept {s₀ : State} (k : Fin 4) (tag : Bool) (seq : Nat) (kind : Nat) (last : Bool) (src : Fin 16) (dst : Fin 16) (reg : Nat) (status : Nat) (op : Nat) (addr : Nat) (data : List Byte) {s : State} (h_s : s₀.Kept s) :
    Fine s₀ False (execLinkRecordRx k tag seq kind last src dst reg status op addr data s) := by
  unfold execLinkRecordRx
  repeat' (first | done | simp +contextual (maxDischargeDepth := 99) only [State.setFlag_kept, State.setLink_kept, State.kvSettle_kept, State.linkFail_kept, State.rxRecord_kept, Kept.upd, Kept.ite, Kept.foldl, Kept.foldl1, implies_true, Fine.ite, Fine.next, Fine.guard, *] | split | with_reducible apply Kept.foldl | with_reducible apply Kept.foldl1 | (intro _; intros) | with_reducible apply Fine.next | with_reducible apply Fine.guard)
theorem execLinkOpTimeout_kept {s₀ : State} (k : Fin 4) (op : Nat) {s : State} (h_s : s₀.Kept s) :
    Fine s₀ False (execLinkOpTimeout k op s) := by
  unfold execLinkOpTimeout
  repeat' (first | done | simp +contextual (maxDischargeDepth := 99) only [State.kvSettle_kept, State.opFail_kept, Kept.upd, Kept.ite, Kept.foldl, Kept.foldl1, implies_true, Fine.ite, Fine.next, Fine.guard, *] | split | with_reducible apply Kept.foldl | with_reducible apply Kept.foldl1 | (intro _; intros) | with_reducible apply Fine.next | with_reducible apply Fine.guard)
theorem State.stgEnd_kept {s₀ : State} {s : State} (st : Nat) (h_s : s₀.Kept s) :
    s₀.Kept (State.stgEnd s st) := by
  unfold State.stgEnd
  repeat' (first | done | simp +contextual (maxDischargeDepth := 99) only [State.sf_kept, State.countStatus_kept, Kept.upd, Kept.ite, Kept.foldl, Kept.foldl1, implies_true, *] | split | with_reducible apply Kept.foldl | with_reducible apply Kept.foldl1 | (intro _; intros))
theorem State.stgGo_kept {s₀ : State} {s : State} (st : Nat) (h_s : s₀.Kept s) :
    s₀.Kept (State.stgGo s st) := by
  unfold State.stgGo
  repeat' (first | done | simp +contextual (maxDischargeDepth := 99) only [State.sf_kept, Kept.upd, Kept.ite, Kept.foldl, Kept.foldl1, implies_true, *] | split | with_reducible apply Kept.foldl | with_reducible apply Kept.foldl1 | (intro _; intros))
theorem State.stgClose_kept {s₀ : State} {s : State} (h_s : s₀.Kept s) :
    s₀.Kept (State.stgClose s) := by
  unfold State.stgClose
  repeat' (first | done | simp +contextual (maxDischargeDepth := 99) only [State.sf_kept, State.stgGo_kept, Kept.upd, Kept.ite, Kept.foldl, Kept.foldl1, implies_true, *] | split | with_reducible apply Kept.foldl | with_reducible apply Kept.foldl1 | (intro _; intros))
theorem State.asStager_kept {s₀ : State} {s : State} (who : Requester) (eff : State → State) (h_eff : ∀ (x0 : State), s₀.Kept x0 → s₀.Kept (eff x0)) (h_s : s₀.Kept s) :
    s₀.Kept (State.asStager s who eff) := by
  unfold State.asStager
  repeat' (first | done | simp +contextual (maxDischargeDepth := 99) only [State.setFlag_kept, State.asWrite_kept, Kept.upd, Kept.ite, Kept.foldl, Kept.foldl1, implies_true, *] | split | with_reducible apply Kept.foldl | with_reducible apply Kept.foldl1 | (intro _; intros) | with_reducible apply State.asWrite_kept)
theorem State.carCfg_kept {s₀ : State} {s : State} {t : State} (a : Nat) (h_s : s₀.Kept s) (h_t : s₀.Kept t) :
    s₀.Kept (State.carCfg s t a) := by
  unfold State.carCfg
  repeat' (first | done | simp +contextual (maxDischargeDepth := 99) only [Kept.upd, Kept.ite, Kept.foldl, Kept.foldl1, implies_true, *] | split | with_reducible apply Kept.foldl | with_reducible apply Kept.foldl1 | (intro _; intros))
theorem State.stgCheck_kept {s₀ : State} {s : State} (commit : Bool) (h_s : s₀.Kept s) :
    s₀.Kept (State.stgCheck s commit).1 := by
  unfold State.stgCheck
  repeat' (first | done | simp +contextual (maxDischargeDepth := 99) only [State.powerNeeded_kept, State.overlay_kept, Kept.upd, Kept.ite, Kept.foldl, Kept.foldl1, implies_true, *] | split | with_reducible apply Kept.foldl | with_reducible apply Kept.foldl1 | (intro _; intros))
theorem State.stgFail_kept {s₀ : State} {s : State} (reg : Nat) (h_s : s₀.Kept s) :
    s₀.Kept (State.stgFail s reg) := by
  unfold State.stgFail
  repeat' (first | done | simp +contextual (maxDischargeDepth := 99) only [State.wr_kept, Kept.upd, Kept.ite, Kept.foldl, Kept.foldl1, implies_true, *] | split | with_reducible apply Kept.foldl | with_reducible apply Kept.foldl1 | (intro _; intros))
theorem State.clearRes_kept {s₀ : State} {s : State} (r : Release) (h_s : s₀.Kept s) :
    s₀.Kept (State.clearRes s r) := by
  unfold State.clearRes
  repeat' (first | done | simp +contextual (maxDischargeDepth := 99) only [State.wr_kept, State.clearBlock_kept, State.rows_kept, State.clearCore_kept, State.clearPart_kept, State.clearIbc_kept, State.clearGranule_kept, Kept.upd, Kept.ite, Kept.foldl, Kept.foldl1, implies_true, *] | split | with_reducible apply Kept.foldl | with_reducible apply Kept.foldl1 | (intro _; intros))
theorem State.clearEnter_kept {s₀ : State} {s : State} (c : Nat) (p : Nat) (h_s : s₀.Kept s) :
    s₀.Kept (State.clearEnter s c p) := by
  unfold State.clearEnter
  repeat' (first | done | simp +contextual (maxDischargeDepth := 99) only [State.clearCore_kept, State.clearPart_kept, Kept.upd, Kept.ite, Kept.foldl, Kept.foldl1, implies_true, *] | split | with_reducible apply Kept.foldl | with_reducible apply Kept.foldl1 | (intro _; intros))
theorem State.enterCores_kept {s₀ : State} {s : State} (h_s : s₀.Kept s) :
    s₀.Kept (State.enterCores s) := by
  unfold State.enterCores
  repeat' (first | done | simp +contextual (maxDischargeDepth := 99) only [State.enter_kept, State.clearEnter_kept, Kept.upd, Kept.ite, Kept.foldl, Kept.foldl1, implies_true, *] | split | with_reducible apply Kept.foldl | with_reducible apply Kept.foldl1 | (intro _; intros))
theorem State.showReleasing_kept {s₀ : State} {s : State} (h_s : s₀.Kept s) :
    s₀.Kept (State.showReleasing s) := by
  unfold State.showReleasing
  repeat' (first | done | simp +contextual (maxDischargeDepth := 99) only [State.sf_kept, Kept.upd, Kept.ite, Kept.foldl, Kept.foldl1, implies_true, *] | split | with_reducible apply Kept.foldl | with_reducible apply Kept.foldl1 | (intro _; intros))
theorem State.eraseKeys_kept {s₀ : State} {s : State} (l : Nat) (h_s : s₀.Kept s) :
    s₀.Kept (State.eraseKeys s l) := by
  unfold State.eraseKeys
  repeat' (first | done | simp +contextual (maxDischargeDepth := 99) only [State.wr_kept, Kept.upd, Kept.ite, Kept.foldl, Kept.foldl1, implies_true, *] | split | with_reducible apply Kept.foldl | with_reducible apply Kept.foldl1 | (intro _; intros))
theorem State.closeSess_kept {s₀ : State} {s : State} (l : Nat) (h_s : s₀.Kept s) :
    s₀.Kept (State.closeSess s l) := by
  unfold State.closeSess
  repeat' (first | done | simp +contextual (maxDischargeDepth := 99) only [State.wr_kept, Kept.upd, Kept.ite, Kept.foldl, Kept.foldl1, implies_true, *] | split | with_reducible apply Kept.foldl | with_reducible apply Kept.foldl1 | (intro _; intros))
theorem State.bindKeys_kept {s₀ : State} {s : State} (l : Nat) (h_s : s₀.Kept s) :
    s₀.Kept (State.bindKeys s l) := by
  unfold State.bindKeys
  repeat' (first | done | simp +contextual (maxDischargeDepth := 99) only [State.sf_kept, State.draw_kept, State.eraseKeys_kept, Kept.upd, Kept.ite, Kept.foldl, Kept.foldl1, implies_true, *] | split | with_reducible apply Kept.foldl | with_reducible apply Kept.foldl1 | (intro _; intros))
theorem State.unbind_kept {s₀ : State} {s : State} (l : Nat) (h_s : s₀.Kept s) :
    s₀.Kept (State.unbind s l) := by
  unfold State.unbind
  repeat' (first | done | simp +contextual (maxDischargeDepth := 99) only [State.teardown_kept, State.dropPools_kept, State.dropQueue_kept, State.eraseKeys_kept, Kept.upd, Kept.ite, Kept.foldl, Kept.foldl1, implies_true, *] | split | with_reducible apply Kept.foldl | with_reducible apply Kept.foldl1 | (intro _; intros))
theorem State.slotCmp_kept {s₀ : State} {s : State} (a : Nat) (h_s : s₀.Kept s) :
    s₀.Kept (State.slotCmp s a) := by
  unfold State.slotCmp
  repeat' (first | done | simp +contextual (maxDischargeDepth := 99) only [State.setCmp_kept, Kept.upd, Kept.ite, Kept.foldl, Kept.foldl1, implies_true, *] | split | with_reducible apply Kept.foldl | with_reducible apply Kept.foldl1 | (intro _; intros))
theorem State.keepCfg_kept {s₀ : State} {s : State} {t : State} {u : State} (a : Nat) (h_s : s₀.Kept s) (h_t : s₀.Kept t) (h_u : s₀.Kept u) :
    s₀.Kept (State.keepCfg s t u a) := by
  unfold State.keepCfg
  repeat' (first | done | simp +contextual (maxDischargeDepth := 99) only [State.setCar_kept, Kept.upd, Kept.ite, Kept.foldl, Kept.foldl1, implies_true, *] | split | with_reducible apply Kept.foldl | with_reducible apply Kept.foldl1 | (intro _; intros))
theorem State.carLive_kept {s₀ : State} {s : State} {t : State} {u : State} (a : Nat) (h_s : s₀.Kept s) (h_t : s₀.Kept t) (h_u : s₀.Kept u) :
    s₀.Kept (State.carLive s t u a) := by
  unfold State.carLive
  repeat' (first | done | simp +contextual (maxDischargeDepth := 99) only [State.wr_kept, State.acquire_kept, State.orderResult_kept, State.dropOrder_kept, State.setCmp_kept, State.slotCmp_kept, State.keepCfg_kept, Kept.upd, Kept.ite, Kept.foldl, Kept.foldl1, implies_true, *] | split | with_reducible apply Kept.foldl | with_reducible apply Kept.foldl1 | (intro _; intros))
theorem State.strmLive_kept {s₀ : State} {s : State} (vals : List (Nat × Word)) {u : State} (k : Nat) (h_s : s₀.Kept s) (h_u : s₀.Kept u) :
    s₀.Kept (State.strmLive s vals u k) := by
  unfold State.strmLive
  repeat' (first | done | simp +contextual (maxDischargeDepth := 99) only [State.wr_kept, State.setStrm_kept, Kept.upd, Kept.ite, Kept.foldl, Kept.foldl1, implies_true, *] | split | with_reducible apply Kept.foldl | with_reducible apply Kept.foldl1 | (intro _; intros))
theorem State.bqLive_kept {s₀ : State} {s : State} (vals : List (Nat × Word)) {u : State} (l : Nat) (q : Nat) (h_s : s₀.Kept s) (h_u : s₀.Kept u) :
    s₀.Kept (State.bqLive s vals u l q) := by
  unfold State.bqLive
  repeat' (first | done | simp +contextual (maxDischargeDepth := 99) only [State.setBq_kept, Kept.upd, Kept.ite, Kept.foldl, Kept.foldl1, implies_true, *] | split | with_reducible apply Kept.foldl | with_reducible apply Kept.foldl1 | (intro _; intros))
theorem State.blocksLive_kept {s₀ : State} {s : State} {t : State} (vals : List (Nat × Word)) {u : State} (h_s : s₀.Kept s) (h_t : s₀.Kept t) (h_u : s₀.Kept u) :
    s₀.Kept (State.blocksLive s t vals u) := by
  unfold State.blocksLive
  repeat' (first | done | simp +contextual (maxDischargeDepth := 99) only [State.wr_kept, State.sf_kept, State.fillBuckets_kept, State.pump_kept, State.setCmp_kept, State.linkStart_kept, State.linkStop_kept, State.closeSess_kept, State.bindKeys_kept, State.carLive_kept, State.strmLive_kept, State.bqLive_kept, Kept.upd, Kept.ite, Kept.foldl, Kept.foldl1, implies_true, *] | split | with_reducible apply Kept.foldl | with_reducible apply Kept.foldl1 | (intro _; intros))
theorem State.yields_kept {s₀ : State} {s : State} (rs : List Release) (h_s : s₀.Kept s) :
    s₀.Kept (State.yields s rs) := by
  unfold State.yields
  repeat' (first | done | simp +contextual (maxDischargeDepth := 99) only [State.wb_kept, State.signal_kept, State.setLodge_kept, Kept.upd, Kept.ite, Kept.foldl, Kept.foldl1, implies_true, *] | split | with_reducible apply Kept.foldl | with_reducible apply Kept.foldl1 | (intro _; intros))
theorem State.clearEntering_kept {s₀ : State} {s : State} {t : State} (vals : List (Nat × Word)) {u : State} (h_s : s₀.Kept s) (h_t : s₀.Kept t) (h_u : s₀.Kept u) :
    s₀.Kept (State.clearEntering s t vals u) := by
  unfold State.clearEntering
  repeat' (first | done | simp +contextual (maxDischargeDepth := 99) only [State.clearBlock_kept, State.enter_kept, State.clearGranule_kept, State.clearRes_kept, State.enterCores_kept, Kept.upd, Kept.ite, Kept.foldl, Kept.foldl1, implies_true, *] | split | with_reducible apply Kept.foldl | with_reducible apply Kept.foldl1 | (intro _; intros))
theorem State.makeLive_kept {s₀ : State} {s : State} (vals : List (Nat × Word)) (h_s : s₀.Kept s) :
    s₀.Kept (State.makeLive s vals) := by
  unfold State.makeLive
  repeat' (first | done | simp +contextual (maxDischargeDepth := 99) only [State.wr_kept, State.clearRes_kept, State.showReleasing_kept, State.unbind_kept, State.blocksLive_kept, State.yields_kept, State.clearEntering_kept, Kept.upd, Kept.ite, Kept.foldl, Kept.foldl1, implies_true, *] | split | with_reducible apply Kept.foldl | with_reducible apply Kept.foldl1 | (intro _; intros))
theorem State.applyCommit_kept {s₀ : State} {s : State} (h_s : s₀.Kept s) :
    s₀.Kept (State.applyCommit s) := by
  unfold State.applyCommit
  repeat' (first | done | simp +contextual (maxDischargeDepth := 99) only [State.wr_kept, State.setFlag_kept, State.stgEnd_kept, State.stgClose_kept, State.stgFail_kept, State.makeLive_kept, Kept.upd, Kept.ite, Kept.foldl, Kept.foldl1, implies_true, *] | split | with_reducible apply Kept.foldl | with_reducible apply Kept.foldl1 | (intro _; intros))
theorem State.refuseCommit_kept {s₀ : State} {s : State} (st : Nat) (reg : Nat) (h_s : s₀.Kept s) :
    s₀.Kept (State.refuseCommit s st reg) := by
  unfold State.refuseCommit
  repeat' (first | done | simp +contextual (maxDischargeDepth := 99) only [State.setFlag_kept, State.stgEnd_kept, State.stgGo_kept, State.stgFail_kept, Kept.upd, Kept.ite, Kept.foldl, Kept.foldl1, implies_true, *] | split | with_reducible apply Kept.foldl | with_reducible apply Kept.foldl1 | (intro _; intros))
theorem State.opBegin_kept {s₀ : State} {s : State} (who : Requester) (h_s : s₀.Kept s) :
    s₀.Kept (State.opBegin s who) := by
  unfold State.opBegin
  repeat' (first | done | simp +contextual (maxDischargeDepth := 99) only [State.sf_kept, State.stgEnd_kept, State.stgGo_kept, Kept.upd, Kept.ite, Kept.foldl, Kept.foldl1, implies_true, *] | split | with_reducible apply Kept.foldl | with_reducible apply Kept.foldl1 | (intro _; intros))
theorem State.opCheck_kept {s₀ : State} {s : State} (h_s : s₀.Kept s) :
    s₀.Kept (State.opCheck s) := by
  unfold State.opCheck
  repeat' (first | done | simp +contextual (maxDischargeDepth := 99) only [State.stgEnd_kept, State.stgGo_kept, State.stgCheck_kept, State.stgFail_kept, Kept.upd, Kept.ite, Kept.foldl, Kept.foldl1, implies_true, *] | split | with_reducible apply Kept.foldl | with_reducible apply Kept.foldl1 | (intro _; intros))
theorem State.opCommit_kept {s₀ : State} {s : State} (h_s : s₀.Kept s) :
    s₀.Kept (State.opCommit s) := by
  unfold State.opCommit
  repeat' (first | done | simp +contextual (maxDischargeDepth := 99) only [State.sf_kept, State.stgEnd_kept, State.stgGo_kept, State.stgCheck_kept, State.stgFail_kept, State.applyCommit_kept, State.refuseCommit_kept, Kept.upd, Kept.ite, Kept.foldl, Kept.foldl1, implies_true, *] | split | with_reducible apply Kept.foldl | with_reducible apply Kept.foldl1 | (intro _; intros))
theorem State.opAbandon_kept {s₀ : State} {s : State} (h_s : s₀.Kept s) :
    s₀.Kept (State.opAbandon s) := by
  unfold State.opAbandon
  repeat' (first | done | simp +contextual (maxDischargeDepth := 99) only [State.stgEnd_kept, State.stgClose_kept, Kept.upd, Kept.ite, Kept.foldl, Kept.foldl1, implies_true, *] | split | with_reducible apply Kept.foldl | with_reducible apply Kept.foldl1 | (intro _; intros))
theorem execBeginStg_kept {s₀ : State} (who : Requester) {s : State} (h_s : s₀.Kept s) :
    Fine s₀ False (execBeginStg who s) := by
  unfold execBeginStg
  repeat' (first | done | simp +contextual (maxDischargeDepth := 99) only [State.asStager_kept, State.opBegin_kept, Kept.upd, Kept.ite, Kept.foldl, Kept.foldl1, implies_true, Fine.ite, Fine.next, Fine.guard, *] | split | with_reducible apply Kept.foldl | with_reducible apply Kept.foldl1 | (intro _; intros) | with_reducible apply State.asStager_kept | with_reducible apply Fine.next | with_reducible apply Fine.guard)
theorem execCheckStg_kept {s₀ : State} (who : Requester) {s : State} (h_s : s₀.Kept s) :
    Fine s₀ False (execCheckStg who s) := by
  unfold execCheckStg
  repeat' (first | done | simp +contextual (maxDischargeDepth := 99) only [State.asStager_kept, State.opCheck_kept, Kept.upd, Kept.ite, Kept.foldl, Kept.foldl1, implies_true, Fine.ite, Fine.next, Fine.guard, *] | split | with_reducible apply Kept.foldl | with_reducible apply Kept.foldl1 | (intro _; intros) | with_reducible apply State.asStager_kept | with_reducible apply Fine.next | with_reducible apply Fine.guard)
theorem execCommitStg_kept {s₀ : State} (who : Requester) {s : State} (h_s : s₀.Kept s) :
    Fine s₀ False (execCommitStg who s) := by
  unfold execCommitStg
  repeat' (first | done | simp +contextual (maxDischargeDepth := 99) only [State.asStager_kept, State.opCommit_kept, Kept.upd, Kept.ite, Kept.foldl, Kept.foldl1, implies_true, Fine.ite, Fine.next, Fine.guard, *] | split | with_reducible apply Kept.foldl | with_reducible apply Kept.foldl1 | (intro _; intros) | with_reducible apply State.asStager_kept | with_reducible apply Fine.next | with_reducible apply Fine.guard)
theorem execAbandonStg_kept {s₀ : State} (who : Requester) {s : State} (h_s : s₀.Kept s) :
    Fine s₀ False (execAbandonStg who s) := by
  unfold execAbandonStg
  repeat' (first | done | simp +contextual (maxDischargeDepth := 99) only [State.asStager_kept, State.opAbandon_kept, Kept.upd, Kept.ite, Kept.foldl, Kept.foldl1, implies_true, Fine.ite, Fine.next, Fine.guard, *] | split | with_reducible apply Kept.foldl | with_reducible apply Kept.foldl1 | (intro _; intros) | with_reducible apply State.asStager_kept | with_reducible apply Fine.next | with_reducible apply Fine.guard)
theorem execCommitInstant_kept {s₀ : State} {s : State} (h_s : s₀.Kept s) :
    Fine s₀ False (execCommitInstant s) := by
  unfold execCommitInstant
  repeat' (first | done | simp +contextual (maxDischargeDepth := 99) only [State.stgCheck_kept, State.applyCommit_kept, State.refuseCommit_kept, Kept.upd, Kept.ite, Kept.foldl, Kept.foldl1, implies_true, Fine.ite, Fine.next, Fine.guard, *] | split | with_reducible apply Kept.foldl | with_reducible apply Kept.foldl1 | (intro _; intros) | with_reducible apply Fine.next | with_reducible apply Fine.guard)
theorem execAutoAbandon_kept {s₀ : State} {s : State} (h_s : s₀.Kept s) :
    Fine s₀ False (execAutoAbandon s) := by
  unfold execAutoAbandon
  repeat' (first | done | simp +contextual (maxDischargeDepth := 99) only [State.setFlag_kept, State.stgClose_kept, Kept.upd, Kept.ite, Kept.foldl, Kept.foldl1, implies_true, Fine.ite, Fine.next, Fine.guard, *] | split | with_reducible apply Kept.foldl | with_reducible apply Kept.foldl1 | (intro _; intros) | with_reducible apply Fine.next | with_reducible apply Fine.guard)
theorem execResourceRelease_kept {s₀ : State} (i : Nat) {s : State} (h_s : s₀.Kept s) :
    Fine s₀ False (execResourceRelease i s) := by
  unfold execResourceRelease
  repeat' (first | done | simp +contextual (maxDischargeDepth := 99) only [State.setFlagIf_kept, State.wb_kept, State.clearRes_kept, State.enterCores_kept, State.showReleasing_kept, Kept.upd, Kept.ite, Kept.foldl, Kept.foldl1, implies_true, Fine.ite, Fine.next, Fine.guard, *] | split | with_reducible apply Kept.foldl | with_reducible apply Kept.foldl1 | (intro _; intros) | with_reducible apply Fine.next | with_reducible apply Fine.guard)
theorem execYieldLimitExpiry_kept {s₀ : State} (l : Fin 16) {s : State} (h_s : s₀.Kept s) :
    Fine s₀ False (execYieldLimitExpiry l s) := by
  unfold execYieldLimitExpiry
  repeat' (first | done | simp +contextual (maxDischargeDepth := 99) only [State.setFlag_kept, State.teardown_kept, Kept.upd, Kept.ite, Kept.foldl, Kept.foldl1, implies_true, Fine.ite, Fine.next, Fine.guard, *] | split | with_reducible apply Kept.foldl | with_reducible apply Kept.foldl1 | (intro _; intros) | with_reducible apply Fine.next | with_reducible apply Fine.guard)
theorem State.certify_kept {s₀ : State} {s : State} (scope : Option Nat) (nonce : List Byte) (h_s : s₀.Kept s) :
    s₀.Kept (State.certify s scope nonce).1 := by
  unfold State.certify
  repeat' (first | done | simp +contextual (maxDischargeDepth := 99) only [State.draw_kept, Kept.upd, Kept.ite, Kept.foldl, Kept.foldl1, implies_true, *] | split | with_reducible apply Kept.foldl | with_reducible apply Kept.foldl1 | (intro _; intros))
theorem State.mbMsg_kept {s₀ : State} {s : State} (n0 : Requester) (h_s : s₀.Kept s) :
    s₀.Kept (State.mbMsg s n0) := by
  unfold State.mbMsg
  repeat' (first | done | simp +contextual (maxDischargeDepth := 99) only [State.msg_kept, Kept.upd, Kept.ite, Kept.foldl, Kept.foldl1, implies_true, *] | split | with_reducible apply Kept.foldl | with_reducible apply Kept.foldl1 | (intro _; intros))
theorem State.mbEnd_kept {s₀ : State} {s : State} (who : Requester) (st : Nat) (ans : List Byte) (h_s : s₀.Kept s) :
    s₀.Kept (State.mbEnd s who st ans) := by
  unfold State.mbEnd
  repeat' (first | done | simp +contextual (maxDischargeDepth := 99) only [State.countStatus_kept, State.take_kept, State.mbMsg_kept, Kept.upd, Kept.ite, Kept.foldl, Kept.foldl1, implies_true, *] | split | with_reducible apply Kept.foldl | with_reducible apply Kept.foldl1 | (intro _; intros))
theorem State.mbReq_kept {s₀ : State} {s : State} (who : Requester) (listed : Bool) (eff : State → State) (h_eff : ∀ (x0 : State), s₀.Kept x0 → s₀.Kept (eff x0)) (h_s : s₀.Kept s) :
    s₀.Kept (State.mbReq s who listed eff) := by
  unfold State.mbReq
  repeat' (first | done | simp +contextual (maxDischargeDepth := 99) only [State.mbEnd_kept, Kept.upd, Kept.ite, Kept.foldl, Kept.foldl1, implies_true, *] | split | with_reducible apply Kept.foldl | with_reducible apply Kept.foldl1 | (intro _; intros))
theorem State.opAttest_kept {s₀ : State} {s : State} (who : Requester) (h_s : s₀.Kept s) :
    s₀.Kept (State.opAttest s who) := by
  unfold State.opAttest
  repeat' (first | done | simp +contextual (maxDischargeDepth := 99) only [State.certify_kept, State.mbEnd_kept, Kept.upd, Kept.ite, Kept.foldl, Kept.foldl1, implies_true, *] | split | with_reducible apply Kept.foldl | with_reducible apply Kept.foldl1 | (intro _; intros))
theorem State.opIdCert_kept {s₀ : State} {s : State} (who : Requester) (h_s : s₀.Kept s) :
    s₀.Kept (State.opIdCert s who) := by
  unfold State.opIdCert
  repeat' (first | done | simp +contextual (maxDischargeDepth := 99) only [State.mbEnd_kept, Kept.upd, Kept.ite, Kept.foldl, Kept.foldl1, implies_true, *] | split | with_reducible apply Kept.foldl | with_reducible apply Kept.foldl1 | (intro _; intros))
theorem State.opSessionOpen_kept {s₀ : State} {s : State} (who : Requester) (l : Nat) (h_s : s₀.Kept s) :
    s₀.Kept (State.opSessionOpen s who l) := by
  unfold State.opSessionOpen
  repeat' (first | done | simp +contextual (maxDischargeDepth := 99) only [State.wr_kept, State.draw_kept, State.certify_kept, State.mbEnd_kept, Kept.upd, Kept.ite, Kept.foldl, Kept.foldl1, implies_true, *] | split | with_reducible apply Kept.foldl | with_reducible apply Kept.foldl1 | (intro _; intros))
theorem State.opRotate_kept {s₀ : State} {s : State} (who : Requester) (l : Nat) (h_s : s₀.Kept s) :
    s₀.Kept (State.opRotate s who l) := by
  unfold State.opRotate
  repeat' (first | done | simp +contextual (maxDischargeDepth := 99) only [State.wr_kept, State.sf_kept, State.setFlag_kept, State.mbEnd_kept, Kept.upd, Kept.ite, Kept.foldl, Kept.foldl1, implies_true, *] | split | with_reducible apply Kept.foldl | with_reducible apply Kept.foldl1 | (intro _; intros))
theorem State.opChallenge_kept {s₀ : State} {s : State} (who : Requester) (h_s : s₀.Kept s) :
    s₀.Kept (State.opChallenge s who) := by
  unfold State.opChallenge
  repeat' (first | done | simp +contextual (maxDischargeDepth := 99) only [State.draw_kept, State.mbEnd_kept, Kept.upd, Kept.ite, Kept.foldl, Kept.foldl1, implies_true, *] | split | with_reducible apply Kept.foldl | with_reducible apply Kept.foldl1 | (intro _; intros))
theorem State.dbgRefuse_kept {s₀ : State} {s : State} (who : Requester) (st : Nat) (h_s : s₀.Kept s) :
    s₀.Kept (State.dbgRefuse s who st) := by
  unfold State.dbgRefuse
  repeat' (first | done | simp +contextual (maxDischargeDepth := 99) only [State.setFlag_kept, State.mbEnd_kept, Kept.upd, Kept.ite, Kept.foldl, Kept.foldl1, implies_true, *] | split | with_reducible apply Kept.foldl | with_reducible apply Kept.foldl1 | (intro _; intros))
theorem State.opResponse_kept {s₀ : State} {s : State} (who : Requester) (h_s : s₀.Kept s) :
    s₀.Kept (State.opResponse s who) := by
  unfold State.opResponse
  repeat' (first | done | simp +contextual (maxDischargeDepth := 99) only [State.sf_kept, State.setFlag_kept, State.take_kept, State.mbEnd_kept, State.dbgRefuse_kept, Kept.upd, Kept.ite, Kept.foldl, Kept.foldl1, implies_true, *] | split | with_reducible apply Kept.foldl | with_reducible apply Kept.foldl1 | (intro _; intros))
theorem State.opLcReq_kept {s₀ : State} {s : State} (who : Requester) (h_s : s₀.Kept s) :
    s₀.Kept (State.opLcReq s who) := by
  unfold State.opLcReq
  repeat' (first | done | simp +contextual (maxDischargeDepth := 99) only [State.mbEnd_kept, Kept.upd, Kept.ite, Kept.foldl, Kept.foldl1, implies_true, *] | split | with_reducible apply Kept.foldl | with_reducible apply Kept.foldl1 | (intro _; intros))
theorem State.mbCmd_kept {s₀ : State} {s : State} (who : Requester) (op : Nat) (h_s : s₀.Kept s) :
    s₀.Kept (State.mbCmd s who op) := by
  unfold State.mbCmd
  repeat' (first | done | simp +contextual (maxDischargeDepth := 99) only [State.endGrant_kept, State.closeSess_kept, State.mbEnd_kept, State.mbReq_kept, State.opAttest_kept, State.opIdCert_kept, State.opSessionOpen_kept, State.opRotate_kept, State.opChallenge_kept, State.opResponse_kept, State.opLcReq_kept, Kept.upd, Kept.ite, Kept.foldl, Kept.foldl1, implies_true, *] | split | with_reducible apply Kept.foldl | with_reducible apply Kept.foldl1 | (intro _; intros) | with_reducible apply State.mbReq_kept)
theorem State.mailbox_kept {s₀ : State} {s : State} (who : Requester) (op : Nat) (h_s : s₀.Kept s) :
    s₀.Kept (State.mailbox s who op) := by
  unfold State.mailbox
  repeat' (first | done | simp +contextual (maxDischargeDepth := 99) only [State.asWrite_kept, State.mbCmd_kept, Kept.upd, Kept.ite, Kept.foldl, Kept.foldl1, implies_true, *] | split | with_reducible apply Kept.foldl | with_reducible apply Kept.foldl1 | (intro _; intros) | with_reducible apply State.asWrite_kept)
theorem execAttest_kept {s₀ : State} (who : Requester) {s : State} (h_s : s₀.Kept s) :
    Fine s₀ False (execAttest who s) := by
  unfold execAttest
  repeat' (first | done | simp +contextual (maxDischargeDepth := 99) only [State.mailbox_kept, Kept.upd, Kept.ite, Kept.foldl, Kept.foldl1, implies_true, Fine.ite, Fine.next, Fine.guard, *] | split | with_reducible apply Kept.foldl | with_reducible apply Kept.foldl1 | (intro _; intros) | with_reducible apply Fine.next | with_reducible apply Fine.guard)
theorem execIdCert_kept {s₀ : State} (who : Requester) {s : State} (h_s : s₀.Kept s) :
    Fine s₀ False (execIdCert who s) := by
  unfold execIdCert
  repeat' (first | done | simp +contextual (maxDischargeDepth := 99) only [State.mailbox_kept, Kept.upd, Kept.ite, Kept.foldl, Kept.foldl1, implies_true, Fine.ite, Fine.next, Fine.guard, *] | split | with_reducible apply Kept.foldl | with_reducible apply Kept.foldl1 | (intro _; intros) | with_reducible apply Fine.next | with_reducible apply Fine.guard)
theorem execSessionOpen_kept {s₀ : State} (who : Requester) {s : State} (h_s : s₀.Kept s) :
    Fine s₀ False (execSessionOpen who s) := by
  unfold execSessionOpen
  repeat' (first | done | simp +contextual (maxDischargeDepth := 99) only [State.mailbox_kept, Kept.upd, Kept.ite, Kept.foldl, Kept.foldl1, implies_true, Fine.ite, Fine.next, Fine.guard, *] | split | with_reducible apply Kept.foldl | with_reducible apply Kept.foldl1 | (intro _; intros) | with_reducible apply Fine.next | with_reducible apply Fine.guard)
theorem execSessionClose_kept {s₀ : State} (who : Requester) {s : State} (h_s : s₀.Kept s) :
    Fine s₀ False (execSessionClose who s) := by
  unfold execSessionClose
  repeat' (first | done | simp +contextual (maxDischargeDepth := 99) only [State.mailbox_kept, Kept.upd, Kept.ite, Kept.foldl, Kept.foldl1, implies_true, Fine.ite, Fine.next, Fine.guard, *] | split | with_reducible apply Kept.foldl | with_reducible apply Kept.foldl1 | (intro _; intros) | with_reducible apply Fine.next | with_reducible apply Fine.guard)
theorem execRotate_kept {s₀ : State} (who : Requester) {s : State} (h_s : s₀.Kept s) :
    Fine s₀ False (execRotate who s) := by
  unfold execRotate
  repeat' (first | done | simp +contextual (maxDischargeDepth := 99) only [State.mailbox_kept, Kept.upd, Kept.ite, Kept.foldl, Kept.foldl1, implies_true, Fine.ite, Fine.next, Fine.guard, *] | split | with_reducible apply Kept.foldl | with_reducible apply Kept.foldl1 | (intro _; intros) | with_reducible apply Fine.next | with_reducible apply Fine.guard)
theorem execDbgChallenge_kept {s₀ : State} (who : Requester) {s : State} (h_s : s₀.Kept s) :
    Fine s₀ False (execDbgChallenge who s) := by
  unfold execDbgChallenge
  repeat' (first | done | simp +contextual (maxDischargeDepth := 99) only [State.mailbox_kept, Kept.upd, Kept.ite, Kept.foldl, Kept.foldl1, implies_true, Fine.ite, Fine.next, Fine.guard, *] | split | with_reducible apply Kept.foldl | with_reducible apply Kept.foldl1 | (intro _; intros) | with_reducible apply Fine.next | with_reducible apply Fine.guard)
theorem execDbgResponse_kept {s₀ : State} (who : Requester) {s : State} (h_s : s₀.Kept s) :
    Fine s₀ False (execDbgResponse who s) := by
  unfold execDbgResponse
  repeat' (first | done | simp +contextual (maxDischargeDepth := 99) only [State.mailbox_kept, Kept.upd, Kept.ite, Kept.foldl, Kept.foldl1, implies_true, Fine.ite, Fine.next, Fine.guard, *] | split | with_reducible apply Kept.foldl | with_reducible apply Kept.foldl1 | (intro _; intros) | with_reducible apply Fine.next | with_reducible apply Fine.guard)
theorem execDbgRevoke_kept {s₀ : State} (who : Requester) {s : State} (h_s : s₀.Kept s) :
    Fine s₀ False (execDbgRevoke who s) := by
  unfold execDbgRevoke
  repeat' (first | done | simp +contextual (maxDischargeDepth := 99) only [State.mailbox_kept, Kept.upd, Kept.ite, Kept.foldl, Kept.foldl1, implies_true, Fine.ite, Fine.next, Fine.guard, *] | split | with_reducible apply Kept.foldl | with_reducible apply Kept.foldl1 | (intro _; intros) | with_reducible apply Fine.next | with_reducible apply Fine.guard)
theorem execLcReq_kept {s₀ : State} (who : Requester) {s : State} (h_s : s₀.Kept s) :
    Fine s₀ False (execLcReq who s) := by
  unfold execLcReq
  repeat' (first | done | simp +contextual (maxDischargeDepth := 99) only [State.mailbox_kept, Kept.upd, Kept.ite, Kept.foldl, Kept.foldl1, implies_true, Fine.ite, Fine.next, Fine.guard, *] | split | with_reducible apply Kept.foldl | with_reducible apply Kept.foldl1 | (intro _; intros) | with_reducible apply Fine.next | with_reducible apply Fine.guard)
theorem execSweep_kept {s₀ : State} {s : State} (h_s : s₀.Kept s) :
    Fine s₀ False (execSweep s) := by
  unfold execSweep
  repeat' (first | done | simp +contextual (maxDischargeDepth := 99) only [State.oldLess_kept, State.curMore_kept, State.retag_kept, Kept.upd, Kept.ite, Kept.foldl, Kept.foldl1, implies_true, Fine.ite, Fine.next, Fine.guard, *] | split | with_reducible apply Kept.foldl | with_reducible apply Kept.foldl1 | (intro _; intros) | with_reducible apply Fine.next | with_reducible apply Fine.guard)
theorem State.countCycles_kept {s₀ : State} {s : State} (h_s : s₀.Kept s) :
    s₀.Kept (State.countCycles s) := by
  unfold State.countCycles
  repeat' (first | done | simp +contextual (maxDischargeDepth := 99) only [State.event_kept, Kept.upd, Kept.ite, Kept.foldl, Kept.foldl1, implies_true, *] | split | with_reducible apply Kept.foldl | with_reducible apply Kept.foldl1 | (intro _; intros))
theorem State.idleEngine_kept {s₀ : State} {s : State} (c : Nat) (h_s : s₀.Kept s) :
    s₀.Kept (State.idleEngine s c) := by
  unfold State.idleEngine
  repeat' (first | done | simp +contextual (maxDischargeDepth := 99) only [State.sf_kept, State.setTc_kept, Kept.upd, Kept.ite, Kept.foldl, Kept.foldl1, implies_true, *] | split | with_reducible apply Kept.foldl | with_reducible apply Kept.foldl1 | (intro _; intros))
theorem State.idleEngines_kept {s₀ : State} {s : State} (h_s : s₀.Kept s) :
    s₀.Kept (State.idleEngines s) := by
  unfold State.idleEngines
  repeat' (first | done | simp +contextual (maxDischargeDepth := 99) only [State.idleEngine_kept, Kept.upd, Kept.ite, Kept.foldl, Kept.foldl1, implies_true, *] | split | with_reducible apply Kept.foldl | with_reducible apply Kept.foldl1 | (intro _; intros))
theorem State.scrubLate_kept {s₀ : State} {s : State} (h_s : s₀.Kept s) :
    s₀.Kept (State.scrubLate s) := by
  unfold State.scrubLate
  repeat' (first | done | simp +contextual (maxDischargeDepth := 99) only [State.setFlagIf_kept, Kept.upd, Kept.ite, Kept.foldl, Kept.foldl1, implies_true, *] | split | with_reducible apply Kept.foldl | with_reducible apply Kept.foldl1 | (intro _; intros))
theorem State.dropPilots_kept {s₀ : State} {s : State} (h_s : s₀.Kept s) :
    s₀.Kept (State.dropPilots s) := by
  unfold State.dropPilots
  repeat' (first | done | simp +contextual (maxDischargeDepth := 99) only [State.trackLost_kept, Kept.upd, Kept.ite, Kept.foldl, Kept.foldl1, implies_true, *] | split | with_reducible apply Kept.foldl | with_reducible apply Kept.foldl1 | (intro _; intros))
theorem State.tickTbs_kept {s₀ : State} {s : State} (h_s : s₀.Kept s) :
    s₀.Kept (State.tickTbs s) := by
  unfold State.tickTbs
  repeat' (first | done | simp +contextual (maxDischargeDepth := 99) only [State.setTb_kept, Kept.upd, Kept.ite, Kept.foldl, Kept.foldl1, implies_true, *] | split | with_reducible apply Kept.foldl | with_reducible apply Kept.foldl1 | (intro _; intros))
theorem State.tick_kept {s₀ : State} {s : State} (h_s : s₀.Kept s) :
    s₀.Kept (State.tick s) := by
  unfold State.tick
  repeat' (first | done | simp +contextual (maxDischargeDepth := 99) only [State.kvSettle_kept, State.countCycles_kept, State.idleEngines_kept, State.scrubLate_kept, State.dropPilots_kept, State.tickTbs_kept, Kept.upd, Kept.ite, Kept.foldl, Kept.foldl1, implies_true, *] | split | with_reducible apply Kept.foldl | with_reducible apply Kept.foldl1 | (intro _; intros))
theorem execSlewComplete_kept {s₀ : State} (t : Fin 4) {s : State} (h_s : s₀.Kept s) :
    Fine s₀ False (execSlewComplete t s) := by
  unfold execSlewComplete
  repeat' (first | done | simp +contextual (maxDischargeDepth := 99) only [State.tick_kept, Kept.upd, Kept.ite, Kept.foldl, Kept.foldl1, implies_true, Fine.ite, Fine.next, Fine.guard, *] | split | with_reducible apply Kept.foldl | with_reducible apply Kept.foldl1 | (intro _; intros) | with_reducible apply Fine.next | with_reducible apply Fine.guard)
theorem execCycleCounterWrap_kept {s₀ : State} (b : Fin 66) (i : Fin 8) {s : State} (h_s : s₀.Kept s) :
    Fine s₀ False (execCycleCounterWrap b i s) := by
  unfold execCycleCounterWrap
  repeat' (first | done | simp +contextual (maxDischargeDepth := 99) only [State.tick_kept, Kept.upd, Kept.ite, Kept.foldl, Kept.foldl1, implies_true, Fine.ite, Fine.next, Fine.guard, *] | split | with_reducible apply Kept.foldl | with_reducible apply Kept.foldl1 | (intro _; intros) | with_reducible apply Fine.next | with_reducible apply Fine.guard)
theorem State.cntDenied_kept {s₀ : State} {s : State} (who : Requester) (h_s : s₀.Kept s) :
    s₀.Kept (State.cntDenied s who) := by
  unfold State.cntDenied
  repeat' (first | done | simp +contextual (maxDischargeDepth := 99) only [State.setFlag_kept, Kept.upd, Kept.ite, Kept.foldl, Kept.foldl1, implies_true, *] | split | with_reducible apply Kept.foldl | with_reducible apply Kept.foldl1 | (intro _; intros))
theorem State.asCntWrite_kept {s₀ : State} {s : State} (who : Requester) (off : Nat) (eff : State → State) (h_eff : ∀ (x0 : State), s₀.Kept x0 → s₀.Kept (eff x0)) (h_s : s₀.Kept s) :
    s₀.Kept (State.asCntWrite s who off eff) := by
  unfold State.asCntWrite
  repeat' (first | done | simp +contextual (maxDischargeDepth := 99) only [State.deny_kept, State.cntDenied_kept, Kept.upd, Kept.ite, Kept.foldl, Kept.foldl1, implies_true, *] | split | with_reducible apply Kept.foldl | with_reducible apply Kept.foldl1 | (intro _; intros))
theorem State.asCntRead_kept {s₀ : State} {s : State} (who : Requester) (off : Nat) (b : Nat) (i : Nat) (eff : State → State × Word) (h_eff : ∀ (x0 : State), s₀.Kept x0 → s₀.Kept (eff x0).1) (h_s : s₀.Kept s) :
    s₀.Kept (State.asCntRead s who off b i eff).1 := by
  unfold State.asCntRead
  repeat' (first | done | simp +contextual (maxDischargeDepth := 99) only [State.deny_kept, State.cntDenied_kept, Kept.upd, Kept.ite, Kept.foldl, Kept.foldl1, implies_true, *] | split | with_reducible apply Kept.foldl | with_reducible apply Kept.foldl1 | (intro _; intros))
theorem State.readCntLo_kept {s₀ : State} {s : State} (who : Requester) (b : Nat) (i : Nat) (h_s : s₀.Kept s) :
    s₀.Kept (State.readCntLo s who b i).1 := by
  unfold State.readCntLo
  repeat' (first | done | simp +contextual (maxDischargeDepth := 99) only [Kept.upd, Kept.ite, Kept.foldl, Kept.foldl1, implies_true, *] | split | with_reducible apply Kept.foldl | with_reducible apply Kept.foldl1 | (intro _; intros))
theorem State.writeCntLo_kept {s₀ : State} {s : State} (b : Nat) (i : Nat) (v : Nat) (h_s : s₀.Kept s) :
    s₀.Kept (State.writeCntLo s b i v) := by
  unfold State.writeCntLo
  repeat' (first | done | simp +contextual (maxDischargeDepth := 99) only [Kept.upd, Kept.ite, Kept.foldl, Kept.foldl1, implies_true, *] | split | with_reducible apply Kept.foldl | with_reducible apply Kept.foldl1 | (intro _; intros))
theorem State.writeCntHi_kept {s₀ : State} {s : State} (b : Nat) (i : Nat) (hi : Nat) (h_s : s₀.Kept s) :
    s₀.Kept (State.writeCntHi s b i hi) := by
  unfold State.writeCntHi
  repeat' (first | done | simp +contextual (maxDischargeDepth := 99) only [State.setCnt_kept, Kept.upd, Kept.ite, Kept.foldl, Kept.foldl1, implies_true, *] | split | with_reducible apply Kept.foldl | with_reducible apply Kept.foldl1 | (intro _; intros))
theorem execCntLoRead_kept {s₀ : State} (who : Requester) (b : Fin 66) (i : Fin 8) {s : State} (h_s : s₀.Kept s) :
    Fine s₀ False (execCntLoRead who b i s) := by
  unfold execCntLoRead
  repeat' (first | done | simp +contextual (maxDischargeDepth := 99) only [State.returns_kept, State.asCntRead_kept, State.readCntLo_kept, Kept.upd, Kept.ite, Kept.foldl, Kept.foldl1, implies_true, Fine.ite, Fine.next, Fine.guard, *] | split | with_reducible apply Kept.foldl | with_reducible apply Kept.foldl1 | (intro _; intros) | with_reducible apply State.asCntRead_kept | with_reducible apply Fine.next | with_reducible apply Fine.guard)
theorem execCntLoWrite_kept {s₀ : State} (who : Requester) (b : Fin 66) (i : Fin 8) (v : Word) {s : State} (h_s : s₀.Kept s) :
    Fine s₀ False (execCntLoWrite who b i v s) := by
  unfold execCntLoWrite
  repeat' (first | done | simp +contextual (maxDischargeDepth := 99) only [State.asCntWrite_kept, State.writeCntLo_kept, Kept.upd, Kept.ite, Kept.foldl, Kept.foldl1, implies_true, Fine.ite, Fine.next, Fine.guard, *] | split | with_reducible apply Kept.foldl | with_reducible apply Kept.foldl1 | (intro _; intros) | with_reducible apply State.asCntWrite_kept | with_reducible apply Fine.next | with_reducible apply Fine.guard)
theorem execCntHiWrite_kept {s₀ : State} (who : Requester) (b : Fin 66) (i : Fin 8) (v : Word) {s : State} (h_s : s₀.Kept s) :
    Fine s₀ False (execCntHiWrite who b i v s) := by
  unfold execCntHiWrite
  repeat' (first | done | simp +contextual (maxDischargeDepth := 99) only [State.asCntWrite_kept, State.writeCntHi_kept, Kept.upd, Kept.ite, Kept.foldl, Kept.foldl1, implies_true, Fine.ite, Fine.next, Fine.guard, *] | split | with_reducible apply Kept.foldl | with_reducible apply Kept.foldl1 | (intro _; intros) | with_reducible apply State.asCntWrite_kept | with_reducible apply Fine.next | with_reducible apply Fine.guard)
theorem State.ringPut_some {s₀ : State} {s : State} (base : Nat) (z : Nat) (head : Nat) (tail : Nat) (seq : Nat) (gap : Nat) (es : List Nat) (h_s : s₀.Kept s) {t}
    (h_o : State.ringPut s base z head tail seq gap es = some t) : s₀.Kept t.1 := by
  unfold State.ringPut at h_o
  dsimp only at h_o
  obtain ⟨_, h_o⟩ := Option.ite_none_left_eq_some.mp h_o
  cases h_o
  refine State.clearPoison_kept _ _ (State.wrLE_kept _ _ _ (State.wrLE_kept _ _ _ ?_))
  exact Kept.ite h_s (State.wrLE_kept _ _ _ h_s)
theorem State.setGap_kept {s₀ : State} {s : State} (i : Nat) (on : Bool) (h_s : s₀.Kept s) :
    s₀.Kept (State.setGap s i on) := by
  unfold State.setGap
  repeat' (first | done | simp +contextual (maxDischargeDepth := 99) only [Kept.upd, Kept.ite, Kept.foldl, Kept.foldl1, implies_true, *] | split | with_reducible apply Kept.foldl | with_reducible apply Kept.foldl1 | (intro _; intros))
theorem State.ledgMain_kept {s₀ : State} {s : State} (seq : Nat) (es : List Nat) (h_s : s₀.Kept s) :
    s₀.Kept (State.ledgMain s seq es) := by
  unfold State.ledgMain
  dsimp only
  split
  · rename_i h
    exact State.setGap_kept _ _ (State.sf_kept _ _ _ (State.ringPut_some _ _ _ _ _ _ _ h_s h))
  · exact State.setGap_kept _ _ (State.setFlag_kept _ _ _ h_s)
theorem State.ledgCopy_kept {s₀ : State} {s : State} (l : Nat) (seq : Nat) (es : List Nat) (h_s : s₀.Kept s) :
    s₀.Kept (State.ledgCopy s l seq es) := by
  unfold State.ledgCopy
  dsimp only
  split
  · exact h_s
  · split
    · rename_i h
      exact State.setGap_kept _ _ (State.sf_kept _ _ _ (State.ringPut_some _ _ _ _ _ _ _ h_s h))
    · exact State.setGap_kept _ _ (State.setFlag_kept _ _ _ h_s)
theorem execSnapshot_kept {s₀ : State} {s : State} (h_s : s₀.Kept s) :
    Fine s₀ False (execSnapshot s) := by
  unfold execSnapshot
  repeat' (first | done | simp +contextual (maxDischargeDepth := 99) only [State.wr_kept, State.setFlag_kept, State.ledgMain_kept, State.ledgCopy_kept, Kept.upd, Kept.ite, Kept.foldl, Kept.foldl1, implies_true, Fine.ite, Fine.next, Fine.guard, *] | split | with_reducible apply Kept.foldl | with_reducible apply Kept.foldl1 | (intro _; intros) | with_reducible apply Fine.next | with_reducible apply Fine.guard)

end Sys2Proof.Machine
end

