-- ==== Sys2Proof/Laws/KeptHost.lean ====
section
/-! SUPPORT. What every operation keeps, the queue and the canonical form of the tables: the host interface, the flash, resets, wear, Steward, register views and writes. One lemma for
each operation. -/
namespace Sys2Proof.Machine
open Sys2Proof
set_option linter.unusedSimpArgs false
set_option linter.unusedVariables false

theorem State.sqBad_kept {s₀ : State} {s : State} (l : Option Nat) (h_s : s₀.Kept s) :
    s₀.Kept (State.sqBad s l) := by
  unfold State.sqBad
  repeat' (first | done | simp +contextual (maxDischargeDepth := 99) only [State.setFlag_kept, Kept.upd, Kept.ite, Kept.foldl, Kept.foldl1, implies_true, *] | split | with_reducible apply Kept.foldl | with_reducible apply Kept.foldl1 | (intro _; intros))
theorem State.ringStart_kept {s₀ : State} {s : State} (r : HRing) (h_s : s₀.Kept s) :
    s₀.Kept (State.ringStart s r) := by
  unfold State.ringStart
  repeat' (first | done | simp +contextual (maxDischargeDepth := 99) only [State.wr_kept, State.setRings_kept, Kept.upd, Kept.ite, Kept.foldl, Kept.foldl1, implies_true, *] | split | with_reducible apply Kept.foldl | with_reducible apply Kept.foldl1 | (intro _; intros))
theorem State.ringCfg_kept {s₀ : State} {s : State} (r : HRing) (en : Bool) (v : Word) (h_s : s₀.Kept s) :
    s₀.Kept (State.ringCfg s r en v) := by
  unfold State.ringCfg
  repeat' (first | done | simp +contextual (maxDischargeDepth := 99) only [State.wr_kept, State.sqBad_kept, State.ringStart_kept, Kept.upd, Kept.ite, Kept.foldl, Kept.foldl1, implies_true, *] | split | with_reducible apply Kept.foldl | with_reducible apply Kept.foldl1 | (intro _; intros))
theorem State.ringBase_kept {s₀ : State} {s : State} (r : HRing) (a : Nat) (lo : Bool) (v : Word) (h_s : s₀.Kept s) :
    s₀.Kept (State.ringBase s r a lo v) := by
  unfold State.ringBase
  repeat' (first | done | simp +contextual (maxDischargeDepth := 99) only [State.wr_kept, State.sqBad_kept, Kept.upd, Kept.ite, Kept.foldl, Kept.foldl1, implies_true, *] | split | with_reducible apply Kept.foldl | with_reducible apply Kept.foldl1 | (intro _; intros))
theorem State.tailWrite_kept {s₀ : State} {s : State} (a : Nat) (log2 : Nat) (l : Option Nat) (v : Word) (h_s : s₀.Kept s) :
    s₀.Kept (State.tailWrite s a log2 l v) := by
  unfold State.tailWrite
  repeat' (first | done | simp +contextual (maxDischargeDepth := 99) only [State.wr_kept, State.sqBad_kept, Kept.upd, Kept.ite, Kept.foldl, Kept.foldl1, implies_true, *] | split | with_reducible apply Kept.foldl | with_reducible apply Kept.foldl1 | (intro _; intros))
theorem State.headWrite_kept {s₀ : State} {s : State} (a : Nat) (v : Word) (h_s : s₀.Kept s) :
    s₀.Kept (State.headWrite s a v) := by
  unfold State.headWrite
  repeat' (first | done | simp +contextual (maxDischargeDepth := 99) only [State.wr_kept, Kept.upd, Kept.ite, Kept.foldl, Kept.foldl1, implies_true, *] | split | with_reducible apply Kept.foldl | with_reducible apply Kept.foldl1 | (intro _; intros))
theorem execSqCfgWrite_kept {s₀ : State} (who : Requester) (r : HRing) (v : Word) {s : State} (h_s : s₀.Kept s) :
    Fine s₀ False (execSqCfgWrite who r v s) := by
  unfold execSqCfgWrite
  repeat' (first | done | simp +contextual (maxDischargeDepth := 99) only [State.asWrite_kept, State.ringCfg_kept, Kept.upd, Kept.ite, Kept.foldl, Kept.foldl1, implies_true, Fine.ite, Fine.next, Fine.guard, *] | split | with_reducible apply Kept.foldl | with_reducible apply Kept.foldl1 | (intro _; intros) | with_reducible apply State.asWrite_kept | with_reducible apply Fine.next | with_reducible apply Fine.guard)
theorem State.sqTail_kept {s₀ : State} {s : State} (l : Nat) (v : Word) (h_s : s₀.Kept s) :
    s₀.Kept (State.sqTail s l v) := by
  unfold State.sqTail
  repeat' (first | done | simp +contextual (maxDischargeDepth := 99) only [State.tailWrite_kept, Kept.upd, Kept.ite, Kept.foldl, Kept.foldl1, implies_true, *] | split | with_reducible apply Kept.foldl | with_reducible apply Kept.foldl1 | (intro _; intros))
theorem execSqTailWrite_kept {s₀ : State} (who : Requester) (l : Fin 16) (v : Word) {s : State} (h_s : s₀.Kept s) :
    Fine s₀ False (execSqTailWrite who l v s) := by
  unfold execSqTailWrite
  repeat' (first | done | simp +contextual (maxDischargeDepth := 99) only [State.asWrite_kept, State.sqTail_kept, Kept.upd, Kept.ite, Kept.foldl, Kept.foldl1, implies_true, Fine.ite, Fine.next, Fine.guard, *] | split | with_reducible apply Kept.foldl | with_reducible apply Kept.foldl1 | (intro _; intros) | with_reducible apply State.asWrite_kept | with_reducible apply Fine.next | with_reducible apply Fine.guard)
theorem execCqHeadWrite_kept {s₀ : State} (who : Requester) (l : Fin 16) (v : Word) {s : State} (h_s : s₀.Kept s) :
    Fine s₀ False (execCqHeadWrite who l v s) := by
  unfold execCqHeadWrite
  repeat' (first | done | simp +contextual (maxDischargeDepth := 99) only [State.asWrite_kept, State.headWrite_kept, Kept.upd, Kept.ite, Kept.foldl, Kept.foldl1, implies_true, Fine.ite, Fine.next, Fine.guard, *] | split | with_reducible apply Kept.foldl | with_reducible apply Kept.foldl1 | (intro _; intros) | with_reducible apply State.asWrite_kept | with_reducible apply Fine.next | with_reducible apply Fine.guard)
theorem State.ptxTail_kept {s₀ : State} {s : State} (p : Nat) (v : Word) (h_s : s₀.Kept s) :
    s₀.Kept (State.ptxTail s p v) := by
  unfold State.ptxTail
  repeat' (first | done | simp +contextual (maxDischargeDepth := 99) only [State.tailWrite_kept, Kept.upd, Kept.ite, Kept.foldl, Kept.foldl1, implies_true, *] | split | with_reducible apply Kept.foldl | with_reducible apply Kept.foldl1 | (intro _; intros))
theorem execPtxTailWrite_kept {s₀ : State} (who : Requester) (p : Fin 12) (v : Word) {s : State} (h_s : s₀.Kept s) :
    Fine s₀ False (execPtxTailWrite who p v s) := by
  unfold execPtxTailWrite
  repeat' (first | done | simp +contextual (maxDischargeDepth := 99) only [State.asWrite_kept, State.ptxTail_kept, Kept.upd, Kept.ite, Kept.foldl, Kept.foldl1, implies_true, Fine.ite, Fine.next, Fine.guard, *] | split | with_reducible apply Kept.foldl | with_reducible apply Kept.foldl1 | (intro _; intros) | with_reducible apply State.asWrite_kept | with_reducible apply Fine.next | with_reducible apply Fine.guard)
theorem State.cqNext_kept {s₀ : State} {s : State} (l : Nat) (h_s : s₀.Kept s) :
    s₀.Kept (State.cqNext s l) := by
  unfold State.cqNext
  repeat' (first | done | simp +contextual (maxDischargeDepth := 99) only [State.sf_kept, State.setRings_kept, Kept.upd, Kept.ite, Kept.foldl, Kept.foldl1, implies_true, *] | split | with_reducible apply Kept.foldl | with_reducible apply Kept.foldl1 | (intro _; intros))
theorem State.cqMsg_kept {s₀ : State} {s : State} (l : Nat) (h_s : s₀.Kept s) :
    s₀.Kept (State.cqMsg s l) := by
  unfold State.cqMsg
  repeat' (first | done | simp +contextual (maxDischargeDepth := 99) only [State.msg_kept, State.setRings_kept, Kept.upd, Kept.ite, Kept.foldl, Kept.foldl1, implies_true, *] | split | with_reducible apply Kept.foldl | with_reducible apply Kept.foldl1 | (intro _; intros))
theorem State.sessDead_kept {s₀ : State} {s : State} (l : Nat) (h_s : s₀.Kept s) :
    s₀.Kept (State.sessDead s l) := by
  unfold State.sessDead
  repeat' (first | done | simp +contextual (maxDischargeDepth := 99) only [State.setFlag_kept, State.closeSess_kept, Kept.upd, Kept.ite, Kept.foldl, Kept.foldl1, implies_true, *] | split | with_reducible apply Kept.foldl | with_reducible apply Kept.foldl1 | (intro _; intros))
theorem State.bounceOut_kept {s₀ : State} {s : State} (l : Nat) (x : Sess) (ty : Nat) (ref : Nat) (data : List Byte) (h_s : s₀.Kept s) :
    s₀.Kept (State.bounceOut s l x ty ref data) := by
  unfold State.bounceOut
  repeat' (first | done | simp +contextual (maxDischargeDepth := 99) only [State.hwrLE_kept, State.take_kept, State.cqNext_kept, State.sessDead_kept, Kept.upd, Kept.ite, Kept.foldl, Kept.foldl1, implies_true, *] | split | with_reducible apply Kept.foldl | with_reducible apply Kept.foldl1 | (intro _; intros))
theorem State.cqWrite_kept {s₀ : State} {s : State} (l : Nat) (c : Cpl) (h_s : s₀.Kept s) :
    s₀.Kept (State.cqWrite s l c) := by
  unfold State.cqWrite
  repeat' (first | done | simp +contextual (maxDischargeDepth := 99) only [State.hwrLE_kept, State.setRings_kept, State.hold_kept, State.cqNext_kept, State.cqMsg_kept, State.bounceOut_kept, Kept.upd, Kept.ite, Kept.foldl, Kept.foldl1, implies_true, *] | split | with_reducible apply Kept.foldl | with_reducible apply Kept.foldl1 | (intro _; intros))
theorem execCompletionWrite_kept {s₀ : State} (l : Fin 16) {s : State} (h_s : s₀.Kept s) :
    Fine s₀ False (execCompletionWrite l s) := by
  unfold execCompletionWrite
  repeat' (first | done | simp +contextual (maxDischargeDepth := 99) only [State.setFlag_kept, State.setRings_kept, State.hold_kept, State.cqWrite_kept, Kept.upd, Kept.ite, Kept.foldl, Kept.foldl1, implies_true, Fine.ite, Fine.next, Fine.guard, *] | split | with_reducible apply Kept.foldl | with_reducible apply Kept.foldl1 | (intro _; intros) | with_reducible apply Fine.next | with_reducible apply Fine.guard)
theorem execMsixModeration_kept {s₀ : State} (l : Fin 16) {s : State} (h_s : s₀.Kept s) :
    Fine s₀ False (execMsixModeration l s) := by
  unfold execMsixModeration
  repeat' (first | done | simp +contextual (maxDischargeDepth := 99) only [State.msg_kept, State.setRings_kept, Kept.upd, Kept.ite, Kept.foldl, Kept.foldl1, implies_true, Fine.ite, Fine.next, Fine.guard, *] | split | with_reducible apply Kept.foldl | with_reducible apply Kept.foldl1 | (intro _; intros) | with_reducible apply Fine.next | with_reducible apply Fine.guard)
theorem State.takeCopy_kept {s₀ : State} {s : State} (l : Nat) (e : Sub) (no : Nat) (h_s : s₀.Kept s) :
    s₀.Kept (State.takeCopy s l e no) := by
  unfold State.takeCopy
  repeat' (first | done | simp +contextual (maxDischargeDepth := 99) only [State.setRings_kept, State.refuseSub_kept, Kept.upd, Kept.ite, Kept.foldl, Kept.foldl1, implies_true, *] | split | with_reducible apply Kept.foldl | with_reducible apply Kept.foldl1 | (intro _; intros))
theorem copyRow_kept {s₀ : State} (l : Fin 16) (ty : Nat) {s : State} (h_s : s₀.Kept s) :
    Fine s₀ False (copyRow l ty s) := by
  unfold copyRow
  repeat' (first | done | simp +contextual (maxDischargeDepth := 99) only [subRow_kept, State.takeCopy_kept, Kept.upd, Kept.ite, Kept.foldl, Kept.foldl1, implies_true, Fine.ite, Fine.next, Fine.guard, *] | split | with_reducible apply Kept.foldl | with_reducible apply Kept.foldl1 | (intro _; intros) | with_reducible apply subRow_kept | with_reducible apply Fine.next | with_reducible apply Fine.guard)
theorem execH2d_kept {s₀ : State} (l : Fin 16) {s : State} (h_s : s₀.Kept s) :
    Fine s₀ False (execH2d l s) := by
  unfold execH2d
  repeat' (first | done | simp +contextual (maxDischargeDepth := 99) only [copyRow_kept, Kept.upd, Kept.ite, Kept.foldl, Kept.foldl1, implies_true, Fine.ite, Fine.next, Fine.guard, *] | split | with_reducible apply Kept.foldl | with_reducible apply Kept.foldl1 | (intro _; intros) | with_reducible apply Fine.next | with_reducible apply Fine.guard)
theorem execD2h_kept {s₀ : State} (l : Fin 16) {s : State} (h_s : s₀.Kept s) :
    Fine s₀ False (execD2h l s) := by
  unfold execD2h
  repeat' (first | done | simp +contextual (maxDischargeDepth := 99) only [copyRow_kept, Kept.upd, Kept.ite, Kept.foldl, Kept.foldl1, implies_true, Fine.ite, Fine.next, Fine.guard, *] | split | with_reducible apply Kept.foldl | with_reducible apply Kept.foldl1 | (intro _; intros) | with_reducible apply Fine.next | with_reducible apply Fine.guard)
theorem execSqNop_kept {s₀ : State} (l : Fin 16) {s : State} (h_s : s₀.Kept s) :
    Fine s₀ False (execSqNop l s) := by
  unfold execSqNop
  repeat' (first | done | simp +contextual (maxDischargeDepth := 99) only [State.setRings_kept, State.flushNops_kept, State.refuseSub_kept, subRow_kept, Kept.upd, Kept.ite, Kept.foldl, Kept.foldl1, implies_true, Fine.ite, Fine.next, Fine.guard, *] | split | with_reducible apply Kept.foldl | with_reducible apply Kept.foldl1 | (intro _; intros) | with_reducible apply subRow_kept | with_reducible apply Fine.next | with_reducible apply Fine.guard)
theorem State.copyIn_kept {s₀ : State} {s : State} (l : Nat) (a : Nat) (h : Nat) (n0 : Nat) (h_s : s₀.Kept s) :
    s₀.Kept (State.copyIn s l a h n0) := by
  induction n0 generalizing s with
  | zero =>
    unfold State.copyIn
    repeat' (first | done | simp +contextual (maxDischargeDepth := 99) only [State.put_kept, Kept.upd, Kept.ite, Kept.foldl, Kept.foldl1, implies_true, *] | split | with_reducible apply Kept.foldl | with_reducible apply Kept.foldl1 | (intro _; intros))
  | succ k ih =>
    unfold State.copyIn
    repeat' (first | done | simp +contextual (maxDischargeDepth := 99) only [State.put_kept, Kept.upd, Kept.ite, Kept.foldl, Kept.foldl1, implies_true, *] | split | with_reducible apply Kept.foldl | with_reducible apply Kept.foldl1 | (intro _; intros))
theorem State.copyOut_kept {s₀ : State} {s : State} (l : Nat) (a : Nat) (h : Nat) (n0 : Nat) (h_s : s₀.Kept s) :
    s₀.Kept (State.copyOut s l a h n0).1 := by
  induction n0 generalizing s with
  | zero =>
    unfold State.copyOut
    repeat' (first | done | simp +contextual (maxDischargeDepth := 99) only [State.hwrLE_kept, State.getUnit_kept, Kept.upd, Kept.ite, Kept.foldl, Kept.foldl1, implies_true, *] | split | with_reducible apply Kept.foldl | with_reducible apply Kept.foldl1 | (intro _; intros))
  | succ k ih =>
    unfold State.copyOut
    repeat' (first | done | simp +contextual (maxDischargeDepth := 99) only [State.hwrLE_kept, State.getUnit_kept, Kept.upd, Kept.ite, Kept.foldl, Kept.foldl1, implies_true, *] | split | with_reducible apply Kept.foldl | with_reducible apply Kept.foldl1 | (intro _; intros))
theorem State.copyEnd_kept {s₀ : State} {s : State} (l : Nat) (c : HCopy) (st : Nat) (done : Nat) (h_s : s₀.Kept s) :
    s₀.Kept (State.copyEnd s l c st done) := by
  unfold State.copyEnd
  repeat' (first | done | simp +contextual (maxDischargeDepth := 99) only [State.countStatus_kept, State.signal_kept, State.setRings_kept, State.hostDone_kept, Kept.upd, Kept.ite, Kept.foldl, Kept.foldl1, implies_true, *] | split | with_reducible apply Kept.foldl | with_reducible apply Kept.foldl1 | (intro _; intros))
theorem State.copyPay_kept {s₀ : State} {s : State} (l : Nat) (a : Nat) (n : Nat) (wr : Bool) (c : HCopy) (h_s : s₀.Kept s) :
    s₀.Kept (State.copyPay s l a n wr c) := by
  unfold State.copyPay
  repeat' (first | done | simp +contextual (maxDischargeDepth := 99) only [State.wr_kept, State.tierCharge_kept, State.setRings_kept, Kept.upd, Kept.ite, Kept.foldl, Kept.foldl1, implies_true, *] | split | with_reducible apply Kept.foldl | with_reducible apply Kept.foldl1 | (intro _; intros))
theorem State.bounceData_kept {s₀ : State} {s : State} (l : Nat) (a : Nat) (c : HCopy) (n0 : Nat) (n1 : Nat) (h_s : s₀.Kept s) :
    s₀.Kept (State.bounceData s l a c n0 n1).1 := by
  induction n0 generalizing s n1 with
  | zero =>
    unfold State.bounceData
    repeat' (first | done | simp +contextual (maxDischargeDepth := 99) only [State.getBytes_kept, State.bounceOut_kept, Kept.upd, Kept.ite, Kept.foldl, Kept.foldl1, implies_true, *] | split | with_reducible apply Kept.foldl | with_reducible apply Kept.foldl1 | (intro _; intros))
  | succ k ih =>
    unfold State.bounceData
    repeat' (first | done | simp +contextual (maxDischargeDepth := 99) only [State.getBytes_kept, State.bounceOut_kept, Kept.upd, Kept.ite, Kept.foldl, Kept.foldl1, implies_true, *] | split | with_reducible apply Kept.foldl | with_reducible apply Kept.foldl1 | (intro _; intros))
theorem execCopyComplete_kept {s₀ : State} (l : Fin 16) (hs : Nat) (units : Nat) {s : State} (h_s : s₀.Kept s) :
    Fine s₀ False (execCopyComplete l hs units s) := by
  unfold execCopyComplete
  repeat' (first | done | simp +contextual (maxDischargeDepth := 99) only [State.setFlag_kept, State.setRings_kept, State.copyIn_kept, State.copyOut_kept, State.copyEnd_kept, State.copyPay_kept, State.bounceData_kept, Kept.upd, Kept.ite, Kept.foldl, Kept.foldl1, implies_true, Fine.ite, Fine.next, Fine.guard, *] | split | with_reducible apply Kept.foldl | with_reducible apply Kept.foldl1 | (intro _; intros) | with_reducible apply Fine.next | with_reducible apply Fine.guard)
theorem State.bounceFail_kept {s₀ : State} {s : State} (l : Nat) (idx : Nat) (ref : Nat) (h_s : s₀.Kept s) :
    s₀.Kept (State.bounceFail s l idx ref) := by
  unfold State.bounceFail
  repeat' (first | done | simp +contextual (maxDischargeDepth := 99) only [State.sf_kept, State.setFlag_kept, State.hold_kept, State.sessDead_kept, Kept.upd, Kept.ite, Kept.foldl, Kept.foldl1, implies_true, *] | split | with_reducible apply Kept.foldl | with_reducible apply Kept.foldl1 | (intro _; intros))
theorem State.bounceIn_kept {s₀ : State} {s : State} (l : Nat) (a : Nat) (data : List Byte) (h_s : s₀.Kept s) :
    s₀.Kept (State.bounceIn s l a data).1 := by
  unfold State.bounceIn
  repeat' (first | done | simp +contextual (maxDischargeDepth := 99) only [State.wr_kept, State.put_kept, State.tierCharge_kept, Kept.upd, Kept.ite, Kept.foldl, Kept.foldl1, implies_true, *] | split | with_reducible apply Kept.foldl | with_reducible apply Kept.foldl1 | (intro _; intros))
theorem State.bounceType_kept {s₀ : State} {s : State} (l : Nat) (idx : Nat) (ty : Nat) (target : Nat) (ref : Nat) (data : List Byte) (h_s : s₀.Kept s) :
    s₀.Kept (State.bounceType s l idx ty target ref data) := by
  unfold State.bounceType
  repeat' (first | done | simp +contextual (maxDischargeDepth := 99) only [State.take_kept, State.setRings_kept, State.hold_kept, State.bounceIn_kept, Kept.upd, Kept.ite, Kept.foldl, Kept.foldl1, implies_true, *] | split | with_reducible apply Kept.foldl | with_reducible apply Kept.foldl1 | (intro _; intros))
theorem execBounceRecord_kept {s₀ : State} (l : Fin 16) {s : State} (h_s : s₀.Kept s) :
    Fine s₀ False (execBounceRecord l s) := by
  unfold execBounceRecord
  repeat' (first | done | simp +contextual (maxDischargeDepth := 99) only [State.sf_kept, State.take_kept, State.hold_kept, State.sessDead_kept, State.bounceFail_kept, State.bounceType_kept, Kept.upd, Kept.ite, Kept.foldl, Kept.foldl1, implies_true, Fine.ite, Fine.next, Fine.guard, *] | split | with_reducible apply Kept.foldl | with_reducible apply Kept.foldl1 | (intro _; intros) | with_reducible apply Fine.next | with_reducible apply Fine.guard)
theorem State.mask_kept {s₀ : State} {s : State} (fn : Nat) (h_s : s₀.Kept s) :
    s₀.Kept (State.mask s fn) := by
  unfold State.mask
  repeat' (first | done | simp +contextual (maxDischargeDepth := 99) only [Kept.upd, Kept.ite, Kept.foldl, Kept.foldl1, implies_true, *] | split | with_reducible apply Kept.foldl | with_reducible apply Kept.foldl1 | (intro _; intros))
theorem State.ptpOff_kept {s₀ : State} {s : State} (fn : Nat) (h_s : s₀.Kept s) :
    s₀.Kept (State.ptpOff s fn) := by
  unfold State.ptpOff
  repeat' (first | done | simp +contextual (maxDischargeDepth := 99) only [State.sf_kept, Kept.upd, Kept.ite, Kept.foldl, Kept.foldl1, implies_true, *] | split | with_reducible apply Kept.foldl | with_reducible apply Kept.foldl1 | (intro _; intros))
theorem State.flrVf_kept {s₀ : State} {s : State} (l : Nat) (h_s : s₀.Kept s) :
    s₀.Kept (State.flrVf s l) := by
  unfold State.flrVf
  repeat' (first | done | simp +contextual (maxDischargeDepth := 99) only [State.sf_kept, State.setFlag_kept, State.setRings_kept, State.partialReset_kept, State.closeSess_kept, State.mask_kept, State.ptpOff_kept, Kept.upd, Kept.ite, Kept.foldl, Kept.foldl1, implies_true, *] | split | with_reducible apply Kept.foldl | with_reducible apply Kept.foldl1 | (intro _; intros))
theorem execFlr_kept {s₀ : State} (fn : Option (Fin 16)) {s : State} (h_s : s₀.Kept s) :
    Fine s₀ False (execFlr fn s) := by
  unfold execFlr
  repeat' (first | done | simp +contextual (maxDischargeDepth := 99) only [State.setFlag_kept, State.mask_kept, State.ptpOff_kept, State.flrVf_kept, Kept.upd, Kept.ite, Kept.foldl, Kept.foldl1, implies_true, Fine.ite, Fine.next, Fine.guard, *] | split | with_reducible apply Kept.foldl | with_reducible apply Kept.foldl1 | (intro _; intros) | with_reducible apply Fine.next | with_reducible apply Fine.guard)
theorem execConfigurationRequest_kept {s₀ : State} {s : State} (h_s : s₀.Kept s) :
    Fine s₀ False (execConfigurationRequest s) := by
  unfold execConfigurationRequest
  repeat' (first | done | simp +contextual (maxDischargeDepth := 99) only [Kept.upd, Kept.ite, Kept.foldl, Kept.foldl1, implies_true, Fine.ite, Fine.next, Fine.guard, *] | split | with_reducible apply Kept.foldl | with_reducible apply Kept.foldl1 | (intro _; intros) | with_reducible apply Fine.next | with_reducible apply Fine.guard)
theorem State.flSet_kept {s₀ : State} {s : State} (a : Nat) (bs : List Byte) (h_s : s₀.Kept s) :
    s₀.Kept (State.flSet s a bs) := ⟨h_s.pending, fun x => let c := h_s.canon x; ⟨c.regs, c.mem, c.host, twf_tputN _ _ _ _ _ c.flash, c.poison, c.tags⟩⟩
theorem State.flProgram_kept {s₀ : State} {s : State} (a : Nat) (bs : List Byte) (h_s : s₀.Kept s) :
    s₀.Kept (State.flProgram s a bs) := by
  unfold State.flProgram
  repeat' (first | done | simp +contextual (maxDischargeDepth := 99) only [State.flSet_kept, Kept.upd, Kept.ite, Kept.foldl, Kept.foldl1, implies_true, *] | split | with_reducible apply Kept.foldl | with_reducible apply Kept.foldl1 | (intro _; intros))
theorem State.flErase_kept {s₀ : State} {s : State} (a : Nat) (n : Nat) (h_s : s₀.Kept s) :
    s₀.Kept (State.flErase s a n) := ⟨h_s.pending, fun x => let c := h_s.canon x; ⟨c.regs, c.mem, c.host, twf_tclear _ _ _ _ c.flash, c.poison, c.tags⟩⟩
theorem State.dirWrite_kept {s₀ : State} {s : State} (d : Dir) (h_s : s₀.Kept s) :
    s₀.Kept (State.dirWrite s d) := by
  unfold State.dirWrite
  repeat' (first | done | simp +contextual (maxDischargeDepth := 99) only [State.flProgram_kept, State.flErase_kept, Kept.upd, Kept.ite, Kept.foldl, Kept.foldl1, implies_true, *] | split | with_reducible apply Kept.foldl | with_reducible apply Kept.foldl1 | (intro _; intros))
theorem State.smbAnswer_kept {s₀ : State} {s : State} (st : Nat) (data : List Byte) (h_s : s₀.Kept s) :
    s₀.Kept (State.smbAnswer s st data) := by
  unfold State.smbAnswer
  repeat' (first | done | simp +contextual (maxDischargeDepth := 99) only [State.countStatus_kept, Kept.upd, Kept.ite, Kept.foldl, Kept.foldl1, implies_true, *] | split | with_reducible apply Kept.foldl | with_reducible apply Kept.foldl1 | (intro _; intros))
theorem smbRow_kept {s₀ : State} (pec : Bool) {s : State} (body : State → State) (h_body : ∀ (x0 : State), s₀.Kept x0 → s₀.Kept (body x0)) (h_s : s₀.Kept s) :
    Fine s₀ False (smbRow pec s body) := by
  unfold smbRow
  repeat' (first | done | simp +contextual (maxDischargeDepth := 99) only [State.setFlag_kept, State.smbAnswer_kept, Kept.upd, Kept.ite, Kept.foldl, Kept.foldl1, implies_true, Fine.ite, Fine.next, Fine.guard, *] | split | with_reducible apply Kept.foldl | with_reducible apply Kept.foldl1 | (intro _; intros) | with_reducible apply Fine.next | with_reducible apply Fine.guard)
theorem execIdent_kept {s₀ : State} (pec : Bool) {s : State} (h_s : s₀.Kept s) :
    Fine s₀ False (execIdent pec s) := by
  unfold execIdent
  repeat' (first | done | simp +contextual (maxDischargeDepth := 99) only [State.take_kept, State.smbAnswer_kept, smbRow_kept, Kept.upd, Kept.ite, Kept.foldl, Kept.foldl1, implies_true, Fine.ite, Fine.next, Fine.guard, *] | split | with_reducible apply Kept.foldl | with_reducible apply Kept.foldl1 | (intro _; intros) | with_reducible apply smbRow_kept | with_reducible apply Fine.next | with_reducible apply Fine.guard)
theorem execTelemetry_kept {s₀ : State} (pec : Bool) {s : State} (h_s : s₀.Kept s) :
    Fine s₀ False (execTelemetry pec s) := by
  unfold execTelemetry
  repeat' (first | done | simp +contextual (maxDischargeDepth := 99) only [State.smbAnswer_kept, smbRow_kept, Kept.upd, Kept.ite, Kept.foldl, Kept.foldl1, implies_true, Fine.ite, Fine.next, Fine.guard, *] | split | with_reducible apply Kept.foldl | with_reducible apply Kept.foldl1 | (intro _; intros) | with_reducible apply smbRow_kept | with_reducible apply Fine.next | with_reducible apply Fine.guard)
theorem execFlashRead_kept {s₀ : State} (pec : Bool) (off : Word) (n : Byte) {s : State} (h_s : s₀.Kept s) :
    Fine s₀ False (execFlashRead pec off n s) := by
  unfold execFlashRead
  repeat' (first | done | simp +contextual (maxDischargeDepth := 99) only [State.smbAnswer_kept, smbRow_kept, Kept.upd, Kept.ite, Kept.foldl, Kept.foldl1, implies_true, Fine.ite, Fine.next, Fine.guard, *] | split | with_reducible apply Kept.foldl | with_reducible apply Kept.foldl1 | (intro _; intros) | with_reducible apply smbRow_kept | with_reducible apply Fine.next | with_reducible apply Fine.guard)
theorem State.flashStart_kept {s₀ : State} {s : State} (a : Nat) (n : Nat) (checks : List (Bool × Nat)) (op : FlashOp) (h_s : s₀.Kept s) :
    s₀.Kept (State.flashStart s a n checks op) := by
  unfold State.flashStart
  repeat' (first | done | simp +contextual (maxDischargeDepth := 99) only [State.smbAnswer_kept, Kept.upd, Kept.ite, Kept.foldl, Kept.foldl1, implies_true, *] | split | with_reducible apply Kept.foldl | with_reducible apply Kept.foldl1 | (intro _; intros))
theorem execFlashProgram_kept {s₀ : State} (pec : Bool) (off : Word) (data : List Byte) {s : State} (h_s : s₀.Kept s) :
    Fine s₀ False (execFlashProgram pec off data s) := by
  unfold execFlashProgram
  repeat' (first | done | simp +contextual (maxDischargeDepth := 99) only [smbRow_kept, State.flashStart_kept, Kept.upd, Kept.ite, Kept.foldl, Kept.foldl1, implies_true, Fine.ite, Fine.next, Fine.guard, *] | split | with_reducible apply Kept.foldl | with_reducible apply Kept.foldl1 | (intro _; intros) | with_reducible apply smbRow_kept | with_reducible apply Fine.next | with_reducible apply Fine.guard)
theorem execFlashErase_kept {s₀ : State} (pec : Bool) (off : Word) {s : State} (h_s : s₀.Kept s) :
    Fine s₀ False (execFlashErase pec off s) := by
  unfold execFlashErase
  repeat' (first | done | simp +contextual (maxDischargeDepth := 99) only [smbRow_kept, State.flashStart_kept, Kept.upd, Kept.ite, Kept.foldl, Kept.foldl1, implies_true, Fine.ite, Fine.next, Fine.guard, *] | split | with_reducible apply Kept.foldl | with_reducible apply Kept.foldl1 | (intro _; intros) | with_reducible apply smbRow_kept | with_reducible apply Fine.next | with_reducible apply Fine.guard)
theorem execFlashOpDone_kept {s₀ : State} (ok : Bool) {s : State} (h_s : s₀.Kept s) :
    Fine s₀ False (execFlashOpDone ok s) := by
  unfold execFlashOpDone
  repeat' (first | done | simp +contextual (maxDischargeDepth := 99) only [State.draw_kept, State.flSet_kept, State.flProgram_kept, State.flErase_kept, Kept.upd, Kept.ite, Kept.foldl, Kept.foldl1, implies_true, Fine.ite, Fine.next, Fine.guard, *] | split | with_reducible apply Kept.foldl | with_reducible apply Kept.foldl1 | (intro _; intros) | with_reducible apply Fine.next | with_reducible apply Fine.guard)
theorem execFlashStatus_kept {s₀ : State} (pec : Bool) {s : State} (h_s : s₀.Kept s) :
    Fine s₀ False (execFlashStatus pec s) := by
  unfold execFlashStatus
  repeat' (first | done | simp +contextual (maxDischargeDepth := 99) only [State.smbAnswer_kept, smbRow_kept, Kept.upd, Kept.ite, Kept.foldl, Kept.foldl1, implies_true, Fine.ite, Fine.next, Fine.guard, *] | split | with_reducible apply Kept.foldl | with_reducible apply Kept.foldl1 | (intro _; intros) | with_reducible apply smbRow_kept | with_reducible apply Fine.next | with_reducible apply Fine.guard)
theorem execAlertResponse_kept {s₀ : State} {s : State} (h_s : s₀.Kept s) :
    Fine s₀ False (execAlertResponse s) := by
  unfold execAlertResponse
  repeat' (first | done | simp +contextual (maxDischargeDepth := 99) only [Kept.upd, Kept.ite, Kept.foldl, Kept.foldl1, implies_true, Fine.ite, Fine.next, Fine.guard, *] | split | with_reducible apply Kept.foldl | with_reducible apply Kept.foldl1 | (intro _; intros) | with_reducible apply Fine.next | with_reducible apply Fine.guard)
theorem State.outside_kept {s₀ s t : State} (h_s : s₀.Kept s) (h_t : t.Canon) :
    s₀.Kept (State.outside s t) := ⟨h_s.pending, fun x => let c := h_s.canon x; ⟨h_t.regs, h_t.mem, c.host, c.flash, h_t.poison, h_t.tags⟩⟩
theorem State.coldReset_kept {s₀ : State} {s : State} (h_s : s₀.Kept s) :
    s₀.Kept (State.coldReset s) := State.outside_kept h_s reset_canon
theorem State.bootGo_kept {s₀ : State} {s : State} (st : Nat) (h_s : s₀.Kept s) :
    s₀.Kept (State.bootGo s st) := by
  unfold State.bootGo
  repeat' (first | done | simp +contextual (maxDischargeDepth := 99) only [State.sf_kept, Kept.upd, Kept.ite, Kept.foldl, Kept.foldl1, implies_true, *] | split | with_reducible apply Kept.foldl | with_reducible apply Kept.foldl1 | (intro _; intros))
theorem State.domsOff_kept {s₀ : State} {s : State} (keep : Nat → Bool) (h_s : s₀.Kept s) :
    s₀.Kept (State.domsOff s keep) := by
  unfold State.domsOff
  repeat' (first | done | simp +contextual (maxDischargeDepth := 99) only [State.setDom_kept, Kept.upd, Kept.ite, Kept.foldl, Kept.foldl1, implies_true, *] | split | with_reducible apply Kept.foldl | with_reducible apply Kept.foldl1 | (intro _; intros))
theorem State.fullRestart_kept {s₀ : State} {s : State} (h_s : s₀.Kept s) :
    s₀.Kept (State.fullRestart s) := by
  unfold State.fullRestart
  refine State.bootGo_kept _ (State.domsOff_kept _ ⟨h_s.pending, fun x => ?_⟩)
  have c := h_s.canon x
  exact ⟨twf_filter _ _ _ c.regs, rfl, c.host, c.flash, rfl, rfl⟩
theorem execResetN_kept {s₀ : State} (straps : Byte) {s : State} (h_s : s₀.Kept s) :
    Fine s₀ False (execResetN straps s) := by
  unfold execResetN
  repeat' (first | done | simp +contextual (maxDischargeDepth := 99) only [State.wr_kept, State.coldReset_kept, Kept.upd, Kept.ite, Kept.foldl, Kept.foldl1, implies_true, Fine.ite, Fine.next, Fine.guard, *] | split | with_reducible apply Kept.foldl | with_reducible apply Kept.foldl1 | (intro _; intros) | with_reducible apply Fine.next | with_reducible apply Fine.guard)
theorem execResetNLow_kept {s₀ : State} {s : State} (h_s : s₀.Kept s) :
    Fine s₀ False (execResetNLow s) := by
  unfold execResetNLow
  repeat' (first | done | simp +contextual (maxDischargeDepth := 99) only [State.coldReset_kept, Kept.upd, Kept.ite, Kept.foldl, Kept.foldl1, implies_true, Fine.ite, Fine.next, Fine.guard, *] | split | with_reducible apply Kept.foldl | with_reducible apply Kept.foldl1 | (intro _; intros) | with_reducible apply Fine.next | with_reducible apply Fine.guard)
theorem execSupplyFault_kept {s₀ : State} {s : State} (h_s : s₀.Kept s) :
    Fine s₀ False (execSupplyFault s) := by
  unfold execSupplyFault
  repeat' (first | done | simp +contextual (maxDischargeDepth := 99) only [State.coldReset_kept, Kept.upd, Kept.ite, Kept.foldl, Kept.foldl1, implies_true, Fine.ite, Fine.next, Fine.guard, *] | split | with_reducible apply Kept.foldl | with_reducible apply Kept.foldl1 | (intro _; intros) | with_reducible apply Fine.next | with_reducible apply Fine.guard)
theorem execRefclkLoss_kept {s₀ : State} {s : State} (h_s : s₀.Kept s) :
    Fine s₀ False (execRefclkLoss s) := by
  unfold execRefclkLoss
  repeat' (first | done | simp +contextual (maxDischargeDepth := 99) only [State.setFlag_kept, State.powerOff_kept, Kept.upd, Kept.ite, Kept.foldl, Kept.foldl1, implies_true, Fine.ite, Fine.next, Fine.guard, *] | split | with_reducible apply Kept.foldl | with_reducible apply Kept.foldl1 | (intro _; intros) | with_reducible apply Fine.next | with_reducible apply Fine.guard)
theorem execRefclkReturn_kept {s₀ : State} {s : State} (h_s : s₀.Kept s) :
    Fine s₀ False (execRefclkReturn s) := by
  unfold execRefclkReturn
  refine Fine.next ?_
  split
  · refine State.bootGo_kept _ (State.domsOff_kept _ ⟨h_s.pending, fun x => ?_⟩)
    have c := h_s.canon x
    exact ⟨twf_filter _ _ _ c.regs, rfl, c.host, c.flash, rfl, rfl⟩
  · exact h_s
theorem State.asPwr_kept {s₀ : State} {s : State} (who : Requester) (off : Nat) (eff : State → State) (h_eff : ∀ (x0 : State), s₀.Kept x0 → s₀.Kept (eff x0)) (h_s : s₀.Kept s) :
    s₀.Kept (State.asPwr s who off eff) := by
  unfold State.asPwr
  repeat' (first | done | simp +contextual (maxDischargeDepth := 99) only [State.asWrite_kept, Kept.upd, Kept.ite, Kept.foldl, Kept.foldl1, implies_true, *] | split | with_reducible apply Kept.foldl | with_reducible apply Kept.foldl1 | (intro _; intros) | with_reducible apply State.asWrite_kept)
theorem State.opStat_kept {s₀ : State} {s : State} (st : Nat) (h_s : s₀.Kept s) :
    s₀.Kept (State.opStat s st) := by
  unfold State.opStat
  repeat' (first | done | simp +contextual (maxDischargeDepth := 99) only [State.wr_kept, State.countStatus_kept, Kept.upd, Kept.ite, Kept.foldl, Kept.foldl1, implies_true, *] | split | with_reducible apply Kept.foldl | with_reducible apply Kept.foldl1 | (intro _; intros))
theorem execRestart_kept {s₀ : State} (who : Requester) {s : State} (h_s : s₀.Kept s) :
    Fine s₀ False (execRestart who s) := by
  unfold execRestart
  repeat' (first | done | simp +contextual (maxDischargeDepth := 99) only [State.fullRestart_kept, State.asPwr_kept, State.opStat_kept, Kept.upd, Kept.ite, Kept.foldl, Kept.foldl1, implies_true, Fine.ite, Fine.next, Fine.guard, *] | split | with_reducible apply Kept.foldl | with_reducible apply Kept.foldl1 | (intro _; intros) | with_reducible apply State.asPwr_kept | with_reducible apply Fine.next | with_reducible apply Fine.guard)
theorem execWearRecordWrite_kept {s₀ : State} (out : Fin 3) {s : State} (h_s : s₀.Kept s) :
    Fine s₀ False (execWearRecordWrite out s) := by
  unfold execWearRecordWrite
  repeat' (first | done | simp +contextual (maxDischargeDepth := 99) only [State.wr_kept, State.sf_kept, State.setFlag_kept, State.draw_kept, State.flSet_kept, State.flErase_kept, Kept.upd, Kept.ite, Kept.foldl, Kept.foldl1, implies_true, Fine.ite, Fine.next, Fine.guard, *] | split | with_reducible apply Kept.foldl | with_reducible apply Kept.foldl1 | (intro _; intros) | with_reducible apply Fine.next | with_reducible apply Fine.guard)
theorem State.wearSpares_kept {s₀ : State} {s : State} (h_s : s₀.Kept s) :
    s₀.Kept (State.wearSpares s) := by
  unfold State.wearSpares
  repeat' (first | done | simp +contextual (maxDischargeDepth := 99) only [State.sf_kept, State.showFrames_kept, Kept.upd, Kept.ite, Kept.foldl, Kept.foldl1, implies_true, *] | split | with_reducible apply Kept.foldl | with_reducible apply Kept.foldl1 | (intro _; intros))
theorem State.wearApply_kept {s₀ : State} {s : State} (a : Nat) (h_s : s₀.Kept s) :
    s₀.Kept (State.wearApply s a) := by
  unfold State.wearApply
  repeat' (first | done | simp +contextual (maxDischargeDepth := 99) only [State.wr_kept, State.sf_kept, State.setLink_kept, State.wearSpares_kept, Kept.upd, Kept.ite, Kept.foldl, Kept.foldl1, implies_true, *] | split | with_reducible apply Kept.foldl | with_reducible apply Kept.foldl1 | (intro _; intros))
theorem State.wearStart_kept {s₀ : State} {s : State} (a : Nat) (b : Nat) (h_s : s₀.Kept s) :
    s₀.Kept (State.wearStart s a b) := by
  unfold State.wearStart
  repeat' (first | done | simp +contextual (maxDischargeDepth := 99) only [State.wr_kept, State.sf_kept, State.setFlag_kept, State.take_kept, State.wearApply_kept, Kept.upd, Kept.ite, Kept.foldl, Kept.foldl1, implies_true, *] | split | with_reducible apply Kept.foldl | with_reducible apply Kept.foldl1 | (intro _; intros))
theorem State.lowMargin_kept {s₀ : State} {s : State} (u : RelUnit) (h_s : s₀.Kept s) :
    s₀.Kept (State.lowMargin s u) := by
  unfold State.lowMargin
  repeat' (first | done | simp +contextual (maxDischargeDepth := 99) only [State.sf_kept, State.setFlag_kept, State.history_kept, State.remap_kept, Kept.upd, Kept.ite, Kept.foldl, Kept.foldl1, implies_true, *] | split | with_reducible apply Kept.foldl | with_reducible apply Kept.foldl1 | (intro _; intros))
theorem execMarginCheck_kept {s₀ : State} (margin : Int) (u : RelUnit) {s : State} (h_s : s₀.Kept s) :
    Fine s₀ False (execMarginCheck margin u s) := by
  unfold execMarginCheck
  repeat' (first | done | simp +contextual (maxDischargeDepth := 99) only [State.sf_kept, State.lowMargin_kept, Kept.upd, Kept.ite, Kept.foldl, Kept.foldl1, implies_true, Fine.ite, Fine.next, Fine.guard, *] | split | with_reducible apply Kept.foldl | with_reducible apply Kept.foldl1 | (intro _; intros) | with_reducible apply Fine.next | with_reducible apply Fine.guard)
theorem State.innLost_kept {s₀ : State} {s : State} (h_s : s₀.Kept s) :
    s₀.Kept (State.innLost s) := by
  unfold State.innLost
  repeat' (first | done | simp +contextual (maxDischargeDepth := 99) only [State.noSpare_kept, State.fullRestart_kept, Kept.upd, Kept.ite, Kept.foldl, Kept.foldl1, implies_true, *] | split | with_reducible apply Kept.foldl | with_reducible apply Kept.foldl1 | (intro _; intros))
theorem execLockstepMismatch_kept {s₀ : State} (v : Vote) {s : State} (h_s : s₀.Kept s) :
    Fine s₀ False (execLockstepMismatch v s) := by
  unfold execLockstepMismatch
  repeat' (first | done | simp +contextual (maxDischargeDepth := 99) only [State.draw_kept, State.relFault_kept, State.relTrans_kept, State.relLasting_kept, State.spend_kept, State.innLost_kept, Kept.upd, Kept.ite, Kept.foldl, Kept.foldl1, implies_true, Fine.ite, Fine.next, Fine.guard, *] | split | with_reducible apply Kept.foldl | with_reducible apply Kept.foldl1 | (intro _; intros) | with_reducible apply Fine.next | with_reducible apply Fine.guard)
theorem State.fwShow_kept {s₀ : State} {s : State} (phase : Nat) (st : Nat) (h_s : s₀.Kept s) :
    s₀.Kept (State.fwShow s phase st) := by
  unfold State.fwShow
  repeat' (first | done | simp +contextual (maxDischargeDepth := 99) only [State.sf_kept, Kept.upd, Kept.ite, Kept.foldl, Kept.foldl1, implies_true, *] | split | with_reducible apply Kept.foldl | with_reducible apply Kept.foldl1 | (intro _; intros))
theorem State.fwGo_kept {s₀ : State} {s : State} (target : Nat) (sig : Bool) (digest : Nat) (h_s : s₀.Kept s) :
    s₀.Kept (State.fwGo s target sig digest) := by
  unfold State.fwGo
  repeat' (first | done | simp +contextual (maxDischargeDepth := 99) only [State.sf_kept, State.setFlag_kept, State.countStatus_kept, State.fwShow_kept, Kept.upd, Kept.ite, Kept.foldl, Kept.foldl1, implies_true, *] | split | with_reducible apply Kept.foldl | with_reducible apply Kept.foldl1 | (intro _; intros))
theorem State.fwCtl_kept {s₀ : State} {s : State} (who : Requester) (target : Nat) (go : Bool) (sig : Bool) (digest : Nat) (h_s : s₀.Kept s) :
    s₀.Kept (State.fwCtl s who target go sig digest) := by
  unfold State.fwCtl
  repeat' (first | done | simp +contextual (maxDischargeDepth := 99) only [State.wr_kept, State.asPwr_kept, State.fwGo_kept, Kept.upd, Kept.ite, Kept.foldl, Kept.foldl1, implies_true, *] | split | with_reducible apply Kept.foldl | with_reducible apply Kept.foldl1 | (intro _; intros) | with_reducible apply State.asPwr_kept)
theorem execFwupd_kept {s₀ : State} (who : Requester) (t : Fin 4) (sig : Bool) (digest : BitVec 384) {s : State} (h_s : s₀.Kept s) :
    Fine s₀ False (execFwupd who t sig digest s) := by
  unfold execFwupd
  repeat' (first | done | simp +contextual (maxDischargeDepth := 99) only [State.fwCtl_kept, Kept.upd, Kept.ite, Kept.foldl, Kept.foldl1, implies_true, Fine.ite, Fine.next, Fine.guard, *] | split | with_reducible apply Kept.foldl | with_reducible apply Kept.foldl1 | (intro _; intros) | with_reducible apply Fine.next | with_reducible apply Fine.guard)
theorem execFwupdPhaseEnd_kept {s₀ : State} (ok : Bool) {s : State} (h_s : s₀.Kept s) :
    Fine s₀ False (execFwupdPhaseEnd ok s) := by
  unfold execFwupdPhaseEnd
  repeat' (first | done | simp +contextual (maxDischargeDepth := 99) only [State.fwShow_kept, Kept.upd, Kept.ite, Kept.foldl, Kept.foldl1, implies_true, Fine.ite, Fine.next, Fine.guard, *] | split | with_reducible apply Kept.foldl | with_reducible apply Kept.foldl1 | (intro _; intros) | with_reducible apply Fine.next | with_reducible apply Fine.guard)
theorem State.setDuty_kept {s₀ : State} {s : State} (du : Nat) (dp : Nat) (h_s : s₀.Kept s) :
    s₀.Kept (State.setDuty s du dp) := by
  unfold State.setDuty
  repeat' (first | done | simp +contextual (maxDischargeDepth := 99) only [State.sf_kept, State.setFlagIf_kept, Kept.upd, Kept.ite, Kept.foldl, Kept.foldl1, implies_true, *] | split | with_reducible apply Kept.foldl | with_reducible apply Kept.foldl1 | (intro _; intros))
theorem State.pmbusFail_kept {s₀ : State} {s : State} (h_s : s₀.Kept s) :
    s₀.Kept (State.pmbusFail s) := by
  unfold State.pmbusFail
  repeat' (first | done | simp +contextual (maxDischargeDepth := 99) only [State.setFlag_kept, State.setDuty_kept, Kept.upd, Kept.ite, Kept.foldl, Kept.foldl1, implies_true, *] | split | with_reducible apply Kept.foldl | with_reducible apply Kept.foldl1 | (intro _; intros))
theorem execVsetUpdate_kept {s₀ : State} (vout : Nat) (iout : Nat) (confirmed : Bool) {s : State} (h_s : s₀.Kept s) :
    Fine s₀ False (execVsetUpdate vout iout confirmed s) := by
  unfold execVsetUpdate
  repeat' (first | done | simp +contextual (maxDischargeDepth := 99) only [State.wr_kept, State.setFlagIf_kept, State.draw_kept, State.pmbusFail_kept, Kept.upd, Kept.ite, Kept.foldl, Kept.foldl1, implies_true, Fine.ite, Fine.next, Fine.guard, *] | split | with_reducible apply Kept.foldl | with_reducible apply Kept.foldl1 | (intro _; intros) | with_reducible apply Fine.next | with_reducible apply Fine.guard)
theorem State.vreqWrite_kept {s₀ : State} {s : State} (v : Word) (h_s : s₀.Kept s) :
    s₀.Kept (State.vreqWrite s v) := by
  unfold State.vreqWrite
  repeat' (first | done | simp +contextual (maxDischargeDepth := 99) only [State.wr_kept, State.sf_kept, State.setFlagIf_kept, Kept.upd, Kept.ite, Kept.foldl, Kept.foldl1, implies_true, *] | split | with_reducible apply Kept.foldl | with_reducible apply Kept.foldl1 | (intro _; intros))
theorem execVreqWrite_kept {s₀ : State} (who : Requester) (v : Word) {s : State} (h_s : s₀.Kept s) :
    Fine s₀ False (execVreqWrite who v s) := by
  unfold execVreqWrite
  repeat' (first | done | simp +contextual (maxDischargeDepth := 99) only [State.asWrite_kept, State.vreqWrite_kept, Kept.upd, Kept.ite, Kept.foldl, Kept.foldl1, implies_true, Fine.ite, Fine.next, Fine.guard, *] | split | with_reducible apply Kept.foldl | with_reducible apply Kept.foldl1 | (intro _; intros) | with_reducible apply State.asWrite_kept | with_reducible apply Fine.next | with_reducible apply Fine.guard)
theorem execPmbAlert_kept {s₀ : State} (ok : Bool) {s : State} (h_s : s₀.Kept s) :
    Fine s₀ False (execPmbAlert ok s) := by
  unfold execPmbAlert
  repeat' (first | done | simp +contextual (maxDischargeDepth := 99) only [State.pmbusFail_kept, Kept.upd, Kept.ite, Kept.foldl, Kept.foldl1, implies_true, Fine.ite, Fine.next, Fine.guard, *] | split | with_reducible apply Kept.foldl | with_reducible apply Kept.foldl1 | (intro _; intros) | with_reducible apply Fine.next | with_reducible apply Fine.guard)
theorem State.thermCycle_kept {s₀ : State} {s : State} (t : Int) (h_s : s₀.Kept s) :
    s₀.Kept (State.thermCycle s t) := by
  unfold State.thermCycle
  repeat' (first | done | simp +contextual (maxDischargeDepth := 99) only [State.wr_kept, Kept.upd, Kept.ite, Kept.foldl, Kept.foldl1, implies_true, *] | split | with_reducible apply Kept.foldl | with_reducible apply Kept.foldl1 | (intro _; intros))
theorem State.retireSensor_kept {s₀ : State} {s : State} (i : Nat) (isA : Bool) (h_s : s₀.Kept s) :
    s₀.Kept (State.retireSensor s i isA) := by
  unfold State.retireSensor
  repeat' (first | done | simp +contextual (maxDischargeDepth := 99) only [State.sf_kept, State.setFlag_kept, State.draw_kept, State.relFault_kept, State.relLasting_kept, State.spend_kept, Kept.upd, Kept.ite, Kept.foldl, Kept.foldl1, implies_true, *] | split | with_reducible apply Kept.foldl | with_reducible apply Kept.foldl1 | (intro _; intros))
theorem State.readSite_kept {s₀ : State} {s : State} (ts : List Int) (i : Nat) (h_s : s₀.Kept s) :
    s₀.Kept (State.readSite s ts i) := by
  unfold State.readSite
  repeat' (first | done | simp +contextual (maxDischargeDepth := 99) only [State.sf_kept, State.retireSensor_kept, Kept.upd, Kept.ite, Kept.foldl, Kept.foldl1, implies_true, *] | split | with_reducible apply Kept.foldl | with_reducible apply Kept.foldl1 | (intro _; intros))
theorem State.tripOff_kept {s₀ : State} {s : State} (h_s : s₀.Kept s) :
    s₀.Kept (State.tripOff s) := by
  unfold State.tripOff
  repeat' (first | done | simp +contextual (maxDischargeDepth := 99) only [State.setFlag_kept, State.powerOff_kept, State.bootGo_kept, Kept.upd, Kept.ite, Kept.foldl, Kept.foldl1, implies_true, *] | split | with_reducible apply Kept.foldl | with_reducible apply Kept.foldl1 | (intro _; intros))
theorem execSensorRead_kept {s₀ : State} (t : List Int) {s : State} (h_s : s₀.Kept s) :
    Fine s₀ False (execSensorRead t s) := by
  unfold execSensorRead
  repeat' (first | done | simp +contextual (maxDischargeDepth := 99) only [State.sf_kept, State.fullRestart_kept, State.thermCycle_kept, State.readSite_kept, State.tripOff_kept, Kept.upd, Kept.ite, Kept.foldl, Kept.foldl1, implies_true, Fine.ite, Fine.next, Fine.guard, *] | split | with_reducible apply Kept.foldl | with_reducible apply Kept.foldl1 | (intro _; intros) | with_reducible apply Fine.next | with_reducible apply Fine.guard)
theorem execThrottleUpdate_kept {s₀ : State} {s : State} (h_s : s₀.Kept s) :
    Fine s₀ False (execThrottleUpdate s) := by
  unfold execThrottleUpdate
  repeat' (first | done | simp +contextual (maxDischargeDepth := 99) only [State.setDuty_kept, Kept.upd, Kept.ite, Kept.foldl, Kept.foldl1, implies_true, Fine.ite, Fine.next, Fine.guard, *] | split | with_reducible apply Kept.foldl | with_reducible apply Kept.foldl1 | (intro _; intros) | with_reducible apply Fine.next | with_reducible apply Fine.guard)
theorem State.domReqWrite_kept {s₀ : State} {s : State} (k : Nat) (m : Nat) (v : Word) (h_s : s₀.Kept s) :
    s₀.Kept (State.domReqWrite s k m v) := by
  unfold State.domReqWrite
  repeat' (first | done | simp +contextual (maxDischargeDepth := 99) only [State.wr_kept, State.setFlagIf_kept, Kept.upd, Kept.ite, Kept.foldl, Kept.foldl1, implies_true, *] | split | with_reducible apply Kept.foldl | with_reducible apply Kept.foldl1 | (intro _; intros))
theorem execDomReqWrite_kept {s₀ : State} (who : Requester) (k : Fin 11) (v : Word) {s : State} (h_s : s₀.Kept s) :
    Fine s₀ False (execDomReqWrite who k v s) := by
  unfold execDomReqWrite
  repeat' (first | done | simp +contextual (maxDischargeDepth := 99) only [State.asWrite_kept, State.domReqWrite_kept, Kept.upd, Kept.ite, Kept.foldl, Kept.foldl1, implies_true, Fine.ite, Fine.next, Fine.guard, *] | split | with_reducible apply Kept.foldl | with_reducible apply Kept.foldl1 | (intro _; intros) | with_reducible apply State.asWrite_kept | with_reducible apply Fine.next | with_reducible apply Fine.guard)
theorem execDomainSwitched_kept {s₀ : State} (d : Fin 176) {s : State} (h_s : s₀.Kept s) :
    Fine s₀ False (execDomainSwitched d s) := by
  unfold execDomainSwitched
  repeat' (first | done | simp +contextual (maxDischargeDepth := 99) only [State.switchDom_kept, Kept.upd, Kept.ite, Kept.foldl, Kept.foldl1, implies_true, Fine.ite, Fine.next, Fine.guard, *] | split | with_reducible apply Kept.foldl | with_reducible apply Kept.foldl1 | (intro _; intros) | with_reducible apply Fine.next | with_reducible apply Fine.guard)
theorem State.wake_kept {s₀ : State} {s : State} (h_s : s₀.Kept s) :
    s₀.Kept (State.wake s) := by
  unfold State.wake
  repeat' (first | done | simp +contextual (maxDischargeDepth := 99) only [State.sf_kept, State.powerNeeded_kept, State.bootGo_kept, Kept.upd, Kept.ite, Kept.foldl, Kept.foldl1, implies_true, *] | split | with_reducible apply Kept.foldl | with_reducible apply Kept.foldl1 | (intro _; intros))
theorem State.stbyEnter_kept {s₀ : State} {s : State} (h_s : s₀.Kept s) :
    s₀.Kept (State.stbyEnter s) := by
  unfold State.stbyEnter
  repeat' (first | done | simp +contextual (maxDischargeDepth := 99) only [State.sf_kept, State.powerOff_kept, State.bootGo_kept, State.opStat_kept, Kept.upd, Kept.ite, Kept.foldl, Kept.foldl1, implies_true, *] | split | with_reducible apply Kept.foldl | with_reducible apply Kept.foldl1 | (intro _; intros))
theorem State.stbyExit_kept {s₀ : State} {s : State} (h_s : s₀.Kept s) :
    s₀.Kept (State.stbyExit s) := by
  unfold State.stbyExit
  repeat' (first | done | simp +contextual (maxDischargeDepth := 99) only [State.opStat_kept, State.wake_kept, Kept.upd, Kept.ite, Kept.foldl, Kept.foldl1, implies_true, *] | split | with_reducible apply Kept.foldl | with_reducible apply Kept.foldl1 | (intro _; intros))
theorem execStbyEnter_kept {s₀ : State} (who : Requester) {s : State} (h_s : s₀.Kept s) :
    Fine s₀ False (execStbyEnter who s) := by
  unfold execStbyEnter
  repeat' (first | done | simp +contextual (maxDischargeDepth := 99) only [State.asPwr_kept, State.stbyEnter_kept, Kept.upd, Kept.ite, Kept.foldl, Kept.foldl1, implies_true, Fine.ite, Fine.next, Fine.guard, *] | split | with_reducible apply Kept.foldl | with_reducible apply Kept.foldl1 | (intro _; intros) | with_reducible apply State.asPwr_kept | with_reducible apply Fine.next | with_reducible apply Fine.guard)
theorem execStbyExit_kept {s₀ : State} (who : Requester) (reg : Bool) {s : State} (h_s : s₀.Kept s) :
    Fine s₀ False (execStbyExit who reg s) := by
  unfold execStbyExit
  repeat' (first | done | simp +contextual (maxDischargeDepth := 99) only [State.asPwr_kept, State.wake_kept, State.stbyExit_kept, Kept.upd, Kept.ite, Kept.foldl, Kept.foldl1, implies_true, Fine.ite, Fine.next, Fine.guard, *] | split | with_reducible apply Kept.foldl | with_reducible apply Kept.foldl1 | (intro _; intros) | with_reducible apply State.asPwr_kept | with_reducible apply Fine.next | with_reducible apply Fine.guard)
theorem execWake_kept {s₀ : State} (pec : Bool) {s : State} (h_s : s₀.Kept s) :
    Fine s₀ False (execWake pec s) := by
  unfold execWake
  repeat' (first | done | simp +contextual (maxDischargeDepth := 99) only [State.smbAnswer_kept, smbRow_kept, State.wake_kept, Kept.upd, Kept.ite, Kept.foldl, Kept.foldl1, implies_true, Fine.ite, Fine.next, Fine.guard, *] | split | with_reducible apply Kept.foldl | with_reducible apply Kept.foldl1 | (intro _; intros) | with_reducible apply smbRow_kept | with_reducible apply Fine.next | with_reducible apply Fine.guard)
theorem State.confirm_kept {s₀ : State} {s : State} (h_s : s₀.Kept s) :
    s₀.Kept (State.confirm s) := by
  unfold State.confirm
  repeat' (first | done | simp +contextual (maxDischargeDepth := 99) only [State.sf_kept, State.dirWrite_kept, Kept.upd, Kept.ite, Kept.foldl, Kept.foldl1, implies_true, *] | split | with_reducible apply Kept.foldl | with_reducible apply Kept.foldl1 | (intro _; intros))
theorem execConfirm_kept {s₀ : State} (who : Requester) {s : State} (h_s : s₀.Kept s) :
    Fine s₀ False (execConfirm who s) := by
  unfold execConfirm
  repeat' (first | done | simp +contextual (maxDischargeDepth := 99) only [State.asPwr_kept, State.confirm_kept, Kept.upd, Kept.ite, Kept.foldl, Kept.foldl1, implies_true, Fine.ite, Fine.next, Fine.guard, *] | split | with_reducible apply Kept.foldl | with_reducible apply Kept.foldl1 | (intro _; intros) | with_reducible apply State.asPwr_kept | with_reducible apply Fine.next | with_reducible apply Fine.guard)
theorem State.cntRead_kept {s₀ : State} {s : State} (who : Requester) (off : Nat) (b : Nat) (i : Nat) (h_s : s₀.Kept s) :
    s₀.Kept (State.cntRead s who off b i).1 := by
  unfold State.cntRead
  repeat' (first | done | simp +contextual (maxDischargeDepth := 99) only [State.asCntRead_kept, State.readCntLo_kept, Kept.upd, Kept.ite, Kept.foldl, Kept.foldl1, implies_true, *] | split | with_reducible apply Kept.foldl | with_reducible apply Kept.foldl1 | (intro _; intros) | with_reducible apply State.asCntRead_kept)
theorem State.busRead_kept {s₀ : State} {s : State} (who : Requester) (off : Nat) (h_s : s₀.Kept s) :
    s₀.Kept (State.busRead s who off).1 := by
  unfold State.busRead
  repeat' (first | done | simp +contextual (maxDischargeDepth := 99) only [State.deny_kept, State.latchNow_kept, State.syncDenied_kept, State.cntRead_kept, Kept.upd, Kept.ite, Kept.foldl, Kept.foldl1, implies_true, *] | split | with_reducible apply Kept.foldl | with_reducible apply Kept.foldl1 | (intro _; intros))
theorem State.plainWrite_kept {s₀ : State} {s : State} (off : Nat) (m : Nat) (v : Word) (h_s : s₀.Kept s) :
    s₀.Kept (State.plainWrite s off m v) := by
  unfold State.plainWrite
  repeat' (first | done | simp +contextual (maxDischargeDepth := 99) only [State.wr_kept, Kept.upd, Kept.ite, Kept.foldl, Kept.foldl1, implies_true, *] | split | with_reducible apply Kept.foldl | with_reducible apply Kept.foldl1 | (intro _; intros))
theorem State.rwlWrite_kept {s₀ : State} {s : State} (who : Requester) (off : Nat) (m : Nat) (v : Word) (h_s : s₀.Kept s) :
    s₀.Kept (State.rwlWrite s who off m v) := by
  unfold State.rwlWrite
  repeat' (first | done | simp +contextual (maxDischargeDepth := 99) only [State.setFlag_kept, State.makeLive_kept, State.mask_kept, Kept.upd, Kept.ite, Kept.foldl, Kept.foldl1, implies_true, *] | split | with_reducible apply Kept.foldl | with_reducible apply Kept.foldl1 | (intro _; intros))
theorem State.genWrite_kept {s₀ : State} {s : State} (who : Requester) (off : Nat) (m : Nat) (v : Word) (h_s : s₀.Kept s) :
    s₀.Kept (State.genWrite s who off m v) := by
  unfold State.genWrite
  repeat' (first | done | simp +contextual (maxDischargeDepth := 99) only [State.plainWrite_kept, State.rwlWrite_kept, Kept.upd, Kept.ite, Kept.foldl, Kept.foldl1, implies_true, *] | split | with_reducible apply Kept.foldl | with_reducible apply Kept.foldl1 | (intro _; intros))
theorem State.ifHeard_kept {s₀ : State} {s : State} (p : Bool) (eff : State → State) (h_eff : ∀ (x0 : State), s₀.Kept x0 → s₀.Kept (eff x0)) (h_s : s₀.Kept s) :
    s₀.Kept (State.ifHeard s p eff) := by
  unfold State.ifHeard
  repeat' (first | done | simp +contextual (maxDischargeDepth := 99) only [Kept.upd, Kept.ite, Kept.foldl, Kept.foldl1, implies_true, *] | split | with_reducible apply Kept.foldl | with_reducible apply Kept.foldl1 | (intro _; intros))
theorem State.cntWrite_kept {s₀ : State} {s : State} (who : Requester) (off : Nat) (b : Nat) (i : Nat) (m : Nat) (v : Word) (h_s : s₀.Kept s) :
    s₀.Kept (State.cntWrite s who off b i m v) := by
  unfold State.cntWrite
  repeat' (first | done | simp +contextual (maxDischargeDepth := 99) only [State.deny_kept, State.cntDenied_kept, State.asCntWrite_kept, State.writeCntLo_kept, State.writeCntHi_kept, State.plainWrite_kept, Kept.upd, Kept.ite, Kept.foldl, Kept.foldl1, implies_true, *] | split | with_reducible apply Kept.foldl | with_reducible apply Kept.foldl1 | (intro _; intros) | with_reducible apply State.asCntWrite_kept)
theorem State.ldgCtl_kept {s₀ : State} {s : State} (who : Requester) (l : Nat) (c : Word) (h_s : s₀.Kept s) :
    s₀.Kept (State.ldgCtl s who l c) := by
  unfold State.ldgCtl
  repeat' (first | done | simp +contextual (maxDischargeDepth := 99) only [State.cancel_kept, State.ldgReset_kept, Kept.upd, Kept.ite, Kept.foldl, Kept.foldl1, implies_true, *] | split | with_reducible apply Kept.foldl | with_reducible apply Kept.foldl1 | (intro _; intros))
theorem State.ldgWrite_kept {s₀ : State} {s : State} (who : Requester) (off : Nat) (m : Nat) (v : Word) (h_s : s₀.Kept s) :
    s₀.Kept (State.ldgWrite s who off m v) := by
  unfold State.ldgWrite
  repeat' (first | done | simp +contextual (maxDischargeDepth := 99) only [State.genWrite_kept, State.ldgCtl_kept, Kept.upd, Kept.ite, Kept.foldl, Kept.foldl1, implies_true, *] | split | with_reducible apply Kept.foldl | with_reducible apply Kept.foldl1 | (intro _; intros))
theorem State.stgWrite_kept {s₀ : State} {s : State} (who : Requester) (off : Nat) (m : Nat) (v : Word) (h_s : s₀.Kept s) :
    s₀.Kept (State.stgWrite s who off m v) := by
  unfold State.stgWrite
  repeat' (first | done | simp +contextual (maxDischargeDepth := 99) only [State.setFlag_kept, State.asWrite_kept, State.asStager_kept, State.opBegin_kept, State.opCheck_kept, State.opCommit_kept, State.opAbandon_kept, State.plainWrite_kept, State.genWrite_kept, Kept.upd, Kept.ite, Kept.foldl, Kept.foldl1, implies_true, *] | split | with_reducible apply Kept.foldl | with_reducible apply Kept.foldl1 | (intro _; intros) | with_reducible apply State.asWrite_kept | with_reducible apply State.asStager_kept)
theorem State.tbOp_kept {s₀ : State} {s : State} (who : Requester) (t : Nat) (c : Word) (h_s : s₀.Kept s) :
    s₀.Kept (State.tbOp s who t c) := by
  unfold State.tbOp
  repeat' (first | done | simp +contextual (maxDischargeDepth := 99) only [State.opAdjust_kept, State.opSet_kept, State.armOvr_kept, Kept.upd, Kept.ite, Kept.foldl, Kept.foldl1, implies_true, *] | split | with_reducible apply Kept.foldl | with_reducible apply Kept.foldl1 | (intro _; intros))
theorem State.steerWrite_kept {s₀ : State} {s : State} (who : Requester) (off : Nat) (t : Nat) (m : Nat) (v : Word) (h_s : s₀.Kept s) :
    s₀.Kept (State.steerWrite s who off t m v) := by
  unfold State.steerWrite
  repeat' (first | done | simp +contextual (maxDischargeDepth := 99) only [State.asSteer_kept, State.incrLo_kept, State.incrHi_kept, State.plainWrite_kept, State.tbOp_kept, Kept.upd, Kept.ite, Kept.foldl, Kept.foldl1, implies_true, *] | split | with_reducible apply Kept.foldl | with_reducible apply Kept.foldl1 | (intro _; intros) | with_reducible apply State.asSteer_kept)
theorem State.cmpWrite_kept {s₀ : State} {s : State} (who : Requester) (off : Nat) (k : Nat) (m : Nat) (v : Word) (h_s : s₀.Kept s) :
    s₀.Kept (State.cmpWrite s who off k m v) := by
  unfold State.cmpWrite
  repeat' (first | done | simp +contextual (maxDischargeDepth := 99) only [State.asOwner_kept, State.cmpArm_kept, State.cmpDisarm_kept, State.plainWrite_kept, Kept.upd, Kept.ite, Kept.foldl, Kept.foldl1, implies_true, *] | split | with_reducible apply Kept.foldl | with_reducible apply Kept.foldl1 | (intro _; intros) | with_reducible apply State.asOwner_kept)
theorem State.tbWrite_kept {s₀ : State} {s : State} (who : Requester) (off : Nat) (m : Nat) (v : Word) (h_s : s₀.Kept s) :
    s₀.Kept (State.tbWrite s who off m v) := by
  unfold State.tbWrite
  repeat' (first | done | simp +contextual (maxDischargeDepth := 99) only [State.asWrite_kept, State.asOwner_kept, State.captPop_kept, State.xcap_kept, State.genWrite_kept, State.steerWrite_kept, State.cmpWrite_kept, Kept.upd, Kept.ite, Kept.foldl, Kept.foldl1, implies_true, *] | split | with_reducible apply Kept.foldl | with_reducible apply Kept.foldl1 | (intro _; intros) | with_reducible apply State.asWrite_kept | with_reducible apply State.asOwner_kept)
theorem State.syncWrite_kept {s₀ : State} {s : State} (who : Requester) (off : Nat) (m : Nat) (v : Word) (h_s : s₀.Kept s) :
    s₀.Kept (State.syncWrite s who off m v) := by
  unfold State.syncWrite
  repeat' (first | done | simp +contextual (maxDischargeDepth := 99) only [State.signal_kept, State.arm_kept, State.syncClear_kept, State.asWrite_kept, State.syncDenied_kept, State.asSync_kept, State.genWrite_kept, Kept.upd, Kept.ite, Kept.foldl, Kept.foldl1, implies_true, *] | split | with_reducible apply Kept.foldl | with_reducible apply Kept.foldl1 | (intro _; intros) | with_reducible apply State.asWrite_kept | with_reducible apply State.asSync_kept)
theorem State.ledgWrite_kept {s₀ : State} {s : State} (who : Requester) (off : Nat) (m : Nat) (v : Word) (h_s : s₀.Kept s) :
    s₀.Kept (State.ledgWrite s who off m v) := by
  unfold State.ledgWrite
  repeat' (first | done | simp +contextual (maxDischargeDepth := 99) only [State.plainWrite_kept, State.genWrite_kept, State.ifHeard_kept, Kept.upd, Kept.ite, Kept.foldl, Kept.foldl1, implies_true, *] | split | with_reducible apply Kept.foldl | with_reducible apply Kept.foldl1 | (intro _; intros) | with_reducible apply State.ifHeard_kept)
theorem State.pwrCtl_kept {s₀ : State} {s : State} (c : Word) (h_s : s₀.Kept s) :
    s₀.Kept (State.pwrCtl s c) := by
  unfold State.pwrCtl
  repeat' (first | done | simp +contextual (maxDischargeDepth := 99) only [State.fullRestart_kept, State.opStat_kept, State.stbyEnter_kept, State.stbyExit_kept, Kept.upd, Kept.ite, Kept.foldl, Kept.foldl1, implies_true, *] | split | with_reducible apply Kept.foldl | with_reducible apply Kept.foldl1 | (intro _; intros))
theorem State.pwrWrite_kept {s₀ : State} {s : State} (who : Requester) (off : Nat) (m : Nat) (v : Word) (h_s : s₀.Kept s) :
    s₀.Kept (State.pwrWrite s who off m v) := by
  unfold State.pwrWrite
  repeat' (first | done | simp +contextual (maxDischargeDepth := 99) only [State.sf_kept, State.vreqWrite_kept, State.domReqWrite_kept, State.confirm_kept, State.genWrite_kept, State.ifHeard_kept, State.pwrCtl_kept, Kept.upd, Kept.ite, Kept.foldl, Kept.foldl1, implies_true, *] | split | with_reducible apply Kept.foldl | with_reducible apply Kept.foldl1 | (intro _; intros) | with_reducible apply State.ifHeard_kept)
theorem State.secWrite_kept {s₀ : State} {s : State} (who : Requester) (off : Nat) (m : Nat) (v : Word) (h_s : s₀.Kept s) :
    s₀.Kept (State.secWrite s who off m v) := by
  unfold State.secWrite
  repeat' (first | done | simp +contextual (maxDischargeDepth := 99) only [State.put_kept, State.mbCmd_kept, State.genWrite_kept, Kept.upd, Kept.ite, Kept.foldl, Kept.foldl1, implies_true, *] | split | with_reducible apply Kept.foldl | with_reducible apply Kept.foldl1 | (intro _; intros))
theorem State.relWrite_kept {s₀ : State} {s : State} (who : Requester) (off : Nat) (m : Nat) (v : Word) (h_s : s₀.Kept s) :
    s₀.Kept (State.relWrite s who off m v) := by
  unfold State.relWrite
  split
  · refine State.ifHeard_kept _ _ (fun t ht => ?_) h_s
    dsimp only
    refine State.fwCtl_kept _ _ _ _ _ ?_
    split
    · exact State.draw_kept (State.draw_kept ht)
    · exact ht
  · split
    · exact State.ifHeard_kept _ _ (fun t ht => State.plainWrite_kept _ _ _ ht) h_s
    · exact State.genWrite_kept _ _ _ _ h_s
theorem State.hifWrite_kept {s₀ : State} {s : State} (who : Requester) (off : Nat) (m : Nat) (v : Word) (h_s : s₀.Kept s) :
    s₀.Kept (State.hifWrite s who off m v) := by
  unfold State.hifWrite
  repeat' (first | done | simp +contextual (maxDischargeDepth := 99) only [State.ringCfg_kept, State.ringBase_kept, State.headWrite_kept, State.sqTail_kept, State.ptxTail_kept, State.genWrite_kept, Kept.upd, Kept.ite, Kept.foldl, Kept.foldl1, implies_true, *] | split | with_reducible apply Kept.foldl | with_reducible apply Kept.foldl1 | (intro _; intros))
theorem State.unitWrite_kept {s₀ : State} {s : State} (who : Requester) (off : Nat) (m : Nat) (v : Word) (h_s : s₀.Kept s) :
    s₀.Kept (State.unitWrite s who off m v) := by
  unfold State.unitWrite
  repeat' (first | done | simp +contextual (maxDischargeDepth := 99) only [State.takeMask_kept, State.releaseMask_kept, State.reacq_kept, State.tblLoad_kept, State.crcCmd_kept, State.postTail_kept, State.retrain_kept, State.genWrite_kept, Kept.upd, Kept.ite, Kept.foldl, Kept.foldl1, implies_true, *] | split | with_reducible apply Kept.foldl | with_reducible apply Kept.foldl1 | (intro _; intros))
theorem State.tcWrite_kept {s₀ : State} {s : State} (who : Requester) (off : Nat) (c : Nat) (m : Nat) (v : Word) (h_s : s₀.Kept s) :
    s₀.Kept (State.tcWrite s who off c m v) := by
  unfold State.tcWrite
  repeat' (first | done | simp +contextual (maxDischargeDepth := 99) only [State.cringHead_kept, State.genWrite_kept, Kept.upd, Kept.ite, Kept.foldl, Kept.foldl1, implies_true, *] | split | with_reducible apply Kept.foldl | with_reducible apply Kept.foldl1 | (intro _; intros))
theorem State.ibcWrite_kept {s₀ : State} {s : State} (who : Requester) (off : Nat) (n : Nat) (m : Nat) (v : Word) (h_s : s₀.Kept s) :
    s₀.Kept (State.ibcWrite s who off n m v) := by
  unfold State.ibcWrite
  repeat' (first | done | simp +contextual (maxDischargeDepth := 99) only [State.ibRun_kept, State.ibStop_kept, State.irqSet_kept, State.mbox_kept, State.rwlWrite_kept, State.genWrite_kept, Kept.upd, Kept.ite, Kept.foldl, Kept.foldl1, implies_true, *] | split | with_reducible apply Kept.foldl | with_reducible apply Kept.foldl1 | (intro _; intros))
theorem State.dbgIbOp_kept {s₀ : State} {s : State} (n : Nat) (op : Nat) (h_s : s₀.Kept s) :
    s₀.Kept (State.dbgIbOp s n op).1 := by
  unfold State.dbgIbOp
  repeat' (first | done | simp +contextual (maxDischargeDepth := 99) only [State.dbgIbHalt_kept, State.dbgIbStep_kept, State.dbgIbResume_kept, Kept.upd, Kept.ite, Kept.foldl, Kept.foldl1, implies_true, *] | split | with_reducible apply Kept.foldl | with_reducible apply Kept.foldl1 | (intro _; intros))
theorem State.dbgTcOp_kept {s₀ : State} {s : State} (c : Nat) (sl : Slot) (op : Nat) (h_s : s₀.Kept s) :
    s₀.Kept (State.dbgTcOp s c sl op).1 := by
  unfold State.dbgTcOp
  repeat' (first | done | simp +contextual (maxDischargeDepth := 99) only [State.dbgTcHalt_kept, State.dbgTcStep_kept, State.dbgTcResume_kept, Kept.upd, Kept.ite, Kept.foldl, Kept.foldl1, implies_true, *] | split | with_reducible apply Kept.foldl | with_reducible apply Kept.foldl1 | (intro _; intros))
theorem State.dbgIbWrite_kept {s₀ : State} {s : State} (n : Nat) (off : Nat) (v : Word) (h_s : s₀.Kept s) :
    s₀.Kept (State.dbgIbWrite s n off v).1 := by
  unfold State.dbgIbWrite
  repeat' (first | done | simp +contextual (maxDischargeDepth := 99) only [State.setIbc_kept, State.plainWrite_kept, State.dbgIbOp_kept, Kept.upd, Kept.ite, Kept.foldl, Kept.foldl1, implies_true, *] | split | with_reducible apply Kept.foldl | with_reducible apply Kept.foldl1 | (intro _; intros))
theorem State.dbgTcWrite_kept {s₀ : State} {s : State} (c : Nat) (off : Nat) (v : Word) (h_s : s₀.Kept s) :
    s₀.Kept (State.dbgTcWrite s c off v).1 := by
  unfold State.dbgTcWrite
  repeat' (first | done | simp +contextual (maxDischargeDepth := 99) only [State.plainWrite_kept, State.dbgTcOp_kept, Kept.upd, Kept.ite, Kept.foldl, Kept.foldl1, implies_true, *] | split | with_reducible apply Kept.foldl | with_reducible apply Kept.foldl1 | (intro _; intros))
theorem State.dbgWrite_kept {s₀ : State} {s : State} (who : Requester) (off : Nat) (v : Word) (h_s : s₀.Kept s) :
    s₀.Kept (State.dbgWrite s who off v).1 := by
  unfold State.dbgWrite
  repeat' (first | done | simp +contextual (maxDischargeDepth := 99) only [State.plainWrite_kept, State.dbgIbWrite_kept, State.dbgTcWrite_kept, Kept.upd, Kept.ite, Kept.foldl, Kept.foldl1, implies_true, *] | split | with_reducible apply Kept.foldl | with_reducible apply Kept.foldl1 | (intro _; intros))
theorem State.busWrite_kept {s₀ : State} {s : State} (who : Requester) (off : Nat) (m : Nat) (v : Word) (h_s : s₀.Kept s) :
    s₀.Kept (State.busWrite s who off m v) := by
  unfold State.busWrite
  split
  · exact State.cntWrite_kept _ _ _ _ _ _ h_s
  · dsimp only
    refine Kept.ite (State.stgWrite_kept _ _ _ _ h_s) (Kept.ite (State.tbWrite_kept _ _ _ _ h_s)
      (Kept.ite (State.syncWrite_kept _ _ _ _ h_s) (State.asWrite_kept _ _ _ (fun t ht => ?_) h_s)))
    refine Kept.ite ht (Kept.ite (State.ldgWrite_kept _ _ _ _ ht) (Kept.ite (State.ledgWrite_kept _ _ _ _ ht)
      (Kept.ite (State.pwrWrite_kept _ _ _ _ ht) (Kept.ite (State.secWrite_kept _ _ _ _ ht) (Kept.ite (State.relWrite_kept _ _ _ _ ht)
      (Kept.ite (State.hifWrite_kept _ _ _ _ ht) (Kept.ite (State.dbgWrite_kept _ _ _ ht) (Kept.ite (State.unitWrite_kept _ _ _ _ ht)
      (Kept.ite (State.tcWrite_kept _ _ _ _ _ ht) (State.ibcWrite_kept _ _ _ _ _ ht))))))))))
theorem execRegisterWrite_kept {s₀ : State} (who : Requester) (off : BitVec 24) (be : BitVec 4) (v : Word) {s : State} (h_s : s₀.Kept s) :
    Fine s₀ False (execRegisterWrite who off be v s) := by
  unfold execRegisterWrite
  repeat' (first | done | simp +contextual (maxDischargeDepth := 99) only [accEnd_kept, State.dbgWrite_kept, State.busWrite_kept, Kept.upd, Kept.ite, Kept.foldl, Kept.foldl1, implies_true, Fine.ite, Fine.next, Fine.guard, *] | split | with_reducible apply Kept.foldl | with_reducible apply Kept.foldl1 | (intro _; intros) | with_reducible apply Fine.next | with_reducible apply Fine.guard)

end Sys2Proof.Machine
end

