-- ==== Sys2Proof/Laws/KeptBoot.lean ====
section
/-! SUPPORT. What every operation keeps, the queue and the canonical form of the tables: the ports and the start. One lemma for
each operation. -/
namespace Sys2Proof.Machine
open Sys2Proof
set_option linter.unusedSimpArgs false
set_option linter.unusedVariables false

theorem execCreg_kept {s₀ : State} (n : Fin 18) (w : Word) (mv : Word) {s : State} (h_s : s₀.Kept s) :
    Fine s₀ ((iOp w == 0x12) = false) (execCreg n w mv s) := by
  unfold execCreg
  repeat' (first | done | simp +contextual (maxDischargeDepth := 99) only [State.wr_kept, State.setIbc_kept, State.ibTrap_kept, State.ibSet_kept, ibRow_kept, State.busRead_kept, State.busWrite_kept, Kept.upd, Kept.ite, Kept.foldl, Kept.foldl1, implies_true, Fine.ite, Fine.next, Fine.guard, *] | split | with_reducible apply Kept.foldl | with_reducible apply Kept.foldl1 | (intro _; intros) | with_reducible apply ibRow_kept | with_reducible apply Fine.next | with_reducible apply Fine.guard)
theorem execCregReadLand_kept {s₀ : State} (n : Fin 18) {s : State} (h_s : s₀.Kept s) :
    Fine s₀ False (execCregReadLand n s) := by
  unfold execCregReadLand
  repeat' (first | done | simp +contextual (maxDischargeDepth := 99) only [State.setIbc_kept, Kept.upd, Kept.ite, Kept.foldl, Kept.foldl1, implies_true, Fine.ite, Fine.next, Fine.guard, *] | split | with_reducible apply Kept.foldl | with_reducible apply Kept.foldl1 | (intro _; intros) | with_reducible apply Fine.next | with_reducible apply Fine.guard)
theorem execRegRead_kept {s₀ : State} (pec : Bool) (off : Word) {s : State} (h_s : s₀.Kept s) :
    Fine s₀ False (execRegRead pec off s) := by
  unfold execRegRead
  repeat' (first | done | simp +contextual (maxDischargeDepth := 99) only [State.returns_kept, State.smbAnswer_kept, smbRow_kept, State.busRead_kept, Kept.upd, Kept.ite, Kept.foldl, Kept.foldl1, implies_true, Fine.ite, Fine.next, Fine.guard, *] | split | with_reducible apply Kept.foldl | with_reducible apply Kept.foldl1 | (intro _; intros) | with_reducible apply smbRow_kept | with_reducible apply Fine.next | with_reducible apply Fine.guard)
theorem execRegWrite_kept {s₀ : State} (pec : Bool) (off : Word) (v : Word) {s : State} (h_s : s₀.Kept s) :
    Fine s₀ False (execRegWrite pec off v s) := by
  unfold execRegWrite
  repeat' (first | done | simp +contextual (maxDischargeDepth := 99) only [State.smbAnswer_kept, smbRow_kept, State.busWrite_kept, Kept.upd, Kept.ite, Kept.foldl, Kept.foldl1, implies_true, Fine.ite, Fine.next, Fine.guard, *] | split | with_reducible apply Kept.foldl | with_reducible apply Kept.foldl1 | (intro _; intros) | with_reducible apply smbRow_kept | with_reducible apply Fine.next | with_reducible apply Fine.guard)
theorem State.dbgEnd_kept {s₀ : State} {s : State} (a : Nat) (data : Word) (st : Nat) (h_s : s₀.Kept s) :
    s₀.Kept (State.dbgEnd s a data st) := by
  unfold State.dbgEnd
  repeat' (first | done | simp +contextual (maxDischargeDepth := 99) only [accEnd_kept, Kept.upd, Kept.ite, Kept.foldl, Kept.foldl1, implies_true, *] | split | with_reducible apply Kept.foldl | with_reducible apply Kept.foldl1 | (intro _; intros))
theorem State.dbgRead_kept {s₀ : State} {s : State} (a : Nat) (aligned : Bool) (h_s : s₀.Kept s) :
    s₀.Kept (State.dbgRead s a aligned) := by
  unfold State.dbgRead
  repeat' (first | done | simp +contextual (maxDischargeDepth := 99) only [State.getBytes_kept, State.returns_kept, State.busRead_kept, State.dbgEnd_kept, Kept.upd, Kept.ite, Kept.foldl, Kept.foldl1, implies_true, *] | split | with_reducible apply Kept.foldl | with_reducible apply Kept.foldl1 | (intro _; intros))
theorem State.dbgStore_kept {s₀ : State} {s : State} (a : Nat) (v : Word) (h_s : s₀.Kept s) :
    s₀.Kept (State.dbgStore s a v) := by
  unfold State.dbgStore
  repeat' (first | done | simp +contextual (maxDischargeDepth := 99) only [State.put_kept, State.dbgWrite_kept, State.busWrite_kept, State.dbgEnd_kept, Kept.upd, Kept.ite, Kept.foldl, Kept.foldl1, implies_true, *] | split | with_reducible apply Kept.foldl | with_reducible apply Kept.foldl1 | (intro _; intros))
theorem execDbgaccRead_kept {s₀ : State} (a : BitVec 48) {s : State} (h_s : s₀.Kept s) :
    Fine s₀ False (execDbgaccRead a s) := by
  unfold execDbgaccRead
  repeat' (first | done | simp +contextual (maxDischargeDepth := 99) only [State.dbgRead_kept, Kept.upd, Kept.ite, Kept.foldl, Kept.foldl1, implies_true, Fine.ite, Fine.next, Fine.guard, *] | split | with_reducible apply Kept.foldl | with_reducible apply Kept.foldl1 | (intro _; intros) | with_reducible apply Fine.next | with_reducible apply Fine.guard)
theorem execDbgaccWrite_kept {s₀ : State} (a : BitVec 48) (v : Word) {s : State} (h_s : s₀.Kept s) :
    Fine s₀ False (execDbgaccWrite a v s) := by
  unfold execDbgaccWrite
  repeat' (first | done | simp +contextual (maxDischargeDepth := 99) only [State.dbgStore_kept, Kept.upd, Kept.ite, Kept.foldl, Kept.foldl1, implies_true, Fine.ite, Fine.next, Fine.guard, *] | split | with_reducible apply Kept.foldl | with_reducible apply Kept.foldl1 | (intro _; intros) | with_reducible apply Fine.next | with_reducible apply Fine.guard)
theorem execDbgaccReadNext_kept {s₀ : State} {s : State} (h_s : s₀.Kept s) :
    Fine s₀ False (execDbgaccReadNext s) := by
  unfold execDbgaccReadNext
  repeat' (first | done | simp +contextual (maxDischargeDepth := 99) only [State.dbgRead_kept, Kept.upd, Kept.ite, Kept.foldl, Kept.foldl1, implies_true, Fine.ite, Fine.next, Fine.guard, *] | split | with_reducible apply Kept.foldl | with_reducible apply Kept.foldl1 | (intro _; intros) | with_reducible apply Fine.next | with_reducible apply Fine.guard)
theorem State.scan_kept {s₀ : State} {s : State} (ir : Nat) (bits : List Bool) (h_s : s₀.Kept s) :
    s₀.Kept (State.scan s ir bits) := by
  unfold State.scan
  repeat' (first | done | simp +contextual (maxDischargeDepth := 99) only [State.setFlag_kept, Kept.upd, Kept.ite, Kept.foldl, Kept.foldl1, implies_true, *] | split | with_reducible apply Kept.foldl | with_reducible apply Kept.foldl1 | (intro _; intros))
theorem execTapReset_kept {s₀ : State} {s : State} (h_s : s₀.Kept s) :
    Fine s₀ False (execTapReset s) := by
  unfold execTapReset
  repeat' (first | done | simp +contextual (maxDischargeDepth := 99) only [Kept.upd, Kept.ite, Kept.foldl, Kept.foldl1, implies_true, Fine.ite, Fine.next, Fine.guard, *] | split | with_reducible apply Kept.foldl | with_reducible apply Kept.foldl1 | (intro _; intros) | with_reducible apply Fine.next | with_reducible apply Fine.guard)
theorem execExtest_kept {s₀ : State} (bits : List Bool) {s : State} (h_s : s₀.Kept s) :
    Fine s₀ False (execExtest bits s) := by
  unfold execExtest
  repeat' (first | done | simp +contextual (maxDischargeDepth := 99) only [State.scan_kept, Kept.upd, Kept.ite, Kept.foldl, Kept.foldl1, implies_true, Fine.ite, Fine.next, Fine.guard, *] | split | with_reducible apply Kept.foldl | with_reducible apply Kept.foldl1 | (intro _; intros) | with_reducible apply Fine.next | with_reducible apply Fine.guard)
theorem execSamplePreload_kept {s₀ : State} (bits : List Bool) {s : State} (h_s : s₀.Kept s) :
    Fine s₀ False (execSamplePreload bits s) := by
  unfold execSamplePreload
  repeat' (first | done | simp +contextual (maxDischargeDepth := 99) only [Kept.upd, Kept.ite, Kept.foldl, Kept.foldl1, implies_true, Fine.ite, Fine.next, Fine.guard, *] | split | with_reducible apply Kept.foldl | with_reducible apply Kept.foldl1 | (intro _; intros) | with_reducible apply Fine.next | with_reducible apply Fine.guard)
theorem execIdcode_kept {s₀ : State} {s : State} (h_s : s₀.Kept s) :
    Fine s₀ False (execIdcode s) := by
  unfold execIdcode
  repeat' (first | done | simp +contextual (maxDischargeDepth := 99) only [Kept.upd, Kept.ite, Kept.foldl, Kept.foldl1, implies_true, Fine.ite, Fine.next, Fine.guard, *] | split | with_reducible apply Kept.foldl | with_reducible apply Kept.foldl1 | (intro _; intros) | with_reducible apply Fine.next | with_reducible apply Fine.guard)
theorem execClamp_kept {s₀ : State} {s : State} (h_s : s₀.Kept s) :
    Fine s₀ False (execClamp s) := by
  unfold execClamp
  repeat' (first | done | simp +contextual (maxDischargeDepth := 99) only [State.scan_kept, Kept.upd, Kept.ite, Kept.foldl, Kept.foldl1, implies_true, Fine.ite, Fine.next, Fine.guard, *] | split | with_reducible apply Kept.foldl | with_reducible apply Kept.foldl1 | (intro _; intros) | with_reducible apply Fine.next | with_reducible apply Fine.guard)
theorem execHighz_kept {s₀ : State} {s : State} (h_s : s₀.Kept s) :
    Fine s₀ False (execHighz s) := by
  unfold execHighz
  repeat' (first | done | simp +contextual (maxDischargeDepth := 99) only [State.scan_kept, Kept.upd, Kept.ite, Kept.foldl, Kept.foldl1, implies_true, Fine.ite, Fine.next, Fine.guard, *] | split | with_reducible apply Kept.foldl | with_reducible apply Kept.foldl1 | (intro _; intros) | with_reducible apply Fine.next | with_reducible apply Fine.guard)
theorem execBypass_kept {s₀ : State} {s : State} (h_s : s₀.Kept s) :
    Fine s₀ False (execBypass s) := by
  unfold execBypass
  repeat' (first | done | simp +contextual (maxDischargeDepth := 99) only [Kept.upd, Kept.ite, Kept.foldl, Kept.foldl1, implies_true, Fine.ite, Fine.next, Fine.guard, *] | split | with_reducible apply Kept.foldl | with_reducible apply Kept.foldl1 | (intro _; intros) | with_reducible apply Fine.next | with_reducible apply Fine.guard)
theorem State.trySlot_kept {s₀ : State} {s : State} (x : StartIn) (d : Dir) (b : Nat) (h_s : s₀.Kept s) :
    s₀.Kept (State.trySlot s x d b).1 := by
  unfold State.trySlot
  repeat' (first | done | simp +contextual (maxDischargeDepth := 99) only [State.setFlagIf_kept, Kept.upd, Kept.ite, Kept.foldl, Kept.foldl1, implies_true, *] | split | with_reducible apply Kept.foldl | with_reducible apply Kept.foldl1 | (intro _; intros))
theorem State.noImage_kept {s₀ : State} {s : State} (st : Nat) (h_s : s₀.Kept s) :
    s₀.Kept (State.noImage s st) := by
  unfold State.noImage
  repeat' (first | done | simp +contextual (maxDischargeDepth := 99) only [State.sf_kept, State.setFlagIf_kept, State.switchDom_kept, State.powerOff_kept, State.bootGo_kept, Kept.upd, Kept.ite, Kept.foldl, Kept.foldl1, implies_true, *] | split | with_reducible apply Kept.foldl | with_reducible apply Kept.foldl1 | (intro _; intros))
theorem State.placeSect_kept {s₀ : State} {s : State} (a : Nat) (e : Sect) (h_s : s₀.Kept s) :
    s₀.Kept (State.placeSect s a e) := by
  unfold State.placeSect
  repeat' (first | done | simp +contextual (maxDischargeDepth := 99) only [State.wrLE_kept, State.clearPoison_kept, State.put_kept, Kept.upd, Kept.ite, Kept.foldl, Kept.foldl1, implies_true, *] | split | with_reducible apply Kept.foldl | with_reducible apply Kept.foldl1 | (intro _; intros))
theorem State.dirTaken_kept {s₀ : State} {s : State} (h_s : s₀.Kept s) :
    s₀.Kept (State.dirTaken s) := by
  unfold State.dirTaken
  repeat' (first | done | simp +contextual (maxDischargeDepth := 99) only [State.dirWrite_kept, Kept.upd, Kept.ite, Kept.foldl, Kept.foldl1, implies_true, *] | split | with_reducible apply Kept.foldl | with_reducible apply Kept.foldl1 | (intro _; intros))
theorem State.service_kept {s₀ : State} {s : State} (h_s : s₀.Kept s) :
    s₀.Kept (State.service s) := by
  unfold State.service
  repeat' (first | done | simp +contextual (maxDischargeDepth := 99) only [State.sf_kept, State.setFlagIf_kept, State.powerNeeded_kept, State.bootGo_kept, State.placeSect_kept, State.dirTaken_kept, Kept.upd, Kept.ite, Kept.foldl, Kept.foldl1, implies_true, *] | split | with_reducible apply Kept.foldl | with_reducible apply Kept.foldl1 | (intro _; intros))
theorem State.tierFail_kept {s₀ : State} {s : State} (h_s : s₀.Kept s) :
    s₀.Kept (State.tierFail s) := by
  unfold State.tierFail
  repeat' (first | done | simp +contextual (maxDischargeDepth := 99) only [State.wr_kept, State.sf_kept, State.setFlag_kept, Kept.upd, Kept.ite, Kept.foldl, Kept.foldl1, implies_true, *] | split | with_reducible apply Kept.foldl | with_reducible apply Kept.foldl1 | (intro _; intros))
theorem execTierTrained_kept {s₀ : State} (ok : Bool) {s : State} (h_s : s₀.Kept s) :
    Fine s₀ False (execTierTrained ok s) := by
  unfold execTierTrained
  split
  · exact Fine.next h_s
  · have h1 : s₀.Kept { s with tags := [], trained := some ok } :=
      ⟨h_s.pending, fun x => let c := h_s.canon x; ⟨c.regs, c.mem, c.host, c.flash, c.poison, rfl⟩⟩
    generalize ({ s with tags := [], trained := some ok } : State) = u at h1
    refine Fine.next ?_
    repeat' (first | done | simp +contextual (maxDischargeDepth := 99) only [State.service_kept, State.tierFail_kept, Fine.next, Kept.upd, Kept.ite, Kept.foldl, Kept.foldl1, implies_true, *] | split)
theorem State.imageRegs_kept {s₀ : State} {s : State} (a : Nat) (h_s : s₀.Kept s) :
    s₀.Kept (State.imageRegs s a) := by
  unfold State.imageRegs
  repeat' (first | done | simp +contextual (maxDischargeDepth := 99) only [State.wr_kept, State.take_kept, State.setLink_kept, State.tierFail_kept, Kept.upd, Kept.ite, Kept.foldl, Kept.foldl1, implies_true, *] | split | with_reducible apply Kept.foldl | with_reducible apply Kept.foldl1 | (intro _; intros))
theorem State.raiseSvn_kept {s₀ : State} {s : State} (a : Nat) (h_s : s₀.Kept s) :
    s₀.Kept (State.raiseSvn s a) := by
  unfold State.raiseSvn
  repeat' (first | done | simp +contextual (maxDischargeDepth := 99) only [State.sf_kept, State.draw_kept, Kept.upd, Kept.ite, Kept.foldl, Kept.foldl1, implies_true, *] | split | with_reducible apply Kept.foldl | with_reducible apply Kept.foldl1 | (intro _; intros))
theorem State.selfTest_kept {s₀ : State} {s : State} (bad : List RelUnit) (h_s : s₀.Kept s) :
    s₀.Kept (State.selfTest s bad) := by
  unfold State.selfTest
  repeat' (first | done | simp +contextual (maxDischargeDepth := 99) only [State.draw_kept, State.relLasting_kept, State.remap_kept, Kept.upd, Kept.ite, Kept.foldl, Kept.foldl1, implies_true, *] | split | with_reducible apply Kept.foldl | with_reducible apply Kept.foldl1 | (intro _; intros))
theorem State.prepare_kept {s₀ : State} {s : State} (a : Nat) (x : StartIn) (h_s : s₀.Kept s) :
    s₀.Kept (State.prepare s a x) := by
  unfold State.prepare
  repeat' (first | done | simp +contextual (maxDischargeDepth := 99) only [State.powerNeeded_kept, State.wearStart_kept, State.imageRegs_kept, State.raiseSvn_kept, State.selfTest_kept, Kept.upd, Kept.ite, Kept.foldl, Kept.foldl1, implies_true, *] | split | with_reducible apply Kept.foldl | with_reducible apply Kept.foldl1 | (intro _; intros))
theorem State.configure_kept {s₀ : State} {s : State} (a : Nat) (h_s : s₀.Kept s) :
    s₀.Kept (State.configure s a).1 := by
  unfold State.configure
  repeat' (first | done | simp +contextual (maxDischargeDepth := 99) only [State.stgCheck_kept, State.applyCommit_kept, State.opBegin_kept, State.rwlWrite_kept, State.busWrite_kept, Kept.upd, Kept.ite, Kept.foldl, Kept.foldl1, implies_true, *] | split | with_reducible apply Kept.foldl | with_reducible apply Kept.foldl1 | (intro _; intros))
theorem State.startFails_kept {s₀ : State} {s : State} (st : Nat) (h_s : s₀.Kept s) :
    s₀.Kept (State.startFails s st) := by
  unfold State.startFails
  repeat' (first | done | simp +contextual (maxDischargeDepth := 99) only [State.sf_kept, State.fullRestart_kept, State.noImage_kept, Kept.upd, Kept.ite, Kept.foldl, Kept.foldl1, implies_true, *] | split | with_reducible apply Kept.foldl | with_reducible apply Kept.foldl1 | (intro _; intros))
theorem State.startImage_kept {s₀ : State} {s : State} (x : StartIn) (d : Dir) (b : Nat) (fallback : Bool) (abandoned : Bool) (trial : Bool) (h_s : s₀.Kept s) :
    s₀.Kept (State.startImage s x d b fallback abandoned trial) := by
  unfold State.startImage
  repeat' (first | done | simp +contextual (maxDischargeDepth := 99) only [State.sf_kept, State.dirWrite_kept, State.service_kept, State.prepare_kept, State.configure_kept, State.startFails_kept, Kept.upd, Kept.ite, Kept.foldl, Kept.foldl1, implies_true, *] | split | with_reducible apply Kept.foldl | with_reducible apply Kept.foldl1 | (intro _; intros))
theorem State.startSlots_kept {s₀ : State} {s : State} (x : StartIn) (d : Dir) (h_s : s₀.Kept s) :
    s₀.Kept (State.startSlots s x d) := by
  unfold State.startSlots
  repeat' (first | done | simp +contextual (maxDischargeDepth := 99) only [State.setFlag_kept, State.setFlagIf_kept, State.trySlot_kept, State.noImage_kept, State.startImage_kept, Kept.upd, Kept.ite, Kept.foldl, Kept.foldl1, implies_true, *] | split | with_reducible apply Kept.foldl | with_reducible apply Kept.foldl1 | (intro _; intros))
theorem State.startPower_kept {s₀ : State} {s : State} (x : StartIn) (h_s : s₀.Kept s) :
    s₀.Kept (State.startPower s x) := by
  unfold State.startPower
  repeat' (first | done | simp +contextual (maxDischargeDepth := 99) only [State.wr_kept, State.sf_kept, State.switchDom_kept, Kept.upd, Kept.ite, Kept.foldl, Kept.foldl1, implies_true, *] | split | with_reducible apply Kept.foldl | with_reducible apply Kept.foldl1 | (intro _; intros))
theorem execStartUp_kept {s₀ : State} (x : StartIn) {s : State} (h_s : s₀.Kept s) :
    Fine s₀ False (execStartUp x s) := by
  unfold execStartUp
  repeat' (first | done | simp +contextual (maxDischargeDepth := 99) only [State.sf_kept, State.draw_kept, State.noImage_kept, State.startSlots_kept, State.startPower_kept, Kept.upd, Kept.ite, Kept.foldl, Kept.foldl1, implies_true, Fine.ite, Fine.next, Fine.guard, *] | split | with_reducible apply Kept.foldl | with_reducible apply Kept.foldl1 | (intro _; intros) | with_reducible apply Fine.next | with_reducible apply Fine.guard)

end Sys2Proof.Machine
end

