-- ==== Sys2Proof/Laws/Notes.lean ====
section
/-! SUPPORT. Registers after a write, and what flags and counters leave alone. -/
namespace Sys2Proof.Machine
open Sys2Proof

theorem State.rr_wr (s : State) (a : Nat) (v : Word) (b : Nat) : (s.wr a v).rr b = if b = a then v else s.rr b :=
  tget_tput _ _ _ _ _
@[simp] theorem State.rr_wr_same (s : State) (a : Nat) (v : Word) : (s.wr a v).rr a = v := by simp [State.rr_wr]
theorem State.rr_wr_other (s : State) (a : Nat) (v : Word) (b : Nat) (h : b ≠ a) : (s.wr a v).rr b = s.rr b := by
  simp [State.rr_wr, h]
@[simp] theorem State.rr_sf_same (s : State) (a : Nat) (f : Fld) (v : Nat) : (s.sf a f v).rr a = setF (s.rr a) f v := by
  simp [State.sf]
theorem State.rr_sf (s : State) (a : Nat) (f : Fld) (v : Nat) (b : Nat) :
    (s.sf a f v).rr b = if b = a then setF (s.rr a) f v else s.rr b := State.rr_wr _ _ _ _

namespace State.Notes

theorem refl (s : State) : s.Notes s := ⟨rfl, fun _ _ => rfl⟩

theorem trans {s t u : State} (h : s.Notes t) (k : t.Notes u) : s.Notes u :=
  ⟨by rw [k.rest]; rw [h.rest], fun a ha => (k.regs a ha).trans (h.regs a ha)⟩

theorem wr (s : State) (a : Nat) (v : Word) (h : noteReg a = true) : s.Notes (s.wr a v) :=
  ⟨rfl, fun b hb => State.rr_wr_other s a v b fun e => by simp [e, h] at hb⟩

theorem msg (s : State) (fn vec : Nat) : s.Notes (s.msg fn vec) := by
  unfold State.msg
  split
  · exact refl s
  · exact ⟨rfl, fun _ _ => rfl⟩

/-- An update of other fields commutes with flags and counters. -/
theorem map {s t : State} (g : State → State) (h : s.Notes t)
    (hg : ∀ (u : State) (r : Tbl Word) (m : List (Nat × Nat)), g { u with regs := r, msgs := m } = { g u with regs := r, msgs := m })
    (hr : ∀ u : State, (g u).regs = u.regs) : (g s).Notes (g t) := by
  refine ⟨?_, fun a ha => ?_⟩
  · rw [hr t]
    conv => lhs; rw [h.rest]
    rw [hg s t.regs t.msgs]
    have hm : (g t).msgs = t.msgs := by rw [h.rest, hg]
    rw [hm]
  · unfold State.rr; rw [hr, hr]; exact h.regs a ha

theorem ite {s t u : State} {c : Prop} [Decidable c] (h : s.Notes t) (k : s.Notes u) : s.Notes (if c then t else u) := by
  split <;> assumption

theorem foldl {α : Type} {s t : State} {f : State → α → State} {l : List α} (h : s.Notes t)
    (hf : ∀ u, ∀ x ∈ l, s.Notes u → s.Notes (f u x)) : s.Notes (l.foldl f t) := by
  induction l generalizing t with
  | nil => exact h
  | cons x l ih => exact ih (hf t x (by simp) h) fun u y hy => hf u y (by simp [hy])

end State.Notes

/-- A flag register and its count are notes. -/
theorem noteReg_flag (a : Nat) (h : isFlagReg a = true) : noteReg a = true := by simp [noteReg, h]

theorem State.raise_notes (s : State) (a bit : Nat) (h : noteReg a = true) (h4 : noteReg (a + 4) = true) : s.Notes (s.raise a bit) :=
  ((State.Notes.wr s a _ h).trans (State.Notes.wr _ (a + 4) _ h4)).trans (State.Notes.msg _ _ _)

theorem noteReg_cnt (a : Nat) (h : 0x3000 ≤ a % 0x10000) (h2 : a % 0x10000 < 0x3088) : noteReg a = true := by
  simp [noteReg, h, h2]

/-- Counting an event touches counters and the overflow flag only. -/
theorem State.count_notes (fuel : Nat) (s : State) (blk ev : Nat) (l : Option Nat) (n : Nat) : s.Notes (s.count fuel blk ev l n) := by
  induction fuel generalizing s blk ev l n with
  | zero => exact State.Notes.refl s
  | succ k ih =>
    refine State.Notes.foldl (State.Notes.refl s) fun u i hi hu => ?_
    have hi : i < 8 := by simpa using hi
    have a1 : noteReg (Reg.CNT_LO blk i) = true := noteReg_cnt _ (by unfold Reg.CNT_LO; omega) (by unfold Reg.CNT_LO; omega)
    have a2 : noteReg (Reg.CNT_HI blk i) = true := noteReg_cnt _ (by unfold Reg.CNT_HI; omega) (by unfold Reg.CNT_HI; omega)
    have a3 : noteReg (Reg.CNT_OVF blk) = true := noteReg_cnt _ (by unfold Reg.CNT_OVF; omega) (by unfold Reg.CNT_OVF; omega)
    have a4 : noteReg (Reg.CNT_OVF blk + 4) = true := noteReg_cnt _ (by unfold Reg.CNT_OVF; omega) (by unfold Reg.CNT_OVF; omega)
    have hs : ∀ (v : Nat) (w : State), w.Notes (w.setCnt blk i v) := fun v w =>
      (State.Notes.wr w _ _ a1).trans (State.Notes.wr _ _ _ a2)
    dsimp only
    split
    · split
      · exact hu.trans ((hs _ u).trans ((State.raise_notes _ _ _ a3 a4).trans (ih _ _ _ _ _)))
      · exact hu.trans (hs _ u)
    · exact hu

theorem State.event_notes (s : State) (blk ev : Nat) (l : Option Nat) (n : Nat) : s.Notes (s.event blk ev l n) :=
  State.count_notes _ _ _ _ _ _
theorem State.countStatus_notes (s : State) (blk st : Nat) (l : Option Nat) : s.Notes (s.countStatus blk st l) :=
  State.event_notes _ _ _ _ _

/-- Counting an event leaves every register outside the counter windows (R494). -/
theorem State.count_rr (fuel : Nat) (s : State) (blk ev : Nat) (l : Option Nat) (n a : Nat)
    (ha : ¬(0x3000 ≤ a % 0x10000 ∧ a % 0x10000 < 0x3088)) : (s.count fuel blk ev l n).rr a = s.rr a := by
  induction fuel generalizing s blk ev l n with
  | zero => rfl
  | succ k ih =>
    have hw : ∀ (u : State) (v : Word) (b : Nat), (0x3000 ≤ b % 0x10000 ∧ b % 0x10000 < 0x3088) → (u.wr b v).rr a = u.rr a :=
      fun u v b hb => State.rr_wr_other _ _ _ _ fun e => ha (e ▸ hb)
    have hs : ∀ (v i : Nat) (u : State), i < 8 → (u.setCnt blk i v).rr a = u.rr a := fun v i u hi => by
      unfold State.setCnt State.sf
      rw [hw _ _ _ (by unfold Reg.CNT_HI; omega), hw _ _ _ (by unfold Reg.CNT_LO; omega)]
    have hr : ∀ (u : State) (i : Nat), (u.raise (Reg.CNT_OVF blk) i).rr a = u.rr a := fun u i => by
      unfold State.raise State.msg
      have : ∀ w : State, (if w.masked.contains 0 = true then w else { w with msgs := w.msgs ++
          [(0, if blockOf (Reg.CNT_OVF blk) = 5 ∨ blockOf (Reg.CNT_OVF blk) = 7 then 1 else 2)] }).rr a = w.rr a := fun w => by
        split <;> rfl
      dsimp only
      rw [this, hw _ _ _ (by unfold Reg.CNT_OVF; omega), hw _ _ _ (by unfold Reg.CNT_OVF; omega)]
    unfold State.count
    have : ∀ (is : List Nat) (u : State), (∀ i ∈ is, i < 8) → u.rr a = s.rr a → (is.foldl (fun (s : State) i =>
        if s.counts blk i ev l then
          let v := s.cntVal blk i + n
          let s := s.setCnt blk i (v % 2 ^ 48)
          if 2 ^ 48 ≤ v then
            State.count (s.raise (Reg.CNT_OVF blk) i) k blk (0x1000 + 0x100 * flagNum (Reg.CNT_OVF blk) + i) l 1
          else s
        else s) u).rr a = s.rr a := by
      intro is
      induction is with
      | nil => exact fun u _ h => h
      | cons i is ih2 =>
        intro u hi h
        refine ih2 _ (fun j hj => hi j (by simp [hj])) ?_
        have hi := hi i (by simp)
        dsimp only
        split
        · split
          · rw [ih, hr, hs _ _ _ hi, h]
          · rw [hs _ _ _ hi, h]
        · exact h
    exact this _ s (fun i hi => by simpa using hi) rfl

theorem State.event_rr (s : State) (blk ev : Nat) (l : Option Nat) (n a : Nat)
    (ha : ¬(0x3000 ≤ a % 0x10000 ∧ a % 0x10000 < 0x3088)) : (s.event blk ev l n).rr a = s.rr a := State.count_rr _ _ _ _ _ _ _ ha

theorem State.rr_msg (s : State) (f v a : Nat) : (s.msg f v).rr a = s.rr a := by unfold State.msg; split <;> rfl

/-- Hardware sets a flag: the register has the bit, its count rises by one, no other register outside the counters changes (R14, R15). -/
theorem State.rr_setFlag (s : State) (a bit : Nat) (l : Option Nat) (b : Nat)
    (hb : ¬(0x3000 ≤ b % 0x10000 ∧ b % 0x10000 < 0x3088)) :
    (s.setFlag a bit l).rr b = if b = a + 4 then s.rr b + 1 else if b = a then s.rr a ||| BitVec.ofNat 32 (2 ^ bit) else s.rr b := by
  unfold State.setFlag State.raise
  rw [State.event_rr _ _ _ _ _ _ hb]
  dsimp only
  rw [State.rr_msg, State.rr_wr, State.rr_wr, State.rr_wr]
  by_cases h : b = a + 4
  · subst h
    have : ¬ a + 4 = a := by omega
    simp
  · simp [h]

theorem wbit_or (w : Word) (i : Nat) (hi : i < 32) : wbit (w ||| BitVec.ofNat 32 (2 ^ i)) i = true := by
  unfold wbit
  rw [BitVec.toNat_or, Nat.testBit_or, BitVec.toNat_ofNat, Nat.testBit_mod_two_pow, Nat.testBit_two_pow]
  simp [hi]

/-- The flag reads 1 afterwards (R14). -/
theorem State.rbit_setFlag (s : State) (a bit : Nat) (l : Option Nat) (hi : bit < 32)
    (ha : ¬(0x3000 ≤ a % 0x10000 ∧ a % 0x10000 < 0x3088)) : (s.setFlag a bit l).rbit a bit = true := by
  unfold State.rbit
  rw [State.rr_setFlag _ _ _ _ _ ha, if_neg (by omega), if_pos rfl]
  exact wbit_or _ _ hi

/-- Setting a flag touches the flag, its count, counters and messages only. -/
theorem State.setFlag_notes (s : State) (a bit : Nat) (l : Option Nat) (h : noteReg a = true) (h4 : noteReg (a + 4) = true) :
    s.Notes (s.setFlag a bit l) :=
  (State.raise_notes _ _ _ h h4).trans (State.event_notes _ _ _ _ _)
theorem State.setFlagIf_notes (s : State) (p : Bool) (a bit : Nat) (l : Option Nat) (h : noteReg a = true)
    (h4 : noteReg (a + 4) = true) : s.Notes (s.setFlagIf p a bit l) := by
  unfold State.setFlagIf
  split
  · exact State.setFlag_notes _ _ _ _ h h4
  · exact State.Notes.refl s

/-- A refused access changes flags only (R581, R631). -/
theorem State.deny_notes (s : State) (who : Requester) : s.Notes (s.deny who) := by
  cases who <;> simp only [State.deny]
  all_goals first
    | exact State.Notes.refl s
    | exact State.setFlag_notes _ _ _ _ (by decide) (by decide)

end Sys2Proof.Machine
end

