-- ==== Sys2Proof/Laws/Sync.lean ====
section
/-! SUPPORT. What a signal, an arm and a clear of a sync object do (R454, R456). -/
namespace Sys2Proof.Machine
open Sys2Proof

namespace State.SameLow

theorem refl (s : State) : s.SameLow s := ⟨fun _ _ _ => rfl, rfl, rfl, rfl⟩
theorem trans {s t u : State} (h : s.SameLow t) (k : t.SameLow u) : s.SameLow u :=
  ⟨fun a x y => (k.regs a x y).trans (h.regs a x y), k.mem.trans h.mem, k.host.trans h.host, k.cycle.trans h.cycle⟩
theorem ofNotes {s t : State} (h : s.Notes t) : s.SameLow t :=
  ⟨fun a x _ => h.regs a x, by rw [h.rest], by rw [h.rest], by rw [h.rest]⟩

end State.SameLow

theorem State.irqPend_low (s : State) (n src : Nat) : s.SameLow (s.irqPend n src) := by
  unfold State.irqPend
  split
  · rename_i hn
    unfold State.setFlag State.raise
    have h1 : ∀ (u : State) (v : Word) (b : Nat), 0x300000 ≤ b → u.SameLow (u.wr b v) := fun u v b hb =>
      ⟨fun a _ h => State.rr_wr_other _ _ _ _ (by omega), rfl, rfl, rfl⟩
    exact (((h1 _ _ _ (by unfold Reg.IBC_IRQ_PEND; omega)).trans (h1 _ _ _ (by unfold Reg.IBC_IRQ_PEND; omega))).trans
      (.ofNotes (State.Notes.msg _ _ _))).trans (.ofNotes (State.event_notes _ _ _ _ _))
  · exact .refl s

/-- A passage releases moves and interrupts cores; it leaves registers below the cores' blocks, and memory. -/
theorem State.passage_low (s : State) (o : Nat) : s.SameLow (s.passage o) := by
  unfold State.passage
  refine State.SameLow.trans (t := { s with tc := s.tc.map fun (c, t) =>
    (c, { t with slots := t.slots.map fun (k, u) => (k, u.release o) }) }) ⟨fun _ _ _ => rfl, rfl, rfl, rfl⟩ ?_
  generalize { s with tc := _ } = u
  dsimp only
  generalize List.range 18 = l
  induction l generalizing u with
  | nil => exact .refl u
  | cons n l ih =>
    simp only [List.foldl_cons]
    split
    · exact (State.irqPend_low u n 1).trans (ih _)
    · exact ih _

theorem noteReg_sync (o : Nat) (h : o < 4096) : noteReg (Reg.SYNC_COUNT o) = false ∧ noteReg (Reg.SYNC_ARMED o) = false := by
  constructor <;>
  · simp only [noteReg, isFlagReg, blockOf, Reg.SYNC_COUNT, Reg.SYNC_ARMED]
    have h1 : (0x38000 + 0x8 * o) / 65536 = 3 := by omega
    have h2 : (0x38004 + 0x8 * o) / 65536 = 3 := by omega
    have h3 : (0x38000 + 0x8 * o) % 65536 = 0x8000 + 8 * o := by omega
    have h4 : (0x38004 + 0x8 * o) % 65536 = 0x8004 + 8 * o := by omega
    simp [h1, h2, h3, h4]; omega

/-- The counts and thresholds of every object, and memory, in a state that agrees below the cores' blocks. -/
theorem State.SameLow.sync {s t : State} (h : s.SameLow t) (o : Nat) (ho : o < 4096) :
    t.syncCount o = s.syncCount o ∧ t.syncArmed o = s.syncArmed o := by
  have := noteReg_sync o ho
  simp [State.syncCount, State.syncArmed, h.regs _ this.1 (by unfold Reg.SYNC_COUNT; omega),
    h.regs _ this.2 (by unfold Reg.SYNC_ARMED; omega)]

/-- SIGNAL adds to one object and leaves every other register below the cores' blocks (R454). -/
theorem State.signal_low (s : State) (o n : Nat) :
    (s.wr (Reg.SYNC_COUNT o) (BitVec.ofNat 32 (min (s.syncCount o + n) (2 ^ 32 - 1)))).SameLow (s.signal o n) := by
  have h := fun (u : State) (p : Bool) (x : Option Nat) => State.SameLow.ofNotes
    ((State.setFlagIf_notes u p Reg.SYNC_FLAG 0 x (by decide) (by decide)).trans (State.event_notes _ 3 0x3000 x 1))
  unfold State.signal
  dsimp only
  split
  · exact (h _ _ _).trans (State.passage_low _ _)
  · exact h _ _ _

/-- ARM sets one threshold (R454). -/
theorem State.arm_low (s : State) (o th : Nat) : (s.wr (Reg.SYNC_ARMED o) (BitVec.ofNat 32 th)).SameLow (s.arm o th) := by
  unfold State.arm
  dsimp only
  split
  · exact State.passage_low _ _
  · exact .refl _

end Sys2Proof.Machine
end

