-- ==== Sys2Proof/Laws/Slots.lean ====
section
/-! SUPPORT. Tensor-core slots: a change of a slot is one write, flags pass it by; checks that hold end in OK. -/
namespace Sys2Proof.Machine
open Sys2Proof

/-- Writing the same change of a slot by two functions that agree on it is the same. -/
theorem setSlot_congr (s : State) (c p : Nat) (sl : Slot) (f g : TcSlot → TcSlot) (h : f (s.slotOf c p sl) = g (s.slotOf c p sl)) :
    s.setSlot c p sl f = s.setSlot c p sl g := by
  have e : ∀ k : TcSlot → TcSlot, (s.tcOf c).setSlot p sl k =
      { s.tcOf c with slots := tput (fun _ => TcSlot.idle) (s.tcOf c).slots (2 * p + sl.idx) (k (s.slotOf c p sl)) } := fun _ => rfl
  show { s with tc := tput _ s.tc c ((s.tcOf c).setSlot p sl f) } = { s with tc := tput _ s.tc c ((s.tcOf c).setSlot p sl g) }
  rw [e f, e g, h]

/-- Changing a slot passes through flags. -/
theorem setSlot_notes {s t : State} (h : s.Notes t) (c p sl f) : (s.setSlot c p sl f).Notes (t.setSlot c p sl f) :=
  State.Notes.map (fun s => s.setSlot c p sl f) h (fun _ _ _ => rfl) (fun _ => rfl)

/-- Of two writes of a key the later stands. -/
theorem tput_tput {α : Type} [DecidableEq α] (d : Nat → α) (t : Tbl α) (k : Nat) (v w : α) : tput d (tput d t k v) k w = tput d t k w := by
  have h1 : ∀ (t : Tbl α), tdel (tdel t k) k = tdel t k := by
    intro t; induction t with
    | nil => rfl
    | cons e t ih => obtain ⟨i, x⟩ := e; by_cases h : k = i <;> simp [tdel, h, ih]
                     · subst h; exact ih
  have h2 : ∀ (t : Tbl α), (∀ e ∈ t, e.1 ≠ k) → tdel (tins t k v) k = t := by
    intro t; induction t with
    | nil => intro _; simp [tins, tdel]
    | cons e t ih =>
      intro hk
      obtain ⟨i, x⟩ := e
      have hi : i ≠ k := hk (i, x) (by simp)
      have : ∀ (u : Tbl α), (∀ e ∈ u, e.1 ≠ k) → tdel u k = u := by
        intro u; induction u with
        | nil => intro _; rfl
        | cons e u ihu => intro hu; obtain ⟨j, y⟩ := e; have : ¬ k = j := fun h => hu (j, y) (by simp) h.symm
                          simp [tdel, this]; exact ihu fun e he => hu e (by simp [he])
      by_cases h : k < i
      · simp only [tins, h, if_true, tdel, if_true]
        exact this _ hk
      · simp only [tins, h, if_false, tdel, Ne.symm hi, if_false]
        rw [ih fun e he => hk e (by simp [he])]
  have : tdel (tput d t k v) k = tdel t k := by
    unfold tput; split
    · exact h1 t
    · exact h2 _ (tdel_keys t k)
  show (if w = d k then tdel (tput d t k v) k else tins (tdel (tput d t k v) k) k w) = _
  rw [this]; rfl

/-- Two changes of a key are one. -/
theorem tmod_tmod {α : Type} [DecidableEq α] (d : Nat → α) (t : Tbl α) (k : Nat) (f g : α → α) : tmod d (tmod d t k f) k g = tmod d t k (g ∘ f) := by
  unfold tmod; rw [tput_tput, tget_tput_same]; rfl

/-- Two changes of a slot are one. -/
theorem setSlot_setSlot (s : State) (c p sl) (f g : TcSlot → TcSlot) : (s.setSlot c p sl f).setSlot c p sl g = s.setSlot c p sl (g ∘ f) := by
  unfold State.setSlot State.setTc
  simp only [tmod_tmod]
  congr 1
  congr 1
  funext t
  simp only [Function.comp, Tc.setSlot, tmod_tmod]

/-- A slot reads as it was changed. -/
theorem slot_setSlot (s : State) (c p sl) (f : TcSlot → TcSlot) : (s.setSlot c p sl f).slotOf c p sl = f (s.slotOf c p sl) := by
  unfold State.slotOf State.setSlot State.setTc State.tcOf Tc.slot Tc.setSlot
  rw [tget_tmod]; simp only [if_true, tget_tmod]

/-- Flags leave every slot. -/
theorem Notes_slot {s t : State} (h : s.Notes t) (c p sl) : t.slotOf c p sl = s.slotOf c p sl := by rw [h.rest]; rfl

/-- With no check broken the status is OK (R12). -/
theorem pick_ok (l : List (Bool × Nat)) (h : ∀ c ∈ l, c.1 = false) : pick l = St.ok := by
  unfold pick
  have : (St.order.find? fun st => l.any fun c => c.1 && c.2 == st) = none := by
    rw [List.find?_eq_none]
    intro x _; simp only [List.any_eq_true, not_exists, not_and]
    intro c hm; simp [h c hm]
  rw [this]

/-- A command without CPL and SIG that ends in OK changes flags and counters only (R94, R96). -/
theorem complete_ok (s : State) (x w q) (h1 : cCpl w = false) (h2 : cSig w = false) : s.Notes (s.complete x w q St.ok) := by
  unfold State.complete State.finish State.finishMark
  simp only [h1, h2, Bool.false_eq_true, if_false, Bool.or_self, bne_self_eq_false, Bool.false_and, goesOn, beq_self_eq_true, Bool.true_or, if_true]
  exact State.countStatus_notes _ _ _ _

/-- The LDG block's plain registers record nothing. -/
theorem noteReg_ldg (a : Nat) (h : a < 0x3000) (h4 : a ≠ 0) (h5 : a ≠ 4) : noteReg a = false := by
  have e : a / 65536 = 0 := by omega
  have e2 : a % 65536 = a := by omega
  simp only [noteReg, isFlagReg, blockOf, e, e2]
  simp [h4, h5]; omega

/-- Flags leave the holder of every sync object. -/
theorem Notes_holder {s t : State} (h : s.Notes t) (o) : t.syncHolder o = s.syncHolder o := by
  have hb : t.syncBound o = s.syncBound o := by
    unfold State.syncBound
    dsimp only
    have : ∀ l ∈ List.range 16, (if o / 64 < 32 then t.rbit (Reg.LDG_SYNC_LO l) (o / 64) else decide (o / 64 < 64) && t.rbit (Reg.LDG_SYNC_HI l) (o / 64 - 32)) = (if o / 64 < 32 then s.rbit (Reg.LDG_SYNC_LO l) (o / 64) else decide (o / 64 < 64) && s.rbit (Reg.LDG_SYNC_HI l) (o / 64 - 32)) := by
      intro l hl
      have hl : l < 16 := by simpa using hl
      unfold State.rbit
      rw [h.regs _ (noteReg_ldg _ (by unfold Reg.LDG_SYNC_LO; omega) (by unfold Reg.LDG_SYNC_LO; omega) (by unfold Reg.LDG_SYNC_LO; omega)),
        h.regs _ (noteReg_ldg _ (by unfold Reg.LDG_SYNC_HI; omega) (by unfold Reg.LDG_SYNC_HI; omega) (by unfold Reg.LDG_SYNC_HI; omega))]
    revert this
    generalize List.range 16 = l
    induction l with
    | nil => intro _; rfl
    | cons x l ih =>
      intro hx
      rw [List.find?_cons, List.find?_cons, hx x (by simp)]
      rw [ih fun y hy => hx y (by simp [hy])]
  unfold State.syncHolder State.heldFor
  rw [hb]
  rw [h.rest]

end Sys2Proof.Machine
end

