-- ==== Sys2Proof/Laws/State.lean ====
section
/-! SUPPORT. What each elementary change of the state leaves: one lemma for each field and change. -/
namespace Sys2Proof.Machine
open Sys2Proof

@[simp] theorem State.wr_pending (s : State) (a : Nat) (v : Word) : (s.wr a v).pending = s.pending := rfl
@[simp] theorem State.wr_cycle (s : State) (a : Nat) (v : Word) : (s.wr a v).cycle = s.cycle := rfl
@[simp] theorem State.wr_free (s : State) (a : Nat) (v : Word) : (s.wr a v).free = s.free := rfl
@[simp] theorem State.wr_mem (s : State) (a : Nat) (v : Word) : (s.wr a v).mem = s.mem := rfl
@[simp] theorem State.wr_host (s : State) (a : Nat) (v : Word) : (s.wr a v).host = s.host := rfl
@[simp] theorem State.wr_poison (s : State) (a : Nat) (v : Word) : (s.wr a v).poison = s.poison := rfl
@[simp] theorem State.wr_tc (s : State) (a : Nat) (v : Word) : (s.wr a v).tc = s.tc := rfl
@[simp] theorem State.wr_tags (s : State) (a : Nat) (v : Word) : (s.wr a v).tags = s.tags := rfl
@[simp] theorem State.wr_bn (s : State) (a : Nat) (v : Word) : (s.wr a v).bn = s.bn := rfl
@[simp] theorem State.wr_kv (s : State) (a : Nat) (v : Word) : (s.wr a v).kv = s.kv := rfl
@[simp] theorem State.wr_kvMoves (s : State) (a : Nat) (v : Word) : (s.wr a v).kvMoves = s.kvMoves := rfl
@[simp] theorem State.wr_kvq (s : State) (a : Nat) (v : Word) : (s.wr a v).kvq = s.kvq := rfl
@[simp] theorem State.wr_kvXfer (s : State) (a : Nat) (v : Word) : (s.wr a v).kvXfer = s.kvXfer := rfl
@[simp] theorem State.wr_kvRest (s : State) (a : Nat) (v : Word) : (s.wr a v).kvRest = s.kvRest := rfl
@[simp] theorem State.wr_refillAt (s : State) (a : Nat) (v : Word) : (s.wr a v).refillAt = s.refillAt := rfl
@[simp] theorem State.wr_due (s : State) (a : Nat) (v : Word) : (s.wr a v).due = s.due := rfl
@[simp] theorem State.wr_rrAt (s : State) (a : Nat) (v : Word) : (s.wr a v).rrAt = s.rrAt := rfl
@[simp] theorem State.wr_linkOps (s : State) (a : Nat) (v : Word) : (s.wr a v).linkOps = s.linkOps := rfl
@[simp] theorem State.wr_linkTx (s : State) (a : Nat) (v : Word) : (s.wr a v).linkTx = s.linkTx := rfl
@[simp] theorem State.wr_linkOpNo (s : State) (a : Nat) (v : Word) : (s.wr a v).linkOpNo = s.linkOpNo := rfl
@[simp] theorem State.wr_linkSeq (s : State) (a : Nat) (v : Word) : (s.wr a v).linkSeq = s.linkSeq := rfl
@[simp] theorem State.wr_linkFlit (s : State) (a : Nat) (v : Word) : (s.wr a v).linkFlit = s.linkFlit := rfl
@[simp] theorem State.wr_landing (s : State) (a : Nat) (v : Word) : (s.wr a v).landing = s.landing := rfl
@[simp] theorem State.wr_tb (s : State) (a : Nat) (v : Word) : (s.wr a v).tb = s.tb := rfl
@[simp] theorem State.wr_tbLatch (s : State) (a : Nat) (v : Word) : (s.wr a v).tbLatch = s.tbLatch := rfl
@[simp] theorem State.wr_cmp (s : State) (a : Nat) (v : Word) : (s.wr a v).cmp = s.cmp := rfl
@[simp] theorem State.wr_pulses (s : State) (a : Nat) (v : Word) : (s.wr a v).pulses = s.pulses := rfl
@[simp] theorem State.wr_capt (s : State) (a : Nat) (v : Word) : (s.wr a v).capt = s.capt := rfl
@[simp] theorem State.wr_rings (s : State) (a : Nat) (v : Word) : (s.wr a v).rings = s.rings := rfl
@[simp] theorem State.wr_msgs (s : State) (a : Nat) (v : Word) : (s.wr a v).msgs = s.msgs := rfl
@[simp] theorem State.wr_ibc (s : State) (a : Nat) (v : Word) : (s.wr a v).ibc = s.ibc := rfl
@[simp] theorem State.wr_lodge (s : State) (a : Nat) (v : Word) : (s.wr a v).lodge = s.lodge := rfl
@[simp] theorem State.wr_stg (s : State) (a : Nat) (v : Word) : (s.wr a v).stg = s.stg := rfl
@[simp] theorem State.wr_car (s : State) (a : Nat) (v : Word) : (s.wr a v).car = s.car := rfl
@[simp] theorem State.wr_fhTx (s : State) (a : Nat) (v : Word) : (s.wr a v).fhTx = s.fhTx := rfl
@[simp] theorem State.wr_fhSeq (s : State) (a : Nat) (v : Word) : (s.wr a v).fhSeq = s.fhSeq := rfl
@[simp] theorem State.wr_ldpcTbl (s : State) (a : Nat) (v : Word) : (s.wr a v).ldpcTbl = s.ldpcTbl := rfl
@[simp] theorem State.wr_ldpcLoad (s : State) (a : Nat) (v : Word) : (s.wr a v).ldpcLoad = s.ldpcLoad := rfl
@[simp] theorem State.wr_ldpcEng (s : State) (a : Nat) (v : Word) : (s.wr a v).ldpcEng = s.ldpcEng := rfl
@[simp] theorem State.wr_crcJobs (s : State) (a : Nat) (v : Word) : (s.wr a v).crcJobs = s.crcJobs := rfl
@[simp] theorem State.wr_grant (s : State) (a : Nat) (v : Word) : (s.wr a v).grant = s.grant := rfl
@[simp] theorem State.wr_bq (s : State) (a : Nat) (v : Word) : (s.wr a v).bq = s.bq := rfl
@[simp] theorem State.wr_strm (s : State) (a : Nat) (v : Word) : (s.wr a v).strm = s.strm := rfl
@[simp] theorem State.wr_smp (s : State) (a : Nat) (v : Word) : (s.wr a v).smp = s.smp := rfl
@[simp] theorem State.wr_innHalt (s : State) (a : Nat) (v : Word) : (s.wr a v).innHalt = s.innHalt := rfl
@[simp] theorem State.wr_porterHalt (s : State) (a : Nat) (v : Word) : (s.wr a v).porterHalt = s.porterHalt := rfl
@[simp] theorem State.wr_airIn (s : State) (a : Nat) (v : Word) : (s.wr a v).airIn = s.airIn := rfl
@[simp] theorem State.wr_rdata (s : State) (a : Nat) (v : Word) : (s.wr a v).rdata = s.rdata := rfl
@[simp] theorem State.wr_unlocked (s : State) (a : Nat) (v : Word) : (s.wr a v).unlocked = s.unlocked := rfl
@[simp] theorem State.wr_ptpQ (s : State) (a : Nat) (v : Word) : (s.wr a v).ptpQ = s.ptpQ := rfl
@[simp] theorem State.wr_masked (s : State) (a : Nat) (v : Word) : (s.wr a v).masked = s.masked := rfl
@[simp] theorem State.wr_failed (s : State) (a : Nat) (v : Word) : (s.wr a v).failed = s.failed := rfl
@[simp] theorem State.wr_answer (s : State) (a : Nat) (v : Word) : (s.wr a v).answer = s.answer := rfl
@[simp] theorem State.wr_epochs (s : State) (a : Nat) (v : Word) : (s.wr a v).epochs = s.epochs := rfl
@[simp] theorem State.wr_cover (s : State) (a : Nat) (v : Word) : (s.wr a v).cover = s.cover := rfl
@[simp] theorem State.wr_links (s : State) (a : Nat) (v : Word) : (s.wr a v).links = s.links := rfl
@[simp] theorem State.wr_wearHist (s : State) (a : Nat) (v : Word) : (s.wr a v).wearHist = s.wearHist := rfl
@[simp] theorem State.wr_wearNext (s : State) (a : Nat) (v : Word) : (s.wr a v).wearNext = s.wearNext := rfl
@[simp] theorem State.wr_wearN (s : State) (a : Nat) (v : Word) : (s.wr a v).wearN = s.wearN := rfl
@[simp] theorem State.wr_repairs (s : State) (a : Nat) (v : Word) : (s.wr a v).repairs = s.repairs := rfl
@[simp] theorem State.wr_tierFix (s : State) (a : Nat) (v : Word) : (s.wr a v).tierFix = s.tierFix := rfl
@[simp] theorem State.wr_objMap (s : State) (a : Nat) (v : Word) : (s.wr a v).objMap = s.objMap := rfl
@[simp] theorem State.wr_wearCnt (s : State) (a : Nat) (v : Word) : (s.wr a v).wearCnt = s.wearCnt := rfl
@[simp] theorem State.wr_retired (s : State) (a : Nat) (v : Word) : (s.wr a v).retired = s.retired := rfl
@[simp] theorem State.wr_wearDirty (s : State) (a : Nat) (v : Word) : (s.wr a v).wearDirty = s.wearDirty := rfl
@[simp] theorem State.wr_wearAt (s : State) (a : Nat) (v : Word) : (s.wr a v).wearAt = s.wearAt := rfl
@[simp] theorem State.wr_wearStep (s : State) (a : Nat) (v : Word) : (s.wr a v).wearStep = s.wearStep := rfl
@[simp] theorem State.wr_wearMap (s : State) (a : Nat) (v : Word) : (s.wr a v).wearMap = s.wearMap := rfl
@[simp] theorem State.wr_therm (s : State) (a : Nat) (v : Word) : (s.wr a v).therm = s.therm := rfl
@[simp] theorem State.wr_wrec (s : State) (a : Nat) (v : Word) : (s.wr a v).wrec = s.wrec := rfl
@[simp] theorem State.wr_fw (s : State) (a : Nat) (v : Word) : (s.wr a v).fw = s.fw := rfl
@[simp] theorem State.wr_fwNew (s : State) (a : Nat) (v : Word) : (s.wr a v).fwNew = s.fwNew := rfl
@[simp] theorem State.wr_flash (s : State) (a : Nat) (v : Word) : (s.wr a v).flash = s.flash := rfl
@[simp] theorem State.wr_flashSize (s : State) (a : Nat) (v : Word) : (s.wr a v).flashSize = s.flashSize := rfl
@[simp] theorem State.wr_flashOp (s : State) (a : Nat) (v : Word) : (s.wr a v).flashOp = s.flashOp := rfl
@[simp] theorem State.wr_flashStat (s : State) (a : Nat) (v : Word) : (s.wr a v).flashStat = s.flashStat := rfl
@[simp] theorem State.wr_fuses (s : State) (a : Nat) (v : Word) : (s.wr a v).fuses = s.fuses := rfl
@[simp] theorem State.wr_boot (s : State) (a : Nat) (v : Word) : (s.wr a v).boot = s.boot := rfl
@[simp] theorem State.wr_quoxel (s : State) (a : Nat) (v : Word) : (s.wr a v).quoxel = s.quoxel := rfl
@[simp] theorem State.wr_trained (s : State) (a : Nat) (v : Word) : (s.wr a v).trained = s.trained := rfl
@[simp] theorem State.wr_inReset (s : State) (a : Nat) (v : Word) : (s.wr a v).inReset = s.inReset := rfl
@[simp] theorem State.wr_refLoss (s : State) (a : Nat) (v : Word) : (s.wr a v).refLoss = s.refLoss := rfl
@[simp] theorem State.wr_pmbFail (s : State) (a : Nat) (v : Word) : (s.wr a v).pmbFail = s.pmbFail := rfl
@[simp] theorem State.wr_dutyUp (s : State) (a : Nat) (v : Word) : (s.wr a v).dutyUp = s.dutyUp := rfl
@[simp] theorem State.wr_sensors (s : State) (a : Nat) (v : Word) : (s.wr a v).sensors = s.sensors := rfl
@[simp] theorem State.wr_mbData (s : State) (a : Nat) (v : Word) : (s.wr a v).mbData = s.mbData := rfl
@[simp] theorem State.wr_mbStat (s : State) (a : Nat) (v : Word) : (s.wr a v).mbStat = s.mbStat := rfl
@[simp] theorem State.wr_sess (s : State) (a : Nat) (v : Word) : (s.wr a v).sess = s.sess := rfl
@[simp] theorem State.wr_attests (s : State) (a : Nat) (v : Word) : (s.wr a v).attests = s.attests := rfl
@[simp] theorem State.wr_chal (s : State) (a : Nat) (v : Word) : (s.wr a v).chal = s.chal := rfl
@[simp] theorem State.wr_dbgFails (s : State) (a : Nat) (v : Word) : (s.wr a v).dbgFails = s.dbgFails := rfl
@[simp] theorem State.wr_dbgLock (s : State) (a : Nat) (v : Word) : (s.wr a v).dbgLock = s.dbgLock := rfl
@[simp] theorem State.wr_sweepAt (s : State) (a : Nat) (v : Word) : (s.wr a v).sweepAt = s.sweepAt := rfl
@[simp] theorem State.wr_ledgDue (s : State) (a : Nat) (v : Word) : (s.wr a v).ledgDue = s.ledgDue := rfl
@[simp] theorem State.wr_ledgGap (s : State) (a : Nat) (v : Word) : (s.wr a v).ledgGap = s.ledgGap := rfl
@[simp] theorem State.wr_cntLatch (s : State) (a : Nat) (v : Word) : (s.wr a v).cntLatch = s.cntLatch := rfl
@[simp] theorem State.wr_cntPend (s : State) (a : Nat) (v : Word) : (s.wr a v).cntPend = s.cntPend := rfl
@[simp] theorem State.wr_tapIr (s : State) (a : Nat) (v : Word) : (s.wr a v).tapIr = s.tapIr := rfl
@[simp] theorem State.wr_bsr (s : State) (a : Nat) (v : Word) : (s.wr a v).bsr = s.bsr := rfl
@[simp] theorem State.wr_dbgAcc (s : State) (a : Nat) (v : Word) : (s.wr a v).dbgAcc = s.dbgAcc := rfl
@[simp] theorem State.wr_scrubAt (s : State) (a : Nat) (v : Word) : (s.wr a v).scrubAt = s.scrubAt := rfl
@[simp] theorem State.wr_step2 (s : State) (a : Nat) (v : Word) : (s.wr a v).step2 = s.step2 := rfl
@[simp] theorem State.sf_pending (s : State) (a : Nat) (f : Fld) (v : Nat) : (s.sf a f v).pending = s.pending := rfl
@[simp] theorem State.sf_cycle (s : State) (a : Nat) (f : Fld) (v : Nat) : (s.sf a f v).cycle = s.cycle := rfl
@[simp] theorem State.sf_free (s : State) (a : Nat) (f : Fld) (v : Nat) : (s.sf a f v).free = s.free := rfl
@[simp] theorem State.sf_mem (s : State) (a : Nat) (f : Fld) (v : Nat) : (s.sf a f v).mem = s.mem := rfl
@[simp] theorem State.sf_host (s : State) (a : Nat) (f : Fld) (v : Nat) : (s.sf a f v).host = s.host := rfl
@[simp] theorem State.sf_poison (s : State) (a : Nat) (f : Fld) (v : Nat) : (s.sf a f v).poison = s.poison := rfl
@[simp] theorem State.sf_tc (s : State) (a : Nat) (f : Fld) (v : Nat) : (s.sf a f v).tc = s.tc := rfl
@[simp] theorem State.sf_tags (s : State) (a : Nat) (f : Fld) (v : Nat) : (s.sf a f v).tags = s.tags := rfl
@[simp] theorem State.sf_bn (s : State) (a : Nat) (f : Fld) (v : Nat) : (s.sf a f v).bn = s.bn := rfl
@[simp] theorem State.sf_kv (s : State) (a : Nat) (f : Fld) (v : Nat) : (s.sf a f v).kv = s.kv := rfl
@[simp] theorem State.sf_kvMoves (s : State) (a : Nat) (f : Fld) (v : Nat) : (s.sf a f v).kvMoves = s.kvMoves := rfl
@[simp] theorem State.sf_kvq (s : State) (a : Nat) (f : Fld) (v : Nat) : (s.sf a f v).kvq = s.kvq := rfl
@[simp] theorem State.sf_kvXfer (s : State) (a : Nat) (f : Fld) (v : Nat) : (s.sf a f v).kvXfer = s.kvXfer := rfl
@[simp] theorem State.sf_kvRest (s : State) (a : Nat) (f : Fld) (v : Nat) : (s.sf a f v).kvRest = s.kvRest := rfl
@[simp] theorem State.sf_refillAt (s : State) (a : Nat) (f : Fld) (v : Nat) : (s.sf a f v).refillAt = s.refillAt := rfl
@[simp] theorem State.sf_due (s : State) (a : Nat) (f : Fld) (v : Nat) : (s.sf a f v).due = s.due := rfl
@[simp] theorem State.sf_rrAt (s : State) (a : Nat) (f : Fld) (v : Nat) : (s.sf a f v).rrAt = s.rrAt := rfl
@[simp] theorem State.sf_linkOps (s : State) (a : Nat) (f : Fld) (v : Nat) : (s.sf a f v).linkOps = s.linkOps := rfl
@[simp] theorem State.sf_linkTx (s : State) (a : Nat) (f : Fld) (v : Nat) : (s.sf a f v).linkTx = s.linkTx := rfl
@[simp] theorem State.sf_linkOpNo (s : State) (a : Nat) (f : Fld) (v : Nat) : (s.sf a f v).linkOpNo = s.linkOpNo := rfl
@[simp] theorem State.sf_linkSeq (s : State) (a : Nat) (f : Fld) (v : Nat) : (s.sf a f v).linkSeq = s.linkSeq := rfl
@[simp] theorem State.sf_linkFlit (s : State) (a : Nat) (f : Fld) (v : Nat) : (s.sf a f v).linkFlit = s.linkFlit := rfl
@[simp] theorem State.sf_landing (s : State) (a : Nat) (f : Fld) (v : Nat) : (s.sf a f v).landing = s.landing := rfl
@[simp] theorem State.sf_tb (s : State) (a : Nat) (f : Fld) (v : Nat) : (s.sf a f v).tb = s.tb := rfl
@[simp] theorem State.sf_tbLatch (s : State) (a : Nat) (f : Fld) (v : Nat) : (s.sf a f v).tbLatch = s.tbLatch := rfl
@[simp] theorem State.sf_cmp (s : State) (a : Nat) (f : Fld) (v : Nat) : (s.sf a f v).cmp = s.cmp := rfl
@[simp] theorem State.sf_pulses (s : State) (a : Nat) (f : Fld) (v : Nat) : (s.sf a f v).pulses = s.pulses := rfl
@[simp] theorem State.sf_capt (s : State) (a : Nat) (f : Fld) (v : Nat) : (s.sf a f v).capt = s.capt := rfl
@[simp] theorem State.sf_rings (s : State) (a : Nat) (f : Fld) (v : Nat) : (s.sf a f v).rings = s.rings := rfl
@[simp] theorem State.sf_msgs (s : State) (a : Nat) (f : Fld) (v : Nat) : (s.sf a f v).msgs = s.msgs := rfl
@[simp] theorem State.sf_ibc (s : State) (a : Nat) (f : Fld) (v : Nat) : (s.sf a f v).ibc = s.ibc := rfl
@[simp] theorem State.sf_lodge (s : State) (a : Nat) (f : Fld) (v : Nat) : (s.sf a f v).lodge = s.lodge := rfl
@[simp] theorem State.sf_stg (s : State) (a : Nat) (f : Fld) (v : Nat) : (s.sf a f v).stg = s.stg := rfl
@[simp] theorem State.sf_car (s : State) (a : Nat) (f : Fld) (v : Nat) : (s.sf a f v).car = s.car := rfl
@[simp] theorem State.sf_fhTx (s : State) (a : Nat) (f : Fld) (v : Nat) : (s.sf a f v).fhTx = s.fhTx := rfl
@[simp] theorem State.sf_fhSeq (s : State) (a : Nat) (f : Fld) (v : Nat) : (s.sf a f v).fhSeq = s.fhSeq := rfl
@[simp] theorem State.sf_ldpcTbl (s : State) (a : Nat) (f : Fld) (v : Nat) : (s.sf a f v).ldpcTbl = s.ldpcTbl := rfl
@[simp] theorem State.sf_ldpcLoad (s : State) (a : Nat) (f : Fld) (v : Nat) : (s.sf a f v).ldpcLoad = s.ldpcLoad := rfl
@[simp] theorem State.sf_ldpcEng (s : State) (a : Nat) (f : Fld) (v : Nat) : (s.sf a f v).ldpcEng = s.ldpcEng := rfl
@[simp] theorem State.sf_crcJobs (s : State) (a : Nat) (f : Fld) (v : Nat) : (s.sf a f v).crcJobs = s.crcJobs := rfl
@[simp] theorem State.sf_grant (s : State) (a : Nat) (f : Fld) (v : Nat) : (s.sf a f v).grant = s.grant := rfl
@[simp] theorem State.sf_bq (s : State) (a : Nat) (f : Fld) (v : Nat) : (s.sf a f v).bq = s.bq := rfl
@[simp] theorem State.sf_strm (s : State) (a : Nat) (f : Fld) (v : Nat) : (s.sf a f v).strm = s.strm := rfl
@[simp] theorem State.sf_smp (s : State) (a : Nat) (f : Fld) (v : Nat) : (s.sf a f v).smp = s.smp := rfl
@[simp] theorem State.sf_innHalt (s : State) (a : Nat) (f : Fld) (v : Nat) : (s.sf a f v).innHalt = s.innHalt := rfl
@[simp] theorem State.sf_porterHalt (s : State) (a : Nat) (f : Fld) (v : Nat) : (s.sf a f v).porterHalt = s.porterHalt := rfl
@[simp] theorem State.sf_airIn (s : State) (a : Nat) (f : Fld) (v : Nat) : (s.sf a f v).airIn = s.airIn := rfl
@[simp] theorem State.sf_rdata (s : State) (a : Nat) (f : Fld) (v : Nat) : (s.sf a f v).rdata = s.rdata := rfl
@[simp] theorem State.sf_unlocked (s : State) (a : Nat) (f : Fld) (v : Nat) : (s.sf a f v).unlocked = s.unlocked := rfl
@[simp] theorem State.sf_ptpQ (s : State) (a : Nat) (f : Fld) (v : Nat) : (s.sf a f v).ptpQ = s.ptpQ := rfl
@[simp] theorem State.sf_masked (s : State) (a : Nat) (f : Fld) (v : Nat) : (s.sf a f v).masked = s.masked := rfl
@[simp] theorem State.sf_failed (s : State) (a : Nat) (f : Fld) (v : Nat) : (s.sf a f v).failed = s.failed := rfl
@[simp] theorem State.sf_answer (s : State) (a : Nat) (f : Fld) (v : Nat) : (s.sf a f v).answer = s.answer := rfl
@[simp] theorem State.sf_epochs (s : State) (a : Nat) (f : Fld) (v : Nat) : (s.sf a f v).epochs = s.epochs := rfl
@[simp] theorem State.sf_cover (s : State) (a : Nat) (f : Fld) (v : Nat) : (s.sf a f v).cover = s.cover := rfl
@[simp] theorem State.sf_links (s : State) (a : Nat) (f : Fld) (v : Nat) : (s.sf a f v).links = s.links := rfl
@[simp] theorem State.sf_wearHist (s : State) (a : Nat) (f : Fld) (v : Nat) : (s.sf a f v).wearHist = s.wearHist := rfl
@[simp] theorem State.sf_wearNext (s : State) (a : Nat) (f : Fld) (v : Nat) : (s.sf a f v).wearNext = s.wearNext := rfl
@[simp] theorem State.sf_wearN (s : State) (a : Nat) (f : Fld) (v : Nat) : (s.sf a f v).wearN = s.wearN := rfl
@[simp] theorem State.sf_repairs (s : State) (a : Nat) (f : Fld) (v : Nat) : (s.sf a f v).repairs = s.repairs := rfl
@[simp] theorem State.sf_tierFix (s : State) (a : Nat) (f : Fld) (v : Nat) : (s.sf a f v).tierFix = s.tierFix := rfl
@[simp] theorem State.sf_objMap (s : State) (a : Nat) (f : Fld) (v : Nat) : (s.sf a f v).objMap = s.objMap := rfl
@[simp] theorem State.sf_wearCnt (s : State) (a : Nat) (f : Fld) (v : Nat) : (s.sf a f v).wearCnt = s.wearCnt := rfl
@[simp] theorem State.sf_retired (s : State) (a : Nat) (f : Fld) (v : Nat) : (s.sf a f v).retired = s.retired := rfl
@[simp] theorem State.sf_wearDirty (s : State) (a : Nat) (f : Fld) (v : Nat) : (s.sf a f v).wearDirty = s.wearDirty := rfl
@[simp] theorem State.sf_wearAt (s : State) (a : Nat) (f : Fld) (v : Nat) : (s.sf a f v).wearAt = s.wearAt := rfl
@[simp] theorem State.sf_wearStep (s : State) (a : Nat) (f : Fld) (v : Nat) : (s.sf a f v).wearStep = s.wearStep := rfl
@[simp] theorem State.sf_wearMap (s : State) (a : Nat) (f : Fld) (v : Nat) : (s.sf a f v).wearMap = s.wearMap := rfl
@[simp] theorem State.sf_therm (s : State) (a : Nat) (f : Fld) (v : Nat) : (s.sf a f v).therm = s.therm := rfl
@[simp] theorem State.sf_wrec (s : State) (a : Nat) (f : Fld) (v : Nat) : (s.sf a f v).wrec = s.wrec := rfl
@[simp] theorem State.sf_fw (s : State) (a : Nat) (f : Fld) (v : Nat) : (s.sf a f v).fw = s.fw := rfl
@[simp] theorem State.sf_fwNew (s : State) (a : Nat) (f : Fld) (v : Nat) : (s.sf a f v).fwNew = s.fwNew := rfl
@[simp] theorem State.sf_flash (s : State) (a : Nat) (f : Fld) (v : Nat) : (s.sf a f v).flash = s.flash := rfl
@[simp] theorem State.sf_flashSize (s : State) (a : Nat) (f : Fld) (v : Nat) : (s.sf a f v).flashSize = s.flashSize := rfl
@[simp] theorem State.sf_flashOp (s : State) (a : Nat) (f : Fld) (v : Nat) : (s.sf a f v).flashOp = s.flashOp := rfl
@[simp] theorem State.sf_flashStat (s : State) (a : Nat) (f : Fld) (v : Nat) : (s.sf a f v).flashStat = s.flashStat := rfl
@[simp] theorem State.sf_fuses (s : State) (a : Nat) (f : Fld) (v : Nat) : (s.sf a f v).fuses = s.fuses := rfl
@[simp] theorem State.sf_boot (s : State) (a : Nat) (f : Fld) (v : Nat) : (s.sf a f v).boot = s.boot := rfl
@[simp] theorem State.sf_quoxel (s : State) (a : Nat) (f : Fld) (v : Nat) : (s.sf a f v).quoxel = s.quoxel := rfl
@[simp] theorem State.sf_trained (s : State) (a : Nat) (f : Fld) (v : Nat) : (s.sf a f v).trained = s.trained := rfl
@[simp] theorem State.sf_inReset (s : State) (a : Nat) (f : Fld) (v : Nat) : (s.sf a f v).inReset = s.inReset := rfl
@[simp] theorem State.sf_refLoss (s : State) (a : Nat) (f : Fld) (v : Nat) : (s.sf a f v).refLoss = s.refLoss := rfl
@[simp] theorem State.sf_pmbFail (s : State) (a : Nat) (f : Fld) (v : Nat) : (s.sf a f v).pmbFail = s.pmbFail := rfl
@[simp] theorem State.sf_dutyUp (s : State) (a : Nat) (f : Fld) (v : Nat) : (s.sf a f v).dutyUp = s.dutyUp := rfl
@[simp] theorem State.sf_sensors (s : State) (a : Nat) (f : Fld) (v : Nat) : (s.sf a f v).sensors = s.sensors := rfl
@[simp] theorem State.sf_mbData (s : State) (a : Nat) (f : Fld) (v : Nat) : (s.sf a f v).mbData = s.mbData := rfl
@[simp] theorem State.sf_mbStat (s : State) (a : Nat) (f : Fld) (v : Nat) : (s.sf a f v).mbStat = s.mbStat := rfl
@[simp] theorem State.sf_sess (s : State) (a : Nat) (f : Fld) (v : Nat) : (s.sf a f v).sess = s.sess := rfl
@[simp] theorem State.sf_attests (s : State) (a : Nat) (f : Fld) (v : Nat) : (s.sf a f v).attests = s.attests := rfl
@[simp] theorem State.sf_chal (s : State) (a : Nat) (f : Fld) (v : Nat) : (s.sf a f v).chal = s.chal := rfl
@[simp] theorem State.sf_dbgFails (s : State) (a : Nat) (f : Fld) (v : Nat) : (s.sf a f v).dbgFails = s.dbgFails := rfl
@[simp] theorem State.sf_dbgLock (s : State) (a : Nat) (f : Fld) (v : Nat) : (s.sf a f v).dbgLock = s.dbgLock := rfl
@[simp] theorem State.sf_sweepAt (s : State) (a : Nat) (f : Fld) (v : Nat) : (s.sf a f v).sweepAt = s.sweepAt := rfl
@[simp] theorem State.sf_ledgDue (s : State) (a : Nat) (f : Fld) (v : Nat) : (s.sf a f v).ledgDue = s.ledgDue := rfl
@[simp] theorem State.sf_ledgGap (s : State) (a : Nat) (f : Fld) (v : Nat) : (s.sf a f v).ledgGap = s.ledgGap := rfl
@[simp] theorem State.sf_cntLatch (s : State) (a : Nat) (f : Fld) (v : Nat) : (s.sf a f v).cntLatch = s.cntLatch := rfl
@[simp] theorem State.sf_cntPend (s : State) (a : Nat) (f : Fld) (v : Nat) : (s.sf a f v).cntPend = s.cntPend := rfl
@[simp] theorem State.sf_tapIr (s : State) (a : Nat) (f : Fld) (v : Nat) : (s.sf a f v).tapIr = s.tapIr := rfl
@[simp] theorem State.sf_bsr (s : State) (a : Nat) (f : Fld) (v : Nat) : (s.sf a f v).bsr = s.bsr := rfl
@[simp] theorem State.sf_dbgAcc (s : State) (a : Nat) (f : Fld) (v : Nat) : (s.sf a f v).dbgAcc = s.dbgAcc := rfl
@[simp] theorem State.sf_scrubAt (s : State) (a : Nat) (f : Fld) (v : Nat) : (s.sf a f v).scrubAt = s.scrubAt := rfl
@[simp] theorem State.sf_step2 (s : State) (a : Nat) (f : Fld) (v : Nat) : (s.sf a f v).step2 = s.step2 := rfl
@[simp] theorem State.wb_pending (s : State) (a : Nat) (v : Byte) : (s.wb a v).pending = s.pending := rfl
@[simp] theorem State.wb_cycle (s : State) (a : Nat) (v : Byte) : (s.wb a v).cycle = s.cycle := rfl
@[simp] theorem State.wb_free (s : State) (a : Nat) (v : Byte) : (s.wb a v).free = s.free := rfl
@[simp] theorem State.wb_regs (s : State) (a : Nat) (v : Byte) : (s.wb a v).regs = s.regs := rfl
@[simp] theorem State.wb_host (s : State) (a : Nat) (v : Byte) : (s.wb a v).host = s.host := rfl
@[simp] theorem State.wb_poison (s : State) (a : Nat) (v : Byte) : (s.wb a v).poison = s.poison := rfl
@[simp] theorem State.wb_tc (s : State) (a : Nat) (v : Byte) : (s.wb a v).tc = s.tc := rfl
@[simp] theorem State.wb_tags (s : State) (a : Nat) (v : Byte) : (s.wb a v).tags = s.tags := rfl
@[simp] theorem State.wb_bn (s : State) (a : Nat) (v : Byte) : (s.wb a v).bn = s.bn := rfl
@[simp] theorem State.wb_kv (s : State) (a : Nat) (v : Byte) : (s.wb a v).kv = s.kv := rfl
@[simp] theorem State.wb_kvMoves (s : State) (a : Nat) (v : Byte) : (s.wb a v).kvMoves = s.kvMoves := rfl
@[simp] theorem State.wb_kvq (s : State) (a : Nat) (v : Byte) : (s.wb a v).kvq = s.kvq := rfl
@[simp] theorem State.wb_kvXfer (s : State) (a : Nat) (v : Byte) : (s.wb a v).kvXfer = s.kvXfer := rfl
@[simp] theorem State.wb_kvRest (s : State) (a : Nat) (v : Byte) : (s.wb a v).kvRest = s.kvRest := rfl
@[simp] theorem State.wb_refillAt (s : State) (a : Nat) (v : Byte) : (s.wb a v).refillAt = s.refillAt := rfl
@[simp] theorem State.wb_due (s : State) (a : Nat) (v : Byte) : (s.wb a v).due = s.due := rfl
@[simp] theorem State.wb_rrAt (s : State) (a : Nat) (v : Byte) : (s.wb a v).rrAt = s.rrAt := rfl
@[simp] theorem State.wb_linkOps (s : State) (a : Nat) (v : Byte) : (s.wb a v).linkOps = s.linkOps := rfl
@[simp] theorem State.wb_linkTx (s : State) (a : Nat) (v : Byte) : (s.wb a v).linkTx = s.linkTx := rfl
@[simp] theorem State.wb_linkOpNo (s : State) (a : Nat) (v : Byte) : (s.wb a v).linkOpNo = s.linkOpNo := rfl
@[simp] theorem State.wb_linkSeq (s : State) (a : Nat) (v : Byte) : (s.wb a v).linkSeq = s.linkSeq := rfl
@[simp] theorem State.wb_linkFlit (s : State) (a : Nat) (v : Byte) : (s.wb a v).linkFlit = s.linkFlit := rfl
@[simp] theorem State.wb_landing (s : State) (a : Nat) (v : Byte) : (s.wb a v).landing = s.landing := rfl
@[simp] theorem State.wb_tb (s : State) (a : Nat) (v : Byte) : (s.wb a v).tb = s.tb := rfl
@[simp] theorem State.wb_tbLatch (s : State) (a : Nat) (v : Byte) : (s.wb a v).tbLatch = s.tbLatch := rfl
@[simp] theorem State.wb_cmp (s : State) (a : Nat) (v : Byte) : (s.wb a v).cmp = s.cmp := rfl
@[simp] theorem State.wb_pulses (s : State) (a : Nat) (v : Byte) : (s.wb a v).pulses = s.pulses := rfl
@[simp] theorem State.wb_capt (s : State) (a : Nat) (v : Byte) : (s.wb a v).capt = s.capt := rfl
@[simp] theorem State.wb_rings (s : State) (a : Nat) (v : Byte) : (s.wb a v).rings = s.rings := rfl
@[simp] theorem State.wb_msgs (s : State) (a : Nat) (v : Byte) : (s.wb a v).msgs = s.msgs := rfl
@[simp] theorem State.wb_ibc (s : State) (a : Nat) (v : Byte) : (s.wb a v).ibc = s.ibc := rfl
@[simp] theorem State.wb_lodge (s : State) (a : Nat) (v : Byte) : (s.wb a v).lodge = s.lodge := rfl
@[simp] theorem State.wb_stg (s : State) (a : Nat) (v : Byte) : (s.wb a v).stg = s.stg := rfl
@[simp] theorem State.wb_car (s : State) (a : Nat) (v : Byte) : (s.wb a v).car = s.car := rfl
@[simp] theorem State.wb_fhTx (s : State) (a : Nat) (v : Byte) : (s.wb a v).fhTx = s.fhTx := rfl
@[simp] theorem State.wb_fhSeq (s : State) (a : Nat) (v : Byte) : (s.wb a v).fhSeq = s.fhSeq := rfl
@[simp] theorem State.wb_ldpcTbl (s : State) (a : Nat) (v : Byte) : (s.wb a v).ldpcTbl = s.ldpcTbl := rfl
@[simp] theorem State.wb_ldpcLoad (s : State) (a : Nat) (v : Byte) : (s.wb a v).ldpcLoad = s.ldpcLoad := rfl
@[simp] theorem State.wb_ldpcEng (s : State) (a : Nat) (v : Byte) : (s.wb a v).ldpcEng = s.ldpcEng := rfl
@[simp] theorem State.wb_crcJobs (s : State) (a : Nat) (v : Byte) : (s.wb a v).crcJobs = s.crcJobs := rfl
@[simp] theorem State.wb_grant (s : State) (a : Nat) (v : Byte) : (s.wb a v).grant = s.grant := rfl
@[simp] theorem State.wb_bq (s : State) (a : Nat) (v : Byte) : (s.wb a v).bq = s.bq := rfl
@[simp] theorem State.wb_strm (s : State) (a : Nat) (v : Byte) : (s.wb a v).strm = s.strm := rfl
@[simp] theorem State.wb_smp (s : State) (a : Nat) (v : Byte) : (s.wb a v).smp = s.smp := rfl
@[simp] theorem State.wb_innHalt (s : State) (a : Nat) (v : Byte) : (s.wb a v).innHalt = s.innHalt := rfl
@[simp] theorem State.wb_porterHalt (s : State) (a : Nat) (v : Byte) : (s.wb a v).porterHalt = s.porterHalt := rfl
@[simp] theorem State.wb_airIn (s : State) (a : Nat) (v : Byte) : (s.wb a v).airIn = s.airIn := rfl
@[simp] theorem State.wb_rdata (s : State) (a : Nat) (v : Byte) : (s.wb a v).rdata = s.rdata := rfl
@[simp] theorem State.wb_unlocked (s : State) (a : Nat) (v : Byte) : (s.wb a v).unlocked = s.unlocked := rfl
@[simp] theorem State.wb_ptpQ (s : State) (a : Nat) (v : Byte) : (s.wb a v).ptpQ = s.ptpQ := rfl
@[simp] theorem State.wb_masked (s : State) (a : Nat) (v : Byte) : (s.wb a v).masked = s.masked := rfl
@[simp] theorem State.wb_failed (s : State) (a : Nat) (v : Byte) : (s.wb a v).failed = s.failed := rfl
@[simp] theorem State.wb_answer (s : State) (a : Nat) (v : Byte) : (s.wb a v).answer = s.answer := rfl
@[simp] theorem State.wb_epochs (s : State) (a : Nat) (v : Byte) : (s.wb a v).epochs = s.epochs := rfl
@[simp] theorem State.wb_cover (s : State) (a : Nat) (v : Byte) : (s.wb a v).cover = s.cover := rfl
@[simp] theorem State.wb_links (s : State) (a : Nat) (v : Byte) : (s.wb a v).links = s.links := rfl
@[simp] theorem State.wb_wearHist (s : State) (a : Nat) (v : Byte) : (s.wb a v).wearHist = s.wearHist := rfl
@[simp] theorem State.wb_wearNext (s : State) (a : Nat) (v : Byte) : (s.wb a v).wearNext = s.wearNext := rfl
@[simp] theorem State.wb_wearN (s : State) (a : Nat) (v : Byte) : (s.wb a v).wearN = s.wearN := rfl
@[simp] theorem State.wb_repairs (s : State) (a : Nat) (v : Byte) : (s.wb a v).repairs = s.repairs := rfl
@[simp] theorem State.wb_tierFix (s : State) (a : Nat) (v : Byte) : (s.wb a v).tierFix = s.tierFix := rfl
@[simp] theorem State.wb_objMap (s : State) (a : Nat) (v : Byte) : (s.wb a v).objMap = s.objMap := rfl
@[simp] theorem State.wb_wearCnt (s : State) (a : Nat) (v : Byte) : (s.wb a v).wearCnt = s.wearCnt := rfl
@[simp] theorem State.wb_retired (s : State) (a : Nat) (v : Byte) : (s.wb a v).retired = s.retired := rfl
@[simp] theorem State.wb_wearDirty (s : State) (a : Nat) (v : Byte) : (s.wb a v).wearDirty = s.wearDirty := rfl
@[simp] theorem State.wb_wearAt (s : State) (a : Nat) (v : Byte) : (s.wb a v).wearAt = s.wearAt := rfl
@[simp] theorem State.wb_wearStep (s : State) (a : Nat) (v : Byte) : (s.wb a v).wearStep = s.wearStep := rfl
@[simp] theorem State.wb_wearMap (s : State) (a : Nat) (v : Byte) : (s.wb a v).wearMap = s.wearMap := rfl
@[simp] theorem State.wb_therm (s : State) (a : Nat) (v : Byte) : (s.wb a v).therm = s.therm := rfl
@[simp] theorem State.wb_wrec (s : State) (a : Nat) (v : Byte) : (s.wb a v).wrec = s.wrec := rfl
@[simp] theorem State.wb_fw (s : State) (a : Nat) (v : Byte) : (s.wb a v).fw = s.fw := rfl
@[simp] theorem State.wb_fwNew (s : State) (a : Nat) (v : Byte) : (s.wb a v).fwNew = s.fwNew := rfl
@[simp] theorem State.wb_flash (s : State) (a : Nat) (v : Byte) : (s.wb a v).flash = s.flash := rfl
@[simp] theorem State.wb_flashSize (s : State) (a : Nat) (v : Byte) : (s.wb a v).flashSize = s.flashSize := rfl
@[simp] theorem State.wb_flashOp (s : State) (a : Nat) (v : Byte) : (s.wb a v).flashOp = s.flashOp := rfl
@[simp] theorem State.wb_flashStat (s : State) (a : Nat) (v : Byte) : (s.wb a v).flashStat = s.flashStat := rfl
@[simp] theorem State.wb_fuses (s : State) (a : Nat) (v : Byte) : (s.wb a v).fuses = s.fuses := rfl
@[simp] theorem State.wb_boot (s : State) (a : Nat) (v : Byte) : (s.wb a v).boot = s.boot := rfl
@[simp] theorem State.wb_quoxel (s : State) (a : Nat) (v : Byte) : (s.wb a v).quoxel = s.quoxel := rfl
@[simp] theorem State.wb_trained (s : State) (a : Nat) (v : Byte) : (s.wb a v).trained = s.trained := rfl
@[simp] theorem State.wb_inReset (s : State) (a : Nat) (v : Byte) : (s.wb a v).inReset = s.inReset := rfl
@[simp] theorem State.wb_refLoss (s : State) (a : Nat) (v : Byte) : (s.wb a v).refLoss = s.refLoss := rfl
@[simp] theorem State.wb_pmbFail (s : State) (a : Nat) (v : Byte) : (s.wb a v).pmbFail = s.pmbFail := rfl
@[simp] theorem State.wb_dutyUp (s : State) (a : Nat) (v : Byte) : (s.wb a v).dutyUp = s.dutyUp := rfl
@[simp] theorem State.wb_sensors (s : State) (a : Nat) (v : Byte) : (s.wb a v).sensors = s.sensors := rfl
@[simp] theorem State.wb_mbData (s : State) (a : Nat) (v : Byte) : (s.wb a v).mbData = s.mbData := rfl
@[simp] theorem State.wb_mbStat (s : State) (a : Nat) (v : Byte) : (s.wb a v).mbStat = s.mbStat := rfl
@[simp] theorem State.wb_sess (s : State) (a : Nat) (v : Byte) : (s.wb a v).sess = s.sess := rfl
@[simp] theorem State.wb_attests (s : State) (a : Nat) (v : Byte) : (s.wb a v).attests = s.attests := rfl
@[simp] theorem State.wb_chal (s : State) (a : Nat) (v : Byte) : (s.wb a v).chal = s.chal := rfl
@[simp] theorem State.wb_dbgFails (s : State) (a : Nat) (v : Byte) : (s.wb a v).dbgFails = s.dbgFails := rfl
@[simp] theorem State.wb_dbgLock (s : State) (a : Nat) (v : Byte) : (s.wb a v).dbgLock = s.dbgLock := rfl
@[simp] theorem State.wb_sweepAt (s : State) (a : Nat) (v : Byte) : (s.wb a v).sweepAt = s.sweepAt := rfl
@[simp] theorem State.wb_ledgDue (s : State) (a : Nat) (v : Byte) : (s.wb a v).ledgDue = s.ledgDue := rfl
@[simp] theorem State.wb_ledgGap (s : State) (a : Nat) (v : Byte) : (s.wb a v).ledgGap = s.ledgGap := rfl
@[simp] theorem State.wb_cntLatch (s : State) (a : Nat) (v : Byte) : (s.wb a v).cntLatch = s.cntLatch := rfl
@[simp] theorem State.wb_cntPend (s : State) (a : Nat) (v : Byte) : (s.wb a v).cntPend = s.cntPend := rfl
@[simp] theorem State.wb_tapIr (s : State) (a : Nat) (v : Byte) : (s.wb a v).tapIr = s.tapIr := rfl
@[simp] theorem State.wb_bsr (s : State) (a : Nat) (v : Byte) : (s.wb a v).bsr = s.bsr := rfl
@[simp] theorem State.wb_dbgAcc (s : State) (a : Nat) (v : Byte) : (s.wb a v).dbgAcc = s.dbgAcc := rfl
@[simp] theorem State.wb_scrubAt (s : State) (a : Nat) (v : Byte) : (s.wb a v).scrubAt = s.scrubAt := rfl
@[simp] theorem State.wb_step2 (s : State) (a : Nat) (v : Byte) : (s.wb a v).step2 = s.step2 := rfl
@[simp] theorem State.zero_pending (s : State) (a n : Nat) : (s.zero a n).pending = s.pending := rfl
@[simp] theorem State.zero_cycle (s : State) (a n : Nat) : (s.zero a n).cycle = s.cycle := rfl
@[simp] theorem State.zero_free (s : State) (a n : Nat) : (s.zero a n).free = s.free := rfl
@[simp] theorem State.zero_regs (s : State) (a n : Nat) : (s.zero a n).regs = s.regs := rfl
@[simp] theorem State.zero_host (s : State) (a n : Nat) : (s.zero a n).host = s.host := rfl
@[simp] theorem State.zero_poison (s : State) (a n : Nat) : (s.zero a n).poison = s.poison := rfl
@[simp] theorem State.zero_tc (s : State) (a n : Nat) : (s.zero a n).tc = s.tc := rfl
@[simp] theorem State.zero_tags (s : State) (a n : Nat) : (s.zero a n).tags = s.tags := rfl
@[simp] theorem State.zero_bn (s : State) (a n : Nat) : (s.zero a n).bn = s.bn := rfl
@[simp] theorem State.zero_kv (s : State) (a n : Nat) : (s.zero a n).kv = s.kv := rfl
@[simp] theorem State.zero_kvMoves (s : State) (a n : Nat) : (s.zero a n).kvMoves = s.kvMoves := rfl
@[simp] theorem State.zero_kvq (s : State) (a n : Nat) : (s.zero a n).kvq = s.kvq := rfl
@[simp] theorem State.zero_kvXfer (s : State) (a n : Nat) : (s.zero a n).kvXfer = s.kvXfer := rfl
@[simp] theorem State.zero_kvRest (s : State) (a n : Nat) : (s.zero a n).kvRest = s.kvRest := rfl
@[simp] theorem State.zero_refillAt (s : State) (a n : Nat) : (s.zero a n).refillAt = s.refillAt := rfl
@[simp] theorem State.zero_due (s : State) (a n : Nat) : (s.zero a n).due = s.due := rfl
@[simp] theorem State.zero_rrAt (s : State) (a n : Nat) : (s.zero a n).rrAt = s.rrAt := rfl
@[simp] theorem State.zero_linkOps (s : State) (a n : Nat) : (s.zero a n).linkOps = s.linkOps := rfl
@[simp] theorem State.zero_linkTx (s : State) (a n : Nat) : (s.zero a n).linkTx = s.linkTx := rfl
@[simp] theorem State.zero_linkOpNo (s : State) (a n : Nat) : (s.zero a n).linkOpNo = s.linkOpNo := rfl
@[simp] theorem State.zero_linkSeq (s : State) (a n : Nat) : (s.zero a n).linkSeq = s.linkSeq := rfl
@[simp] theorem State.zero_linkFlit (s : State) (a n : Nat) : (s.zero a n).linkFlit = s.linkFlit := rfl
@[simp] theorem State.zero_landing (s : State) (a n : Nat) : (s.zero a n).landing = s.landing := rfl
@[simp] theorem State.zero_tb (s : State) (a n : Nat) : (s.zero a n).tb = s.tb := rfl
@[simp] theorem State.zero_tbLatch (s : State) (a n : Nat) : (s.zero a n).tbLatch = s.tbLatch := rfl
@[simp] theorem State.zero_cmp (s : State) (a n : Nat) : (s.zero a n).cmp = s.cmp := rfl
@[simp] theorem State.zero_pulses (s : State) (a n : Nat) : (s.zero a n).pulses = s.pulses := rfl
@[simp] theorem State.zero_capt (s : State) (a n : Nat) : (s.zero a n).capt = s.capt := rfl
@[simp] theorem State.zero_rings (s : State) (a n : Nat) : (s.zero a n).rings = s.rings := rfl
@[simp] theorem State.zero_msgs (s : State) (a n : Nat) : (s.zero a n).msgs = s.msgs := rfl
@[simp] theorem State.zero_ibc (s : State) (a n : Nat) : (s.zero a n).ibc = s.ibc := rfl
@[simp] theorem State.zero_lodge (s : State) (a n : Nat) : (s.zero a n).lodge = s.lodge := rfl
@[simp] theorem State.zero_stg (s : State) (a n : Nat) : (s.zero a n).stg = s.stg := rfl
@[simp] theorem State.zero_car (s : State) (a n : Nat) : (s.zero a n).car = s.car := rfl
@[simp] theorem State.zero_fhTx (s : State) (a n : Nat) : (s.zero a n).fhTx = s.fhTx := rfl
@[simp] theorem State.zero_fhSeq (s : State) (a n : Nat) : (s.zero a n).fhSeq = s.fhSeq := rfl
@[simp] theorem State.zero_ldpcTbl (s : State) (a n : Nat) : (s.zero a n).ldpcTbl = s.ldpcTbl := rfl
@[simp] theorem State.zero_ldpcLoad (s : State) (a n : Nat) : (s.zero a n).ldpcLoad = s.ldpcLoad := rfl
@[simp] theorem State.zero_ldpcEng (s : State) (a n : Nat) : (s.zero a n).ldpcEng = s.ldpcEng := rfl
@[simp] theorem State.zero_crcJobs (s : State) (a n : Nat) : (s.zero a n).crcJobs = s.crcJobs := rfl
@[simp] theorem State.zero_grant (s : State) (a n : Nat) : (s.zero a n).grant = s.grant := rfl
@[simp] theorem State.zero_bq (s : State) (a n : Nat) : (s.zero a n).bq = s.bq := rfl
@[simp] theorem State.zero_strm (s : State) (a n : Nat) : (s.zero a n).strm = s.strm := rfl
@[simp] theorem State.zero_smp (s : State) (a n : Nat) : (s.zero a n).smp = s.smp := rfl
@[simp] theorem State.zero_innHalt (s : State) (a n : Nat) : (s.zero a n).innHalt = s.innHalt := rfl
@[simp] theorem State.zero_porterHalt (s : State) (a n : Nat) : (s.zero a n).porterHalt = s.porterHalt := rfl
@[simp] theorem State.zero_airIn (s : State) (a n : Nat) : (s.zero a n).airIn = s.airIn := rfl
@[simp] theorem State.zero_rdata (s : State) (a n : Nat) : (s.zero a n).rdata = s.rdata := rfl
@[simp] theorem State.zero_unlocked (s : State) (a n : Nat) : (s.zero a n).unlocked = s.unlocked := rfl
@[simp] theorem State.zero_ptpQ (s : State) (a n : Nat) : (s.zero a n).ptpQ = s.ptpQ := rfl
@[simp] theorem State.zero_masked (s : State) (a n : Nat) : (s.zero a n).masked = s.masked := rfl
@[simp] theorem State.zero_failed (s : State) (a n : Nat) : (s.zero a n).failed = s.failed := rfl
@[simp] theorem State.zero_answer (s : State) (a n : Nat) : (s.zero a n).answer = s.answer := rfl
@[simp] theorem State.zero_epochs (s : State) (a n : Nat) : (s.zero a n).epochs = s.epochs := rfl
@[simp] theorem State.zero_cover (s : State) (a n : Nat) : (s.zero a n).cover = s.cover := rfl
@[simp] theorem State.zero_links (s : State) (a n : Nat) : (s.zero a n).links = s.links := rfl
@[simp] theorem State.zero_wearHist (s : State) (a n : Nat) : (s.zero a n).wearHist = s.wearHist := rfl
@[simp] theorem State.zero_wearNext (s : State) (a n : Nat) : (s.zero a n).wearNext = s.wearNext := rfl
@[simp] theorem State.zero_wearN (s : State) (a n : Nat) : (s.zero a n).wearN = s.wearN := rfl
@[simp] theorem State.zero_repairs (s : State) (a n : Nat) : (s.zero a n).repairs = s.repairs := rfl
@[simp] theorem State.zero_tierFix (s : State) (a n : Nat) : (s.zero a n).tierFix = s.tierFix := rfl
@[simp] theorem State.zero_objMap (s : State) (a n : Nat) : (s.zero a n).objMap = s.objMap := rfl
@[simp] theorem State.zero_wearCnt (s : State) (a n : Nat) : (s.zero a n).wearCnt = s.wearCnt := rfl
@[simp] theorem State.zero_retired (s : State) (a n : Nat) : (s.zero a n).retired = s.retired := rfl
@[simp] theorem State.zero_wearDirty (s : State) (a n : Nat) : (s.zero a n).wearDirty = s.wearDirty := rfl
@[simp] theorem State.zero_wearAt (s : State) (a n : Nat) : (s.zero a n).wearAt = s.wearAt := rfl
@[simp] theorem State.zero_wearStep (s : State) (a n : Nat) : (s.zero a n).wearStep = s.wearStep := rfl
@[simp] theorem State.zero_wearMap (s : State) (a n : Nat) : (s.zero a n).wearMap = s.wearMap := rfl
@[simp] theorem State.zero_therm (s : State) (a n : Nat) : (s.zero a n).therm = s.therm := rfl
@[simp] theorem State.zero_wrec (s : State) (a n : Nat) : (s.zero a n).wrec = s.wrec := rfl
@[simp] theorem State.zero_fw (s : State) (a n : Nat) : (s.zero a n).fw = s.fw := rfl
@[simp] theorem State.zero_fwNew (s : State) (a n : Nat) : (s.zero a n).fwNew = s.fwNew := rfl
@[simp] theorem State.zero_flash (s : State) (a n : Nat) : (s.zero a n).flash = s.flash := rfl
@[simp] theorem State.zero_flashSize (s : State) (a n : Nat) : (s.zero a n).flashSize = s.flashSize := rfl
@[simp] theorem State.zero_flashOp (s : State) (a n : Nat) : (s.zero a n).flashOp = s.flashOp := rfl
@[simp] theorem State.zero_flashStat (s : State) (a n : Nat) : (s.zero a n).flashStat = s.flashStat := rfl
@[simp] theorem State.zero_fuses (s : State) (a n : Nat) : (s.zero a n).fuses = s.fuses := rfl
@[simp] theorem State.zero_boot (s : State) (a n : Nat) : (s.zero a n).boot = s.boot := rfl
@[simp] theorem State.zero_quoxel (s : State) (a n : Nat) : (s.zero a n).quoxel = s.quoxel := rfl
@[simp] theorem State.zero_trained (s : State) (a n : Nat) : (s.zero a n).trained = s.trained := rfl
@[simp] theorem State.zero_inReset (s : State) (a n : Nat) : (s.zero a n).inReset = s.inReset := rfl
@[simp] theorem State.zero_refLoss (s : State) (a n : Nat) : (s.zero a n).refLoss = s.refLoss := rfl
@[simp] theorem State.zero_pmbFail (s : State) (a n : Nat) : (s.zero a n).pmbFail = s.pmbFail := rfl
@[simp] theorem State.zero_dutyUp (s : State) (a n : Nat) : (s.zero a n).dutyUp = s.dutyUp := rfl
@[simp] theorem State.zero_sensors (s : State) (a n : Nat) : (s.zero a n).sensors = s.sensors := rfl
@[simp] theorem State.zero_mbData (s : State) (a n : Nat) : (s.zero a n).mbData = s.mbData := rfl
@[simp] theorem State.zero_mbStat (s : State) (a n : Nat) : (s.zero a n).mbStat = s.mbStat := rfl
@[simp] theorem State.zero_sess (s : State) (a n : Nat) : (s.zero a n).sess = s.sess := rfl
@[simp] theorem State.zero_attests (s : State) (a n : Nat) : (s.zero a n).attests = s.attests := rfl
@[simp] theorem State.zero_chal (s : State) (a n : Nat) : (s.zero a n).chal = s.chal := rfl
@[simp] theorem State.zero_dbgFails (s : State) (a n : Nat) : (s.zero a n).dbgFails = s.dbgFails := rfl
@[simp] theorem State.zero_dbgLock (s : State) (a n : Nat) : (s.zero a n).dbgLock = s.dbgLock := rfl
@[simp] theorem State.zero_sweepAt (s : State) (a n : Nat) : (s.zero a n).sweepAt = s.sweepAt := rfl
@[simp] theorem State.zero_ledgDue (s : State) (a n : Nat) : (s.zero a n).ledgDue = s.ledgDue := rfl
@[simp] theorem State.zero_ledgGap (s : State) (a n : Nat) : (s.zero a n).ledgGap = s.ledgGap := rfl
@[simp] theorem State.zero_cntLatch (s : State) (a n : Nat) : (s.zero a n).cntLatch = s.cntLatch := rfl
@[simp] theorem State.zero_cntPend (s : State) (a n : Nat) : (s.zero a n).cntPend = s.cntPend := rfl
@[simp] theorem State.zero_tapIr (s : State) (a n : Nat) : (s.zero a n).tapIr = s.tapIr := rfl
@[simp] theorem State.zero_bsr (s : State) (a n : Nat) : (s.zero a n).bsr = s.bsr := rfl
@[simp] theorem State.zero_dbgAcc (s : State) (a n : Nat) : (s.zero a n).dbgAcc = s.dbgAcc := rfl
@[simp] theorem State.zero_scrubAt (s : State) (a n : Nat) : (s.zero a n).scrubAt = s.scrubAt := rfl
@[simp] theorem State.zero_step2 (s : State) (a n : Nat) : (s.zero a n).step2 = s.step2 := rfl
@[simp] theorem State.setTc_pending (s : State) (c : Nat) (f : Tc → Tc) : (s.setTc c f).pending = s.pending := rfl
@[simp] theorem State.setTc_cycle (s : State) (c : Nat) (f : Tc → Tc) : (s.setTc c f).cycle = s.cycle := rfl
@[simp] theorem State.setTc_free (s : State) (c : Nat) (f : Tc → Tc) : (s.setTc c f).free = s.free := rfl
@[simp] theorem State.setTc_regs (s : State) (c : Nat) (f : Tc → Tc) : (s.setTc c f).regs = s.regs := rfl
@[simp] theorem State.setTc_mem (s : State) (c : Nat) (f : Tc → Tc) : (s.setTc c f).mem = s.mem := rfl
@[simp] theorem State.setTc_host (s : State) (c : Nat) (f : Tc → Tc) : (s.setTc c f).host = s.host := rfl
@[simp] theorem State.setTc_poison (s : State) (c : Nat) (f : Tc → Tc) : (s.setTc c f).poison = s.poison := rfl
@[simp] theorem State.setTc_tags (s : State) (c : Nat) (f : Tc → Tc) : (s.setTc c f).tags = s.tags := rfl
@[simp] theorem State.setTc_bn (s : State) (c : Nat) (f : Tc → Tc) : (s.setTc c f).bn = s.bn := rfl
@[simp] theorem State.setTc_kv (s : State) (c : Nat) (f : Tc → Tc) : (s.setTc c f).kv = s.kv := rfl
@[simp] theorem State.setTc_kvMoves (s : State) (c : Nat) (f : Tc → Tc) : (s.setTc c f).kvMoves = s.kvMoves := rfl
@[simp] theorem State.setTc_kvq (s : State) (c : Nat) (f : Tc → Tc) : (s.setTc c f).kvq = s.kvq := rfl
@[simp] theorem State.setTc_kvXfer (s : State) (c : Nat) (f : Tc → Tc) : (s.setTc c f).kvXfer = s.kvXfer := rfl
@[simp] theorem State.setTc_kvRest (s : State) (c : Nat) (f : Tc → Tc) : (s.setTc c f).kvRest = s.kvRest := rfl
@[simp] theorem State.setTc_refillAt (s : State) (c : Nat) (f : Tc → Tc) : (s.setTc c f).refillAt = s.refillAt := rfl
@[simp] theorem State.setTc_due (s : State) (c : Nat) (f : Tc → Tc) : (s.setTc c f).due = s.due := rfl
@[simp] theorem State.setTc_rrAt (s : State) (c : Nat) (f : Tc → Tc) : (s.setTc c f).rrAt = s.rrAt := rfl
@[simp] theorem State.setTc_linkOps (s : State) (c : Nat) (f : Tc → Tc) : (s.setTc c f).linkOps = s.linkOps := rfl
@[simp] theorem State.setTc_linkTx (s : State) (c : Nat) (f : Tc → Tc) : (s.setTc c f).linkTx = s.linkTx := rfl
@[simp] theorem State.setTc_linkOpNo (s : State) (c : Nat) (f : Tc → Tc) : (s.setTc c f).linkOpNo = s.linkOpNo := rfl
@[simp] theorem State.setTc_linkSeq (s : State) (c : Nat) (f : Tc → Tc) : (s.setTc c f).linkSeq = s.linkSeq := rfl
@[simp] theorem State.setTc_linkFlit (s : State) (c : Nat) (f : Tc → Tc) : (s.setTc c f).linkFlit = s.linkFlit := rfl
@[simp] theorem State.setTc_landing (s : State) (c : Nat) (f : Tc → Tc) : (s.setTc c f).landing = s.landing := rfl
@[simp] theorem State.setTc_tb (s : State) (c : Nat) (f : Tc → Tc) : (s.setTc c f).tb = s.tb := rfl
@[simp] theorem State.setTc_tbLatch (s : State) (c : Nat) (f : Tc → Tc) : (s.setTc c f).tbLatch = s.tbLatch := rfl
@[simp] theorem State.setTc_cmp (s : State) (c : Nat) (f : Tc → Tc) : (s.setTc c f).cmp = s.cmp := rfl
@[simp] theorem State.setTc_pulses (s : State) (c : Nat) (f : Tc → Tc) : (s.setTc c f).pulses = s.pulses := rfl
@[simp] theorem State.setTc_capt (s : State) (c : Nat) (f : Tc → Tc) : (s.setTc c f).capt = s.capt := rfl
@[simp] theorem State.setTc_rings (s : State) (c : Nat) (f : Tc → Tc) : (s.setTc c f).rings = s.rings := rfl
@[simp] theorem State.setTc_msgs (s : State) (c : Nat) (f : Tc → Tc) : (s.setTc c f).msgs = s.msgs := rfl
@[simp] theorem State.setTc_ibc (s : State) (c : Nat) (f : Tc → Tc) : (s.setTc c f).ibc = s.ibc := rfl
@[simp] theorem State.setTc_lodge (s : State) (c : Nat) (f : Tc → Tc) : (s.setTc c f).lodge = s.lodge := rfl
@[simp] theorem State.setTc_stg (s : State) (c : Nat) (f : Tc → Tc) : (s.setTc c f).stg = s.stg := rfl
@[simp] theorem State.setTc_car (s : State) (c : Nat) (f : Tc → Tc) : (s.setTc c f).car = s.car := rfl
@[simp] theorem State.setTc_fhTx (s : State) (c : Nat) (f : Tc → Tc) : (s.setTc c f).fhTx = s.fhTx := rfl
@[simp] theorem State.setTc_fhSeq (s : State) (c : Nat) (f : Tc → Tc) : (s.setTc c f).fhSeq = s.fhSeq := rfl
@[simp] theorem State.setTc_ldpcTbl (s : State) (c : Nat) (f : Tc → Tc) : (s.setTc c f).ldpcTbl = s.ldpcTbl := rfl
@[simp] theorem State.setTc_ldpcLoad (s : State) (c : Nat) (f : Tc → Tc) : (s.setTc c f).ldpcLoad = s.ldpcLoad := rfl
@[simp] theorem State.setTc_ldpcEng (s : State) (c : Nat) (f : Tc → Tc) : (s.setTc c f).ldpcEng = s.ldpcEng := rfl
@[simp] theorem State.setTc_crcJobs (s : State) (c : Nat) (f : Tc → Tc) : (s.setTc c f).crcJobs = s.crcJobs := rfl
@[simp] theorem State.setTc_grant (s : State) (c : Nat) (f : Tc → Tc) : (s.setTc c f).grant = s.grant := rfl
@[simp] theorem State.setTc_bq (s : State) (c : Nat) (f : Tc → Tc) : (s.setTc c f).bq = s.bq := rfl
@[simp] theorem State.setTc_strm (s : State) (c : Nat) (f : Tc → Tc) : (s.setTc c f).strm = s.strm := rfl
@[simp] theorem State.setTc_smp (s : State) (c : Nat) (f : Tc → Tc) : (s.setTc c f).smp = s.smp := rfl
@[simp] theorem State.setTc_innHalt (s : State) (c : Nat) (f : Tc → Tc) : (s.setTc c f).innHalt = s.innHalt := rfl
@[simp] theorem State.setTc_porterHalt (s : State) (c : Nat) (f : Tc → Tc) : (s.setTc c f).porterHalt = s.porterHalt := rfl
@[simp] theorem State.setTc_airIn (s : State) (c : Nat) (f : Tc → Tc) : (s.setTc c f).airIn = s.airIn := rfl
@[simp] theorem State.setTc_rdata (s : State) (c : Nat) (f : Tc → Tc) : (s.setTc c f).rdata = s.rdata := rfl
@[simp] theorem State.setTc_unlocked (s : State) (c : Nat) (f : Tc → Tc) : (s.setTc c f).unlocked = s.unlocked := rfl
@[simp] theorem State.setTc_ptpQ (s : State) (c : Nat) (f : Tc → Tc) : (s.setTc c f).ptpQ = s.ptpQ := rfl
@[simp] theorem State.setTc_masked (s : State) (c : Nat) (f : Tc → Tc) : (s.setTc c f).masked = s.masked := rfl
@[simp] theorem State.setTc_failed (s : State) (c : Nat) (f : Tc → Tc) : (s.setTc c f).failed = s.failed := rfl
@[simp] theorem State.setTc_answer (s : State) (c : Nat) (f : Tc → Tc) : (s.setTc c f).answer = s.answer := rfl
@[simp] theorem State.setTc_epochs (s : State) (c : Nat) (f : Tc → Tc) : (s.setTc c f).epochs = s.epochs := rfl
@[simp] theorem State.setTc_cover (s : State) (c : Nat) (f : Tc → Tc) : (s.setTc c f).cover = s.cover := rfl
@[simp] theorem State.setTc_links (s : State) (c : Nat) (f : Tc → Tc) : (s.setTc c f).links = s.links := rfl
@[simp] theorem State.setTc_wearHist (s : State) (c : Nat) (f : Tc → Tc) : (s.setTc c f).wearHist = s.wearHist := rfl
@[simp] theorem State.setTc_wearNext (s : State) (c : Nat) (f : Tc → Tc) : (s.setTc c f).wearNext = s.wearNext := rfl
@[simp] theorem State.setTc_wearN (s : State) (c : Nat) (f : Tc → Tc) : (s.setTc c f).wearN = s.wearN := rfl
@[simp] theorem State.setTc_repairs (s : State) (c : Nat) (f : Tc → Tc) : (s.setTc c f).repairs = s.repairs := rfl
@[simp] theorem State.setTc_tierFix (s : State) (c : Nat) (f : Tc → Tc) : (s.setTc c f).tierFix = s.tierFix := rfl
@[simp] theorem State.setTc_objMap (s : State) (c : Nat) (f : Tc → Tc) : (s.setTc c f).objMap = s.objMap := rfl
@[simp] theorem State.setTc_wearCnt (s : State) (c : Nat) (f : Tc → Tc) : (s.setTc c f).wearCnt = s.wearCnt := rfl
@[simp] theorem State.setTc_retired (s : State) (c : Nat) (f : Tc → Tc) : (s.setTc c f).retired = s.retired := rfl
@[simp] theorem State.setTc_wearDirty (s : State) (c : Nat) (f : Tc → Tc) : (s.setTc c f).wearDirty = s.wearDirty := rfl
@[simp] theorem State.setTc_wearAt (s : State) (c : Nat) (f : Tc → Tc) : (s.setTc c f).wearAt = s.wearAt := rfl
@[simp] theorem State.setTc_wearStep (s : State) (c : Nat) (f : Tc → Tc) : (s.setTc c f).wearStep = s.wearStep := rfl
@[simp] theorem State.setTc_wearMap (s : State) (c : Nat) (f : Tc → Tc) : (s.setTc c f).wearMap = s.wearMap := rfl
@[simp] theorem State.setTc_therm (s : State) (c : Nat) (f : Tc → Tc) : (s.setTc c f).therm = s.therm := rfl
@[simp] theorem State.setTc_wrec (s : State) (c : Nat) (f : Tc → Tc) : (s.setTc c f).wrec = s.wrec := rfl
@[simp] theorem State.setTc_fw (s : State) (c : Nat) (f : Tc → Tc) : (s.setTc c f).fw = s.fw := rfl
@[simp] theorem State.setTc_fwNew (s : State) (c : Nat) (f : Tc → Tc) : (s.setTc c f).fwNew = s.fwNew := rfl
@[simp] theorem State.setTc_flash (s : State) (c : Nat) (f : Tc → Tc) : (s.setTc c f).flash = s.flash := rfl
@[simp] theorem State.setTc_flashSize (s : State) (c : Nat) (f : Tc → Tc) : (s.setTc c f).flashSize = s.flashSize := rfl
@[simp] theorem State.setTc_flashOp (s : State) (c : Nat) (f : Tc → Tc) : (s.setTc c f).flashOp = s.flashOp := rfl
@[simp] theorem State.setTc_flashStat (s : State) (c : Nat) (f : Tc → Tc) : (s.setTc c f).flashStat = s.flashStat := rfl
@[simp] theorem State.setTc_fuses (s : State) (c : Nat) (f : Tc → Tc) : (s.setTc c f).fuses = s.fuses := rfl
@[simp] theorem State.setTc_boot (s : State) (c : Nat) (f : Tc → Tc) : (s.setTc c f).boot = s.boot := rfl
@[simp] theorem State.setTc_quoxel (s : State) (c : Nat) (f : Tc → Tc) : (s.setTc c f).quoxel = s.quoxel := rfl
@[simp] theorem State.setTc_trained (s : State) (c : Nat) (f : Tc → Tc) : (s.setTc c f).trained = s.trained := rfl
@[simp] theorem State.setTc_inReset (s : State) (c : Nat) (f : Tc → Tc) : (s.setTc c f).inReset = s.inReset := rfl
@[simp] theorem State.setTc_refLoss (s : State) (c : Nat) (f : Tc → Tc) : (s.setTc c f).refLoss = s.refLoss := rfl
@[simp] theorem State.setTc_pmbFail (s : State) (c : Nat) (f : Tc → Tc) : (s.setTc c f).pmbFail = s.pmbFail := rfl
@[simp] theorem State.setTc_dutyUp (s : State) (c : Nat) (f : Tc → Tc) : (s.setTc c f).dutyUp = s.dutyUp := rfl
@[simp] theorem State.setTc_sensors (s : State) (c : Nat) (f : Tc → Tc) : (s.setTc c f).sensors = s.sensors := rfl
@[simp] theorem State.setTc_mbData (s : State) (c : Nat) (f : Tc → Tc) : (s.setTc c f).mbData = s.mbData := rfl
@[simp] theorem State.setTc_mbStat (s : State) (c : Nat) (f : Tc → Tc) : (s.setTc c f).mbStat = s.mbStat := rfl
@[simp] theorem State.setTc_sess (s : State) (c : Nat) (f : Tc → Tc) : (s.setTc c f).sess = s.sess := rfl
@[simp] theorem State.setTc_attests (s : State) (c : Nat) (f : Tc → Tc) : (s.setTc c f).attests = s.attests := rfl
@[simp] theorem State.setTc_chal (s : State) (c : Nat) (f : Tc → Tc) : (s.setTc c f).chal = s.chal := rfl
@[simp] theorem State.setTc_dbgFails (s : State) (c : Nat) (f : Tc → Tc) : (s.setTc c f).dbgFails = s.dbgFails := rfl
@[simp] theorem State.setTc_dbgLock (s : State) (c : Nat) (f : Tc → Tc) : (s.setTc c f).dbgLock = s.dbgLock := rfl
@[simp] theorem State.setTc_sweepAt (s : State) (c : Nat) (f : Tc → Tc) : (s.setTc c f).sweepAt = s.sweepAt := rfl
@[simp] theorem State.setTc_ledgDue (s : State) (c : Nat) (f : Tc → Tc) : (s.setTc c f).ledgDue = s.ledgDue := rfl
@[simp] theorem State.setTc_ledgGap (s : State) (c : Nat) (f : Tc → Tc) : (s.setTc c f).ledgGap = s.ledgGap := rfl
@[simp] theorem State.setTc_cntLatch (s : State) (c : Nat) (f : Tc → Tc) : (s.setTc c f).cntLatch = s.cntLatch := rfl
@[simp] theorem State.setTc_cntPend (s : State) (c : Nat) (f : Tc → Tc) : (s.setTc c f).cntPend = s.cntPend := rfl
@[simp] theorem State.setTc_tapIr (s : State) (c : Nat) (f : Tc → Tc) : (s.setTc c f).tapIr = s.tapIr := rfl
@[simp] theorem State.setTc_bsr (s : State) (c : Nat) (f : Tc → Tc) : (s.setTc c f).bsr = s.bsr := rfl
@[simp] theorem State.setTc_dbgAcc (s : State) (c : Nat) (f : Tc → Tc) : (s.setTc c f).dbgAcc = s.dbgAcc := rfl
@[simp] theorem State.setTc_scrubAt (s : State) (c : Nat) (f : Tc → Tc) : (s.setTc c f).scrubAt = s.scrubAt := rfl
@[simp] theorem State.setTc_step2 (s : State) (c : Nat) (f : Tc → Tc) : (s.setTc c f).step2 = s.step2 := rfl
@[simp] theorem State.setSlot_pending (s : State) (c p : Nat) (sl : Slot) (f : TcSlot → TcSlot) : (s.setSlot c p sl f).pending = s.pending := rfl
@[simp] theorem State.setSlot_cycle (s : State) (c p : Nat) (sl : Slot) (f : TcSlot → TcSlot) : (s.setSlot c p sl f).cycle = s.cycle := rfl
@[simp] theorem State.setSlot_free (s : State) (c p : Nat) (sl : Slot) (f : TcSlot → TcSlot) : (s.setSlot c p sl f).free = s.free := rfl
@[simp] theorem State.setSlot_regs (s : State) (c p : Nat) (sl : Slot) (f : TcSlot → TcSlot) : (s.setSlot c p sl f).regs = s.regs := rfl
@[simp] theorem State.setSlot_mem (s : State) (c p : Nat) (sl : Slot) (f : TcSlot → TcSlot) : (s.setSlot c p sl f).mem = s.mem := rfl
@[simp] theorem State.setSlot_host (s : State) (c p : Nat) (sl : Slot) (f : TcSlot → TcSlot) : (s.setSlot c p sl f).host = s.host := rfl
@[simp] theorem State.setSlot_poison (s : State) (c p : Nat) (sl : Slot) (f : TcSlot → TcSlot) : (s.setSlot c p sl f).poison = s.poison := rfl
@[simp] theorem State.setSlot_tags (s : State) (c p : Nat) (sl : Slot) (f : TcSlot → TcSlot) : (s.setSlot c p sl f).tags = s.tags := rfl
@[simp] theorem State.setSlot_bn (s : State) (c p : Nat) (sl : Slot) (f : TcSlot → TcSlot) : (s.setSlot c p sl f).bn = s.bn := rfl
@[simp] theorem State.setSlot_kv (s : State) (c p : Nat) (sl : Slot) (f : TcSlot → TcSlot) : (s.setSlot c p sl f).kv = s.kv := rfl
@[simp] theorem State.setSlot_kvMoves (s : State) (c p : Nat) (sl : Slot) (f : TcSlot → TcSlot) : (s.setSlot c p sl f).kvMoves = s.kvMoves := rfl
@[simp] theorem State.setSlot_kvq (s : State) (c p : Nat) (sl : Slot) (f : TcSlot → TcSlot) : (s.setSlot c p sl f).kvq = s.kvq := rfl
@[simp] theorem State.setSlot_kvXfer (s : State) (c p : Nat) (sl : Slot) (f : TcSlot → TcSlot) : (s.setSlot c p sl f).kvXfer = s.kvXfer := rfl
@[simp] theorem State.setSlot_kvRest (s : State) (c p : Nat) (sl : Slot) (f : TcSlot → TcSlot) : (s.setSlot c p sl f).kvRest = s.kvRest := rfl
@[simp] theorem State.setSlot_refillAt (s : State) (c p : Nat) (sl : Slot) (f : TcSlot → TcSlot) : (s.setSlot c p sl f).refillAt = s.refillAt := rfl
@[simp] theorem State.setSlot_due (s : State) (c p : Nat) (sl : Slot) (f : TcSlot → TcSlot) : (s.setSlot c p sl f).due = s.due := rfl
@[simp] theorem State.setSlot_rrAt (s : State) (c p : Nat) (sl : Slot) (f : TcSlot → TcSlot) : (s.setSlot c p sl f).rrAt = s.rrAt := rfl
@[simp] theorem State.setSlot_linkOps (s : State) (c p : Nat) (sl : Slot) (f : TcSlot → TcSlot) : (s.setSlot c p sl f).linkOps = s.linkOps := rfl
@[simp] theorem State.setSlot_linkTx (s : State) (c p : Nat) (sl : Slot) (f : TcSlot → TcSlot) : (s.setSlot c p sl f).linkTx = s.linkTx := rfl
@[simp] theorem State.setSlot_linkOpNo (s : State) (c p : Nat) (sl : Slot) (f : TcSlot → TcSlot) : (s.setSlot c p sl f).linkOpNo = s.linkOpNo := rfl
@[simp] theorem State.setSlot_linkSeq (s : State) (c p : Nat) (sl : Slot) (f : TcSlot → TcSlot) : (s.setSlot c p sl f).linkSeq = s.linkSeq := rfl
@[simp] theorem State.setSlot_linkFlit (s : State) (c p : Nat) (sl : Slot) (f : TcSlot → TcSlot) : (s.setSlot c p sl f).linkFlit = s.linkFlit := rfl
@[simp] theorem State.setSlot_landing (s : State) (c p : Nat) (sl : Slot) (f : TcSlot → TcSlot) : (s.setSlot c p sl f).landing = s.landing := rfl
@[simp] theorem State.setSlot_tb (s : State) (c p : Nat) (sl : Slot) (f : TcSlot → TcSlot) : (s.setSlot c p sl f).tb = s.tb := rfl
@[simp] theorem State.setSlot_tbLatch (s : State) (c p : Nat) (sl : Slot) (f : TcSlot → TcSlot) : (s.setSlot c p sl f).tbLatch = s.tbLatch := rfl
@[simp] theorem State.setSlot_cmp (s : State) (c p : Nat) (sl : Slot) (f : TcSlot → TcSlot) : (s.setSlot c p sl f).cmp = s.cmp := rfl
@[simp] theorem State.setSlot_pulses (s : State) (c p : Nat) (sl : Slot) (f : TcSlot → TcSlot) : (s.setSlot c p sl f).pulses = s.pulses := rfl
@[simp] theorem State.setSlot_capt (s : State) (c p : Nat) (sl : Slot) (f : TcSlot → TcSlot) : (s.setSlot c p sl f).capt = s.capt := rfl
@[simp] theorem State.setSlot_rings (s : State) (c p : Nat) (sl : Slot) (f : TcSlot → TcSlot) : (s.setSlot c p sl f).rings = s.rings := rfl
@[simp] theorem State.setSlot_msgs (s : State) (c p : Nat) (sl : Slot) (f : TcSlot → TcSlot) : (s.setSlot c p sl f).msgs = s.msgs := rfl
@[simp] theorem State.setSlot_ibc (s : State) (c p : Nat) (sl : Slot) (f : TcSlot → TcSlot) : (s.setSlot c p sl f).ibc = s.ibc := rfl
@[simp] theorem State.setSlot_lodge (s : State) (c p : Nat) (sl : Slot) (f : TcSlot → TcSlot) : (s.setSlot c p sl f).lodge = s.lodge := rfl
@[simp] theorem State.setSlot_stg (s : State) (c p : Nat) (sl : Slot) (f : TcSlot → TcSlot) : (s.setSlot c p sl f).stg = s.stg := rfl
@[simp] theorem State.setSlot_car (s : State) (c p : Nat) (sl : Slot) (f : TcSlot → TcSlot) : (s.setSlot c p sl f).car = s.car := rfl
@[simp] theorem State.setSlot_fhTx (s : State) (c p : Nat) (sl : Slot) (f : TcSlot → TcSlot) : (s.setSlot c p sl f).fhTx = s.fhTx := rfl
@[simp] theorem State.setSlot_fhSeq (s : State) (c p : Nat) (sl : Slot) (f : TcSlot → TcSlot) : (s.setSlot c p sl f).fhSeq = s.fhSeq := rfl
@[simp] theorem State.setSlot_ldpcTbl (s : State) (c p : Nat) (sl : Slot) (f : TcSlot → TcSlot) : (s.setSlot c p sl f).ldpcTbl = s.ldpcTbl := rfl
@[simp] theorem State.setSlot_ldpcLoad (s : State) (c p : Nat) (sl : Slot) (f : TcSlot → TcSlot) : (s.setSlot c p sl f).ldpcLoad = s.ldpcLoad := rfl
@[simp] theorem State.setSlot_ldpcEng (s : State) (c p : Nat) (sl : Slot) (f : TcSlot → TcSlot) : (s.setSlot c p sl f).ldpcEng = s.ldpcEng := rfl
@[simp] theorem State.setSlot_crcJobs (s : State) (c p : Nat) (sl : Slot) (f : TcSlot → TcSlot) : (s.setSlot c p sl f).crcJobs = s.crcJobs := rfl
@[simp] theorem State.setSlot_grant (s : State) (c p : Nat) (sl : Slot) (f : TcSlot → TcSlot) : (s.setSlot c p sl f).grant = s.grant := rfl
@[simp] theorem State.setSlot_bq (s : State) (c p : Nat) (sl : Slot) (f : TcSlot → TcSlot) : (s.setSlot c p sl f).bq = s.bq := rfl
@[simp] theorem State.setSlot_strm (s : State) (c p : Nat) (sl : Slot) (f : TcSlot → TcSlot) : (s.setSlot c p sl f).strm = s.strm := rfl
@[simp] theorem State.setSlot_smp (s : State) (c p : Nat) (sl : Slot) (f : TcSlot → TcSlot) : (s.setSlot c p sl f).smp = s.smp := rfl
@[simp] theorem State.setSlot_innHalt (s : State) (c p : Nat) (sl : Slot) (f : TcSlot → TcSlot) : (s.setSlot c p sl f).innHalt = s.innHalt := rfl
@[simp] theorem State.setSlot_porterHalt (s : State) (c p : Nat) (sl : Slot) (f : TcSlot → TcSlot) : (s.setSlot c p sl f).porterHalt = s.porterHalt := rfl
@[simp] theorem State.setSlot_airIn (s : State) (c p : Nat) (sl : Slot) (f : TcSlot → TcSlot) : (s.setSlot c p sl f).airIn = s.airIn := rfl
@[simp] theorem State.setSlot_rdata (s : State) (c p : Nat) (sl : Slot) (f : TcSlot → TcSlot) : (s.setSlot c p sl f).rdata = s.rdata := rfl
@[simp] theorem State.setSlot_unlocked (s : State) (c p : Nat) (sl : Slot) (f : TcSlot → TcSlot) : (s.setSlot c p sl f).unlocked = s.unlocked := rfl
@[simp] theorem State.setSlot_ptpQ (s : State) (c p : Nat) (sl : Slot) (f : TcSlot → TcSlot) : (s.setSlot c p sl f).ptpQ = s.ptpQ := rfl
@[simp] theorem State.setSlot_masked (s : State) (c p : Nat) (sl : Slot) (f : TcSlot → TcSlot) : (s.setSlot c p sl f).masked = s.masked := rfl
@[simp] theorem State.setSlot_failed (s : State) (c p : Nat) (sl : Slot) (f : TcSlot → TcSlot) : (s.setSlot c p sl f).failed = s.failed := rfl
@[simp] theorem State.setSlot_answer (s : State) (c p : Nat) (sl : Slot) (f : TcSlot → TcSlot) : (s.setSlot c p sl f).answer = s.answer := rfl
@[simp] theorem State.setSlot_epochs (s : State) (c p : Nat) (sl : Slot) (f : TcSlot → TcSlot) : (s.setSlot c p sl f).epochs = s.epochs := rfl
@[simp] theorem State.setSlot_cover (s : State) (c p : Nat) (sl : Slot) (f : TcSlot → TcSlot) : (s.setSlot c p sl f).cover = s.cover := rfl
@[simp] theorem State.setSlot_links (s : State) (c p : Nat) (sl : Slot) (f : TcSlot → TcSlot) : (s.setSlot c p sl f).links = s.links := rfl
@[simp] theorem State.setSlot_wearHist (s : State) (c p : Nat) (sl : Slot) (f : TcSlot → TcSlot) : (s.setSlot c p sl f).wearHist = s.wearHist := rfl
@[simp] theorem State.setSlot_wearNext (s : State) (c p : Nat) (sl : Slot) (f : TcSlot → TcSlot) : (s.setSlot c p sl f).wearNext = s.wearNext := rfl
@[simp] theorem State.setSlot_wearN (s : State) (c p : Nat) (sl : Slot) (f : TcSlot → TcSlot) : (s.setSlot c p sl f).wearN = s.wearN := rfl
@[simp] theorem State.setSlot_repairs (s : State) (c p : Nat) (sl : Slot) (f : TcSlot → TcSlot) : (s.setSlot c p sl f).repairs = s.repairs := rfl
@[simp] theorem State.setSlot_tierFix (s : State) (c p : Nat) (sl : Slot) (f : TcSlot → TcSlot) : (s.setSlot c p sl f).tierFix = s.tierFix := rfl
@[simp] theorem State.setSlot_objMap (s : State) (c p : Nat) (sl : Slot) (f : TcSlot → TcSlot) : (s.setSlot c p sl f).objMap = s.objMap := rfl
@[simp] theorem State.setSlot_wearCnt (s : State) (c p : Nat) (sl : Slot) (f : TcSlot → TcSlot) : (s.setSlot c p sl f).wearCnt = s.wearCnt := rfl
@[simp] theorem State.setSlot_retired (s : State) (c p : Nat) (sl : Slot) (f : TcSlot → TcSlot) : (s.setSlot c p sl f).retired = s.retired := rfl
@[simp] theorem State.setSlot_wearDirty (s : State) (c p : Nat) (sl : Slot) (f : TcSlot → TcSlot) : (s.setSlot c p sl f).wearDirty = s.wearDirty := rfl
@[simp] theorem State.setSlot_wearAt (s : State) (c p : Nat) (sl : Slot) (f : TcSlot → TcSlot) : (s.setSlot c p sl f).wearAt = s.wearAt := rfl
@[simp] theorem State.setSlot_wearStep (s : State) (c p : Nat) (sl : Slot) (f : TcSlot → TcSlot) : (s.setSlot c p sl f).wearStep = s.wearStep := rfl
@[simp] theorem State.setSlot_wearMap (s : State) (c p : Nat) (sl : Slot) (f : TcSlot → TcSlot) : (s.setSlot c p sl f).wearMap = s.wearMap := rfl
@[simp] theorem State.setSlot_therm (s : State) (c p : Nat) (sl : Slot) (f : TcSlot → TcSlot) : (s.setSlot c p sl f).therm = s.therm := rfl
@[simp] theorem State.setSlot_wrec (s : State) (c p : Nat) (sl : Slot) (f : TcSlot → TcSlot) : (s.setSlot c p sl f).wrec = s.wrec := rfl
@[simp] theorem State.setSlot_fw (s : State) (c p : Nat) (sl : Slot) (f : TcSlot → TcSlot) : (s.setSlot c p sl f).fw = s.fw := rfl
@[simp] theorem State.setSlot_fwNew (s : State) (c p : Nat) (sl : Slot) (f : TcSlot → TcSlot) : (s.setSlot c p sl f).fwNew = s.fwNew := rfl
@[simp] theorem State.setSlot_flash (s : State) (c p : Nat) (sl : Slot) (f : TcSlot → TcSlot) : (s.setSlot c p sl f).flash = s.flash := rfl
@[simp] theorem State.setSlot_flashSize (s : State) (c p : Nat) (sl : Slot) (f : TcSlot → TcSlot) : (s.setSlot c p sl f).flashSize = s.flashSize := rfl
@[simp] theorem State.setSlot_flashOp (s : State) (c p : Nat) (sl : Slot) (f : TcSlot → TcSlot) : (s.setSlot c p sl f).flashOp = s.flashOp := rfl
@[simp] theorem State.setSlot_flashStat (s : State) (c p : Nat) (sl : Slot) (f : TcSlot → TcSlot) : (s.setSlot c p sl f).flashStat = s.flashStat := rfl
@[simp] theorem State.setSlot_fuses (s : State) (c p : Nat) (sl : Slot) (f : TcSlot → TcSlot) : (s.setSlot c p sl f).fuses = s.fuses := rfl
@[simp] theorem State.setSlot_boot (s : State) (c p : Nat) (sl : Slot) (f : TcSlot → TcSlot) : (s.setSlot c p sl f).boot = s.boot := rfl
@[simp] theorem State.setSlot_quoxel (s : State) (c p : Nat) (sl : Slot) (f : TcSlot → TcSlot) : (s.setSlot c p sl f).quoxel = s.quoxel := rfl
@[simp] theorem State.setSlot_trained (s : State) (c p : Nat) (sl : Slot) (f : TcSlot → TcSlot) : (s.setSlot c p sl f).trained = s.trained := rfl
@[simp] theorem State.setSlot_inReset (s : State) (c p : Nat) (sl : Slot) (f : TcSlot → TcSlot) : (s.setSlot c p sl f).inReset = s.inReset := rfl
@[simp] theorem State.setSlot_refLoss (s : State) (c p : Nat) (sl : Slot) (f : TcSlot → TcSlot) : (s.setSlot c p sl f).refLoss = s.refLoss := rfl
@[simp] theorem State.setSlot_pmbFail (s : State) (c p : Nat) (sl : Slot) (f : TcSlot → TcSlot) : (s.setSlot c p sl f).pmbFail = s.pmbFail := rfl
@[simp] theorem State.setSlot_dutyUp (s : State) (c p : Nat) (sl : Slot) (f : TcSlot → TcSlot) : (s.setSlot c p sl f).dutyUp = s.dutyUp := rfl
@[simp] theorem State.setSlot_sensors (s : State) (c p : Nat) (sl : Slot) (f : TcSlot → TcSlot) : (s.setSlot c p sl f).sensors = s.sensors := rfl
@[simp] theorem State.setSlot_mbData (s : State) (c p : Nat) (sl : Slot) (f : TcSlot → TcSlot) : (s.setSlot c p sl f).mbData = s.mbData := rfl
@[simp] theorem State.setSlot_mbStat (s : State) (c p : Nat) (sl : Slot) (f : TcSlot → TcSlot) : (s.setSlot c p sl f).mbStat = s.mbStat := rfl
@[simp] theorem State.setSlot_sess (s : State) (c p : Nat) (sl : Slot) (f : TcSlot → TcSlot) : (s.setSlot c p sl f).sess = s.sess := rfl
@[simp] theorem State.setSlot_attests (s : State) (c p : Nat) (sl : Slot) (f : TcSlot → TcSlot) : (s.setSlot c p sl f).attests = s.attests := rfl
@[simp] theorem State.setSlot_chal (s : State) (c p : Nat) (sl : Slot) (f : TcSlot → TcSlot) : (s.setSlot c p sl f).chal = s.chal := rfl
@[simp] theorem State.setSlot_dbgFails (s : State) (c p : Nat) (sl : Slot) (f : TcSlot → TcSlot) : (s.setSlot c p sl f).dbgFails = s.dbgFails := rfl
@[simp] theorem State.setSlot_dbgLock (s : State) (c p : Nat) (sl : Slot) (f : TcSlot → TcSlot) : (s.setSlot c p sl f).dbgLock = s.dbgLock := rfl
@[simp] theorem State.setSlot_sweepAt (s : State) (c p : Nat) (sl : Slot) (f : TcSlot → TcSlot) : (s.setSlot c p sl f).sweepAt = s.sweepAt := rfl
@[simp] theorem State.setSlot_ledgDue (s : State) (c p : Nat) (sl : Slot) (f : TcSlot → TcSlot) : (s.setSlot c p sl f).ledgDue = s.ledgDue := rfl
@[simp] theorem State.setSlot_ledgGap (s : State) (c p : Nat) (sl : Slot) (f : TcSlot → TcSlot) : (s.setSlot c p sl f).ledgGap = s.ledgGap := rfl
@[simp] theorem State.setSlot_cntLatch (s : State) (c p : Nat) (sl : Slot) (f : TcSlot → TcSlot) : (s.setSlot c p sl f).cntLatch = s.cntLatch := rfl
@[simp] theorem State.setSlot_cntPend (s : State) (c p : Nat) (sl : Slot) (f : TcSlot → TcSlot) : (s.setSlot c p sl f).cntPend = s.cntPend := rfl
@[simp] theorem State.setSlot_tapIr (s : State) (c p : Nat) (sl : Slot) (f : TcSlot → TcSlot) : (s.setSlot c p sl f).tapIr = s.tapIr := rfl
@[simp] theorem State.setSlot_bsr (s : State) (c p : Nat) (sl : Slot) (f : TcSlot → TcSlot) : (s.setSlot c p sl f).bsr = s.bsr := rfl
@[simp] theorem State.setSlot_dbgAcc (s : State) (c p : Nat) (sl : Slot) (f : TcSlot → TcSlot) : (s.setSlot c p sl f).dbgAcc = s.dbgAcc := rfl
@[simp] theorem State.setSlot_scrubAt (s : State) (c p : Nat) (sl : Slot) (f : TcSlot → TcSlot) : (s.setSlot c p sl f).scrubAt = s.scrubAt := rfl
@[simp] theorem State.setSlot_step2 (s : State) (c p : Nat) (sl : Slot) (f : TcSlot → TcSlot) : (s.setSlot c p sl f).step2 = s.step2 := rfl
@[simp] theorem State.setIbc_pending (s : State) (n : Nat) (f : Ibc → Ibc) : (s.setIbc n f).pending = s.pending := rfl
@[simp] theorem State.setIbc_cycle (s : State) (n : Nat) (f : Ibc → Ibc) : (s.setIbc n f).cycle = s.cycle := rfl
@[simp] theorem State.setIbc_free (s : State) (n : Nat) (f : Ibc → Ibc) : (s.setIbc n f).free = s.free := rfl
@[simp] theorem State.setIbc_regs (s : State) (n : Nat) (f : Ibc → Ibc) : (s.setIbc n f).regs = s.regs := rfl
@[simp] theorem State.setIbc_mem (s : State) (n : Nat) (f : Ibc → Ibc) : (s.setIbc n f).mem = s.mem := rfl
@[simp] theorem State.setIbc_host (s : State) (n : Nat) (f : Ibc → Ibc) : (s.setIbc n f).host = s.host := rfl
@[simp] theorem State.setIbc_poison (s : State) (n : Nat) (f : Ibc → Ibc) : (s.setIbc n f).poison = s.poison := rfl
@[simp] theorem State.setIbc_tc (s : State) (n : Nat) (f : Ibc → Ibc) : (s.setIbc n f).tc = s.tc := rfl
@[simp] theorem State.setIbc_tags (s : State) (n : Nat) (f : Ibc → Ibc) : (s.setIbc n f).tags = s.tags := rfl
@[simp] theorem State.setIbc_bn (s : State) (n : Nat) (f : Ibc → Ibc) : (s.setIbc n f).bn = s.bn := rfl
@[simp] theorem State.setIbc_kv (s : State) (n : Nat) (f : Ibc → Ibc) : (s.setIbc n f).kv = s.kv := rfl
@[simp] theorem State.setIbc_kvMoves (s : State) (n : Nat) (f : Ibc → Ibc) : (s.setIbc n f).kvMoves = s.kvMoves := rfl
@[simp] theorem State.setIbc_kvq (s : State) (n : Nat) (f : Ibc → Ibc) : (s.setIbc n f).kvq = s.kvq := rfl
@[simp] theorem State.setIbc_kvXfer (s : State) (n : Nat) (f : Ibc → Ibc) : (s.setIbc n f).kvXfer = s.kvXfer := rfl
@[simp] theorem State.setIbc_kvRest (s : State) (n : Nat) (f : Ibc → Ibc) : (s.setIbc n f).kvRest = s.kvRest := rfl
@[simp] theorem State.setIbc_refillAt (s : State) (n : Nat) (f : Ibc → Ibc) : (s.setIbc n f).refillAt = s.refillAt := rfl
@[simp] theorem State.setIbc_due (s : State) (n : Nat) (f : Ibc → Ibc) : (s.setIbc n f).due = s.due := rfl
@[simp] theorem State.setIbc_rrAt (s : State) (n : Nat) (f : Ibc → Ibc) : (s.setIbc n f).rrAt = s.rrAt := rfl
@[simp] theorem State.setIbc_linkOps (s : State) (n : Nat) (f : Ibc → Ibc) : (s.setIbc n f).linkOps = s.linkOps := rfl
@[simp] theorem State.setIbc_linkTx (s : State) (n : Nat) (f : Ibc → Ibc) : (s.setIbc n f).linkTx = s.linkTx := rfl
@[simp] theorem State.setIbc_linkOpNo (s : State) (n : Nat) (f : Ibc → Ibc) : (s.setIbc n f).linkOpNo = s.linkOpNo := rfl
@[simp] theorem State.setIbc_linkSeq (s : State) (n : Nat) (f : Ibc → Ibc) : (s.setIbc n f).linkSeq = s.linkSeq := rfl
@[simp] theorem State.setIbc_linkFlit (s : State) (n : Nat) (f : Ibc → Ibc) : (s.setIbc n f).linkFlit = s.linkFlit := rfl
@[simp] theorem State.setIbc_landing (s : State) (n : Nat) (f : Ibc → Ibc) : (s.setIbc n f).landing = s.landing := rfl
@[simp] theorem State.setIbc_tb (s : State) (n : Nat) (f : Ibc → Ibc) : (s.setIbc n f).tb = s.tb := rfl
@[simp] theorem State.setIbc_tbLatch (s : State) (n : Nat) (f : Ibc → Ibc) : (s.setIbc n f).tbLatch = s.tbLatch := rfl
@[simp] theorem State.setIbc_cmp (s : State) (n : Nat) (f : Ibc → Ibc) : (s.setIbc n f).cmp = s.cmp := rfl
@[simp] theorem State.setIbc_pulses (s : State) (n : Nat) (f : Ibc → Ibc) : (s.setIbc n f).pulses = s.pulses := rfl
@[simp] theorem State.setIbc_capt (s : State) (n : Nat) (f : Ibc → Ibc) : (s.setIbc n f).capt = s.capt := rfl
@[simp] theorem State.setIbc_rings (s : State) (n : Nat) (f : Ibc → Ibc) : (s.setIbc n f).rings = s.rings := rfl
@[simp] theorem State.setIbc_msgs (s : State) (n : Nat) (f : Ibc → Ibc) : (s.setIbc n f).msgs = s.msgs := rfl
@[simp] theorem State.setIbc_lodge (s : State) (n : Nat) (f : Ibc → Ibc) : (s.setIbc n f).lodge = s.lodge := rfl
@[simp] theorem State.setIbc_stg (s : State) (n : Nat) (f : Ibc → Ibc) : (s.setIbc n f).stg = s.stg := rfl
@[simp] theorem State.setIbc_car (s : State) (n : Nat) (f : Ibc → Ibc) : (s.setIbc n f).car = s.car := rfl
@[simp] theorem State.setIbc_fhTx (s : State) (n : Nat) (f : Ibc → Ibc) : (s.setIbc n f).fhTx = s.fhTx := rfl
@[simp] theorem State.setIbc_fhSeq (s : State) (n : Nat) (f : Ibc → Ibc) : (s.setIbc n f).fhSeq = s.fhSeq := rfl
@[simp] theorem State.setIbc_ldpcTbl (s : State) (n : Nat) (f : Ibc → Ibc) : (s.setIbc n f).ldpcTbl = s.ldpcTbl := rfl
@[simp] theorem State.setIbc_ldpcLoad (s : State) (n : Nat) (f : Ibc → Ibc) : (s.setIbc n f).ldpcLoad = s.ldpcLoad := rfl
@[simp] theorem State.setIbc_ldpcEng (s : State) (n : Nat) (f : Ibc → Ibc) : (s.setIbc n f).ldpcEng = s.ldpcEng := rfl
@[simp] theorem State.setIbc_crcJobs (s : State) (n : Nat) (f : Ibc → Ibc) : (s.setIbc n f).crcJobs = s.crcJobs := rfl
@[simp] theorem State.setIbc_grant (s : State) (n : Nat) (f : Ibc → Ibc) : (s.setIbc n f).grant = s.grant := rfl
@[simp] theorem State.setIbc_bq (s : State) (n : Nat) (f : Ibc → Ibc) : (s.setIbc n f).bq = s.bq := rfl
@[simp] theorem State.setIbc_strm (s : State) (n : Nat) (f : Ibc → Ibc) : (s.setIbc n f).strm = s.strm := rfl
@[simp] theorem State.setIbc_smp (s : State) (n : Nat) (f : Ibc → Ibc) : (s.setIbc n f).smp = s.smp := rfl
@[simp] theorem State.setIbc_innHalt (s : State) (n : Nat) (f : Ibc → Ibc) : (s.setIbc n f).innHalt = s.innHalt := rfl
@[simp] theorem State.setIbc_porterHalt (s : State) (n : Nat) (f : Ibc → Ibc) : (s.setIbc n f).porterHalt = s.porterHalt := rfl
@[simp] theorem State.setIbc_airIn (s : State) (n : Nat) (f : Ibc → Ibc) : (s.setIbc n f).airIn = s.airIn := rfl
@[simp] theorem State.setIbc_rdata (s : State) (n : Nat) (f : Ibc → Ibc) : (s.setIbc n f).rdata = s.rdata := rfl
@[simp] theorem State.setIbc_unlocked (s : State) (n : Nat) (f : Ibc → Ibc) : (s.setIbc n f).unlocked = s.unlocked := rfl
@[simp] theorem State.setIbc_ptpQ (s : State) (n : Nat) (f : Ibc → Ibc) : (s.setIbc n f).ptpQ = s.ptpQ := rfl
@[simp] theorem State.setIbc_masked (s : State) (n : Nat) (f : Ibc → Ibc) : (s.setIbc n f).masked = s.masked := rfl
@[simp] theorem State.setIbc_failed (s : State) (n : Nat) (f : Ibc → Ibc) : (s.setIbc n f).failed = s.failed := rfl
@[simp] theorem State.setIbc_answer (s : State) (n : Nat) (f : Ibc → Ibc) : (s.setIbc n f).answer = s.answer := rfl
@[simp] theorem State.setIbc_epochs (s : State) (n : Nat) (f : Ibc → Ibc) : (s.setIbc n f).epochs = s.epochs := rfl
@[simp] theorem State.setIbc_cover (s : State) (n : Nat) (f : Ibc → Ibc) : (s.setIbc n f).cover = s.cover := rfl
@[simp] theorem State.setIbc_links (s : State) (n : Nat) (f : Ibc → Ibc) : (s.setIbc n f).links = s.links := rfl
@[simp] theorem State.setIbc_wearHist (s : State) (n : Nat) (f : Ibc → Ibc) : (s.setIbc n f).wearHist = s.wearHist := rfl
@[simp] theorem State.setIbc_wearNext (s : State) (n : Nat) (f : Ibc → Ibc) : (s.setIbc n f).wearNext = s.wearNext := rfl
@[simp] theorem State.setIbc_wearN (s : State) (n : Nat) (f : Ibc → Ibc) : (s.setIbc n f).wearN = s.wearN := rfl
@[simp] theorem State.setIbc_repairs (s : State) (n : Nat) (f : Ibc → Ibc) : (s.setIbc n f).repairs = s.repairs := rfl
@[simp] theorem State.setIbc_tierFix (s : State) (n : Nat) (f : Ibc → Ibc) : (s.setIbc n f).tierFix = s.tierFix := rfl
@[simp] theorem State.setIbc_objMap (s : State) (n : Nat) (f : Ibc → Ibc) : (s.setIbc n f).objMap = s.objMap := rfl
@[simp] theorem State.setIbc_wearCnt (s : State) (n : Nat) (f : Ibc → Ibc) : (s.setIbc n f).wearCnt = s.wearCnt := rfl
@[simp] theorem State.setIbc_retired (s : State) (n : Nat) (f : Ibc → Ibc) : (s.setIbc n f).retired = s.retired := rfl
@[simp] theorem State.setIbc_wearDirty (s : State) (n : Nat) (f : Ibc → Ibc) : (s.setIbc n f).wearDirty = s.wearDirty := rfl
@[simp] theorem State.setIbc_wearAt (s : State) (n : Nat) (f : Ibc → Ibc) : (s.setIbc n f).wearAt = s.wearAt := rfl
@[simp] theorem State.setIbc_wearStep (s : State) (n : Nat) (f : Ibc → Ibc) : (s.setIbc n f).wearStep = s.wearStep := rfl
@[simp] theorem State.setIbc_wearMap (s : State) (n : Nat) (f : Ibc → Ibc) : (s.setIbc n f).wearMap = s.wearMap := rfl
@[simp] theorem State.setIbc_therm (s : State) (n : Nat) (f : Ibc → Ibc) : (s.setIbc n f).therm = s.therm := rfl
@[simp] theorem State.setIbc_wrec (s : State) (n : Nat) (f : Ibc → Ibc) : (s.setIbc n f).wrec = s.wrec := rfl
@[simp] theorem State.setIbc_fw (s : State) (n : Nat) (f : Ibc → Ibc) : (s.setIbc n f).fw = s.fw := rfl
@[simp] theorem State.setIbc_fwNew (s : State) (n : Nat) (f : Ibc → Ibc) : (s.setIbc n f).fwNew = s.fwNew := rfl
@[simp] theorem State.setIbc_flash (s : State) (n : Nat) (f : Ibc → Ibc) : (s.setIbc n f).flash = s.flash := rfl
@[simp] theorem State.setIbc_flashSize (s : State) (n : Nat) (f : Ibc → Ibc) : (s.setIbc n f).flashSize = s.flashSize := rfl
@[simp] theorem State.setIbc_flashOp (s : State) (n : Nat) (f : Ibc → Ibc) : (s.setIbc n f).flashOp = s.flashOp := rfl
@[simp] theorem State.setIbc_flashStat (s : State) (n : Nat) (f : Ibc → Ibc) : (s.setIbc n f).flashStat = s.flashStat := rfl
@[simp] theorem State.setIbc_fuses (s : State) (n : Nat) (f : Ibc → Ibc) : (s.setIbc n f).fuses = s.fuses := rfl
@[simp] theorem State.setIbc_boot (s : State) (n : Nat) (f : Ibc → Ibc) : (s.setIbc n f).boot = s.boot := rfl
@[simp] theorem State.setIbc_quoxel (s : State) (n : Nat) (f : Ibc → Ibc) : (s.setIbc n f).quoxel = s.quoxel := rfl
@[simp] theorem State.setIbc_trained (s : State) (n : Nat) (f : Ibc → Ibc) : (s.setIbc n f).trained = s.trained := rfl
@[simp] theorem State.setIbc_inReset (s : State) (n : Nat) (f : Ibc → Ibc) : (s.setIbc n f).inReset = s.inReset := rfl
@[simp] theorem State.setIbc_refLoss (s : State) (n : Nat) (f : Ibc → Ibc) : (s.setIbc n f).refLoss = s.refLoss := rfl
@[simp] theorem State.setIbc_pmbFail (s : State) (n : Nat) (f : Ibc → Ibc) : (s.setIbc n f).pmbFail = s.pmbFail := rfl
@[simp] theorem State.setIbc_dutyUp (s : State) (n : Nat) (f : Ibc → Ibc) : (s.setIbc n f).dutyUp = s.dutyUp := rfl
@[simp] theorem State.setIbc_sensors (s : State) (n : Nat) (f : Ibc → Ibc) : (s.setIbc n f).sensors = s.sensors := rfl
@[simp] theorem State.setIbc_mbData (s : State) (n : Nat) (f : Ibc → Ibc) : (s.setIbc n f).mbData = s.mbData := rfl
@[simp] theorem State.setIbc_mbStat (s : State) (n : Nat) (f : Ibc → Ibc) : (s.setIbc n f).mbStat = s.mbStat := rfl
@[simp] theorem State.setIbc_sess (s : State) (n : Nat) (f : Ibc → Ibc) : (s.setIbc n f).sess = s.sess := rfl
@[simp] theorem State.setIbc_attests (s : State) (n : Nat) (f : Ibc → Ibc) : (s.setIbc n f).attests = s.attests := rfl
@[simp] theorem State.setIbc_chal (s : State) (n : Nat) (f : Ibc → Ibc) : (s.setIbc n f).chal = s.chal := rfl
@[simp] theorem State.setIbc_dbgFails (s : State) (n : Nat) (f : Ibc → Ibc) : (s.setIbc n f).dbgFails = s.dbgFails := rfl
@[simp] theorem State.setIbc_dbgLock (s : State) (n : Nat) (f : Ibc → Ibc) : (s.setIbc n f).dbgLock = s.dbgLock := rfl
@[simp] theorem State.setIbc_sweepAt (s : State) (n : Nat) (f : Ibc → Ibc) : (s.setIbc n f).sweepAt = s.sweepAt := rfl
@[simp] theorem State.setIbc_ledgDue (s : State) (n : Nat) (f : Ibc → Ibc) : (s.setIbc n f).ledgDue = s.ledgDue := rfl
@[simp] theorem State.setIbc_ledgGap (s : State) (n : Nat) (f : Ibc → Ibc) : (s.setIbc n f).ledgGap = s.ledgGap := rfl
@[simp] theorem State.setIbc_cntLatch (s : State) (n : Nat) (f : Ibc → Ibc) : (s.setIbc n f).cntLatch = s.cntLatch := rfl
@[simp] theorem State.setIbc_cntPend (s : State) (n : Nat) (f : Ibc → Ibc) : (s.setIbc n f).cntPend = s.cntPend := rfl
@[simp] theorem State.setIbc_tapIr (s : State) (n : Nat) (f : Ibc → Ibc) : (s.setIbc n f).tapIr = s.tapIr := rfl
@[simp] theorem State.setIbc_bsr (s : State) (n : Nat) (f : Ibc → Ibc) : (s.setIbc n f).bsr = s.bsr := rfl
@[simp] theorem State.setIbc_dbgAcc (s : State) (n : Nat) (f : Ibc → Ibc) : (s.setIbc n f).dbgAcc = s.dbgAcc := rfl
@[simp] theorem State.setIbc_scrubAt (s : State) (n : Nat) (f : Ibc → Ibc) : (s.setIbc n f).scrubAt = s.scrubAt := rfl
@[simp] theorem State.setIbc_step2 (s : State) (n : Nat) (f : Ibc → Ibc) : (s.setIbc n f).step2 = s.step2 := rfl
@[simp] theorem State.setTb_pending (s : State) (n : Nat) (f : TimeBase → TimeBase) : (s.setTb n f).pending = s.pending := rfl
@[simp] theorem State.setTb_cycle (s : State) (n : Nat) (f : TimeBase → TimeBase) : (s.setTb n f).cycle = s.cycle := rfl
@[simp] theorem State.setTb_free (s : State) (n : Nat) (f : TimeBase → TimeBase) : (s.setTb n f).free = s.free := rfl
@[simp] theorem State.setTb_regs (s : State) (n : Nat) (f : TimeBase → TimeBase) : (s.setTb n f).regs = s.regs := rfl
@[simp] theorem State.setTb_mem (s : State) (n : Nat) (f : TimeBase → TimeBase) : (s.setTb n f).mem = s.mem := rfl
@[simp] theorem State.setTb_host (s : State) (n : Nat) (f : TimeBase → TimeBase) : (s.setTb n f).host = s.host := rfl
@[simp] theorem State.setTb_poison (s : State) (n : Nat) (f : TimeBase → TimeBase) : (s.setTb n f).poison = s.poison := rfl
@[simp] theorem State.setTb_tc (s : State) (n : Nat) (f : TimeBase → TimeBase) : (s.setTb n f).tc = s.tc := rfl
@[simp] theorem State.setTb_tags (s : State) (n : Nat) (f : TimeBase → TimeBase) : (s.setTb n f).tags = s.tags := rfl
@[simp] theorem State.setTb_bn (s : State) (n : Nat) (f : TimeBase → TimeBase) : (s.setTb n f).bn = s.bn := rfl
@[simp] theorem State.setTb_kv (s : State) (n : Nat) (f : TimeBase → TimeBase) : (s.setTb n f).kv = s.kv := rfl
@[simp] theorem State.setTb_kvMoves (s : State) (n : Nat) (f : TimeBase → TimeBase) : (s.setTb n f).kvMoves = s.kvMoves := rfl
@[simp] theorem State.setTb_kvq (s : State) (n : Nat) (f : TimeBase → TimeBase) : (s.setTb n f).kvq = s.kvq := rfl
@[simp] theorem State.setTb_kvXfer (s : State) (n : Nat) (f : TimeBase → TimeBase) : (s.setTb n f).kvXfer = s.kvXfer := rfl
@[simp] theorem State.setTb_kvRest (s : State) (n : Nat) (f : TimeBase → TimeBase) : (s.setTb n f).kvRest = s.kvRest := rfl
@[simp] theorem State.setTb_refillAt (s : State) (n : Nat) (f : TimeBase → TimeBase) : (s.setTb n f).refillAt = s.refillAt := rfl
@[simp] theorem State.setTb_due (s : State) (n : Nat) (f : TimeBase → TimeBase) : (s.setTb n f).due = s.due := rfl
@[simp] theorem State.setTb_rrAt (s : State) (n : Nat) (f : TimeBase → TimeBase) : (s.setTb n f).rrAt = s.rrAt := rfl
@[simp] theorem State.setTb_linkOps (s : State) (n : Nat) (f : TimeBase → TimeBase) : (s.setTb n f).linkOps = s.linkOps := rfl
@[simp] theorem State.setTb_linkTx (s : State) (n : Nat) (f : TimeBase → TimeBase) : (s.setTb n f).linkTx = s.linkTx := rfl
@[simp] theorem State.setTb_linkOpNo (s : State) (n : Nat) (f : TimeBase → TimeBase) : (s.setTb n f).linkOpNo = s.linkOpNo := rfl
@[simp] theorem State.setTb_linkSeq (s : State) (n : Nat) (f : TimeBase → TimeBase) : (s.setTb n f).linkSeq = s.linkSeq := rfl
@[simp] theorem State.setTb_linkFlit (s : State) (n : Nat) (f : TimeBase → TimeBase) : (s.setTb n f).linkFlit = s.linkFlit := rfl
@[simp] theorem State.setTb_landing (s : State) (n : Nat) (f : TimeBase → TimeBase) : (s.setTb n f).landing = s.landing := rfl
@[simp] theorem State.setTb_tbLatch (s : State) (n : Nat) (f : TimeBase → TimeBase) : (s.setTb n f).tbLatch = s.tbLatch := rfl
@[simp] theorem State.setTb_cmp (s : State) (n : Nat) (f : TimeBase → TimeBase) : (s.setTb n f).cmp = s.cmp := rfl
@[simp] theorem State.setTb_pulses (s : State) (n : Nat) (f : TimeBase → TimeBase) : (s.setTb n f).pulses = s.pulses := rfl
@[simp] theorem State.setTb_capt (s : State) (n : Nat) (f : TimeBase → TimeBase) : (s.setTb n f).capt = s.capt := rfl
@[simp] theorem State.setTb_rings (s : State) (n : Nat) (f : TimeBase → TimeBase) : (s.setTb n f).rings = s.rings := rfl
@[simp] theorem State.setTb_msgs (s : State) (n : Nat) (f : TimeBase → TimeBase) : (s.setTb n f).msgs = s.msgs := rfl
@[simp] theorem State.setTb_ibc (s : State) (n : Nat) (f : TimeBase → TimeBase) : (s.setTb n f).ibc = s.ibc := rfl
@[simp] theorem State.setTb_lodge (s : State) (n : Nat) (f : TimeBase → TimeBase) : (s.setTb n f).lodge = s.lodge := rfl
@[simp] theorem State.setTb_stg (s : State) (n : Nat) (f : TimeBase → TimeBase) : (s.setTb n f).stg = s.stg := rfl
@[simp] theorem State.setTb_car (s : State) (n : Nat) (f : TimeBase → TimeBase) : (s.setTb n f).car = s.car := rfl
@[simp] theorem State.setTb_fhTx (s : State) (n : Nat) (f : TimeBase → TimeBase) : (s.setTb n f).fhTx = s.fhTx := rfl
@[simp] theorem State.setTb_fhSeq (s : State) (n : Nat) (f : TimeBase → TimeBase) : (s.setTb n f).fhSeq = s.fhSeq := rfl
@[simp] theorem State.setTb_ldpcTbl (s : State) (n : Nat) (f : TimeBase → TimeBase) : (s.setTb n f).ldpcTbl = s.ldpcTbl := rfl
@[simp] theorem State.setTb_ldpcLoad (s : State) (n : Nat) (f : TimeBase → TimeBase) : (s.setTb n f).ldpcLoad = s.ldpcLoad := rfl
@[simp] theorem State.setTb_ldpcEng (s : State) (n : Nat) (f : TimeBase → TimeBase) : (s.setTb n f).ldpcEng = s.ldpcEng := rfl
@[simp] theorem State.setTb_crcJobs (s : State) (n : Nat) (f : TimeBase → TimeBase) : (s.setTb n f).crcJobs = s.crcJobs := rfl
@[simp] theorem State.setTb_grant (s : State) (n : Nat) (f : TimeBase → TimeBase) : (s.setTb n f).grant = s.grant := rfl
@[simp] theorem State.setTb_bq (s : State) (n : Nat) (f : TimeBase → TimeBase) : (s.setTb n f).bq = s.bq := rfl
@[simp] theorem State.setTb_strm (s : State) (n : Nat) (f : TimeBase → TimeBase) : (s.setTb n f).strm = s.strm := rfl
@[simp] theorem State.setTb_smp (s : State) (n : Nat) (f : TimeBase → TimeBase) : (s.setTb n f).smp = s.smp := rfl
@[simp] theorem State.setTb_innHalt (s : State) (n : Nat) (f : TimeBase → TimeBase) : (s.setTb n f).innHalt = s.innHalt := rfl
@[simp] theorem State.setTb_porterHalt (s : State) (n : Nat) (f : TimeBase → TimeBase) : (s.setTb n f).porterHalt = s.porterHalt := rfl
@[simp] theorem State.setTb_airIn (s : State) (n : Nat) (f : TimeBase → TimeBase) : (s.setTb n f).airIn = s.airIn := rfl
@[simp] theorem State.setTb_rdata (s : State) (n : Nat) (f : TimeBase → TimeBase) : (s.setTb n f).rdata = s.rdata := rfl
@[simp] theorem State.setTb_unlocked (s : State) (n : Nat) (f : TimeBase → TimeBase) : (s.setTb n f).unlocked = s.unlocked := rfl
@[simp] theorem State.setTb_ptpQ (s : State) (n : Nat) (f : TimeBase → TimeBase) : (s.setTb n f).ptpQ = s.ptpQ := rfl
@[simp] theorem State.setTb_masked (s : State) (n : Nat) (f : TimeBase → TimeBase) : (s.setTb n f).masked = s.masked := rfl
@[simp] theorem State.setTb_failed (s : State) (n : Nat) (f : TimeBase → TimeBase) : (s.setTb n f).failed = s.failed := rfl
@[simp] theorem State.setTb_answer (s : State) (n : Nat) (f : TimeBase → TimeBase) : (s.setTb n f).answer = s.answer := rfl
@[simp] theorem State.setTb_epochs (s : State) (n : Nat) (f : TimeBase → TimeBase) : (s.setTb n f).epochs = s.epochs := rfl
@[simp] theorem State.setTb_cover (s : State) (n : Nat) (f : TimeBase → TimeBase) : (s.setTb n f).cover = s.cover := rfl
@[simp] theorem State.setTb_links (s : State) (n : Nat) (f : TimeBase → TimeBase) : (s.setTb n f).links = s.links := rfl
@[simp] theorem State.setTb_wearHist (s : State) (n : Nat) (f : TimeBase → TimeBase) : (s.setTb n f).wearHist = s.wearHist := rfl
@[simp] theorem State.setTb_wearNext (s : State) (n : Nat) (f : TimeBase → TimeBase) : (s.setTb n f).wearNext = s.wearNext := rfl
@[simp] theorem State.setTb_wearN (s : State) (n : Nat) (f : TimeBase → TimeBase) : (s.setTb n f).wearN = s.wearN := rfl
@[simp] theorem State.setTb_repairs (s : State) (n : Nat) (f : TimeBase → TimeBase) : (s.setTb n f).repairs = s.repairs := rfl
@[simp] theorem State.setTb_tierFix (s : State) (n : Nat) (f : TimeBase → TimeBase) : (s.setTb n f).tierFix = s.tierFix := rfl
@[simp] theorem State.setTb_objMap (s : State) (n : Nat) (f : TimeBase → TimeBase) : (s.setTb n f).objMap = s.objMap := rfl
@[simp] theorem State.setTb_wearCnt (s : State) (n : Nat) (f : TimeBase → TimeBase) : (s.setTb n f).wearCnt = s.wearCnt := rfl
@[simp] theorem State.setTb_retired (s : State) (n : Nat) (f : TimeBase → TimeBase) : (s.setTb n f).retired = s.retired := rfl
@[simp] theorem State.setTb_wearDirty (s : State) (n : Nat) (f : TimeBase → TimeBase) : (s.setTb n f).wearDirty = s.wearDirty := rfl
@[simp] theorem State.setTb_wearAt (s : State) (n : Nat) (f : TimeBase → TimeBase) : (s.setTb n f).wearAt = s.wearAt := rfl
@[simp] theorem State.setTb_wearStep (s : State) (n : Nat) (f : TimeBase → TimeBase) : (s.setTb n f).wearStep = s.wearStep := rfl
@[simp] theorem State.setTb_wearMap (s : State) (n : Nat) (f : TimeBase → TimeBase) : (s.setTb n f).wearMap = s.wearMap := rfl
@[simp] theorem State.setTb_therm (s : State) (n : Nat) (f : TimeBase → TimeBase) : (s.setTb n f).therm = s.therm := rfl
@[simp] theorem State.setTb_wrec (s : State) (n : Nat) (f : TimeBase → TimeBase) : (s.setTb n f).wrec = s.wrec := rfl
@[simp] theorem State.setTb_fw (s : State) (n : Nat) (f : TimeBase → TimeBase) : (s.setTb n f).fw = s.fw := rfl
@[simp] theorem State.setTb_fwNew (s : State) (n : Nat) (f : TimeBase → TimeBase) : (s.setTb n f).fwNew = s.fwNew := rfl
@[simp] theorem State.setTb_flash (s : State) (n : Nat) (f : TimeBase → TimeBase) : (s.setTb n f).flash = s.flash := rfl
@[simp] theorem State.setTb_flashSize (s : State) (n : Nat) (f : TimeBase → TimeBase) : (s.setTb n f).flashSize = s.flashSize := rfl
@[simp] theorem State.setTb_flashOp (s : State) (n : Nat) (f : TimeBase → TimeBase) : (s.setTb n f).flashOp = s.flashOp := rfl
@[simp] theorem State.setTb_flashStat (s : State) (n : Nat) (f : TimeBase → TimeBase) : (s.setTb n f).flashStat = s.flashStat := rfl
@[simp] theorem State.setTb_fuses (s : State) (n : Nat) (f : TimeBase → TimeBase) : (s.setTb n f).fuses = s.fuses := rfl
@[simp] theorem State.setTb_boot (s : State) (n : Nat) (f : TimeBase → TimeBase) : (s.setTb n f).boot = s.boot := rfl
@[simp] theorem State.setTb_quoxel (s : State) (n : Nat) (f : TimeBase → TimeBase) : (s.setTb n f).quoxel = s.quoxel := rfl
@[simp] theorem State.setTb_trained (s : State) (n : Nat) (f : TimeBase → TimeBase) : (s.setTb n f).trained = s.trained := rfl
@[simp] theorem State.setTb_inReset (s : State) (n : Nat) (f : TimeBase → TimeBase) : (s.setTb n f).inReset = s.inReset := rfl
@[simp] theorem State.setTb_refLoss (s : State) (n : Nat) (f : TimeBase → TimeBase) : (s.setTb n f).refLoss = s.refLoss := rfl
@[simp] theorem State.setTb_pmbFail (s : State) (n : Nat) (f : TimeBase → TimeBase) : (s.setTb n f).pmbFail = s.pmbFail := rfl
@[simp] theorem State.setTb_dutyUp (s : State) (n : Nat) (f : TimeBase → TimeBase) : (s.setTb n f).dutyUp = s.dutyUp := rfl
@[simp] theorem State.setTb_sensors (s : State) (n : Nat) (f : TimeBase → TimeBase) : (s.setTb n f).sensors = s.sensors := rfl
@[simp] theorem State.setTb_mbData (s : State) (n : Nat) (f : TimeBase → TimeBase) : (s.setTb n f).mbData = s.mbData := rfl
@[simp] theorem State.setTb_mbStat (s : State) (n : Nat) (f : TimeBase → TimeBase) : (s.setTb n f).mbStat = s.mbStat := rfl
@[simp] theorem State.setTb_sess (s : State) (n : Nat) (f : TimeBase → TimeBase) : (s.setTb n f).sess = s.sess := rfl
@[simp] theorem State.setTb_attests (s : State) (n : Nat) (f : TimeBase → TimeBase) : (s.setTb n f).attests = s.attests := rfl
@[simp] theorem State.setTb_chal (s : State) (n : Nat) (f : TimeBase → TimeBase) : (s.setTb n f).chal = s.chal := rfl
@[simp] theorem State.setTb_dbgFails (s : State) (n : Nat) (f : TimeBase → TimeBase) : (s.setTb n f).dbgFails = s.dbgFails := rfl
@[simp] theorem State.setTb_dbgLock (s : State) (n : Nat) (f : TimeBase → TimeBase) : (s.setTb n f).dbgLock = s.dbgLock := rfl
@[simp] theorem State.setTb_sweepAt (s : State) (n : Nat) (f : TimeBase → TimeBase) : (s.setTb n f).sweepAt = s.sweepAt := rfl
@[simp] theorem State.setTb_ledgDue (s : State) (n : Nat) (f : TimeBase → TimeBase) : (s.setTb n f).ledgDue = s.ledgDue := rfl
@[simp] theorem State.setTb_ledgGap (s : State) (n : Nat) (f : TimeBase → TimeBase) : (s.setTb n f).ledgGap = s.ledgGap := rfl
@[simp] theorem State.setTb_cntLatch (s : State) (n : Nat) (f : TimeBase → TimeBase) : (s.setTb n f).cntLatch = s.cntLatch := rfl
@[simp] theorem State.setTb_cntPend (s : State) (n : Nat) (f : TimeBase → TimeBase) : (s.setTb n f).cntPend = s.cntPend := rfl
@[simp] theorem State.setTb_tapIr (s : State) (n : Nat) (f : TimeBase → TimeBase) : (s.setTb n f).tapIr = s.tapIr := rfl
@[simp] theorem State.setTb_bsr (s : State) (n : Nat) (f : TimeBase → TimeBase) : (s.setTb n f).bsr = s.bsr := rfl
@[simp] theorem State.setTb_dbgAcc (s : State) (n : Nat) (f : TimeBase → TimeBase) : (s.setTb n f).dbgAcc = s.dbgAcc := rfl
@[simp] theorem State.setTb_scrubAt (s : State) (n : Nat) (f : TimeBase → TimeBase) : (s.setTb n f).scrubAt = s.scrubAt := rfl
@[simp] theorem State.setTb_step2 (s : State) (n : Nat) (f : TimeBase → TimeBase) : (s.setTb n f).step2 = s.step2 := rfl
@[simp] theorem State.setLodge_pending (s : State) (l : Nat) (f : Lodge → Lodge) : (s.setLodge l f).pending = s.pending := rfl
@[simp] theorem State.setLodge_cycle (s : State) (l : Nat) (f : Lodge → Lodge) : (s.setLodge l f).cycle = s.cycle := rfl
@[simp] theorem State.setLodge_free (s : State) (l : Nat) (f : Lodge → Lodge) : (s.setLodge l f).free = s.free := rfl
@[simp] theorem State.setLodge_regs (s : State) (l : Nat) (f : Lodge → Lodge) : (s.setLodge l f).regs = s.regs := rfl
@[simp] theorem State.setLodge_mem (s : State) (l : Nat) (f : Lodge → Lodge) : (s.setLodge l f).mem = s.mem := rfl
@[simp] theorem State.setLodge_host (s : State) (l : Nat) (f : Lodge → Lodge) : (s.setLodge l f).host = s.host := rfl
@[simp] theorem State.setLodge_poison (s : State) (l : Nat) (f : Lodge → Lodge) : (s.setLodge l f).poison = s.poison := rfl
@[simp] theorem State.setLodge_tc (s : State) (l : Nat) (f : Lodge → Lodge) : (s.setLodge l f).tc = s.tc := rfl
@[simp] theorem State.setLodge_tags (s : State) (l : Nat) (f : Lodge → Lodge) : (s.setLodge l f).tags = s.tags := rfl
@[simp] theorem State.setLodge_bn (s : State) (l : Nat) (f : Lodge → Lodge) : (s.setLodge l f).bn = s.bn := rfl
@[simp] theorem State.setLodge_kv (s : State) (l : Nat) (f : Lodge → Lodge) : (s.setLodge l f).kv = s.kv := rfl
@[simp] theorem State.setLodge_kvMoves (s : State) (l : Nat) (f : Lodge → Lodge) : (s.setLodge l f).kvMoves = s.kvMoves := rfl
@[simp] theorem State.setLodge_kvq (s : State) (l : Nat) (f : Lodge → Lodge) : (s.setLodge l f).kvq = s.kvq := rfl
@[simp] theorem State.setLodge_kvXfer (s : State) (l : Nat) (f : Lodge → Lodge) : (s.setLodge l f).kvXfer = s.kvXfer := rfl
@[simp] theorem State.setLodge_kvRest (s : State) (l : Nat) (f : Lodge → Lodge) : (s.setLodge l f).kvRest = s.kvRest := rfl
@[simp] theorem State.setLodge_refillAt (s : State) (l : Nat) (f : Lodge → Lodge) : (s.setLodge l f).refillAt = s.refillAt := rfl
@[simp] theorem State.setLodge_due (s : State) (l : Nat) (f : Lodge → Lodge) : (s.setLodge l f).due = s.due := rfl
@[simp] theorem State.setLodge_rrAt (s : State) (l : Nat) (f : Lodge → Lodge) : (s.setLodge l f).rrAt = s.rrAt := rfl
@[simp] theorem State.setLodge_linkOps (s : State) (l : Nat) (f : Lodge → Lodge) : (s.setLodge l f).linkOps = s.linkOps := rfl
@[simp] theorem State.setLodge_linkTx (s : State) (l : Nat) (f : Lodge → Lodge) : (s.setLodge l f).linkTx = s.linkTx := rfl
@[simp] theorem State.setLodge_linkOpNo (s : State) (l : Nat) (f : Lodge → Lodge) : (s.setLodge l f).linkOpNo = s.linkOpNo := rfl
@[simp] theorem State.setLodge_linkSeq (s : State) (l : Nat) (f : Lodge → Lodge) : (s.setLodge l f).linkSeq = s.linkSeq := rfl
@[simp] theorem State.setLodge_linkFlit (s : State) (l : Nat) (f : Lodge → Lodge) : (s.setLodge l f).linkFlit = s.linkFlit := rfl
@[simp] theorem State.setLodge_landing (s : State) (l : Nat) (f : Lodge → Lodge) : (s.setLodge l f).landing = s.landing := rfl
@[simp] theorem State.setLodge_tb (s : State) (l : Nat) (f : Lodge → Lodge) : (s.setLodge l f).tb = s.tb := rfl
@[simp] theorem State.setLodge_tbLatch (s : State) (l : Nat) (f : Lodge → Lodge) : (s.setLodge l f).tbLatch = s.tbLatch := rfl
@[simp] theorem State.setLodge_cmp (s : State) (l : Nat) (f : Lodge → Lodge) : (s.setLodge l f).cmp = s.cmp := rfl
@[simp] theorem State.setLodge_pulses (s : State) (l : Nat) (f : Lodge → Lodge) : (s.setLodge l f).pulses = s.pulses := rfl
@[simp] theorem State.setLodge_capt (s : State) (l : Nat) (f : Lodge → Lodge) : (s.setLodge l f).capt = s.capt := rfl
@[simp] theorem State.setLodge_rings (s : State) (l : Nat) (f : Lodge → Lodge) : (s.setLodge l f).rings = s.rings := rfl
@[simp] theorem State.setLodge_msgs (s : State) (l : Nat) (f : Lodge → Lodge) : (s.setLodge l f).msgs = s.msgs := rfl
@[simp] theorem State.setLodge_ibc (s : State) (l : Nat) (f : Lodge → Lodge) : (s.setLodge l f).ibc = s.ibc := rfl
@[simp] theorem State.setLodge_stg (s : State) (l : Nat) (f : Lodge → Lodge) : (s.setLodge l f).stg = s.stg := rfl
@[simp] theorem State.setLodge_car (s : State) (l : Nat) (f : Lodge → Lodge) : (s.setLodge l f).car = s.car := rfl
@[simp] theorem State.setLodge_fhTx (s : State) (l : Nat) (f : Lodge → Lodge) : (s.setLodge l f).fhTx = s.fhTx := rfl
@[simp] theorem State.setLodge_fhSeq (s : State) (l : Nat) (f : Lodge → Lodge) : (s.setLodge l f).fhSeq = s.fhSeq := rfl
@[simp] theorem State.setLodge_ldpcTbl (s : State) (l : Nat) (f : Lodge → Lodge) : (s.setLodge l f).ldpcTbl = s.ldpcTbl := rfl
@[simp] theorem State.setLodge_ldpcLoad (s : State) (l : Nat) (f : Lodge → Lodge) : (s.setLodge l f).ldpcLoad = s.ldpcLoad := rfl
@[simp] theorem State.setLodge_ldpcEng (s : State) (l : Nat) (f : Lodge → Lodge) : (s.setLodge l f).ldpcEng = s.ldpcEng := rfl
@[simp] theorem State.setLodge_crcJobs (s : State) (l : Nat) (f : Lodge → Lodge) : (s.setLodge l f).crcJobs = s.crcJobs := rfl
@[simp] theorem State.setLodge_grant (s : State) (l : Nat) (f : Lodge → Lodge) : (s.setLodge l f).grant = s.grant := rfl
@[simp] theorem State.setLodge_bq (s : State) (l : Nat) (f : Lodge → Lodge) : (s.setLodge l f).bq = s.bq := rfl
@[simp] theorem State.setLodge_strm (s : State) (l : Nat) (f : Lodge → Lodge) : (s.setLodge l f).strm = s.strm := rfl
@[simp] theorem State.setLodge_smp (s : State) (l : Nat) (f : Lodge → Lodge) : (s.setLodge l f).smp = s.smp := rfl
@[simp] theorem State.setLodge_innHalt (s : State) (l : Nat) (f : Lodge → Lodge) : (s.setLodge l f).innHalt = s.innHalt := rfl
@[simp] theorem State.setLodge_porterHalt (s : State) (l : Nat) (f : Lodge → Lodge) : (s.setLodge l f).porterHalt = s.porterHalt := rfl
@[simp] theorem State.setLodge_airIn (s : State) (l : Nat) (f : Lodge → Lodge) : (s.setLodge l f).airIn = s.airIn := rfl
@[simp] theorem State.setLodge_rdata (s : State) (l : Nat) (f : Lodge → Lodge) : (s.setLodge l f).rdata = s.rdata := rfl
@[simp] theorem State.setLodge_unlocked (s : State) (l : Nat) (f : Lodge → Lodge) : (s.setLodge l f).unlocked = s.unlocked := rfl
@[simp] theorem State.setLodge_ptpQ (s : State) (l : Nat) (f : Lodge → Lodge) : (s.setLodge l f).ptpQ = s.ptpQ := rfl
@[simp] theorem State.setLodge_masked (s : State) (l : Nat) (f : Lodge → Lodge) : (s.setLodge l f).masked = s.masked := rfl
@[simp] theorem State.setLodge_failed (s : State) (l : Nat) (f : Lodge → Lodge) : (s.setLodge l f).failed = s.failed := rfl
@[simp] theorem State.setLodge_answer (s : State) (l : Nat) (f : Lodge → Lodge) : (s.setLodge l f).answer = s.answer := rfl
@[simp] theorem State.setLodge_epochs (s : State) (l : Nat) (f : Lodge → Lodge) : (s.setLodge l f).epochs = s.epochs := rfl
@[simp] theorem State.setLodge_cover (s : State) (l : Nat) (f : Lodge → Lodge) : (s.setLodge l f).cover = s.cover := rfl
@[simp] theorem State.setLodge_links (s : State) (l : Nat) (f : Lodge → Lodge) : (s.setLodge l f).links = s.links := rfl
@[simp] theorem State.setLodge_wearHist (s : State) (l : Nat) (f : Lodge → Lodge) : (s.setLodge l f).wearHist = s.wearHist := rfl
@[simp] theorem State.setLodge_wearNext (s : State) (l : Nat) (f : Lodge → Lodge) : (s.setLodge l f).wearNext = s.wearNext := rfl
@[simp] theorem State.setLodge_wearN (s : State) (l : Nat) (f : Lodge → Lodge) : (s.setLodge l f).wearN = s.wearN := rfl
@[simp] theorem State.setLodge_repairs (s : State) (l : Nat) (f : Lodge → Lodge) : (s.setLodge l f).repairs = s.repairs := rfl
@[simp] theorem State.setLodge_tierFix (s : State) (l : Nat) (f : Lodge → Lodge) : (s.setLodge l f).tierFix = s.tierFix := rfl
@[simp] theorem State.setLodge_objMap (s : State) (l : Nat) (f : Lodge → Lodge) : (s.setLodge l f).objMap = s.objMap := rfl
@[simp] theorem State.setLodge_wearCnt (s : State) (l : Nat) (f : Lodge → Lodge) : (s.setLodge l f).wearCnt = s.wearCnt := rfl
@[simp] theorem State.setLodge_retired (s : State) (l : Nat) (f : Lodge → Lodge) : (s.setLodge l f).retired = s.retired := rfl
@[simp] theorem State.setLodge_wearDirty (s : State) (l : Nat) (f : Lodge → Lodge) : (s.setLodge l f).wearDirty = s.wearDirty := rfl
@[simp] theorem State.setLodge_wearAt (s : State) (l : Nat) (f : Lodge → Lodge) : (s.setLodge l f).wearAt = s.wearAt := rfl
@[simp] theorem State.setLodge_wearStep (s : State) (l : Nat) (f : Lodge → Lodge) : (s.setLodge l f).wearStep = s.wearStep := rfl
@[simp] theorem State.setLodge_wearMap (s : State) (l : Nat) (f : Lodge → Lodge) : (s.setLodge l f).wearMap = s.wearMap := rfl
@[simp] theorem State.setLodge_therm (s : State) (l : Nat) (f : Lodge → Lodge) : (s.setLodge l f).therm = s.therm := rfl
@[simp] theorem State.setLodge_wrec (s : State) (l : Nat) (f : Lodge → Lodge) : (s.setLodge l f).wrec = s.wrec := rfl
@[simp] theorem State.setLodge_fw (s : State) (l : Nat) (f : Lodge → Lodge) : (s.setLodge l f).fw = s.fw := rfl
@[simp] theorem State.setLodge_fwNew (s : State) (l : Nat) (f : Lodge → Lodge) : (s.setLodge l f).fwNew = s.fwNew := rfl
@[simp] theorem State.setLodge_flash (s : State) (l : Nat) (f : Lodge → Lodge) : (s.setLodge l f).flash = s.flash := rfl
@[simp] theorem State.setLodge_flashSize (s : State) (l : Nat) (f : Lodge → Lodge) : (s.setLodge l f).flashSize = s.flashSize := rfl
@[simp] theorem State.setLodge_flashOp (s : State) (l : Nat) (f : Lodge → Lodge) : (s.setLodge l f).flashOp = s.flashOp := rfl
@[simp] theorem State.setLodge_flashStat (s : State) (l : Nat) (f : Lodge → Lodge) : (s.setLodge l f).flashStat = s.flashStat := rfl
@[simp] theorem State.setLodge_fuses (s : State) (l : Nat) (f : Lodge → Lodge) : (s.setLodge l f).fuses = s.fuses := rfl
@[simp] theorem State.setLodge_boot (s : State) (l : Nat) (f : Lodge → Lodge) : (s.setLodge l f).boot = s.boot := rfl
@[simp] theorem State.setLodge_quoxel (s : State) (l : Nat) (f : Lodge → Lodge) : (s.setLodge l f).quoxel = s.quoxel := rfl
@[simp] theorem State.setLodge_trained (s : State) (l : Nat) (f : Lodge → Lodge) : (s.setLodge l f).trained = s.trained := rfl
@[simp] theorem State.setLodge_inReset (s : State) (l : Nat) (f : Lodge → Lodge) : (s.setLodge l f).inReset = s.inReset := rfl
@[simp] theorem State.setLodge_refLoss (s : State) (l : Nat) (f : Lodge → Lodge) : (s.setLodge l f).refLoss = s.refLoss := rfl
@[simp] theorem State.setLodge_pmbFail (s : State) (l : Nat) (f : Lodge → Lodge) : (s.setLodge l f).pmbFail = s.pmbFail := rfl
@[simp] theorem State.setLodge_dutyUp (s : State) (l : Nat) (f : Lodge → Lodge) : (s.setLodge l f).dutyUp = s.dutyUp := rfl
@[simp] theorem State.setLodge_sensors (s : State) (l : Nat) (f : Lodge → Lodge) : (s.setLodge l f).sensors = s.sensors := rfl
@[simp] theorem State.setLodge_mbData (s : State) (l : Nat) (f : Lodge → Lodge) : (s.setLodge l f).mbData = s.mbData := rfl
@[simp] theorem State.setLodge_mbStat (s : State) (l : Nat) (f : Lodge → Lodge) : (s.setLodge l f).mbStat = s.mbStat := rfl
@[simp] theorem State.setLodge_sess (s : State) (l : Nat) (f : Lodge → Lodge) : (s.setLodge l f).sess = s.sess := rfl
@[simp] theorem State.setLodge_attests (s : State) (l : Nat) (f : Lodge → Lodge) : (s.setLodge l f).attests = s.attests := rfl
@[simp] theorem State.setLodge_chal (s : State) (l : Nat) (f : Lodge → Lodge) : (s.setLodge l f).chal = s.chal := rfl
@[simp] theorem State.setLodge_dbgFails (s : State) (l : Nat) (f : Lodge → Lodge) : (s.setLodge l f).dbgFails = s.dbgFails := rfl
@[simp] theorem State.setLodge_dbgLock (s : State) (l : Nat) (f : Lodge → Lodge) : (s.setLodge l f).dbgLock = s.dbgLock := rfl
@[simp] theorem State.setLodge_sweepAt (s : State) (l : Nat) (f : Lodge → Lodge) : (s.setLodge l f).sweepAt = s.sweepAt := rfl
@[simp] theorem State.setLodge_ledgDue (s : State) (l : Nat) (f : Lodge → Lodge) : (s.setLodge l f).ledgDue = s.ledgDue := rfl
@[simp] theorem State.setLodge_ledgGap (s : State) (l : Nat) (f : Lodge → Lodge) : (s.setLodge l f).ledgGap = s.ledgGap := rfl
@[simp] theorem State.setLodge_cntLatch (s : State) (l : Nat) (f : Lodge → Lodge) : (s.setLodge l f).cntLatch = s.cntLatch := rfl
@[simp] theorem State.setLodge_cntPend (s : State) (l : Nat) (f : Lodge → Lodge) : (s.setLodge l f).cntPend = s.cntPend := rfl
@[simp] theorem State.setLodge_tapIr (s : State) (l : Nat) (f : Lodge → Lodge) : (s.setLodge l f).tapIr = s.tapIr := rfl
@[simp] theorem State.setLodge_bsr (s : State) (l : Nat) (f : Lodge → Lodge) : (s.setLodge l f).bsr = s.bsr := rfl
@[simp] theorem State.setLodge_dbgAcc (s : State) (l : Nat) (f : Lodge → Lodge) : (s.setLodge l f).dbgAcc = s.dbgAcc := rfl
@[simp] theorem State.setLodge_scrubAt (s : State) (l : Nat) (f : Lodge → Lodge) : (s.setLodge l f).scrubAt = s.scrubAt := rfl
@[simp] theorem State.setLodge_step2 (s : State) (l : Nat) (f : Lodge → Lodge) : (s.setLodge l f).step2 = s.step2 := rfl
@[simp] theorem State.setLink_pending (s : State) (k : Nat) (f : Link → Link) : (s.setLink k f).pending = s.pending := rfl
@[simp] theorem State.setLink_cycle (s : State) (k : Nat) (f : Link → Link) : (s.setLink k f).cycle = s.cycle := rfl
@[simp] theorem State.setLink_free (s : State) (k : Nat) (f : Link → Link) : (s.setLink k f).free = s.free := rfl
@[simp] theorem State.setLink_regs (s : State) (k : Nat) (f : Link → Link) : (s.setLink k f).regs = s.regs := rfl
@[simp] theorem State.setLink_mem (s : State) (k : Nat) (f : Link → Link) : (s.setLink k f).mem = s.mem := rfl
@[simp] theorem State.setLink_host (s : State) (k : Nat) (f : Link → Link) : (s.setLink k f).host = s.host := rfl
@[simp] theorem State.setLink_poison (s : State) (k : Nat) (f : Link → Link) : (s.setLink k f).poison = s.poison := rfl
@[simp] theorem State.setLink_tc (s : State) (k : Nat) (f : Link → Link) : (s.setLink k f).tc = s.tc := rfl
@[simp] theorem State.setLink_tags (s : State) (k : Nat) (f : Link → Link) : (s.setLink k f).tags = s.tags := rfl
@[simp] theorem State.setLink_bn (s : State) (k : Nat) (f : Link → Link) : (s.setLink k f).bn = s.bn := rfl
@[simp] theorem State.setLink_kv (s : State) (k : Nat) (f : Link → Link) : (s.setLink k f).kv = s.kv := rfl
@[simp] theorem State.setLink_kvMoves (s : State) (k : Nat) (f : Link → Link) : (s.setLink k f).kvMoves = s.kvMoves := rfl
@[simp] theorem State.setLink_kvq (s : State) (k : Nat) (f : Link → Link) : (s.setLink k f).kvq = s.kvq := rfl
@[simp] theorem State.setLink_kvXfer (s : State) (k : Nat) (f : Link → Link) : (s.setLink k f).kvXfer = s.kvXfer := rfl
@[simp] theorem State.setLink_kvRest (s : State) (k : Nat) (f : Link → Link) : (s.setLink k f).kvRest = s.kvRest := rfl
@[simp] theorem State.setLink_refillAt (s : State) (k : Nat) (f : Link → Link) : (s.setLink k f).refillAt = s.refillAt := rfl
@[simp] theorem State.setLink_due (s : State) (k : Nat) (f : Link → Link) : (s.setLink k f).due = s.due := rfl
@[simp] theorem State.setLink_rrAt (s : State) (k : Nat) (f : Link → Link) : (s.setLink k f).rrAt = s.rrAt := rfl
@[simp] theorem State.setLink_linkOps (s : State) (k : Nat) (f : Link → Link) : (s.setLink k f).linkOps = s.linkOps := rfl
@[simp] theorem State.setLink_linkTx (s : State) (k : Nat) (f : Link → Link) : (s.setLink k f).linkTx = s.linkTx := rfl
@[simp] theorem State.setLink_linkOpNo (s : State) (k : Nat) (f : Link → Link) : (s.setLink k f).linkOpNo = s.linkOpNo := rfl
@[simp] theorem State.setLink_linkSeq (s : State) (k : Nat) (f : Link → Link) : (s.setLink k f).linkSeq = s.linkSeq := rfl
@[simp] theorem State.setLink_linkFlit (s : State) (k : Nat) (f : Link → Link) : (s.setLink k f).linkFlit = s.linkFlit := rfl
@[simp] theorem State.setLink_landing (s : State) (k : Nat) (f : Link → Link) : (s.setLink k f).landing = s.landing := rfl
@[simp] theorem State.setLink_tb (s : State) (k : Nat) (f : Link → Link) : (s.setLink k f).tb = s.tb := rfl
@[simp] theorem State.setLink_tbLatch (s : State) (k : Nat) (f : Link → Link) : (s.setLink k f).tbLatch = s.tbLatch := rfl
@[simp] theorem State.setLink_cmp (s : State) (k : Nat) (f : Link → Link) : (s.setLink k f).cmp = s.cmp := rfl
@[simp] theorem State.setLink_pulses (s : State) (k : Nat) (f : Link → Link) : (s.setLink k f).pulses = s.pulses := rfl
@[simp] theorem State.setLink_capt (s : State) (k : Nat) (f : Link → Link) : (s.setLink k f).capt = s.capt := rfl
@[simp] theorem State.setLink_rings (s : State) (k : Nat) (f : Link → Link) : (s.setLink k f).rings = s.rings := rfl
@[simp] theorem State.setLink_msgs (s : State) (k : Nat) (f : Link → Link) : (s.setLink k f).msgs = s.msgs := rfl
@[simp] theorem State.setLink_ibc (s : State) (k : Nat) (f : Link → Link) : (s.setLink k f).ibc = s.ibc := rfl
@[simp] theorem State.setLink_lodge (s : State) (k : Nat) (f : Link → Link) : (s.setLink k f).lodge = s.lodge := rfl
@[simp] theorem State.setLink_stg (s : State) (k : Nat) (f : Link → Link) : (s.setLink k f).stg = s.stg := rfl
@[simp] theorem State.setLink_car (s : State) (k : Nat) (f : Link → Link) : (s.setLink k f).car = s.car := rfl
@[simp] theorem State.setLink_fhTx (s : State) (k : Nat) (f : Link → Link) : (s.setLink k f).fhTx = s.fhTx := rfl
@[simp] theorem State.setLink_fhSeq (s : State) (k : Nat) (f : Link → Link) : (s.setLink k f).fhSeq = s.fhSeq := rfl
@[simp] theorem State.setLink_ldpcTbl (s : State) (k : Nat) (f : Link → Link) : (s.setLink k f).ldpcTbl = s.ldpcTbl := rfl
@[simp] theorem State.setLink_ldpcLoad (s : State) (k : Nat) (f : Link → Link) : (s.setLink k f).ldpcLoad = s.ldpcLoad := rfl
@[simp] theorem State.setLink_ldpcEng (s : State) (k : Nat) (f : Link → Link) : (s.setLink k f).ldpcEng = s.ldpcEng := rfl
@[simp] theorem State.setLink_crcJobs (s : State) (k : Nat) (f : Link → Link) : (s.setLink k f).crcJobs = s.crcJobs := rfl
@[simp] theorem State.setLink_grant (s : State) (k : Nat) (f : Link → Link) : (s.setLink k f).grant = s.grant := rfl
@[simp] theorem State.setLink_bq (s : State) (k : Nat) (f : Link → Link) : (s.setLink k f).bq = s.bq := rfl
@[simp] theorem State.setLink_strm (s : State) (k : Nat) (f : Link → Link) : (s.setLink k f).strm = s.strm := rfl
@[simp] theorem State.setLink_smp (s : State) (k : Nat) (f : Link → Link) : (s.setLink k f).smp = s.smp := rfl
@[simp] theorem State.setLink_innHalt (s : State) (k : Nat) (f : Link → Link) : (s.setLink k f).innHalt = s.innHalt := rfl
@[simp] theorem State.setLink_porterHalt (s : State) (k : Nat) (f : Link → Link) : (s.setLink k f).porterHalt = s.porterHalt := rfl
@[simp] theorem State.setLink_airIn (s : State) (k : Nat) (f : Link → Link) : (s.setLink k f).airIn = s.airIn := rfl
@[simp] theorem State.setLink_rdata (s : State) (k : Nat) (f : Link → Link) : (s.setLink k f).rdata = s.rdata := rfl
@[simp] theorem State.setLink_unlocked (s : State) (k : Nat) (f : Link → Link) : (s.setLink k f).unlocked = s.unlocked := rfl
@[simp] theorem State.setLink_ptpQ (s : State) (k : Nat) (f : Link → Link) : (s.setLink k f).ptpQ = s.ptpQ := rfl
@[simp] theorem State.setLink_masked (s : State) (k : Nat) (f : Link → Link) : (s.setLink k f).masked = s.masked := rfl
@[simp] theorem State.setLink_failed (s : State) (k : Nat) (f : Link → Link) : (s.setLink k f).failed = s.failed := rfl
@[simp] theorem State.setLink_answer (s : State) (k : Nat) (f : Link → Link) : (s.setLink k f).answer = s.answer := rfl
@[simp] theorem State.setLink_epochs (s : State) (k : Nat) (f : Link → Link) : (s.setLink k f).epochs = s.epochs := rfl
@[simp] theorem State.setLink_cover (s : State) (k : Nat) (f : Link → Link) : (s.setLink k f).cover = s.cover := rfl
@[simp] theorem State.setLink_wearHist (s : State) (k : Nat) (f : Link → Link) : (s.setLink k f).wearHist = s.wearHist := rfl
@[simp] theorem State.setLink_wearNext (s : State) (k : Nat) (f : Link → Link) : (s.setLink k f).wearNext = s.wearNext := rfl
@[simp] theorem State.setLink_wearN (s : State) (k : Nat) (f : Link → Link) : (s.setLink k f).wearN = s.wearN := rfl
@[simp] theorem State.setLink_repairs (s : State) (k : Nat) (f : Link → Link) : (s.setLink k f).repairs = s.repairs := rfl
@[simp] theorem State.setLink_tierFix (s : State) (k : Nat) (f : Link → Link) : (s.setLink k f).tierFix = s.tierFix := rfl
@[simp] theorem State.setLink_objMap (s : State) (k : Nat) (f : Link → Link) : (s.setLink k f).objMap = s.objMap := rfl
@[simp] theorem State.setLink_wearCnt (s : State) (k : Nat) (f : Link → Link) : (s.setLink k f).wearCnt = s.wearCnt := rfl
@[simp] theorem State.setLink_retired (s : State) (k : Nat) (f : Link → Link) : (s.setLink k f).retired = s.retired := rfl
@[simp] theorem State.setLink_wearDirty (s : State) (k : Nat) (f : Link → Link) : (s.setLink k f).wearDirty = s.wearDirty := rfl
@[simp] theorem State.setLink_wearAt (s : State) (k : Nat) (f : Link → Link) : (s.setLink k f).wearAt = s.wearAt := rfl
@[simp] theorem State.setLink_wearStep (s : State) (k : Nat) (f : Link → Link) : (s.setLink k f).wearStep = s.wearStep := rfl
@[simp] theorem State.setLink_wearMap (s : State) (k : Nat) (f : Link → Link) : (s.setLink k f).wearMap = s.wearMap := rfl
@[simp] theorem State.setLink_therm (s : State) (k : Nat) (f : Link → Link) : (s.setLink k f).therm = s.therm := rfl
@[simp] theorem State.setLink_wrec (s : State) (k : Nat) (f : Link → Link) : (s.setLink k f).wrec = s.wrec := rfl
@[simp] theorem State.setLink_fw (s : State) (k : Nat) (f : Link → Link) : (s.setLink k f).fw = s.fw := rfl
@[simp] theorem State.setLink_fwNew (s : State) (k : Nat) (f : Link → Link) : (s.setLink k f).fwNew = s.fwNew := rfl
@[simp] theorem State.setLink_flash (s : State) (k : Nat) (f : Link → Link) : (s.setLink k f).flash = s.flash := rfl
@[simp] theorem State.setLink_flashSize (s : State) (k : Nat) (f : Link → Link) : (s.setLink k f).flashSize = s.flashSize := rfl
@[simp] theorem State.setLink_flashOp (s : State) (k : Nat) (f : Link → Link) : (s.setLink k f).flashOp = s.flashOp := rfl
@[simp] theorem State.setLink_flashStat (s : State) (k : Nat) (f : Link → Link) : (s.setLink k f).flashStat = s.flashStat := rfl
@[simp] theorem State.setLink_fuses (s : State) (k : Nat) (f : Link → Link) : (s.setLink k f).fuses = s.fuses := rfl
@[simp] theorem State.setLink_boot (s : State) (k : Nat) (f : Link → Link) : (s.setLink k f).boot = s.boot := rfl
@[simp] theorem State.setLink_quoxel (s : State) (k : Nat) (f : Link → Link) : (s.setLink k f).quoxel = s.quoxel := rfl
@[simp] theorem State.setLink_trained (s : State) (k : Nat) (f : Link → Link) : (s.setLink k f).trained = s.trained := rfl
@[simp] theorem State.setLink_inReset (s : State) (k : Nat) (f : Link → Link) : (s.setLink k f).inReset = s.inReset := rfl
@[simp] theorem State.setLink_refLoss (s : State) (k : Nat) (f : Link → Link) : (s.setLink k f).refLoss = s.refLoss := rfl
@[simp] theorem State.setLink_pmbFail (s : State) (k : Nat) (f : Link → Link) : (s.setLink k f).pmbFail = s.pmbFail := rfl
@[simp] theorem State.setLink_dutyUp (s : State) (k : Nat) (f : Link → Link) : (s.setLink k f).dutyUp = s.dutyUp := rfl
@[simp] theorem State.setLink_sensors (s : State) (k : Nat) (f : Link → Link) : (s.setLink k f).sensors = s.sensors := rfl
@[simp] theorem State.setLink_mbData (s : State) (k : Nat) (f : Link → Link) : (s.setLink k f).mbData = s.mbData := rfl
@[simp] theorem State.setLink_mbStat (s : State) (k : Nat) (f : Link → Link) : (s.setLink k f).mbStat = s.mbStat := rfl
@[simp] theorem State.setLink_sess (s : State) (k : Nat) (f : Link → Link) : (s.setLink k f).sess = s.sess := rfl
@[simp] theorem State.setLink_attests (s : State) (k : Nat) (f : Link → Link) : (s.setLink k f).attests = s.attests := rfl
@[simp] theorem State.setLink_chal (s : State) (k : Nat) (f : Link → Link) : (s.setLink k f).chal = s.chal := rfl
@[simp] theorem State.setLink_dbgFails (s : State) (k : Nat) (f : Link → Link) : (s.setLink k f).dbgFails = s.dbgFails := rfl
@[simp] theorem State.setLink_dbgLock (s : State) (k : Nat) (f : Link → Link) : (s.setLink k f).dbgLock = s.dbgLock := rfl
@[simp] theorem State.setLink_sweepAt (s : State) (k : Nat) (f : Link → Link) : (s.setLink k f).sweepAt = s.sweepAt := rfl
@[simp] theorem State.setLink_ledgDue (s : State) (k : Nat) (f : Link → Link) : (s.setLink k f).ledgDue = s.ledgDue := rfl
@[simp] theorem State.setLink_ledgGap (s : State) (k : Nat) (f : Link → Link) : (s.setLink k f).ledgGap = s.ledgGap := rfl
@[simp] theorem State.setLink_cntLatch (s : State) (k : Nat) (f : Link → Link) : (s.setLink k f).cntLatch = s.cntLatch := rfl
@[simp] theorem State.setLink_cntPend (s : State) (k : Nat) (f : Link → Link) : (s.setLink k f).cntPend = s.cntPend := rfl
@[simp] theorem State.setLink_tapIr (s : State) (k : Nat) (f : Link → Link) : (s.setLink k f).tapIr = s.tapIr := rfl
@[simp] theorem State.setLink_bsr (s : State) (k : Nat) (f : Link → Link) : (s.setLink k f).bsr = s.bsr := rfl
@[simp] theorem State.setLink_dbgAcc (s : State) (k : Nat) (f : Link → Link) : (s.setLink k f).dbgAcc = s.dbgAcc := rfl
@[simp] theorem State.setLink_scrubAt (s : State) (k : Nat) (f : Link → Link) : (s.setLink k f).scrubAt = s.scrubAt := rfl
@[simp] theorem State.setLink_step2 (s : State) (k : Nat) (f : Link → Link) : (s.setLink k f).step2 = s.step2 := rfl
@[simp] theorem State.setRings_pending (s : State) (l : Nat) (f : Rings → Rings) : (s.setRings l f).pending = s.pending := rfl
@[simp] theorem State.setRings_cycle (s : State) (l : Nat) (f : Rings → Rings) : (s.setRings l f).cycle = s.cycle := rfl
@[simp] theorem State.setRings_free (s : State) (l : Nat) (f : Rings → Rings) : (s.setRings l f).free = s.free := rfl
@[simp] theorem State.setRings_regs (s : State) (l : Nat) (f : Rings → Rings) : (s.setRings l f).regs = s.regs := rfl
@[simp] theorem State.setRings_mem (s : State) (l : Nat) (f : Rings → Rings) : (s.setRings l f).mem = s.mem := rfl
@[simp] theorem State.setRings_host (s : State) (l : Nat) (f : Rings → Rings) : (s.setRings l f).host = s.host := rfl
@[simp] theorem State.setRings_poison (s : State) (l : Nat) (f : Rings → Rings) : (s.setRings l f).poison = s.poison := rfl
@[simp] theorem State.setRings_tc (s : State) (l : Nat) (f : Rings → Rings) : (s.setRings l f).tc = s.tc := rfl
@[simp] theorem State.setRings_tags (s : State) (l : Nat) (f : Rings → Rings) : (s.setRings l f).tags = s.tags := rfl
@[simp] theorem State.setRings_bn (s : State) (l : Nat) (f : Rings → Rings) : (s.setRings l f).bn = s.bn := rfl
@[simp] theorem State.setRings_kv (s : State) (l : Nat) (f : Rings → Rings) : (s.setRings l f).kv = s.kv := rfl
@[simp] theorem State.setRings_kvMoves (s : State) (l : Nat) (f : Rings → Rings) : (s.setRings l f).kvMoves = s.kvMoves := rfl
@[simp] theorem State.setRings_kvq (s : State) (l : Nat) (f : Rings → Rings) : (s.setRings l f).kvq = s.kvq := rfl
@[simp] theorem State.setRings_kvXfer (s : State) (l : Nat) (f : Rings → Rings) : (s.setRings l f).kvXfer = s.kvXfer := rfl
@[simp] theorem State.setRings_kvRest (s : State) (l : Nat) (f : Rings → Rings) : (s.setRings l f).kvRest = s.kvRest := rfl
@[simp] theorem State.setRings_refillAt (s : State) (l : Nat) (f : Rings → Rings) : (s.setRings l f).refillAt = s.refillAt := rfl
@[simp] theorem State.setRings_due (s : State) (l : Nat) (f : Rings → Rings) : (s.setRings l f).due = s.due := rfl
@[simp] theorem State.setRings_rrAt (s : State) (l : Nat) (f : Rings → Rings) : (s.setRings l f).rrAt = s.rrAt := rfl
@[simp] theorem State.setRings_linkOps (s : State) (l : Nat) (f : Rings → Rings) : (s.setRings l f).linkOps = s.linkOps := rfl
@[simp] theorem State.setRings_linkTx (s : State) (l : Nat) (f : Rings → Rings) : (s.setRings l f).linkTx = s.linkTx := rfl
@[simp] theorem State.setRings_linkOpNo (s : State) (l : Nat) (f : Rings → Rings) : (s.setRings l f).linkOpNo = s.linkOpNo := rfl
@[simp] theorem State.setRings_linkSeq (s : State) (l : Nat) (f : Rings → Rings) : (s.setRings l f).linkSeq = s.linkSeq := rfl
@[simp] theorem State.setRings_linkFlit (s : State) (l : Nat) (f : Rings → Rings) : (s.setRings l f).linkFlit = s.linkFlit := rfl
@[simp] theorem State.setRings_landing (s : State) (l : Nat) (f : Rings → Rings) : (s.setRings l f).landing = s.landing := rfl
@[simp] theorem State.setRings_tb (s : State) (l : Nat) (f : Rings → Rings) : (s.setRings l f).tb = s.tb := rfl
@[simp] theorem State.setRings_tbLatch (s : State) (l : Nat) (f : Rings → Rings) : (s.setRings l f).tbLatch = s.tbLatch := rfl
@[simp] theorem State.setRings_cmp (s : State) (l : Nat) (f : Rings → Rings) : (s.setRings l f).cmp = s.cmp := rfl
@[simp] theorem State.setRings_pulses (s : State) (l : Nat) (f : Rings → Rings) : (s.setRings l f).pulses = s.pulses := rfl
@[simp] theorem State.setRings_capt (s : State) (l : Nat) (f : Rings → Rings) : (s.setRings l f).capt = s.capt := rfl
@[simp] theorem State.setRings_msgs (s : State) (l : Nat) (f : Rings → Rings) : (s.setRings l f).msgs = s.msgs := rfl
@[simp] theorem State.setRings_ibc (s : State) (l : Nat) (f : Rings → Rings) : (s.setRings l f).ibc = s.ibc := rfl
@[simp] theorem State.setRings_lodge (s : State) (l : Nat) (f : Rings → Rings) : (s.setRings l f).lodge = s.lodge := rfl
@[simp] theorem State.setRings_stg (s : State) (l : Nat) (f : Rings → Rings) : (s.setRings l f).stg = s.stg := rfl
@[simp] theorem State.setRings_car (s : State) (l : Nat) (f : Rings → Rings) : (s.setRings l f).car = s.car := rfl
@[simp] theorem State.setRings_fhTx (s : State) (l : Nat) (f : Rings → Rings) : (s.setRings l f).fhTx = s.fhTx := rfl
@[simp] theorem State.setRings_fhSeq (s : State) (l : Nat) (f : Rings → Rings) : (s.setRings l f).fhSeq = s.fhSeq := rfl
@[simp] theorem State.setRings_ldpcTbl (s : State) (l : Nat) (f : Rings → Rings) : (s.setRings l f).ldpcTbl = s.ldpcTbl := rfl
@[simp] theorem State.setRings_ldpcLoad (s : State) (l : Nat) (f : Rings → Rings) : (s.setRings l f).ldpcLoad = s.ldpcLoad := rfl
@[simp] theorem State.setRings_ldpcEng (s : State) (l : Nat) (f : Rings → Rings) : (s.setRings l f).ldpcEng = s.ldpcEng := rfl
@[simp] theorem State.setRings_crcJobs (s : State) (l : Nat) (f : Rings → Rings) : (s.setRings l f).crcJobs = s.crcJobs := rfl
@[simp] theorem State.setRings_grant (s : State) (l : Nat) (f : Rings → Rings) : (s.setRings l f).grant = s.grant := rfl
@[simp] theorem State.setRings_bq (s : State) (l : Nat) (f : Rings → Rings) : (s.setRings l f).bq = s.bq := rfl
@[simp] theorem State.setRings_strm (s : State) (l : Nat) (f : Rings → Rings) : (s.setRings l f).strm = s.strm := rfl
@[simp] theorem State.setRings_smp (s : State) (l : Nat) (f : Rings → Rings) : (s.setRings l f).smp = s.smp := rfl
@[simp] theorem State.setRings_innHalt (s : State) (l : Nat) (f : Rings → Rings) : (s.setRings l f).innHalt = s.innHalt := rfl
@[simp] theorem State.setRings_porterHalt (s : State) (l : Nat) (f : Rings → Rings) : (s.setRings l f).porterHalt = s.porterHalt := rfl
@[simp] theorem State.setRings_airIn (s : State) (l : Nat) (f : Rings → Rings) : (s.setRings l f).airIn = s.airIn := rfl
@[simp] theorem State.setRings_rdata (s : State) (l : Nat) (f : Rings → Rings) : (s.setRings l f).rdata = s.rdata := rfl
@[simp] theorem State.setRings_unlocked (s : State) (l : Nat) (f : Rings → Rings) : (s.setRings l f).unlocked = s.unlocked := rfl
@[simp] theorem State.setRings_ptpQ (s : State) (l : Nat) (f : Rings → Rings) : (s.setRings l f).ptpQ = s.ptpQ := rfl
@[simp] theorem State.setRings_masked (s : State) (l : Nat) (f : Rings → Rings) : (s.setRings l f).masked = s.masked := rfl
@[simp] theorem State.setRings_failed (s : State) (l : Nat) (f : Rings → Rings) : (s.setRings l f).failed = s.failed := rfl
@[simp] theorem State.setRings_answer (s : State) (l : Nat) (f : Rings → Rings) : (s.setRings l f).answer = s.answer := rfl
@[simp] theorem State.setRings_epochs (s : State) (l : Nat) (f : Rings → Rings) : (s.setRings l f).epochs = s.epochs := rfl
@[simp] theorem State.setRings_cover (s : State) (l : Nat) (f : Rings → Rings) : (s.setRings l f).cover = s.cover := rfl
@[simp] theorem State.setRings_links (s : State) (l : Nat) (f : Rings → Rings) : (s.setRings l f).links = s.links := rfl
@[simp] theorem State.setRings_wearHist (s : State) (l : Nat) (f : Rings → Rings) : (s.setRings l f).wearHist = s.wearHist := rfl
@[simp] theorem State.setRings_wearNext (s : State) (l : Nat) (f : Rings → Rings) : (s.setRings l f).wearNext = s.wearNext := rfl
@[simp] theorem State.setRings_wearN (s : State) (l : Nat) (f : Rings → Rings) : (s.setRings l f).wearN = s.wearN := rfl
@[simp] theorem State.setRings_repairs (s : State) (l : Nat) (f : Rings → Rings) : (s.setRings l f).repairs = s.repairs := rfl
@[simp] theorem State.setRings_tierFix (s : State) (l : Nat) (f : Rings → Rings) : (s.setRings l f).tierFix = s.tierFix := rfl
@[simp] theorem State.setRings_objMap (s : State) (l : Nat) (f : Rings → Rings) : (s.setRings l f).objMap = s.objMap := rfl
@[simp] theorem State.setRings_wearCnt (s : State) (l : Nat) (f : Rings → Rings) : (s.setRings l f).wearCnt = s.wearCnt := rfl
@[simp] theorem State.setRings_retired (s : State) (l : Nat) (f : Rings → Rings) : (s.setRings l f).retired = s.retired := rfl
@[simp] theorem State.setRings_wearDirty (s : State) (l : Nat) (f : Rings → Rings) : (s.setRings l f).wearDirty = s.wearDirty := rfl
@[simp] theorem State.setRings_wearAt (s : State) (l : Nat) (f : Rings → Rings) : (s.setRings l f).wearAt = s.wearAt := rfl
@[simp] theorem State.setRings_wearStep (s : State) (l : Nat) (f : Rings → Rings) : (s.setRings l f).wearStep = s.wearStep := rfl
@[simp] theorem State.setRings_wearMap (s : State) (l : Nat) (f : Rings → Rings) : (s.setRings l f).wearMap = s.wearMap := rfl
@[simp] theorem State.setRings_therm (s : State) (l : Nat) (f : Rings → Rings) : (s.setRings l f).therm = s.therm := rfl
@[simp] theorem State.setRings_wrec (s : State) (l : Nat) (f : Rings → Rings) : (s.setRings l f).wrec = s.wrec := rfl
@[simp] theorem State.setRings_fw (s : State) (l : Nat) (f : Rings → Rings) : (s.setRings l f).fw = s.fw := rfl
@[simp] theorem State.setRings_fwNew (s : State) (l : Nat) (f : Rings → Rings) : (s.setRings l f).fwNew = s.fwNew := rfl
@[simp] theorem State.setRings_flash (s : State) (l : Nat) (f : Rings → Rings) : (s.setRings l f).flash = s.flash := rfl
@[simp] theorem State.setRings_flashSize (s : State) (l : Nat) (f : Rings → Rings) : (s.setRings l f).flashSize = s.flashSize := rfl
@[simp] theorem State.setRings_flashOp (s : State) (l : Nat) (f : Rings → Rings) : (s.setRings l f).flashOp = s.flashOp := rfl
@[simp] theorem State.setRings_flashStat (s : State) (l : Nat) (f : Rings → Rings) : (s.setRings l f).flashStat = s.flashStat := rfl
@[simp] theorem State.setRings_fuses (s : State) (l : Nat) (f : Rings → Rings) : (s.setRings l f).fuses = s.fuses := rfl
@[simp] theorem State.setRings_boot (s : State) (l : Nat) (f : Rings → Rings) : (s.setRings l f).boot = s.boot := rfl
@[simp] theorem State.setRings_quoxel (s : State) (l : Nat) (f : Rings → Rings) : (s.setRings l f).quoxel = s.quoxel := rfl
@[simp] theorem State.setRings_trained (s : State) (l : Nat) (f : Rings → Rings) : (s.setRings l f).trained = s.trained := rfl
@[simp] theorem State.setRings_inReset (s : State) (l : Nat) (f : Rings → Rings) : (s.setRings l f).inReset = s.inReset := rfl
@[simp] theorem State.setRings_refLoss (s : State) (l : Nat) (f : Rings → Rings) : (s.setRings l f).refLoss = s.refLoss := rfl
@[simp] theorem State.setRings_pmbFail (s : State) (l : Nat) (f : Rings → Rings) : (s.setRings l f).pmbFail = s.pmbFail := rfl
@[simp] theorem State.setRings_dutyUp (s : State) (l : Nat) (f : Rings → Rings) : (s.setRings l f).dutyUp = s.dutyUp := rfl
@[simp] theorem State.setRings_sensors (s : State) (l : Nat) (f : Rings → Rings) : (s.setRings l f).sensors = s.sensors := rfl
@[simp] theorem State.setRings_mbData (s : State) (l : Nat) (f : Rings → Rings) : (s.setRings l f).mbData = s.mbData := rfl
@[simp] theorem State.setRings_mbStat (s : State) (l : Nat) (f : Rings → Rings) : (s.setRings l f).mbStat = s.mbStat := rfl
@[simp] theorem State.setRings_sess (s : State) (l : Nat) (f : Rings → Rings) : (s.setRings l f).sess = s.sess := rfl
@[simp] theorem State.setRings_attests (s : State) (l : Nat) (f : Rings → Rings) : (s.setRings l f).attests = s.attests := rfl
@[simp] theorem State.setRings_chal (s : State) (l : Nat) (f : Rings → Rings) : (s.setRings l f).chal = s.chal := rfl
@[simp] theorem State.setRings_dbgFails (s : State) (l : Nat) (f : Rings → Rings) : (s.setRings l f).dbgFails = s.dbgFails := rfl
@[simp] theorem State.setRings_dbgLock (s : State) (l : Nat) (f : Rings → Rings) : (s.setRings l f).dbgLock = s.dbgLock := rfl
@[simp] theorem State.setRings_sweepAt (s : State) (l : Nat) (f : Rings → Rings) : (s.setRings l f).sweepAt = s.sweepAt := rfl
@[simp] theorem State.setRings_ledgDue (s : State) (l : Nat) (f : Rings → Rings) : (s.setRings l f).ledgDue = s.ledgDue := rfl
@[simp] theorem State.setRings_ledgGap (s : State) (l : Nat) (f : Rings → Rings) : (s.setRings l f).ledgGap = s.ledgGap := rfl
@[simp] theorem State.setRings_cntLatch (s : State) (l : Nat) (f : Rings → Rings) : (s.setRings l f).cntLatch = s.cntLatch := rfl
@[simp] theorem State.setRings_cntPend (s : State) (l : Nat) (f : Rings → Rings) : (s.setRings l f).cntPend = s.cntPend := rfl
@[simp] theorem State.setRings_tapIr (s : State) (l : Nat) (f : Rings → Rings) : (s.setRings l f).tapIr = s.tapIr := rfl
@[simp] theorem State.setRings_bsr (s : State) (l : Nat) (f : Rings → Rings) : (s.setRings l f).bsr = s.bsr := rfl
@[simp] theorem State.setRings_dbgAcc (s : State) (l : Nat) (f : Rings → Rings) : (s.setRings l f).dbgAcc = s.dbgAcc := rfl
@[simp] theorem State.setRings_scrubAt (s : State) (l : Nat) (f : Rings → Rings) : (s.setRings l f).scrubAt = s.scrubAt := rfl
@[simp] theorem State.setRings_step2 (s : State) (l : Nat) (f : Rings → Rings) : (s.setRings l f).step2 = s.step2 := rfl
@[simp] theorem State.setCar_pending (s : State) (a : Nat) (f : Car → Car) : (s.setCar a f).pending = s.pending := rfl
@[simp] theorem State.setCar_cycle (s : State) (a : Nat) (f : Car → Car) : (s.setCar a f).cycle = s.cycle := rfl
@[simp] theorem State.setCar_free (s : State) (a : Nat) (f : Car → Car) : (s.setCar a f).free = s.free := rfl
@[simp] theorem State.setCar_regs (s : State) (a : Nat) (f : Car → Car) : (s.setCar a f).regs = s.regs := rfl
@[simp] theorem State.setCar_mem (s : State) (a : Nat) (f : Car → Car) : (s.setCar a f).mem = s.mem := rfl
@[simp] theorem State.setCar_host (s : State) (a : Nat) (f : Car → Car) : (s.setCar a f).host = s.host := rfl
@[simp] theorem State.setCar_poison (s : State) (a : Nat) (f : Car → Car) : (s.setCar a f).poison = s.poison := rfl
@[simp] theorem State.setCar_tc (s : State) (a : Nat) (f : Car → Car) : (s.setCar a f).tc = s.tc := rfl
@[simp] theorem State.setCar_tags (s : State) (a : Nat) (f : Car → Car) : (s.setCar a f).tags = s.tags := rfl
@[simp] theorem State.setCar_bn (s : State) (a : Nat) (f : Car → Car) : (s.setCar a f).bn = s.bn := rfl
@[simp] theorem State.setCar_kv (s : State) (a : Nat) (f : Car → Car) : (s.setCar a f).kv = s.kv := rfl
@[simp] theorem State.setCar_kvMoves (s : State) (a : Nat) (f : Car → Car) : (s.setCar a f).kvMoves = s.kvMoves := rfl
@[simp] theorem State.setCar_kvq (s : State) (a : Nat) (f : Car → Car) : (s.setCar a f).kvq = s.kvq := rfl
@[simp] theorem State.setCar_kvXfer (s : State) (a : Nat) (f : Car → Car) : (s.setCar a f).kvXfer = s.kvXfer := rfl
@[simp] theorem State.setCar_kvRest (s : State) (a : Nat) (f : Car → Car) : (s.setCar a f).kvRest = s.kvRest := rfl
@[simp] theorem State.setCar_refillAt (s : State) (a : Nat) (f : Car → Car) : (s.setCar a f).refillAt = s.refillAt := rfl
@[simp] theorem State.setCar_due (s : State) (a : Nat) (f : Car → Car) : (s.setCar a f).due = s.due := rfl
@[simp] theorem State.setCar_rrAt (s : State) (a : Nat) (f : Car → Car) : (s.setCar a f).rrAt = s.rrAt := rfl
@[simp] theorem State.setCar_linkOps (s : State) (a : Nat) (f : Car → Car) : (s.setCar a f).linkOps = s.linkOps := rfl
@[simp] theorem State.setCar_linkTx (s : State) (a : Nat) (f : Car → Car) : (s.setCar a f).linkTx = s.linkTx := rfl
@[simp] theorem State.setCar_linkOpNo (s : State) (a : Nat) (f : Car → Car) : (s.setCar a f).linkOpNo = s.linkOpNo := rfl
@[simp] theorem State.setCar_linkSeq (s : State) (a : Nat) (f : Car → Car) : (s.setCar a f).linkSeq = s.linkSeq := rfl
@[simp] theorem State.setCar_linkFlit (s : State) (a : Nat) (f : Car → Car) : (s.setCar a f).linkFlit = s.linkFlit := rfl
@[simp] theorem State.setCar_landing (s : State) (a : Nat) (f : Car → Car) : (s.setCar a f).landing = s.landing := rfl
@[simp] theorem State.setCar_tb (s : State) (a : Nat) (f : Car → Car) : (s.setCar a f).tb = s.tb := rfl
@[simp] theorem State.setCar_tbLatch (s : State) (a : Nat) (f : Car → Car) : (s.setCar a f).tbLatch = s.tbLatch := rfl
@[simp] theorem State.setCar_cmp (s : State) (a : Nat) (f : Car → Car) : (s.setCar a f).cmp = s.cmp := rfl
@[simp] theorem State.setCar_pulses (s : State) (a : Nat) (f : Car → Car) : (s.setCar a f).pulses = s.pulses := rfl
@[simp] theorem State.setCar_capt (s : State) (a : Nat) (f : Car → Car) : (s.setCar a f).capt = s.capt := rfl
@[simp] theorem State.setCar_rings (s : State) (a : Nat) (f : Car → Car) : (s.setCar a f).rings = s.rings := rfl
@[simp] theorem State.setCar_msgs (s : State) (a : Nat) (f : Car → Car) : (s.setCar a f).msgs = s.msgs := rfl
@[simp] theorem State.setCar_ibc (s : State) (a : Nat) (f : Car → Car) : (s.setCar a f).ibc = s.ibc := rfl
@[simp] theorem State.setCar_lodge (s : State) (a : Nat) (f : Car → Car) : (s.setCar a f).lodge = s.lodge := rfl
@[simp] theorem State.setCar_stg (s : State) (a : Nat) (f : Car → Car) : (s.setCar a f).stg = s.stg := rfl
@[simp] theorem State.setCar_fhTx (s : State) (a : Nat) (f : Car → Car) : (s.setCar a f).fhTx = s.fhTx := rfl
@[simp] theorem State.setCar_fhSeq (s : State) (a : Nat) (f : Car → Car) : (s.setCar a f).fhSeq = s.fhSeq := rfl
@[simp] theorem State.setCar_ldpcTbl (s : State) (a : Nat) (f : Car → Car) : (s.setCar a f).ldpcTbl = s.ldpcTbl := rfl
@[simp] theorem State.setCar_ldpcLoad (s : State) (a : Nat) (f : Car → Car) : (s.setCar a f).ldpcLoad = s.ldpcLoad := rfl
@[simp] theorem State.setCar_ldpcEng (s : State) (a : Nat) (f : Car → Car) : (s.setCar a f).ldpcEng = s.ldpcEng := rfl
@[simp] theorem State.setCar_crcJobs (s : State) (a : Nat) (f : Car → Car) : (s.setCar a f).crcJobs = s.crcJobs := rfl
@[simp] theorem State.setCar_grant (s : State) (a : Nat) (f : Car → Car) : (s.setCar a f).grant = s.grant := rfl
@[simp] theorem State.setCar_bq (s : State) (a : Nat) (f : Car → Car) : (s.setCar a f).bq = s.bq := rfl
@[simp] theorem State.setCar_strm (s : State) (a : Nat) (f : Car → Car) : (s.setCar a f).strm = s.strm := rfl
@[simp] theorem State.setCar_smp (s : State) (a : Nat) (f : Car → Car) : (s.setCar a f).smp = s.smp := rfl
@[simp] theorem State.setCar_innHalt (s : State) (a : Nat) (f : Car → Car) : (s.setCar a f).innHalt = s.innHalt := rfl
@[simp] theorem State.setCar_porterHalt (s : State) (a : Nat) (f : Car → Car) : (s.setCar a f).porterHalt = s.porterHalt := rfl
@[simp] theorem State.setCar_airIn (s : State) (a : Nat) (f : Car → Car) : (s.setCar a f).airIn = s.airIn := rfl
@[simp] theorem State.setCar_rdata (s : State) (a : Nat) (f : Car → Car) : (s.setCar a f).rdata = s.rdata := rfl
@[simp] theorem State.setCar_unlocked (s : State) (a : Nat) (f : Car → Car) : (s.setCar a f).unlocked = s.unlocked := rfl
@[simp] theorem State.setCar_ptpQ (s : State) (a : Nat) (f : Car → Car) : (s.setCar a f).ptpQ = s.ptpQ := rfl
@[simp] theorem State.setCar_masked (s : State) (a : Nat) (f : Car → Car) : (s.setCar a f).masked = s.masked := rfl
@[simp] theorem State.setCar_failed (s : State) (a : Nat) (f : Car → Car) : (s.setCar a f).failed = s.failed := rfl
@[simp] theorem State.setCar_answer (s : State) (a : Nat) (f : Car → Car) : (s.setCar a f).answer = s.answer := rfl
@[simp] theorem State.setCar_epochs (s : State) (a : Nat) (f : Car → Car) : (s.setCar a f).epochs = s.epochs := rfl
@[simp] theorem State.setCar_cover (s : State) (a : Nat) (f : Car → Car) : (s.setCar a f).cover = s.cover := rfl
@[simp] theorem State.setCar_links (s : State) (a : Nat) (f : Car → Car) : (s.setCar a f).links = s.links := rfl
@[simp] theorem State.setCar_wearHist (s : State) (a : Nat) (f : Car → Car) : (s.setCar a f).wearHist = s.wearHist := rfl
@[simp] theorem State.setCar_wearNext (s : State) (a : Nat) (f : Car → Car) : (s.setCar a f).wearNext = s.wearNext := rfl
@[simp] theorem State.setCar_wearN (s : State) (a : Nat) (f : Car → Car) : (s.setCar a f).wearN = s.wearN := rfl
@[simp] theorem State.setCar_repairs (s : State) (a : Nat) (f : Car → Car) : (s.setCar a f).repairs = s.repairs := rfl
@[simp] theorem State.setCar_tierFix (s : State) (a : Nat) (f : Car → Car) : (s.setCar a f).tierFix = s.tierFix := rfl
@[simp] theorem State.setCar_objMap (s : State) (a : Nat) (f : Car → Car) : (s.setCar a f).objMap = s.objMap := rfl
@[simp] theorem State.setCar_wearCnt (s : State) (a : Nat) (f : Car → Car) : (s.setCar a f).wearCnt = s.wearCnt := rfl
@[simp] theorem State.setCar_retired (s : State) (a : Nat) (f : Car → Car) : (s.setCar a f).retired = s.retired := rfl
@[simp] theorem State.setCar_wearDirty (s : State) (a : Nat) (f : Car → Car) : (s.setCar a f).wearDirty = s.wearDirty := rfl
@[simp] theorem State.setCar_wearAt (s : State) (a : Nat) (f : Car → Car) : (s.setCar a f).wearAt = s.wearAt := rfl
@[simp] theorem State.setCar_wearStep (s : State) (a : Nat) (f : Car → Car) : (s.setCar a f).wearStep = s.wearStep := rfl
@[simp] theorem State.setCar_wearMap (s : State) (a : Nat) (f : Car → Car) : (s.setCar a f).wearMap = s.wearMap := rfl
@[simp] theorem State.setCar_therm (s : State) (a : Nat) (f : Car → Car) : (s.setCar a f).therm = s.therm := rfl
@[simp] theorem State.setCar_wrec (s : State) (a : Nat) (f : Car → Car) : (s.setCar a f).wrec = s.wrec := rfl
@[simp] theorem State.setCar_fw (s : State) (a : Nat) (f : Car → Car) : (s.setCar a f).fw = s.fw := rfl
@[simp] theorem State.setCar_fwNew (s : State) (a : Nat) (f : Car → Car) : (s.setCar a f).fwNew = s.fwNew := rfl
@[simp] theorem State.setCar_flash (s : State) (a : Nat) (f : Car → Car) : (s.setCar a f).flash = s.flash := rfl
@[simp] theorem State.setCar_flashSize (s : State) (a : Nat) (f : Car → Car) : (s.setCar a f).flashSize = s.flashSize := rfl
@[simp] theorem State.setCar_flashOp (s : State) (a : Nat) (f : Car → Car) : (s.setCar a f).flashOp = s.flashOp := rfl
@[simp] theorem State.setCar_flashStat (s : State) (a : Nat) (f : Car → Car) : (s.setCar a f).flashStat = s.flashStat := rfl
@[simp] theorem State.setCar_fuses (s : State) (a : Nat) (f : Car → Car) : (s.setCar a f).fuses = s.fuses := rfl
@[simp] theorem State.setCar_boot (s : State) (a : Nat) (f : Car → Car) : (s.setCar a f).boot = s.boot := rfl
@[simp] theorem State.setCar_quoxel (s : State) (a : Nat) (f : Car → Car) : (s.setCar a f).quoxel = s.quoxel := rfl
@[simp] theorem State.setCar_trained (s : State) (a : Nat) (f : Car → Car) : (s.setCar a f).trained = s.trained := rfl
@[simp] theorem State.setCar_inReset (s : State) (a : Nat) (f : Car → Car) : (s.setCar a f).inReset = s.inReset := rfl
@[simp] theorem State.setCar_refLoss (s : State) (a : Nat) (f : Car → Car) : (s.setCar a f).refLoss = s.refLoss := rfl
@[simp] theorem State.setCar_pmbFail (s : State) (a : Nat) (f : Car → Car) : (s.setCar a f).pmbFail = s.pmbFail := rfl
@[simp] theorem State.setCar_dutyUp (s : State) (a : Nat) (f : Car → Car) : (s.setCar a f).dutyUp = s.dutyUp := rfl
@[simp] theorem State.setCar_sensors (s : State) (a : Nat) (f : Car → Car) : (s.setCar a f).sensors = s.sensors := rfl
@[simp] theorem State.setCar_mbData (s : State) (a : Nat) (f : Car → Car) : (s.setCar a f).mbData = s.mbData := rfl
@[simp] theorem State.setCar_mbStat (s : State) (a : Nat) (f : Car → Car) : (s.setCar a f).mbStat = s.mbStat := rfl
@[simp] theorem State.setCar_sess (s : State) (a : Nat) (f : Car → Car) : (s.setCar a f).sess = s.sess := rfl
@[simp] theorem State.setCar_attests (s : State) (a : Nat) (f : Car → Car) : (s.setCar a f).attests = s.attests := rfl
@[simp] theorem State.setCar_chal (s : State) (a : Nat) (f : Car → Car) : (s.setCar a f).chal = s.chal := rfl
@[simp] theorem State.setCar_dbgFails (s : State) (a : Nat) (f : Car → Car) : (s.setCar a f).dbgFails = s.dbgFails := rfl
@[simp] theorem State.setCar_dbgLock (s : State) (a : Nat) (f : Car → Car) : (s.setCar a f).dbgLock = s.dbgLock := rfl
@[simp] theorem State.setCar_sweepAt (s : State) (a : Nat) (f : Car → Car) : (s.setCar a f).sweepAt = s.sweepAt := rfl
@[simp] theorem State.setCar_ledgDue (s : State) (a : Nat) (f : Car → Car) : (s.setCar a f).ledgDue = s.ledgDue := rfl
@[simp] theorem State.setCar_ledgGap (s : State) (a : Nat) (f : Car → Car) : (s.setCar a f).ledgGap = s.ledgGap := rfl
@[simp] theorem State.setCar_cntLatch (s : State) (a : Nat) (f : Car → Car) : (s.setCar a f).cntLatch = s.cntLatch := rfl
@[simp] theorem State.setCar_cntPend (s : State) (a : Nat) (f : Car → Car) : (s.setCar a f).cntPend = s.cntPend := rfl
@[simp] theorem State.setCar_tapIr (s : State) (a : Nat) (f : Car → Car) : (s.setCar a f).tapIr = s.tapIr := rfl
@[simp] theorem State.setCar_bsr (s : State) (a : Nat) (f : Car → Car) : (s.setCar a f).bsr = s.bsr := rfl
@[simp] theorem State.setCar_dbgAcc (s : State) (a : Nat) (f : Car → Car) : (s.setCar a f).dbgAcc = s.dbgAcc := rfl
@[simp] theorem State.setCar_scrubAt (s : State) (a : Nat) (f : Car → Car) : (s.setCar a f).scrubAt = s.scrubAt := rfl
@[simp] theorem State.setCar_step2 (s : State) (a : Nat) (f : Car → Car) : (s.setCar a f).step2 = s.step2 := rfl
end Sys2Proof.Machine
end

