-- ==== Sys2Proof/Tests/Slice0.lean ====
section
/-! SUPPORT. Small tests of single commands, a term that each well-formedness check refuses, and for each statement of
Obligations.lean a witness: concrete states and operands that meet its hypotheses, clause by clause. Expected values come from the
rules of spec/ cited. -/
namespace Sys2Proof.Tests
open Sys2Proof Sys2Proof.Machine

set_option maxRecDepth 100000
set_option exponentiation.threshold 1000

/-! ### States to try the machine on -/

/-- Reset, with the values of some registers. -/
def at_ (rs : List (Nat × Word)) : State := { State.reset with regs := rs }
/-- In service, with the values of some registers behind PWR.BOOT. -/
def up (rs : List (Nat × Word) := []) : State := at_ ((Reg.PWR_BOOT, 1) :: rs)

/-! ### Well-formed commands: a term that each check refuses -/

/-- Command words of a wrong opcode; Iambel words of a wrong one. -/
def wNone : CmdWord := BitVec.ofNat 128 (0xF0 * 2 ^ 120)
def wNop : CmdWord := 0
def iNone : Word := BitVec.ofNat 32 (0x12 * 2 ^ 26)
def iNop : Word := 0

theorem test_wf_refuses_tensor_core_words : ([Instr.nop 0 .a wNone, .wait 0 .a wNop, .signal 0 .a wNop, .arm 0 .a wNop, .fence 0 .a wNop,
    .endStream 0 .a wNop, .mark 0 .a wNop, .mov 0 .a wNop, .rot 0 .a wNop, .pagePut 0 .a wNop, .pageGet 0 .a wNop, .pass 0 .a wNop,
    .tile 0 .a wNop, .lds 0 .a wNop, .drain 0 .a wNop, .vld 0 .a wNop, .vst 0 .a wNop, .vbin 0 .a wNop, .vun 0 .a wNop, .vfma 0 .a wNop,
    .vcvt 0 .a wNop, .vfree 0 .a wNop, .red 0 .a wNop, .topk 0 .a wNop, .smx1 0 .a wNop, .smx2 0 .a wNop, .sfn 0 .a wNop,
    .tload 0 .a wNop, .tswap 0 .a wNop, .qnt 0 .a wNop, .dequant 0 .a wNop, .attach 0 .a wNop, .detach 0 .a wNop, .recordMax 0 .a wNop,
    .qmaxClear 0 .a wNop, .oside 0 .a wNop, .att 0 .a wNop, .poolCreate 0 .a wNop, .join 0 .a wNop, .leave 0 .a wNop,
    .kvappStep 0 .a wNop, .append 0 .a wNop, .fork 0 .a wNop, .pinBlocks 0 .a wNop, .unpinBlocks 0 .a wNop, .grow 0 .a wNop,
    .close 0 .a wNop, .lookup 0 .a wNop, .publish 0 .a wNop, .pfxFlush 0 .a wNop, .cmul 0 .a wNop, .cinv 0 .a wNop, .llrpk 0 .a wNop,
    .brk 0 .a wNop].all fun i => !i.wf) = true := by decide

/-- The FUNC field picks the row: each of these words has the opcode and another row's function. -/
theorem test_wf_refuses_other_functions :
    let w (op f : Nat) : CmdWord := BitVec.ofNat 128 (op * 2 ^ 120 + f * 2 ^ 78)
    ([Instr.dequant 0 .a (w 0x61 1), .dequant 0 .a (w 0x61 2), .attach 0 .a (w 0x61 0), .detach 0 .a (w 0x61 1), .recordMax 0 .a (w 0x62 1),
      .qmaxClear 0 .a (w 0x62 0), .poolCreate 0 .a (w 0x71 1), .join 0 .a (w 0x71 2), .leave 0 .a (w 0x71 3), .kvappStep 0 .a (w 0x71 4),
      .append 0 .a (w 0x71 5), .fork 0 .a (w 0x71 6), .pinBlocks 0 .a (w 0x71 7), .unpinBlocks 0 .a (w 0x71 8), .grow 0 .a (w 0x71 9),
      .close 0 .a (w 0x71 0), .lookup 0 .a (w 0x72 1), .lookup 0 .a (w 0x72 2), .publish 0 .a (w 0x72 2),
      .pfxFlush 0 .a (w 0x72 1)].all fun i => !i.wf) = true := by decide

theorem test_wf_refuses_iambel_words :
    let w (op fn : Nat) : Word := BitVec.ofNat 32 (op * 2 ^ 26 + fn * 2 ^ 22)
    ([Instr.ibcNop 0 iNone 0, .ftap 0 iNop 0, .macIns 0 iNop 0, .cmac 0 iNop 0, .alu 0 iNop 0, .alui 0 iNop 0, .ldi 0 iNop 0, .acop 0 iNop 0,
      .mv 0 iNop 0, .ldst 0 iNop 0, .loopIns 0 iNop 0, .repIns 0 iNop 0, .br 0 iNop 0, .call 0 iNop 0, .retIns 0 iNop 0,
      .retIns 0 (w 0xE 1) 0, .reti 0 (w 0xE 0) 0, .ei 0 (w 0xE 0) 0, .di 0 (w 0xE 0) 0, .idleIbc 0 (w 0xE 0) 0, .stopIbc 0 (w 0xE 0) 0,
      .trapIbc 0 (w 0xE 7) 0, .ibcBrk 0 (w 0xE 6) 0, .blkend 0 (w 0xF 4) 0, .blkclr 0 (w 0xF 0) 0, .chkpt 0 (w 0xF 4) 0, .sig 0 (w 0x10 4) 0,
      .waits 0 (w 0x10 0) 0, .syncArm 0 (w 0x10 4) 0, .xfer 0 iNop 0, .creg 0 iNop 0].all fun i => !i.wf) = true := by decide

theorem test_wf_refuses_fields_out_of_range :
    let start (w sp v : Nat) : Instr := .startUp ⟨true, true, true, true, true, [], w, sp, v⟩
    let fh (ty eaxc seq prb0 meth width : Nat) : Instr := .fhUplaneRx 0 false ⟨1500, 0, 0xAEFE, 1, false⟩ ty eaxc seq 0 0 0 prb0 meth width []
    let rec_ (seq n : Nat) : Instr := .linkRecordRx 0 true seq 1 true 0 0 0 0 0 0 (List.replicate n 0)
    ([.registerWrite .pf 0x2 0xF 0, start 64 0 0, start 0 16 0, start 0 0 65536, fh 256 0 0 0 0 0, fh 0 65536 0 0 0 0, fh 0 0 65536 0 0 0,
      fh 0 0 0 1024 0 0, fh 0 0 0 0 16 0, fh 0 0 0 0 0 16, .vsetUpdate 65536 0 true, .vsetUpdate 0 65536 true, .sensorRead [],
      .linkTrain 0 0 true true true (2 ^ 384) 0, .linkTrain 0 0 true true true 0 (2 ^ 64), .controlFlitRx 0 true 0 true (2 ^ 16) 0,
      .controlFlitRx 0 true 0 true 0 (2 ^ 16), rec_ (2 ^ 64) 0, rec_ 0 4097, .dbgaccRead 2, .dbgaccWrite 1 0].all fun i => !i.wf) = true ∧
    ([.registerWrite .pf 0x4 0xF 0, start 63 15 65535, fh 255 65535 65535 1023 15 15, .vsetUpdate 65535 65535 true,
      .sensorRead (List.replicate 32 0), .linkTrain 0 0 true true true (2 ^ 384 - 1) (2 ^ 64 - 1),
      .controlFlitRx 0 true 0 true (2 ^ 16 - 1) (2 ^ 16 - 1), rec_ (2 ^ 64 - 1) 4096, .dbgaccRead 4].all Instr.wf) = true := by decide

/-! ### Witnesses: for each statement, states and operands that meet the hypotheses of each of its clauses -/

theorem witness_StepRunsFrontCommand :
    ({ State.reset with pending := [.snapshot, .bypass] } : State).pending = .snapshot :: [.bypass] := rfl

/-- A time base that runs. -/
def ticking : State := { up with tb := [(0, { TimeBase.reset with running := true })] }

theorem witness_EmptyQueueStepIsOneCtlCycle : ticking.pending = [] ∧ ticking.alive = true ∧ ticking.kvXfer = [] ∧ ticking.kvRest = [] ∧
    ((ticking.tbOf 0).running = true ∧ (ticking.tbOf 0).start = none ∧ (ticking.tbOf 0).next = none ∧ (ticking.tbOf 0).rem = 0) ∧
    ((ticking.tbOf 3).running = false ∧ (ticking.tbOf 3).start = none) ∧
    ({ ticking with inReset := true } : State).alive = false := by decide

theorem witness_StepKeepsCanon : State.reset.Canon ∧
    step { State.reset with pending := [.bypass] } = .next { State.reset with tapIr := 0xFF } := ⟨reset_canon, rfl⟩

theorem witness_ExecLeavesTheQueue : exec .bypass { State.reset with pending := [.snapshot] } =
    .next { State.reset with
      pending := [.snapshot]
      tapIr := 0xFF } := rfl

theorem witness_WellFormedCommandsComplete : (Instr.nop 0 .a wNop).wf = true ∧ (Instr.retIns 0 (BitVec.ofNat 32 (0xE * 2 ^ 26)) 0).wf = true := by
  decide

theorem witness_RequestStatusOrder :
    (∀ c ∈ [(true, St.busy), (true, St.format), (false, St.permission)], c.2 ∈ St.order) ∧
    pick [(true, St.busy), (true, St.format), (false, St.permission)] = St.format ∧ pick [(false, St.busy)] = St.ok := by decide

theorem witness_RegisterWriteByAccessType : (BitVec.ofNat 24 Reg.MEM_FLAG).toNat % 4 = 0 ∧
    (9 ≤ blockOf Reg.MEM_FLAG ∧ blockOf Reg.MEM_FLAG < 0xF ∧ cntOf Reg.MEM_FLAG = none ∧ ixOf Reg.MEM_FLAG (Reg.DLK_CTL 0) 0x40 4 = none ∧
      ixOf Reg.MEM_FLAG (Reg.AIR_CAR_CTL 0) 0x40 8 = none ∧ ixOf Reg.MEM_FLAG (Reg.LDPC_CRC_CMD 0) 0x20 18 = none ∧
      ixOf Reg.MEM_FLAG (Reg.SMP_BQ_CTL 0) 0x20 16 = none ∧ ixOf Reg.MEM_FLAG (Reg.SMP_ST_TAIL 0) 0x20 64 = none ∧
      Reg.MEM_FLAG ≠ Reg.LDPC_TBL_CTL) ∧
    (let s : State := { up with stg := { State.reset.stg with closed := true } }
     s.reach .pf Reg.MEM_FLAG true = true ∧ s.stgSt = 0 ∧ s.stg.closed = true) := by decide

theorem witness_RefusedWriteOnlyFlags : writeOf (.retrain (.vf 0) 3) = some (.vf 0, Reg.DLK_CTL 3) ∧
    up.reach (.vf 0) (Reg.DLK_CTL 3) true = false ∧ up.reach .dbg (Reg.DLK_CTL 3) true = false := by decide

/-! The Porter -/

theorem witness_MailboxAccessDebugGrantAndLifecycle : mailOf (.rotate .smbus) = some (.smbus, false) ∧ State.reset.reach .smbus Reg.SEC_MB_CMD true = true ∧
    State.reset.porterBusy = false ∧ ({ State.reset with porterHalt := true } : State).porterBusy = true ∧
    ({ State.reset with inReset := true } : State).reach .smbus Reg.SEC_MB_CMD true = false := by decide

/-- In service, with a requester's first mailbox bytes. -/
def mail (who : Requester) (a b : Byte) (rs : List (Nat × Word) := []) : State :=
  { up rs with mbData := [(4096 * reqIx who, a), (4096 * reqIx who + 1, b)] }

/-- Lodging 0 bound. -/
def bound0 : Nat × Word := (Reg.LDG_CFG 0, setF 0 Fld.LDG_CFG_BOUND 1)

theorem witness_AttestationsSessionsAndEpochs_attest :
    (let s := mail .pf 0xFF 64
     s.reach .pf Reg.SEC_MB_CMD true = true ∧ s.porterBusy = false ∧ mbAny .pf = true ∧ (s.mb .pf 1).toNat ≤ 64 ∧ (s.mb .pf 0).toNat = 0xFF) ∧
    (let s := mail .pf 0 0 [bound0]
     (s.mb .pf 0).toNat < 16 ∧ s.bound (s.mb .pf 0).toNat = true) ∧
    (let s := mail (.vf 1) 2 0
     s.reach (.vf 1) Reg.SEC_MB_CMD true = true ∧ (s.mb (.vf 1) 0).toNat ≠ 0xFF ∧ (s.mb (.vf 1) 0).toNat ≠ (1 : Fin 16).val) ∧
    (64 < ((mail .pf 0xFF 65).mb .pf 1).toNat) ∧ (16 ≤ ((mail .pf 16 0).mb .pf 0).toNat ∧ ((mail .pf 16 0).mb .pf 0).toNat ≠ 0xFF) ∧
    (((mail .pf 15 0).mb .pf 0).toNat < 16 ∧ (mail .pf 15 0).bound 15 = false) ∧
    ((mail .pf 0 0).mb .pf 0).toNat = 0 ∧ ((mail .pf 1 0).mb .pf 0).toNat = 1 ∧ 1 < ((mail .pf 2 0).mb .pf 0).toNat := by decide

/-- Whether a point is on the curve is a free function: the clauses of SESSION_OPEN take it as it comes. -/
theorem witness_AttestationsSessionsAndEpochs_epochs :
    (let s := up [bound0]
     s.reach (.vf 0) Reg.SEC_MB_CMD true = true ∧ s.porterBusy = false ∧ s.bound 0 = true ∧ tget (fun _ => none) s.sess 0 = none ∧
       s.oldLive 0 = false ∧ tget (fun _ => 0) s.epochs 0 < 2 ^ 24 - 1 ∧ s.rr (Reg.SEC_CNT_CUR 0) = 0 ∧
       (up [bound0, (Reg.SEC_CNT_CUR 0, 5)]).rr (Reg.SEC_CNT_CUR 0) ≠ 0) ∧
    (let s : State := { up [bound0] with sess := [(0, some ⟨0, 0, 0, 0⟩)] }
     s.bound 0 = true ∧ (tget (fun _ => none) s.sess 0).isSome = true) ∧
    up.bound 0 = false ∧
    (up [bound0, (Reg.SEC_EPOCH 0, setF 2 Fld.SEC_EPOCH_OLD_LIVE 1)]).oldLive 0 = true ∧
    2 ^ 24 - 1 ≤ tget (fun _ => 0) ({ up [bound0] with epochs := [(0, 2 ^ 24 - 1)] } : State).epochs 0 := by decide

theorem witness_AttestationsSessionsAndEpochs_sweep :
    (let s : State := { up [(Reg.MEM_USABLE, 1), (Reg.SEC_EPOCH 3, setF 2 Fld.SEC_EPOCH_OLD_LIVE 1)] with tags := [(0, 1 + 2 * 3 + 32)] }
     s.porterHalt = false ∧ 4096 ≤ s.tierBytes ∧ s.oldLive 3 = true ∧ s.tagLive (s.sweepAt % (s.tierBytes / 4096)) = some (3, true) ∧
       ({ s with tags := [] } : State).tagLive 0 = none) ∧
    up.tierBytes < 4096 ∧ (∀ m, m < 16 → up.oldLive m = false) := by decide

theorem witness_MailboxAccessDebugGrantAndLifecycle_grant :
    up.reach .dbg Reg.SEC_MB_CMD true = true ∧ up.porterBusy = false ∧ isDbg .dbg = true ∧ isPf .pf = true ∧
    up.grant = none ∧ ({ up with grant := some (31, 0xFFFF) } : State).grant = some (31, 0xFFFF) ∧
    (up.dbgLock = false ∧ up.chal = none) ∧ ({ up with dbgLock := true } : State).dbgLock = true ∧
    (let s : State := { up [(Reg.SEC_LC, 2)] with
        mbData := [(4096 * 37, 31), (4096 * 37 + 4, 1)]
        chal := some (0, 0)
        cycle := 36000000000 }
     s.scopeBad 31 1 = true ∧ s.scopeBad 7 1 = false ∧ s.cycle ≤ 0 + 36000000000 ∧ ofBytes ((s.mbBytes .dbg 0 8).take 4) = 31 ∧
       ofBytes ((s.mbBytes .dbg 0 8).drop 6) = 0) := by decide

/-- What a token asks for and whether it is valid are free functions: from the last state no token leads on. -/
theorem witness_MailboxAccessDebugGrantAndLifecycle_token (n : Nat) : lcStep 3 n = false ∧ lcStep 0 1 = true := by
  constructor
  · simp [lcStep]
  · decide

/-! Resets, start, power -/

theorem witness_ResetsAndClockLoss :
    (up.inReset = false ∧ up.refLoss = false) ∧ ({ up with inReset := true } : State).inReset = true ∧
    ({ up with refLoss := true } : State).refLoss = true ∧
    (up.reach .pf Reg.PWR_CTL true = true ∧ pwrHears .pf = true) ∧ up.reach (.vf 0) Reg.PWR_CTL true = false ∧
    (up.reach .innkeeper Reg.PWR_CTL true = true ∧ pwrHears .innkeeper = false) ∧ (ticking.tbOf 0).running = true := by decide

/-- Bytes of a flash from an offset. -/
def flashAt (a : Nat) (bs : List Byte) : Tbl Byte := bs.zipIdx.map fun (b, i) => (a + i, b)

/-- A directory with slots at 64 KiB and 128 KiB. -/
def dir0 (trial tried : Bool) : Dir := ⟨0, 1, 0x10000, 0x20000, 0, trial, tried⟩

/-- An image that passes R552: a header and three sections of 64 bytes, for the three processors (R550, R551). -/
def image0 : List Byte :=
  bytesLE 4 0x584F5551 ++ bytesLE 2 1 ++ [0xB0, 0] ++ bytesLE 4 4224 ++ bytesLE 2 3 ++ List.replicate 242 0 ++
    ([1, 2, 3].flatMap fun t => bytesLE 4 t ++ bytesLE 4 (0x400 + 64 * t) ++ bytesLE 4 64 ++ List.replicate 20 0)

/-- A flash with the directory, an image in the first slot and one in the second, where asked. -/
def flash0 (d : Dir) (a b : Bool) : Tbl Byte :=
  flashAt 0 d.bytes ++ (if a then flashAt 0x10000 image0 else []) ++ (if b then flashAt 0x20000 image0 else [])

/-- A device after its reset release with a flash; both signatures verify. -/
def fresh0 (fl : Tbl Byte) : State := { State.reset with flash := fl }
def start0 : StartIn := ⟨false, true, true, true, true, [], 16, 5, 800⟩

theorem witness_StartsReachServiceOrNoImage_dir :
    (fresh0 (flash0 (dir0 false false) true true)).dir = some (dir0 false false) ∧ (fresh0 []).dir = none ∧
    (fresh0 []).testHold = false ∧ (fresh0 []).alive = true ∧ (fresh0 []).gf Reg.PWR_BOOT Fld.PWR_BOOT_STATE = 0 ∧
    (fresh0 []).boot.waits = false ∧ (fresh0 []).boot.other = false ∧
    ({ at_ [(Reg.PWR_STRAP, 0xC0)] with fuses := (0, 0) } : State).testHold = true ∧ up.gf Reg.PWR_BOOT Fld.PWR_BOOT_STATE = 1 ∧
    (at_ [(Reg.PWR_BOOT, 4)]).gf Reg.PWR_BOOT Fld.PWR_BOOT_STATE = 4 ∧
    ({ State.reset with boot := { Boot.none with waits := true } } : State).boot.waits = true := by decide

/-- Each slot passes or fails its check on its own: an image at an offset, and an erased one. -/
theorem witness_StartsReachServiceOrNoImage_image :
    (fresh0 (flashAt ((dir0 false false).slot 0) image0)).imageCheck ((dir0 false false).slot 0) start0.sigA = St.ok ∧
    (fresh0 []).imageCheck ((dir0 true true).slot 1) start0.sigB = St.format := by decide +kernel

theorem witness_StartsReachServiceOrNoImage_rest :
    (up.alive = true ∧ up.trained = none ∧ up.boot.waits = false) ∧ ({ up with trained := some true } : State).trained.isSome = true ∧
    (up [(Reg.MEM_CAP, 1)]).gf Reg.MEM_CAP Fld.MEM_CAP_ATTACHED ≠ 0 ∧
    (up.reach .smbus Reg.PWR_BOOT_CTL true = true ∧ pwrHears .smbus = true ∧ up.gf Reg.PWR_BOOT Fld.PWR_BOOT_TRIAL = 0) ∧
    (let s := at_ [(Reg.PWR_BOOT, setF 1 Fld.PWR_BOOT_TRIAL 1)]
     s.reach .pf Reg.PWR_BOOT_CTL true = true ∧ s.gf Reg.PWR_BOOT Fld.PWR_BOOT_TRIAL = 1) ∧
    (up.reach .innkeeper Reg.PWR_BOOT_CTL true = true ∧ pwrHears .innkeeper = false) := by decide

/-- THR 95 °C and TRIP 115 °C, a hottest site, the two duties. -/
def warm (t du dp : Nat) : State :=
  up [(Reg.PWR_THERM_CFG, setF (setF 0 Fld.PWR_THERM_CFG_TRIP 115) Fld.PWR_THERM_CFG_THR 95),
    (Reg.PWR_THERM, setF (setF (setF 0 Fld.PWR_THERM_T_HOT t) Fld.PWR_THERM_DU du) Fld.PWR_THERM_DP dp),
    (Reg.PWR_VDD, setF 0 Fld.PWR_VDD_SET 800)]

theorem witness_VoltageTemperatureDomainsAndStandby_voltage :
    (let s := up [(Reg.SEC_LC, 0), (Reg.PWR_VREQ, 795), (Reg.PWR_VDD, setF 0 Fld.PWR_VDD_SET 800)]
     s.alive = true ∧ s.vTarget = 795 ∧ vStep (s.gf Reg.PWR_VDD Fld.PWR_VDD_SET) s.vTarget = 795 ∧ s.isMfg = true) ∧
    (let s := up [(Reg.SEC_LC, 0), (Reg.PWR_VREQ, 800), (Reg.PWR_VDD, setF 0 Fld.PWR_VDD_SET 800)]
     vStep (s.gf Reg.PWR_VDD Fld.PWR_VDD_SET) s.vTarget = s.gf Reg.PWR_VDD Fld.PWR_VDD_SET ∧ s.pmbFail = false ∧
       ({ s with pmbFail := true } : State).pmbFail = true) ∧
    (up.reach .pf Reg.PWR_VREQ true = true ∧ (up [(Reg.SEC_LC, 2)]).isMfg = false) ∧
    [719, 720, 900, 901].map (fun v => decide (v ≠ 0 ∧ (v < 720 ∨ 900 < v))) = [true, false, false, true] := by decide

theorem witness_VoltageTemperatureDomainsAndStandby_duties :
    (let s := warm 760 16 16
     s.thr ≤ s.tHot) ∧ (let s := warm 776 1 16
     s.thr + 16 ≤ s.tHot ∧ s.gf Reg.PWR_THERM Fld.PWR_THERM_DU = 1) ∧
    (let s := warm 744 8 16
     s.thr - 16 ≤ s.tHot ∧ s.tHot < s.thr) ∧
    (let s : State := { warm 743 8 8 with cycle := 6000000 }
     s.tHot < s.thr - 16 ∧ s.gf Reg.PWR_THERM Fld.PWR_THERM_DP = 8 ∧ s.mayRise 8 s.dutyUp.2 = true ∧
       ({ s with cycle := 5999999 } : State).mayRise 8 s.dutyUp.2 = false) ∧
    (let s : State := { warm 743 8 16 with cycle := 6000000 }
     s.gf Reg.PWR_THERM Fld.PWR_THERM_DP = 16 ∧ s.mayRise 8 s.dutyUp.1 = true) := by decide

theorem witness_VoltageTemperatureDomainsAndStandby_sensors :
    (let s := warm 0 16 16
     s.gf (Reg.PWR_SITE 15) Fld.PWR_SITE_STATE = 0 ∧ (List.replicate 32 (920 : Int)).length = 32 ∧ s.trip = 920 ∧
       s.gf Reg.PWR_BOOT Fld.PWR_BOOT_STATE ≠ 5) ∧
    (at_ [(Reg.PWR_BOOT, 5)]).gf Reg.PWR_BOOT Fld.PWR_BOOT_STATE = 5 := by decide

theorem witness_VoltageTemperatureDomainsAndStandby_domains :
    up.reach (.vf 0) (Reg.PWR_DOM_REQ 10) true = false ∧ up.reach .pf (Reg.PWR_DOM_REQ 10) true = true ∧ up.needed (16 * 10 + 13) = true ∧
    nbits (0x0C000000 : Word).toNat (2 * 13 + 1) (2 * 13) = 3 ∧ nbits (0x08000000 : Word).toNat (2 * 13 + 1) (2 * 13) = 2 ∧
    (up.reach .pf Reg.PWR_CTL true = true ∧ pwrHears .pf = true ∧ (up [bound0]).bound 0 = true ∧ (∀ l, l < 16 → up.bound l = false) ∧
      up.inService = true ∧ (at_ []).inService = false) ∧
    (let s := at_ [(Reg.PWR_BOOT, 3)]
     s.reach .smbus Reg.PWR_CTL true = true ∧ s.standby = true ∧ s.inReset = false) ∧ up.standby = false := by decide

/-! Reliability -/

theorem witness_FaultsFollowTheRetryRule :
    isMemUnit (.lane 0 0) = false ∧ isMemUnit (.firmware true) = false ∧
    up.gf (Reg.REL_LG_MAP 31) Fld.REL_LG_MAP_LG = 15 ∧ up.laneBad 31 7 = false ∧ up.gf (Reg.REL_LG_MAP 31) Fld.REL_LG_MAP_BANK = 63 ∧
    up.wingSpare 7 = some 4 ∧ ({ up with retired := [(1, 39)] } : State).wingSpare 7 = none ∧
    ({ up with poison := [(0x1000000000 / 8, true)] } : State).poisoned 0x1000000000 8 = true ∧
    ({ up with poison := [(tierAddr / 8, true)] } : State).poisoned (tierAddr / 64 * 64) 64 = true ∧
    up.watched (.firmware false) = true ∧ up.watched (.core 0) = false ∧
    (let s := up [(Reg.MEM_USABLE, 1)]
     s.inTier (tierAddr / 64 * 64) = true ∧ s.poisoned (tierAddr / 64 * 64) 64 = false) ∧ up.inTier tierAddr = false ∧
    (let s : State := { up with cycle := 361 * 36000000000 }
     s.pending = [] ∧ s.alive = true ∧ s.kvXfer = [] ∧ s.kvRest = [] ∧ s.cycle = s.scrubAt + 361 * 36000000000) := by decide

theorem witness_WearLockstepAndFirmware_wear :
    (let s := up [(Reg.SEC_LC, 2), (Reg.REL_WEAR_CFG, setF (setF 0 Fld.REL_WEAR_CFG_MARGIN_TGT 50) Fld.REL_WEAR_CFG_WEAR_VMAX 805),
        (Reg.PWR_VDD, setF 0 Fld.PWR_VDD_SET 800)]
     s.alive = true ∧ (499 : Int) < 10 * s.gf Reg.REL_WEAR_CFG Fld.REL_WEAR_CFG_MARGIN_TGT ∧
       ¬ (500 : Int) < 10 * s.gf Reg.REL_WEAR_CFG Fld.REL_WEAR_CFG_MARGIN_TGT ∧ s.gf Reg.SEC_LC Fld.SEC_LC_STATE ≠ 0 ∧
       s.gf Reg.PWR_VDD Fld.PWR_VDD_SET + 5 ≤ s.gf Reg.REL_WEAR_CFG Fld.REL_WEAR_CFG_WEAR_VMAX ∧ s.since s.wearStep 60000000 = true ∧
       ({ s with wearStep := some 1 } : State).since (some 1) 60000000 = false) ∧
    (let s := up [(Reg.SEC_LC, 2), (Reg.REL_WEAR_CFG, setF (setF 0 Fld.REL_WEAR_CFG_MARGIN_TGT 50) Fld.REL_WEAR_CFG_WEAR_VMAX 804),
        (Reg.PWR_VDD, setF 0 Fld.PWR_VDD_SET 800)]
     ¬ s.gf Reg.PWR_VDD Fld.PWR_VDD_SET + 5 ≤ s.gf Reg.REL_WEAR_CFG Fld.REL_WEAR_CFG_WEAR_VMAX ∧ s.hasSpare (.ring none) = false) ∧
    up.left 11 ≠ 0 ∧ (up [(Reg.REL_SPARES 11, 0)]).left 11 = 0 ∧ ({ up with inReset := true } : State).alive = false := by decide

theorem witness_WearLockstepAndFirmware_firmware :
    (up.reach .pf Reg.REL_FWUPD_CTL true = true ∧ pwrHears .pf = true ∧ up.fwNew = none) ∧
    ({ up with fwNew := some (1, 7) } : State).fwNew = some (1, 7) ∧
    (up.reach .innkeeper Reg.REL_FWUPD_CTL true = true ∧ pwrHears .innkeeper = false) ∧
    [4, 5, 0].map (fun p => (up [(Reg.REL_FWUPD_STAT, p)]).gf Reg.REL_FWUPD_STAT Fld.REL_FWUPD_STAT_PHASE) = [4, 5, 0] ∧
    (let s : State := { up with
        wrec := (0x100000, 0x110000)
        wearDirty := true }
     s.alive = true ∧ s.wearDue = true ∧ s.flashOp = none ∧ (if s.wearBank = 1 then s.wrec.1 else s.wrec.2) ≠ 0) ∧
    ¬ up.wearDue = true := by decide

/-! Stagings, counters, PTP -/

/-- A staging in a state, owned by a requester code. -/
def staged (st owner : Nat) (rs : List (Nat × Word) := []) : State :=
  up ((Reg.STG_STAT, setF (setF 0 Fld.STG_STAT_STATE st) Fld.STG_STAT_OWNER owner) :: rs)

theorem witness_StagingOperations :
    up.reach (.vf 0) Reg.STG_CTL true = false ∧ (up.reach .pf Reg.STG_CTL true = true ∧ ownerCode .pf ≠ 0 ∧ up.stgSt = 0) ∧
    ((staged 1 2).stgSt ≠ 0 ∧ ownerCode .pf ≠ (staged 1 2).stgOwner ∧ (staged 1 2).reach .pf Reg.STG_CTL true = true) ∧
    (({ up with grant := some (31, 0xFFFF) } : State).stgSt = 0 ∧ ownerCode .dbg = 0) ∧
    ((staged 1 1).stgSt = 1 ∧ (staged 1 1).stgOwner = ownerCode .pf) ∧ ((staged 3 1).stgSt ≠ 0 ∧ (staged 3 1).stgSt ≠ 1) ∧
    (let s : State := { staged 1 1 with cycle := 600000000 }
     s.stgSt = 1 ∧ s.stg.at_ + 600000000 ≤ s.cycle ∧ ({ s with cycle := 599999999 } : State).cycle < s.stg.at_ + 600000000) := by decide

/-- A resource of the synthetic release: sync block 5 of lodging 2. -/
def release5 (wb : Option Nat) (car : List (Nat × Nat)) : Release := ⟨.sync 5, 2, wb, car, 0, 0, (0, 0), (0, 0), []⟩
/-- A state that holds one resource. -/
def holding (wb : Option Nat) (car : List (Nat × Nat)) : State := { up with stg := { State.reset.stg with releases := [release5 wb car] } }

/-- The outcome of a check is taken as it comes; the occasions of the clauses are shown. -/
theorem witness_CommitTakesEffect :
    ((staged 1 1).reach .pf Reg.STG_CTL true = true ∧ ownerCode .pf ≠ 0 ∧ (staged 1 1).stgSt = 1 ∧ (staged 1 1).stgOwner = 1 ∧
      (staged 1 1).gf Reg.STG_WHEN Fld.STG_WHEN_MODE = 0 ∧ (staged 1 1).innHalt = false ∧
      (staged 1 1 [(Reg.STG_WHEN, setF 0 Fld.STG_WHEN_MODE 2)]).gf Reg.STG_WHEN Fld.STG_WHEN_MODE ≠ 0) ∧
    ((staged 3 1).stgSt = 3 ∧ (staged 3 1).innHalt = false ∧ (staged 3 1).instant = true ∧ (staged 3 1).cycle < (staged 3 1).stg.at_ + 60000 ∧
      (staged 3 1).stg.at_ + 60000 ≤ ({ staged 3 1 with cycle := 60000 } : State).cycle) ∧
    (staged 1 1).stgSt ≠ 3 ∧ up.stg.releases[0]? = none ∧
    ((holding none []).stg.releases[0]? = some (release5 none []) ∧ (∀ x ∈ (release5 none []).car, x.2 ≤ (holding none []).now x.1) ∧
      ((holding none []).lodgeOf 2).run = none) ∧
    (∃ x ∈ (release5 none [(0, 1)]).car, (holding none [(0, 1)]).now x.1 < x.2) ∧
    (let s : State := { up [(Reg.LDG_YIELD 2, setF 0 Fld.LDG_YIELD_LIMIT 1)] with
        lodge := [(2, { Lodge.idle with yieldAt := some 0 })]
        cycle := 600 }
     (s.lodgeOf 2).yieldAt = some 0 ∧ s.innHalt = false ∧ 0 + 600 * s.gf (Reg.LDG_YIELD 2) Fld.LDG_YIELD_LIMIT ≤ s.cycle ∧
       ({ s with cycle := 599 } : State).cycle < 0 + 600 * s.gf (Reg.LDG_YIELD 2) Fld.LDG_YIELD_LIMIT) ∧
    (up.lodgeOf 2).yieldAt = none := by decide

theorem witness_CountersAndSnapshots :
    (up.reach .pf (Reg.CNT_LO 65 7) false = true ∧ up.mayReadCnt .pf 65 7 = true) ∧ up.mayReadCnt (.vf 0) 0 0 = false ∧
    (up.reach .pf (Reg.CNT_LO 65 7) true = true ∧ mayWriteCnt .pf = true) ∧ (up.reach .pf (Reg.CNT_HI 65 7) true = true) ∧
    mayWriteCnt .innkeeper = false ∧
    (tget (fun _ => none) ({ up with cntPend := [(Reg.CNT_LO 65 7, some (2 ^ 32 - 1))] } : State).cntPend (Reg.CNT_LO 65 7)).getD 0 = 2 ^ 32 - 1 ∧
    up.gf Reg.LEDG_CFG Fld.LEDG_CFG_EN = 0 ∧
    (let s : State := { up [(Reg.LEDG_CFG, setF 1000 Fld.LEDG_CFG_EN 1)] with
        ledgDue := 600000
        cycle := 1200000 }
     s.gf Reg.LEDG_CFG Fld.LEDG_CFG_EN ≠ 0 ∧ s.ledgPeriod = 600000 ∧ s.ledgDue ≤ s.cycle ∧ s.ledgDue + s.ledgPeriod ≤ s.cycle ∧
       ({ s with cycle := 599999 } : State).cycle < s.ledgDue) := by decide

/-- A Sync message by Ethernet to the PTP address. -/
def ptpFrame : List Byte := bytesBE 6 0x011B19000000 ++ List.replicate 6 0 ++ bytesBE 2 0x88F7 ++ List.replicate 50 0
/-- A Follow_Up message likewise. -/
def ptpGeneral : List Byte := bytesBE 6 0x011B19000000 ++ List.replicate 6 0 ++ bytesBE 2 0x88F7 ++ [8] ++ List.replicate 49 0
/-- PTP by Ethernet on port 11, with rings of 16 entries. -/
def ptp11 (fwd head : Nat) : State :=
  up [(Reg.TB_PTP_CFG 11, setF (setF (setF 0 Fld.TB_PTP_CFG_EN 1) Fld.TB_PTP_CFG_L2 1) Fld.TB_PTP_CFG_FWD fwd),
    (Reg.HIF_PTP_CFG 11, setF (setF (setF 0 Fld.HIF_PTP_CFG_EN 1) Fld.HIF_PTP_CFG_RX_LOG2 4) Fld.HIF_PTP_CFG_TX_LOG2 4),
    (Reg.HIF_PRX_PTR 11, setF 0 Fld.HIF_PRX_PTR_HEAD head), (Reg.TB_SYNCE 1, setF (setF 0 Fld.TB_SYNCE_EN 1) Fld.TB_SYNCE_PORT 11)]

theorem witness_PtpFramesAndBlockLock :
    (encap []).isNone = true ∧ ((encap ptpFrame).map fun e => (e.kind, e.ip, e.msg)) = some (0, 14, 14) ∧
    (∀ e, encap ptpFrame = some e → (ptp11 0 0).ptpOn 11 e = true ∧ up.ptpOn 11 e = false) ∧
    ((ptp11 0 0).gf (Reg.TB_PTP_CFG 11) Fld.TB_PTP_CFG_FWD = 0 ∧ (ptp11 0 0).gf (Reg.HIF_PTP_CFG 11) Fld.HIF_PTP_CFG_EN ≠ 0) ∧
    ((ptp11 0 0).gf (Reg.HIF_PRX_PTR 11) Fld.HIF_PRX_PTR_HEAD < (ptp11 0 0).prxLen 11 ∧ (0 + 1) % (ptp11 0 0).prxLen 11 ≠ 0 ∧
      ptpFrame.length ≤ 2032) ∧
    ¬ (ptp11 0 16).gf (Reg.HIF_PRX_PTR 11) Fld.HIF_PRX_PTR_HEAD < (ptp11 0 16).prxLen 11 ∧
    (((ptp11 1 0).gf (Reg.TB_PTP_CFG 11) Fld.TB_PTP_CFG_FWD).testBit 0 = true ∧ (tget (fun _ => []) (ptp11 1 0).ptpQ 0).length < 16) ∧
    tget (fun _ => []) ({ up with ptpQ := [(11, [(0, ptpGeneral), (0, ptpFrame)])] } : State).ptpQ 11 = (0, ptpGeneral) :: [(0, ptpFrame)] ∧
    (∀ e, encap ptpGeneral = some e → 3 < ptpType ptpGeneral e) ∧ tget (fun _ => []) up.ptpQ 11 = [] ∧
    up.gf (Reg.HIF_PTP_CFG 11) Fld.HIF_PTP_CFG_EN = 0 ∧ (ptp11 0 0).synceOf 11 = [1] := by
  refine ⟨by decide, by decide, ?_, by decide, by decide, by decide, by decide, by decide, ?_, by decide, by decide, by decide⟩
  · intro e h; cases h; decide
  · intro e h; cases h; decide

/-! Numbers -/

theorem witness_AccumulatorRowsSaturate :
    let top := AccCell.sealed (BitVec.ofInt 40 (2 ^ 39 - 1)) false
    let low := AccCell.sealed (BitVec.ofInt 40 (-2 ^ 39)) false
    (-(2 : Int) ^ 39 ≤ top.v.toInt + dotInt [] ∧ top.v.toInt + dotInt [] ≤ 2 ^ 39 - 1) ∧ 2 ^ 39 - 1 < top.v.toInt + dotInt [(1, 1)] ∧
    low.v.toInt + dotInt [(1, -1)] < -(2 : Int) ^ 39 ∧ (-(2 : Int) ^ 39 ≤ 2 ^ 39 - 1 + dotInt [(1, -1)] ∧ dotInt [(1, -1)] ≤ 0) ∧
    top.good = true ∧ (AccCell.mk top.v false 3).good = false := by decide

theorem witness_Fp4CodesHaveTheirValues : (1, 1) ∈ [(0, 0), (1, 1), (2, 2), (3, 3), (4, 4), (5, 6), (6, 8), (7, 12)] := by decide

/-! Host rings, device links, SMBus, test port -/

/-- The registers of a memory region of lodging l: base, length in 64-byte units as the model reads it, word 3. -/
def regionAt (l i base len w3 : Nat) : List (Nat × Word) :=
  [(Reg.LDG_REGION0 l i, BitVec.ofNat 32 base), (Reg.LDG_REGION1 l i, BitVec.ofNat 32 (base / 2 ^ 32)), (Reg.LDG_REGION2 l i, BitVec.ofNat 32 len),
    (Reg.LDG_REGION3 l i, BitVec.ofNat 32 w3)]

theorem witness_HostRingRegisters :
    up.reach (.vf 1) (cfgReg (.sq 0)) true = false ∧ up.reach .pf (cfgReg (.sq 0)) true = true ∧
    (wbit 0x80000003 31 = true ∧ (∃ n ∈ cfgLogs (.sq 0) 0x80000003, n.1 < 4 ∨ n.2 < n.1) ∧ up.cfgBad (.sq 0) true 0x80000003 = true) ∧
    (up.cfgBad (.sq 0) true 0x80000004 = false ∧ up.cfgBad (.cq 3) true 0x80FF0010 = false ∧ up.cfgBad (.cq 3) true 0x80000011 = true ∧
      up.cfgBad (.ptp 11) true 0x80000C0C = false ∧ up.cfgBad (.ptp 11) true 0x80000D0C = true ∧
      up.cfgBad (.sq 0) true 0x00000003 = false) ∧
    (up [(Reg.HIF_SQ_CFG 0, 0x80000004)]).cfgBad (.sq 0) true 0x80000005 = true ∧
    (let s := up [(Reg.HIF_SQ_CFG 0, 0x80000004)]
     s.reach (.vf 0) (Reg.HIF_SQ_PTR 0) true = true ∧ 2 ^ s.gf (Reg.HIF_SQ_CFG 0) Fld.HIF_SQ_CFG_LOG2 ≤ (16 : Word).toNat % 65536 ∧
       (15 : Word).toNat % 65536 < 2 ^ s.gf (Reg.HIF_SQ_CFG 0) Fld.HIF_SQ_CFG_LOG2) ∧
    ((ptp11 0 0).reach .pf (Reg.HIF_PTX_PTR 11) true = true ∧
      2 ^ (ptp11 0 0).gf (Reg.HIF_PTP_CFG 11) Fld.HIF_PTP_CFG_TX_LOG2 ≤ (16 : Word).toNat % 65536 ∧
      (15 : Word).toNat % 65536 < 2 ^ (ptp11 0 0).gf (Reg.HIF_PTP_CFG 11) Fld.HIF_PTP_CFG_TX_LOG2) ∧
    up.reach (.vf 15) (Reg.HIF_CQ_PTR 15) true = true := by decide

/-- Lodging 0 with rings of 16 entries: one submission entry of a type waiting (64 bytes of length to host address 0 of region 0, which
is 64 KiB of the hall, readable and writable). -/
def ring0 (ty : Nat) : State :=
  { up ([(Reg.HIF_SQ_CFG 0, 0x80000004), (Reg.HIF_CQ_CFG 0, 0x80000004), (Reg.HIF_SQ_PTR 0, setF 0 Fld.HIF_SQ_PTR_TAIL 1)] ++
      regionAt 0 0 hallAddr 1 0xE) with
    host := [(0, BitVec.ofNat 8 ty), (4, if ty < 3 ∨ 4 < ty then 0 else 64)].filter fun c => c.2 ≠ 0 }
def cpl0 : Cpl := ⟨4, 0, 0⟩
/-- Lodging 0 with rings in a state. -/
def rings0 (r : Rings) (rs : List (Nat × Word) := []) : State := { up rs with rings := [(0, r)] }
def copy0 (ty : Nat) : HCopy := ⟨0, ⟨ty, 0⟩, 0, true⟩

theorem witness_HostEntriesCopiesAndCompletions_take :
    up.nextSub 0 = none ∧ (ring0 3).nextSub 0 = some ⟨3 + 2 ^ 38, 0⟩ ∧ (⟨3 + 2 ^ 38, 0⟩ : Sub).ty = 3 ∧ (⟨4 + 2 ^ 38, 0⟩ : Sub).ty = 4 ∧
    (ring0 3).conf 0 = false ∧ ((ring0 3).ringsOf 0).copies.length < 4 ∧
    ((ring0 4).nextSub 0 = some ⟨4 + 2 ^ 38, 0⟩ ∧ (ring0 3).copyCheck 0 ⟨3 + 2 ^ 38, 0⟩ = St.ok ∧ (ring0 4).copyCheck 0 ⟨4 + 2 ^ 38, 0⟩ = St.ok ∧
      up.copyCheck 0 ⟨4 + 2 ^ 38, 0⟩ = St.bounds) ∧
    ((ring0 5).nextSub 0 = some ⟨5, 0⟩ ∧ (⟨5, 0⟩ : Sub).badPlain = false ∧ ((ring0 5).ringsOf 0).open_ = [] ∧
      ((ring0 5).ringsOf 0).nops = []) ∧
    ((ring0 6).nextSub 0 = some ⟨6, 0⟩ ∧ 5 < (⟨6, 0⟩ : Sub).ty ∧ (ring0 0).nextSub 0 = some ⟨0, 0⟩ ∧ (⟨0, 0⟩ : Sub).ty = 0) ∧
    ((⟨1, 0⟩ : Sub).ty ≠ 5 ∧ (⟨1, 0⟩ : Sub).ty ≠ 0 ∧ (⟨1, 0⟩ : Sub).ty ≤ 5) := by decide

theorem witness_HostEntriesCopiesAndCompletions_end :
    (up.ringsOf 0).copies = [] ∧
    (let r := { Rings.none with copies := [copy0 3, copy0 4] }
     ((rings0 r).ringsOf 0).copies = copy0 3 :: [copy0 4] ∧ (copy0 3).e.ty = 3 ∧ (copy0 3).paid = true ∧
       (rings0 r).owes 0 .host = false ∧ (copy0 4).e.ty ≠ 3 ∧ (rings0 r).conf 0 = false ∧ r.hold.length < 256) ∧
    ((up.ringsOf 0).hold = [] ∧ (rings0 { Rings.none with hold := [cpl0] }).gf (Reg.HIF_CQ_CFG 0) Fld.HIF_CQ_CFG_EN = 0) ∧
    (let cq := (Reg.HIF_CQ_CFG 0, (0x80000004 : Word))
     let full := rings0 { Rings.none with hold := [cpl0] } [cq, (Reg.HIF_CQ_PTR 0, setF 0 Fld.HIF_CQ_PTR_TAIL 15)]
     let room := rings0 { Rings.none with hold := [cpl0] } [cq, (Reg.HIF_CQ_PTR 0, setF 0 Fld.HIF_CQ_PTR_TAIL 14)]
     (full.ringsOf 0).hold = cpl0 :: [] ∧ full.gf (Reg.HIF_CQ_CFG 0) Fld.HIF_CQ_CFG_EN ≠ 0 ∧ full.conf 0 = false ∧ full.cqFull 0 = true ∧
       (full.ringsOf 0).stalled = false ∧ room.cqFull 0 = false) ∧
    (up.ringsOf 0).msgAt = none ∧
    (let s : State := { rings0 { Rings.none with
        msgAt := some 0
        msgDue := true } [(Reg.HIF_CQ_CFG 0, 0x80FF0004)] with cycle := 153000 }
     (s.ringsOf 0).msgAt = some 0 ∧ (s.ringsOf 0).msgDue = true ∧ 0 + 600 * s.gf (Reg.HIF_CQ_CFG 0) Fld.HIF_CQ_CFG_MOD ≤ s.cycle ∧
       ({ s with cycle := 152999 } : State).cycle < 0 + 600 * s.gf (Reg.HIF_CQ_CFG 0) Fld.HIF_CQ_CFG_MOD) := by decide

/-- Whether a record opens is a free function: the last clause takes it as it comes. -/
theorem witness_HostEntriesCopiesAndCompletions_bounce :
    (let s := up [(Reg.SEC_LDG_MODE 0, 1), (Reg.HIF_SQ_CFG 0, 0x80000004), (Reg.HIF_SQ_PTR 0, setF 0 Fld.HIF_SQ_PTR_TAIL 1)]
     s.conf 0 = true ∧ s.gf (Reg.HIF_SQ_CFG 0) Fld.HIF_SQ_CFG_EN ≠ 0 ∧
       s.gf (Reg.HIF_SQ_PTR 0) Fld.HIF_SQ_PTR_HEAD ≠ s.gf (Reg.HIF_SQ_PTR 0) Fld.HIF_SQ_PTR_TAIL ∧ (s.ringsOf 0).hold.length < 192 ∧
       s.sessOf 0 = none ∧ ({ s with sess := [(0, some ⟨1, 0, 0, 0⟩)] } : State).sessOf 0 = some ⟨1, 0, 0, 0⟩) ∧
    up.conf 0 = false := by decide

/-- Link k in a state with EN, and what is beyond its registers. -/
def linkIn (k st : Nat) (l : Link := Link.reset) (rs : List (Nat × Word) := []) : State :=
  { up ([(Reg.DLK_STAT k, setF 0 Fld.DLK_STAT_STATE st), (Reg.DLK_CFG k, setF 0 Fld.DLK_CFG_EN 1)] ++ rs) with links := [(k, l)] }

theorem witness_DeviceLinksTrainAndCarry_train :
    up.linkSt 3 ≠ 1 ∧ (linkIn 3 1).linkSt 3 = 1 ∧ ((200 < (201 : Int).natAbs ∧ 200 < (-201 : Int).natAbs) ∧ (-200 : Int).natAbs ≤ 200) ∧
    (linkWidth Link.reset.lanes false = 8 ∧ linkWidth [0, 1] true = 0 ∧ linkWidth [0, 1] false = 4) ∧
    ((linkIn 3 1).linkAuth 3 true false 5 = true ∧ (linkIn 3 1).linkAuth 3 false false 5 = false ∧
      (linkIn 3 1 { Link.reset with peers := [6] }).linkAuth 3 true false 5 = false) ∧
    (let s : State := { linkIn 3 4 with cycle := 60000000 }
     s.linkSt 3 = 4 ∧ s.linkEn 3 = true ∧ (s.linkOf 3).at_ + 60000000 ≤ s.cycle ∧
       ({ s with cycle := 59999999 } : State).cycle < (s.linkOf 3).at_ + 60000000) ∧ up.linkEn 3 = false ∧
    (up.reach .pf (Reg.DLK_CTL 3) true = true ∧ (linkIn 3 2).linkEn 3 = true ∧ (linkIn 3 2).linkSt 3 ≠ 1) := by decide

theorem witness_DeviceLinksTrainAndCarry_carry :
    (up.linkLive 0 = false ∧ (linkIn 0 2).linkLive 0 = true ∧ (linkIn 0 3).linkLive 0 = true ∧ ((linkIn 0 2).linkOf 0).nak = false) ∧
    ((linkIn 0 2 { Link.reset with nak := true }).linkOf 0).nak = true ∧
    (4095 : BitVec 12).toNat = ((linkIn 0 2 { Link.reset with rx := 8191 }).linkOf 0).rx % 4096 ∧
    (let s : State := { linkIn 0 2 with
        linkTx := [(0, [⟨0, true, 0, 0, 0, 0, 0, 0, [], 0, 1⟩])]
        cycle := 2400 }
     s.linkLive 0 = true ∧ tget (fun _ => []) s.linkTx 0 ≠ [] ∧ (s.linkOf 0).ackAt + 2400 ≤ s.cycle ∧
       ¬ (s.linkOf 0).ackAt + 2400 ≤ ({ s with cycle := 2399 } : State).cycle) ∧
    (((linkIn 0 2).linkOf 0).rxRec = 0 ∧ ((linkIn 0 2).linkOf 0).badRec = false ∧
      ((linkIn 0 2 { Link.reset with badRec := true }).linkOf 0).badRec = true) ∧
    (let o : LinkOp := ⟨0, 7, 1, 0, .move 0 0 .a 0 0, 0, 0, 0⟩
     let s : State := { linkIn 0 2 with
        linkOps := [o]
        cycle := 600000 }
     s.opOf 0 7 = some o ∧ o.since + 600000 ≤ s.cycle ∧ s.opOf 0 6 = none ∧ ({ s with cycle := 599999 } : State).cycle < o.since + 600000) := by
  decide

theorem witness_SmbusCommands :
    ({ up with inReset := true } : State).inReset = true ∧ up.inReset = false ∧ (up.smbBounds 2 = true ∧ up.smbBounds 0 = false) ∧
    (240 < (241 : Byte).toNat ∧ up.flashSize < 0xFFFFFFFF + (1 : Byte).toNat ∧ (240 : Byte) ≠ 0 ∧ (240 : Byte).toNat ≤ 240 ∧
      0 + (240 : Byte).toNat ≤ up.flashSize) ∧
    (up.bankLocked = false ∧ up.flashOp = none) ∧
    ((List.replicate 240 (0 : Byte)).length ≤ 240 ∧ (16 : Word).toNat % 256 + (List.replicate 240 (0 : Byte)).length ≤ 256 ∧
      (16 : Word).toNat + 240 ≤ up.flashSize ∧ 256 < (17 : Word).toNat % 256 + (List.replicate 240 (0 : Byte)).length) ∧
    ((0x1000 : Word).toNat % 4096 = 0 ∧ (0x1000 : Word).toNat + 4096 ≤ up.flashSize ∧ (0x1001 : Word).toNat % 4096 ≠ 0) ∧
    (({ up with flashOp := some (.erase 0x1000) } : State).flashOp = some (.erase 0x1000) ∧
      ({ up with flashOp := some (.program 0x10 [1, 2]) } : State).flashOp = some (.program 0x10 [1, 2]) ∧ [(1 : Byte), 2][1]? = some 2) := by
  decide

/-- In DEPLOYED the wear bank is locked (R608). -/
theorem witness_SmbusCommands_locked :
    let s : State := { up [(Reg.SEC_LC, 1)] with wrec := (0x100000, 0x110000) }
    (s.bankLocked && s.inBank 0x110FFF 4096) = true ∧ (s.bankLocked && s.inBank 0x120000 4096) = false := by decide

/-- A debug grant of every scope over all lodgings, lodging 0 with a region of the hall, whose first domain is on. -/
def granted : State :=
  { up ((Reg.PWR_DOM_STAT 4, 0x100) :: regionAt 0 0 hallAddr 1 0xE) with grant := some (31, 0xFFFF) }

theorem witness_TestPortAndAccessRegister :
    (∀ l, l < 16 → up.bound l = false) ∧ ((up [bound0]).bound 0 = true ∧ (up [bound0]).gf Reg.PWR_BOOT Fld.PWR_BOOT_STATE ≠ 2 ∧
      (up [bound0]).testHold = false) ∧ (at_ [(Reg.PWR_BOOT, 2)]).gf Reg.PWR_BOOT Fld.PWR_BOOT_STATE = 2 ∧
    ({ up with inReset := true } : State).inReset = true ∧
    (up.place hallAddr ≠ .control ∧ up.dbgCheck hallAddr true false = St.permission ∧ granted.dbgCheck hallAddr true false = St.ok ∧
      granted.dbgCheck hallAddr true true = St.ok ∧ granted.dbgCheck hallAddr false true = St.format) ∧
    (up.place (ctlAddr + Reg.MEM_FLAG) = .control ∧ granted.dbgCheck (ctlAddr + Reg.MEM_FLAG) true false = St.ok ∧
      granted.dbgCheck (ctlAddr + Reg.MEM_FLAG) true true = St.ok ∧ blockOf (ctlOff (ctlAddr + Reg.MEM_FLAG)) ≠ 0xF ∧
      up.dbgCheck (ctlAddr + Reg.MEM_FLAG) true true = St.permission) ∧
    (up.place (ctlAddr + Reg.DBG_IBC_CTL 17) = .control ∧ granted.dbgCheck (ctlAddr + Reg.DBG_IBC_CTL 17) true true = St.ok ∧
      blockOf (ctlOff (ctlAddr + Reg.DBG_IBC_CTL 17)) = 0xF ∧ cntOf (ctlOff (ctlAddr + Reg.DBG_IBC_CTL 17)) = none) := by decide

/-! Time -/

/-- Time base t running at a time, with a remaining slew. -/
def tb_ (t now : Nat) (rem : Int) (rs : List (Nat × Word) := []) : State :=
  { up rs with tb := [(t, { TimeBase.reset with
      running := true
      t := now
      rem := rem })] }

theorem witness_PhaseAdjustmentTable :
    (let s := tb_ 2 0 0 [(Reg.TB_ADJ_NS 2, 5)]
     maySteer s .pf (Reg.TB_OP 2) 2 ∧ (s.tbOf 2).running = true ∧ (s.tbOf 2).ovr = none ∧
       ((s.jumpLimit 2 : Int) + (s.tbOf 2).rem).natAbs ≤ s.jumpLimit 2 ∧ s.jumpLimit 2 < ((s.jumpLimit 2 + 1 : Nat) + (s.tbOf 2).rem : Int).natAbs ∧
       (5 * 2 ^ 32 : Int) = (s.rr (Reg.TB_ADJ_NS 2)).toInt * 2 ^ 32 + ((s.gf (Reg.TB_OPFRAC 2) Fld.TB_OPFRAC_FRAC * 2 ^ 16 : Nat) : Int)) ∧
    (let s : State := { up with tb := [(2, { TimeBase.reset with
        running := true
        ovr := some 0 })] }
     maySteer s .pf (Reg.TB_OP 2) 2 ∧ (s.tbOf 2).ovr ≠ none ∧ ∀ a, a < 8 → s.carOn a = false) ∧
    (maySteer up .pf (Reg.TB_OP 2) 2 ∧ (up.tbOf 2).running = false ∧
      ((up [(Reg.TB_SET_NS 2, 999999999)]).rr (Reg.TB_SET_NS 2)).toNat < 1000000000) := by
  simp only [maySteer]; decide

theorem witness_TimeBaseLatchIncrementSlewAndWrap :
    up.reach .pf (Reg.TB_NOW_FRAC 0) false = true ∧
    (maySteer up .pf (Reg.TB_INCR_LO 0) 0 ∧ maySteer (tb_ 0 0 0) .pf (Reg.TB_INCR_HI 0) 0 ∧ maySteer up .pf (Reg.TB_OP 0) 0) ∧
    (let new := (1 : Word).toNat % 256 * 2 ^ 32 + ((tb_ 0 0 0).tbOf 0).lo.getD (((tb_ 0 0 0).tbOf 0).incr % 2 ^ 32)
     new ≤ 0x1AAAAAAAB + 0x369D03 ∧ 0x1AAAAAAAB ≤ new + 0x369D03) ∧
    (({ up with tb := [(0, { TimeBase.reset with ovr := some 5 })] } : State).tbOf 0).ovr = some 5 ∧
    (let s := tb_ 0 0 1
     s.alive = true ∧ (s.tbOf 0).slewEnds (s.slewOf 0) = true ∧ (s.tbOf 0).start = none ∧ (s.tbOf 0).next = none) ∧
    (let s := up [(Reg.CNT_SEL 9 7, setF 0 Fld.CNT_SEL_EVENT 1)]
     s.gf (Reg.CNT_SEL 9 7) Fld.CNT_SEL_EVENT = 1) := by
  simp only [maySteer]; decide

/-- Comparator 0 and capture unit 1 of the host, valid. -/
def hosted : State := up [(Reg.TB_CMP_CFG 0, 0xC0000000), (Reg.TB_CAPT_CFG 1, 0xC0000000)]
/-- Comparator 0 armed for a time, on time base 0. -/
def cmp_ (now due per missed : Nat) : State :=
  { tb_ 0 now 0 with cmp := [(0, ⟨true, due, per, missed⟩)] }

theorem witness_ComparatorsArmFireAndDisarm :
    up.cmpAir 0 = false ∧ (mayOwn hosted .pf (Reg.TB_CMP_CTL 0) (hosted.cmpOwner 0) ∧
      hosted.gf (Reg.TB_CMP_CFG 0) Fld.TB_CMP_CFG_VALID = 1) ∧
    (let s := cmp_ 9 10 0 0
     (s.cmpOf 0).armed = true ∧ s.now (s.cmpTb 0) < (s.cmpOf 0).due) ∧
    (let s := cmp_ 10 10 0 0
     (s.cmpOf 0).armed = true ∧ (s.tbOf (s.cmpTb 0)).running = true ∧ (s.cmpOf 0).due ≤ s.now (s.cmpTb 0) ∧
       s.gf (Reg.TB_CMP_CFG 0) Fld.TB_CMP_CFG_PIN_EN = 0 ∧ s.gf (Reg.TB_CMP_CFG 0) Fld.TB_CMP_CFG_SIG_EN = 0 ∧
       s.gf (Reg.TB_CMP_CFG 0) Fld.TB_CMP_CFG_IRQ_EN = 0 ∧ (s.cmpOf 0).per = 0) ∧
    (let s := cmp_ 29 10 5 65535
     (s.cmpOf 0).per ≠ 0 ∧ (s.cmpOf 0).due + 3 * (s.cmpOf 0).per ≤ s.now (s.cmpTb 0) ∧
       s.now (s.cmpTb 0) < (s.cmpOf 0).due + (3 + 1) * (s.cmpOf 0).per) ∧
    (let s : State := { up with pulses := [⟨0, 1, 1⟩, ⟨0, 1, 0⟩] }
     s.pulses.find? (fun q => q.k == 0 && decide (q.fin ≤ s.cycle)) = some ⟨0, 1, 0⟩) := by
  simp only [mayOwn]; decide

theorem witness_CapturesStoreAndPop :
    (let s := tb_ 0 0 0 [(Reg.TB_CAPT_CFG 1, setF 0 Fld.TB_CAPT_CFG_VALID 1)]
     s.gf (Reg.TB_CAPT_CFG 1) Fld.TB_CAPT_CFG_VALID = 1 ∧ s.gf (Reg.TB_CAPT_CFG 1) Fld.TB_CAPT_CFG_EDGE = 0 ∧
       (s.tbOf (s.gf (Reg.TB_CAPT_CFG 1) Fld.TB_CAPT_CFG_TB)).running = true ∧
       wbit (s.rr (Reg.TB_CAPT_CFG 1)) Fld.TB_CMP_CFG_SIG_EN.lo = false ∧ wbit (s.rr (Reg.TB_CAPT_CFG 1)) Fld.TB_CMP_CFG_IRQ_EN.lo = false) ∧
    8 ≤ (({ up with capt := [(1, ⟨65535, List.replicate 8 ⟨0, 0, false⟩, none⟩)] } : State).captOf 1).fifo.length ∧
    mayOwn hosted .pf (Reg.TB_CAPT_CTL 1) (hosted.captOwner 1) ∧ up.reach .pf Reg.TB_XCAP true = true := by
  simp only [mayOwn]; decide

theorem witness_SyncObjectOperations :
    (mayObj up .pf Reg.SYNC_SIGNAL 4095 ∧ mayObj up .pf (Reg.SYNC_ARMED 4095) 4095 ∧ mayObj up .pf Reg.SYNC_CLEAR 4095) ∧
    (2 ^ 32 - 1 < (up [(Reg.SYNC_COUNT 5, 0xFFFFFFFF)]).syncCount 5 + (1 : Fin 1048576).val) ∧
    (up.reach (.vf 0) Reg.SYNC_SIGNAL true = true ∧ up.reachObj (.vf 0) 5 = false) := by
  simp only [mayObj]; decide

/-! Tensor-core streams -/

/-- A command word from its fields: the lowest bit of each and its value. -/
def word (fs : List (Nat × Nat)) : CmdWord := BitVec.ofNat 128 (fs.foldl (fun n f => n + f.2 * 2 ^ f.1) 0)
/-- A descriptor from its fields: the offset of each and its value. -/
def desc (fs : List (Nat × Nat)) : Nat := fs.foldl (fun n f => n + f.2 * 2 ^ (8 * f.1)) 0

/-- The bytes of a number from an address on, as memory holds them: none that is 0. -/
def cellsAt (a n v : Nat) : List Host.Cell :=
  (List.range n).filterMap fun i => if v / 256 ^ i % 256 = 0 then none else some (a + i, BitVec.ofNat 8 (v / 256 ^ i))

/-- A slot that runs on lodging 2's stream at the start of the hall, with a completion ring of 16 entries behind it. -/
def slot2 : TcSlot := { TcSlot.idle with
  active := true
  st := 1
  ldg := 2
  buf := hallAddr
  ring := hallAddr + 0x8000
  ringN := 16 }

/-- Core 0 is lodging 2's; its slot A stands at a word; the lodging has the core's whole operand store; a descriptor stands at offset
0x1000 of it. -/
def onCore (w : CmdWord) (d : Nat := 0) (t : TcSlot := slot2) (tc : Tc := Tc.reset) (rs : List (Nat × Word) := [])
    (more : List Host.Cell := []) : State :=
  { up ((Reg.LDG_CORES 2, 1) :: (regionAt 2 0 (osAddr 0) 31 0xE ++ rs)) with
    tc := [(0, { tc with slots := [(0, t)] })]
    mem := cellsAt (osAddr 0 + 0x1000) 64 d ++ more ++ cellsAt hallAddr 16 w.toNat }

/-- The slot stands at the word and decodes it. -/
def reads (s : State) (w : CmdWord) : Bool :=
  s.slotReads 0 .a && !s.seqMatch 0 .a && decide (2 ≤ (slotNow s 0 .a).ringFree) && !s.poisoned (slotNow s 0 .a).nextAddr 16 &&
    s.rdLE (slotNow s 0 .a).nextAddr 16 == w.toNat

/-- The hypotheses of a unit row: decoded, well-formed, the descriptor d readable, every check passed, the unit free. -/
def issues (i : Instr) (s : State) (d : Nat := 0) : Bool :=
  match streamRow i with
  | none => false
  | some (_, _, w) =>
    let u := past s 0 .a
    let x := s.ctx 0 .a
    i.wf && reads s w && u.descAt x w == (d, false) && (match unitChecks i u x w d (u.slotOf 0 (s.curPart 0) .a).att with
      | some cs => pick cs == St.ok
      | none => false) && (queued s 0 .a w).mayRun x (freshEntry s 0 .a w)

/-- A descriptor at offset 0x1000 of the operand store: its field of a D-form word (R109). -/
def at1000 : Nat × Nat := (91, 0x40)

/-- T-form and M-form rows (R107, R108): formats, buffers, one column, a function. FP32 is 8, INT32 9, BF16 6. -/
def tw (op fa fd fn : Nat) (more : List (Nat × Nat) := []) : CmdWord :=
  word ([(120, op), (102, fa), (98, fd), (92, 1), (56, fn)] ++ more)
def mw (op : Nat) : CmdWord := word [(120, op), (102, 8), (98, 8), (33, 1)]

theorem witness_UnitCommandsIssueAndRun_vector :
    issues (.vld 0 .a (mw 0x30)) (onCore (mw 0x30)) = true ∧ issues (.vst 0 .a (mw 0x31)) (onCore (mw 0x31)) = true ∧
    issues (.vbin 0 .a (tw 0x32 8 8 0)) (onCore (tw 0x32 8 8 0)) = true ∧ issues (.vun 0 .a (tw 0x33 8 8 0)) (onCore (tw 0x33 8 8 0)) = true ∧
    issues (.vfma 0 .a (tw 0x34 8 8 0)) (onCore (tw 0x34 8 8 0)) = true ∧ issues (.vcvt 0 .a (tw 0x35 8 6 0)) (onCore (tw 0x35 8 6 0)) = true ∧
    (let w := word [(120, 0x36), (96, 1)]
     issues (.vfree 0 .a w) (onCore w) = true) ∧
    issues (.red 0 .a (tw 0x40 8 8 0)) (onCore (tw 0x40 8 8 0)) = true ∧ issues (.topk 0 .a (tw 0x41 8 8 0)) (onCore (tw 0x41 8 8 0)) = true ∧
    (let w := tw 0x42 8 8 0 [(24, 0x3F800000)]
     issues (.smx1 0 .a w) (onCore w) = true) ∧
    (let w := tw 0x43 8 8 0 [(24, 0x3F800000)]
     issues (.smx2 0 .a w) (onCore w) = true) ∧
    issues (.cmul 0 .a (tw 0x80 12 12 0)) (onCore (tw 0x80 12 12 0)) = true ∧
    (let w := tw 0x82 8 1 0 [(24, 0x3F800000)]
     issues (.llrpk 0 .a w) (onCore w) = true) := by decide

/-- Bank 0 holds a tile of INT8, 1 row deep, loaded by slot A of lodging 2. -/
def tile8 : BankRec := ⟨true, 1, 1, 1, 2, .a, false, 0, 0, false, 0⟩

/-- D-form rows (R109) with the descriptor at 0x1000: source and destination format, function. -/
def dw (op fa fd fn : Nat) (more : List (Nat × Nat) := []) : CmdWord := word ([(120, op), at1000, (87, fa), (83, fd), (78, fn)] ++ more)

theorem witness_UnitCommandsIssueAndRun_matrix :
    (let w := word [(120, 0x20), (101, 1), (57, 1)]
     issues (.pass 0 .a w) (onCore w (tc := { Tc.reset with rec0 := tile8, iss0 := tile8 })) = true) ∧
    (let w := word [(120, 0x21), (56, 1), (52, 1), (50, 1), (32, 0x40)]
     issues (.tile 0 .a w) (onCore w (desc [(4, 16), (12, 16)])) (desc [(4, 16), (12, 16)]) = true) ∧
    (let w := word [(120, 0x20), (101, 1), (82, 1), (57, 1)]
     let s := onCore w (tc := { Tc.reset with rec0 := tile8, iss0 := tile8 })
     reads s w = true ∧ pick ((past s 0 .a).passChecks (s.ctx 0 .a) w (s.slotOf 0 0 .a).att) = St.ok ∧
       emptyPass (.pass 0 .a w) (past s 0 .a) (s.ctx 0 .a) w = true) ∧
    (let w := word [(120, 0x22), (101, 1)]
     issues (.lds 0 .a w) (onCore w) = true) ∧
    (let w := word [(120, 0x23)]
     issues (.drain 0 .a w) (onCore w) = true) ∧
    (let w := dw 0x63 6 0 0
     issues (.oside 0 .a w) (onCore w (desc [(4, 16), (12, 16), (16, 1)])) (desc [(4, 16), (12, 16), (16, 1)]) = true) := by decide +kernel

theorem witness_UnitCommandsIssueAndRun_tables :
    (let w := word [(120, 0x51), at1000]
     issues (.tload 0 .a w) (onCore w (desc [(0x10, 1), (0x11, 64)])) (desc [(0x10, 1), (0x11, 64)]) = true) ∧
    (let w := word [(120, 0x52)]
     issues (.tswap 0 .a w) (onCore w (rs := [(Reg.TC_SFN_STATE 0, 0xFF)])) = true) ∧
    (let w := tw 0x50 8 8 0
     issues (.sfn 0 .a w) (onCore w (tc := { Tc.reset with dir := [(0, ⟨1, 64, false, 0, 0⟩), (4, ⟨1, 64, false, 0, 0⟩)] })) = true) ∧
    (let w := dw 0x81 12 12 0
     issues (.cinv 0 .a w) (onCore w (desc [(1, 1), (2, 2), (8, 0x3F800000)])) (desc [(1, 1), (2, 2), (8, 0x3F800000)]) = true) := by decide +kernel

/-- A quantisation descriptor of one row of one element: wide at 0, codes at 0x100, scales at 0x200, history at 0x400 (R171). -/
def qd : Nat := desc [(4, 16), (8, 0x100), (0xC, 16), (0x10, 0x200), (0x14, 16), (0x24, 0x400)]

theorem witness_UnitCommandsIssueAndRun_quantisation :
    (let w := dw 0x60 8 1 0
     issues (.qnt 0 .a w) (onCore w qd) qd = true) ∧
    (let w := dw 0x61 1 8 0
     issues (.dequant 0 .a w) (onCore w qd) qd = true) ∧
    (let w := dw 0x62 8 0 0
     issues (.recordMax 0 .a w) (onCore w qd) qd = true) ∧
    (let w := dw 0x62 0 0 1
     issues (.qmaxClear 0 .a w) (onCore w qd) qd = true) := by decide +kernel

/-- A pool of lodging 2 with its structures at 64 KiB of the hall: BF16 elements (format 6), 64 dimensions, 1 head, 2 sequences of one
page-table entry, 2 pages, slot and metadata regions 1 and 2, no spill region (R226, R228). -/
def poolRec (nslot npage lwm : Nat) : Nat :=
  desc [(0, 6), (1, 2), (2, 1), (4, 1), (5, 2), (6, 0xFF), (0xC, nslot), (0x10, npage), (0x14, 2), (0x16, lwm), (0x18, 1)]
def metaA : Nat := hallAddr + 0x10000

/-- Core 0 with a live pool 0: sequence 0 in a state with a length and a capacity, sequence 1 NONE; the prefix cache has its granules. -/
def onPool (w : CmdWord) (d st len cap : Nat) : State :=
  let P := Kv.ofRecord 2 0 metaA (poolRec 2 2 1)
  { onCore w d (rs := [(Reg.MEM_HALL_SYS, 16)])
      (more := []) with
    kv := [(8, ⟨true, poolRec 2 2 1, metaA, 0, 0⟩)]
    mem := cellsAt (osAddr 0 + 0x1000) 64 d ++ cellsAt hallAddr 16 w.toNat ++ cellsAt metaA 56 (poolRec 2 2 1) ++
      cellsAt (P.seqA 0) 12 (st + len * 2 ^ 32 + cap * 2 ^ 64) }

/-- A page-manager function of pool 0 with its descriptor at 0x1000. -/
def kw (op fn : Nat) : CmdWord := dw op 0 0 fn

theorem witness_UnitCommandsIssueAndRun_pages :
    (let d := desc [(0x14, 64)]
     issues (.join 0 .a (kw 0x71 1)) (onPool (kw 0x71 1) d 0 0 0) d = true) ∧
    issues (.leave 0 .a (kw 0x71 2)) (onPool (kw 0x71 2) 0 2 64 64) = true ∧
    issues (.kvappStep 0 .a (kw 0x71 3)) (onPool (kw 0x71 3) 0 2 64 64) = true ∧
    (let w := dw 0x71 8 0 4
     let d := desc [(0xC, 256), (0x14, 1), (0x10, 0x800)]
     issues (.append 0 .a w) (onPool w d 2 0 64) d = true) ∧
    (let d := desc [(4, 1)]
     issues (.fork 0 .a (kw 0x71 5)) (onPool (kw 0x71 5) d 2 64 64) d = true) ∧
    issues (.pinBlocks 0 .a (kw 0x71 6)) (onPool (kw 0x71 6) 0 2 64 64) = true ∧
    issues (.unpinBlocks 0 .a (kw 0x71 7)) (onPool (kw 0x71 7) 0 2 64 64) = true ∧
    issues (.grow 0 .a (kw 0x71 8)) (onPool (kw 0x71 8) 0 2 64 64) = true ∧
    issues (.close 0 .a (kw 0x71 9)) (onPool (kw 0x71 9) 0 0 0 0) = true := by decide +kernel

theorem witness_UnitCommandsIssueAndRun_prefix :
    (let d := desc [(0x14, 64), (0x10, 0x200)]
     issues (.lookup 0 .a (kw 0x72 0)) (onPool (kw 0x72 0) d 2 64 64) d = true) ∧
    (let d := desc [(0x14, 64)]
     issues (.publish 0 .a (kw 0x72 1)) (onPool (kw 0x72 1) d 2 64 64) d = true) ∧
    issues (.pfxFlush 0 .a (kw 0x72 2)) (onPool (kw 0x72 2) 0 2 64 64) = true := by decide +kernel

theorem witness_UnitCommandsIssueAndRun_pool :
    (let d := desc [(8, 0x2000)]
     let w := kw 0x71 0
     let s := onCore w (rs := regionAt 2 1 (hallAddr + 0x20000) 3 0x46 ++ regionAt 2 2 (hallAddr + 0x10000) 0 0x46)
     issues (.poolCreate 0 .a w) { s with
       mem := cellsAt (osAddr 0 + 0x1000) 64 d ++ cellsAt (osAddr 0 + 0x2000) 56 (poolRec 16 16 8) ++ cellsAt hallAddr 16 w.toNat } d = true) := by decide +kernel

theorem witness_UnitCommandsIssueAndRun_attention :
    (let w := dw 0x70 6 8 0 [(44, 0x3F800000)]
     let d := desc [(8, 128), (0xE, 6)]
     issues (.att 0 .a w) (onPool w d 2 64 64) d = true) := by decide +kernel

/-- A command whose check fails, and one whose descriptor is poisoned. -/
theorem witness_UnitCommandsRejected :
    (let w := tw 0x32 8 12 0
     let s := onCore w
     reads s w = true ∧ (Instr.vbin 0 .a w).wf = true ∧ pick ((past s 0 .a).vbinChecks (s.ctx 0 .a) w) ≠ St.ok) ∧
    (let w := dw 0x61 0 0 1
     let s : State := { onCore w with poison := [((osAddr 0 + 0x1000) / 8, true)] }
     ((past s 0 .a).descAt (s.ctx 0 .a) w).2 = true) := by decide +kernel

/-! Stream events and moves -/

/-- The slot in a state with the word in the buffer; the word is a NOP unless said. -/
def onSlotA (f : TcSlot → TcSlot) (w : CmdWord := 0) (rs : List (Nat × Word) := []) : State := onCore w (t := f slot2) (rs := rs)

theorem witness_StreamSlotsWaitStallAndHalt :
    streamRow (.nop 0 .a 0) = some (0, .a, 0) ∧ (Instr.nop 0 .a 0).wf = true ∧ (slotNow (onCore 0) 0 .a).moves.length < 64 ∧
    up.slotReads 0 .a = false ∧ (onCore 0).slotReads 0 .a = true ∧
    (let s := onCore 0 (rs := [(Reg.DBG_TC_CTL 0, setF 0 Fld.DBG_TC_CTL_A_SEQ_EN 1)])
     s.slotReads 0 .a = true ∧ s.seqMatch 0 .a = true) ∧
    (let s := onSlotA fun t => { t with claimed := 14 }
     s.slotReads 0 .a = true ∧ s.seqMatch 0 .a = false ∧ (slotNow s 0 .a).ringFree < 2 ∧ (slotNow s 0 .a).stalled = false) ∧
    (let s := onSlotA fun t => { t with
        claimed := 14
        stalled := true }
     s.slotReads 0 .a = true ∧ s.seqMatch 0 .a = false ∧ (slotNow s 0 .a).ringFree < 2 ∧ (slotNow s 0 .a).stalled = true) ∧
    (let s := onSlotA fun t => { t with claimed := 13 }
     2 ≤ (slotNow s 0 .a).ringFree ∧ ({ s with poison := [(hallAddr / 8, true)] } : State).poisoned (slotNow s 0 .a).nextAddr 16 = true ∧
       s.poisoned (slotNow s 0 .a).nextAddr 16 = false ∧ s.rdLE (slotNow s 0 .a).nextAddr 16 ≠ (1 : CmdWord).toNat) := by decide +kernel

theorem witness_UnitCommandsIssueAndRun : (let w := tw 0x32 8 8 0
    let s := onCore w
    Decodes s 0 .a w ∧ streamRow (.vbin 0 .a w) = some (0, .a, w)) := by
  simp only [Decodes]; decide +kernel

/-- Object 4095 is of block 63; bound to lodging 2. -/
def obj2 : Nat × Word := (Reg.LDG_SYNC_HI 2, 0x80000000)

theorem witness_ControlCommandsComplete :
    (Decodes (onCore 0) 0 .a 0 ∧ Quiet (onCore 0) 0 .a 0) ∧
    (let w : CmdWord := BitVec.ofNat 128 (0xF0 * 2 ^ 120)
     Decodes (onCore w) 0 .a w ∧ w.toNat = 0xF0 * 2 ^ 120 ∧ (onCore w).gf (Reg.DBG_TC_CTL 0) Fld.DBG_TC_CTL_A_BRK_EN = 0) ∧
    (∀ op ∈ [1, 2, 3], let w := word [(120, op), (94, 4095), (62, 5)]
     let s := onCore w (rs := [obj2])
     Decodes s 0 .a w ∧ Quiet s 0 .a w ∧ cOp w = op ∧ cbits w 61 0 = 0 ∧ s.holdsObj (slotNow s 0 .a).ldg (cObj w) = true ∧
       s.syncCount (cObj w) < cVal w) ∧
    (let w := word [(120, 1), (94, 4095)]
     cVal w ≤ (onCore w (rs := [obj2])).syncCount (cObj w)) ∧
    (let w := dw 0x61 0 0 1
     let s := onCore w
     Decodes s 0 .a w ∧ cOp w = 0x61 ∧ dFunc w = 1 ∧ pick ((past s 0 .a).attachChecks (s.ctx 0 .a) w 0) = St.ok ∧
       ((past s 0 .a).descAt (s.ctx 0 .a) w).1 = 0 ∧ s.poisoned (osAddr 0 + dDesc w) 64 = false) ∧
    (let w := word [(120, 0x61), (78, 2)]
     let s := onCore w
     Decodes s 0 .a w ∧ dFunc w = 2 ∧ pick (s.detachChecks (s.ctx 0 .a) w) = St.ok) := by
  simp only [Decodes, Quiet]; decide +kernel

/-- An earlier command, still in flight. -/
def busyCmd (st : Nat) (done : Bool) (w : CmdWord) : CmdEntry := { CmdEntry.mk' 7 w 0 Attach.off with
  st := st
  done := done }

theorem witness_DrainCommandsWaitForTheSlot :
    (∀ op ∈ [4, 5, 6], let w := word [(120, op)]
     let s := onCore w
     Decodes s 0 .a w ∧ cSig w = false ∧ (slotNow s 0 .a).step = false ∧ (slotNow s 0 .a).quiet = true ∧ cOp w = op ∧ cbits w 105 0 = 0 ∧
       cCpl w = false) ∧
    (let w := word [(120, 6)]
     let s := onSlotA (fun t => { t with inflight := [busyCmd 0 false 0] }) w
     Decodes s 0 .a w ∧ (slotNow s 0 .a).quiet = false) := by
  simp only [Decodes]; decide +kernel

theorem witness_StreamEventsFinishCommands :
    (let s := onSlotA (fun t => { t with
        wait := .obj 4095 5 7 0
        st := 2 }) (rs := [obj2])
     (s.slotOf 0 0 .a).wait = .obj 4095 5 7 0 ∧ s.syncCount 4095 < 5 ∧ 5 ≤ (up [(Reg.SYNC_COUNT 4095, 5)]).syncCount 4095 ∧
       (s.slotOf 0 0 .a).st = 2) ∧
    (let e := busyCmd St.ok true 0
     let s := onSlotA fun t => { t with inflight := [e] }
     (s.slotOf 0 0 .a).inflight[0]? = some e ∧ e.done = true ∧ e.st = St.ok ∧ e.ovr = false ∧ e.claimed = false ∧ cCpl e.w = false ∧
       s.atHome ⟨0, 0, 2, .a⟩ e = true ∧ (s.slotOf 0 0 .a).wait = .none) ∧
    (let w := word [(120, 0x23)]
     let e := busyCmd St.ok false w
     let s := onSlotA (fun t => { t with inflight := [e] }) w
     let r := s.effect ⟨0, 0, 2, .a⟩ e
     (s.slotOf 0 0 .a).inflight[0]? = some e ∧ cOp e.w = 0x23 ∧ s.mayRun ⟨0, 0, 2, .a⟩ e = true ∧ (r.1.tcOf 0).bufState 0 0 = 1 ∧
       (r.1.effect ⟨0, 0, 2, .a⟩ r.2).2.done = true ∧
       (({ s with tc := s.tc.map fun x => (x.1, { x.2 with tbState := [(0, 1)] }) } : State).effect ⟨0, 0, 2, .a⟩ e).2.done = false ∧
       (onSlotA (fun t => { t with inflight := [{ busyCmd St.ok false (word [(120, 0x22)]) with seq := 6 }, e] }) w).mayRun ⟨0, 0, 2, .a⟩ e = false) ∧
    (let s := onSlotA fun t => { t with
        stalled := true
        st := 2
        claimed := 14 }
     s.reach .pf (Reg.TC_SLOT_CRING 0 0) true = true ∧ (slotNow s 0 .a).stalled = true ∧ (slotNow s 0 .a).st = 2 ∧
       (slotNow s 0 .a).wait = .none ∧ (slotNow (onCore 0) 0 .a).stalled = false) ∧
    2 ≤ TcSlot.ringFree { slot2 with
      tail := 3
      head := 3
      claimed := 13 } := by decide +kernel

/-- 64 bytes of region 0 to themselves, and the moves that the slot has queued. -/
def onMoves (w : CmdWord) (ms : List MoveEntry) : State := onSlotA (fun t => { t with moves := ms }) w
/-- A move of one unit from the operand store to itself. -/
def move0 (w : CmdWord) : MoveEntry := ⟨0, w, osAddr 0, osAddr 0, 1, 0, 0, true, false, St.ok, 0, false, 0, 0, 0⟩

theorem witness_MovesQueueInOrder :
    (let w := word [(120, 0x10), (21, 1)]
     let s := onMoves w []
     Decodes s 0 .a w ∧ cCpl w = false ∧ (slotNow s 0 .a).step = false ∧ (slotNow s 0 .a).moves.length < 64 ∧ cOp w = 0x10 ∧
       pick ((past s 0 .a).movChecks (s.ctx 0 .a) w) = St.ok) ∧
    64 ≤ (slotNow (onMoves 0 (List.replicate 64 (move0 0))) 0 .a).moves.length ∧
    (let w := word [(120, 0x14), (63, 1)]
     let s := onMoves w []
     Decodes s 0 .a w ∧ cOp w = 0x14 ∧ pick ((past s 0 .a).rotChecks (s.ctx 0 .a) w) = St.ok) ∧
    (onMoves 0 []).startable ((onMoves 0 []).slotOf 0 0 .a) = none ∧
    (let m := move0 (word [(120, 0x10)])
     (onMoves 0 [m]).startable ((onMoves 0 [m]).slotOf 0 0 .a) = some m ∧ cOp m.w = 0x10) ∧
    (let m := move0 (word [(120, 0x14)])
     (onMoves 0 [m]).startable ((onMoves 0 [m]).slotOf 0 0 .a) = some m ∧ cOp m.w = 0x14) ∧
    (let m := move0 (word [(120, 0x18)])
     (onMoves 0 [m]).startable ((onMoves 0 [m]).slotOf 0 0 .a) = some m ∧ cOp m.w ≠ 0x10 ∧ cOp m.w ≠ 0x14) := by
  simp only [Decodes]; decide +kernel

theorem witness_MovesQueueInOrder_pages : (∀ op ∈ [0x18, 0x19], let w := word [(120, op)]
    Decodes (onMoves w []) 0 .a w ∧ cOp w = op ∧ pick ((past (onMoves w []) 0 .a).pageChecks ((onMoves w []).ctx 0 .a) w) = St.ok) := by
  simp only [Decodes]; decide +kernel

theorem witness_MovedUnitIsCopied : up.inTier (osAddr 0) = false ∧ up.poisoned hallAddr 64 = false ∧
    ({ up with poison := [(hallAddr / 8 + 7, true)] } : State).poisoned hallAddr 64 = true ∧
    ({ up with poison := [(hallAddr / 8 + 8, true)] } : State).poisoned hallAddr 64 = false := by decide

theorem witness_RegulatorRefillsAndPagesComplete :
    (let s : State := { up with refillAt := [(2, 5)] }
     s.cycle < tget (fun _ => 0) s.refillAt 2 ∧ tget (fun _ => 0) ({ s with cycle := 5 } : State).refillAt 2 ≤ 5 ∧ s.queuesOf 2 = [] ∧
       s.kvMoves = []) ∧
    up.owedAll 2 = 0 ∧ up.kvMoves.find? (spillOver 2 1 9) = none ∧ up.kvMoves.find? (fetchOver 2 1 9) = none ∧
    (let m : KvMove := ⟨2, 1, 9, .spill, 0, true, false, 16, 16, false⟩
     ({ up with kvMoves := [m] } : State).kvMoves.find? (spillOver 2 1 9) = some m) ∧
    (let m : KvMove := ⟨2, 1, 9, .prefetch, 0, true, false, 16, 16, false⟩
     ({ up with kvMoves := [m] } : State).kvMoves.find? (fetchOver 2 1 9) = some m) := by decide

/-! Pooled cores, waybills, batches -/

/-- Core 3 pooled between lodgings 1 (partition 0, the holder) and 2 (partition 1), both with work. -/
def pooled3 (round : List Nat) (d0 d1 : Word) : State :=
  { up [(Reg.LDG_POOLED 1, 8), (Reg.TC_PART 3 0, setF (setF 0 Fld.TC_PART_VALID 1) Fld.TC_PART_LODGING 1),
      (Reg.TC_PART 3 1, setF (setF 0 Fld.TC_PART_VALID 1) Fld.TC_PART_LODGING 2), (Reg.LDG_SHARE 1, 1), (Reg.LDG_SHARE 2, 3),
      (Reg.TC_DEFICIT 3 0, d0), (Reg.TC_DEFICIT 3 1, d1)] with
    tc := [(3, { Tc.reset with
      round := round
      slots := [(0, { slot2 with ldg := 1 }), (2, slot2)] })] }

theorem witness_PooledCoreRounds :
    up.pooled 3 = false ∧
    (let s := pooled3 [] 0 0
     s.pooled 3 = true ∧ s.turn 3 = none ∧ s.workers 3 = [0, 1]) ∧
    (let s := pooled3 [0, 1] 0 7
     s.turn 3 = some 1 ∧ 1 ≠ s.curPart 3 ∧ (5 ≤ 5 ∧ 5 ≤ 5 + 0) ∧ (s.slotOf 3 (s.curPart 3) .a).inflight = [] ∧
       (s.slotOf 3 (s.curPart 3) .b).inflight = []) ∧
    (let s := pooled3 [0, 1] 5 7
     s.turn 3 = some (s.curPart 3) ∧ s.deficit 3 (s.curPart 3) ≤ 5 ∧ -(2 ^ 31) ≤ s.deficit 3 (s.curPart 3) - 5) := by decide

/-- A waybill on slot A of core 0, with a limit in µs. -/
def wb0 (limit : Nat) : Wb := ⟨9, 0, 0, [⟨0, .a, hallAddr, hallAddr + 0x8000, 16⟩], 0, none, none, [], limit, 0⟩
/-- Lodging 2, bound, with core 0, in a state. -/
def lodge2 (g : Lodge) : State := { onCore 0 (rs := [(Reg.LDG_CFG 2, setF 0 Fld.LDG_CFG_BOUND 1)]) with lodge := [(2, g)] }

theorem witness_WaybillsRunFromDispatchToEnd :
    ((ring0 1).nextSub 0 = some ⟨1, 0⟩ ∧ (⟨1, 0⟩ : Sub).ty = 1 ∧ (ring0 1).conf 0 = false ∧ (⟨1, 0⟩ : Sub).badPlain = false ∧
      (⟨1 + 2 ^ 32, 0⟩ : Sub).badPlain = true) ∧
    (up.lodgeOf 2).queue = [] ∧
    (let s := lodge2 { Lodge.idle with queue := [wb0 0] }
     (s.lodgeOf 2).queue = wb0 0 :: [] ∧ Dispatchable s 2 (wb0 0) ∧ ((wb0 0).slots.map fun e => (e.core, e.sl)).Nodup ∧
       s.queuesOf 2 = [] ∧ s.kvMoves = [] ∧ s.owedAll 2 = 0) ∧
    (let s : State := { lodge2 { Lodge.idle with run := some (wb0 5) } with cycle := 3000 }
     (s.lodgeOf 2).run = some (wb0 5) ∧ s.wbOver 2 (wb0 5) = false ∧ (wb0 5).limit ≠ 0 ∧ (s.lodgeOf 2).dbgAt = none ∧
       (s.lodgeOf 2).since + (s.lodgeOf 2).inDebug + 600 * (wb0 5).limit ≤ s.cycle ∧
       ({ s with cycle := 2999 } : State).cycle < (s.lodgeOf 2).since + (s.lodgeOf 2).inDebug + 600 * (wb0 5).limit) ∧
    (let s : State := { onSlotA fun t => { t with ended := true } with lodge := [(2, { Lodge.idle with run := some (wb0 0) })] }
     s.wbOver 2 (wb0 0) = true) ∧
    (up.reach .pf (Reg.LDG_CTL 2) true = true ∧ (lodge2 Lodge.idle).bound 2 = true ∧ up.bound 2 = false) := by
  simp only [Dispatchable]; decide +kernel

theorem witness_TeardownStopsTheWaybill :
    (up.lodgeOf 2).run = none ∧ ((lodge2 { Lodge.idle with run := some (wb0 0) }).lodgeOf 2).run = some (wb0 0) ∧
    ((lodge2 { Lodge.idle with run := some (wb0 0) }).liveSlots 2 (wb0 0)).length = 1 ∧ (up [obj2]).syncHolder 4095 = some 2 := by
  decide +kernel

/-- Stream 5 of lodging 2, enabled, into queue 1 of 8 slots, with an input ring of 16 entries, one posted. -/
def strm5 (used : List Nat) : State :=
  { up [(Reg.SMP_ST_BIND 5, setF (setF 0 Fld.SMP_ST_BIND_ENABLE 1) Fld.SMP_ST_BIND_LODGING 2), (Reg.PWR_DOM_STAT 5, 0x4000)] with
    strm := [(5, { Strm.none with
      desc := desc [(3, 1), (8, 16)]
      posts := [7] })]
    bq := [(9, { BatchQ.none with
      desc := desc [(2, 1), (0xC, 8), (0xE, 4)]
      used := used })] }

/-- A baseline JPEG of one grey block (R374, R378): SOI, DQT, SOF0, DHT of a DC and an AC table of one code each, SOS, two bytes, EOI. -/
def jpeg8 : List Byte :=
  [0xFF, 0xD8, 0xFF, 0xDB, 0, 67, 0] ++ List.replicate 64 1 ++ [0xFF, 0xC0, 0, 11, 8, 0, 8, 0, 8, 1, 1, 0x11, 0] ++
    [0xFF, 0xC4, 0, 20, 0, 1] ++ List.replicate 15 0 ++ [0] ++ [0xFF, 0xC4, 0, 20, 0x10, 1] ++ List.replicate 15 0 ++ [0] ++
    [0xFF, 0xDA, 0, 8, 1, 1, 0, 0, 63, 0, 0x3F, 0x3F, 0xFF, 0xD9]

theorem witness_FramesAndBatches_streams :
    (let s := strm5 []
     s.reach .pf (Reg.SMP_ST_TAIL 5) true = true ∧ sdInSize (s.strmOf 5).desc = 16 ∧ s.gf (Reg.SMP_ST_TAIL 5) Fld.SMP_ST_TAIL_TAIL < 16 ∧
       (15 : Word).toNat % 4096 < 16 ∧ s.mayTake 0 = true ∧ s.roomFor 5 = true) ∧
    (strm5 [3]).roomFor 5 = false ∧ up.mayTake 1 = false ∧ up.smpOf 0 = none ∧
    (let j : SmpJob := ⟨5, 2, 1, jpeg8, 7, 0, 0, [], false, [0]⟩
     let s : State := { strm5 [] with smp := [(0, some j)] }
     s.smpOf 0 = some j ∧ s.owes j.l .sample = false) ∧
    (match headers (jbytes jpeg8) (2 ^ 32) with
      | .ok _ => true
      | _ => false) = true := by decide +kernel

theorem witness_FramesAndBatches_posted : (strm5 []).posted = [5] := by
  have h : ((List.range 64).filter fun k => (strm5 []).strmOn k && !((strm5 []).strmOf k).posts.isEmpty &&
    !((List.range 2).any fun d => (((strm5 []).smpOf d).map fun j => j.stream) == some k)) = [5] := by decide +kernel
  simp only [State.posted, h, List.mergeSort_singleton]

theorem witness_FramesAndBatches_batches :
    (let s := { strm5 [] with regs := (Reg.SMP_BQ_DESC 2 1, 0x80000000) :: (strm5 []).regs }
     s.reach .pf (Reg.SMP_BQ_CTL 2) true = true ∧ bqMode (s.bqOf 2 1).desc = 1 ∧ s.bqValid 2 1 = true ∧ (s.bqOf 2 1).held = none) ∧
    (({ up with bq := [(9, { BatchQ.none with held := some [1] })] } : State).bqOf 2 1).held = some [1] := by decide +kernel

/-! The air path -/

/-- Carrier 0 of lodging 2 with one PRB and one stream, enabled, in a state, on time base 1 at a time; its sync block is 63. -/
def air (now st : Nat) (c : Car) (rs : List (Nat × Word) := []) : State :=
  { tb_ 1 now 0 ([(Reg.AIR_CAR_CFG0 0, setF (setF (setF (setF 0 Fld.AIR_CAR_CFG0_ENABLE 1) Fld.AIR_CAR_CFG0_LODGING 2) Fld.AIR_CAR_CFG0_TB 1)
        Fld.AIR_CAR_CFG0_NPRB 1), (Reg.AIR_CAR_CFG1 0, setF (setF 0 Fld.AIR_CAR_CFG1_SOBJ_BLK 63) Fld.AIR_CAR_CFG1_STATIC 1),
      (Reg.AIR_CAR_STAT 0, setF 0 Fld.AIR_CAR_STAT_STATE st)] ++ rs) with car := [(0, c)] }

/-- A block of 24 bits of base graph 2 that waits for its engine. -/
def blk0 (cbs : List (Nat × Nat × Bool × Nat)) : Blk := ⟨24, 1, 1, 0, 1, 0, 14, 0, 1, 0, 0, 0, 48, 2, 1, cbs, false⟩
/-- An order of slot 7 of frame 5 that starts at 1 s. -/
def order (ul : Bool) (blks : List Blk) (ends : List (Nat × Nat)) : SlotOrd :=
  ⟨2, 0, 0, 0, ul, 5, 7, 1000000 * usU, 0, [0], 0, blks, ends, 0, false, [], false, (0, 0, 0), []⟩
def carWith (o : SlotOrd) : Car := { Car.none with orders := [o] }

theorem witness_FronthaulMessages :
    up.eaxc 3 0 5 7 = none ∧ (air 0 2 Car.none).eaxc 0 0 5 7 = some (0, 0) ∧ (air 0 2 Car.none).eaxc 3 0 5 7 = none ∧
    (let f : FhFrame := ⟨1500, 1, 0xAEFE, 1, false⟩
     frameOk f 0 = true ∧ frameOk f 2 = true ∧ frameOk f 1 = false ∧ frameOk { f with ether := 0x800 } 0 = false) ∧
    (let s := air (1000000 * usU) 2 (carWith (order true [] []))
     let x := s.slotCfg 0 5 7
     x.gf (Reg.AIR_CAR_CFG1 0) Fld.AIR_CAR_CFG1_STATIC = 1 ∧ s.orderAt 0 true 5 7 = some (order true [] []) ∧
       (order true [] []).start + symOff (x.carNum 0) 0 ≤ s.now (x.carTb 0) ∧
       s.now (x.carTb 0) ≤ (order true [] []).start + symOff (x.carNum 0) (0 + 1) + x.carArrMax 0 * usU ∧
       s.now (x.carTb 0) < (order true [] []).start + symOff (x.carNum 0) 1) ∧
    (let s := air (1000172 * usU) 2 (carWith (order true [] []))
     let x := s.slotCfg 0 5 7
     (order true [] []).start + symOff (x.carNum 0) 0 ≤ s.now (x.carTb 0) ∧
       (order true [] []).start + symOff (x.carNum 0) (0 + 1) + x.carArrMax 0 * usU < s.now (x.carTb 0)) ∧
    ((air 0 2 Car.none).orderAt 0 true 5 7 = none ∧
      ∀ y ∈ ((air 0 2 Car.none).carOf 0).seen, y ≠ ((air 0 2 Car.none).slotStart 0 5 7, true)) ∧
    (let s : State := { air 0 2 Car.none with regs := (Reg.AIR_CAR_CFG1 0, 0) :: (air 0 2 Car.none).regs }
     s.eaxc 0 0 5 7 = some (0, 0) ∧ ¬s.gf (Reg.AIR_CAR_CFG1 0) Fld.AIR_CAR_CFG1_STATIC = 1 ∧
       ∀ m ∈ [(0, 9), (1, 16), (2, 9)], ¬(m.1 = 0 ∧ m.2 = 16) ∧ ¬(m.1 = 1 ∧ (m.2 = 9 ∨ m.2 = 12 ∨ m.2 = 14))) := by decide

theorem witness_UplinkSlotsRunTheirStages :
    up.orderAt 0 true 5 7 = none ∧
    (let o := order true [] []
     let s := air (1000171 * usU + usU / 2) 2 (carWith o)
     s.airEnd o 0 + (s.asOf o).carArrMax 0 * usU ≤ s.oNow o ∧ o.has 100 = false ∧ o.car = 0 ∧
       s.oNow o < s.airEnd o 1 + (s.asOf o).carArrMax 0 * usU ∧ s.symFull o 0 = false ∧ s.stageBegin o 4 = none) ∧
    (let o := { order true [] [] with got := [gotKey 0 0 0] }
     (air 0 2 (carWith o)).symFull o 0 = true ∧ o.has 100 = false) ∧
    (let o := order true [] ((List.range 14).map fun i => (100 + i, i))
     (air 0 2 (carWith o)).stageBegin o 2 = some (1000000 * usU) ∧ (air 0 2 (carWith o)).stageBegin o 3 = some (1000000 * usU) ∧
       o.has 2 = false ∧ o.has 3 = false) ∧
    (let o := order true [] [(2, 1), (3, 2), (4, 3), (5, 4), (7, 6)]
     (air 0 2 (carWith o)).stageBegin o 6 = some 4 ∧ (air 0 2 (carWith o)).stageBegin o 8 = some 6 ∧ o.has 6 = false ∧ o.has 8 = false) ∧
    (let o := order true [] []
     let s := air (1002000 * usU) 2 (carWith o)
     s.deadlineOf o ≤ s.oNow o ∧ s.carDebug 0 = false ∧
       (air (1002000 * usU - 1) 2 (carWith o)).oNow o < (air (1002000 * usU - 1) 2 (carWith o)).deadlineOf o) ∧
    ({ air 0 2 Car.none with lodge := [(2, { Lodge.idle with dbgAt := some 0 })] } : State).carDebug 0 = true := by decide

theorem witness_CarrierTracking :
    (let s := air 0 1 { Car.none with good := 1 }
     s.gf (Reg.AIR_CAR_STAT 0) Fld.AIR_CAR_STAT_STATE = 1 ∧ 1 ≤ (s.carOf 0).good ∧ 1000 * (327 : Int).natAbs ≤ 5 * 65536) ∧
    (let s := air 0 2 { Car.none with
        bad := 2
        pilotAt := 5 }
     s.carOn 0 = true ∧ s.gf (Reg.AIR_CAR_STAT 0) Fld.AIR_CAR_STAT_STATE = 2 ∧ 2 ≤ (s.carOf 0).bad ∧ 2 * 65536 < 100 * (-1311 : Int).natAbs ∧
       (s.carOf 0).badAt + slotUs (s.carNum 0) * usU = 1000 * usU ∧ (s.carOf 0).pilotAt ≠ 0 ∧ (s.carOf 0).pilotAt + 16 * (slotUs (s.carNum 0) * usU) ≤ 16000 * usU + 5 ∧ s.carDebug 0 = false) ∧
    up.reach .pf (Reg.AIR_CAR_CTL 0) true = true ∧ (air 0 1 Car.none).gf (Reg.AIR_CAR_STAT 0) Fld.AIR_CAR_STAT_STATE ≠ 2 := by decide

theorem witness_SlotOrdersAndDownlink :
    ((ring0 2).nextSub 0 = some ⟨2, 0⟩ ∧ (⟨2, 0⟩ : Sub).ty = 2 ∧ (ring0 2).conf 0 = false ∧ (⟨2, 0⟩ : Sub).badPlain = false) ∧
    (∀ x ∈ up.airIn, x.1 ≠ 0) ∧ ({ up with airIn := [(0, 1, 2, 3, 4)] } : State).airIn = (0, 1, 2, 3, 4) :: [] ∧
    up.owes 0 .air = false ∧ (up.setOwed 0 .air 1 5).owes 0 .air = true ∧
    (let o := order false [blk0 []] []
     let s := air (999750 * usU) 2 (carWith o)
     let x := s.asOf o
     s.orderAt 0 false 5 7 = some o ∧ o.has 1 = false ∧ (∃ b ∈ o.blks, b.cbs = []) ∧ o.endOf 1 = none ∧
       s.oNow o < o.start + symOff (x.carNum 0) o.syms - x.carDlAdv 0 * usU ∧ o.cplane = false ∧
       o.start ≤ s.oNow o + x.carCpAdv 0 * usU ∧ (air (999750 * usU - 1) 2 (carWith o)).oNow o + x.carCpAdv 0 * usU < o.start) ∧
    (∀ b ∈ (order false [blk0 [(0, 48, true, 0)]] []).blks, b.cbs ≠ []) ∧
    (let o := order false [] [(1, 5)]
     let s := air (999850 * usU) 2 (carWith o)
     o.endOf 1 = some 5 ∧ o.has 100 = false ∧
       o.start + symOff ((s.asOf o).carNum 0) o.syms - (s.asOf o).carDlAdv 0 * usU ≤ s.oNow o ∧ o.endOf (100 + o.syms) = none ∧
       s.owes o.l .air = false ∧ (order false [] [(1, 5), (100, 6)]).endOf (100 + o.syms) = some 6 ∧
       6 ≤ o.start + symOff ((s.asOf o).carNum 0) o.syms - (s.asOf o).carDlAdv 0 * usU ∧
       (order false [] [(1, 5), (100, 1000000 * usU)]).endOf (100 + o.syms) = some (1000000 * usU) ∧
       o.start + symOff ((s.asOf o).carNum 0) o.syms - (s.asOf o).carDlAdv 0 * usU < 1000000 * usU ∧ (∃ x ∈ (order false [] [(1, 5), (101, 6)]).ends, 100 ≤ x.1) ∧
       (order false [] [(1, 5), (101, 6)]).has 100 = false) := by decide

theorem witness_CodeBlocksDecodeAndEncode :
    up.cbFor 0 = none ∧
    (let o := order true [blk0 []] [(6, 1)]
     let s := { air 0 2 (carWith o) [(Reg.LDPC_ENG_OWNER, 2)] with ldpcEng := [] }
     s.engOf 0 = none ∧ (s.cbFor 0).map (fun w => (w.o, w.tbi, w.cb)) = some (o, 0, 0) ∧ o.blks[0]? = some (blk0 [])) ∧
    ({ up with ldpcEng := [(0, some ⟨0, 0, 0, 0, [], 0, 1⟩)] } : State).engOf 0 = some ⟨0, 0, 0, 0, [], 0, 1⟩ ∧ up.encNext.isNone = true ∧
    ((air 0 2 (carWith (order false [blk0 []] []))).encNext.map fun w => (w.o, w.tbi)) = some (order false [blk0 []] [], 0) ∧
    (order false [blk0 []] []).blks[0]? = some (blk0 []) ∧
    (up.owes 2 .ldpc = false ∧ up.encFailed 0 = false ∧ ({ up with failed := [(7, 0)] } : State).encFailed 0 = true ∧
      ({ up with failed := [(7, 0)] } : State).encFailed 1 = false ∧ ({ up with failed := [(7, 0), (7, 1)] } : State).encFailed 1 = true) := by decide

theorem witness_DecoderTablesAndCrcUnits :
    (up.reach .pf Reg.LDPC_TBL_CTL true = true ∧
      (let s := up [(Reg.LDPC_TBL_SRC_HI, setF 0 Fld.LDPC_TBL_SRC_HI_ADDR_HI (hallAddr / 2 ^ 32))]
       (s.rr Reg.LDPC_TBL_SRC_LO).toNat + 2 ^ 32 * s.gf Reg.LDPC_TBL_SRC_HI Fld.LDPC_TBL_SRC_HI_ADDR_HI = hallAddr) ∧
      hallAddr % 64 = 0 ∧ up.place hallAddr ≠ .hole ∧ up.place (hallAddr + 191) ≠ .hole ∧ up.ldpcLoad = none ∧ up.selStaged 15 = false) ∧
    (({ up with ldpcLoad := some (15, hallAddr) } : State).ldpcLoad = some (15, hallAddr) ∧ up.inTier hallAddr = false) ∧
    (let s := up ([(Reg.LDG_IAMBEL 2, 1), (Reg.LDPC_CRC_ADDR_HI 0, setF 0 Fld.LDPC_CRC_ADDR_HI_ADDR_HI (hallAddr / 2 ^ 32))] ++
        regionAt 2 0 hallAddr 0 0x46)
     s.reach .pf (Reg.LDPC_CRC_CMD 0) true = true ∧ s.ibcHolder 0 = some 2 ∧ s.inRegions 2 hallAddr (cdiv 65536 8) = true ∧
       s.inRegions 2 (hallAddr + 0x10000 - 7) (cdiv 64 8) = false ∧ s.crcOf 0 = none) ∧
    ({ up with crcJobs := [(0, some ⟨2, 5, 65536, hallAddr⟩)] } : State).crcOf 0 = some ⟨2, 5, 65536, hallAddr⟩ ∧
    up.owes 2 .ldpc = false ∧ up.inTier hallAddr = false := by decide

/-! Iambel cores -/

/-- An Iambel word of an opcode with fields. -/
def iw (op : Nat) (fs : List (Nat × Nat) := []) : Word := BitVec.ofNat 32 (fs.foldl (fun n f => n + f.2 * 2 ^ f.1) (op * 2 ^ 26))

/-- Core 3 of lodging 2 in RUN with a word at address 5 of its program, and registers changed. -/
def ibAt (w : Word) (f : IbArch → IbArch := id) (rs : List (Nat × Word) := []) (st : Nat := 1) (g : Ibc → Ibc := id) : State :=
  { up ((Reg.LDG_IAMBEL 2, 8) :: rs) with
    ibc := [(3, g { Ibc.reset with
      st := st
      a := f { IbArch.reset with pc := 5 } })]
    mem := cellsAt (ibWord 3 2 5) 4 w.toNat }

/-- The core issues the word. -/
def ready (w : Word) (f : IbArch → IbArch := id) (rs : List (Nat × Word) := []) (g : Ibc → Ibc := id) : Bool :=
  let s := ibAt w f rs 1 g
  let b := s.ibcOf 3
  b.st == 1 && b.a.rep == none && (ibSees s 3).rep == none && b.wp == none && b.reads == [] && s.bpAt 3 (ibSees s 3).pc == none &&
    !b.ckDue && !b.stopReq && !b.haltReq && !b.stepping && (s.ibNow 3).words == (w.toNat, if iBnd w then (0 : Word).toNat else 0, false)

/-- It ends without a trap, and reads no poison. -/
def sound (i : Instr) (s : State) : Bool :=
  match ibBundle i s with
  | some (_, w, _, op, .ok o) => iOp w == op && !o.bad
  | _ => false

theorem witness_Issues (w : Word) (f : IbArch → IbArch) (rs : List (Nat × Word)) (g : Ibc → Ibc) (h : ready w f rs g = true) :
    Issues (ibAt w f rs 1 g) 3 w 0 := by
  simp only [ready, Bool.and_eq_true, beq_iff_eq, Bool.not_eq_true'] at h
  obtain ⟨⟨⟨⟨⟨⟨⟨⟨⟨⟨h1, h2⟩, h3⟩, h4⟩, h5⟩, h6⟩, h7⟩, h8⟩, h9⟩, h10⟩, h11⟩ := h
  exact ⟨h1, h2, h3, h4, h5, h6, h7, h8, h9, h10, h11⟩

theorem witness_IambelBundlesIssue :
    ((List.range 10).all fun op => ready (iw op)) = true ∧
    ([Instr.ibcNop 3 (iw 0) 0, .ftap 3 (iw 1) 0, .macIns 3 (iw 2) 0, .cmac 3 (iw 3) 0, .alu 3 (iw 4) 0, .alui 3 (iw 5) 0, .ldi 3 (iw 6) 0,
      .acop 3 (iw 7) 0, .mv 3 (iw 8) 0, .ldst 3 (iw 9) 0].zipIdx.all fun x => sound x.1 (ibAt (iw x.2))) = true := by decide +kernel

/-- Ended by a trap of a cause. -/
def traps (i : Instr) (s : State) (c : Nat) : Bool :=
  match ibBundle i s with
  | some (_, w, _, op, .error d) => iOp w == op && d == c
  | _ => false

theorem witness_IambelTraps :
    (((ibAt 0).lodgeOf 2).run = none ∧ (ibAt 0).ibcHolder 3 = some 2) ∧
    (let w := iw 4 [(9, 20)]
     ready w = true ∧ traps (.alu 3 w 0) (ibAt w) 1 = true) ∧
    (let w := iw 9
     let s : State := { ibAt w with poison := [(ibWord 3 0 0 / 8, true)] }
     (match ibBundle (.ldst 3 w 0) s with
      | some (_, _, _, _, .ok o) => o.bad
      | _ => false) = true) ∧
    (let w := iw 0xE [(22, 6), (0, 0xAB)]
     ready w = true ∧ iOp w = 0x0E ∧ ib w 25 22 = 6 ∧ iBnd w = false ∧ ib w 21 8 = 0) ∧
    (let w := iw 0xD [(0, 77)]
     ready w (fun a => { a with ras := [1, 2, 3, 4, 5, 6, 7, 8] }) = true ∧ iOp w = 0x0D ∧ ib w 25 14 = 0) ∧
    (let w := iw 0xE
     ready w = true ∧ ib w 25 22 = 0 ∧ ib w 21 0 = 0 ∧ (ibSees (ibAt w) 3).ras = []) ∧
    (let w := iw 0xE [(22, 1)]
     ready w = true ∧ ib w 25 22 = 1 ∧ (ibSees (ibAt w) 3).lev = 0) := by decide +kernel

theorem witness_IambelControlFlow :
    (let w := iw 0xC [(22, 0), (0, 9)]
     ready w = true ∧ iOp w = 0x0C ∧ ib w 21 14 = 0 ∧ ib w 25 22 ≠ 13 ∧ ib w 25 22 ≠ 15) ∧
    (let w := iw 0xC [(22, 13), (0, 9)]
     ready w (fun a => { a with lc := 1 }) = true ∧ ib w 25 22 = 13 ∧ ready w = true ∧ (ibSees (ibAt w) 3).lc = 0) ∧
    ([1, 2, 3, 4, 5, 6, 7].length < 8) ∧
    (let f (a : IbArch) : IbArch := { a with ras := [16383] }
     (ibSees (ibAt (iw 0xE) f) 3).ras = 16383 :: [] ∧ ready (iw 0xE) f = true) ∧
    (let w := iw 0xE [(22, 1)]
     ∀ l ∈ [1, 2], let f (a : IbArch) : IbArch := { a with base := { a.base with st := BitVec.ofNat 32 (l * 2 ^ 15) } }
       ready w f = true ∧ (ibSees (ibAt w f) 3).lev = l) ∧
    (∀ k ∈ [2, 3], let w := iw 0xE [(22, k), (0, 3)]
     ready w = true ∧ ib w 25 22 = k ∧ ib w 21 2 = 0) ∧
    (∀ k ∈ [0, 1], let w := iw 0xA [(3, k)]
     ready w = true ∧ iOp w = 0x0A ∧ ib w 2 0 = 0 ∧ ib w 3 3 = k ∧ ib w 19 4 = 0 ∧ (ibSees (ibAt w) 3).loop = none ∧
       (ibSees (ibAt w) 3).lc = 0) ∧
    (let w := iw 0xB
     let s := ibAt w (rs := [(Reg.IBC_CTL 3, setF 0 Fld.IBC_CTL_REP_LIMIT 1)])
     ready w (rs := [(Reg.IBC_CTL 3, setF 0 Fld.IBC_CTL_REP_LIMIT 1)]) = true ∧ iOp w = 0x0B ∧ ib w 8 0 = 0 ∧ ib w 25 25 = 0 ∧
       iOp (0 : Word) ≤ 9 ∧ iBnd (0 : Word) = false ∧ (ibEnv s 3).fetch ((ibSees s 3).pc + 1) = ((0 : Word).toNat, false) ∧
       ib w 24 9 + 1 ≤ s.gf (Reg.IBC_CTL 3) Fld.IBC_CTL_REP_LIMIT) := by decide +kernel

theorem witness_IambelStatesAndBlocks :
    (∀ k ∈ [4, 5, 7], let w := iw 0xE [(22, k)]
     ready w = true ∧ iOp w = 0x0E ∧ ib w 25 22 = k ∧ ib w 21 0 = 0 ∧ iBnd w = false) ∧
    (let s := ibAt 0 (rs := [(Reg.DBG_IBC_CTL 3, setF 0 Fld.DBG_IBC_CTL_BRK_EN 1)])
     s.gf (Reg.DBG_IBC_CTL 3) Fld.DBG_IBC_CTL_BRK_EN = 1 ∧ (ibAt 0).gf (Reg.DBG_IBC_CTL 3) Fld.DBG_IBC_CTL_BRK_EN ≠ 1) ∧
    ((ibAt 0).ibcHolder 3 = some 2 ∧ ({ wb0 0 with ibc := 8 } : Wb).ibc.testBit 3 = true) ∧
    (∀ k ∈ [0, 1, 2], let w := iw 0xF [(24, k)]
     ready w = true ∧ iOp w = 0x0F ∧ ib w 25 24 = k ∧ ib w 23 0 = 0) ∧
    (let f (a : IbArch) : IbArch := { a with
        head := some (-3)
        base := { a.base with st := 16 } }
     ready (iw 0xF) f = true ∧ (ibSees (ibAt (iw 0xF) f) 3).head = some (-3) ∧ (ibSees (ibAt (iw 0xF) f) 3).st.testBit 4 = true) ∧
    (ibSees (ibAt 0) 3).head = none := by decide +kernel

/-- D1 and D2 of the core. -/
def d12 (x y : Word) (a : IbArch) : IbArch := { a with base := { a.base with d := [(1, x), (2, y)] } }

theorem witness_IambelSyncObjects :
    (∀ k ∈ [0, 1, 2], let w := iw 0x10 [(24, k), (20, 1), (16, 2)]
     let s := ibAt w (d12 4095 5) [obj2]
     ready w (d12 4095 5) [obj2] = true ∧ iBnd w = false ∧ iOp w = 0x10 ∧ ib w 15 0 = 0 ∧ ((ibSees s 3).d (ib w 23 20)).toNat = 4095 ∧
       s.ibcHolder 3 ≠ none ∧ s.syncHolder 4095 = s.ibcHolder 3 ∧ ib w 25 24 = k ∧ s.syncCount 4095 < ((ibSees s 3).d (ib w 19 16)).toNat ∧
       ((ibSees (ibAt w (d12 4095 0) [obj2]) 3).d (ib w 19 16)).toNat ≤ s.syncCount 4095 ∧ (ibAt w).syncHolder 4095 ≠ (ibAt w).ibcHolder 3) := by
  decide +kernel

theorem witness_IambelWaitsAndTransfersEnd :
    (let s := ibAt 0 id [] 2 fun b => { b with waits := (4095, 5) }
     (s.ibcOf 3).st = 2 ∧ s.syncCount (s.ibcOf 3).waits.1 < (s.ibcOf 3).waits.2 ∧
       5 ≤ (ibAt 0 id [(Reg.SYNC_COUNT 4095, 5)] 2).syncCount 4095) ∧
    ((ibAt 0).ibcOf 3).xq = [] ∧
    (let x : IbXfer := ⟨0, true, ibWord 3 0 0, hallAddr, 1, 0, 4095, true, 0x46, true, St.ok, 0, 0⟩
     ((ibAt 0 id [] 1 fun b => { b with xq := [x] }).ibcOf 3).xq = x :: [] ∧ x.st = St.ok ∧ w3Remote x.w3 = false ∧
       up.inTier x.addr = false ∧ up.inTier x.local_ = false ∧ up.poisoned hallAddr (16 * x.units) = false) := by decide +kernel

theorem witness_IambelTransfersAndRegisters :
    ((ibAt 0).ibcOf 3).reads = [] ∧
    (let r : IbRead := ⟨false, 1, 2, 3⟩
     ((ibAt 0 id [] 1 fun b => { b with reads := [r] }).ibcOf 3).reads = r :: []) ∧
    (let w := iw 0x11 [(13, 1), (9, 2), (5, 3)]
     let rs := regionAt 2 0 hallAddr 0 0x4E
     let s := ibAt w (d12 0 0) rs
     ready w (d12 0 0) rs = true ∧ iOp w = 0x11 ∧ ib w 24 23 ≠ 3 ∧ ib w 3 0 = 0 ∧ XferMay s 3 w 2 ∧ XferFits s 3 w 2 ∧
       (s.ibcOf 3).xq.length < 8 ∧ (s.ibcOf 3).xq = [] ∧ 2 = (s.ibcHolder 3).getD 0 ∧ Loose s 3 ∧
       ¬XferMay (ibAt w (d12 0 0) (regionAt 2 0 hallAddr 0 0x4A)) 3 w 2 ∧ ¬XferFits (ibAt w (d12 0 0x3FFFD) rs) 3 w 2 ∧
       (let x := { xferOf s 3 w with started := true }
        ((ibAt w (d12 0 0) rs 1 fun b => { b with xq := List.replicate 7 x }).ibcOf 3).xq = x :: List.replicate 6 x ∧
          8 ≤ ((ibAt w (d12 0 0) rs 1 fun b => { b with xq := List.replicate 8 x }).ibcOf 3).xq.length)) ∧
    (ready (iw 0x11 [(23, 3)]) = true ∧ ib (iw 0x11 [(23, 3)]) 24 23 = 3 ∧ ready (iw 0x12 [(0, 1)]) = true ∧ ib (iw 0x12 [(0, 1)]) 16 0 ≠ 0) ∧
    (∀ k ∈ [0, 1], let w := iw 0x12 [(25, k), (21, 1), (17, 2)]
     let f := d12 (BitVec.ofNat 32 (Reg.IBC_MBOX 3)) 0
     let s := ibAt w f
     ready w f = true ∧ iOp w = 0x12 ∧ ib w 16 0 = 0 ∧ ib w 25 25 = k ∧ ((ibSees s 3).d (ib w 24 21)).toNat % 2 ^ 24 = Reg.IBC_MBOX 3 ∧
       Reg.IBC_MBOX 3 % 4 = 0 ∧ s.reach (.ibc 3) (Reg.IBC_MBOX 3) (k == 1) = true ∧ s.reach (.ibc 3) Reg.MEM_FLAG false = false) := by
  simp only [XferMay, XferFits, Loose]; decide +kernel

theorem witness_IambelInterruptsAndRequests :
    (ibAt 0).irqPick 3 = none ∧
    (let pend := [(Reg.IBC_IRQ_PEND 3, (0xFF : Word)), (Reg.IBC_IRQ_EN 3, 0xFF), (Reg.IBC_IRQ_LVL 3, 0x80)]
     let s := ibAt 0 (fun a => { a with base := { a.base with st := 0x6000 } }) pend
     let t := ibAt 0 (fun a => { a with base := { a.base with st := 0x2000 } }) pend
     s.irqPick 3 = some (7, true) ∧ t.irqPick 3 = some (0, false) ∧ (s.ibcOf 3).st = 1 ∧ (s.ibcOf 3).a.rep = none ∧ (s.ibcOf 3).wp = none ∧
       (s.ibcOf 3).stepping = false ∧ (s.ibcOf 3).stopReq = false ∧ (s.ibcOf 3).haltReq = false) ∧
    ((ibAt 0 fun a => { a with cyc := 4096 }).ibcOf 3).ckDue = true ∧ ((ibAt 0 fun a => { a with cyc := 4095 }).ibcOf 3).ckDue = false ∧
    ((ibAt 0).reach .pf (Reg.IBC_CTL 3) true = true ∧ (ibAt 0).reach .pf (Reg.IBC_IRQ_SET 3) true = true ∧
      (ibAt 0).reach (.ibc 3) (Reg.IBC_MBOX 3) true = true) ∧
    ((ibAt 0 id [] 0).ibcOf 3).st = 0 ∧ ((ibAt 0 id [] 4).ibcOf 3).st = 4 ∧
    ((ibAt 0 fun a => { a with rep := some (1, 0, 0) }).ibcOf 3).a.rep.isSome = true := by decide +kernel

/-- A debug grant of every scope over lodging 2. -/
def granted2 (s : State) : State := { s with grant := some (31, 4) }

theorem witness_DebugHalts_tc :
    (let s := granted2 (onCore 0)
     s.grants 1 (s.slotLdg 0 .a) = true ∧ (slotNow s 0 .a).active = true ∧ (slotNow s 0 .a).st = 1 ∧ (slotNow s 0 .a).st ≠ 4) ∧
    (slotNow (onSlotA fun t => { t with st := 4 }) 0 .a).st = 4 ∧ (onCore 0).grants 1 ((onCore 0).slotLdg 0 .a) = false ∧
    (Decodes (onSlotA fun t => { t with step := true }) 0 .a 0 ∧ (slotNow (onSlotA fun t => { t with step := true }) 0 .a).step = true) ∧
    (let w : CmdWord := BitVec.ofNat 128 (0xF0 * 2 ^ 120)
     let s := onCore w (rs := [(Reg.DBG_TC_CTL 0, setF 0 Fld.DBG_TC_CTL_A_BRK_EN 1)])
     Decodes s 0 .a w ∧ w.toNat = 0xF0 * 2 ^ 120 ∧ s.gf (Reg.DBG_TC_CTL 0) Fld.DBG_TC_CTL_A_BRK_EN = 1) ∧
    (∀ p ∈ [true, false], (granted2 up).grantsCp p = true) ∧ up.porterHalt = false ∧ up.innHalt = false ∧
    ({ up with innHalt := true } : State).innHalt = true := by
  simp only [Decodes]; decide +kernel

theorem witness_DebugHalts_iambel :
    (let s := granted2 (ibAt 0)
     s.grants 0 (s.ibcHolder 3) = true ∧ (s.ibcOf 3).st = 1 ∧ (s.ibcOf 3).a.rep = none) ∧
    ((ibAt 0 fun a => { a with rep := some (1, 0, 0) }).ibcOf 3).a.rep.isSome = true ∧ ((ibAt 0 id [] 5).ibcOf 3).st = 5 ∧
    (ibAt 0).grants 0 ((ibAt 0).ibcHolder 3) = false ∧
    ((ibAt 0).bpAt 3 5 = none ∧ (ibAt 0 id [(Reg.DBG_IBC_BP 3 7, setF (setF 0 Fld.DBG_IBC_BP_EN 1) Fld.DBG_IBC_BP_ADDR 5)]).bpAt 3 5 = some 7) ∧
    (((ibAt 0).ibcOf 3).wp = none ∧ ((ibAt 0 id [] 1 fun b => { b with wp := some 7 }).ibcOf 3).wp = some 7) := by decide +kernel

/-! ### Single commands and functions, with expected values from spec/ -/

/-- Something of the state a command leads to. -/
def after {α : Type} (i : Instr) (s : State) (f : State → α) (d : α) : α :=
  match exec i s with
  | .next t => f t
  | _ => d

/-- spec/01, the window at work: BF16 products 2⁻²⁴, 2⁴⁰, −2⁴⁰, 1, 2⁻²⁴ give the group value 1.0; 0.5 becomes 1.5. -/
theorem test_window :
    floatGroup ([0x3380, 0x5380, 0xD380, 0x3F80, 0x3380].map fun x => decIn 6 x) (List.replicate 5 (decIn 6 0x3F80)) = (0x3F800000, 0) ∧
    (accFloat (.sealed 0x3F000000 true) false 0x3F800000).1.v = 0x3FC00000 := by decide +kernel

/-- spec/03, encoding a PASS: the fields of the word of the example. -/
theorem test_pass_word :
    let w : CmdWord := 0x20431638E01080000800000000000000
    cOp w = 0x20 ∧ cCpl w = false ∧ cSig w = true ∧ cSobj w = 197 ∧ cbits w 105 105 = 1 ∧ cbits w 104 101 = 1 ∧ cbits w 100 93 + 1 = 200 ∧
      cbits w 92 85 = 0 ∧ cbits w 84 84 = 1 ∧ 16 * cbits w 81 65 = 0x40000 ∧ 16 * cbits w 64 57 = 64 := by decide

/-- spec/05, the INT4 example's activation row: QNT finds scale 2⁻⁶ and codes 0x60, 0xD0 and 0 (one group of 32, channel 5 an outlier). -/
theorem test_qnt :
    let d := desc [(4, 128), (8, 0x100), (0xC, 32), (0x10, 0x200), (0x14, 16), (0x18, 0x300), (0x1C, 16), (0x20, 0x400), (0x2A, 31),
      (0x30, 1 * 2 ^ 7)]
    let w := dw 0x60 8 1 0
    let x := cellsAt (osAddr 0) 24 (desc [(0, 0x3FC00000), (4, 0xBF400000), (20, 0x42200000)]) ++ cellsAt (osAddr 0 + 0x400) 2 5
    let s : State := { onCore w d with mem := x ++ (onCore w d).mem }
    after (.qnt 0 .a w) s (fun t => (t.rb (osAddr 0 + 0x100), t.rb (osAddr 0 + 0x101), t.rb (osAddr 0 + 0x105), t.rb (osAddr 0 + 0x200),
      t.rdLE (osAddr 0 + 0x300) 2)) (0, 0, 0, 0, 0) = (0x60, 0xD0, 0, 0x79, 0x4220) := by decide +kernel

/-- VBIN ADD and SUB of FP32 1.0 and 2.0, row 0, column 0, into buffer 1 (R141). -/
theorem test_vbin :
    let tc := (Tc.reset.setTb 0 0 0 0x3F800000).setTb 2 0 0 0x40000000
    (let w := tw 0x32 8 8 0 [(94, 2)]
     after (.vbin 0 .a w) (onCore w (tc := tc)) (fun t => (t.tcOf 0).tb 1 0 0) 0 = 0x40400000) ∧
    (let w := tw 0x32 8 8 1 [(94, 2)]
     after (.vbin 0 .a w) (onCore w (tc := tc)) (fun t => (t.tcOf 0).tb 1 0 0) 0 = 0xBF800000) := by decide +kernel

/-- PASS of one vector (3, −2) over lane 0's tile (5, 7), INT8 with ACC 0: 15 − 14 = 1 in row 0 (R62, R72). -/
theorem test_pass :
    let w := word [(120, 0x20), (101, 1), (57, 1)]
    let tc : Tc := { Tc.reset with
      rec0 := { tile8 with kp := 2 }
      iss0 := { tile8 with kp := 2 }
      bank := [(0, 5), (1, 7)] }
    let s : State := { onCore w (tc := tc) with mem := cellsAt (osAddr 0) 2 0xFE03 ++ (onCore w).mem }
    after (.pass 0 .a w) s (fun t => (tget (fun _ => .zero) (t.tcOf 0).acc 0).v.toInt) 0 = 1 := by decide +kernel

/-- SIGNAL clamps at 2³² − 1 (R454). -/
theorem test_signal_clamps : after (.syncSignal .pf 5 7) (up [(Reg.SYNC_COUNT 5, 0xFFFFFFFA)]) (fun t => t.syncCount 5) 0 = 0xFFFFFFFF := by
  decide +kernel

/-- The Iambel ALU (R345): ADD wraps, ADDS saturates, SUB of D1 and D2. -/
theorem test_alu :
    let f := d12 0x7FFFFFFF 1
    let r (fn : Nat) : List (IbDst × Int) :=
      let w := iw 4 [(22, 3), (18, 1), (14, 2), (9, fn)]
      match ibBundle (.alu 3 w 0) (ibAt w f) with
      | some (_, _, _, _, .ok o) => (o.ws.filter fun x => x.dst == .d 3).map fun x => (x.dst, x.v % 2 ^ 32)
      | _ => []
    r 0 = [(.d 3, 0x80000000)] ∧ r 2 = [(.d 3, 0x7FFFFFFF)] ∧ r 1 = [(.d 3, 0x7FFFFFFE)] ∧ r 6 = [(.d 3, 0x7FFFFFFE)] := by decide +kernel

/-- The CRC of POLY 3 over the nine bytes of "123456789" is 0x31C3, the check value of the polynomial 0x1021 from 0 (R320). -/
theorem test_crc16 : crcBits 3 ("123456789".toList.flatMap fun c => bitsOf 8 c.toNat) = 0x31C3 := by decide +kernel

/-- spec/13, steering TB0: the increment 0x1_AAAA_B043 is taken; −600 ns within JUMP_LIMIT becomes the slew; 2,500 ns is refused. -/
theorem test_steering :
    let rs := [(Reg.TB_CFG 0, setF 0 Fld.TB_CFG_JUMP_LIMIT 1000)]
    after (.incrHiWrite .pf 0 1) ((tb_ 0 0 0 rs).setTb 0 fun b => { b with lo := some 0xAAAAB043 }) (fun t => (t.tbOf 0).next) none =
      some (0x1AAAAB043, 2) ∧
    after (.adjust .pf 0) (tb_ 0 0 0 ((Reg.TB_ADJ_NS 0, 0xFFFFFDA8) :: rs)) (fun t => (t.tbOf 0).rem) 0 = -600 * 2 ^ 32 ∧
    after (.adjust .pf 0) (tb_ 0 0 0 ((Reg.TB_ADJ_NS 0, 0x9C4) :: rs)) (fun t =>
      ((t.tbOf 0).rem, t.gf (Reg.TB_STAT 0) Fld.TB_STAT_LAST_STATUS, t.rbit Reg.TB_FLAG 0)) (1, 0, false) = (0, St.jumpRefused, true) := by
  decide +kernel

/-- spec/15: TC.CNT_SEL0 of logical core 8 is at device address 0x0020_0018_3000. -/
theorem test_counter_address : ctlAddr + Reg.CNT_SEL (0x10 + 8) 0 = 0x2000183000 := by decide

/-- R628: IDCODE is 0x1096_05AB, least significant byte first. -/
theorem test_idcode : after .idcode State.reset (fun t => t.answer) [] = [0xAB, 0x05, 0x96, 0x10] := by decide

/-- A page program ANDs its bytes into the flash (log 32). -/
theorem test_flash_program :
    let s : State := { up with
      flash := [(0x10, 0x0F)]
      flashOp := some (.program 0x10 [0x3C, 0x3C]) }
    after (.flashOpDone true) s (fun t => (t.fl 0x10, t.fl 0x11)) (0, 0) = (0x0C, 0x3C) := by decide

end Sys2Proof.Tests
end

section
/-! PROOFS. Every command completes or is a word of another row, and every step keeps the tables canonical. -/
namespace Sys2Proof.Machine
open Sys2Proof

/-! ### The fields of a command word, as the model reads them and as well-formedness names them -/

theorem cOp_eq : cOp = CmdWord.op :=
  funext fun w => Nat.mod_eq_of_lt (Nat.div_lt_of_lt_mul w.isLt)

theorem not_ibAssigned (op : Nat) : (!ibAssigned op) = decide (0x12 < op) := by
  simp only [ibAssigned, ← decide_not, Nat.not_le]

theorem ibFn_two_or_three (w : Word) : (ib w 25 24 == 2 || ib w 25 24 == 3) = decide (1 < Word.ibFn w) := by
  have hfn : ib w 25 24 = Word.ibFn w := rfl
  have hlt : Word.ibFn w < 4 := Nat.mod_lt _ (by decide)
  rw [hfn, Bool.eq_iff_iff]
  simp only [Bool.or_eq_true, beq_iff_eq, decide_eq_true_eq]
  omega

/-! ### What a command leaves -/

/-- A row that never meets a word of another row. -/
theorem Fine.always {s₀ : State} {p : Prop} {o : Host.Outcome State Fault Refusal} (h : Fine s₀ False o) : Fine s₀ p o :=
  h.imp_left fun hf => hf.1.elim

/-- A row met by words of its own opcode: its guard is the row's well-formedness. -/
theorem Fine.row {s₀ : State} {b c : Bool} {o : Host.Outcome State Fault Refusal} (h : Fine s₀ (b = false) o)
    (hb : b = c := by rw [cOp_eq]; rfl) : Fine s₀ (c = false) o :=
  hb ▸ h

/-- Each command answers a next state that keeps the queue and the canonical form, or the fault of a word of another row; the
latter only for an ill-formed command. -/
theorem exec_fine (i : Instr) (s : State) : Fine s (i.wf = false) (exec i s) := by
  have k := Kept.refl s
  cases i with
  | registerWrite => exact (execRegisterWrite_kept _ _ _ _ k).always
  | nop => exact (execNop_kept _ _ _ k).row
  | wait => exact (execWait_kept _ _ _ k).row
  | waitSatisfied => exact (execWaitSatisfied_kept _ _ _ k).always
  | signal => exact (execSignal_kept _ _ _ k).row
  | arm => exact (execArm_kept _ _ _ k).row
  | fence => exact (execFence_kept _ _ _ k).row
  | endStream => exact (execEndStream_kept _ _ _ k).row
  | mark => exact (execMark_kept _ _ _ k).row
  | mov => exact (execMov_kept _ _ _ k).row
  | moveStart => exact (execMoveStart_kept _ _ _ k).always
  | rot => exact (execRot_kept _ _ _ k).row
  | pagePut => exact (execPagePut_kept _ _ _ k).row
  | pageGet => exact (execPageGet_kept _ _ _ k).row
  | pass => exact (execPass_kept _ _ _ k).row
  | tile => exact (execTile_kept _ _ _ k).row
  | lds => exact (execLds_kept _ _ _ k).row
  | drain => exact (execDrain_kept _ _ _ k).row
  | drainBufferFreed => exact (execDrainBufferFreed_kept _ _ _ _ k).always
  | vld => exact (execVld_kept _ _ _ k).row
  | vst => exact (execVst_kept _ _ _ k).row
  | vbin => exact (execVbin_kept _ _ _ k).row
  | vun => exact (execVun_kept _ _ _ k).row
  | vfma => exact (execVfma_kept _ _ _ k).row
  | vcvt => exact (execVcvt_kept _ _ _ k).row
  | vfree => exact (execVfree_kept _ _ _ k).row
  | red => exact (execRed_kept _ _ _ k).row
  | topk => exact (execTopk_kept _ _ _ k).row
  | smx1 => exact (execSmx1_kept _ _ _ k).row
  | smx2 => exact (execSmx2_kept _ _ _ k).row
  | sfn => exact (execSfn_kept _ _ _ k).row
  | tload => exact (execTload_kept _ _ _ k).row
  | tswap => exact (execTswap_kept _ _ _ k).row
  | qnt => exact (execQnt_kept _ _ _ k).row
  | dequant => exact (execDequant_kept _ _ _ k).row
  | attach => exact (execAttach_kept _ _ _ k).row
  | detach => exact (execDetach_kept _ _ _ k).row
  | recordMax => exact (execRecordMax_kept _ _ _ k).row
  | qmaxClear => exact (execQmaxClear_kept _ _ _ k).row
  | oside => exact (execOside_kept _ _ _ k).row
  | att => exact (execAtt_kept _ _ _ k).row
  | poolCreate => exact (execPoolCreate_kept _ _ _ k).row
  | join => exact (execJoin_kept _ _ _ k).row
  | leave => exact (execLeave_kept _ _ _ k).row
  | kvappStep => exact (execKvappStep_kept _ _ _ k).row
  | spillComplete => exact (execSpillComplete_kept _ _ _ k).always
  | fetchComplete => exact (execFetchComplete_kept _ _ _ k).always
  | append => exact (execAppend_kept _ _ _ k).row
  | fork => exact (execFork_kept _ _ _ k).row
  | pinBlocks => exact (execPinBlocks_kept _ _ _ k).row
  | unpinBlocks => exact (execUnpinBlocks_kept _ _ _ k).row
  | grow => exact (execGrow_kept _ _ _ k).row
  | close => exact (execClose_kept _ _ _ k).row
  | lookup => exact (execLookup_kept _ _ _ k).row
  | publish => exact (execPublish_kept _ _ _ k).row
  | pfxFlush => exact (execPfxFlush_kept _ _ _ k).row
  | cmul => exact (execCmul_kept _ _ _ k).row
  | cinv => exact (execCinv_kept _ _ _ k).row
  | llrpk => exact (execLlrpk_kept _ _ _ k).row
  | brk => exact (execBrk_kept _ _ _ k).row
  | commandCompletion => exact (execCommandCompletion_kept _ _ _ _ k).always
  | cringHeadWrite => exact (execCringHeadWrite_kept _ _ _ _ k).always
  | sliceEnd => exact (execSliceEnd_kept _ _ _ _ k).always
  | round => exact (execRound_kept _ k).always
  | switchLdg => exact (execSwitchLdg_kept _ _ _ _ k).always
  | refill => exact (execRefill_kept _ k).always
  | tierRefresh ch => exact (execTierRefresh_kept ch k).always
  | tierScrub => exact (execTierScrub_kept _ _ k).always
  | sramScrub => exact (execSramScrub_kept _ _ _ k).always
  | fhUplaneRx => exact (execFhUplaneRx_kept _ _ _ _ _ _ _ _ _ _ _ _ _ k).always
  | arrMaxExpiry => exact (execArrMaxExpiry_kept _ _ _ _ k).always
  | slotOrder => exact (execSlotOrder_kept _ k).always
  | uplinkStageEnd => exact (execUplinkStageEnd_kept _ _ _ _ _ _ _ _ k).always
  | downlinkStageEnd => exact (execDownlinkStageEnd_kept _ _ _ _ _ k).always
  | cplaneSend => exact (execCplaneSend_kept _ _ _ _ k).always
  | dlSymbolSend => exact (execDlSymbolSend_kept _ _ _ k).always
  | deadline => exact (execDeadline_kept _ _ _ k).always
  | reacq => exact (execReacq_kept _ _ k).always
  | tblLoad => exact (execTblLoad_kept _ _ k).always
  | tblLoadDone => exact (execTblLoadDone_kept k).always
  | codeBlockDecode => exact (execCodeBlockDecode_kept _ k).always
  | codeBlockDone => exact (execCodeBlockDone_kept _ k).always
  | codeBlockEncode => exact (execCodeBlockEncode_kept _ k).always
  | crcCmd => exact (execCrcCmd_kept _ _ _ _ k).always
  | crcDone => exact (execCrcDone_kept _ k).always
  | ibcNop => exact (execIbcNop_kept _ _ _ k).row (by rw [not_ibAssigned]; rfl)
  | ftap => exact execFtap_kept _ _ _ k
  | macIns => exact execMacIns_kept _ _ _ k
  | cmac => exact execCmac_kept _ _ _ k
  | alu => exact execAlu_kept _ _ _ k
  | alui => exact execAlui_kept _ _ _ k
  | ldi => exact execLdi_kept _ _ _ k
  | acop => exact execAcop_kept _ _ _ k
  | mv => exact execMv_kept _ _ _ k
  | ldst => exact execLdst_kept _ _ _ k
  | loopIns => exact execLoopIns_kept _ _ _ k
  | repIns => exact execRepIns_kept _ _ _ k
  | br => exact execBr_kept _ _ _ k
  | call => exact execCall_kept _ _ _ k
  | retIns => exact execRetIns_kept _ _ _ k
  | reti => exact execReti_kept _ _ _ k
  | ei => exact execEi_kept _ _ _ k
  | di => exact execDi_kept _ _ _ k
  | idleIbc => exact execIdleIbc_kept _ _ _ k
  | stopIbc => exact execStopIbc_kept _ _ _ k
  | trapIbc => exact execTrapIbc_kept _ _ _ k
  | ibcBrk => exact execIbcBrk_kept _ _ _ k
  | blkend => exact execBlkend_kept _ _ _ k
  | blkclr => exact execBlkclr_kept _ _ _ k
  | chkpt n w mv =>
    exact (execChkpt_kept n w mv k).row (congrArg (Word.ibOp w == 0x0F && ·) (ibFn_two_or_three w))
  | sig => exact execSig_kept _ _ _ k
  | waits => exact execWaits_kept _ _ _ k
  | waitsSatisfied => exact (execWaitsSatisfied_kept _ k).always
  | syncArm => exact execSyncArm_kept _ _ _ k
  | xfer => exact execXfer_kept _ _ _ k
  | xferDone => exact (execXferDone_kept _ k).always
  | creg => exact execCreg_kept _ _ _ k
  | cregReadLand => exact (execCregReadLand_kept _ k).always
  | interruptIbc => exact (execInterruptIbc_kept _ k).always
  | checkpoint => exact (execCheckpoint_kept _ k).always
  | ibcRun => exact (execIbcRun_kept _ _ k).always
  | ibcRunStop => exact (execIbcRunStop_kept _ _ k).always
  | irqSet => exact (execIrqSet_kept _ _ _ k).always
  | mbox => exact (execMbox_kept _ _ _ k).always
  | stTail => exact (execStTail_kept _ _ _ k).always
  | frameTake => exact (execFrameTake_kept _ k).always
  | frameReady => exact (execFrameReady_kept _ k).always
  | takeBatch => exact (execTakeBatch_kept _ _ _ k).always
  | bqRelease => exact (execBqRelease_kept _ _ _ k).always
  | waybill => exact (execWaybill_kept _ k).always
  | dispatch => exact (execDispatch_kept _ k).always
  | waybillEnd => exact (execWaybillEnd_kept _ k).always
  | limitExpiry => exact (execLimitExpiry_kept _ k).always
  | cancel => exact (execCancel_kept _ _ k).always
  | ldgReset => exact (execLdgReset_kept _ _ k).always
  | beginStg => exact (execBeginStg_kept _ k).always
  | checkStg => exact (execCheckStg_kept _ k).always
  | commitStg => exact (execCommitStg_kept _ k).always
  | commitInstant => exact (execCommitInstant_kept k).always
  | abandonStg => exact (execAbandonStg_kept _ k).always
  | autoAbandon => exact (execAutoAbandon_kept k).always
  | resourceRelease => exact (execResourceRelease_kept _ k).always
  | yieldLimitExpiry => exact (execYieldLimitExpiry_kept _ k).always
  | nowFracRead => exact (execNowFracRead_kept _ _ k).always
  | incrLoWrite => exact (execIncrLoWrite_kept _ _ _ k).always
  | incrHiWrite => exact (execIncrHiWrite_kept _ _ _ k).always
  | adjust => exact (execAdjust_kept _ _ k).always
  | setTb => exact (execSetTb_kept _ _ k).always
  | armOvr => exact (execArmOvr_kept _ _ k).always
  | overrideExpiry => exact (execOverrideExpiry_kept _ k).always
  | slewComplete => exact (execSlewComplete_kept _ k).always
  | cmpArm => exact (execCmpArm_kept _ _ k).always
  | cmpDisarm => exact (execCmpDisarm_kept _ _ k).always
  | cmpFire => exact (execCmpFire_kept _ k).always
  | trigPulseEnd => exact (execTrigPulseEnd_kept _ k).always
  | captEdge => exact (execCaptEdge_kept _ _ k).always
  | popCapt => exact (execPopCapt_kept _ _ k).always
  | xcap => exact (execXcap_kept _ k).always
  | ptpRx => exact (execPtpRx_kept _ _ k).always
  | ptpTx => exact (execPtpTx_kept _ k).always
  | blockLockLoss => exact (execBlockLockLoss_kept _ k).always
  | blockLockReturn => exact (execBlockLockReturn_kept _ k).always
  | syncSignal => exact (execSyncSignal_kept _ _ _ k).always
  | syncClear => exact (execSyncClear_kept _ _ k).always
  | syncArmedWrite => exact (execSyncArmedWrite_kept _ _ _ k).always
  | recover => exact (execRecover_kept _ _ _ k).always
  | watchdog => exact (execWatchdog_kept _ _ k).always
  | marginCheck => exact (execMarginCheck_kept _ _ k).always
  | lockstepMismatch => exact (execLockstepMismatch_kept _ k).always
  | fwupd => exact (execFwupd_kept _ _ _ _ k).always
  | fwupdPhaseEnd => exact (execFwupdPhaseEnd_kept _ k).always
  | wearRecordWrite => exact (execWearRecordWrite_kept _ k).always
  | snapshot => exact (execSnapshot_kept k).always
  | cntLoRead => exact (execCntLoRead_kept _ _ _ k).always
  | cntHiWrite => exact (execCntHiWrite_kept _ _ _ _ k).always
  | attest => exact (execAttest_kept _ k).always
  | idCert => exact (execIdCert_kept _ k).always
  | sessionOpen => exact (execSessionOpen_kept _ k).always
  | sessionClose => exact (execSessionClose_kept _ k).always
  | rotate => exact (execRotate_kept _ k).always
  | dbgChallenge => exact (execDbgChallenge_kept _ k).always
  | dbgResponse => exact (execDbgResponse_kept _ k).always
  | dbgRevoke => exact (execDbgRevoke_kept _ k).always
  | lcReq => exact (execLcReq_kept _ k).always
  | sweep => exact (execSweep_kept k).always
  | resetN => exact (execResetN_kept _ k).always
  | startUp => exact (execStartUp_kept _ k).always
  | tierTrained => exact (execTierTrained_kept _ k).always
  | supplyFault => exact (execSupplyFault_kept k).always
  | refclkLoss => exact (execRefclkLoss_kept k).always
  | refclkReturn => exact (execRefclkReturn_kept k).always
  | restart => exact (execRestart_kept _ k).always
  | confirm => exact (execConfirm_kept _ k).always
  | stbyEnter => exact (execStbyEnter_kept _ k).always
  | stbyExit => exact (execStbyExit_kept _ _ k).always
  | vsetUpdate => exact (execVsetUpdate_kept _ _ _ k).always
  | pmbAlert => exact (execPmbAlert_kept _ k).always
  | sensorRead => exact (execSensorRead_kept _ k).always
  | throttleUpdate => exact (execThrottleUpdate_kept k).always
  | domReqWrite => exact (execDomReqWrite_kept _ _ _ k).always
  | domainSwitched => exact (execDomainSwitched_kept _ k).always
  | flr => exact (execFlr_kept _ k).always
  | sqCfgWrite => exact (execSqCfgWrite_kept _ _ _ k).always
  | sqTailWrite => exact (execSqTailWrite_kept _ _ _ k).always
  | slotOrderEntry => exact (execSlotOrderEntry_kept _ k).always
  | h2d => exact (execH2d_kept _ k).always
  | d2h => exact (execD2h_kept _ k).always
  | sqNop => exact (execSqNop_kept _ k).always
  | copyComplete => exact (execCopyComplete_kept _ _ _ k).always
  | bounceRecord => exact (execBounceRecord_kept _ k).always
  | cqHeadWrite => exact (execCqHeadWrite_kept _ _ _ k).always
  | completionWrite => exact (execCompletionWrite_kept _ k).always
  | msixModeration => exact (execMsixModeration_kept _ k).always
  | ptxTailWrite => exact (execPtxTailWrite_kept _ _ _ k).always
  | linkTrain => exact (execLinkTrain_kept _ _ _ _ _ _ _ k).always
  | linkTrainRetry => exact (execLinkTrainRetry_kept _ k).always
  | retrain => exact (execRetrain_kept _ _ k).always
  | dataFlitRx => exact (execDataFlitRx_kept _ _ _ _ _ _ k).always
  | controlFlitRx => exact (execControlFlitRx_kept _ _ _ _ _ _ k).always
  | ackTimeout => exact (execAckTimeout_kept _ k).always
  | linkRecordRx => exact (execLinkRecordRx_kept _ _ _ _ _ _ _ _ _ _ _ _ k).always
  | linkOpTimeout => exact (execLinkOpTimeout_kept _ _ k).always
  | ident => exact (execIdent_kept _ k).always
  | telemetry => exact (execTelemetry_kept _ k).always
  | regRead => exact (execRegRead_kept _ _ k).always
  | regWrite => exact (execRegWrite_kept _ _ _ k).always
  | flashRead => exact (execFlashRead_kept _ _ _ k).always
  | flashProgram => exact (execFlashProgram_kept _ _ _ k).always
  | flashErase => exact (execFlashErase_kept _ _ k).always
  | flashOpDone => exact (execFlashOpDone_kept _ k).always
  | flashStatus => exact (execFlashStatus_kept _ k).always
  | wake => exact (execWake_kept _ k).always
  | tapReset => exact (execTapReset_kept k).always
  | extest => exact (execExtest_kept _ k).always
  | samplePreload => exact (execSamplePreload_kept _ k).always
  | idcode => exact (execIdcode_kept k).always
  | clamp => exact (execClamp_kept k).always
  | highz => exact (execHighz_kept k).always
  | bypass => exact (execBypass_kept k).always
  | dbgaccRead => exact (execDbgaccRead_kept _ k).always
  | dbgaccWrite => exact (execDbgaccWrite_kept _ _ k).always
  | dbgaccReadNext => exact (execDbgaccReadNext_kept k).always
  | ibcHalt => exact (execIbcHalt_kept _ k).always
  | breakpoint => exact (execBreakpoint_kept _ k).always
  | watchpoint => exact (execWatchpoint_kept _ k).always
  | ibcStep => exact (execIbcStep_kept _ k).always
  | ibcResume => exact (execIbcResume_kept _ k).always
  | tcHalt => exact (execTcHalt_kept _ _ k).always
  | tcStep => exact (execTcStep_kept _ _ k).always
  | tcResume => exact (execTcResume_kept _ _ k).always
  | resetNLow => exact (execResetNLow_kept k).always
  | cntLoWrite => exact (execCntLoWrite_kept _ _ _ _ k).always
  | vreqWrite => exact (execVreqWrite_kept _ _ k).always
  | cycleCounterWrap => exact (execCycleCounterWrap_kept _ _ k).always
  | alertResponse => exact (execAlertResponse_kept k).always
  | configurationRequest => exact (execConfigurationRequest_kept k).always
  | controlProcessorHalt => exact (execControlProcessorHalt_kept _ k).always
  | controlProcessorStep => exact (execControlProcessorStep_kept _ k).always

/-- A well-formed command completes. -/
theorem exec_completes {i : Instr} (s : State) (hw : i.wf = true) : Completes i s := by
  rcases exec_fine i s with ⟨hill, -⟩ | ⟨t, ht, -⟩
  · exact absurd hill (by simp [hw])
  · exact ⟨t, ht⟩

/-- What a command completes to keeps the queue and the canonical form. -/
theorem kept_of_exec {i : Instr} {s t : State} (h : exec i s = .next t) : s.Kept t := by
  rcases exec_fine i s with ⟨-, hf⟩ | ⟨u, hu, hk⟩
  · simp [hf] at h
  · rw [hu] at h
    cases h
    exact hk

/-- The queue is no table: the canonical form does not see it. -/
theorem State.Canon.withPending {s : State} (c : s.Canon) (q : List Instr) : State.Canon { s with pending := q } :=
  ⟨c.regs, c.mem, c.host, c.flash, c.poison, c.tags⟩

/-- A step is a cycle of the clock or a command on the rest of the queue; both keep the canonical form. -/
theorem step_canon {s t : State} (c : s.Canon) (h : step s = .next t) : t.Canon := by
  unfold step at h
  split at h
  case h_1 =>
    cases h
    exact (State.tick_kept (Kept.refl s)).canon c
  case h_2 => exact (kept_of_exec h).canon (c.withPending _)

/-- Settles O3: the canonical form is checked entry by entry, the queue is the empty list. -/
theorem resetIsCanonical : Obligations.ResetIsCanonical := ⟨reset_canon, rfl⟩

/-- Settles O4: a step is a CTL cycle or a command, and each of the operations they are made of keeps the canonical form. -/
theorem stepKeepsCanon : Obligations.StepKeepsCanon := fun _ _ => step_canon

/-- Settles O6: only a word of another row faults, and a well-formed command carries none. -/
theorem wellFormedCommandsComplete : Obligations.WellFormedCommandsComplete := fun _ s => exec_completes s

end Sys2Proof.Machine
end

section
/-! PROOFS. The status of a request that breaks several checks (R12). -/
namespace Sys2Proof.Machine
open Sys2Proof

theorem any_broken_iff (checks : List (Bool × Nat)) (st : Nat) :
    (checks.any fun c => c.1 && c.2 == st) = true ↔ (true, st) ∈ checks := by
  simp

/-- A broken check is answered by a code of the order that is broken, no earlier one being so. -/
theorem pick_of_broken {checks : List (Bool × Nat)} (hc : ∀ c ∈ checks, c.2 ∈ St.order) (hb : ∃ c ∈ checks, c.1 = true) :
    ∃ before after : List Nat, St.order = before ++ pick checks :: after ∧ (true, pick checks) ∈ checks ∧
      ∀ st ∈ before, (true, st) ∉ checks := by
  unfold pick
  split
  case h_1 st hfind =>
    obtain ⟨hst, before, after, horder, hnone⟩ := List.find?_eq_some_iff_append.1 hfind
    refine ⟨before, after, horder, (any_broken_iff _ _).1 hst, fun b hb hmem => ?_⟩
    simpa [(any_broken_iff checks b).2 hmem] using hnone b hb
  case h_2 hfind =>
    obtain ⟨⟨b, st⟩, hmem, rfl⟩ := hb
    exact absurd ((any_broken_iff checks st).2 hmem) (List.find?_eq_none.1 hfind st (hc _ hmem))

theorem pick_eq_ok_iff {checks : List (Bool × Nat)} (hc : ∀ c ∈ checks, c.2 ∈ St.order) :
    pick checks = St.ok ↔ ∀ c ∈ checks, c.1 = false := by
  refine ⟨fun hok c hmem => Bool.eq_false_iff.2 fun hbroken => ?_, pick_ok checks⟩
  obtain ⟨before, after, horder, -⟩ := pick_of_broken hc ⟨c, hmem, hbroken⟩
  have hin : St.ok ∈ before ++ pick checks :: after := hok ▸ List.mem_append_right _ List.mem_cons_self
  exact absurd (horder ▸ hin : St.ok ∈ St.order) (by decide)

/-- Settles O7: the status is what the search through R12's order finds. -/
theorem requestStatusOrder : Obligations.RequestStatusOrder :=
  fun _ hc => ⟨rfl, pick_eq_ok_iff hc, pick_of_broken hc⟩

end Sys2Proof.Machine
end

section
/-! PROOFS. A write of a plain register after the first commit (R13, R19 to R22). -/
namespace Sys2Proof.Machine
open Sys2Proof

/-! ### The bits of a plain write -/

theorem getLsbD_mergeBits (old new : Word) (mask : Nat) {i : Nat} (hi : i < 32) :
    (mergeBits old new mask).getLsbD i = if mask.testBit i then new.getLsbD i else old.getLsbD i := by
  simp only [mergeBits, BitVec.getLsbD_or, BitVec.getLsbD_and, BitVec.getLsbD_not, BitVec.getLsbD_ofNat, hi]
  cases mask.testBit i <;> simp

theorem State.plainWrite_regsOnly (s : State) (off m : Nat) (v : Word) : s.RegsOnly (s.plainWrite off m v) := rfl

theorem State.rr_plainWrite_other (s : State) (off m : Nat) (v : Word) {b : Nat} (hb : b ≠ off) :
    (s.plainWrite off m v).rr b = s.rr b := by
  simp [State.plainWrite, State.rr_wr_other _ _ _ _ hb]

/-- Clearing by W1C comes after taking the value of RW. -/
theorem State.getLsbD_rr_plainWrite (s : State) (off m : Nat) (v : Word) {i : Nat} (hi : i < 32) :
    ((s.plainWrite off m v).rr off).getLsbD i =
      if (m &&& accMask off .w1c).testBit i && v.getLsbD i then false
      else if (m &&& accMask off .rw).testBit i then v.getLsbD i
      else (s.rr off).getLsbD i := by
  rw [← getLsbD_mergeBits _ _ _ hi]
  simp only [State.plainWrite, State.rr_wr_same, BitVec.getLsbD_and, BitVec.getLsbD_not, BitVec.getLsbD_ofNat, hi]
  cases (m &&& accMask off .w1c).testBit i <;> cases v.getLsbD i <;> simp

/-! ### What a write comes to -/

/-- The staging's state is in STG.STAT. -/
theorem State.stgSt_plainWrite (s : State) (off m : Nat) (v : Word) (h : off ≠ Reg.STG_STAT) :
    (s.plainWrite off m v).stgSt = s.stgSt := by
  simp only [State.stgSt, State.gf, State.rr_plainWrite_other s off m v h.symm]

/-- With no staging open and the window of R20 closed, a write of RWL fields is discarded. -/
theorem State.rwlWrite_closed {s : State} (who : Requester) (off m : Nat) (v : Word) (h0 : s.stgSt = 0) (hc : s.stg.closed = true) :
    s.rwlWrite who off m v = s := by
  simp [State.rwlWrite, h0, hc]

theorem State.genWrite_closed {s : State} (who : Requester) (off m : Nat) (v : Word) (h0 : s.stgSt = 0) (hc : s.stg.closed = true)
    (h : off ≠ Reg.STG_STAT) : s.genWrite who off m v = s.plainWrite off m v :=
  State.rwlWrite_closed who off m v ((s.stgSt_plainWrite off m v h).trans h0) hc

theorem plainUnitReg.ne_stgStat {off : Nat} (h : plainUnitReg off) : off ≠ Reg.STG_STAT := by
  rintro rfl
  exact absurd h.1 (by decide)

theorem State.unitWrite_plain (s : State) (who : Requester) {off : Nat} (m : Nat) (v : Word) (h : plainUnitReg off) :
    s.unitWrite who off m v = s.genWrite who off m v := by
  obtain ⟨-, -, -, hdlk, hair, hcrc, hbq, htail, htbl⟩ := h
  simp only [State.unitWrite, hdlk, hair, hcrc, hbq, htail, if_neg htbl]

theorem State.busWrite_plain {s : State} {who : Requester} {off : Nat} (m : Nat) (v : Word) (h : plainUnitReg off)
    (hr : s.reach who off true = true) : s.busWrite who off m v = s.genWrite who off m v := by
  have hunit := s.unitWrite_plain who m v h
  obtain ⟨hlo, hhi, hcnt, -⟩ := h
  have hole : s.regHole off = false := by
    simp [State.regHole, show blockOf off ≤ 0x41 by omega, show blockOf off ≠ 0x40 by omega, show blockOf off ≠ 0x41 by omega]
  have block : ∀ n, n < 9 → blockOf off ≠ n := fun n hn => by omega
  simp only [State.busWrite, hcnt, State.asWrite, hr, hole, if_true, Bool.false_eq_true, if_false, hunit,
    block 0 (by decide), block 1 (by decide), block 2 (by decide), block 3 (by decide), block 4 (by decide), block 5 (by decide),
    block 6 (by decide), block 7 (by decide), block 8 (by decide), Nat.ne_of_lt hhi, Nat.lt_succ_of_lt hhi]

theorem execRegisterWrite_plain {s : State} {who : Requester} {off : BitVec 24} (be : BitVec 4) (v : Word) (ha : off.toNat % 4 = 0)
    (h : plainUnitReg off.toNat) (hr : s.reach who off.toNat true = true) (h0 : s.stgSt = 0) (hc : s.stg.closed = true) :
    exec (.registerWrite who off be v) s = .next (s.plainWrite off.toNat (byteMask be) v) := by
  have haddr : off.toNat / 4 * 4 = off.toNat := by omega
  have hdbg : (blockOf off.toNat == 0xF) = false := beq_false_of_ne (Nat.ne_of_lt h.2.1)
  calc exec (.registerWrite who off be v) s
      = execRegisterWrite who off be v s := rfl
    _ = .next (s.busWrite who off.toNat (byteMask be) v) := by simp [execRegisterWrite, haddr, hdbg]
    _ = .next (s.plainWrite off.toNat (byteMask be) v) := by
        rw [State.busWrite_plain _ _ h hr, State.genWrite_closed _ _ _ _ h0 hc (plainUnitReg.ne_stgStat h)]

/-- Settles O8: such a write comes to plainWrite, which goes by the access types of the fields (R13, R19, R22). -/
theorem registerWriteByAccessType : Obligations.RegisterWriteByAccessType := fun _ off be v s ha h hr h0 hc =>
  ⟨s.plainWrite off.toNat (byteMask be) v, execRegisterWrite_plain be v ha h hr h0 hc, s.plainWrite_regsOnly _ _ _,
    fun _ => s.rr_plainWrite_other _ _ _, fun _ => s.getLsbD_rr_plainWrite _ _ _⟩

end Sys2Proof.Machine
end

section
/-! PROOFS. Accumulator rows: their sums, their clamps and their residues (R34, R52). -/
namespace Sys2Proof.Machine
open Sys2Proof

/-! ### Residues (R52) -/

theorem res3_lt (v : Int) : res3 v < 3 := by unfold res3; omega

theorem res3_congr {a b : Int} (h : a % 3 = b % 3) : res3 a = res3 b := congrArg Int.toNat h

theorem res3_emod (v : Int) : (res3 v : Int) % 3 = v % 3 := by unfold res3; omega

theorem dotInt_from (a : Int) (ps : List (Int × Int)) : ps.foldl (fun acc p => acc + p.1 * p.2) a = a + dotInt ps := by
  induction ps generalizing a with
  | nil => exact (Int.add_zero a).symm
  | cons p ps ih =>
    have hcons : dotInt (p :: ps) = 0 + p.1 * p.2 + dotInt ps := ih _
    rw [List.foldl_cons, ih, hcons, Int.zero_add, Int.add_assoc]

theorem dotInt_cons (p : Int × Int) (ps : List (Int × Int)) : dotInt (p :: ps) = p.1 * p.2 + dotInt ps := by
  rw [dotInt, List.foldl_cons, dotInt_from, Int.zero_add]

theorem predict_cons (r : Nat) (p : Int × Int) (ps : List (Int × Int)) :
    predict r (p :: ps) = predict (r + res3 p.1 * res3 p.2) ps := by
  simp only [predict, List.foldl_cons, Nat.mod_add_mod]

/-- The prediction from the operands is the residue of the sum they belong to. -/
theorem predict_eq (r : Nat) (ps : List (Int × Int)) : predict r ps = res3 (r + dotInt ps) := by
  induction ps generalizing r with
  | nil =>
    unfold predict dotInt res3
    simp only [List.foldl_nil]
    omega
  | cons p ps ih =>
    have hprod : (res3 p.1 : Int) * res3 p.2 % 3 = p.1 * p.2 % 3 := by
      rw [Int.mul_emod, res3_emod, res3_emod, ← Int.mul_emod]
    rw [predict_cons, ih, dotInt_cons, Int.natCast_add, Int.natCast_mul]
    exact res3_congr (by omega)

theorem AccCell.good_iff (c : AccCell) : c.good = true ↔ c.res.toNat = res3 c.v.toInt := beq_iff_eq

/-! ### The clamp to INT40 (R34) -/

theorem clamp40_inside {v : Int} (lo : -(2 : Int) ^ 39 ≤ v) (hi : v ≤ 2 ^ 39 - 1) : clamp40 v = (v, Ev.none) := by
  simp only [clamp40, clampTo, if_neg (Int.not_lt.2 lo), if_neg (Int.not_lt.2 hi), Bool.false_eq_true, if_false]

theorem clamp40_above {v : Int} (h : (2 : Int) ^ 39 - 1 < v) : clamp40 v = (2 ^ 39 - 1, Ev.accSat) := by
  simp only [clamp40, clampTo, if_neg (show ¬ v < -(2 : Int) ^ 39 by omega), if_pos h, if_true]

theorem clamp40_below {v : Int} (h : v < -(2 : Int) ^ 39) : clamp40 v = (-(2 : Int) ^ 39, Ev.accSat) := by
  simp only [clamp40, clampTo, if_pos h, if_true]

theorem clamp40_range (v : Int) : -(2 : Int) ^ 39 ≤ (clamp40 v).1 ∧ (clamp40 v).1 < 2 ^ 39 := by
  by_cases below : v < -(2 : Int) ^ 39
  · rw [clamp40_below below]; decide
  · by_cases above : (2 : Int) ^ 39 - 1 < v
    · rw [clamp40_above above]; decide
    · rw [clamp40_inside (Int.not_lt.1 below) (Int.not_lt.1 above)]
      exact ⟨Int.not_lt.1 below, by omega⟩

/-! ### One accumulation -/

/-- What a row stands for before a cycle's sum is added: 0 when it is fresh (R36). -/
def AccCell.prev (old : AccCell) (fresh : Bool) : Int := if fresh = true then 0 else old.v.toInt

theorem accInt_value (old : AccCell) (fresh : Bool) (ps : List (Int × Int)) :
    (accInt old fresh ps).1.v.toInt = (clamp40 (old.prev fresh + dotInt ps)).1 := by
  obtain ⟨lo, hi⟩ := clamp40_range (old.prev fresh + dotInt ps)
  exact BitVec.toInt_ofInt_eq_self (by decide) lo hi

/-- The residue a row of which the check passes goes into the prediction with. -/
theorem AccCell.res_emod_prev {old : AccCell} {fresh : Bool} (h : fresh = true ∨ old.good = true) :
    ((if fresh = true then 0 else old.res.toNat : Nat) : Int) % 3 = old.prev fresh % 3 := by
  cases fresh with
  | true => rfl
  | false =>
    have hgood : old.res.toNat = res3 old.v.toInt := old.good_iff.1 (by simpa using h)
    simpa [AccCell.prev, hgood] using res3_emod old.v.toInt

theorem predict_row {old : AccCell} {fresh : Bool} (h : fresh = true ∨ old.good = true) (ps : List (Int × Int)) :
    predict (if fresh = true then 0 else old.res.toNat) ps = res3 (old.prev fresh + dotInt ps) := by
  have hstart := AccCell.res_emod_prev h
  rw [predict_eq]
  exact res3_congr (by omega)

/-- The check of the prediction fails only where the check of the row's own residue does. -/
theorem accInt_events (old : AccCell) (fresh : Bool) (ps : List (Int × Int)) :
    (accInt old fresh ps).2 = (clamp40 (old.prev fresh + dotInt ps)).2 ||| checkEv (fresh || old.good) := by
  have hcheck : ((fresh || old.good) && predict (if fresh = true then 0 else old.res.toNat) ps == res3 (old.prev fresh + dotInt ps)) =
      (fresh || old.good) := by
    cases hg : fresh || old.good with
    | false => rfl
    | true => simp [predict_row (Bool.or_eq_true_iff.1 hg) ps]
  exact congrArg (fun ok => _ ||| checkEv ok) hcheck

/-- After a clamp the residue is derived from the row's bits, whatever the row read held. -/
theorem accInt_good {old : AccCell} {fresh : Bool} {ps : List (Int × Int)}
    (h : (fresh = true ∨ old.good = true) ∨ (clamp40 (old.prev fresh + dotInt ps)).1 ≠ old.prev fresh + dotInt ps) :
    (accInt old fresh ps).1.good = true := by
  rw [AccCell.good_iff, accInt_value]
  have hres : (accInt old fresh ps).1.res = BitVec.ofNat 2 (res3 (clamp40 (old.prev fresh + dotInt ps)).1) := by
    refine congrArg (BitVec.ofNat 2) ?_
    change (if (clamp40 (old.prev fresh + dotInt ps)).1 = old.prev fresh + dotInt ps then _ else _) = _
    split
    case isTrue hin => rw [hin, ← predict_row (h.resolve_right fun hne => hne hin) ps]
    case isFalse => rfl
  rw [hres, BitVec.toNat_ofNat]
  exact Nat.mod_eq_of_lt (Nat.lt_of_lt_of_le (res3_lt _) (by decide))

/-- A row as a previous value: the next sum is added to what it stands for. -/
theorem accInt_onto {c : AccCell} {v : Int} (hv : c.v.toInt = v) (hg : c.good = true) (qs : List (Int × Int))
    (lo : -(2 : Int) ^ 39 ≤ v + dotInt qs) (hi : v + dotInt qs ≤ 2 ^ 39 - 1) :
    (accInt c false qs).1.v.toInt = v + dotInt qs ∧ (accInt c false qs).2 = Ev.none := by
  have hprev : c.prev false = v := hv
  simp [accInt_value, accInt_events, hprev, clamp40_inside lo hi, hg, checkEv, Ev.none]

theorem State.arithFlags_accSat (s : State) (x : Ctx) :
    s.arithFlags x Ev.accSat = s.setFlag (Reg.TC_AFLAG x.c) 0 (some x.l) := by
  simp [State.arithFlags, State.setFlagIf, Ev.accSat, List.range_succ, Nat.testBit_succ]

/-- Settles O22: the row takes the clamp of the sum, and its residue is the one of its bits. -/
theorem accumulatorRowsSaturate : Obligations.AccumulatorRowsSaturate := by
  intro old fresh ps p g c bad
  have hv : c.1.v.toInt = (clamp40 (p + g)).1 := accInt_value old fresh ps
  have hev : c.2 = (clamp40 (p + g)).2 ||| bad := by
    refine (accInt_events old fresh ps).trans (congrArg _ ?_)
    simp only [checkEv, Bool.or_eq_true]
    rfl
  refine ⟨fun lo hi => ?_, fun above => ?_, fun below => ?_, fun hbad => ?_, fun qs above hq lo => ?_, fun qs below hq hi => ?_,
    fun s x => ?_⟩
  · rw [clamp40_inside lo hi] at hv hev
    exact ⟨hv, hev.trans (Nat.zero_or bad)⟩
  · rw [clamp40_above above] at hv hev
    exact ⟨hv, hev⟩
  · rw [clamp40_below below] at hv hev
    exact ⟨hv, hev⟩
  · exact accInt_good (.inl (Decidable.byContradiction fun hn => absurd ((if_neg hn).symm.trans hbad) (by decide)))
  · have htop : (clamp40 (p + g)).1 = 2 ^ 39 - 1 := congrArg Prod.fst (clamp40_above above)
    exact accInt_onto (hv.trans htop) (accInt_good (.inr fun e => Int.ne_of_lt above (htop.symm.trans e))) qs lo (by omega)
  · have hlow : (clamp40 (p + g)).1 = -(2 : Int) ^ 39 := congrArg Prod.fst (clamp40_below below)
    exact accInt_onto (hv.trans hlow) (accInt_good (.inr fun e => Int.ne_of_lt below (e.symm.trans hlow))) qs (by omega) hi
  · rw [State.arithFlags_accSat]
    exact State.rbit_setFlag _ _ _ _ (by decide) (by unfold Reg.TC_AFLAG; omega)

end Sys2Proof.Machine
end

section
/-! PROOFS. The codes of FP4 E2M1 (R29). -/
namespace Sys2Proof.Machine
open Sys2Proof

/-- The mantissa of a positive code: the codes below 2, zero and the subnormal, have no hidden bit. -/
def fp4Mant (x : Nat) : Nat := if x < 2 then x else 2 + x % 2
/-- The exponent of the mantissa's last bit. -/
def fp4Exp (x : Nat) : Int := if x < 2 then -1 else (x / 2 : Nat) - 2

theorem decRaw_fp4 : ∀ x < 8, decRaw 13 x = .fin false (fp4Mant x) (fp4Exp x) := by decide

/-- FP4 is not among the flushed formats (R44). -/
theorem decIn_fp4 (x : Nat) : decIn 13 x = (decRaw 13 x, Ev.none) := rfl

/-- Settles O23: the values of the mantissas and exponents are those of R29, and each rounds to itself. -/
theorem fp4CodesHaveTheirValues : Obligations.Fp4CodesHaveTheirValues := by
  have table : ∀ c ∈ [(0, 0), (1, 1), (2, 2), (3, 3), (4, 4), (5, 6), (6, 8), (7, 12)],
      c.1 < 8 ∧ 0 ≤ fp4Exp c.1 + 1 ∧ fp4Mant c.1 * 2 ^ (fp4Exp c.1 + 1).toNat = c.2 := by decide
  have back : ∀ x < 8, convTo 13 (decRaw 13 x) = (x, Ev.none) := by decide
  intro x v hxv
  obtain ⟨hx, hexp, hvalue⟩ := table (x, v) hxv
  exact ⟨fp4Mant x, fp4Exp x, decRaw_fp4 x hx, hexp, hvalue, decIn_fp4 x, back x hx⟩

end Sys2Proof.Machine
end

section
/-! PROOFS. The retry rule (R470, R473, R474) and the scrubs (R211, R219). -/
namespace Sys2Proof.Machine
open Sys2Proof

/-! ### Fields of a word -/

theorem getF_lt (w : Word) (f : Fld) : getF w f < 2 ^ (f.hi - f.lo + 1) := Nat.mod_lt _ (Nat.two_pow_pos _)

theorem getF_setF (w : Word) {f : Fld} (v : Nat) (hf : f.lo ≤ f.hi ∧ f.hi < 32) :
    getF (setF w f v) f = v % 2 ^ (f.hi - f.lo + 1) := by
  obtain ⟨lo, hi⟩ := hf
  have hword : (2 : Nat) ^ 32 = 2 ^ f.lo * 2 ^ (32 - f.lo) := by rw [← Nat.pow_add, Nat.add_sub_cancel' (by omega)]
  have hdvd : 2 ^ (f.hi - f.lo + 1) ∣ 2 ^ (32 - f.lo) := Nat.pow_dvd_pow 2 (by omega)
  unfold setF getF
  rw [BitVec.toNat_ofNat, hword, Nat.mod_mul_right_div_self, Nat.mod_mod_of_dvd _ hdvd]
  generalize 2 ^ (f.hi - f.lo + 1) = field
  have hunit : 0 < 2 ^ f.lo := Nat.two_pow_pos _
  generalize 2 ^ f.lo = unit at hunit
  have low := Nat.div_add_mod w.toNat unit
  have high := Nat.div_add_mod (w.toNat / unit) field
  have hr : w.toNat % unit < unit := Nat.mod_lt _ hunit
  generalize w.toNat / unit / field = e at high
  generalize w.toNat / unit % field = old at *
  have hnew : w.toNat - old * unit + v % field * unit = w.toNat % unit + unit * (v % field + field * e) := by
    rw [← high, Nat.mul_add, Nat.mul_comm unit old] at low
    rw [Nat.mul_add, Nat.mul_comm unit (v % field)]
    omega
  rw [hnew, Nat.add_mul_div_left _ _ hunit, Nat.div_eq_of_lt hr, Nat.zero_add, Nat.add_mul_mod_self_left, Nat.mod_mod]

/-! ### What a fault leaves -/

/-- Registers that show faults and steer nothing: flags, their counts, event counters, REL.LAST (R483). -/
def relShows (a : Nat) : Bool := noteReg a || a == Reg.REL_LAST || a == Reg.REL_LAST_MS

/-- The block's own counts, spares and maps lie between. -/
theorem relShows_rel {a : Nat} (lo : 0x70100 ≤ a) (hi : a < 0x73000) : relShows a = false := by
  have hblk : a / 65536 = 7 := by omega
  simp only [relShows, noteReg, isFlagReg, blockOf, hblk, Reg.REL_LAST, Reg.REL_LAST_MS]
  simp; omega

/-- Memory, the retired units and every register stay, but those of w and those that show faults; REL.FLAG loses no bit. -/
structure State.LeavesBut (w : List Nat) (s t : State) : Prop where
  mem : t.mem = s.mem
  retired : t.retired = s.retired
  regs : ∀ a, relShows a = false → a ∉ w → t.rr a = s.rr a
  flags : ∀ b, s.rbit Reg.REL_FLAG b = true → t.rbit Reg.REL_FLAG b = true

theorem wbit_or_left {w : Word} {i : Nat} (v : Word) (h : wbit w i = true) : wbit (w ||| v) i = true := by
  unfold wbit at *
  rw [BitVec.toNat_or, Nat.testBit_or, h, Bool.true_or]

/-- A flag that is set leaves the bits of REL.FLAG set. -/
theorem State.relFlag_setFlag {s : State} {b : Nat} (a bit : Nat) (l : Option Nat) (h4 : a + 4 ≠ Reg.REL_FLAG)
    (h : s.rbit Reg.REL_FLAG b = true) : (s.setFlag a bit l).rbit Reg.REL_FLAG b = true := by
  unfold State.rbit at *
  rw [State.rr_setFlag _ _ _ _ _ (by decide), if_neg h4.symm]
  split
  case isTrue ha => exact wbit_or_left _ (ha ▸ h)
  case isFalse => exact h

theorem State.rbit_wr_other {s : State} {a b i : Nat} (v : Word) (h : b ≠ a) : (s.wr a v).rbit b i = s.rbit b i := by
  rw [State.rbit, State.rr_wr_other _ _ _ _ h, State.rbit]

namespace State.LeavesBut
variable {w : List Nat} {s t u : State}

theorem refl (s : State) : s.LeavesBut w s := ⟨rfl, rfl, fun _ _ _ => rfl, fun _ => id⟩

theorem trans (h : s.LeavesBut w t) (k : t.LeavesBut w u) : s.LeavesBut w u :=
  ⟨k.mem.trans h.mem, k.retired.trans h.retired, fun a ha hw => (k.regs a ha hw).trans (h.regs a ha hw),
    fun b hb => k.flags b (h.flags b hb)⟩

/-- A change of other state. -/
theorem same (hr : t.regs = s.regs) (hm : t.mem = s.mem) (hq : t.retired = s.retired) : s.LeavesBut w t := by
  have hrr : ∀ a, t.rr a = s.rr a := fun a => by rw [State.rr, hr, State.rr]
  exact ⟨hm, hq, fun a _ _ => hrr a, fun b hb => by rwa [State.rbit, hrr]⟩

theorem ite {c : Prop} [Decidable c] (h : s.LeavesBut w t) (k : s.LeavesBut w u) : s.LeavesBut w (if c then t else u) := by
  split <;> assumption

theorem mono {w' : List Nat} (h : s.LeavesBut w t) (hw : w ⊆ w') : s.LeavesBut w' t :=
  ⟨h.mem, h.retired, fun a ha hn => h.regs a ha fun hm => hn (hw hm), h.flags⟩

theorem wr {a : Nat} (v : Word) (ha : a ∈ w) (hf : a ≠ Reg.REL_FLAG) : s.LeavesBut w (s.wr a v) :=
  ⟨rfl, rfl, fun _ _ hb => State.rr_wr_other _ _ _ _ fun e => hb (e ▸ ha), fun _ h => (State.rbit_wr_other v hf.symm).trans h⟩

theorem sf {a : Nat} (f : Fld) (v : Nat) (ha : a ∈ w) (hf : a ≠ Reg.REL_FLAG) : s.LeavesBut w (s.sf a f v) := wr _ ha hf

theorem setFlag {a : Nat} (bit : Nat) (l : Option Nat) (h : noteReg a = true) (h4 : noteReg (a + 4) = true)
    (hf : a + 4 ≠ Reg.REL_FLAG) : s.LeavesBut w (s.setFlag a bit l) := by
  have notes := s.setFlag_notes a bit l h h4
  refine ⟨by rw [notes.rest], by rw [notes.rest], fun b hb _ => notes.regs b ?_, fun b => s.relFlag_setFlag a bit l hf⟩
  simp only [relShows, Bool.or_eq_false_iff] at hb
  exact hb.1.1

theorem relFlag (bit : Nat) (l : Option Nat) : s.LeavesBut w (s.setFlag Reg.REL_FLAG bit l) :=
  setFlag bit l (by decide) (by decide) (by decide)

theorem gf (h : s.LeavesBut w t) {a : Nat} (f : Fld) (ha : relShows a = false) (hw : a ∉ w) : t.gf a f = s.gf a f := by
  rw [State.gf, h.regs a ha hw, State.gf]

theorem relLast (cls mech outc unit : Nat) (l : Option Nat) : s.LeavesBut w (s.relLast cls mech outc unit l) := by
  have other : ∀ b, b ≠ Reg.REL_LAST → b ≠ Reg.REL_LAST_MS → (s.relLast cls mech outc unit l).rr b = s.rr b := fun b h1 h2 =>
    (State.rr_wr_other _ _ _ _ h2).trans (State.rr_wr_other _ _ _ _ h1)
  refine ⟨rfl, rfl, fun b hb _ => ?_, fun b hb => ?_⟩
  · simp only [relShows, Bool.or_eq_false_iff, beq_eq_false_iff_ne] at hb
    exact other b hb.1.2 hb.2
  · rwa [State.rbit, other _ (by decide) (by decide)]

theorem relFault (cls mech outc unit spare : Nat) (l : Option Nat) : s.LeavesBut w (s.relFault cls mech outc unit spare l) :=
  (relLast cls mech outc unit l).trans (same rfl rfl rfl)

theorem noSpare (cls mech unit : Nat) (l : Option Nat) : s.LeavesBut w (s.noSpare cls mech unit l) :=
  (relFlag 2 l).trans (relFault ..)

theorem laneCheck (c : Fin 32) : s.LeavesBut w (s.laneCheck c.val) := by
  have hnote : ∀ c : Fin 32, noteReg (Reg.TC_AFLAG c.val) = true ∧ noteReg (Reg.TC_AFLAG c.val + 4) = true := by decide
  exact (setFlag _ _ (hnote c).1 (hnote c).2 (by unfold Reg.TC_AFLAG Reg.REL_FLAG; omega)).trans (same rfl rfl rfl)

theorem replayFlag (n : Fin 16) (bit : Nat) (l : Option Nat) : s.LeavesBut w (s.setFlag (Reg.IBC_FLAG n.val) bit l) := by
  have hnote : ∀ n : Fin 16, noteReg (Reg.IBC_FLAG n.val) = true ∧ noteReg (Reg.IBC_FLAG n.val + 4) = true := by decide
  exact setFlag _ _ (hnote n).1 (hnote n).2 (by unfold Reg.IBC_FLAG Reg.REL_FLAG; omega)

theorem detected {r : RelUnit} (h : isMemUnit r = false) : s.LeavesBut w (s.detected r) := by
  cases r
  case lane c g =>
    exact ite (refl s) (laneCheck c)
  case iambel n => exact replayFlag n _ _
  case word | tier => cases h
  all_goals exact refl s

theorem recheck (r : RelUnit) : s.LeavesBut w (s.recheck r) := by
  cases r
  case lane c g => exact laneCheck c
  all_goals exact refl s

theorem recovered (r : RelUnit) : s.LeavesBut w (s.recovered r) := by
  cases r
  case lane c g =>
    exact ite (same rfl rfl rfl) (refl s)
  all_goals exact refl s

theorem spend {cls : Nat} (low : Bool) (l : Option Nat) (ha : Reg.REL_SPARES cls ∈ w) : s.LeavesBut w (s.spend cls low l) := by
  have hwritten : s.LeavesBut w { s.sf (Reg.REL_SPARES cls) Fld.REL_SPARES_LEFT (s.left cls - 1) with wearDirty := true } :=
    (sf _ _ ha (by unfold Reg.REL_SPARES Reg.REL_FLAG; omega)).trans (same rfl rfl rfl)
  exact ite (hwritten.trans (relFlag 5 l)) hwritten

end State.LeavesBut


/-! ### Counts -/

/-- A count of the block has gone up by one with its flag. -/
structure State.Tallied (r bit : Nat) (s t : State) : Prop where
  leaves : s.LeavesBut [r] t
  count : t.rr r = s.rr r + 1
  flag : t.rbit Reg.REL_FLAG bit = true

namespace State.Tallied
variable {r bit : Nat} {s t u : State}

theorem after (hr : relShows r = false) (h : s.LeavesBut [] t) (k : t.Tallied r bit u) : s.Tallied r bit u :=
  ⟨(h.mono (List.nil_subset _)).trans k.leaves, k.count.trans (by rw [h.regs r hr List.not_mem_nil]), k.flag⟩

theorem before (hr : relShows r = false) (h : s.Tallied r bit t) (k : t.LeavesBut [] u) : s.Tallied r bit u :=
  ⟨h.leaves.trans (k.mono (List.nil_subset _)), (k.regs r hr List.not_mem_nil).trans h.count, k.flags bit h.flag⟩

/-- A count and its flag (R470). -/
theorem of_count (s : State) (hr : relShows r = false) (k : Nat) (hb : bit < 32) (l : Option Nat) :
    s.Tallied r bit (((s.wr r (s.rr r + 1)).wearCount k).setFlag Reg.REL_FLAG bit l) := by
  have hflag : r ≠ Reg.REL_FLAG := fun e => by rw [e] at hr; exact absurd hr (by decide)
  have hwritten : s.LeavesBut [r] (s.wr r (s.rr r + 1)) := .wr _ (List.mem_singleton_self r) hflag
  exact ⟨(hwritten.trans (.same (t := (s.wr r (s.rr r + 1)).wearCount k) rfl rfl rfl)).trans (.relFlag bit l),
    ((LeavesBut.relFlag (w := []) bit l).regs r hr List.not_mem_nil).trans (s.rr_wr_same r _), State.rbit_setFlag _ _ _ _ hb (by decide)⟩

end State.Tallied

theorem relCls_le (u : RelUnit) : relCls u ≤ 15 := by
  unfold relCls
  split <;> omega

theorem relShows_trans (u : RelUnit) : relShows (Reg.REL_TRANS (relCls u)) = false := by
  have := relCls_le u
  exact relShows_rel (by unfold Reg.REL_TRANS; omega) (by unfold Reg.REL_TRANS; omega)

theorem relShows_spares {cls : Nat} (h : cls ≤ 15) : relShows (Reg.REL_SPARES cls) = false :=
  relShows_rel (by unfold Reg.REL_SPARES; omega) (by unfold Reg.REL_SPARES; omega)

theorem relShows_lastCnt (u : RelUnit) : relShows (Reg.REL_LAST_CNT (relCls u)) = false := by
  have := relCls_le u
  exact relShows_rel (by unfold Reg.REL_LAST_CNT; omega) (by unfold Reg.REL_LAST_CNT; omega)

/-! ### A replay that passes -/

/-- For a unit that is no memory, the row is the rule. -/
theorem exec_recover {u : RelUnit} (m : Fin 7) (r : Replay) (s : State) (h : isMemUnit u = false) :
    exec (.recover u m r) s = .next (s.recover u m.val r) := by
  cases u
  case word | tier => cases h
  all_goals rfl

theorem State.replayOf_eq {s : State} {u : RelUnit} (r : Replay) (h : ∀ c g, u = .lane c g → s.laneBad c.val g.val = false) :
    s.replayOf u r = r := by
  cases u
  case lane c g => exact if_neg (Bool.eq_false_iff.1 (h c g rfl))
  all_goals rfl

theorem State.recover_passes {s : State} {u : RelUnit} (mech : Nat) (h : isMemUnit u = false)
    (hl : ∀ c g, u = .lane c g → s.laneBad c.val g.val = false) :
    s.recover u mech .passes =
      ((s.detected u).relTrans (relCls u) mech ((s.detected u).unitIx u) ((s.detected u).unitLdg u)).recovered u := by
  unfold State.recover
  rw [State.replayOf_eq _ hl]
  cases u
  case word | tier => cases h
  all_goals rfl

theorem State.recover_passes_tallied {s : State} {u : RelUnit} (mech : Nat) (h : isMemUnit u = false)
    (hl : ∀ c g, u = .lane c g → s.laneBad c.val g.val = false) :
    s.Tallied (Reg.REL_TRANS (relCls u)) 0 (s.recover u mech .passes) := by
  have hr := relShows_trans u
  rw [State.recover_passes mech h hl]
  exact (((Tallied.of_count _ hr _ (by decide) _).after hr (.detected h)).before hr (.relLast ..)).before hr (.recovered u)

/-! ### A lasting fault -/

/-- The state in which a spare is sought: the fault seen, seen again by the replay, and counted as lasting (R470). -/
def State.counted (s : State) (u : RelUnit) : State :=
  ((s.detected u).recheck u).relLasting (relCls u) ((s.detected u).unitLdg u)

theorem State.relLasting_tallied (s : State) (u : RelUnit) (l : Option Nat) :
    s.Tallied (Reg.REL_LAST_CNT (relCls u)) 1 (s.relLasting (relCls u) l) :=
  .of_count s (relShows_lastCnt u) (2 * relCls u + 1) (by decide) l

theorem State.counted_tallied (s : State) {u : RelUnit} (h : isMemUnit u = false) :
    s.Tallied (Reg.REL_LAST_CNT (relCls u)) 1 (s.counted u) := by
  have hseen : s.LeavesBut [] ((s.detected u).recheck u) := (LeavesBut.detected h).trans (.recheck u)
  exact .after (relShows_lastCnt u) hseen (State.relLasting_tallied _ u _)

theorem State.recover_lasting {s : State} {u : RelUnit} (mech : Nat) (h : isMemUnit u = false)
    (hl : ∀ c g, u = .lane c g → s.laneBad c.val g.val = false) :
    s.recover u mech (.lasting false) = ((s.counted u).remap u mech 1).1.recovered u := by
  unfold State.recover
  rw [State.replayOf_eq _ hl]
  cases u
  case word | tier => cases h
  all_goals simp only [Bool.and_false, Bool.false_eq_true, if_false]; rfl

/-! ### A spare lane group or bank of a core -/

/-- A field of the core's map names what its spare replaces (R473, R485). -/
def State.takeSpare (s : State) (c : Nat) (f : Fld) (v cls mech outc ix spare : Nat) (l : Option Nat) : State :=
  ((s.sf (Reg.REL_LG_MAP c) f v).spend cls true l).relFault cls mech outc ix spare l

theorem State.left_spend (s : State) {cls : Nat} (hc : cls ≤ 15) (low : Bool) (l : Option Nat) :
    (s.spend cls low l).left cls = s.left cls - 1 := by
  have hflag (u : State) : u.LeavesBut [] (u.setFlagIf low Reg.REL_FLAG 5 l) := .ite (.relFlag 5 l) (.refl u)
  have hlt : s.left cls < 2 ^ 16 := getF_lt _ _
  calc (s.spend cls low l).left cls
      = (s.sf (Reg.REL_SPARES cls) Fld.REL_SPARES_LEFT (s.left cls - 1)).left cls := (hflag _).gf _ (relShows_spares hc) List.not_mem_nil
    _ = (s.left cls - 1) % 2 ^ 16 := by
        rw [State.left, State.gf, State.rr_sf_same]
        exact getF_setF _ _ (by decide)
    _ = s.left cls - 1 := Nat.mod_eq_of_lt (by omega)

theorem State.takeSpare_leaves (s : State) (c : Nat) (f : Fld) (v cls mech outc ix spare : Nat) (l : Option Nat) :
    s.LeavesBut [Reg.REL_LG_MAP c, Reg.REL_SPARES cls] (s.takeSpare c f v cls mech outc ix spare l) :=
  ((LeavesBut.sf f v (by simp) (by unfold Reg.REL_LG_MAP Reg.REL_FLAG; omega)).trans (.spend true l (by simp))).trans (.relFault ..)

theorem relShows_lgMap {c : Nat} (hc : c < 32) : relShows (Reg.REL_LG_MAP c) = false :=
  relShows_rel (by unfold Reg.REL_LG_MAP; omega) (by unfold Reg.REL_LG_MAP; omega)

/-- No spares or counts of a class lie where the cores' maps do. -/
theorem lgMap_ne {c cls : Nat} (hc : cls ≤ 15) : Reg.REL_LG_MAP c ≠ Reg.REL_SPARES cls ∧ Reg.REL_LG_MAP c ≠ Reg.REL_LAST_CNT cls := by
  unfold Reg.REL_LG_MAP Reg.REL_SPARES Reg.REL_LAST_CNT
  omega

theorem State.takeSpare_gf (s : State) {c : Nat} (hc : c < 32) {f : Fld} (hf : f.lo ≤ f.hi ∧ f.hi < 32) {v cls : Nat}
    (hv : v < 2 ^ (f.hi - f.lo + 1)) (hcls : cls ≤ 15) (mech outc ix spare : Nat) (l : Option Nat) :
    (s.takeSpare c f v cls mech outc ix spare l).gf (Reg.REL_LG_MAP c) f = v := by
  have hafter (u : State) : u.LeavesBut [Reg.REL_SPARES cls] ((u.spend cls true l).relFault cls mech outc ix spare l) :=
    (LeavesBut.spend true l (List.mem_singleton_self _)).trans (.relFault ..)
  refine ((hafter _).gf f (relShows_lgMap hc) (by simpa using (lgMap_ne hcls).1)).trans ?_
  rw [State.gf, State.rr_sf_same, getF_setF _ _ hf, Nat.mod_eq_of_lt hv]

theorem State.takeSpare_left (s : State) (c : Nat) (f : Fld) (v : Nat) {cls : Nat} (hcls : cls ≤ 15) (mech outc ix spare : Nat)
    (l : Option Nat) : (s.takeSpare c f v cls mech outc ix spare l).left cls = s.left cls - 1 := by
  calc (s.takeSpare c f v cls mech outc ix spare l).left cls
      = ((s.sf (Reg.REL_LG_MAP c) f v).spend cls true l).left cls := (LeavesBut.relFault (w := []) ..).gf _ (relShows_spares hcls) List.not_mem_nil
    _ = (s.sf (Reg.REL_LG_MAP c) f v).left cls - 1 := State.left_spend _ hcls _ _
    _ = s.left cls - 1 := by rw [State.left, State.gf, State.sf, State.rr_wr_other _ _ _ _ (lgMap_ne hcls).1.symm, State.left, State.gf]

/-- What a lasting fault leads to where a spare of the core takes it: mapped out, one spare less, counted, LASTING set. -/
structure State.SpareTaken (c : Nat) (f : Fld) (v cls : Nat) (s t : State) : Prop where
  mem : t.mem = s.mem
  map : t.gf (Reg.REL_LG_MAP c) f = v
  left : t.left cls = s.left cls - 1
  count : t.rr (Reg.REL_LAST_CNT cls) = s.rr (Reg.REL_LAST_CNT cls) + 1
  flag : t.rbit Reg.REL_FLAG 1 = true

theorem State.spareTaken {s : State} {u : RelUnit} (h : isMemUnit u = false) {c : Nat} (hc : c < 32) {f : Fld}
    (hf : f.lo ≤ f.hi ∧ f.hi < 32) {v : Nat} (hv : v < 2 ^ (f.hi - f.lo + 1)) (mech outc ix spare : Nat) (l : Option Nat) :
    s.SpareTaken c f v (relCls u) (((s.counted u).takeSpare c f v (relCls u) mech outc ix spare l).recovered u) := by
  have hcls := relCls_le u
  have hcount := s.counted_tallied h
  have htake := (s.counted u).takeSpare_leaves c f v (relCls u) mech outc ix spare l
  have hrec {w : List Nat} := State.LeavesBut.recovered (w := w) (s := (s.counted u).takeSpare c f v (relCls u) mech outc ix spare l) u
  have hspares := relShows_spares hcls
  have hapart : Reg.REL_SPARES (relCls u) ≠ Reg.REL_LAST_CNT (relCls u) := by unfold Reg.REL_SPARES Reg.REL_LAST_CNT; omega
  refine ⟨((hrec (w := [])).mem.trans htake.mem).trans hcount.leaves.mem,
    ((hrec (w := [])).gf f (relShows_lgMap hc) List.not_mem_nil).trans ((s.counted u).takeSpare_gf hc hf hv hcls ..), ?_, ?_,
    (hrec (w := [])).flags 1 (htake.flags 1 hcount.flag)⟩
  · calc _ = ((s.counted u).takeSpare c f v (relCls u) mech outc ix spare l).left (relCls u) := (hrec (w := [])).gf _ hspares List.not_mem_nil
      _ = (s.counted u).left (relCls u) - 1 := (s.counted u).takeSpare_left c f v hcls ..
      _ = s.left (relCls u) - 1 := congrArg (· - 1) (hcount.leaves.gf _ hspares (mt List.mem_singleton.1 hapart))
  · refine ((htake.trans hrec).regs _ (relShows_lastCnt u) ?_).trans hcount.count
    simpa using ⟨(lgMap_ne hcls).2.symm, hapart.symm⟩

theorem State.remap_lane {s : State} {c : Fin 32} (g : Fin 8) (mech outc : Nat)
    (h : s.gf (Reg.REL_LG_MAP c.val) Fld.REL_LG_MAP_LG = 15) :
    (s.remap (.lane c g) mech outc).1 =
      s.takeSpare c.val Fld.REL_LG_MAP_LG g.val 0 mech outc (s.unitIx (.lane c g)) 8 (s.unitLdg (.lane c g)) :=
  congrArg Prod.fst (if_pos h)

theorem State.remap_bank {s : State} {c : Fin 32} (b : Fin 32) (mech outc : Nat)
    (h : s.gf (Reg.REL_LG_MAP c.val) Fld.REL_LG_MAP_BANK = 63) :
    (s.remap (.bank c b) mech outc).1 =
      s.takeSpare c.val Fld.REL_LG_MAP_BANK b.val 2 mech outc (s.unitIx (.bank c b)) 32 (s.unitLdg (.bank c b)) :=
  congrArg Prod.fst (if_pos h)

/-- Counting the fault leaves the cores' maps. -/
theorem State.counted_lgMap (s : State) {u : RelUnit} (h : isMemUnit u = false) {c : Nat} (hc : c < 32) (f : Fld) :
    (s.counted u).gf (Reg.REL_LG_MAP c) f = s.gf (Reg.REL_LG_MAP c) f :=
  (s.counted_tallied h).leaves.gf f (relShows_lgMap hc) (mt List.mem_singleton.1 (lgMap_ne (relCls_le u)).2)

theorem State.recover_lane_spare {s : State} {c : Fin 32} {g : Fin 8} (h : s.gf (Reg.REL_LG_MAP c.val) Fld.REL_LG_MAP_LG = 15)
    (hl : s.laneBad c.val g.val = false) (mech : Nat) :
    s.SpareTaken c.val Fld.REL_LG_MAP_LG g.val 0 (s.recover (.lane c g) mech (.lasting false)) := by
  have hbad : ∀ c' g', RelUnit.lane c g = .lane c' g' → s.laneBad c'.val g'.val = false := by rintro _ _ ⟨⟩; exact hl
  have hmap := (s.counted_lgMap (u := .lane c g) rfl c.isLt _).trans h
  rw [State.recover_lasting mech rfl hbad, State.remap_lane g mech 1 hmap]
  exact State.spareTaken (u := .lane c g) rfl c.isLt (by decide) (Nat.lt_of_lt_of_le g.isLt (by decide)) ..

theorem State.recover_bank_spare {s : State} {c : Fin 32} (h : s.gf (Reg.REL_LG_MAP c.val) Fld.REL_LG_MAP_BANK = 63) (b : Fin 32)
    (mech : Nat) : s.SpareTaken c.val Fld.REL_LG_MAP_BANK b.val 2 (s.recover (.bank c b) mech (.lasting false)) := by
  have hmap := (s.counted_lgMap (u := .bank c b) rfl c.isLt _).trans h
  rw [State.recover_lasting mech rfl (by simp), State.remap_bank b mech 1 hmap]
  exact State.spareTaken (u := .bank c b) rfl c.isLt (by decide) (Nat.lt_of_lt_of_le b.isLt (by decide)) ..

/-! ### The spare core of a wing -/

theorem relShows_coreMap {k : Nat} (hk : k < 8) : relShows (Reg.REL_CORE_MAP k) = false :=
  relShows_rel (by unfold Reg.REL_CORE_MAP; omega) (by unfold Reg.REL_CORE_MAP; omega)

theorem State.LeavesBut.physCore {w : List Nat} {s t : State} (h : s.LeavesBut w t) {c : Nat} (hc : c < 32)
    (hw : Reg.REL_CORE_MAP (c / 4) ∉ w) : t.physCore c = s.physCore c := by
  rw [State.physCore, h.gf _ (relShows_coreMap (by omega)) hw, State.physCore]

theorem State.LeavesBut.wingSpare {w : List Nat} {s t : State} (h : s.LeavesBut w t) {k : Nat} (hk : k < 8)
    (hw : Reg.REL_CORE_MAP k ∉ w) : t.wingSpare k = s.wingSpare k := by
  have hphys : ∀ i, i < 4 → t.physCore (4 * k + i) = s.physCore (4 * k + i) := fun i hi =>
    h.physCore (by omega) (by rwa [show (4 * k + i) / 4 = k by omega])
  simp only [State.wingSpare, h.retired, show List.range 4 = [0, 1, 2, 3] from rfl, List.any_cons, List.any_nil,
    hphys 0 (by decide), hphys 1 (by decide), hphys 2 (by decide), hphys 3 (by decide)]

theorem State.wingSpare_lt {s : State} {k q : Nat} (h : s.wingSpare k = some q) : q < 5 :=
  List.mem_range.1 (List.mem_of_find?_eq_some h)

theorem State.physCore_lt (s : State) {c : Nat} (hc : c < 32) : s.physCore c < 64 := by
  have hdigit : s.gf (Reg.REL_CORE_MAP (c / 4)) Fld.REL_CORE_MAP_PHYS / 8 ^ (c % 4) % 8 < 8 := Nat.mod_lt _ (by decide)
  unfold State.physCore
  omega

/-- The wing's map names another position for a logical core, which starts with its spares unused. -/
def State.mapCore (s : State) (c q : Nat) : State :=
  let r := Reg.REL_CORE_MAP (c / 4)
  let m := s.gf r Fld.REL_CORE_MAP_PHYS
  (s.sf r Fld.REL_CORE_MAP_PHYS (m - m / 8 ^ (c % 4) % 8 * 8 ^ (c % 4) + q * 8 ^ (c % 4))).wr (Reg.REL_LG_MAP c)
    (RegMap.reset (Reg.REL_LG_MAP c))

/-- The core mapped out is in no service any more. -/
def State.retireCore (s : State) (p : Nat) : State := { s with retired := s.retired ++ [(1, p)] }

theorem State.remapCore_eq (s : State) (c q : Nat) (l : Option Nat) :
    s.remapCore c q l = ((((s.mapCore c q).retireCore (s.physCore c)).coreDoms (s.physCore c) false).coreDoms
      (5 * (c / 4) + q) true).spend 1 true l := rfl

theorem State.mapCore_leaves (s : State) (c q : Nat) :
    s.LeavesBut [Reg.REL_CORE_MAP (c / 4), Reg.REL_LG_MAP c] (s.mapCore c q) :=
  (LeavesBut.sf _ _ (by simp) (by unfold Reg.REL_CORE_MAP Reg.REL_FLAG; omega)).trans
    (.wr _ (by simp) (by unfold Reg.REL_LG_MAP Reg.REL_FLAG; omega))

/-- One octal digit of a number of four replaced. -/
theorem octal_digit {m i q : Nat} (hi : i < 4) (hq : q < 8) :
    (m - m / 8 ^ i % 8 * 8 ^ i + q * 8 ^ i) % 2 ^ 12 / 8 ^ i % 8 = q := by
  match i, hi with
  | 0, _ | 1, _ | 2, _ | 3, _ => omega

theorem State.mapCore_physCore (s : State) {c q : Nat} (hc : c < 32) (hq : q < 8) :
    (s.mapCore c q).physCore c = 5 * (c / 4) + q := by
  have hapart : Reg.REL_CORE_MAP (c / 4) ≠ Reg.REL_LG_MAP c := by unfold Reg.REL_CORE_MAP Reg.REL_LG_MAP; omega
  rw [State.physCore, State.gf, State.mapCore, State.rr_wr_other _ _ _ _ hapart, State.rr_sf_same, getF_setF _ _ (by decide)]
  exact congrArg _ (octal_digit (Nat.mod_lt _ (by decide)) hq)

/-- The registers that say which domains of the cores are on (R561). -/
def domRegs : List Nat := (List.range 5).map Reg.PWR_DOM_STAT

/-- The power block lies below this one. -/
theorem domRegs_lt : ∀ a ∈ domRegs, a < Reg.REL_FLAG := by decide

theorem State.coreDoms_leaves (s : State) {p : Nat} (hp : p < 64) (on : Bool) :
    s.LeavesBut domRegs (s.coreDoms p on) := by
  have hdom : ∀ (u : State) i, i < 160 → u.LeavesBut domRegs (u.setDom i on) := fun u i hi => by
    have hmem : Reg.PWR_DOM_STAT (i / 32) ∈ domRegs := List.mem_map_of_mem (List.mem_range.2 (by omega))
    exact .wr _ hmem (Nat.ne_of_lt (domRegs_lt _ hmem))
  exact ((hdom _ _ (by omega)).trans (hdom _ _ (by omega))).trans (hdom _ _ (by omega))

/-- What a lasting core fault leads to where the wing has its spare. -/
structure State.CoreRemapped (c q : Nat) (s t : State) : Prop where
  mem : t.mem = s.mem
  phys : t.physCore c = 5 * (c / 4) + q
  left : t.left 1 = s.left 1 - 1
  retired : (1, s.physCore c) ∈ t.retired
  flags : ∀ b, s.rbit Reg.REL_FLAG b = true → t.rbit Reg.REL_FLAG b = true

theorem State.remapCore_remapped (s : State) {c q : Nat} (hc : c < 32) (hq : q < 5) (l : Option Nat) :
    s.CoreRemapped c q (s.remapCore c q l) := by
  have hmap := s.mapCore_leaves c q
  have hdoms : ((s.mapCore c q).retireCore (s.physCore c)).LeavesBut domRegs
      ((((s.mapCore c q).retireCore (s.physCore c)).coreDoms (s.physCore c) false).coreDoms (5 * (c / 4) + q) true) :=
    (State.coreDoms_leaves _ (s.physCore_lt hc) _).trans (State.coreDoms_leaves _ (by omega) _)
  generalize hd : (((s.mapCore c q).retireCore (s.physCore c)).coreDoms (s.physCore c) false).coreDoms (5 * (c / 4) + q) true = d at hdoms
  have hspend : d.LeavesBut [Reg.REL_SPARES 1] (d.spend 1 true l) := .spend true l (List.mem_singleton_self _)
  rw [State.remapCore_eq, hd]
  refine ⟨(hspend.mem.trans hdoms.mem).trans hmap.mem, ?_, ?_, ?_, fun b hb => hspend.flags b (hdoms.flags b (hmap.flags b hb))⟩
  · have hspare : Reg.REL_CORE_MAP (c / 4) ∉ ([Reg.REL_SPARES 1] : List Nat) := by
      simp only [List.mem_singleton, Reg.REL_CORE_MAP, Reg.REL_SPARES]; omega
    have hpower : Reg.REL_CORE_MAP (c / 4) ∉ domRegs := fun hmem =>
      Nat.not_lt.2 (by unfold Reg.REL_CORE_MAP Reg.REL_FLAG; omega) (domRegs_lt _ hmem)
    calc (d.spend 1 true l).physCore c
        = ((s.mapCore c q).retireCore (s.physCore c)).physCore c := (hspend.physCore hc hspare).trans (hdoms.physCore hc hpower)
      _ = (s.mapCore c q).physCore c := rfl
      _ = 5 * (c / 4) + q := s.mapCore_physCore hc (by omega)
  · have hr : relShows (Reg.REL_SPARES 1) = false := by decide
    have hleft : d.left 1 = s.left 1 := by
      refine (hdoms.gf _ hr (by decide)).trans (hmap.gf _ hr ?_)
      simp only [List.mem_cons, List.not_mem_nil, or_false, Reg.REL_CORE_MAP, Reg.REL_LG_MAP, Reg.REL_SPARES]; omega
    rw [State.left_spend d (by decide), hleft]
  · rw [hspend.retired, hdoms.retired]
    exact List.mem_append_right _ (List.mem_singleton_self _)

theorem State.remap_core (s : State) (c : Fin 32) (mech outc : Nat) :
    (s.remap (.core c) mech outc).1 =
      if (s.coreFault c mech outc (s.unitLdg (.core c))).2 = true then (s.coreFault c mech outc (s.unitLdg (.core c))).1
      else (s.coreFault c mech outc (s.unitLdg (.core c))).1.failUnit (.core c) := rfl

theorem State.remap_core_spare {s : State} {c : Fin 32} {q : Nat} (h : s.wingSpare (c.val / 4) = some q) (mech outc : Nat) :
    (s.remap (.core c) mech outc).1 = (s.remapCore c.val q (s.unitLdg (.core c))).relFault 1 mech outc (s.physCore c.val)
      (5 * (c.val / 4) + q) (s.unitLdg (.core c)) := by
  simp only [State.remap_core, State.coreFault, h, if_true]

/-- Counting the fault leaves the wings' maps. -/
theorem coreMap_notin (k : Nat) : Reg.REL_CORE_MAP k ∉ ([Reg.REL_LAST_CNT 1] : List Nat) := by
  simp only [List.mem_singleton, Reg.REL_CORE_MAP, Reg.REL_LAST_CNT]
  omega

theorem State.recover_core_spare {s : State} {c : Fin 32} {q : Nat} (h : s.wingSpare (c.val / 4) = some q) (mech : Nat) :
    s.CoreRemapped c.val q (s.recover (.core c) mech (.lasting false)) ∧
      (s.recover (.core c) mech (.lasting false)).rbit Reg.REL_FLAG 1 = true := by
  have hcount := s.counted_tallied (u := .core c) rfl
  have hspare : (s.counted (.core c)).wingSpare (c.val / 4) = some q := (hcount.leaves.wingSpare (by omega) (coreMap_notin _)).trans h
  rw [State.recover_lasting mech rfl (by simp), State.remap_core_spare hspare]
  have hcore := (s.counted (.core c)).remapCore_remapped c.isLt (State.wingSpare_lt h) ((s.counted (.core c)).unitLdg (.core c))
  have hcnt : Reg.REL_SPARES 1 ∉ ([Reg.REL_LAST_CNT 1] : List Nat) := by decide
  generalize (s.counted (.core c)).remapCore c.val q ((s.counted (.core c)).unitLdg (.core c)) = d at hcore ⊢
  have hshow : d.LeavesBut [] ((d.relFault 1 mech 1 ((s.counted (.core c)).physCore c.val) (5 * (c.val / 4) + q)
      ((s.counted (.core c)).unitLdg (.core c))).recovered (.core c)) := .relFault ..
  refine ⟨⟨(hshow.mem.trans hcore.mem).trans hcount.leaves.mem, (hshow.physCore c.isLt List.not_mem_nil).trans hcore.phys, ?_, ?_, fun b hb =>
    hshow.flags b (hcore.flags b (hcount.leaves.flags b hb))⟩, hshow.flags 1 (hcore.flags 1 hcount.flag)⟩
  · calc _ = d.left 1 := hshow.gf _ (by decide) List.not_mem_nil
      _ = (s.counted (.core c)).left 1 - 1 := hcore.left
      _ = s.left 1 - 1 := congrArg (· - 1) (hcount.leaves.gf _ (by decide) hcnt)
  · rw [hshow.retired, ← hcount.leaves.physCore c.isLt (coreMap_notin _)]
    exact hcore.retired

/-! ### A core without a spare -/

/-- A change that the wear record is to hold (R478). -/
def State.wearChanged (s : State) : State := { s with wearDirty := true }

/-- A core whose map says FAILED (R485). -/
def State.coreFailed (s : State) (c : Fin 32) : State :=
  let t := s.wearChanged
  let r := Reg.REL_CORE_MAP (c.val / 4)
  t.sf r Fld.REL_CORE_MAP_FAILED (t.gf r Fld.REL_CORE_MAP_FAILED ||| 2 ^ (c.val % 4))

theorem State.failUnit_core (s : State) (c : Fin 32) : s.failUnit (.core c) = (s.coreFailed c).unrecovered (.core c) := rfl

theorem State.coreFailed_leaves (s : State) (c : Fin 32) : s.LeavesBut [Reg.REL_CORE_MAP (c.val / 4)] (s.coreFailed c) :=
  have hflag : Reg.REL_CORE_MAP (c.val / 4) ≠ Reg.REL_FLAG := by unfold Reg.REL_CORE_MAP Reg.REL_FLAG; omega
  have hdirty : s.LeavesBut [Reg.REL_CORE_MAP (c.val / 4)] s.wearChanged := .same rfl rfl rfl
  hdirty.trans (.sf (s := s.wearChanged) _ _ (List.mem_singleton_self _) hflag)

theorem State.coreFailed_failed (s : State) (c : Fin 32) :
    ((s.coreFailed c).gf (Reg.REL_CORE_MAP (c.val / 4)) Fld.REL_CORE_MAP_FAILED).testBit (c.val % 4) = true := by
  have hbit : c.val % 4 < 4 := Nat.mod_lt _ (by decide)
  rw [State.gf, State.coreFailed, State.rr_sf_same, getF_setF _ _ (by decide), Nat.testBit_mod_two_pow, Nat.testBit_or,
    Nat.testBit_two_pow_self, Bool.or_true, Bool.and_true]
  exact decide_eq_true hbit

theorem State.remap_core_none {s : State} {c : Fin 32} (h : s.wingSpare (c.val / 4) = none) (mech outc : Nat) :
    (s.remap (.core c) mech outc).1 =
      ((s.noSpare 1 mech (s.physCore c.val) (s.unitLdg (.core c))).coreFailed c).unrecovered (.core c) := by
  have hfault : s.coreFault c mech outc (s.unitLdg (.core c)) =
      (s.noSpare 1 mech (s.physCore c.val) (s.unitLdg (.core c)), false) := by simp only [State.coreFault, h]
  rw [State.remap_core, hfault, ← State.failUnit_core]
  exact if_neg Bool.false_ne_true

theorem State.noSpare_flag (s : State) (cls mech unit : Nat) (l : Option Nat) :
    (s.noSpare cls mech unit l).rbit Reg.REL_FLAG 2 = true :=
  (LeavesBut.relFault (w := []) ..).flags 2 (State.rbit_setFlag _ _ _ _ (by decide) (by decide))

theorem State.recover_core_none {s : State} {c : Fin 32} (h : s.wingSpare (c.val / 4) = none) (mech : Nat) :
    ∃ w : State, s.recover (.core c) mech (.lasting false) = w.unrecovered (.core c) ∧ w.mem = s.mem ∧
      w.rbit Reg.REL_FLAG 1 = true ∧ w.rbit Reg.REL_FLAG 2 = true ∧
      (w.gf (Reg.REL_CORE_MAP (c.val / 4)) Fld.REL_CORE_MAP_FAILED).testBit (c.val % 4) = true := by
  have hcount := s.counted_tallied (u := .core c) rfl
  have hnone : (s.counted (.core c)).wingSpare (c.val / 4) = none := (hcount.leaves.wingSpare (by omega) (coreMap_notin _)).trans h
  let lost := (s.counted (.core c)).noSpare 1 mech ((s.counted (.core c)).physCore c.val) ((s.counted (.core c)).unitLdg (.core c))
  have hlost : (s.counted (.core c)).LeavesBut [] lost := .noSpare ..
  have hfailed := lost.coreFailed_leaves c
  refine ⟨lost.coreFailed c, ?_, (hfailed.mem.trans hlost.mem).trans hcount.leaves.mem,
    hfailed.flags 1 (hlost.flags 1 hcount.flag), hfailed.flags 2 (State.noSpare_flag ..), lost.coreFailed_failed c⟩
  rw [State.recover_lasting mech rfl (by simp), State.remap_core_none hnone]
  rfl

/-! ### The SRAM scrubber (R219) -/

/-- The scrubber has read a word. -/
def State.scrubbed (s : State) (a : Nat) (ce : Bool) : State := if ce = true then s.sramCe a else s

/-- A pass of the scrubber ends: its minutes are shown, the next begins. -/
def State.passEnd (s : State) : State :=
  { s.sf Reg.REL_SCRUB Fld.REL_SCRUB_PASS_MIN (min 65535 ((s.cycle - s.scrubAt) / 36000000000)) with scrubAt := s.cycle }

theorem exec_sramScrub (a : BitVec 48) (ce last : Bool) (s : State) :
    exec (.sramScrub a ce last) s =
      .next (if last = true then (s.scrubbed a.toNat ce).passEnd else s.scrubbed a.toNat ce) := by
  cases last <;> rfl

theorem State.sramCe_count (s : State) (a : Nat) : (s.sramCe a).rr Reg.REL_CE_CNT = s.rr Reg.REL_CE_CNT + 1 := by
  unfold State.sramCe
  rw [State.rr_wr_other _ _ _ _ (by decide), State.rr_wr_other _ _ _ _ (by decide), State.rr_wr_same]

theorem State.scrubbed_rest (s : State) (a : Nat) (ce : Bool) :
    (s.scrubbed a ce).mem = s.mem ∧ (s.scrubbed a ce).cycle = s.cycle ∧ (s.scrubbed a ce).scrubAt = s.scrubAt := by
  cases ce <;> exact ⟨rfl, rfl, rfl⟩

theorem State.passEnd_minutes (s : State) :
    s.passEnd.gf Reg.REL_SCRUB Fld.REL_SCRUB_PASS_MIN = min 65535 ((s.cycle - s.scrubAt) / 36000000000) := by
  calc s.passEnd.gf Reg.REL_SCRUB Fld.REL_SCRUB_PASS_MIN
      = (s.sf Reg.REL_SCRUB Fld.REL_SCRUB_PASS_MIN (min 65535 ((s.cycle - s.scrubAt) / 36000000000))).gf Reg.REL_SCRUB
          Fld.REL_SCRUB_PASS_MIN := rfl
    _ = min 65535 ((s.cycle - s.scrubAt) / 36000000000) % 2 ^ 16 := by
        rw [State.gf, State.rr_sf_same]
        exact getF_setF _ _ (by decide)
    _ = _ := Nat.mod_eq_of_lt (by omega)

theorem State.passEnd_rr (s : State) {a : Nat} (h : a ≠ Reg.REL_SCRUB) : s.passEnd.rr a = s.rr a :=
  State.rr_wr_other s Reg.REL_SCRUB _ a h

theorem sramScrub_counts (s : State) (a : BitVec 48) (last : Bool) :
    ∃ t, exec (.sramScrub a true last) s = .next t ∧ t.mem = s.mem ∧ t.rr Reg.REL_CE_CNT = s.rr Reg.REL_CE_CNT + 1 := by
  have hread : (s.scrubbed a.toNat true).rr Reg.REL_CE_CNT = s.rr Reg.REL_CE_CNT + 1 := s.sramCe_count a.toNat
  have hmem := (s.scrubbed_rest a.toNat true).1
  refine ⟨_, exec_sramScrub a true last s, ?_⟩
  generalize s.scrubbed a.toNat true = t at hread hmem
  cases last with
  | false => exact ⟨hmem, hread⟩
  | true => exact ⟨hmem, (t.passEnd_rr (by decide)).trans hread⟩

theorem sramScrub_last (s : State) (a : BitVec 48) (ce : Bool) :
    ∃ t, exec (.sramScrub a ce true) s = .next t ∧ t.scrubAt = s.cycle ∧ t.mem = s.mem ∧
      t.gf Reg.REL_SCRUB Fld.REL_SCRUB_PASS_MIN = min 65535 ((s.cycle - s.scrubAt) / 36000000000) := by
  obtain ⟨hmem, hcycle, hat⟩ := s.scrubbed_rest a.toNat ce
  refine ⟨(s.scrubbed a.toNat ce).passEnd, exec_sramScrub a ce true s, hcycle, hmem, ?_⟩
  rw [State.passEnd_minutes, hcycle, hat]

/-! ### A pass that lasts too long (R219) -/

/-- What the parts of a CTL cycle before its end keep: the cycle's number, the start of the scrubber's pass, no page's transfer or
function left to go on; REL.FLAG loses no bit. -/
structure State.InCycle (s t : State) : Prop where
  cycle : t.cycle = s.cycle
  scrubAt : t.scrubAt = s.scrubAt
  kvXfer : t.kvXfer = s.kvXfer
  kvRest : t.kvRest = s.kvRest
  flags : ∀ b, s.rbit Reg.REL_FLAG b = true → t.rbit Reg.REL_FLAG b = true

namespace State.InCycle
variable {s t u : State}

theorem refl (s : State) : s.InCycle s := ⟨rfl, rfl, rfl, rfl, fun _ => id⟩

theorem trans (h : s.InCycle t) (k : t.InCycle u) : s.InCycle u :=
  ⟨k.cycle.trans h.cycle, k.scrubAt.trans h.scrubAt, k.kvXfer.trans h.kvXfer, k.kvRest.trans h.kvRest,
    fun b hb => k.flags b (h.flags b hb)⟩

theorem ite {c : Prop} [Decidable c] (h : s.InCycle t) (k : s.InCycle u) : s.InCycle (if c then t else u) := by
  split <;> assumption

theorem foldl {α : Type} {f : State → α → State} {l : List α} (hf : ∀ (u : State) (x : α), u.InCycle (f u x)) :
    s.InCycle (l.foldl f s) := by
  induction l generalizing s with
  | nil => exact refl s
  | cons x l ih => exact (hf s x).trans ih

theorem wr {a : Nat} (v : Word) (h : a ≠ Reg.REL_FLAG) : s.InCycle (s.wr a v) :=
  ⟨rfl, rfl, rfl, rfl, fun _ hb => (State.rbit_wr_other v h.symm).trans hb⟩

theorem ofNotes (h : s.Notes t) (hf : ∀ b, s.rbit Reg.REL_FLAG b = true → t.rbit Reg.REL_FLAG b = true) : s.InCycle t :=
  ⟨by rw [h.rest], by rw [h.rest], by rw [h.rest], by rw [h.rest], hf⟩

theorem event (blk ev : Nat) (l : Option Nat) (n : Nat) : s.InCycle (s.event blk ev l n) :=
  ofNotes (State.event_notes ..) fun b hb => by rwa [State.rbit, State.event_rr _ _ _ _ _ _ (by decide)]

theorem setFlag {a : Nat} (bit : Nat) (l : Option Nat) (h : noteReg a = true) (h4 : noteReg (a + 4) = true)
    (hf : a + 4 ≠ Reg.REL_FLAG) : s.InCycle (s.setFlag a bit l) :=
  ofNotes (State.setFlag_notes _ _ _ _ h h4) fun _ => State.relFlag_setFlag a bit l hf

theorem countCycles (s : State) : s.InCycle s.countCycles :=
  foldl fun _ _ => foldl fun _ _ => ite (refl _) (event ..)

theorem idleEngine (s : State) (c : Nat) : s.InCycle (s.idleEngine c) := by
  have hreg : Reg.TC_ENG_STATE c ≠ Reg.REL_FLAG := by unfold Reg.TC_ENG_STATE Reg.REL_FLAG; omega
  have hramp (f : Tc → Tc) : s.InCycle (s.setTc c f) := ⟨rfl, rfl, rfl, rfl, fun _ => id⟩
  exact ite (ite ((hramp _).trans (wr _ hreg)) (hramp _)) (ite (refl s) ((wr _ hreg).trans (wr _ hreg)))

theorem tickTbs (s : State) : s.InCycle s.tickTbs := foldl fun _ _ => ⟨rfl, rfl, rfl, rfl, fun _ => id⟩

theorem trackLost (s : State) (a : Nat) : s.InCycle (s.trackLost a) := by
  have hcar (u : State) (f : Car → Car) : u.InCycle (u.setCar a f) := ⟨rfl, rfl, rfl, rfl, fun _ => id⟩
  have hacq : s.InCycle (s.acquire a) :=
    ite ((wr _ (by unfold Reg.AIR_CAR_STAT Reg.REL_FLAG; omega)).trans (hcar _ _)) (refl s)
  exact hacq.trans (setFlag _ _ (by decide) (by decide) (by decide))

theorem dropPilots (s : State) : s.InCycle s.dropPilots := foldl fun u a => ite (c := u.pilotsGone a = true) (trackLost u a) (refl u)

end State.InCycle

theorem State.kvSettle_idle {s : State} (hx : s.kvXfer = []) (hr : s.kvRest = []) : s.kvSettle = s := by
  simp only [State.kvSettle, State.restGo, hx, hr, List.foldl_nil]

theorem State.scrubLate_flag {s : State} (h : s.cycle = s.scrubAt + 361 * 36000000000) :
    s.scrubLate = s.setFlag Reg.REL_FLAG 6 none :=
  if_pos (by rw [h]; exact beq_self_eq_true _)

theorem State.scrubLate_inCycle {s : State} (h : s.cycle = s.scrubAt + 361 * 36000000000) :
    s.InCycle s.scrubLate ∧ s.scrubLate.rbit Reg.REL_FLAG 6 = true := by
  rw [State.scrubLate_flag h]
  exact ⟨.setFlag _ _ (by decide) (by decide) (by decide), State.rbit_setFlag _ _ _ _ (by decide) (by decide)⟩

/-- The cycle is over. -/
def State.cycleEnd (s : State) : State := { s with cycle := s.cycle + 1 }

theorem State.rbit_cycleEnd (s : State) (a i : Nat) : s.cycleEnd.rbit a i = s.rbit a i := rfl

theorem State.tick_alive {s : State} (h : s.alive = true) :
    s.tick = s.countCycles.idleEngines.tickTbs.scrubLate.dropPilots.kvSettle.cycleEnd := by
  rw [State.alive, ← Bool.not_or, Bool.not_eq_true'] at h
  exact if_neg (Bool.eq_false_iff.1 h)

theorem State.InCycle.toScrub (s : State) : s.InCycle s.countCycles.idleEngines.tickTbs :=
  ((countCycles s).trans (.foldl .idleEngine)).trans (.tickTbs _)

theorem step_scrubLate {s : State} (hp : s.pending = []) (ha : s.alive = true) (hx : s.kvXfer = []) (hr : s.kvRest = [])
    (hc : s.cycle = s.scrubAt + 361 * 36000000000) : ∃ t, step s = .next t ∧ t.rbit Reg.REL_FLAG 6 = true := by
  refine ⟨s.tick, by rw [step, hp], ?_⟩
  have hu := State.InCycle.toScrub s
  rw [State.tick_alive ha]
  generalize s.countCycles.idleEngines.tickTbs = u at hu ⊢
  obtain ⟨hlate, hflag⟩ := State.scrubLate_inCycle (s := u) (by rw [hu.cycle, hu.scrubAt, hc])
  have hdrop := State.InCycle.dropPilots u.scrubLate
  have hall := (hu.trans hlate).trans hdrop
  rw [State.kvSettle_idle (hall.kvXfer.trans hx) (hall.kvRest.trans hr), State.rbit_cycleEnd]
  exact hdrop.flags 6 hflag

/-! ### The statement -/

/-- A word known to be poisoned is no new detection (R471). -/
theorem recover_known (s : State) (m : Fin 7) (r : Replay) :
    (∀ x dbl fix, s.poisoned x 8 = true → exec (.recover (.word x dbl fix) m r) s = .next s) ∧
    (∀ x dbl fix, s.poisoned (x / 64 * 64) 64 = true → exec (.recover (.tier x dbl fix) m r) s = .next s) :=
  ⟨fun _ _ _ h => congrArg _ (if_pos h), fun _ _ _ h => congrArg _ (if_pos h)⟩

theorem exec_tierScrub (a : BitVec 48) (ce : Bool) (s : State) :
    exec (.tierScrub a ce) s = .next (if (ce && s.inTier (a.toNat / 64 * 64) && !s.poisoned (a.toNat / 64 * 64) 64) = true then
      s.setFlag Reg.MEM_FLAG 0 ((s.tagLive (frameOf (a.toNat / 64 * 64))).map fun x => x.1) else s) := rfl

/-- Settles O15: each outcome is counted once, and what follows the count writes the maps, the spares and what shows faults. -/
theorem faultsFollowTheRetryRule : Obligations.FaultsFollowTheRetryRule := by
  intro s u m r c g b a ce
  refine ⟨fun hu hl => ?_, fun hmap hl => ?_, fun hmap => ?_, fun q hq => ?_, fun hq => ?_, (recover_known s m r).1,
    (recover_known s m r).2, fun hw => congrArg _ (if_pos hw), fun hw => congrArg _ (if_neg (Bool.eq_false_iff.1 hw)), fun hno => ?_,
    fun hce hin hp => ?_, exec_sramScrub a false false s, sramScrub_counts s a, sramScrub_last s a ce, step_scrubLate⟩
  · obtain ⟨hleaves, hcount, hflag⟩ := State.recover_passes_tallied (s := s) m.val hu hl
    refine ⟨_, exec_recover m .passes s hu, hleaves.mem, hcount, hflag, fun x hx htrans hlast hms => hleaves.regs x ?_ (mt List.mem_singleton.1 htrans)⟩
    simp [relShows, hx, hlast, hms]
  · obtain ⟨hmem, hto, hleft, hcount, hflag⟩ := State.recover_lane_spare hmap hl m.val
    exact ⟨_, exec_recover m _ s rfl, hmem, hto, hleft, hcount, hflag⟩
  · obtain ⟨hmem, hto, hleft, hcount, hflag⟩ := State.recover_bank_spare hmap b m.val
    exact ⟨_, exec_recover m _ s rfl, hmem, hto, hleft, hcount, hflag⟩
  · obtain ⟨⟨hmem, hphys, hleft, hret, -⟩, hflag⟩ := State.recover_core_spare hq m.val
    exact ⟨_, exec_recover m _ s rfl, hmem, hphys, hleft, hret, hflag⟩
  · obtain ⟨w, hw, hrest⟩ := State.recover_core_none hq m.val
    exact ⟨w, (exec_recover m _ s rfl).trans (congrArg _ hw), hrest⟩
  · refine (exec_tierScrub a ce s).trans (congrArg _ (if_neg ?_))
    rcases hno with h | h | h <;> simp [h]
  · refine ⟨_, (exec_tierScrub a ce s).trans (congrArg _ (if_pos ?_)), State.setFlag_notes _ _ _ _ (by decide) (by decide),
      State.rbit_setFlag _ _ _ _ (by decide) (by decide)⟩
    simp [hce, hin, hp]

end Sys2Proof.Machine
end

section
/-! PROOFS. A unit of 64 bytes moves (R211, R216, R518). -/
namespace Sys2Proof.Machine
open Sys2Proof

/-! ### Bytes read and stored in little-endian order (R24) -/

theorem byte_add_mul_256 (b : Byte) (v : Nat) : BitVec.ofNat 8 (b.toNat + 256 * v) = b := by
  apply BitVec.eq_of_toNat_eq
  rw [BitVec.toNat_ofNat, Nat.add_mul_mod_self_left, Nat.mod_eq_of_lt b.isLt]

/-- Byte i of a value read is the byte stored at offset i. -/
theorem State.byte_rdLE (s : State) (a : Nat) {n i : Nat} (h : i < n) : BitVec.ofNat 8 (s.rdLE a n / 256 ^ i) = s.rb (a + i) := by
  induction n generalizing a i with
  | zero => omega
  | succ n ih =>
    cases i with
    | zero => rw [State.rdLE, Nat.pow_zero, Nat.div_one, byte_add_mul_256, Nat.add_zero]
    | succ i =>
      have hrest : ((s.rb a).toNat + 256 * s.rdLE (a + 1) n) / 256 = s.rdLE (a + 1) n := by
        rw [Nat.add_mul_div_left _ _ (by decide), Nat.div_eq_of_lt (s.rb a).isLt, Nat.zero_add]
      rw [State.rdLE, Nat.pow_succ', ← Nat.div_div_eq_div_mul, hrest, ih _ (by omega), Nat.add_assoc, Nat.add_comm 1]

theorem State.rb_wb (s : State) (a : Nat) (v : Byte) (b : Nat) : (s.wb a v).rb b = if b = a then v else s.rb b :=
  tget_tput _ _ _ _ _

theorem State.rb_wrLE_outside (s : State) (n v : Nat) {a b : Nat} (h : ¬(a ≤ b ∧ b < a + n)) : (s.wrLE a n v).rb b = s.rb b := by
  induction n generalizing s a v with
  | zero => rfl
  | succ n ih => rw [State.wrLE, ih _ _ (by omega), State.rb_wb, if_neg (by omega)]

theorem State.rb_wrLE_inside (s : State) (a v : Nat) {n i : Nat} (h : i < n) :
    (s.wrLE a n v).rb (a + i) = BitVec.ofNat 8 (v / 256 ^ i) := by
  induction n generalizing s a v i with
  | zero => omega
  | succ n ih =>
    cases i with
    | zero => rw [State.wrLE, State.rb_wrLE_outside _ _ _ (by omega), Nat.add_zero, State.rb_wb, if_pos rfl, Nat.pow_zero, Nat.div_one]
    | succ i => rw [State.wrLE, show a + (i + 1) = a + 1 + i by omega, ih _ _ _ (by omega), Nat.div_div_eq_div_mul, Nat.pow_succ']

theorem State.wrLE_rest (s : State) (a n v : Nat) : s.wrLE a n v = { s with mem := (s.wrLE a n v).mem } := by
  induction n generalizing s a v with
  | zero => rfl
  | succ n ih =>
    rw [State.wrLE]
    exact ih (s.wb a (BitVec.ofNat 8 v)) (a + 1) (v / 256)

theorem State.clearPoison_rest (s : State) (a n : Nat) : s.clearPoison a n = { s with poison := (s.clearPoison a n).poison } := by
  unfold State.clearPoison
  split <;> rfl

/-! ### A unit stored outside the encrypted tier -/

theorem State.put_outside {s : State} {a : Nat} (l n v : Nat) (h : s.inTier a = false) :
    s.put l a n v = (s.wrLE a n v).clearPoison a n := by
  rw [State.put, if_neg (Bool.eq_false_iff.1 h)]

/-- Memory and poison apart, a store outside the tier leaves all as it was. -/
theorem State.put_outside_rest {s : State} {a : Nat} (l n v : Nat) (h : s.inTier a = false) :
    s.put l a n v = { s with mem := (s.put l a n v).mem, poison := (s.put l a n v).poison } := by
  rw [State.put_outside l n v h, State.clearPoison_rest, State.wrLE_rest]

theorem State.rb_put_outside {s : State} {a : Nat} (l n v b : Nat) (h : s.inTier a = false) :
    (s.put l a n v).rb b = (s.wrLE a n v).rb b := by
  rw [State.put_outside l n v h, State.rb, State.clearPoison_rest, State.rb]

/-! ### A unit read for a lodging -/

/-- Flags leave the address map as it is. -/
theorem State.Notes.inTier {s t : State} (h : s.Notes t) (a : Nat) : t.inTier a = s.inTier a := by
  unfold State.inTier State.place State.tierBytes State.gf
  rw [h.regs Reg.REL_IBC_MAP (by decide), h.regs Reg.MEM_USABLE (by decide)]

theorem State.Notes.rb {s t : State} (h : s.Notes t) (a : Nat) : t.rb a = s.rb a := by
  rw [h.rest]; rfl

/-- The byte that a lodging reads: another's tier data reads as zeros (R518). -/
def State.unitByte (s : State) (l src i : Nat) : Byte := if s.inTier src && s.readsZero l src then 0 else s.rb (src + i)

/-- A unit without poison is read whole; ZERO_READ may be set. -/
theorem State.getUnit_clean {s : State} {src : Nat} (l : Nat) (h : s.poisoned src 64 = false) :
    ∃ t v, s.getUnit l src = (t, v, false) ∧ s.Notes t ∧ ∀ i < 64, BitVec.ofNat 8 (v / 256 ^ i) = s.unitByte l src i := by
  unfold State.getUnit State.unitByte
  rw [if_neg (Bool.eq_false_iff.1 h)]
  by_cases hz : (s.inTier src && s.readsZero l src) = true
  · refine ⟨_, _, if_pos hz, State.setFlag_notes _ _ _ _ (by decide) (by decide), fun i _ => ?_⟩
    rw [if_pos hz, Nat.zero_div]
    rfl
  · refine ⟨_, _, if_neg hz, State.Notes.refl s, fun i hi => ?_⟩
    rw [if_neg hz, State.byte_rdLE _ _ hi]

theorem State.moveUnit_poisoned {s : State} {src : Nat} (l dst : Nat) (h : s.poisoned src 64 = true) :
    s.moveUnit l dst src = (s, true) := by
  rw [State.moveUnit, State.getUnit, if_pos h]
  rfl

theorem State.moveUnit_of_getUnit {s t : State} {src l v : Nat} (dst : Nat) (h : s.getUnit l src = (t, v, false)) :
    s.moveUnit l dst src = (t.put l dst 64 v, false) := by
  rw [State.moveUnit, h]
  rfl

/-- Settles O36: what getUnit reads is what the store outside the tier writes, and between them only a flag is set. -/
theorem movedUnitIsCopied : Obligations.MovedUnitIsCopied := by
  intro s l dst src hdst
  refine ⟨State.moveUnit_poisoned l dst, fun hclean => ?_⟩
  obtain ⟨t, v, hget, hnotes, hbytes⟩ := State.getUnit_clean l hclean
  have hout : t.inTier dst = false := (hnotes.inTier dst).trans hdst
  rw [State.moveUnit_of_getUnit dst hget]
  refine ⟨rfl, fun i hi => ?_, fun a ha => ?_, ?_, fun a ha => ?_⟩
  · rw [State.rb_put_outside _ _ _ _ hout, State.rb_wrLE_inside _ _ _ hi]
    exact hbytes i hi
  · rw [State.rb_put_outside _ _ _ _ hout, State.rb_wrLE_outside _ _ _ ha, hnotes.rb]
  · rw [State.put_outside_rest _ _ _ hout, hnotes.rest]
  · rw [State.put_outside_rest _ _ _ hout]
    exact hnotes.regs a ha

end Sys2Proof.Machine
end

section
/-! PROOFS. The regulator's refills (R214 to R216), the tier's refreshes (R210), spills and fetches that end (R250, R253). -/
namespace Sys2Proof.Machine
open Sys2Proof

/-! ### What a refill brings a bucket to (R215) -/

theorem capacity_le (preset cls : Nat) : capacity preset cls ≤ 55000 := by
  unfold capacity
  split <;> decide

/-- A share is a field of ten bits. -/
theorem State.share_lt (s : State) (l cls : Nat) : s.share l cls < 1024 := by
  unfold State.share
  split
  · exact getF_lt _ Fld.MEM_SHARE_READ
  · split
    · exact getF_lt _ Fld.MEM_SHARE_WRITE
    · exact getF_lt _ Fld.MEM_SHARE_REMOTE

theorem State.refillUnits_lt (s : State) (l cls : Nat) : s.refillUnits l cls < 880 := by
  have hprod := Nat.mul_le_mul (capacity_le (s.gf Reg.MEM_BW Fld.MEM_BW_PRESET) cls) (Nat.le_of_lt_succ (s.share_lt l cls))
  exact (Nat.div_lt_iff_lt_mul (by decide)).2 (Nat.lt_of_le_of_lt hprod (by decide))

theorem State.bucketCap_lt (s : State) (l cls : Nat) : s.bucketCap l cls < 2 ^ 32 := by
  have hdepth : s.gf (Reg.MEM_DEPTH l) Fld.MEM_DEPTH_DEPTH < 16 := getF_lt _ Fld.MEM_DEPTH_DEPTH
  have hprod := Nat.mul_le_mul (Nat.le_of_lt (s.refillUnits_lt l cls)) (Nat.succ_le_of_lt hdepth)
  exact Nat.lt_of_le_of_lt hprod (by decide)

/-- The tokens of a class after a refill. -/
def State.refillTo (s : State) (l k : Nat) : Nat := min (s.bucketCap l k) (s.tokens l k + s.refillUnits l k)

/-- The refill of one class. -/
def State.refillClass (s : State) (l k : Nat) : State := s.setTokens l k (s.refillTo l k)

/-- The registers that a class's refill reads: the preset, the lodging's share and depth, the bucket. -/
def refillReads (l k : Nat) : List Nat := [Reg.MEM_BW, Reg.MEM_SHARE l, Reg.MEM_DEPTH l, lvlReg l k]

theorem State.refillTo_wr (s : State) {a l k : Nat} (v : Word) (h : a ∉ refillReads l k) : (s.wr a v).refillTo l k = s.refillTo l k := by
  simp only [refillReads, List.mem_cons, List.not_mem_nil, or_false, not_or] at h
  obtain ⟨hbw, hshare, hdepth, hlvl⟩ := h
  unfold State.refillTo State.bucketCap State.refillUnits State.share State.tokens State.gf
  rw [State.rr_wr_other _ _ _ _ (Ne.symm hbw), State.rr_wr_other _ _ _ _ (Ne.symm hshare), State.rr_wr_other _ _ _ _ (Ne.symm hdepth),
    State.rr_wr_other _ _ _ _ (Ne.symm hlvl)]

theorem lvlReg_eq {l k : Nat} (h : k < 3) : lvlReg l k = 0xe0108 + 0x20 * l + 4 * k := by
  unfold lvlReg Reg.MEM_LVL_READ Reg.MEM_LVL_WRITE Reg.MEM_LVL_REMOTE
  split
  · omega
  · split <;> omega

theorem lvlReg_notin_refillReads {l j k : Nat} (hj : j < 3) (hk : k < 3) (h : j ≠ k) : lvlReg l j ∉ refillReads l k := by
  simp only [refillReads, lvlReg_eq hj, lvlReg_eq hk, Reg.MEM_BW, Reg.MEM_SHARE, Reg.MEM_DEPTH, List.mem_cons, List.not_mem_nil, or_false]
  omega

/-- WAIT_US of a lodging steers no refill. -/
theorem waitUs_notin_refillReads {l k : Nat} (hk : k < 3) : Reg.MEM_WAIT_US l ∉ refillReads l k := by
  simp only [refillReads, lvlReg_eq hk, Reg.MEM_BW, Reg.MEM_SHARE, Reg.MEM_DEPTH, Reg.MEM_WAIT_US, List.mem_cons,
    List.not_mem_nil, or_false]
  omega

theorem State.tokens_refillClass (s : State) (l k : Nat) : (s.refillClass l k).tokens l k = s.refillTo l k := by
  unfold State.refillClass State.setTokens State.tokens
  rw [State.rr_wr_same, BitVec.toNat_ofNat]
  exact Nat.mod_eq_of_lt (Nat.lt_of_le_of_lt (Nat.min_le_left _ _) (s.bucketCap_lt l k))

/-! ### The refill of all classes -/

/-- The buckets of the classes ks are refilled, and nothing else differs. -/
structure State.Refilled (l : Nat) (ks : List Nat) (s t : State) : Prop where
  tokens : ∀ k ∈ ks, t.tokens l k = s.refillTo l k
  regs : ∀ a, (∀ k ∈ ks, a ≠ lvlReg l k) → t.rr a = s.rr a
  rest : s.RegsOnly t

theorem State.refilled_foldl (s : State) (l : Nat) {ks : List Nat} (hlt : ∀ k ∈ ks, k < 3) (hnd : ks.Nodup) :
    s.Refilled l ks (ks.foldl (fun s k => s.refillClass l k) s) := by
  induction ks generalizing s with
  | nil => exact ⟨fun _ h => absurd h List.not_mem_nil, fun _ _ => rfl, rfl⟩
  | cons k ks ih =>
    obtain ⟨hk, hlt⟩ := List.forall_mem_cons.1 hlt
    obtain ⟨hnew, hnd⟩ := List.nodup_cons.1 hnd
    have later := ih (s.refillClass l k) hlt hnd
    rw [List.foldl_cons]
    refine ⟨List.forall_mem_cons.2 ⟨?_, fun j hj => ?_⟩, fun a ha => ?_, ?_⟩
    · have hkept := later.regs (lvlReg l k) fun j hj e => by
        rw [lvlReg_eq hk, lvlReg_eq (hlt j hj)] at e
        exact hnew ((show k = j by omega) ▸ hj)
      rw [State.tokens, hkept]
      exact s.tokens_refillClass l k
    · rw [later.tokens j hj]
      exact s.refillTo_wr _ (lvlReg_notin_refillReads hk (hlt j hj) fun e => hnew (e ▸ hj))
    · obtain ⟨hak, ha⟩ := List.forall_mem_cons.1 ha
      exact (later.regs a ha).trans (State.rr_wr_other _ _ _ _ hak)
    · exact later.rest

/-- The state of a lodging's three buckets after a refill. -/
def State.refillAll (s : State) (l : Nat) : State := (List.range 3).foldl (fun s k => s.refillClass l k) s

theorem State.refilled_refillAll (s : State) (l : Nat) : s.Refilled l (List.range 3) (s.refillAll l) :=
  s.refilled_foldl l (fun _ => List.mem_range.1) List.nodup_range

/-- The refill at its time, before the units that wait are admitted; the next one is at a cycle given. -/
def State.refillStep (s : State) (l next : Nat) : State :=
  { s.refillAll l with refillAt := tput (fun _ => 0) (s.refillAll l).refillAt l next }

section
variable (s : State) (l next : Nat)

theorem State.refillStep_tokens {k : Nat} (h : k < 3) : (s.refillStep l next).tokens l k = s.refillTo l k :=
  (s.refilled_refillAll l).tokens k (List.mem_range.2 h)

theorem State.refillStep_refillAt : tget (fun _ => 0) (s.refillStep l next).refillAt l = next := by
  rw [State.refillStep, tget_tput_same]

theorem State.refillStep_rest :
    s.refillStep l next = { s with regs := (s.refillStep l next).regs, refillAt := (s.refillStep l next).refillAt } := by
  unfold State.refillStep
  rw [(s.refilled_refillAll l).rest]

theorem State.refillStep_regs {a : Nat} (h : ∀ k, k < 3 → a ≠ lvlReg l k) : (s.refillStep l next).rr a = s.rr a :=
  (s.refilled_refillAll l).regs a fun k hk => h k (List.mem_range.1 hk)

end

/-! ### A lodging of which nothing waits -/

theorem foldl_unchanged {α β : Type} {f : β → α → β} {b : β} {xs : List α} (h : ∀ x ∈ xs, f b x = b) : xs.foldl f b = b := by
  induction xs with
  | nil => rfl
  | cons x xs ih =>
    rw [List.foldl_cons, h x List.mem_cons_self]
    exact ih fun y hy => h y (List.mem_cons_of_mem _ hy)

/-- Nothing of the lodging waits: no move is queued, no page is on its way, no unit is owed. -/
structure State.NoneWaiting (s : State) (l : Nat) : Prop where
  queues : s.queuesOf l = []
  kvMoves : s.kvMoves = []
  owed : s.owedAll l = 0

namespace State.NoneWaiting
variable {s : State} {l : Nat}

theorem kvNext (h : s.NoneWaiting l) : s.kvNext l = none := by
  simp only [State.kvNext, h.kvMoves, List.find?_nil]

theorem owes_none (h : s.NoneWaiting l) : ∀ r ∈ payers, ∀ k ∈ List.range 3, s.owed l r k = 0 := by
  have hsum := h.owed
  simp only [State.owedAll, payers, List.range_succ, List.range_zero, List.foldl_cons, List.foldl_nil, List.nil_append,
    List.cons_append] at hsum
  simp only [payers, List.range_succ, List.range_zero, List.nil_append, List.cons_append, List.forall_mem_cons,
    List.not_mem_nil, false_implies, implies_true, and_true]
  omega

theorem dueRound (h : s.NoneWaiting l) : s.dueRound l = (s, false) := by
  refine foldl_unchanged fun x hx => ?_
  obtain ⟨r, hr, k, hk, rfl⟩ : ∃ r ∈ payers, ∃ k ∈ List.range 3, (r, k) = x := by simpa using hx
  exact if_neg fun hpos => absurd (h.owes_none r hr k hk) (Nat.pos_iff_ne_zero.1 hpos.1)

/-- The only queue that the round visits is the page manager's, which has no next unit. -/
theorem admitRound (h : s.NoneWaiting l) : s.admitRound l = (s, false) := by
  rw [State.admitRound, h.dueRound]
  refine foldl_unchanged fun q hq => ?_
  have hq : q = none := by
    simp only [State.roundOf, h.queues, List.map_nil, List.nil_append, List.mem_append, List.mem_filter, List.mem_singleton] at hq
    exact hq.elim And.left And.left
  have hadmit : s.queueAdmit l q = none := by rw [hq, State.queueAdmit, State.kvAdmit, h.kvNext]
  rw [hadmit]

theorem pump (h : s.NoneWaiting l) : s.pump l = s := by
  have hall (fuel : Nat) : s.admitAll l fuel = s := by
    cases fuel with
    | zero => rfl
    | succ fuel => rw [State.admitAll, h.admitRound]; rfl
  exact hall _

theorem refillStep (h : s.NoneWaiting l) (next : Nat) : (s.refillStep l next).NoneWaiting l := by
  rw [s.refillStep_rest l next]
  exact ⟨h.queues, h.kvMoves, h.owed⟩

end State.NoneWaiting

/-! ### REFILL -/

/-- An interval in which a unit waited counts once in WAIT_US (R224). -/
def State.noteWait (s : State) (l : Nat) (waited : Bool) : State :=
  if waited then s.wr (Reg.MEM_WAIT_US l) (s.rr (Reg.MEM_WAIT_US l) + 1) else s

theorem State.noteWait_regsOnly (s : State) (l : Nat) (waited : Bool) : s.RegsOnly (s.noteWait l waited) := by
  cases waited <;> rfl

theorem State.refillTo_noteWait (s : State) (l : Nat) (waited : Bool) {k : Nat} (hk : k < 3) :
    (s.noteWait l waited).refillTo l k = s.refillTo l k := by
  cases waited
  · rfl
  · exact s.refillTo_wr _ (waitUs_notin_refillReads hk)

section
variable {s : State} {l : Fin 16}

theorem exec_refill_early (h : s.cycle < tget (fun _ => 0) s.refillAt l.val) : exec (.refill l) s = .next s := if_pos h

theorem exec_refill_due (h : tget (fun _ => 0) s.refillAt l.val ≤ s.cycle) :
    ∃ waited, exec (.refill l) s =
        .next (((s.noteWait l.val waited).refillStep l.val (tget (fun _ => 0) s.refillAt l.val + 600)).pump l.val) ∧
      (s.NoneWaiting l.val → waited = false) := by
  refine ⟨_, if_neg (Nat.not_lt.2 h), fun hnone => ?_⟩
  simp [hnone.queues, hnone.kvNext, hnone.owed]

theorem exec_refill_gives_tokens (h : tget (fun _ => 0) s.refillAt l.val ≤ s.cycle) :
    ∃ u : State, exec (.refill l) s = .next (u.pump l.val) ∧ u.mem = s.mem ∧ (∀ k, k < 3 → u.tokens l.val k = s.refillTo l.val k) ∧
      tget (fun _ => 0) u.refillAt l.val = tget (fun _ => 0) s.refillAt l.val + 600 := by
  obtain ⟨waited, hexec, -⟩ := exec_refill_due h
  refine ⟨_, hexec, ?_, fun k hk => ?_, State.refillStep_refillAt ..⟩
  · rw [State.refillStep_rest, s.noteWait_regsOnly l.val waited]
  · rw [State.refillStep_tokens _ _ _ hk, s.refillTo_noteWait l.val waited hk]

theorem exec_refill_none_waiting (h : tget (fun _ => 0) s.refillAt l.val ≤ s.cycle) (hnone : s.NoneWaiting l.val) :
    exec (.refill l) s = .next (s.refillStep l.val (tget (fun _ => 0) s.refillAt l.val + 600)) := by
  obtain ⟨waited, hexec, hno⟩ := exec_refill_due h
  have hsame : s.noteWait l.val false = s := rfl
  rw [hexec, hno hnone, hsame, (hnone.refillStep _).pump]

end

/-! ### Spills and fetches that end -/

/-- SPILL_COMPLETE of the page's spill whose units have all moved (R250). -/
theorem exec_spillComplete (l : Fin 16) (pool : Fin 4) (page : Fin 4194304) (s : State) :
    exec (.spillComplete l pool page) s = .next ((s.kvMoves.find? (spillOver l pool page)).elim s fun m =>
      (s.spillDone (s.kvOf l.val pool.val) m).kvSettle) := by
  change execSpillComplete l pool page s = _
  unfold execSpillComplete spillOver
  cases s.kvMoves.find? _ <;> rfl

/-- FETCH_COMPLETE of the page's fetch whose units have all moved (R250, R253). -/
theorem exec_fetchComplete (l : Fin 16) (pool : Fin 4) (page : Fin 4194304) (s : State) :
    exec (.fetchComplete l pool page) s = .next ((s.kvMoves.find? (fetchOver l pool page)).elim s fun m =>
      (s.fetchDone (s.kvOf l.val pool.val) m).kvSettle) := by
  change execFetchComplete l pool page s = _
  unfold execFetchComplete fetchOver
  cases s.kvMoves.find? _ <;> rfl

/-- Settles O37: the refill of each class reads nothing that another class's refill writes, and with nothing waiting none is admitted. -/
theorem regulatorRefillsAndPagesComplete : Obligations.RegulatorRefillsAndPagesComplete := by
  intro s l ch pool page at_
  refine ⟨exec_refill_early, exec_refill_gives_tokens, fun hdue hqueues hmoves howed => ?_, ?_, fun hnone => ?_, fun m hm => ?_,
    fun hnone => ?_, fun m hm => ?_⟩
  · exact ⟨_, exec_refill_none_waiting hdue ⟨hqueues, hmoves, howed⟩, fun k => s.refillStep_tokens l.val _,
      s.refillStep_refillAt l.val _, s.refillStep_rest l.val _, fun a => s.refillStep_regs l.val _⟩
  · exact ⟨rfl, _, rfl, State.event_notes ..⟩
  · rw [exec_spillComplete, hnone, Option.elim_none]
  · rw [exec_spillComplete, hm, Option.elim_some]
  · rw [exec_fetchComplete, hnone, Option.elim_none]
  · rw [exec_fetchComplete, hm, Option.elim_some]

end Sys2Proof.Machine
end

section
/-! PROOFS. What the air path reads of a state: registers that steer, the time bases, its carriers (R259 to R299). -/
namespace Sys2Proof.Machine
open Sys2Proof

/-! ### Registers of the carriers -/

/-- The carriers' registers record nothing (R296). -/
theorem noteReg_carrier {b : Nat} (lo : 0xb0100 ≤ b) (hi : b < 0xb3000) : noteReg b = false := by
  have hblk : b / 65536 = 0xB := by omega
  simp only [noteReg, isFlagReg, blockOf, hblk]
  simp
  omega

theorem noteReg_cfg0 {a : Nat} (ha : a < 8) : noteReg (Reg.AIR_CAR_CFG0 a) = false :=
  noteReg_carrier (by unfold Reg.AIR_CAR_CFG0; omega) (by unfold Reg.AIR_CAR_CFG0; omega)
theorem noteReg_cfg1 {a : Nat} (ha : a < 8) : noteReg (Reg.AIR_CAR_CFG1 a) = false :=
  noteReg_carrier (by unfold Reg.AIR_CAR_CFG1; omega) (by unfold Reg.AIR_CAR_CFG1; omega)
theorem noteReg_cfg3 {a : Nat} (ha : a < 8) : noteReg (Reg.AIR_CAR_CFG3 a) = false :=
  noteReg_carrier (by unfold Reg.AIR_CAR_CFG3; omega) (by unfold Reg.AIR_CAR_CFG3; omega)

theorem State.gf_sf_same (s : State) (b : Nat) {f : Fld} (v : Nat) (hf : f.lo ≤ f.hi ∧ f.hi < 32) :
    (s.sf b f v).gf b f = v % 2 ^ (f.hi - f.lo + 1) := by
  rw [State.gf, State.rr_sf_same, getF_setF _ _ hf]

/-! ### The configuration of an order's slot (R262) -/

theorem State.asOf_regsOnly (s : State) (o : SlotOrd) : s.RegsOnly (s.asOf o) :=
  List.foldlRecOn (motive := fun u : State => s.RegsOnly u) o.cfg _ rfl fun _ hu v _ => by
    rw [State.RegsOnly, hu]; rfl

/-- A register that reads the same in two states does so under an order's configuration. -/
theorem State.rr_asOf {s t : State} (o : SlotOrd) {b : Nat} (h : t.rr b = s.rr b) : (t.asOf o).rr b = (s.asOf o).rr b := by
  unfold State.asOf
  induction o.cfg generalizing s t with
  | nil => exact h
  | cons v vs ih => exact ih (by rw [State.rr_wr, State.rr_wr, h])

theorem State.now_asOf (s : State) (o : SlotOrd) (n : Nat) : (s.asOf o).now n = s.now n := by
  rw [s.asOf_regsOnly o]; rfl

theorem State.slotCfg_none {s : State} {a sfn slot : Nat} (h : s.orderAt a true sfn slot = none) : s.slotCfg a sfn slot = s := by
  rw [State.slotCfg, h]

theorem State.slotCfg_some {s : State} {a sfn slot : Nat} {o : SlotOrd} (h : s.orderAt a true sfn slot = some o) :
    s.slotCfg a sfn slot = s.asOf o := by
  rw [State.slotCfg, h]

/-! ### The carrier of an eAxC ID (R265) -/

/-- A carrier is on a port under a CC_ID, in the configuration that serves the slot. -/
def State.onPort (s : State) (port cc sfn slot a : Nat) : Bool :=
  (s.slotCfg a sfn slot).carOn a &&
    (s.slotCfg a sfn slot).gf (Reg.AIR_CAR_CFG0 a) Fld.AIR_CAR_CFG0_FH_PORT == port &&
    (s.slotCfg a sfn slot).gf (Reg.AIR_CAR_CFG0 a) Fld.AIR_CAR_CFG0_CC_ID == cc

/-- CC_ID and RU_port of an eAxC ID under the split of FH.EAXC. -/
def State.ccOf (s : State) (id : Nat) : Nat :=
  id / 2 ^ getF (s.rr Reg.FH_EAXC) Fld.FH_EAXC_RU_BITS % 2 ^ getF (s.rr Reg.FH_EAXC) Fld.FH_EAXC_CC_BITS
def State.ruOf (s : State) (id : Nat) : Nat := id % 2 ^ getF (s.rr Reg.FH_EAXC) Fld.FH_EAXC_RU_BITS

theorem State.eaxc_eq (s : State) (port id sfn slot : Nat) :
    s.eaxc port id sfn slot = ((List.range 8).find? (s.onPort port (s.ccOf id) sfn slot)).bind fun a =>
      if s.ruOf id < (s.slotCfg a sfn slot).carUl a then some (a, s.ruOf id) else none := by
  unfold State.eaxc
  dsimp only
  split
  case h_1 a hfind =>
    have hport : (List.range 8).find? (s.onPort port (s.ccOf id) sfn slot) = some a := hfind
    rw [hport]; rfl
  case h_2 hfind =>
    have hport : (List.range 8).find? (s.onPort port (s.ccOf id) sfn slot) = none := hfind
    rw [hport]; rfl

/-- Of predicates that agree on a list the same element is found first. -/
theorem find?_eq_of_agree {α : Type} {p q : α → Bool} {xs : List α} (h : ∀ x ∈ xs, p x = q x) : xs.find? p = xs.find? q := by
  induction xs with
  | nil => rfl
  | cons x xs ih =>
    rw [List.find?_cons, List.find?_cons, h x List.mem_cons_self, ih fun y hy => h y (List.mem_cons_of_mem _ hy)]

theorem carrier_lt {p : Nat → Bool} {a : Nat} (h : (List.range 8).find? p = some a) : a < 8 :=
  List.mem_range.1 (List.mem_of_find?_eq_some h)

theorem State.eaxc_lt {s : State} {port id sfn slot a st : Nat} (h : s.eaxc port id sfn slot = some (a, st)) : a < 8 := by
  rw [State.eaxc_eq, Option.bind_eq_some_iff] at h
  obtain ⟨b, hb, hst⟩ := h
  have hab : b = a := by
    have hif : (if s.ruOf id < (s.slotCfg b sfn slot).carUl b then some (b, s.ruOf id) else none) = some (a, st) := hst
    rw [Option.ite_none_right_eq_some] at hif
    simpa using congrArg Prod.fst (Option.some.inj hif.2)
  exact hab ▸ carrier_lt hb

/-! ### States in which the air path reads the same -/

/-- Every register but flags and counters, the time bases and what the AIR block keeps of the carriers agree. -/
structure State.SameAir (s t : State) : Prop where
  regs : ∀ b, noteReg b = false → t.rr b = s.rr b
  tb : t.tb = s.tb
  car : t.car = s.car

theorem State.Notes.sameAir {s t : State} (h : s.Notes t) : s.SameAir t := ⟨h.regs, by rw [h.rest], by rw [h.rest]⟩

namespace State.SameAir
variable {s t u : State}

theorem trans (h : s.SameAir t) (k : t.SameAir u) : s.SameAir u :=
  ⟨fun b hb => (k.regs b hb).trans (h.regs b hb), k.tb.trans h.tb, k.car.trans h.car⟩

theorem syncCount (h : s.SameAir t) {o : Nat} (ho : o < 4096) : t.syncCount o = s.syncCount o :=
  congrArg BitVec.toNat (h.regs _ (noteReg_sync o ho).1)

theorem asOf (h : s.SameAir t) (o : SlotOrd) : (s.asOf o).SameAir (t.asOf o) := by
  refine ⟨fun b hb => State.rr_asOf o (h.regs b hb), ?_, ?_⟩
  · rw [t.asOf_regsOnly o, s.asOf_regsOnly o]
    exact h.tb
  · rw [t.asOf_regsOnly o, s.asOf_regsOnly o]
    exact h.car

theorem orderAt (h : s.SameAir t) (a : Nat) (ul : Bool) (sfn slot : Nat) : t.orderAt a ul sfn slot = s.orderAt a ul sfn slot := by
  rw [State.orderAt, State.carOf, h.car, State.orderAt, State.carOf]

theorem slotCfg (h : s.SameAir t) (a sfn slot : Nat) : (s.slotCfg a sfn slot).SameAir (t.slotCfg a sfn slot) := by
  have ho := h.orderAt a true sfn slot
  cases hs : s.orderAt a true sfn slot with
  | none => rwa [State.slotCfg_none hs, State.slotCfg_none (ho.trans hs)]
  | some o =>
    rw [State.slotCfg_some hs, State.slotCfg_some (ho.trans hs)]
    exact h.asOf o

theorem now (h : s.SameAir t) (n : Nat) : t.now n = s.now n := by
  rw [State.now, State.tbOf, h.tb, State.now, State.tbOf]

theorem gf (h : s.SameAir t) {b : Nat} (hb : noteReg b = false) (f : Fld) : t.gf b f = s.gf b f := by
  rw [State.gf, h.regs b hb, State.gf]

section
variable (h : s.SameAir t) {a : Nat} (ha : a < 8)
include h ha

theorem carOn : t.carOn a = s.carOn a := by rw [State.carOn, h.gf (noteReg_cfg0 ha), State.carOn]
theorem carTb : t.carTb a = s.carTb a := h.gf (noteReg_cfg0 ha) _
theorem carNum : t.carNum a = s.carNum a := h.gf (noteReg_cfg0 ha) _
theorem carUl : t.carUl a = s.carUl a := congrArg (· + 1) (h.gf (noteReg_cfg1 ha) _)
theorem carCmp : t.carCmp a = s.carCmp a := congrArg cmpWidth (h.gf (noteReg_cfg1 ha) _)
theorem carObj : t.carObj a = s.carObj a := congrArg (64 * ·) (h.gf (noteReg_cfg1 ha) _)

theorem carArrMax : t.carArrMax a = s.carArrMax a := by
  rw [State.carArrMax, h.gf (noteReg_cfg3 ha), h.carNum ha, State.carArrMax]

theorem arrival (start k : Nat) : t.arrival a start k = s.arrival a start k := by
  simp only [State.arrival, h.now, h.carTb ha, h.carNum ha, h.carArrMax ha]

theorem carOffset : t.rr (Reg.AIR_CAR_OFFSET a) = s.rr (Reg.AIR_CAR_OFFSET a) :=
  h.regs _ (noteReg_carrier (by unfold Reg.AIR_CAR_OFFSET; omega) (by unfold Reg.AIR_CAR_OFFSET; omega))

theorem absSlot : t.absSlot a = s.absSlot a := by
  unfold State.absSlot
  rw [h.now, h.carTb ha, h.carNum ha, h.carOffset ha]

theorem slotsAhead (sfn slot : Nat) : t.slotsAhead a sfn slot = s.slotsAhead a sfn slot := by
  unfold State.slotsAhead
  rw [h.absSlot ha, h.carNum ha]

theorem slotStart (sfn slot : Nat) : t.slotStart a sfn slot = s.slotStart a sfn slot := by
  unfold State.slotStart
  rw [h.absSlot ha, h.slotsAhead ha, h.carNum ha, h.carOffset ha]

end

theorem onPort (h : s.SameAir t) (port cc sfn slot : Nat) {a : Nat} (ha : a < 8) :
    t.onPort port cc sfn slot a = s.onPort port cc sfn slot a := by
  have hx := h.slotCfg a sfn slot
  simp only [State.onPort, hx.carOn ha, hx.gf (noteReg_cfg0 ha)]

theorem eaxc (h : s.SameAir t) (port id sfn slot : Nat) : t.eaxc port id sfn slot = s.eaxc port id sfn slot := by
  have hfind (cc : Nat) : (List.range 8).find? (t.onPort port cc sfn slot) = (List.range 8).find? (s.onPort port cc sfn slot) :=
    find?_eq_of_agree fun a ha => h.onPort port cc sfn slot (List.mem_range.1 ha)
  have hfh : t.rr Reg.FH_EAXC = s.rr Reg.FH_EAXC := h.regs _ (by decide)
  have hcc : t.ccOf id = s.ccOf id := by rw [State.ccOf, hfh, State.ccOf]
  have hru : t.ruOf id = s.ruOf id := by rw [State.ruOf, hfh, State.ruOf]
  rw [State.eaxc_eq, State.eaxc_eq, hcc, hru, hfind]
  refine Option.bind_congr fun a ha => ?_
  rw [(h.slotCfg a sfn slot).carUl (carrier_lt ha)]

end State.SameAir

/-! ### What a signal leaves (R279, R454) -/

theorem State.carObj_le (s : State) (a : Nat) : s.carObj a ≤ 4032 := by
  have hfield : s.gf (Reg.AIR_CAR_CFG1 a) Fld.AIR_CAR_CFG1_SOBJ_BLK < 64 := getF_lt _ Fld.AIR_CAR_CFG1_SOBJ_BLK
  unfold State.carObj
  omega

theorem State.syncCount_signal (s : State) {o : Nat} (ho : o < 4096) (n : Nat) :
    (s.signal o n).syncCount o = min (s.syncCount o + n) (2 ^ 32 - 1) := by
  rw [((s.signal_low o n).sync o ho).1, State.syncCount, State.rr_wr_same, BitVec.toNat_ofNat]
  exact Nat.mod_eq_of_lt (by omega)

theorem State.lateIf_notes (s : State) (o : SlotOrd) (began win : Nat) : s.Notes (s.lateIf o began win) :=
  .ite ((State.setFlag_notes _ _ _ _ (by decide) (by decide)).trans (State.event_notes ..)) (.refl s)

end Sys2Proof.Machine
end

section
/-! PROOFS. Fronthaul messages (R263 to R266, R269, R276). -/
namespace Sys2Proof.Machine
open Sys2Proof

/-! ### What a discarded message leaves (R264) -/

/-- Nothing but flags, counters and the sequence IDs has changed. -/
def State.SeqNotes (s t : State) : Prop := State.Notes { s with fhSeq := t.fhSeq } t

/-- Changing the sequence IDs passes through flags. -/
theorem State.Notes.withSeq {s t : State} (h : s.Notes t) (q : Tbl Nat) : State.Notes { s with fhSeq := q } { t with fhSeq := q } :=
  h.map (fun s => { s with fhSeq := q }) (fun _ _ _ => rfl) fun _ => rfl

namespace State.SeqNotes
variable {s t u : State}

theorem ofNotes (h : s.Notes t) : s.SeqNotes t := by
  have hseq : t.fhSeq = s.fhSeq := by rw [h.rest]
  rw [State.SeqNotes, hseq]
  exact h

theorem trans (h : s.SeqNotes t) (k : t.SeqNotes u) : s.SeqNotes u := (Notes.withSeq h u.fhSeq).trans k

theorem sameAir (h : s.SeqNotes t) : s.SameAir t := ⟨h.regs, by rw [h.rest], by rw [h.rest]⟩

/-- With its sequence IDs back the state is as it was. -/
theorem notes (h : s.SeqNotes t) : s.Notes { t with fhSeq := s.fhSeq } := Notes.withSeq h s.fhSeq

end State.SeqNotes

theorem State.seqCheck_notes (s : State) (a st seq : Nat) : s.SeqNotes (s.seqCheck a st seq) := by
  unfold State.seqCheck
  dsimp only
  split
  · exact .ofNotes (.refl s)
  · exact (State.setFlagIf_notes s _ Reg.FH_FLAG 2 _ (by decide) (by decide)).withSeq _

theorem State.fhFlag_notes (s : State) (bit : Nat) (l : Option Nat) : s.Notes (s.setFlag Reg.FH_FLAG bit l) :=
  State.setFlag_notes _ _ _ _ (by decide) (by decide)

theorem State.rbit_fhFlag (s : State) {bit : Nat} (h : bit < 32) (l : Option Nat) :
    (s.setFlag Reg.FH_FLAG bit l).rbit Reg.FH_FLAG bit = true := State.rbit_setFlag _ _ _ _ h (by decide)

/-! ### What the row does (R263) -/

/-- udCompMeth and udIqWidth are of R263's list. -/
def widthListed (meth width : Nat) : Bool := (meth == 0 && width == 16) || (meth == 1 && (width == 9 || width == 12 || width == 14))

theorem widthListed_iff (meth width : Nat) :
    widthListed meth width = true ↔ (meth = 0 ∧ width = 16) ∨ (meth = 1 ∧ (width = 9 ∨ width = 12 ∨ width = 14)) := by
  simp [widthListed, or_assoc]

/-- A message has come in: the port counts it. -/
def State.heard (s : State) (p : Fin 12) : State := s.event 0xA 0x3000 (s.portHolder p.val)

theorem State.heard_notes (s : State) (p : Fin 12) : s.Notes (s.heard p) := State.event_notes ..

/-- It has used its sequence ID. -/
def State.sequenced (s : State) (p : Fin 12) (a st seq : Nat) : State := (s.heard p).seqCheck a st (seq % 65536)

theorem State.sequenced_notes (s : State) (p : Fin 12) (a st seq : Nat) : s.SeqNotes (s.sequenced p a st seq) :=
  (State.SeqNotes.ofNotes (s.heard_notes p)).trans (State.seqCheck_notes ..)

/-- The header of a carrier's messages is the static one. -/
def State.staticHdr (s : State) (a : Nat) : Bool := s.gf (Reg.AIR_CAR_CFG1 a) Fld.AIR_CAR_CFG1_STATIC == 1

/-- The sample width of a message of a carrier: that of the static header, else the message's own (R263). -/
def State.msgWidth (s : State) (a width : Nat) : Nat := if s.staticHdr a then s.carCmp a else width

theorem State.SameAir.staticHdr {s t : State} (h : s.SameAir t) {a : Nat} (ha : a < 8) : t.staticHdr a = s.staticHdr a := by
  rw [State.staticHdr, h.gf (noteReg_cfg1 ha), State.staticHdr]

theorem State.SameAir.msgWidth {s t : State} (h : s.SameAir t) {a : Nat} (ha : a < 8) (width : Nat) :
    t.msgWidth a width = s.msgWidth a width := by
  rw [State.msgWidth, h.staticHdr ha, h.carCmp ha, State.msgWidth]

theorem State.staticHdr_iff (x : State) (a : Nat) :
    x.staticHdr a = true ↔ x.gf (Reg.AIR_CAR_CFG1 a) Fld.AIR_CAR_CFG1_STATIC = 1 := beq_iff_eq

theorem State.msgWidth_eq (x : State) (a width : Nat) :
    x.msgWidth a width = if x.gf (Reg.AIR_CAR_CFG1 a) Fld.AIR_CAR_CFG1_STATIC = 1 then x.carCmp a else width :=
  ite_congr (propext (x.staticHdr_iff a)) (fun _ => rfl) fun _ => rfl

theorem State.msgWidth_dynamic {x : State} {a : Nat} (h : x.staticHdr a = false) (width : Nat) : x.msgWidth a width = width :=
  if_neg (Bool.eq_false_iff.1 h)

/-- The message is discarded as one that R263 does not list. -/
def State.unsupported (x : State) (frame : FhFrame) (ty a meth width : Nat) : Bool :=
  !frameOk frame ty || (ty == 0 && !x.staticHdr a && !widthListed meth (x.msgWidth a width))

theorem State.unsupported_iff (x : State) (frame : FhFrame) (ty a meth width : Nat) :
    x.unsupported frame ty a meth width = true ↔
      frameOk frame ty = false ∨ (ty = 0 ∧ x.staticHdr a = false ∧ widthListed meth width = false) := by
  cases hst : x.staticHdr a with
  | true => simp [State.unsupported, hst]
  | false => simp [State.unsupported, hst, x.msgWidth_dynamic hst]

section
variable (s : State) (p : Fin 12) (frame : FhFrame) (ty id seq : Nat) (sfn : Fin 1024) (slot : Fin 80) (k : Fin 14)
  (prb0 meth width : Nat) (data : List Byte)

theorem exec_fhUplaneRx_bad : exec (.fhUplaneRx p true frame ty id seq sfn slot k prb0 meth width data) s =
    .next ((s.heard p).setFlag Reg.FH_FLAG 1 ((s.heard p).portHolder p.val)) := rfl

theorem exec_fhUplaneRx_unknown (h : s.eaxc p.val (id % 65536) sfn.val slot.val = none) :
    exec (.fhUplaneRx p false frame ty id seq sfn slot k prb0 meth width data) s =
      .next ((s.heard p).setFlag Reg.FH_FLAG (if frameOk frame ty then 3 else 4) ((s.heard p).portHolder p.val)) := by
  have hid : (s.event 0xA 0x3000 (s.portHolder p.val)).eaxc p.val (id % 65536) sfn.val slot.val = none :=
    ((s.heard_notes p).sameAir.eaxc p.val (id % 65536) sfn.val slot.val).trans h
  change execFhUplaneRx p false frame ty id seq sfn slot k prb0 meth width data s = _
  unfold execFhUplaneRx
  simp only [hid]
  rfl

/-- The message of a carrier's stream: its header is looked at under the configuration that serves the slot. -/
theorem exec_fhUplaneRx_stream {a st : Nat} (h : s.eaxc p.val (id % 65536) sfn.val slot.val = some (a, st)) :
    exec (.fhUplaneRx p false frame ty id seq sfn slot k prb0 meth width data) s = .next
      (if (s.slotCfg a sfn.val slot.val).unsupported frame ty a meth width then
        (s.sequenced p a st seq).setFlag Reg.FH_FLAG 4 ((s.sequenced p a st seq).portHolder p.val)
      else if ty = 2 then s.sequenced p a st seq
      else (s.sequenced p a st seq).uplane a st sfn.val slot.val k.val ((s.slotCfg a sfn.val slot.val).msgWidth a width) prb0 data) := by
  have hair := (s.heard_notes p).sameAir
  have hid : (s.event 0xA 0x3000 (s.portHolder p.val)).eaxc p.val (id % 65536) sfn.val slot.val = some (a, st) :=
    (hair.eaxc p.val (id % 65536) sfn.val slot.val).trans h
  have hcfg := hair.slotCfg a sfn.val slot.val
  rw [State.unsupported, ← hcfg.staticHdr (State.eaxc_lt h), ← hcfg.msgWidth (State.eaxc_lt h)]
  change execFhUplaneRx p false frame ty id seq sfn slot k prb0 meth width data s = _
  unfold execFhUplaneRx
  simp only [hid, apply_ite Host.Outcome.next]
  rfl

end

/-! ### Uplink data by its time (R269, R276) -/

section
variable {x : State} {a start k : Nat}

theorem State.arrival_early (h : x.now (x.carTb a) < start + symOff (x.carNum a) k) : x.arrival a start k = 0 := if_pos h

theorem State.arrival_late (h : start + symOff (x.carNum a) k ≤ x.now (x.carTb a))
    (hlate : start + symOff (x.carNum a) (k + 1) + x.carArrMax a * usU < x.now (x.carTb a)) : x.arrival a start k = 2 :=
  (if_neg (Nat.not_lt.2 h)).trans (if_pos hlate)

theorem State.arrival_open (h : start + symOff (x.carNum a) k ≤ x.now (x.carTb a))
    (hopen : x.now (x.carTb a) ≤ start + symOff (x.carNum a) (k + 1) + x.carArrMax a * usU) : x.arrival a start k = 1 :=
  (if_neg (Nat.not_lt.2 h)).trans (if_neg (Nat.not_lt.2 hopen))

end

section
variable {s : State} {a sfn slot : Nat} (st k w p0 : Nat) (d : List Byte)

/-- Data for a slot with an accepted order. -/
theorem State.uplane_order {o : SlotOrd} (ho : s.orderAt a true sfn slot = some o) :
    s.uplane a st sfn slot k w p0 d =
      if (s.asOf o).arrival a o.start k = 0 then s.setFlag Reg.FH_FLAG 5 (some ((s.asOf o).carLdg a))
      else if (s.asOf o).arrival a o.start k = 2 then s.setFlag Reg.FH_FLAG 6 (some ((s.asOf o).carLdg a))
      else s.ingest o st k w p0 d := by
  simp only [State.uplane, State.slotCfg_some ho, ho]
  rfl

/-- UNSCHED is set for data of a slot that never had an order. -/
def State.unsched (s : State) (a sfn slot : Nat) : State :=
  s.setFlagIf (!(s.carOf a).seen.any fun y => y == (s.slotStart a sfn slot, true)) Reg.AIR_FLAG 7 (some (s.carLdg a))

theorem State.unsched_notes (s : State) (a sfn slot : Nat) : s.Notes (s.unsched a sfn slot) :=
  State.setFlagIf_notes _ _ _ _ _ (by decide) (by decide)

theorem State.unsched_flag {s : State} {a sfn slot : Nat} (h : ∀ y ∈ (s.carOf a).seen, y ≠ (s.slotStart a sfn slot, true)) :
    (s.unsched a sfn slot).rbit Reg.AIR_FLAG 7 = true := by
  have hno : (s.carOf a).seen.any (fun y => y == (s.slotStart a sfn slot, true)) = false := by simpa using h
  rw [State.unsched, hno, State.setFlagIf, if_pos (by rfl)]
  exact State.rbit_setFlag _ _ _ _ (by decide) (by decide)

/-- Data for a slot without an order. -/
theorem State.uplane_none (ho : s.orderAt a true sfn slot = none) :
    s.uplane a st sfn slot k w p0 d =
      if s.arrival a (s.slotStart a sfn slot) k = 0 then (s.unsched a sfn slot).setFlag Reg.FH_FLAG 5 (some (s.carLdg a))
      else if s.arrival a (s.slotStart a sfn slot) k = 2 then (s.unsched a sfn slot).setFlag Reg.FH_FLAG 6 (some (s.carLdg a))
      else s.unsched a sfn slot := by
  simp only [State.uplane, State.slotCfg_none ho, ho]
  rfl

/-- A flag of FH leaves the flags of the AIR block. -/
theorem State.airFlag_fhFlag (s : State) (bit i : Nat) (l : Option Nat) :
    (s.setFlag Reg.FH_FLAG bit l).rbit Reg.AIR_FLAG i = s.rbit Reg.AIR_FLAG i := by
  rw [State.rbit, State.rr_setFlag _ _ _ _ _ (by decide), if_neg (by decide), if_neg (by decide), State.rbit]

theorem State.uplane_none_notes (ho : s.orderAt a true sfn slot = none) : s.Notes (s.uplane a st sfn slot k w p0 d) := by
  rw [State.uplane_none _ _ _ _ _ ho]
  have hun := s.unsched_notes a sfn slot
  exact .ite (hun.trans (State.fhFlag_notes ..)) (.ite (hun.trans (State.fhFlag_notes ..)) hun)

theorem State.uplane_none_flag (ho : s.orderAt a true sfn slot = none)
    (hseen : ∀ y ∈ (s.carOf a).seen, y ≠ (s.slotStart a sfn slot, true)) :
    (s.uplane a st sfn slot k w p0 d).rbit Reg.AIR_FLAG 7 = true := by
  have hflag := State.unsched_flag hseen
  rw [State.uplane_none _ _ _ _ _ ho]
  split
  · rwa [State.airFlag_fhFlag]
  · split
    · rwa [State.airFlag_fhFlag]
    · exact hflag

end

/-! ### The message of a carrier's stream -/

section
variable {s : State} {p : Fin 12} {frame : FhFrame} {ty id : Nat} {sfn : Fin 1024} {slot : Fin 80} {a st meth width : Nat}
  (hid : s.eaxc p.val (id % 65536) sfn.val slot.val = some (a, st)) (seq : Nat) (k : Fin 14) (prb0 : Nat) (data : List Byte)
include hid

/-- A message that R263 does not list has used its sequence ID. -/
theorem exec_fhUplaneRx_unsupported (h : (s.slotCfg a sfn.val slot.val).unsupported frame ty a meth width = true) :
    ∃ t, exec (.fhUplaneRx p false frame ty id seq sfn slot k prb0 meth width data) s = .next t ∧ s.SeqNotes t ∧
      t.rbit Reg.FH_FLAG 4 = true := by
  rw [exec_fhUplaneRx_stream _ _ _ _ _ _ _ _ _ _ _ _ _ hid, if_pos h]
  exact ⟨_, rfl, (s.sequenced_notes ..).trans (.ofNotes (State.fhFlag_notes ..)), State.rbit_fhFlag _ (by decide) _⟩

theorem exec_fhUplaneRx_typeTwo (hframe : frameOk frame 2 = true) :
    exec (.fhUplaneRx p false frame 2 id seq sfn slot k prb0 meth width data) s = .next (s.sequenced p a st seq) := by
  have hok : ¬((s.slotCfg a sfn.val slot.val).unsupported frame 2 a meth width = true) := by
    rw [State.unsupported_iff]
    simp [hframe]
  rw [exec_fhUplaneRx_stream _ _ _ _ _ _ _ _ _ _ _ _ _ hid, if_neg hok, if_pos rfl]

variable (hok : (s.slotCfg a sfn.val slot.val).unsupported frame 0 a meth width = false)
include hok

theorem exec_fhUplaneRx_data :
    exec (.fhUplaneRx p false frame 0 id seq sfn slot k prb0 meth width data) s = .next ((s.sequenced p a st seq).uplane a st
      sfn.val slot.val k.val ((s.slotCfg a sfn.val slot.val).msgWidth a width) prb0 data) := by
  rw [exec_fhUplaneRx_stream _ _ _ _ _ _ _ _ _ _ _ _ _ hid, if_neg (Bool.eq_false_iff.1 hok), if_neg (by decide)]

theorem exec_fhUplaneRx_noOrder (ho : s.orderAt a true sfn.val slot.val = none) :
    ∃ t, exec (.fhUplaneRx p false frame 0 id seq sfn slot k prb0 meth width data) s = .next t ∧ s.SeqNotes t ∧
      ((∀ y ∈ (s.carOf a).seen, y ≠ (s.slotStart a sfn.val slot.val, true)) → t.rbit Reg.AIR_FLAG 7 = true) := by
  have hseq := s.sequenced_notes p a st seq
  have hnone := (hseq.sameAir.orderAt a true sfn.val slot.val).trans ho
  refine ⟨_, exec_fhUplaneRx_data hid seq k prb0 data hok, hseq.trans (.ofNotes (State.uplane_none_notes _ _ _ _ _ hnone)),
    fun hseen => State.uplane_none_flag _ _ _ _ _ hnone ?_⟩
  rwa [State.carOf, hseq.sameAir.car, hseq.sameAir.slotStart (State.eaxc_lt hid)]

/-- Data for a slot with an accepted order goes by its time, on the time base of the configuration that serves the slot. -/
theorem exec_fhUplaneRx_order {o : SlotOrd} (ho : s.orderAt a true sfn.val slot.val = some o) :
    ∃ u l, s.SeqNotes u ∧ exec (.fhUplaneRx p false frame 0 id seq sfn slot k prb0 meth width data) s = .next
      (if (s.asOf o).arrival a o.start k.val = 0 then u.setFlag Reg.FH_FLAG 5 l
        else if (s.asOf o).arrival a o.start k.val = 2 then u.setFlag Reg.FH_FLAG 6 l
        else u.ingest o st k.val ((s.slotCfg a sfn.val slot.val).msgWidth a width) prb0 data) := by
  have hseq := s.sequenced_notes p a st seq
  have horder := (hseq.sameAir.orderAt a true sfn.val slot.val).trans ho
  refine ⟨s.sequenced p a st seq, some (((s.sequenced p a st seq).asOf o).carLdg a), hseq, ?_⟩
  rw [exec_fhUplaneRx_data hid seq k prb0 data hok, State.uplane_order _ _ _ _ _ horder,
    (hseq.sameAir.asOf o).arrival (State.eaxc_lt hid)]

end

/-! ### The statement -/

/-- Settles O42: the row's branches, each decided by what the state before it reads, as flags and sequence IDs steer nothing there. -/
theorem fronthaulMessages : Obligations.FronthaulMessages := by
  intro s p bad frame ty id seq sfn slot k prb0 meth width data rx
  refine ⟨?_, ?_, ?_⟩
  · rintro rfl
    exact ⟨_, exec_fhUplaneRx_bad .., (s.heard_notes p).trans (State.fhFlag_notes ..), State.rbit_fhFlag _ (by decide) _⟩
  · rintro rfl hid
    exact ⟨_, exec_fhUplaneRx_unknown s p frame ty id seq sfn slot k prb0 meth width data hid,
      (s.heard_notes p).trans (State.fhFlag_notes ..), State.rbit_fhFlag _ (by split <;> decide) _⟩
  · rintro rfl a st hid x static listed
    have hstatic : static ↔ x.staticHdr a = true := (x.staticHdr_iff a).symm
    have hlisted : listed ↔ widthListed meth width = true := (widthListed_iff meth width).symm
    have hunsup := x.unsupported_iff frame ty a meth width
    refine ⟨fun hbad => exec_fhUplaneRx_unsupported hid seq k prb0 data (hunsup.2 ?_), fun hframe hty => ?_, fun hframe hty hhdr => ?_⟩
    · rwa [hstatic, hlisted, Bool.not_eq_true, Bool.not_eq_true] at hbad
    · subst hty
      exact ⟨_, exec_fhUplaneRx_typeTwo hid seq k prb0 data hframe, s.sequenced_notes ..⟩
    · subst hty
      have hok : x.unsupported frame 0 a meth width = false := by
        rw [← Bool.not_eq_true, hunsup]
        rw [hstatic, hlisted] at hhdr
        rcases hhdr with h | h <;> simp [hframe, h]
      refine ⟨exec_fhUplaneRx_noOrder hid seq k prb0 data hok, fun o ho => ?_⟩
      obtain ⟨u, l, hseq, hrow⟩ := exec_fhUplaneRx_order hid seq k prb0 data hok ho
      have hx : s.asOf o = x := (State.slotCfg_some ho).symm
      have hnow : s.now (x.carTb a) = x.now (x.carTb a) := by rw [← hx, State.now_asOf]
      rw [hx] at hrow
      dsimp only
      rw [hnow]
      refine ⟨fun hearly => ?_, fun hopen hlate => ?_, fun hopen hclose => ?_⟩
      · rw [State.arrival_early hearly, if_pos rfl] at hrow
        exact ⟨_, hrow, hseq.trans (.ofNotes (State.fhFlag_notes ..)), State.rbit_fhFlag _ (by decide) _⟩
      · rw [State.arrival_late hopen hlate, if_neg (by decide), if_pos rfl] at hrow
        exact ⟨_, hrow, hseq.trans (.ofNotes (State.fhFlag_notes ..)), State.rbit_fhFlag _ (by decide) _⟩
      · rw [State.arrival_open hopen hclose, if_neg (by decide), if_neg (by decide), State.msgWidth_eq] at hrow
        exact ⟨u, hseq.notes, hrow⟩

end Sys2Proof.Machine
end

section
/-! PROOFS. Carriers between ACQUIRE and TRACK (R285). -/
namespace Sys2Proof.Machine
open Sys2Proof

/-- STATE of a carrier: 1 in ACQUIRE, 2 in TRACK (R296). -/
def State.carState (s : State) (a : Nat) : Nat := s.gf (Reg.AIR_CAR_STAT a) Fld.AIR_CAR_STAT_STATE

theorem noteReg_carStat (a : Fin 8) : noteReg (Reg.AIR_CAR_STAT a.val) = false :=
  noteReg_carrier (by unfold Reg.AIR_CAR_STAT; omega) (by unfold Reg.AIR_CAR_STAT; omega)

/-! ### ACQUIRE is entered -/

section
variable {s : State} {a : Nat} (h : s.carOn a = true)
include h

theorem State.acquire_on : s.acquire a = (s.sf (Reg.AIR_CAR_STAT a) Fld.AIR_CAR_STAT_STATE 1).setCar a fun c =>
    { c with good := 0, bad := 0, pilotAt := 0 } := if_pos (beq_iff_eq.1 h)

theorem State.carState_acquire : (s.acquire a).carState a = 1 := by
  rw [State.acquire_on h]
  exact State.gf_sf_same s _ 1 (by decide)

theorem State.acquire_rr {b : Nat} (hb : b ≠ Reg.AIR_CAR_STAT a) : (s.acquire a).rr b = s.rr b := by
  rw [State.acquire_on h]
  exact State.rr_wr_other s _ _ b hb

theorem State.acquire_mem : (s.acquire a).mem = s.mem := by rw [State.acquire_on h]; rfl

theorem State.acquire_good : ((s.acquire a).carOf a).good = 0 := by
  rw [State.acquire_on h, State.carOf, State.setCar, tget_tmod, if_pos rfl]

end

/-- A carrier that leaves TRACK is in ACQUIRE, and TRACK_LOST shows it. -/
theorem State.trackLost_state {s : State} {a : Fin 8} (h : s.carOn a.val = true) :
    (s.trackLost a.val).carState a.val = 1 ∧ (s.trackLost a.val).rbit Reg.AIR_FLAG 3 = true := by
  have hflag : (s.acquire a.val).Notes (s.trackLost a.val) := State.setFlag_notes _ _ _ _ (by decide) (by decide)
  refine ⟨?_, State.rbit_setFlag _ _ _ _ (by decide) (by decide)⟩
  rw [State.carState, hflag.sameAir.gf (noteReg_carStat a)]
  exact State.carState_acquire h

/-! ### The end of S3 -/

section
variable (s : State) (a start : Nat) (pilots : Bool) (res : Int)

/-- One slot of a carrier, on its time base. -/
def State.slotLen : Nat := slotUs (s.carNum a) * usU

/-- The last slot with pilots that counts: none yet stands for the slot before. -/
def State.lastPilot : Nat := if (s.carOf a).pilotAt = 0 then start - s.slotLen a else (s.carOf a).pilotAt

/-- Slots gone without pilots at the end of S3 of a slot. -/
def State.slotsWithout : Nat := (start - s.lastPilot a start) / s.slotLen a - (if pilots then 1 else 0)

/-- Slots with pilots in a row whose residual was above 0.02 of the spacing. -/
def State.badRun : Nat :=
  if 2 * 65536 < 100 * res.natAbs then (if (s.carOf a).badAt + s.slotLen a = start then (s.carOf a).bad + 1 else 1) else 0

/-- Slots with pilots in a row whose residual was at most 0.005 of the spacing. -/
def State.goodRun : Nat := if 1000 * res.natAbs ≤ 5 * 65536 then (s.carOf a).good + 1 else 0

/-- The slot is noted as one with or without pilots. -/
def State.pilotNoted : State := s.setCar a fun c => { c with pilotAt := if pilots then start else s.lastPilot a start }

/-- The carrier enters TRACK. -/
def State.toTrack : State :=
  (s.sf (Reg.AIR_CAR_STAT a) Fld.AIR_CAR_STAT_STATE 2).setCar a fun c => { c with good := 0, bad := 0 }

theorem State.track_eq : s.track a start pilots res =
    if s.carState a = 2 ∧ 16 ≤ s.slotsWithout a start pilots then (s.pilotNoted a start pilots).trackLost a
    else if !pilots then s.pilotNoted a start pilots
    else if s.carState a = 2 then
      if 3 ≤ s.badRun a start res then (s.pilotNoted a start pilots).trackLost a
      else (s.pilotNoted a start pilots).setCar a fun c => { c with bad := s.badRun a start res, badAt := start }
    else if s.carState a = 1 then
      if 2 ≤ s.goodRun a res then (s.pilotNoted a start pilots).toTrack a
      else (s.pilotNoted a start pilots).setCar a fun c => { c with good := s.goodRun a res }
    else s.pilotNoted a start pilots := rfl

theorem State.carOn_pilotNoted : (s.pilotNoted a start pilots).carOn a = s.carOn a := rfl

end

theorem State.slotLen_pos (s : State) (a : Nat) : 0 < s.slotLen a := by
  unfold State.slotLen slotUs usU
  split
  · decide
  · split <;> decide

theorem State.carState_toTrack (s : State) (a : Nat) : (s.toTrack a).carState a = 2 := State.gf_sf_same s _ 2 (by decide)

section
variable {s : State} {a start : Nat} {res : Int}

theorem State.track_acquired (hst : s.carState a = 1) (hgood : 2 ≤ s.goodRun a res) :
    s.track a start true res = (s.pilotNoted a start true).toTrack a := by
  have hacq : ¬ s.carState a = 2 := by omega
  rw [State.track_eq, if_neg (fun h => hacq h.1), if_neg (by decide), if_neg hacq, if_pos hst, if_pos hgood]

theorem State.track_lost_bad (hst : s.carState a = 2) (hbad : 3 ≤ s.badRun a start res) :
    s.track a start true res = (s.pilotNoted a start true).trackLost a := by
  rw [State.track_eq, if_neg (show ¬(!true) = true by decide), if_pos hst, if_pos hbad, ite_self]

theorem State.track_lost_without {pilots : Bool} (hst : s.carState a = 2) (hgone : 16 ≤ s.slotsWithout a start pilots) :
    s.track a start pilots res = (s.pilotNoted a start pilots).trackLost a := by
  rw [State.track_eq, if_pos ⟨hst, hgone⟩]

theorem State.slotsWithout_of_pilotAt (h0 : (s.carOf a).pilotAt ≠ 0) {n : Nat} (h : (s.carOf a).pilotAt + n * s.slotLen a ≤ start) :
    n ≤ s.slotsWithout a start false := by
  rw [State.slotsWithout, State.lastPilot, if_neg h0]
  exact (Nat.le_div_iff_mul_le (s.slotLen_pos a)).2 (by omega)

end

/-! ### REACQ -/

theorem exec_reacq {who : Requester} {a : Fin 8} {s : State} (h : s.reach who (Reg.AIR_CAR_CTL a.val) true = true) :
    exec (.reacq who a) s = .next (if s.carState a.val = 2 ∧ !s.carDebug a.val then s.acquire a.val else s) :=
  congrArg _ (if_pos h)

/-- Settles O44: the two ways out of TRACK lead to trackLost, the way in to toTrack; REACQ is the entry into ACQUIRE. -/
theorem carrierTracking : Obligations.CarrierTracking := by
  intro s a start res who c st len
  refine ⟨fun hst hgood hres => ?_, fun hon hst hbad hrow hres => ?_, fun hon hst hpilot hgone => ?_,
    fun hreach => ⟨fun hst => ?_, fun hon hst hdbg => ?_⟩⟩
  · have hrun : 2 ≤ s.goodRun a.val res := by
      rw [State.goodRun, if_pos hres]
      exact Nat.succ_le_succ hgood
    rw [State.track_acquired hst hrun]
    exact State.carState_toTrack ..
  · have hrun : 3 ≤ s.badRun a.val start res := by
      rw [State.badRun, if_pos hres]
      exact Nat.le_trans (Nat.succ_le_succ hbad) (Nat.le_of_eq (if_pos hrow).symm)
    rw [State.track_lost_bad hst hrun]
    exact State.trackLost_state ((State.carOn_pilotNoted ..).trans hon)
  · rw [State.track_lost_without hst (State.slotsWithout_of_pilotAt hpilot hgone)]
    exact State.trackLost_state ((State.carOn_pilotNoted ..).trans hon)
  · exact (exec_reacq hreach).trans (congrArg _ (if_neg fun h => hst h.1))
  · exact ⟨s.acquire a.val, (exec_reacq hreach).trans (congrArg _ (if_pos ⟨hst, by simp [hdbg]⟩)), State.carState_acquire hon,
      State.acquire_good hon, State.acquire_mem hon, fun b => State.acquire_rr hon⟩

end Sys2Proof.Machine
end

section
/-! PROOFS. Uplink symbols, stages and deadlines (R269, R277 to R280, R289, R291). -/
namespace Sys2Proof.Machine
open Sys2Proof

/-! ### PRBs that have not come (R269) -/

/-- The tier begins above every other store (R193). -/
theorem State.outside_tier (s : State) {a : Nat} (h : a < tierAddr) : s.inTier a = false := by
  have hlow : ¬(tierAddr ≤ a ∧ a < tierAddr + s.tierBytes) := fun ht => Nat.not_le.2 h ht.1
  refine beq_false_of_ne ?_
  unfold State.place
  rw [if_neg hlow]
  dsimp only
  repeat' split
  all_goals exact Place.noConfusion

/-- One PRB's samples are 0. -/
def State.zeroPrb (s : State) (l a k : Nat) (m : Nat × Nat) : State := s.put l (ulIq a m.1 k + 48 * m.2) 48 0

/-- A PRB's samples lie in the wing stores or in the hole behind them (R280). -/
theorem ulIq_below_tier (a st k : Nat) {p : Nat} (h : p < 1024) : ulIq a st k + 48 * p < tierAddr := by
  have hplace : Config.airPlace a 0 (14 * st + k) % 0x8000000 < 0x8000000 := Nat.mod_lt _ (by decide)
  unfold ulIq airAt wingAddr tierAddr
  omega

/-- A PRB of zeros changes memory and poison only. -/
theorem State.zeroPrb_rest (s : State) (l a k : Nat) {m : Nat × Nat} (h : m.2 < 1024) :
    s.zeroPrb l a k m = { s with mem := (s.zeroPrb l a k m).mem, poison := (s.zeroPrb l a k m).poison } :=
  State.put_outside_rest l 48 0 (s.outside_tier (ulIq_below_tier a m.1 k h))

theorem State.rb_zeroPrb (s : State) (l a k : Nat) {m : Nat × Nat} (h : m.2 < 1024) {i : Nat} (hi : i < 48) :
    (s.zeroPrb l a k m).rb (ulIq a m.1 k + 48 * m.2 + i) = 0 := by
  rw [State.zeroPrb, State.rb_put_outside _ _ _ _ (s.outside_tier (ulIq_below_tier a m.1 k h)), State.rb_wrLE_inside _ _ _ hi, Nat.zero_div]
  rfl

/-- A byte that is 0 stays so. -/
theorem State.rb_zeroPrb_of_zero {s : State} (l a k : Nat) {m : Nat × Nat} (h : m.2 < 1024) {b : Nat} (hb : s.rb b = 0) :
    (s.zeroPrb l a k m).rb b = 0 := by
  by_cases hin : ulIq a m.1 k + 48 * m.2 ≤ b ∧ b < ulIq a m.1 k + 48 * m.2 + 48
  · obtain ⟨i, rfl⟩ := Nat.exists_eq_add_of_le hin.1
    exact s.rb_zeroPrb l a k h (by omega)
  · rw [State.zeroPrb, State.rb_put_outside _ _ _ _ (s.outside_tier (ulIq_below_tier a m.1 k h)), State.rb_wrLE_outside _ _ _ hin, hb]

/-- Every PRB of a list is 0. -/
def State.zeroPrbs (s : State) (l a k : Nat) (ms : List (Nat × Nat)) : State := ms.foldl (fun s m => s.zeroPrb l a k m) s

section
variable (s : State) (l a k : Nat) {ms : List (Nat × Nat)} (h : ∀ m ∈ ms, m.2 < 1024)
include h

theorem State.zeroPrbs_rest :
    s.zeroPrbs l a k ms = { s with mem := (s.zeroPrbs l a k ms).mem, poison := (s.zeroPrbs l a k ms).poison } :=
  List.foldlRecOn (motive := fun u : State => u = { s with mem := u.mem, poison := u.poison }) ms _ rfl fun u hu m hm => by
    rw [u.zeroPrb_rest l a k (h m hm), hu]

theorem State.rb_zeroPrbs_of_zero {b : Nat} (hb : s.rb b = 0) : (s.zeroPrbs l a k ms).rb b = 0 :=
  List.foldlRecOn (motive := fun u : State => u.rb b = 0) ms _ hb fun _ hu m hm => State.rb_zeroPrb_of_zero l a k (h m hm) hu

theorem State.rb_zeroPrbs {m : Nat × Nat} (hm : m ∈ ms) {i : Nat} (hi : i < 48) :
    (s.zeroPrbs l a k ms).rb (ulIq a m.1 k + 48 * m.2 + i) = 0 := by
  induction ms generalizing s with
  | nil => cases hm
  | cons x ms ih =>
    obtain ⟨hx, hms⟩ := List.forall_mem_cons.1 h
    rcases List.mem_cons.1 hm with rfl | hm
    · exact State.rb_zeroPrbs_of_zero _ l a k hms (s.rb_zeroPrb l a k hx hi)
    · exact ih _ hms hm

theorem State.zeroPrbs_sameAir : s.SameAir (s.zeroPrbs l a k ms) := by
  rw [s.zeroPrbs_rest l a k h]
  exact ⟨fun _ _ => rfl, rfl, rfl⟩

end

/-- A PRB number has ten bits. -/
theorem State.carPrb_lt (s : State) (a : Nat) : s.carPrb a < 1024 := getF_lt _ Fld.AIR_CAR_CFG0_NPRB

theorem State.missing_lt (s : State) (o : SlotOrd) (k : Nat) : ∀ m ∈ s.missing o k, m.2 < 1024 := by
  intro m hm
  simp only [State.missing, List.mem_flatMap, List.mem_map, List.mem_filter, List.mem_range] at hm
  obtain ⟨st, -, p, ⟨hp, -⟩, rfl⟩ := hm
  exact Nat.lt_trans hp (State.carPrb_lt _ _)

/-! ### A symbol is ingested (R279) -/

theorem State.rb_signal (s : State) (o n b : Nat) : (s.signal o n).rb b = s.rb b := by
  rw [State.rb, (s.signal_low o n).mem, State.rb, State.wr_mem]

theorem State.symDone_count (s : State) (o : SlotOrd) (k : Nat) :
    (s.symDone o k).syncCount ((s.asOf o).carObj o.car) = min (s.syncCount ((s.asOf o).carObj o.car) + 1) (2 ^ 32 - 1) :=
  State.syncCount_signal _ (Nat.lt_of_le_of_lt (State.carObj_le _ _) (by decide)) 1

theorem State.rb_symDone (s : State) (o : SlotOrd) (k b : Nat) : (s.symDone o k).rb b = s.rb b := State.rb_signal _ _ _ _

/-- What the end of a stage after S1 that began at t leads to (R278, R285, R291). -/
def State.endBegun (s : State) (o : SlotOrd) (a k t : Nat) (res foff sroff : Int) : State :=
  if k = 3 then ((s.stageEnd { o with off := (res, foff, sroff) } 3 t).offsets o foff sroff).track a o.start (o.dmrs != 0) res
  else if k = 7 && !o.decoded then s
  else if k = 8 then
    if s.owes o.l .air || s.owes o.l .ldpc then s else (s.lateIf o t (window 8 ((s.asOf o).carNum a))).ulFinish o none
  else s.stageEnd o k t

section
variable {s : State} {a : Fin 8} {sfn : Fin 1024} {slot : Fin 80} {o : SlotOrd}
  (ho : s.orderAt a.val true sfn.val slot.val = some o)
include ho

theorem exec_arrMaxExpiry_early {k : Fin 14} (h : s.oNow o < s.airEnd o k.val + (s.asOf o).carArrMax a.val * usU) :
    exec (.arrMaxExpiry a sfn slot k) s = .next s := by
  change execArrMaxExpiry a sfn slot k s = _
  simp [execArrMaxExpiry, ho, h]

/-- The symbol's missing PRBs are 0, the flag says whether there were any. -/
theorem exec_arrMaxExpiry_due {k : Fin 14} (h : s.airEnd o k.val + (s.asOf o).carArrMax a.val * usU ≤ s.oNow o)
    (hnew : o.has (100 + k.val) = false) :
    exec (.arrMaxExpiry a sfn slot k) s = .next (((s.zeroPrbs o.l a.val k.val (s.missing o k.val)).setFlagIf
      (!(s.missing o k.val).isEmpty) Reg.AIR_FLAG 2 (some o.l)).symDone o k.val) := by
  change execArrMaxExpiry a sfn slot k s = _
  simp only [execArrMaxExpiry, ho, hnew, decide_eq_false (Nat.not_lt.2 h), Bool.or_self, Bool.false_eq_true, if_false]
  rfl

theorem exec_arrMaxExpiry_ingests {k : Fin 14} (h : s.airEnd o k.val + (s.asOf o).carArrMax a.val * usU ≤ s.oNow o)
    (hnew : o.has (100 + k.val) = false) (hcar : o.car = a.val) :
    ∃ t, exec (.arrMaxExpiry a sfn slot k) s = .next t ∧
      t.syncCount ((s.asOf o).carObj a.val) = min (s.syncCount ((s.asOf o).carObj a.val) + 1) (2 ^ 32 - 1) ∧
      ∀ m ∈ s.missing o k.val, ∀ i, i < 48 → t.rb (ulIq a.val m.1 k.val + 48 * m.2 + i) = 0 := by
  have hlt := s.missing_lt o k.val
  have hflag := State.setFlagIf_notes (s.zeroPrbs o.l a.val k.val (s.missing o k.val)) (!(s.missing o k.val).isEmpty) Reg.AIR_FLAG 2
    (some o.l) (by decide) (by decide)
  have hair := (s.zeroPrbs_sameAir o.l a.val k.val hlt).trans hflag.sameAir
  refine ⟨_, exec_arrMaxExpiry_due ho h hnew, ?_, fun m hm i hi => ?_⟩
  · have hcount := State.symDone_count ((s.zeroPrbs o.l a.val k.val (s.missing o k.val)).setFlagIf (!(s.missing o k.val).isEmpty)
      Reg.AIR_FLAG 2 (some o.l)) o k.val
    rwa [hcar, (hair.asOf o).carObj a.isLt, hair.syncCount (Nat.lt_of_le_of_lt (State.carObj_le _ _) (by decide))] at hcount
  · rw [State.rb_symDone, hflag.rb]
    exact s.rb_zeroPrbs o.l a.val k.val hlt hm hi

/-! ### Stages and deadlines (R278, R291) -/

/-- S1 ends a symbol that has come whole. -/
theorem exec_uplinkStageEnd_symbol {k : Fin 9} {sym : Fin 14} (res foff sroff : Int) (hk : k.val = 1)
    (hnew : o.has (100 + sym.val) = false) (hfull : s.symFull o sym.val = true) :
    exec (.uplinkStageEnd a sfn slot k sym res foff sroff) s = .next
      ((s.lateIf o ((o.endOf (200 + sym.val)).getD 0) (window 1 ((s.asOf o).carNum a.val))).symDone o sym.val) := by
  change execUplinkStageEnd a sfn slot k sym res foff sroff s = _
  simp [execUplinkStageEnd, ho, hk, hnew, hfull]

theorem exec_uplinkStageEnd_notBegun {k : Fin 9} (sym : Fin 14) (res foff sroff : Int) (hk : k.val ≠ 1)
    (hbegin : s.stageBegin o k.val = none) : exec (.uplinkStageEnd a sfn slot k sym res foff sroff) s = .next s := by
  change execUplinkStageEnd a sfn slot k sym res foff sroff s = _
  simp [execUplinkStageEnd, ho, hk, hbegin]

theorem exec_uplinkStageEnd_begun {k : Fin 9} (sym : Fin 14) (res foff sroff : Int) {t : Nat} (hk : k.val ≠ 1)
    (hnew : o.has k.val = false) (hbegin : s.stageBegin o k.val = some t) :
    exec (.uplinkStageEnd a sfn slot k sym res foff sroff) s = .next (s.endBegun o a.val k.val t res foff sroff) := by
  change execUplinkStageEnd a sfn slot k sym res foff sroff s = _
  simp [execUplinkStageEnd, State.endBegun, ho, hk, hnew, hbegin, apply_ite Host.Outcome.next]

theorem exec_deadline : exec (.deadline a sfn slot) s = .next
    (if s.carDebug a.val || decide (s.oNow o < s.deadlineOf o) then s
    else (s.ulFinish o (some St.timeout)).setFlagIf (!o.blks.isEmpty) Reg.AIR_FLAG 0 (some o.l)) := by
  change execDeadline a sfn slot s = _
  simp only [execDeadline, ho, apply_ite Host.Outcome.next]

end

/-- A slot without an accepted order has no symbols, stages or deadline. -/
theorem exec_uplink_noOrder {s : State} {a : Fin 8} {sfn : Fin 1024} {slot : Fin 80} (ho : s.orderAt a.val true sfn.val slot.val = none)
    (k : Fin 9) (sym : Fin 14) (res foff sroff : Int) :
    exec (.arrMaxExpiry a sfn slot sym) s = .next s ∧ exec (.uplinkStageEnd a sfn slot k sym res foff sroff) s = .next s ∧
      exec (.deadline a sfn slot) s = .next s := by
  change execArrMaxExpiry a sfn slot sym s = _ ∧ execUplinkStageEnd a sfn slot k sym res foff sroff s = _ ∧ execDeadline a sfn slot s = _
  simp [execArrMaxExpiry, execUplinkStageEnd, execDeadline, ho]

/-- Settles O43: the branches of the three rows; zeros are stored below the tier, so later ones leave earlier ones 0, and a signal
leaves memory. -/
theorem uplinkSlotsRunTheirStages : Obligations.UplinkSlotsRunTheirStages := by
  intro s a sfn slot k sym res foff sroff
  refine ⟨fun ho => exec_uplink_noOrder ho k sym res foff sroff, fun o ho => ?_⟩
  refine ⟨exec_arrMaxExpiry_early ho, exec_arrMaxExpiry_ingests ho, exec_uplinkStageEnd_symbol ho res foff sroff,
    exec_uplinkStageEnd_notBegun ho sym res foff sroff, fun t hk hnew hbegin => ?_, fun hearly => ?_, fun hdbg => ?_, fun hdbg hdue => ?_⟩
  · rw [exec_uplinkStageEnd_begun ho sym res foff sroff hk hnew hbegin]
    refine ⟨?_, fun h3 => ?_, fun h7 => ?_, fun h8 => ?_⟩
    · rintro (h | h | h | h) <;> simp [State.endBegun, h]
    · simp [State.endBegun, h3]
    · cases hdec : o.decoded <;> simp [State.endBegun, h7, hdec]
    · simp [State.endBegun, h8]
  · rw [exec_deadline ho, decide_eq_true hearly, Bool.or_true, if_pos rfl]
  · rw [exec_deadline ho, hdbg, Bool.true_or, if_pos rfl]
  · rw [exec_deadline ho, hdbg, decide_eq_false (Nat.not_lt.2 hdue), Bool.or_false, if_neg Bool.false_ne_true]

end Sys2Proof.Machine
end

section
/-! PROOFS. Slot orders and the downlink (R274, R276, R277, R279, R287, R288, R587). -/
namespace Sys2Proof.Machine
open Sys2Proof

/-! ### Orders on their way to the AIR block (R276, R587) -/

theorem exec_slotOrderEntry_plain {s : State} {l : Fin 16} {e : Sub} (hsub : s.nextSub l.val = some e) (hty : e.ty = 2)
    (hconf : s.conf l.val = false) (hplain : e.badPlain = false) : exec (.slotOrderEntry l) s = .next
      { s.tookSub l.val with airIn := (s.tookSub l.val).airIn ++ [(l.val, (s.ringsOf l.val).taken, e.idx, e.reg, e.off)] } := by
  change execSlotOrderEntry l s = _
  simp [execSlotOrderEntry, subRow, hsub, hty, hconf, hplain]

theorem exec_slotOrder_waits {s : State} {l : Fin 16} (h : (∀ x ∈ s.airIn, x.1 ≠ l.val) ∨ s.owes l.val .air = true) :
    exec (.slotOrder l) s = .next s := by
  change execSlotOrder l s = _
  by_cases howes : s.owes l.val .air = true
  · exact if_pos howes
  · have hnone : s.airIn.find? (fun x => x.1 == l.val) = none :=
      List.find?_eq_none.2 fun x hx => by simpa using h.resolve_right howes x hx
    simp [execSlotOrder, howes, hnone]

theorem exec_slotOrder_takes {s : State} {l : Fin 16} (howes : s.owes l.val .air = false) {no idx reg off : Nat}
    {rest : List (Nat × Nat × Nat × Nat × Nat)} (hin : s.airIn = (l.val, no, idx, reg, off) :: rest) :
    exec (.slotOrder l) s = .next ({ s with airIn := rest }.takeOrder l.val no idx reg off) := by
  change execSlotOrder l s = _
  simp [execSlotOrder, howes, hin]

/-! ### Downlink stages (R279, R287, R289) -/

theorem State.syncCount_setOrder (s : State) (o : SlotOrd) (b : Nat) : (s.setOrder o).syncCount b = s.syncCount b := rfl

section
variable {s : State} {a : Fin 8} {sfn : Fin 1024} {slot : Fin 80} {o : SlotOrd}
  (ho : s.orderAt a.val false sfn.val slot.val = some o)
include ho

theorem exec_downlinkStageEnd_notEncoded (k : Fin 14) (h : ∃ b ∈ o.blks, b.cbs = []) :
    exec (.downlinkStageEnd a sfn slot false k) s = .next s := by
  have hany : (o.blks.any fun b => b.cbs.isEmpty) = true := by simpa using h
  change execDownlinkStageEnd a sfn slot false k s = _
  simp only [execDownlinkStageEnd, ho, hany, Bool.or_true, Bool.false_eq_true, if_false, if_true]

/-- D1 ends: its window is looked at, the end noted, object b + 8 signalled. -/
theorem exec_downlinkStageEnd_encoded (k : Fin 14) (hnew : o.has 1 = false) (h : ∀ b ∈ o.blks, b.cbs ≠ []) :
    exec (.downlinkStageEnd a sfn slot false k) s = .next
      (((s.lateIf o ((o.endOf 0).getD 0) (dlWindow 1 ((s.asOf o).carNum a.val))).setOrder (o.mark 1 (s.oNow o))).signal
        (((s.lateIf o ((o.endOf 0).getD 0) (dlWindow 1 ((s.asOf o).carNum a.val))).asOf o).carObj a.val + 8) 1) := by
  have hany : (o.blks.any fun b => b.cbs.isEmpty) = false := by simpa using h
  change execDownlinkStageEnd a sfn slot false k s = _
  simp only [execDownlinkStageEnd, ho, hnew, hany, Bool.or_false, Bool.false_eq_true, if_false]

theorem exec_downlinkStageEnd_counts (k : Fin 14) (hnew : o.has 1 = false) (h : ∀ b ∈ o.blks, b.cbs ≠ []) :
    ∃ t, exec (.downlinkStageEnd a sfn slot false k) s = .next t ∧ t.mem = s.mem ∧
      t.syncCount ((s.asOf o).carObj a.val + 8) = min (s.syncCount ((s.asOf o).carObj a.val + 8) + 1) (2 ^ 32 - 1) := by
  have hlate := s.lateIf_notes o ((o.endOf 0).getD 0) (dlWindow 1 ((s.asOf o).carNum a.val))
  have hobj : (s.asOf o).carObj a.val + 8 < 4096 := Nat.lt_of_le_of_lt (Nat.add_le_add_right (State.carObj_le _ _) 8) (by decide)
  refine ⟨_, exec_downlinkStageEnd_encoded ho k hnew h, ?_, ?_⟩
  · rw [(State.signal_low _ _ _).mem, State.wr_mem, State.setOrder, State.setCar_mem, hlate.rest]
  · rw [(hlate.sameAir.asOf o).carObj a.isLt, State.syncCount_signal _ hobj, State.syncCount_setOrder, hlate.sameAir.syncCount hobj]

theorem exec_downlinkStageEnd_beforeD1 (k : Fin 14) (h : o.endOf 1 = none) :
    exec (.downlinkStageEnd a sfn slot true k) s = .next s := by
  change execDownlinkStageEnd a sfn slot true k s = _
  simp only [execDownlinkStageEnd, ho, h, if_true]

/-- D2 of a symbol; with another symbol ready before it, its window has been looked at. -/
theorem exec_downlinkStageEnd_symbol {k : Fin 14} {t : Nat} (h : o.endOf 1 = some t) (hnew : o.has (100 + k.val) = false)
    (hearlier : ∃ x ∈ o.ends, 100 ≤ x.1) (howes : s.owes o.l .air = false) :
    exec (.downlinkStageEnd a sfn slot true k) s = .next ((s.d2 o k.val).setOrder (o.mark (100 + k.val) (s.oNow o))) := by
  have hany : (o.ends.any fun x => decide (100 ≤ x.1)) = true := by simpa using hearlier
  change execDownlinkStageEnd a sfn slot true k s = _
  simp only [execDownlinkStageEnd, ho, h, hnew, howes, hany, Bool.or_self, Bool.false_eq_true, if_false, if_true]

/-! ### Symbols to send (R288) -/

theorem exec_dlSymbolSend_early (h : s.oNow o < s.sendAt o) : exec (.dlSymbolSend a sfn slot) s = .next s := by
  change execDlSymbolSend a sfn slot s = _
  simp only [execDlSymbolSend, ho, if_pos h]

theorem exec_dlSymbolSend_due (h : s.sendAt o ≤ s.oNow o) : exec (.dlSymbolSend a sfn slot) s = .next
    (if (o.endOf (100 + o.syms)).any fun t => decide (t ≤ s.sendAt o) then s.sendSym o
    else (s.dlNext o true).setFlag Reg.AIR_FLAG 5 (some o.l)) := by
  change execDlSymbolSend a sfn slot s = _
  simp only [execDlSymbolSend, ho, if_neg (Nat.not_lt.2 h), apply_ite Host.Outcome.next]

theorem exec_dlSymbolSend_ready (h : s.sendAt o ≤ s.oNow o) {t : Nat} (hend : o.endOf (100 + o.syms) = some t) (hready : t ≤ s.sendAt o) :
    exec (.dlSymbolSend a sfn slot) s = .next (s.sendSym o) := by
  rw [exec_dlSymbolSend_due ho h, hend, Option.any_some, if_pos (decide_eq_true hready)]

theorem exec_dlSymbolSend_notReady (h : s.sendAt o ≤ s.oNow o) (hlate : ∀ t, o.endOf (100 + o.syms) = some t → s.sendAt o < t) :
    exec (.dlSymbolSend a sfn slot) s = .next ((s.dlNext o true).setFlag Reg.AIR_FLAG 5 (some o.l)) := by
  rw [exec_dlSymbolSend_due ho h, if_neg]
  intro hany
  obtain ⟨t, hend, hready⟩ := (Option.any_eq_true _ _).1 hany
  exact Nat.not_lt.2 (of_decide_eq_true hready) (hlate t hend)

end

/-! ### Counters of the port's block (R494) -/

/-- Counting an event leaves every register outside the counter window of its own block. -/
theorem State.count_rr_block (fuel : Nat) (s : State) (blk ev : Nat) (l : Option Nat) (n : Nat) {b : Nat}
    (hb : b < Reg.CNT_SEL blk 0 ∨ Reg.CNT_OVF blk + 8 ≤ b) : (s.count fuel blk ev l n).rr b = s.rr b := by
  induction fuel generalizing s ev n with
  | zero => rfl
  | succ fuel ih =>
    refine List.foldlRecOn (motive := fun u : State => u.rr b = s.rr b) (List.range 8) _ rfl fun u hu i hi => ?_
    have hi : i < 8 := List.mem_range.1 hi
    unfold Reg.CNT_SEL Reg.CNT_OVF at hb
    have hset (v : Nat) : (u.setCnt blk i v).rr b = s.rr b := by
      rw [State.setCnt, State.rr_sf, if_neg (by unfold Reg.CNT_HI; omega), State.rr_wr_other _ _ _ _ (by unfold Reg.CNT_LO; omega), hu]
    have hraise (w : State) : (w.raise (Reg.CNT_OVF blk) i).rr b = w.rr b := by
      rw [State.raise, State.rr_msg, State.rr_wr_other _ _ _ _ (by unfold Reg.CNT_OVF; omega),
        State.rr_wr_other _ _ _ _ (by unfold Reg.CNT_OVF; omega)]
    dsimp only
    split
    · split
      · rw [ih, hraise, hset]
      · exact hset _
    · exact hu

/-! ### C-plane messages (R265, R288) -/

/-- Key of a stream's sequence ID in the sending direction. -/
def sendKey (car st : Nat) : Nat := 2 * (16 * car + st) + 1

/-- The message of a stream that is sent next. -/
def State.nextMsg (s : State) (o : SlotOrd) (plane k : Nat) (d : List Byte) (st : Nat) : FhMsg :=
  ⟨(s.asOf o).gf (Reg.AIR_CAR_CFG0 o.car) Fld.AIR_CAR_CFG0_FH_PORT, plane, (s.asOf o).eaxcOf o.car st, o.car, st, k,
    tget (fun _ => 0) s.fhSeq (sendKey o.car st), d⟩

/-- One message on each of the first n streams has been handed over: counters of the port's block and the sequence IDs of these streams
apart, what a message is made of is as it was. -/
structure State.Handed (o : SlotOrd) (plane k : Nat) (d : List Byte) (s : State) (n : Nat) (t : State) : Prop where
  mem : t.mem = s.mem
  host : t.host = s.host
  tx : t.fhTx = s.fhTx ++ (List.range n).map (s.nextMsg o plane k d)
  seq : ∀ st, n ≤ st → tget (fun _ => 0) t.fhSeq (sendKey o.car st) = tget (fun _ => 0) s.fhSeq (sendKey o.car st)
  regs : ∀ b, b < Reg.CNT_SEL 0xA 0 ∨ Reg.CNT_OVF 0xA + 8 ≤ b → t.rr b = s.rr b

theorem State.fhSend_eq (s : State) (o : SlotOrd) (plane st k : Nat) (d : List Byte) :
    s.fhSend o plane st k d = { s.event 0xA 0x3001 (some o.l) with
      fhSeq := tput (fun _ => 0) (s.event 0xA 0x3001 (some o.l)).fhSeq (sendKey o.car st)
        ((tget (fun _ => 0) s.fhSeq (sendKey o.car st) + 1) % 65536)
      fhTx := (s.event 0xA 0x3001 (some o.l)).fhTx ++ [s.nextMsg o plane k d st] } := rfl

/-- Registers that a message is made of are none of the port's counters. -/
theorem State.Handed.nextMsg {o : SlotOrd} {plane k n : Nat} {d : List Byte} {s t : State} (h : s.Handed o plane k d n t) :
    t.nextMsg o plane k d n = s.nextMsg o plane k d n := by
  have hcfg : (t.asOf o).rr (Reg.AIR_CAR_CFG0 o.car) = (s.asOf o).rr (Reg.AIR_CAR_CFG0 o.car) :=
    State.rr_asOf o (h.regs _ (.inr (by unfold Reg.CNT_OVF Reg.AIR_CAR_CFG0; omega)))
  have heaxc : (t.asOf o).rr Reg.FH_EAXC = (s.asOf o).rr Reg.FH_EAXC := State.rr_asOf o (h.regs _ (.inl (by decide)))
  simp only [State.nextMsg, State.eaxcOf, State.gf, hcfg, heaxc, h.seq n (Nat.le_refl n)]

theorem State.handed_fold (s : State) (o : SlotOrd) (plane k : Nat) (d : List Byte) (n : Nat) :
    s.Handed o plane k d n ((List.range n).foldl (fun s st => s.fhSend o plane st k d) s) := by
  induction n with
  | zero => exact ⟨rfl, rfl, (List.append_nil _).symm, fun _ _ => rfl, fun _ _ => rfl⟩
  | succ n ih =>
    rw [List.range_succ, List.foldl_append]
    generalize (List.range n).foldl (fun s st => s.fhSend o plane st k d) s = u at ih ⊢
    have hnote : u.Notes (u.event 0xA 0x3001 (some o.l)) := State.event_notes ..
    rw [List.foldl_cons, List.foldl_nil, State.fhSend_eq]
    refine ⟨?_, ?_, ?_, fun st hst => ?_, fun b hb => ?_⟩
    · exact (show _ = u.mem by rw [hnote.rest]).trans ih.mem
    · exact (show _ = u.host by rw [hnote.rest]).trans ih.host
    · have htx : (u.event 0xA 0x3001 (some o.l)).fhTx = u.fhTx := by rw [hnote.rest]
      rw [htx, ih.tx, ih.nextMsg, List.range_succ, List.map_append, List.append_assoc]
      rfl
    · have hseq : (u.event 0xA 0x3001 (some o.l)).fhSeq = u.fhSeq := by rw [hnote.rest]
      rw [hseq, tget_tput_other _ _ _ _ _ (by unfold sendKey; omega)]
      exact ih.seq st (by omega)
    · exact (State.count_rr_block _ _ _ _ _ _ hb).trans (ih.regs b hb)

/-- Direction, SFN, slot and beam (log 20). -/
def cplaneBytes (ul : Bool) (o : SlotOrd) : List Byte := [if ul then 0 else 1] ++ beBytes 2 o.sfn ++ beBytes 1 o.slot ++ beBytes 2 o.beam

section
variable {s : State} {a : Fin 8} {ul : Bool} {sfn : Fin 1024} {slot : Fin 80} {o : SlotOrd}
  (ho : s.orderAt a.val ul sfn.val slot.val = some o)
include ho

theorem exec_cplaneSend_early (h : s.oNow o + (s.asOf o).carCpAdv a.val * usU < o.start) :
    exec (.cplaneSend a ul sfn slot) s = .next s := by
  change execCplaneSend a ul sfn slot s = _
  simp only [execCplaneSend, ho, decide_eq_true h, Bool.or_true, if_true]

theorem exec_cplaneSend_due (hnew : o.cplane = false) (h : o.start ≤ s.oNow o + (s.asOf o).carCpAdv a.val * usU) :
    exec (.cplaneSend a ul sfn slot) s = .next (((List.range (if ul then (s.asOf o).carUl a.val else (s.asOf o).carDl a.val)).foldl
      (fun s st => s.fhSend o 0 st 0 (cplaneBytes ul o)) s).setOrder { o with cplane := true }) := by
  change execCplaneSend a ul sfn slot s = _
  simp only [execCplaneSend, ho, hnew, decide_eq_false (Nat.not_lt.2 h), Bool.or_self, Bool.false_eq_true, if_false]
  rfl

end

/-- Settles O45: each row under its occasion; the messages of a slot's streams are made of what those before them leave. -/
theorem slotOrdersAndDownlink : Obligations.SlotOrdersAndDownlink := by
  intro s l a ul sfn slot k
  refine ⟨fun e => exec_slotOrderEntry_plain, exec_slotOrder_waits, fun howes no idx reg off rest => exec_slotOrder_takes howes,
    fun o ho => ?_, fun o ho => ?_⟩
  · exact ⟨fun _ => exec_downlinkStageEnd_notEncoded ho k, exec_downlinkStageEnd_counts ho k, exec_downlinkStageEnd_beforeD1 ho k,
      fun t => exec_downlinkStageEnd_symbol ho, exec_dlSymbolSend_early ho,
      fun hdue => ⟨fun t => exec_dlSymbolSend_ready ho hdue, exec_dlSymbolSend_notReady ho hdue⟩⟩
  · refine ⟨exec_cplaneSend_early ho, fun hnew hdue => ?_⟩
    have hsent := s.handed_fold o 0 0 (cplaneBytes ul o) (if ul then (s.asOf o).carUl a.val else (s.asOf o).carDl a.val)
    exact ⟨_, exec_cplaneSend_due ho hnew hdue, hsent.mem, hsent.host, cplaneBytes ul o, hsent.tx⟩

end Sys2Proof.Machine
end

section
/-! PROOFS. What the LDPC block reads and leaves: fields of a register, charges, interrupts, bytes read for a lodging (R216, R362,
R518). -/
namespace Sys2Proof.Machine
open Sys2Proof

/-! ### Fields of one register -/

theorem testBit_getF (w : Word) (f : Fld) (i : Nat) :
    (getF w f).testBit i = (decide (i < f.hi - f.lo + 1) && wbit w (f.lo + i)) := by
  rw [getF, Nat.testBit_mod_two_pow, Nat.testBit_div_two_pow, wbit, Nat.add_comm i]

/-- A number in three parts: the bits below lo, a field of n bits, the bits above. -/
theorem testBit_parts {lo n low field : Nat} (hlow : low < 2 ^ lo) (hfield : field < 2 ^ n) (high i : Nat) :
    (2 ^ lo * (2 ^ n * high + field) + low).testBit i =
      if lo ≤ i ∧ i < lo + n then field.testBit (i - lo) else if i < lo then low.testBit i else high.testBit (i - lo - n) := by
  rw [Nat.testBit_two_pow_mul_add _ hlow, Nat.testBit_two_pow_mul_add _ hfield]
  by_cases below : i < lo
  · rw [if_pos below, if_neg (by omega), if_pos below]
  · by_cases inside : i - lo < n
    · rw [if_neg below, if_pos inside, if_pos (by omega)]
    · rw [if_neg below, if_neg inside, if_neg (by omega), if_neg below]

/-- A word with a field replaced: the field's bits are the value's, every other bit stays. -/
theorem wbit_setF (w : Word) {f : Fld} (v : Nat) (hf : f.lo ≤ f.hi) {i : Nat} (hi : i < 32) :
    wbit (setF w f v) i = if f.lo ≤ i ∧ i ≤ f.hi then v.testBit (i - f.lo) else wbit w i := by
  have hlow : w.toNat % 2 ^ f.lo < 2 ^ f.lo := Nat.mod_lt _ (Nat.two_pow_pos _)
  have hv : v % 2 ^ (f.hi - f.lo + 1) < 2 ^ (f.hi - f.lo + 1) := Nat.mod_lt _ (Nat.two_pow_pos _)
  have hin : (f.lo ≤ i ∧ i < f.lo + (f.hi - f.lo + 1)) ↔ (f.lo ≤ i ∧ i ≤ f.hi) := by omega
  have hold : w.toNat = 2 ^ f.lo * (2 ^ (f.hi - f.lo + 1) * (w.toNat / 2 ^ f.lo / 2 ^ (f.hi - f.lo + 1)) + getF w f) +
      w.toNat % 2 ^ f.lo := by
    rw [getF, Nat.div_add_mod, Nat.div_add_mod]
  have hnew : w.toNat - getF w f * 2 ^ f.lo + v % 2 ^ (f.hi - f.lo + 1) * 2 ^ f.lo =
      2 ^ f.lo * (2 ^ (f.hi - f.lo + 1) * (w.toNat / 2 ^ f.lo / 2 ^ (f.hi - f.lo + 1)) + v % 2 ^ (f.hi - f.lo + 1)) +
      w.toNat % 2 ^ f.lo := by
    rw [Nat.mul_add] at hold ⊢
    rw [Nat.mul_comm (getF w f), Nat.mul_comm (v % _)]
    omega
  have hset : wbit (setF w f v) i = (w.toNat - getF w f * 2 ^ f.lo + v % 2 ^ (f.hi - f.lo + 1) * 2 ^ f.lo).testBit i := by
    rw [wbit, setF, BitVec.toNat_ofNat, Nat.testBit_mod_two_pow, decide_eq_true hi, Bool.true_and]
  have hget := congrArg (·.testBit i) hold
  simp only [testBit_parts hlow (getF_lt w f), hin] at hget
  rw [hset, hnew, testBit_parts hlow hv, wbit, hget]
  simp only [hin]
  split
  case isTrue h => rw [Nat.testBit_mod_two_pow, decide_eq_true (by omega), Bool.true_and]
  case isFalse => rfl

theorem getF_setF_apart (w : Word) {f g : Fld} (v : Nat) (hf : f.lo ≤ f.hi) (hg : g.lo ≤ g.hi ∧ g.hi < 32)
    (h : g.hi < f.lo ∨ f.hi < g.lo) : getF (setF w f v) g = getF w g := by
  refine Nat.eq_of_testBit_eq fun i => ?_
  rw [testBit_getF, testBit_getF]
  by_cases hi : i < g.hi - g.lo + 1
  · rw [wbit_setF w v hf (by omega), if_neg (by omega)]
  · rw [decide_eq_false hi, Bool.false_and, Bool.false_and]

theorem State.gf_sf_apart (s : State) (b : Nat) {f g : Fld} (v : Nat) (hf : f.lo ≤ f.hi) (hg : g.lo ≤ g.hi ∧ g.hi < 32)
    (h : g.hi < f.lo ∨ f.hi < g.lo) : (s.sf b f v).gf b g = s.gf b g := by
  rw [State.gf, State.rr_sf_same, getF_setF_apart _ _ hf hg h, State.gf]

theorem State.gf_wr_other (s : State) {a b : Nat} (v : Word) (g : Fld) (h : b ≠ a) : (s.wr a v).gf b g = s.gf b g := by
  rw [State.gf, State.rr_wr_other _ _ _ _ h, State.gf]

/-! ### What charges, flags and interrupts leave -/

/-- Registers below the MEM block agree but for flags and counters; of the other state, only messages and units that wait for tokens
may differ. -/
structure State.BelowMem (s t : State) : Prop where
  rest : t = { s with regs := t.regs, msgs := t.msgs, due := t.due }
  regs : ∀ a, noteReg a = false → a < 0xe0000 → t.rr a = s.rr a

theorem State.Notes.belowMem {s t : State} (h : s.Notes t) : s.BelowMem t :=
  ⟨h.rest.trans (by rw [h.rest]), fun a ha _ => h.regs a ha⟩

namespace State.BelowMem
variable {s t u : State}

theorem refl (s : State) : s.BelowMem s := (State.Notes.refl s).belowMem

theorem trans (h : s.BelowMem t) (k : t.BelowMem u) : s.BelowMem u :=
  ⟨by rw [k.rest, h.rest], fun a ha hlt => (k.regs a ha hlt).trans (h.regs a ha hlt)⟩

theorem ite {c : Prop} [Decidable c] (h : s.BelowMem t) (k : s.BelowMem u) : s.BelowMem (if c then t else u) := by
  split <;> assumption

theorem gf (h : s.BelowMem t) {a : Nat} (f : Fld) (ha : noteReg a = false) (hlt : a < 0xe0000) : t.gf a f = s.gf a f := by
  rw [State.gf, h.regs a ha hlt, State.gf]

end State.BelowMem

theorem lvlReg_ge (l cls : Nat) : 0xe0000 ≤ lvlReg l cls := by
  unfold lvlReg Reg.MEM_LVL_READ Reg.MEM_LVL_WRITE Reg.MEM_LVL_REMOTE
  split
  · omega
  · split <;> omega

theorem State.take_belowMem (s : State) (l cls n : Nat) : s.BelowMem (s.take l cls n) := by
  have hlevel : s.BelowMem (s.setTokens l cls (s.tokens l cls - n)) :=
    ⟨rfl, fun a _ hlt => State.rr_wr_other _ _ _ _ (Nat.ne_of_lt (Nat.lt_of_lt_of_le hlt (lvlReg_ge l cls)))⟩
  exact hlevel.trans (State.event_notes ..).belowMem

/-- A charge takes tokens and notes what waits (R216). -/
theorem State.tierCharge_belowMem (s : State) (l : Nat) (r : Payer) (a n : Nat) (wr : Bool) : s.BelowMem (s.tierCharge l r a n wr) := by
  have howed (u : State) (cls k : Nat) : u.BelowMem (u.setOwed l r cls k) := ⟨rfl, fun _ _ _ => rfl⟩
  exact .ite ((State.BelowMem.ite (.refl s) (s.take_belowMem ..)).trans (howed _ _ _)) (.refl s)

theorem State.setFlag_rest (s : State) (a bit : Nat) (l : Option Nat) :
    s.setFlag a bit l = { s with regs := (s.setFlag a bit l).regs, msgs := (s.setFlag a bit l).msgs } := by
  have hraise : s.raise a bit = { s with regs := (s.raise a bit).regs, msgs := (s.raise a bit).msgs } := by
    unfold State.raise State.msg
    dsimp only
    split <;> rfl
  have hevent : (s.raise a bit).Notes (s.setFlag a bit l) := State.event_notes ..
  rw [hevent.rest, hraise]

/-- A source that becomes pending is noted in the core's own block (R362). -/
theorem State.irqPend_belowMem (s : State) (n src : Nat) : s.BelowMem (s.irqPend n src) := by
  refine ⟨?_, fun a ha hlt => (s.irqPend_low n src).regs a ha (Nat.lt_trans hlt (by decide))⟩
  unfold State.irqPend
  split
  · rw [State.setFlag_rest]
  · rfl

theorem State.rbit_irqPend (s : State) (n : Fin 18) {src : Nat} (h : src < 32) :
    (s.irqPend n.val src).rbit (Reg.IBC_IRQ_PEND n.val) src = true := by
  rw [State.irqPend, if_pos n.isLt]
  exact State.rbit_setFlag _ _ _ _ h (by unfold Reg.IBC_IRQ_PEND; omega)

/-! ### Bytes read for a lodging -/

/-- A read for a lodging may set ZERO_READ and changes nothing else (R518). -/
theorem State.getBytes_notes (s : State) (l a n : Nat) : s.Notes (s.getBytes l a n).1 := by
  unfold State.getBytes
  split
  · exact .refl s
  · split
    · exact State.setFlagIf_notes _ _ _ _ _ (by decide) (by decide)
    · exact .refl s

theorem State.notes_of_getBytes {s u : State} {l a n v : Nat} {bad : Bool} (h : s.getBytes l a n = (u, v, bad)) : s.Notes u := by
  have hnotes := s.getBytes_notes l a n
  rwa [h] at hnotes

theorem State.getBytes_outside {s : State} {a : Nat} (l n : Nat) (h : s.inTier a = false) :
    s.getBytes l a n = (s, if s.poisoned a n then 0 else s.rdLE a n, s.poisoned a n) := by
  rw [State.getBytes, h]
  cases s.poisoned a n <;> rfl

end Sys2Proof.Machine
end

section
/-! PROOFS. Code blocks in the decode and encode engines (R303 to R306, R315, R318, R323, R474). -/
namespace Sys2Proof.Machine
open Sys2Proof

/-! ### Engine positions (R323) -/

section
variable (s : State) (p : Fin 4)

theorem State.engOf_setEng (j : Option EngJob) : (s.setEng p.val j).engOf p.val = j := tget_tput_same _ _ _ _

/-- BUSY is the low four bits of ENG_STAT. -/
theorem State.rbit_sf_busy (v : Nat) :
    (s.sf Reg.LDPC_ENG_STAT Fld.LDPC_ENG_STAT_BUSY v).rbit Reg.LDPC_ENG_STAT p.val = v.testBit p.val := by
  have hlow : p.val ≤ 3 := Nat.le_of_lt_succ p.isLt
  rw [State.rbit, State.rr_sf_same, wbit_setF _ _ (by decide) (by omega)]
  exact if_pos ⟨Nat.zero_le _, hlow⟩

theorem State.rbit_setEng_taken (j : EngJob) : (s.setEng p.val (some j)).rbit Reg.LDPC_ENG_STAT p.val = true := by
  refine (State.rbit_sf_busy _ p _).trans ?_
  rw [Option.isSome_some, if_pos rfl, Nat.testBit_or, Nat.testBit_two_pow_self, Bool.or_true]

theorem State.rbit_setEng_free : (s.setEng p.val none).rbit Reg.LDPC_ENG_STAT p.val = false := by
  have hmask : ∀ p : Fin 4, (15 - 2 ^ p.val).testBit p.val = false := by decide
  refine (State.rbit_sf_busy _ p _).trans ?_
  rw [Option.isSome_none, if_neg Bool.false_ne_true, Nat.testBit_and, hmask, Bool.and_false]

end

/-! ### CODE_BLOCK_DECODE -/

theorem exec_codeBlockDecode_idle {s : State} {p : Fin 4} (h : (s.engOf p.val).isSome = true ∨ s.cbFor p.val = none) :
    exec (.codeBlockDecode p) s = .next s := by
  change execCodeBlockDecode p s = _
  unfold execCodeBlockDecode
  by_cases hbusy : (s.engOf p.val).isSome = true
  · rw [if_pos hbusy]
  · rw [if_neg hbusy, h.resolve_left hbusy]

/-- The start of S7 changes a block of the order, not its slot. -/
theorem State.beginBlk_slot (s : State) (o : SlotOrd) (i : Nat) (b : Blk) :
    (s.beginBlk o i b).2.1.car = o.car ∧ (s.beginBlk o i b).2.1.start = o.start := by
  unfold State.beginBlk
  split <;> exact ⟨rfl, rfl⟩

/-- The state that reads the LLRs of a code block whose S7 has begun, from a, and combines its own. -/
def State.llrsTaken (s : State) (o : SlotOrd) (b : Blk) (r a n : Nat) (own : List Int) : State :=
  ((s.getBytes o.l a n).1.combine o b r own).1

/-- A block that decodes alone has no soft buffer (R314). -/
theorem State.llrsTaken_alone (s : State) (o : SlotOrd) {b : Blk} (r a n : Nat) (own : List Int) (h : b.mode = 1) :
    (s.llrsTaken o b r a n own).mem = s.mem := by
  rw [State.llrsTaken, State.combine, if_pos (by omega), (s.getBytes_notes o.l a n).rest]

theorem exec_codeBlockDecode_takes {s : State} {p : Fin 4} {w : CbWait} {b : Blk} (hfree : s.engOf p.val = none)
    (hw : s.cbFor p.val = some w) (hb : w.o.blks[w.tbi]? = some b) :
    ∃ a n own j, exec (.codeBlockDecode p) s = .next (((s.beginBlk w.o w.tbi b).1.llrsTaken (s.beginBlk w.o w.tbi b).2.1
        (s.beginBlk w.o w.tbi b).2.2 w.cb a n own).setEng p.val (some j)) ∧
      j.car = w.o.car ∧ j.start = w.o.start ∧ j.tbi = w.tbi ∧ j.cb = w.cb := by
  obtain ⟨hcar, hstart⟩ := s.beginBlk_slot w.o w.tbi b
  change ∃ a n own j, execCodeBlockDecode p s = _ ∧ _
  unfold execCodeBlockDecode
  rw [hfree, Option.isSome_none, if_neg Bool.false_ne_true, hw]
  dsimp only
  rw [hb]
  exact ⟨_, _, _, _, rfl, hcar, hstart, rfl, rfl⟩

theorem exec_codeBlockDecode_job {s : State} {p : Fin 4} {w : CbWait} {b : Blk} (hfree : s.engOf p.val = none)
    (hw : s.cbFor p.val = some w) (hb : w.o.blks[w.tbi]? = some b) :
    ∃ t j, exec (.codeBlockDecode p) s = .next t ∧ t.engOf p.val = some j ∧ j.car = w.o.car ∧ j.start = w.o.start ∧ j.tbi = w.tbi ∧
      j.cb = w.cb ∧ t.rbit Reg.LDPC_ENG_STAT p.val = true ∧ (b.mode = 1 → t.mem = s.mem) := by
  obtain ⟨a, n, own, j, hexec, hcar, hstart, htbi, hcb⟩ := exec_codeBlockDecode_takes hfree hw hb
  refine ⟨_, j, hexec, State.engOf_setEng .., hcar, hstart, htbi, hcb, State.rbit_setEng_taken .., fun halone => ?_⟩
  have hbegin : s.beginBlk w.o w.tbi b = (s, w.o, b) := if_pos (by omega)
  rw [hbegin]
  exact s.llrsTaken_alone w.o w.cb a n own halone

/-! ### CODE_BLOCK_DONE -/

theorem exec_codeBlockDone_free {s : State} {p : Fin 4} (h : s.engOf p.val = none) : exec (.codeBlockDone p) s = .next s := by
  change execCodeBlockDone p s = _
  rw [execCodeBlockDone, h]

/-- What the end of a code block's decoding is counted and flagged as (R306, R325). -/
def State.decodeNoted (s : State) (o : SlotOrd) (b : Blk) (j : EngJob) : State :=
  let d := b.coding.decode j.table j.imax j.llr
  let counted := ((s.setFlagIf (!d.2.2) Reg.LDPC_FLAG 0 (some o.l)).event 0xC 0x3000 (some o.l)).event 0xC 0x3001 (some o.l) d.2.1
  counted.event 0xC 0x3002 (some o.l)
    (b.coding.cycles d.2.1 (b.coding.layers (b.coding.inputs j.llr)) (b.coding.e b.g b.nlt b.qm j.cb))

section
variable (s : State) (o : SlotOrd) (b : Blk) (j : EngJob)

theorem State.decodeNoted_notes : s.Notes (s.decodeNoted o b j) :=
  (((State.setFlagIf_notes _ _ _ _ _ (by decide) (by decide)).trans (State.event_notes ..)).trans (State.event_notes ..)).trans
    (State.event_notes ..)

theorem State.decodeNoted_iterLimit (h : (b.coding.decode j.table j.imax j.llr).2.2 = false) :
    (s.decodeNoted o b j).rbit Reg.LDPC_FLAG 0 = true := by
  have hout : ¬(0x3000 ≤ Reg.LDPC_FLAG % 0x10000 ∧ Reg.LDPC_FLAG % 0x10000 < 0x3088) := by decide
  rw [State.decodeNoted, State.rbit, State.event_rr _ _ _ _ _ _ hout, State.event_rr _ _ _ _ _ _ hout, State.event_rr _ _ _ _ _ _ hout,
    h, State.setFlagIf, if_pos (by rfl)]
  exact State.rbit_setFlag _ _ _ _ (by decide) hout

end

/-- A code block ends: the position is free, the order has its bits. -/
theorem exec_codeBlockDone_ends {s : State} {p : Fin 4} {j : EngJob} (hj : s.engOf p.val = some j)
    (hpaid : ∀ o ∈ (s.carOf j.car).orders, o.ul = true → o.start = j.start → s.owes o.l .ldpc = false) :
    ∃ u car, exec (.codeBlockDone p) s = .next { u with car := car } ∧ (s.setEng p.val none).Notes u ∧
      ∀ o b, (s.carOf j.car).orders.find? (fun o => o.ul && o.start == j.start) = some o → o.blks[j.tbi]? = some b →
        (b.coding.decode j.table j.imax j.llr).2.2 = false → u.rbit Reg.LDPC_FLAG 0 = true := by
  have hany : ((s.carOf j.car).orders.any fun o => o.ul && o.start == j.start && s.owes o.l .ldpc) = false := by
    simpa using hpaid
  change ∃ u car, execCodeBlockDone p s = _ ∧ _
  unfold execCodeBlockDone
  rw [hj]
  dsimp only
  rw [hany, if_neg Bool.false_ne_true]
  have hcars : ((s.setEng p.val none).carOf j.car).orders = (s.carOf j.car).orders := rfl
  rw [hcars]
  cases hfind : (s.carOf j.car).orders.find? fun o => o.ul && o.start == j.start with
  | none => exact ⟨s.setEng p.val none, s.car, rfl, .refl _, nofun⟩
  | some o =>
    dsimp only
    cases hblk : o.blks[j.tbi]? with
    | none =>
      refine ⟨s.setEng p.val none, s.car, rfl, .refl _, fun o' b ho hb => ?_⟩
      cases ho
      exact absurd (hblk.symm.trans hb) nofun
    | some b =>
      refine ⟨(s.setEng p.val none).decodeNoted o b j, _, rfl, State.decodeNoted_notes .., fun o' b' ho hb hfail => ?_⟩
      cases ho
      cases hblk.symm.trans hb
      exact State.decodeNoted_iterLimit _ _ _ _ hfail

theorem exec_codeBlockDone_leaves {s : State} {p : Fin 4} {j : EngJob} (hj : s.engOf p.val = some j)
    (hpaid : ∀ o ∈ (s.carOf j.car).orders, o.ul = true → o.start = j.start → s.owes o.l .ldpc = false) :
    ∃ t, exec (.codeBlockDone p) s = .next t ∧ t.engOf p.val = none ∧ t.rbit Reg.LDPC_ENG_STAT p.val = false ∧ t.mem = s.mem ∧
      ∀ o b, (s.carOf j.car).orders.find? (fun o => o.ul && o.start == j.start) = some o → o.blks[j.tbi]? = some b →
        (b.coding.decode j.table j.imax j.llr).2.2 = false → t.rbit Reg.LDPC_FLAG 0 = true := by
  obtain ⟨u, car, hexec, hnote, hflag⟩ := exec_codeBlockDone_ends hj hpaid
  refine ⟨_, hexec, ?_, ?_, ?_, hflag⟩
  · change u.engOf p.val = none
    rw [hnote.rest]
    exact s.engOf_setEng p none
  · change wbit (u.rr Reg.LDPC_ENG_STAT) p.val = false
    rw [hnote.regs _ (by decide)]
    exact s.rbit_setEng_free p
  · change u.mem = s.mem
    rw [hnote.rest]
    rfl

/-! ### CODE_BLOCK_ENCODE -/

theorem firstWait_mem {ws : List CbWait} {w : CbWait} (h : firstWait ws = some w) : w ∈ ws := by
  induction ws with
  | nil => cases h
  | cons x ws ih =>
    rw [firstWait] at h
    split at h
    case h_1 y hy =>
      split at h
      · cases h
        exact List.mem_cons_of_mem _ (ih hy)
      · cases h
        exact List.mem_cons_self
    case h_2 =>
      cases h
      exact List.mem_cons_self

theorem State.encNext_car_lt {s : State} {w : CbWait} (h : s.encNext = some w) : w.car < 8 := by
  have hmem := firstWait_mem h
  simp only [List.mem_flatMap, List.mem_range] at hmem
  obtain ⟨a, ha, o, -, hw⟩ := hmem
  split at hw
  · cases hw
  · obtain ⟨x, -, hx⟩ := List.mem_filterMap.1 hw
    obtain ⟨-, hx⟩ := Option.ite_none_right_eq_some.1 hx
    cases hx
    exact ha

/-- N_cb of a block is read from its carrier's LBRM (R302, R326). -/
theorem State.BelowMem.ncbOf {s t : State} (h : s.BelowMem t) (o : SlotOrd) {a : Nat} (ha : a < 8) (b : Blk) :
    (t.asOf o).ncbOf a b = (s.asOf o).ncbOf a b := by
  have hnote : ∀ a : Fin 8, noteReg (Reg.LDPC_CAR_LBRM a.val) = false := by decide
  have hreg := State.rr_asOf o (h.regs (Reg.LDPC_CAR_LBRM a) (hnote ⟨a, ha⟩) (by unfold Reg.LDPC_CAR_LBRM; omega))
  simp only [State.ncbOf, State.lbrm, State.gf, hreg]

/-- A change of a block is what it does to that block. -/
theorem SlotOrd.setBlk_congr {o : SlotOrd} {i : Nat} {b : Blk} {f g : Blk → Blk} (hb : o.blks[i]? = some b) (h : f b = g b) :
    o.setBlk i f = o.setBlk i g := by
  unfold SlotOrd.setBlk
  congr 1
  refine List.map_congr_left fun x hx => ?_
  have hget := List.mk_mem_zipIdx_iff_getElem?.1 hx
  dsimp only
  split
  case isTrue hi =>
    rw [hi, hb] at hget
    rw [← Option.some.inj hget, h]
  case isFalse => rfl

/-- Changing an order passes through flags. -/
theorem State.Notes.setOrder {s t : State} (h : s.Notes t) (o : SlotOrd) : (s.setOrder o).Notes (t.setOrder o) :=
  h.map (·.setOrder o) (fun _ _ _ => rfl) fun _ => rfl

/-- A downlink block with its scrambled codeword (R318). -/
def Blk.encoded (b : Blk) (v ncb : Nat) : Blk :=
  let cw := b.coding.encode (payloadBits b.tbs v) ncb b.rv b.g b.nlt b.qm b.cinit
  { b with cbs := [(0, cw.length, true, packBits cw)] }

section
variable {s : State} {e : Fin 2}

theorem exec_codeBlockEncode_none (h : s.encNext = none) : exec (.codeBlockEncode e) s = .next s := by
  change execCodeBlockEncode e s = _
  rw [execCodeBlockEncode, h]

variable {w : CbWait} (hw : s.encNext = some w)
include hw

theorem exec_codeBlockEncode_bothFailed (h0 : s.encFailed 0 = true) (h1 : s.encFailed 1 = true) :
    exec (.codeBlockEncode e) s = .next ((s.orderResult w.o St.failed).dropOrder w.car w.o) := by
  change execCodeBlockEncode e s = _
  simp [execCodeBlockEncode, hw, h0, h1]

theorem exec_codeBlockEncode_failed (hone : s.encFailed 0 = false ∨ s.encFailed 1 = false) (he : s.encFailed e.val = true) :
    exec (.codeBlockEncode e) s = .next s := by
  have hboth : ¬(s.encFailed 0 && s.encFailed 1) = true := by rcases hone with h | h <;> simp [h]
  change execCodeBlockEncode e s = _
  simp only [execCodeBlockEncode, hw, if_neg hboth, if_pos he]

theorem exec_codeBlockEncode_codeword {b : Blk} (he : s.encFailed e.val = false) (howes : s.owes w.o.l .ldpc = false)
    (hb : w.o.blks[w.tbi]? = some b) {u : State} {v : Nat} {bad : Bool}
    (hget : (s.tierCharge w.o.l .ldpc b.data ((b.tbs + 7) / 8) false).getBytes w.o.l b.data ((b.tbs + 7) / 8) = (u, v, bad)) :
    exec (.codeBlockEncode e) s = .next ((u.event 0xC 0x3003 (some w.o.l) b.coding.c).setOrder
      (w.o.setBlk w.tbi fun c => c.encoded v ((s.asOf w.o).ncbOf w.car c))) := by
  have hboth : ¬(s.encFailed 0 && s.encFailed 1) = true := fun h => by
    have hall : ∀ e : Fin 2, s.encFailed e.val = true := Fin.forall_fin_two.2 ((Bool.and_eq_true_iff).1 h)
    exact Bool.false_ne_true (he.symm.trans (hall e))
  have hsame : s.BelowMem (u.event 0xC 0x3003 (some w.o.l) b.coding.c) :=
    ((s.tierCharge_belowMem ..).trans (State.notes_of_getBytes hget).belowMem).trans (State.event_notes ..).belowMem
  have hncb := hsame.ncbOf w.o (State.encNext_car_lt hw) b
  change execCodeBlockEncode e s = _
  simp only [execCodeBlockEncode, hw, if_neg hboth, he, howes, Bool.false_eq_true, if_false, hb, hget]
  rw [hncb]
  exact congrArg (fun o => Host.Outcome.next (State.setOrder _ o)) (SlotOrd.setBlk_congr hb rfl)

end

/-- Settles O46: the branches of the three rows; a position's job and its BUSY bit are set together, flags and charges leave what
the codeword is made of. -/
theorem codeBlocksDecodeAndEncode : Obligations.CodeBlocksDecodeAndEncode := by
  intro s p e
  refine ⟨exec_codeBlockDecode_idle, fun w b => exec_codeBlockDecode_job, exec_codeBlockDone_free, fun j => exec_codeBlockDone_leaves,
    exec_codeBlockEncode_none, fun w => exec_codeBlockEncode_bothFailed, fun w => exec_codeBlockEncode_failed,
    fun w b hw he howes hb => ?_⟩
  rcases hget : (s.tierCharge w.o.l .ldpc b.data ((b.tbs + 7) / 8) false).getBytes w.o.l b.data ((b.tbs + 7) / 8) with ⟨u, v, bad⟩
  refine ⟨u, v, bad, hget, _, exec_codeBlockEncode_codeword hw he howes hb hget, ?_⟩
  exact ((State.notes_of_getBytes hget).trans (State.event_notes ..)).setOrder _

end Sys2Proof.Machine
end

section
/-! PROOFS. Decoder-table loads and CRC units (R307 to R309, R320, R321, R325, R362). -/
namespace Sys2Proof.Machine
open Sys2Proof

/-! ### TBL_STAT (R309) -/

/-- What TBL_STAT shows. -/
def State.TblShows (s : State) (busy done st : Nat) : Prop :=
  s.gf Reg.LDPC_TBL_STAT Fld.LDPC_TBL_STAT_BUSY = busy ∧ s.gf Reg.LDPC_TBL_STAT Fld.LDPC_TBL_STAT_DONE = done ∧
    s.gf Reg.LDPC_TBL_STAT Fld.LDPC_TBL_STAT_STATUS = st

theorem State.tblStat_shows (s : State) {busy done st : Nat} (hbusy : busy < 2) (hdone : done < 2) (hst : st < 256) :
    (s.tblStat busy done st).TblShows busy done st := by
  unfold State.tblStat
  refine ⟨?_, ?_, ?_⟩
  · rw [State.gf_sf_apart _ _ _ (by decide) (by decide) (by decide), State.gf_sf_apart _ _ _ (by decide) (by decide) (by decide),
      State.gf_sf_same _ _ _ (by decide)]
    exact Nat.mod_eq_of_lt hbusy
  · rw [State.gf_sf_apart _ _ _ (by decide) (by decide) (by decide), State.gf_sf_same _ _ _ (by decide)]
    exact Nat.mod_eq_of_lt hdone
  · rw [State.gf_sf_same _ _ _ (by decide)]
    exact Nat.mod_eq_of_lt hst

theorem State.tblStat_regsOnly (s : State) (busy done st : Nat) : s.RegsOnly (s.tblStat busy done st) := rfl

/-! ### TBL_LOAD -/

/-- The source that the registers name. -/
def State.tblSrc (s : State) : Nat :=
  (s.rr Reg.LDPC_TBL_SRC_LO).toNat + 2 ^ 32 * s.gf Reg.LDPC_TBL_SRC_HI Fld.LDPC_TBL_SRC_HI_ADDR_HI

/-- A load has begun: counted, noted, shown. -/
def State.tblBegun (s : State) (slot : Nat) : State :=
  { s.countStatus 0xC St.ok none with ldpcLoad := some (slot, s.tblSrc) }.tblStat 1 0 St.ok

theorem exec_tblLoad_begins {s : State} {who : Requester} {slot : Fin 16} (hreach : s.reach who Reg.LDPC_TBL_CTL true = true)
    (halign : s.tblSrc % 64 = 0) (hfirst : s.place s.tblSrc ≠ .hole) (hlast : s.place (s.tblSrc + 191) ≠ .hole)
    (hload : s.ldpcLoad = none) (hsel : s.selStaged slot.val = false) :
    exec (.tblLoad who slot) s = .next (s.tblBegun slot.val) := by
  have hst : pick [(s.tblSrc % 64 != 0 || s.place s.tblSrc == .hole || s.place (s.tblSrc + 191) == .hole, St.bounds),
      (s.ldpcLoad.isSome || s.selStaged slot.val, St.busy)] = St.ok :=
    pick_ok _ (by simp [halign, hfirst, hlast, hload, hsel])
  change execTblLoad who slot s = _
  rw [execTblLoad, State.asWrite, if_pos hreach]
  unfold State.tblSrc at hst
  simp only [State.tblLoad, hst, ne_eq, not_true, if_false]
  rfl

theorem State.tblBegun_shows (s : State) (slot : Nat) : (s.tblBegun slot).TblShows 1 0 St.ok :=
  State.tblStat_shows _ (by decide) (by decide) (by decide)

theorem State.tblBegun_rest (s : State) (slot : Nat) :
    (s.tblBegun slot).ldpcLoad = some (slot, s.tblSrc) ∧ (s.tblBegun slot).mem = s.mem ∧ (s.tblBegun slot).ldpcTbl = s.ldpcTbl := by
  have hcount := s.countStatus_notes 0xC St.ok none
  rw [State.tblBegun, State.tblStat_regsOnly, hcount.rest]
  exact ⟨rfl, rfl, rfl⟩

/-! ### TBL_LOAD_DONE -/

/-- The status a load ends with (R309). -/
def State.tblVerdict (s : State) (src : Nat) : Nat :=
  if s.poisoned src 192 then St.integrity else if tblBad (s.rdLE src 192) then St.format else St.ok

theorem State.tblVerdict_lt (s : State) (src : Nat) : s.tblVerdict src < 256 := by
  unfold State.tblVerdict
  split
  · decide
  · split <;> decide

theorem State.tblVerdict_eq_ok (s : State) (src : Nat) :
    s.tblVerdict src = St.ok ↔ s.poisoned src 192 = false ∧ tblBad (s.rdLE src 192) = false := by
  unfold State.tblVerdict
  cases s.poisoned src 192 <;> cases tblBad (s.rdLE src 192) <;> decide

/-- The copy of a slot that SEL does not name (R308). -/
def State.tblStandby (s : State) (slot : Nat) : Nat := 2 * slot + (if s.rbit Reg.LDPC_TBL_SEL slot then 0 else 1)

/-- The decoder tables after a load. -/
def State.tblsLoaded (s : State) (slot src : Nat) : Tbl Nat :=
  if s.tblVerdict src = St.ok then tput (fun _ => 0) s.ldpcTbl (s.tblStandby slot) (s.rdLE src 192) else s.ldpcTbl

theorem State.tget_tblsLoaded (s : State) (slot src i : Nat) :
    tget (fun _ => 0) (s.tblsLoaded slot src) i =
      if s.poisoned src 192 = false ∧ tblBad (s.rdLE src 192) = false ∧ i = s.tblStandby slot then s.rdLE src 192
      else tget (fun _ => 0) s.ldpcTbl i := by
  have hiff : s.poisoned src 192 = false ∧ tblBad (s.rdLE src 192) = false ∧ i = s.tblStandby slot ↔
      s.tblVerdict src = St.ok ∧ i = s.tblStandby slot := by
    rw [s.tblVerdict_eq_ok src, and_assoc]
  simp only [State.tblsLoaded, hiff]
  by_cases hok : s.tblVerdict src = St.ok
  · simp only [hok, if_true, true_and, tget_tput]
  · simp only [hok, if_false, false_and]

theorem exec_tblLoadDone_none {s : State} (h : s.ldpcLoad = none) : exec .tblLoadDone s = .next s := by
  change execTblLoadDone s = _
  rw [execTblLoadDone, h]

theorem State.rdLE_congr {s t : State} (h : t.mem = s.mem) (a n : Nat) : t.rdLE a n = s.rdLE a n := by
  induction n generalizing a with
  | zero => rfl
  | succ n ih => rw [State.rdLE, ih, State.rb, h, State.rdLE, State.rb]

theorem exec_tblLoadDone_outside {s : State} {slot src : Nat} (hload : s.ldpcLoad = some (slot, src)) (hin : s.inTier src = false) :
    exec .tblLoadDone s = .next ({ s with ldpcLoad := none, ldpcTbl := s.tblsLoaded slot src }.tblStat 0 1 (s.tblVerdict src)) := by
  have hread : State.rdLE { s with ldpcLoad := none } src 192 = s.rdLE src 192 :=
    State.rdLE_congr (s := s) (t := { s with ldpcLoad := none }) rfl src 192
  have hin' : State.inTier { s with ldpcLoad := none } src = false := hin
  have hpois : State.poisoned { s with ldpcLoad := none } src 192 = s.poisoned src 192 := rfl
  have hverdict : (if s.poisoned src 192 then St.integrity else if tblBad (s.rdLE src 192) then St.format else St.ok) =
      s.tblVerdict src := rfl
  change execTblLoadDone s = _
  unfold execTblLoadDone State.tblsLoaded
  simp only [hload, hin', hread, hpois, hverdict, Bool.false_eq_true, if_false]
  split <;> rfl

/-! ### CRC_CMD -/

/-- The address that the unit's registers name. -/
def State.crcAddr (s : State) (n : Nat) : Nat :=
  (s.rr (Reg.LDPC_CRC_ADDR_LO n)).toNat + 2 ^ 32 * s.gf (Reg.LDPC_CRC_ADDR_HI n) Fld.LDPC_CRC_ADDR_HI_ADDR_HI

/-- The message lies in the regions of the core's holder. -/
def State.crcFits (s : State) (n len : Nat) : Bool :=
  match s.ibcHolder n with
  | some l => s.inRegions l (s.crcAddr n) (cdiv len 8)
  | none => false

theorem State.crcFits_iff (s : State) (n len : Nat) :
    s.crcFits n len = true ↔ ∃ l, s.ibcHolder n = some l ∧ s.inRegions l (s.crcAddr n) (cdiv len 8) = true := by
  unfold State.crcFits
  cases s.ibcHolder n <;> simp

/-- The status of a CRC command (R321). -/
def State.crcStatus (s : State) (n poly len : Nat) : Nat :=
  if 5 < poly then St.format
  else if s.crcFits n len = false ∨ len = 0 ∨ 65536 < len then St.bounds
  else if s.crcOf n ≠ none then St.busy
  else St.ok

section
variable {s : State} {n poly len : Nat}

theorem State.crcStatus_format (h : 5 < poly) : s.crcStatus n poly len = St.format := if_pos h

variable (hpoly : poly ≤ 5)
include hpoly

theorem State.crcStatus_bounds (h : s.crcFits n len = false ∨ len = 0 ∨ 65536 < len) : s.crcStatus n poly len = St.bounds := by
  rw [State.crcStatus, if_neg (Nat.not_lt.2 hpoly), if_pos h]

variable (hfits : s.crcFits n len = true) (hlen : len ≠ 0) (hmax : len ≤ 65536)
include hfits hlen hmax

theorem State.crcStatus_fits : s.crcStatus n poly len = if s.crcOf n ≠ none then St.busy else St.ok := by
  have hin : ¬(s.crcFits n len = false ∨ len = 0 ∨ 65536 < len) := by simp [hfits, hlen, hmax]
  rw [State.crcStatus, if_neg (Nat.not_lt.2 hpoly), if_neg hin]

theorem State.crcStatus_busy (h : s.crcOf n ≠ none) : s.crcStatus n poly len = St.busy := by
  rw [State.crcStatus_fits hpoly hfits hlen hmax, if_pos h]

theorem State.crcStatus_ok (h : s.crcOf n = none) : s.crcStatus n poly len = St.ok := by
  rw [State.crcStatus_fits hpoly hfits hlen hmax, if_neg (not_not_intro h)]

end

theorem State.crcStatus_lt (s : State) (n poly len : Nat) : s.crcStatus n poly len < 256 := by
  unfold State.crcStatus
  repeat' split
  all_goals decide

theorem pick_formatBoundsBusy (format bounds busy : Bool) :
    pick [(format, St.format), (bounds, St.bounds), (busy, St.busy)] =
      if format then St.format else if bounds then St.bounds else if busy then St.busy else St.ok := by
  revert format bounds busy
  decide

/-- The command is counted and its status shown. -/
def State.crcAnswered (s : State) (n st : Nat) : State :=
  (s.countStatus 0xC st (s.ibcHolder n)).sf (Reg.LDPC_CRC_STAT n) Fld.LDPC_CRC_STAT_STATUS st

/-- The job is noted, its reads are charged, BUSY is shown. -/
def State.crcBegun (s : State) (n : Nat) (j : CrcJob) : State :=
  ({ s with crcJobs := tput (fun _ => none) s.crcJobs n (some j) }.tierCharge j.l .ldpc j.addr (cdiv j.len 8) false).sf
    (Reg.LDPC_CRC_RES n) Fld.LDPC_CRC_RES_BUSY 1

/-- What a command with a status leads to. -/
def State.crcCmdAs (s : State) (n poly len st : Nat) : State :=
  if st = St.ok then (s.crcAnswered n st).crcBegun n ⟨((s.crcAnswered n st).ibcHolder n).getD 0, poly, len, s.crcAddr n⟩
  else s.crcAnswered n st

theorem State.crcCmd_eq (s : State) (n poly len : Nat) : s.crcCmd n poly len = s.crcCmdAs n poly len (s.crcStatus n poly len) := by
  have hst : pick [(decide (5 < poly), St.format), (!s.crcFits n len || len == 0 || decide (65536 < len), St.bounds),
      ((s.crcOf n).isSome, St.busy)] = s.crcStatus n poly len := by
    rw [pick_formatBoundsBusy]
    simp [State.crcStatus, or_assoc, Option.isSome_iff_ne_none]
  rw [← hst]
  rfl

theorem crcStat_steers (n : Fin 18) : noteReg (Reg.LDPC_CRC_STAT n.val) = false ∧ Reg.LDPC_CRC_STAT n.val < 0xe0000 := by
  revert n
  decide

section
variable (s : State) (n : Fin 18)

/-- The status that the unit shows. -/
def State.crcShows : Nat := s.gf (Reg.LDPC_CRC_STAT n.val) Fld.LDPC_CRC_STAT_STATUS

theorem State.crcShows_crcAnswered {st : Nat} (h : st < 256) : (s.crcAnswered n.val st).crcShows n = st :=
  (State.gf_sf_same _ _ _ (by decide)).trans (Nat.mod_eq_of_lt h)

/-- Counting a status and showing it leaves all but registers and messages. -/
theorem State.crcAnswered_rest (st : Nat) :
    s.crcAnswered n.val st = { s with regs := (s.crcAnswered n.val st).regs, msgs := (s.crcAnswered n.val st).msgs } := by
  have hcount := s.countStatus_notes 0xC st (s.ibcHolder n.val)
  rw [State.crcAnswered, State.sf, State.wr, hcount.rest]

/-- A core's holder is read from bindings and releases, which a status leaves. -/
theorem State.ibcHolder_crcAnswered (st : Nat) : (s.crcAnswered n.val st).ibcHolder n.val = s.ibcHolder n.val := by
  have hbind (l : Nat) (hl : l < 16) : (s.crcAnswered n.val st).rr (Reg.LDG_IAMBEL l) = s.rr (Reg.LDG_IAMBEL l) := by
    refine (State.rr_wr_other _ _ _ _ ?_).trans ((s.countStatus_notes 0xC st _).regs _ (noteReg_ldg _ ?_ ?_ ?_)) <;>
      simp only [Reg.LDG_IAMBEL, Reg.LDPC_CRC_STAT] <;> omega
  have hbound : (s.crcAnswered n.val st).ibcBound n.val = s.ibcBound n.val := by
    unfold State.ibcBound State.rbit
    rw [find?_eq_of_agree fun l hl => congrArg (wbit · n.val) (hbind l (List.mem_range.1 hl))]
  have hstg : (s.crcAnswered n.val st).stg = s.stg := by rw [State.crcAnswered_rest]
  unfold State.ibcHolder State.heldFor
  rw [hbound, hstg]

end

section
variable (s : State) (n : Fin 18) (j : CrcJob)

/-- Noting a job and charging its reads. -/
theorem State.crcCharged_belowMem : State.BelowMem { s with crcJobs := tput (fun _ => none) s.crcJobs n.val (some j) }
    ({ s with crcJobs := tput (fun _ => none) s.crcJobs n.val (some j) }.tierCharge j.l .ldpc j.addr (cdiv j.len 8) false) :=
  State.tierCharge_belowMem ..

theorem State.crcShows_crcBegun : (s.crcBegun n.val j).crcShows n = s.crcShows n := by
  obtain ⟨hsteers, hbelow⟩ := crcStat_steers n
  exact (State.gf_wr_other _ _ _ (by unfold Reg.LDPC_CRC_STAT Reg.LDPC_CRC_RES; omega)).trans
    ((s.crcCharged_belowMem n j).gf _ hsteers hbelow)

theorem State.crcBegun_busy : (s.crcBegun n.val j).gf (Reg.LDPC_CRC_RES n.val) Fld.LDPC_CRC_RES_BUSY = 1 :=
  State.gf_sf_same _ _ _ (by decide)

theorem State.crcBegun_mem : (s.crcBegun n.val j).mem = s.mem := by
  rw [State.crcBegun, State.sf_mem, (s.crcCharged_belowMem n j).rest]

theorem State.crcOf_crcBegun : (s.crcBegun n.val j).crcOf n.val = some j := by
  have hjobs : (s.crcBegun n.val j).crcJobs = tput (fun _ => none) s.crcJobs n.val (some j) := by
    rw [State.crcBegun, State.sf_crcJobs, (s.crcCharged_belowMem n j).rest]
  rw [State.crcOf, hjobs, tget_tput_same]

end

section
variable (s : State) (n : Fin 18) (poly len : Nat)

theorem State.crcShows_crcCmd : (s.crcCmd n.val poly len).crcShows n = s.crcStatus n.val poly len := by
  have hst := s.crcShows_crcAnswered n (s.crcStatus_lt n.val poly len)
  rw [State.crcCmd_eq, State.crcCmdAs]
  split
  · rw [State.crcShows_crcBegun, hst]
  · exact hst

theorem State.crcCmd_mem : (s.crcCmd n.val poly len).mem = s.mem := by
  have hmem (st : Nat) : (s.crcAnswered n.val st).mem = s.mem := by rw [State.crcAnswered_rest]
  rw [State.crcCmd_eq, State.crcCmdAs]
  split
  · rw [State.crcBegun_mem, hmem]
  · exact hmem _

/-- A refused command shows its status and leaves the unit's job. -/
theorem State.crcCmd_refused {st : Nat} (h : s.crcStatus n.val poly len = st) (hst : st ≠ St.ok) :
    (s.crcCmd n.val poly len).crcShows n = st ∧ (s.crcCmd n.val poly len).crcOf n.val = s.crcOf n.val := by
  refine ⟨(s.crcShows_crcCmd n poly len).trans h, ?_⟩
  rw [State.crcCmd_eq, State.crcCmdAs, h, if_neg hst, State.crcAnswered_rest]
  rfl

theorem State.crcCmd_accepted (h : s.crcStatus n.val poly len = St.ok) :
    (s.crcCmd n.val poly len).crcOf n.val = some ⟨(s.ibcHolder n.val).getD 0, poly, len, s.crcAddr n.val⟩ ∧
      (s.crcCmd n.val poly len).gf (Reg.LDPC_CRC_RES n.val) Fld.LDPC_CRC_RES_BUSY = 1 := by
  rw [State.crcCmd_eq, State.crcCmdAs, if_pos h, State.ibcHolder_crcAnswered]
  exact ⟨State.crcOf_crcBegun .., State.crcBegun_busy ..⟩

end

theorem exec_crcCmd {s : State} {who : Requester} {n : Fin 18} (h : s.reach who (Reg.LDPC_CRC_CMD n.val) true = true) (poly : Fin 8)
    (len : Fin 131072) : exec (.crcCmd who n poly len) s = .next (s.crcCmd n.val poly.val len.val) := congrArg _ (if_pos h)

/-! ### CRC_DONE -/

theorem exec_crcDone_none {s : State} {n : Fin 18} (h : s.crcOf n.val = none) : exec (.crcDone n) s = .next s := by
  change execCrcDone n s = _
  rw [execCrcDone, h]

/-- The unit's registers show a result, its job is over. -/
def State.crcResult (s : State) (n r st : Nat) : State :=
  ({ s with crcJobs := tput (fun _ => none) s.crcJobs n none }.wr (Reg.LDPC_CRC_RES n) (BitVec.ofNat 32 r)).sf
    (Reg.LDPC_CRC_STAT n) Fld.LDPC_CRC_STAT_STATUS st

theorem exec_crcDone_outside {s : State} {n : Fin 18} {j : CrcJob} (hj : s.crcOf n.val = some j) (howes : s.owes j.l .ldpc = false)
    (hin : s.inTier j.addr = false) :
    exec (.crcDone n) s = .next ((s.crcResult n.val (crcBits j.poly (payloadBits j.len
        (if s.poisoned j.addr (cdiv j.len 8) then 0 else s.rdLE j.addr (cdiv j.len 8))))
      (if s.poisoned j.addr (cdiv j.len 8) then St.integrity else St.ok)).irqPend n.val 3) := by
  change execCrcDone n s = _
  simp only [execCrcDone, hj, howes, Bool.false_eq_true, if_false, State.getBytes_outside j.l _ hin]
  rfl

section
variable (s : State) (n : Fin 18) (r st : Nat)

/-- The interrupt leaves the LDPC block's registers (R362). -/
theorem State.crcResult_irqPend : (s.crcResult n.val r st).BelowMem ((s.crcResult n.val r st).irqPend n.val 3) :=
  State.irqPend_belowMem ..

theorem State.crcOf_crcResult_irqPend : ((s.crcResult n.val r st).irqPend n.val 3).crcOf n.val = none := by
  rw [(s.crcResult_irqPend n r st).rest]
  exact tget_tput_same (fun _ => none) s.crcJobs n.val none

theorem State.crcShows_crcResult_irqPend (h : st < 256) : ((s.crcResult n.val r st).irqPend n.val 3).crcShows n = st := by
  obtain ⟨hsteers, hbelow⟩ := crcStat_steers n
  exact ((s.crcResult_irqPend n r st).gf _ hsteers hbelow).trans ((State.gf_sf_same _ _ _ (by decide)).trans (Nat.mod_eq_of_lt h))

theorem State.crcRes_crcResult_irqPend :
    ((s.crcResult n.val r st).irqPend n.val 3).rr (Reg.LDPC_CRC_RES n.val) = BitVec.ofNat 32 r := by
  have hsteers : ∀ n : Fin 18, noteReg (Reg.LDPC_CRC_RES n.val) = false ∧ Reg.LDPC_CRC_RES n.val < 0xe0000 := by decide
  rw [(s.crcResult_irqPend n r st).regs _ (hsteers n).1 (hsteers n).2]
  exact (State.rr_wr_other _ _ _ _ (by unfold Reg.LDPC_CRC_STAT Reg.LDPC_CRC_RES; omega)).trans (State.rr_wr_same ..)

end

/-! ### The statement -/

/-- Settles O47: each row's exec lemma, and what TBL_STAT, the tables, CRC_STAT and the unit's job are after it. -/
theorem decoderTablesAndCrcUnits : Obligations.DecoderTablesAndCrcUnits := by
  refine ⟨fun s who slot => ⟨fun hreach halign hfirst hlast hload hsel => ?_, exec_tblLoadDone_none, fun n at_ hload hin => ?_⟩,
    fun s who n poly len => ⟨fun hreach => ?_, exec_crcDone_none, fun j hj howes hin => ?_⟩⟩
  · obtain ⟨hnoted, hmem, htbl⟩ := s.tblBegun_rest slot.val
    exact ⟨_, exec_tblLoad_begins hreach halign hfirst hlast hload hsel, hnoted, s.tblBegun_shows slot.val, hmem, htbl⟩
  · exact ⟨_, exec_tblLoadDone_outside hload hin, rfl, rfl, State.tblStat_shows _ (by decide) (by decide) (s.tblVerdict_lt at_),
      s.tget_tblsLoaded n at_⟩
  · have hiff := s.crcFits_iff n.val len.val
    refine ⟨_, exec_crcCmd hreach poly len, s.crcCmd_mem n poly.val len.val, fun hpoly => ?_, fun hpoly hout => ?_,
      fun hpoly hfits hlen hmax hbusy => ?_, fun hpoly hfits hlen hmax hfree => ?_⟩
    · exact s.crcCmd_refused n _ _ (State.crcStatus_format hpoly) (by decide)
    · rw [← State.crcAddr, ← hiff, Bool.not_eq_true] at hout
      exact s.crcCmd_refused n _ _ (State.crcStatus_bounds hpoly hout) (by decide)
    · exact s.crcCmd_refused n _ _ (State.crcStatus_busy hpoly (hiff.2 hfits) hlen hmax hbusy) (by decide)
    · have hok := State.crcStatus_ok hpoly (hiff.2 hfits) hlen hmax hfree
      obtain ⟨hjob, hbusy⟩ := s.crcCmd_accepted n _ _ hok
      obtain ⟨l, hholder, -⟩ := hfits
      refine ⟨(s.crcShows_crcCmd n _ _).trans hok, ?_, ?_, hbusy⟩
      · rw [hjob, hholder]
        rfl
      · rw [hjob]
        rfl
  · refine ⟨_, exec_crcDone_outside hj howes hin, State.crcOf_crcResult_irqPend .., State.crcShows_crcResult_irqPend _ _ _ _ ?_,
      fun hclean => ?_, State.rbit_irqPend _ n (by decide)⟩
    · split <;> decide
    · rw [State.crcRes_crcResult_irqPend, hclean, if_neg Bool.false_ne_true]

end Sys2Proof.Machine
end

section
/-! PROOFS. Batch queues of the sample decoders: TAKE, RELEASE (R388, R391, R392). -/
namespace Sys2Proof.Machine
open Sys2Proof

/-! ### What a store for a lodging leaves -/

theorem State.setFlag_bq (s : State) (a bit : Nat) (l : Option Nat) : (s.setFlag a bit l).bq = s.bq := by
  rw [State.setFlag_rest]

theorem State.clearPoison_bq (s : State) (a n : Nat) : (s.clearPoison a n).bq = s.bq := by
  rw [State.clearPoison_rest]

theorem State.wrLE_bq (s : State) (a n v : Nat) : (s.wrLE a n v).bq = s.bq := by
  rw [State.wrLE_rest]

theorem State.oldLess_bq (s : State) (l : Nat) : (s.oldLess l).bq = s.bq := by
  unfold State.oldLess
  dsimp only
  split
  · rw [State.setFlag_bq, State.sf_bq, State.sf_bq, State.wr_bq]
  · exact State.wr_bq ..

/-- A tier frame made ready for a write changes tags, counts and the frame's bytes only (R519, R522). -/
theorem State.rewrite_bq (s : State) (l f : Nat) : (s.rewrite l f).bq = s.bq := by
  have hfresh (u : State) : ((((u.zero (tierAddr + 4096 * f) 4096).clearPoison (tierAddr + 4096 * f) 4096).retag l f).curMore l).bq =
      u.bq := State.clearPoison_bq ..
  unfold State.rewrite
  split
  next m old _ =>
    split
    · cases old with
      | true => exact State.oldLess_bq ..
      | false => rfl
    · cases old with
      | true => exact (hfresh _).trans (State.oldLess_bq ..)
      | false => exact hfresh (s.curLess m)
  next => exact hfresh s

theorem State.tierReady_bq (s : State) (l a n : Nat) : (s.tierReady l a n).bq = s.bq := by
  unfold State.tierReady
  split
  · rfl
  · exact List.foldlRecOn (motive := fun u : State => u.bq = s.bq) _ _ rfl fun u hu i _ => (u.rewrite_bq l _).trans hu

theorem State.put_bq (s : State) (l a n v : Nat) : (s.put l a n v).bq = s.bq := by
  rw [State.put, State.clearPoison_bq, State.wrLE_bq]
  split
  · exact s.tierReady_bq l a n
  · rfl

/-! ### One queue changed -/

section
variable {s : State} {l : Nat}

theorem State.bqOf_congr {t : State} (h : t.bq = s.bq) (l q : Nat) : t.bqOf l q = s.bqOf l q := by
  rw [State.bqOf, h, State.bqOf]

theorem State.bqOf_setBq (s : State) (l q : Nat) (f : BatchQ → BatchQ) : (s.setBq l q f).bqOf l q = f (s.bqOf l q) := by
  rw [State.bqOf, State.setBq, tget_tmod, if_pos rfl, State.bqOf]

theorem State.bqOf_setBq_other (f : BatchQ → BatchQ) {q r : Nat} (h : r ≠ q) : (s.setBq l q f).bqOf l r = s.bqOf l r := by
  rw [State.bqOf, State.setBq, tget_tmod, if_neg (by omega), State.bqOf]

theorem State.setBq_congr {q : Nat} {f g : BatchQ → BatchQ} (h : f (s.bqOf l q) = g (s.bqOf l q)) : s.setBq l q f = s.setBq l q g :=
  congrArg (fun b => { s with bq := tput (fun _ => BatchQ.none) s.bq (4 * l + q) b }) h

/-- HELD is the low four bits of BQ_STAT. -/
theorem State.rbit_sf_held (s : State) (l : Nat) (q : Fin 4) (v : Nat) :
    (s.sf (Reg.SMP_BQ_STAT l) Fld.SMP_BQ_STAT_HELD v).rbit (Reg.SMP_BQ_STAT l) (Fld.SMP_BQ_STAT_HELD.lo + q.val) =
      v.testBit q.val := by
  have hlo : Fld.SMP_BQ_STAT_HELD.lo = 0 := rfl
  have hhi : Fld.SMP_BQ_STAT_HELD.hi = 3 := rfl
  rw [State.rbit, State.rr_sf_same, wbit_setF _ _ (by decide) (by omega), if_pos (by omega), Nat.add_sub_cancel_left]

end

/-! ### A batch formed (R391, R392) -/

/-- A queue after its batch has formed. -/
def BatchQ.formed (b : BatchQ) : BatchQ :=
  { b with
    ready := b.ready.drop (bqBmax b.desc)
    held := some ((b.ready.take (bqBmax b.desc)).map fun x => x.slot)
    drops := []
    dropOvf := 0
    seq := (b.seq + 1) % 2 ^ 32 }

/-- A queue after its batch has been released. -/
def BatchQ.freed (b : BatchQ) (ks : List Nat) : BatchQ := { b with held := Option.none, used := b.used.filter fun k => !ks.contains k }

/-- Once the record is written, the queue and HELD change. -/
theorem State.formBatch_recorded (s : State) (l q : Nat) : ∃ u : State, u.bq = s.bq ∧
    s.formBatch l q = (u.setBq l q BatchQ.formed).sf (Reg.SMP_BQ_STAT l) Fld.SMP_BQ_STAT_HELD
      (u.gf (Reg.SMP_BQ_STAT l) Fld.SMP_BQ_STAT_HELD ||| 2 ^ q) := by
  have hdrop (n : Nat) (xs : List Sample) : xs.drop (xs.take n).length = xs.drop n := by
    rw [List.length_take]
    rcases Nat.le_total n xs.length with hle | hle
    · rw [Nat.min_eq_left hle]
    · rw [Nat.min_eq_right hle, List.drop_length, List.drop_eq_nil_of_le hle]
  unfold State.formBatch
  dsimp only
  generalize hrecord : List.foldl _ (State.put s _ _ _ _) _ = u
  have hu : u.bq = s.bq := by
    rw [← hrecord]
    exact List.foldlRecOn (motive := fun t : State => t.bq = s.bq) _ _ (s.put_bq ..) fun t ht _ _ => (t.put_bq ..).trans ht
  refine ⟨u, hu, ?_⟩
  rw [State.setBq_congr (g := BatchQ.formed) (by rw [State.bqOf_congr hu, BatchQ.formed, hdrop])]

theorem State.bqOf_formBatch (s : State) (l q : Nat) : (s.formBatch l q).bqOf l q = (s.bqOf l q).formed := by
  obtain ⟨u, hbq, hform⟩ := s.formBatch_recorded l q
  rw [hform, State.bqOf_congr (State.sf_bq ..), State.bqOf_setBq, State.bqOf_congr hbq]

theorem State.bqOf_formBatch_other (s : State) (l : Nat) {q r : Nat} (h : r ≠ q) : (s.formBatch l q).bqOf l r = s.bqOf l r := by
  obtain ⟨u, hbq, hform⟩ := s.formBatch_recorded l q
  rw [hform, State.bqOf_congr (State.sf_bq ..), State.bqOf_setBq_other _ h, State.bqOf_congr hbq]

theorem State.rbit_held_formBatch (s : State) (l : Nat) (q : Fin 4) :
    (s.formBatch l q.val).rbit (Reg.SMP_BQ_STAT l) (Fld.SMP_BQ_STAT_HELD.lo + q.val) = true := by
  obtain ⟨u, -, hform⟩ := s.formBatch_recorded l q.val
  rw [hform, State.rbit_sf_held, Nat.testBit_or, Nat.testBit_two_pow_self, Bool.or_true]

/-! ### A batch released (R391) -/

section
variable {s : State} {l q : Nat} {ks : List Nat} (h : (s.bqOf l q).held = some ks)
include h

theorem State.freeBatch_held : s.freeBatch l q = (s.setBq l q (BatchQ.freed · ks)).sf (Reg.SMP_BQ_STAT l) Fld.SMP_BQ_STAT_HELD
    (s.gf (Reg.SMP_BQ_STAT l) Fld.SMP_BQ_STAT_HELD &&& (15 - 2 ^ q)) := by
  rw [State.freeBatch, h]
  rfl

theorem State.bqOf_freeBatch : (s.freeBatch l q).bqOf l q = (s.bqOf l q).freed ks := by
  rw [State.freeBatch_held h, State.bqOf_congr (State.sf_bq ..), State.bqOf_setBq]

theorem State.bqOf_freeBatch_other {r : Nat} (hr : r ≠ q) : (s.freeBatch l q).bqOf l r = s.bqOf l r := by
  rw [State.freeBatch_held h, State.bqOf_congr (State.sf_bq ..), State.bqOf_setBq_other _ hr]

theorem State.freeBatch_mem : (s.freeBatch l q).mem = s.mem := by
  rw [State.freeBatch_held h]
  rfl

end

/-! ### TAKE and RELEASE of one queue -/

/-- A fold in which one element alone acts. -/
theorem foldl_only {α β : Type} {f : β → α → β} {x : α} {xs : List α} (hx : x ∈ xs) (hnd : xs.Nodup) (b : β)
    (h : ∀ c, ∀ y, y ≠ x → f c y = c) : xs.foldl f b = f b x := by
  obtain ⟨front, back, rfl⟩ := List.append_of_mem hx
  obtain ⟨-, hback, hapart⟩ := List.nodup_append.1 hnd
  have hx_back : x ∉ back := (List.nodup_cons.1 hback).1
  rw [List.foldl_append, List.foldl_cons, foldl_unchanged fun y hy => h b y (hapart y hy x List.mem_cons_self),
    foldl_unchanged fun y hy => h _ y fun e => hx_back (e ▸ hy)]

/-- A mask of one bit: of the four queues that one is acted on. -/
theorem foldl_oneBit (s : State) (q : Fin 4) {p : State → Nat → Prop} [∀ u r, Decidable (p u r)] {act : State → Nat → State}
    (h : p s q.val) :
    (List.range 4).foldl (fun u r => if (2 ^ q.val).testBit r = true ∧ p u r then act u r else u) s = act s q.val := by
  rw [foldl_only (List.mem_range.2 q.isLt) List.nodup_range s fun u r hr => if_neg ?_, if_pos ⟨Nat.testBit_two_pow_self, h⟩]
  rw [Nat.testBit_two_pow_of_ne hr.symm]
  exact fun hbit => Bool.false_ne_true hbit.1

section
variable {s : State} {who : Requester} {l : Fin 16} {q : Fin 4} (hreach : s.reach who (Reg.SMP_BQ_CTL l.val) true = true)
  (hmode : bqMode (s.bqOf l.val q.val).desc = 1)
include hreach hmode

theorem exec_takeBatch_valid (hvalid : s.bqValid l.val q.val = true) : exec (.takeBatch who l q) s = .next
    (if (s.bqOf l.val q.val).held.isSome then s.setFlag Reg.SMP_FLAG 6 (some l.val) else s.formBatch l.val q.val) := by
  change execTakeBatch who l q s = _
  rw [execTakeBatch, State.asWrite, if_pos hreach]
  exact congrArg _ (foldl_oneBit s q ⟨hvalid, hmode⟩)

theorem exec_bqRelease : exec (.bqRelease who l q) s = .next (s.freeBatch l.val q.val) := by
  change execBqRelease who l q s = _
  rw [execBqRelease, State.asWrite, if_pos hreach]
  exact congrArg _ (foldl_oneBit s q hmode)

end

end Sys2Proof.Machine
end

section
/-! PROOFS. Sample streams and frames: ST_TAIL, FRAME_TAKE, FRAME_READY (R375, R377, R378, R390), and the statement. -/
namespace Sys2Proof.Machine
open Sys2Proof

/-! ### Posting (R375) -/

theorem State.strmOf_setStrm (s : State) (k : Nat) (f : Strm → Strm) : (s.setStrm k f).strmOf k = f (s.strmOf k) := by
  rw [State.strmOf, State.setStrm, tget_tmod, if_pos rfl, State.strmOf]

/-- Steps from one place of a ring to another. -/
theorem ring_distance {n old new : Nat} (hold : old < n) (hnew : new < n) :
    (new + n - old % n) % n = if old ≤ new then new - old else new + n - old := by
  rw [Nat.mod_eq_of_lt hold]
  split
  case isTrue hle => rw [show new + n - old = new - old + n by omega, Nat.add_mod_right, Nat.mod_eq_of_lt (by omega)]
  case isFalse hgt => exact Nat.mod_eq_of_lt (by omega)

theorem exec_stTail {s : State} {who : Requester} {st : Fin 64} (h : s.reach who (Reg.SMP_ST_TAIL st.val) true = true) (v : Word) :
    exec (.stTail who st v) s = .next (s.postTail st.val v.toNat) := by
  change execStTail who st v s = _
  rw [execStTail, State.asWrite, if_pos h]

theorem State.postTail_tail (s : State) (k v : Nat) : (s.postTail k v).gf (Reg.SMP_ST_TAIL k) Fld.SMP_ST_TAIL_TAIL = v % 4096 := by
  change (s.sf (Reg.SMP_ST_TAIL k) Fld.SMP_ST_TAIL_TAIL (v % 4096)).gf _ _ = _
  rw [State.gf_sf_same _ _ _ (by decide)]
  exact Nat.mod_mod v 4096

theorem State.postTail_posts {s : State} {k v n : Nat} (hn : sdInSize (s.strmOf k).desc = n)
    (hold : s.gf (Reg.SMP_ST_TAIL k) Fld.SMP_ST_TAIL_TAIL < n) (hnew : v % 4096 < n) :
    ((s.postTail k v).strmOf k).posts = (s.strmOf k).posts ++ List.replicate
      (if s.gf (Reg.SMP_ST_TAIL k) Fld.SMP_ST_TAIL_TAIL ≤ v % 4096 then v % 4096 - s.gf (Reg.SMP_ST_TAIL k) Fld.SMP_ST_TAIL_TAIL
        else v % 4096 + n - s.gf (Reg.SMP_ST_TAIL k) Fld.SMP_ST_TAIL_TAIL) s.cycle := by
  rw [State.postTail, State.strmOf_setStrm, ← ring_distance hold hnew, hn, if_neg (by omega)]
  rfl

/-! ### What leaves the streams -/

theorem State.smpFlag_notes (s : State) (bit : Nat) (l : Option Nat) : s.Notes (s.setFlag Reg.SMP_FLAG bit l) :=
  State.setFlag_notes _ _ _ _ (by decide) (by decide)

theorem State.smpFlagIf_notes (s : State) (p : Bool) (bit : Nat) (l : Option Nat) : s.Notes (s.setFlagIf p Reg.SMP_FLAG bit l) :=
  State.setFlagIf_notes _ _ _ _ _ (by decide) (by decide)

/-- The streams stay: their registers, and what they hold beyond them. -/
structure State.SameStreams (s t : State) : Prop where
  strm : t.strm = s.strm
  regs : ∀ a, 0xd1000 ≤ a → a < 0xd1800 → t.rr a = s.rr a

theorem noteReg_stream {a : Nat} (lo : 0xd1000 ≤ a) (hi : a < 0xd1800) : noteReg a = false := by
  have hblk : a / 65536 = 0xd := by omega
  simp only [noteReg, isFlagReg, blockOf, hblk]
  simp; omega

theorem State.BelowMem.sameStreams {s t : State} (h : s.BelowMem t) : s.SameStreams t :=
  ⟨by rw [h.rest], fun a lo hi => h.regs a (noteReg_stream lo hi) (Nat.lt_trans hi (by decide))⟩

theorem State.Notes.sameStreams {s t : State} (h : s.Notes t) : s.SameStreams t := h.belowMem.sameStreams

namespace State.SameStreams
variable {s t u : State}

theorem refl (s : State) : s.SameStreams s := ⟨rfl, fun _ _ _ => rfl⟩

theorem trans (h : s.SameStreams t) (k : t.SameStreams u) : s.SameStreams u :=
  ⟨k.strm.trans h.strm, fun a lo hi => (k.regs a lo hi).trans (h.regs a lo hi)⟩

theorem ite {c : Prop} [Decidable c] (h : s.SameStreams t) (k : s.SameStreams u) : s.SameStreams (if c then t else u) := by
  split <;> assumption

theorem sf (s : State) {a : Nat} (f : Fld) (v : Nat) (h : a < 0xd1000) : s.SameStreams (s.sf a f v) :=
  ⟨rfl, fun _ lo _ => State.rr_wr_other _ _ _ _ (by omega)⟩

theorem setBq (s : State) (l q : Nat) (f : BatchQ → BatchQ) : s.SameStreams (s.setBq l q f) := ⟨rfl, fun _ _ _ => rfl⟩

theorem setSmp (s : State) (jobs : Tbl (Option SmpJob)) : s.SameStreams { s with smp := jobs } := ⟨rfl, fun _ _ _ => rfl⟩

/-- An outcome without a sample goes to the batch queue and the flags (R390). -/
theorem frameDrop (s : State) (l q k st frame cause tag : Nat) : s.SameStreams (s.frameDrop l q k st frame cause tag) :=
  ((s.smpFlag_notes _ _).sameStreams.trans (setBq ..)).trans
    ((State.smpFlagIf_notes ..).trans (State.countStatus_notes ..)).sameStreams

theorem decStat (s : State) (d : Nat) (busy : Bool) (k : Nat) : s.SameStreams (s.decStat d busy k) :=
  .ite ((sf _ _ _ (by decide)).trans (sf _ _ _ (by decide))) ((sf _ _ _ (by decide)).trans (sf _ _ _ (by decide)))

theorem tierCharge (s : State) (l : Nat) (r : Payer) (a n : Nat) (wr : Bool) : s.SameStreams (s.tierCharge l r a n wr) :=
  (s.tierCharge_belowMem l r a n wr).sameStreams

theorem getBytes (s : State) (l a n : Nat) : s.SameStreams (s.getBytes l a n).1 := (s.getBytes_notes l a n).sameStreams

theorem frameBytes (s : State) (l a n : Nat) : s.SameStreams (s.frameBytes l a n).1 := getBytes s l a n

theorem getUnit (s : State) (l a : Nat) : s.SameStreams (s.getUnit l a).1 := by
  unfold State.getUnit
  split
  · exact .refl s
  · split
    · exact (State.setFlag_notes _ _ _ _ (by decide) (by decide)).sameStreams
    · exact .refl s

/-- The ROI list is read where the descriptor names one (R386). -/
theorem roiRead (s : State) (c : Prop) [Decidable c] (l a : Nat) : s.SameStreams
    (if c then (s.tierCharge l .sample a 64 false).getUnit l a else (s, 0, true)).1 := by
  split
  · exact (tierCharge ..).trans (getUnit ..)
  · exact .refl s

end State.SameStreams

/-! ### FRAME_TAKE (R377, R378, R386) -/

/-- A frame whose header is sound is held by the decoder and has its slots; any other leaves an outcome in the queue. -/
theorem State.checkFrame_sameStreams (s : State) (d l q k frame desc : Nat) (e : FrameEnt) (resv : List Nat) :
    s.SameStreams (s.checkFrame d l q k frame desc e resv) := by
  unfold State.checkFrame
  dsimp only
  refine .ite (.frameDrop ..) ?_
  generalize hread : State.frameBytes _ _ _ _ = read
  obtain ⟨u, bytes, bad⟩ := read
  have hu : s.SameStreams u := by
    rw [← show _ = u from congrArg Prod.fst hread]
    exact (State.SameStreams.tierCharge ..).trans (.frameBytes ..)
  have hdraw : u.SameStreams u.draw.2 := ⟨rfl, fun _ _ _ => rfl⟩
  refine hu.trans ?_
  dsimp only
  split
  case isTrue => exact hdraw.trans (.frameDrop ..)
  case isFalse =>
    split
    · exact .frameDrop ..
    · exact .frameDrop ..
    · exact (((State.SameStreams.roiRead ..).trans (State.smpFlagIf_notes ..).sameStreams).trans (.setBq ..)).trans
        ((State.SameStreams.decStat ..).trans (.setSmp ..))

/-- The entry taken: HEAD and FRAME move on and the oldest post is gone. -/
def State.entryTaken (u : State) (k head frame : Nat) : State :=
  ((u.sf (Reg.SMP_ST_HEAD k) Fld.SMP_ST_HEAD_HEAD head).wr (Reg.SMP_ST_FRAME k) (BitVec.ofNat 32 frame)).setStrm k fun x =>
    { x with posts := x.posts.drop 1 }

theorem State.takeFrame_entry (s : State) (d k : Nat) : ∃ (u : State) (head : Nat), s.SameStreams u ∧
    (u.entryTaken k head ((s.rr (Reg.SMP_ST_FRAME k)).toNat + 1)).SameStreams (s.takeFrame d k) := by
  unfold State.takeFrame
  dsimp only
  exact ⟨_, _, (State.SameStreams.tierCharge ..).trans (.getBytes ..),
    (State.event_notes ..).sameStreams.trans (.ite (.frameDrop ..) (State.checkFrame_sameStreams ..))⟩

theorem State.frameTraffic_belowMem (s : State) (j : SmpJob) (h : JHdr) : s.BelowMem (s.frameTraffic j h) := by
  unfold State.frameTraffic
  refine List.foldlRecOn (motive := fun u : State => s.BelowMem u) _ _ ?_ fun _ hu _ _ => hu.trans (State.tierCharge_belowMem ..)
  exact (State.BelowMem.ite (State.tierCharge_belowMem ..) (.refl s)).trans (.ite (.refl _) (State.tierCharge_belowMem ..))

theorem State.takeTraffic_sameStreams (s : State) (d : Nat) : s.SameStreams (s.takeTraffic d) := by
  unfold State.takeTraffic
  split
  · exact .refl s
  · split
    · exact (s.frameTraffic_belowMem _ _).sameStreams
    · exact .refl s

section
variable (s : State) (d k : Nat)

theorem State.frameNumber_take (hk : k < 64) :
    ((s.takeFrame d k).takeTraffic d).rr (Reg.SMP_ST_FRAME k) = s.rr (Reg.SMP_ST_FRAME k) + 1 := by
  obtain ⟨u, head, -, htaken⟩ := s.takeFrame_entry d k
  have hframe : Reg.SMP_ST_FRAME k = 0xd1010 + 0x20 * k := rfl
  rw [(htaken.trans (State.takeTraffic_sameStreams _ d)).regs _ (by omega) (by omega)]
  refine (State.rr_wr_same ..).trans (BitVec.eq_of_toNat_eq ?_)
  rw [BitVec.toNat_ofNat, BitVec.toNat_add]
  rfl

theorem State.posts_take : (((s.takeFrame d k).takeTraffic d).strmOf k).posts = (s.strmOf k).posts.drop 1 := by
  obtain ⟨u, head, hu, htaken⟩ := s.takeFrame_entry d k
  have hentry : (u.entryTaken k head ((s.rr (Reg.SMP_ST_FRAME k)).toNat + 1)).strmOf k =
      { u.strmOf k with posts := (u.strmOf k).posts.drop 1 } := State.strmOf_setStrm ..
  rw [State.strmOf, (htaken.trans (State.takeTraffic_sameStreams _ d)).strm, ← State.strmOf, hentry, State.strmOf, hu.strm,
    State.strmOf]

end

section
variable {s : State} {d : Fin 2}

theorem exec_frameTake_mayNot (h : s.mayTake d.val = false) : exec (.frameTake d) s = .next s := by
  change execFrameTake d s = _
  rw [execFrameTake, h]
  rfl

/-- SLOT_WAIT for the lodging of each stream in a list (R377). -/
def State.slotWaits (s : State) (ks : List Nat) : State := ks.foldl (fun s k => s.setFlag Reg.SMP_FLAG 4 (some (s.strmLdg k))) s

theorem State.slotWaits_notes (s : State) (ks : List Nat) : s.Notes (s.slotWaits ks) :=
  .foldl (.refl s) fun u _ _ hu => hu.trans (u.smpFlag_notes _ _)

theorem exec_frameTake_first (h : s.mayTake d.val = true) {k : Nat} (hk : s.posted.find? (fun k => s.roomFor k) = some k) :
    exec (.frameTake d) s = .next
      (((s.slotWaits (s.posted.takeWhile fun k => !s.roomFor k)).takeFrame d.val k).takeTraffic d.val) := by
  change execFrameTake d s = _
  simp only [execFrameTake, h, hk, Bool.not_true, Bool.false_eq_true, if_false]
  rfl

theorem exec_frameTake_oldest (h : s.mayTake d.val = true) {k : Nat} {rest : List Nat} (hposted : s.posted = k :: rest)
    (hroom : s.roomFor k = true) : exec (.frameTake d) s = .next ((s.takeFrame d.val k).takeTraffic d.val) := by
  have hfind : s.posted.find? (fun k => s.roomFor k) = some k := by rw [hposted, List.find?_cons, hroom]
  have hwaits : s.posted.takeWhile (fun k => !s.roomFor k) = [] := by rw [hposted, List.takeWhile_cons, hroom]; rfl
  rw [exec_frameTake_first h hfind, hwaits]
  rfl

/-! ### FRAME_READY (R390) -/

theorem exec_frameReady_none (h : s.smpOf d.val = none) : exec (.frameReady d) s = .next s := by
  change execFrameReady d s = _
  rw [execFrameReady, h]

theorem exec_frameReady_sound {j : SmpJob} {h : JHdr} (hj : s.smpOf d.val = some j)
    (hsound : headers (jbytes j.bytes) (2 ^ 32) = .ok h) (howes : s.owes j.l .sample = false) :
    exec (.frameReady d) s = .next (s.frameReady d.val j h) := by
  change execFrameReady d s = _
  simp only [execFrameReady, hj, hsound, howes, Bool.false_eq_true, if_false]

theorem State.smpOf_frameReady (s : State) (d : Nat) (j : SmpJob) (h : JHdr) : (s.frameReady d j h).smpOf d = none :=
  tget_tput_same (fun _ => none) _ d none

end

/-! ### The statement -/

/-- Settles O41: each row's exec lemma, and what the tail, the stream taken, the decoder and the queues are after it. -/
theorem framesAndBatches : Obligations.FramesAndBatches := by
  refine ⟨fun s d st v who => ⟨fun hreach => ?_, exec_frameTake_mayNot, fun k rest hmay hposted hk hroom => ?_,
      fun k hmay hfirst => ⟨_, s.slotWaits_notes _, exec_frameTake_first hmay hfirst⟩, exec_frameReady_none,
      fun j h hj hsound howes => ?_⟩,
    fun s l q who hreach hmode => ⟨fun hvalid hfree => ?_, fun hvalid hheld => ?_, fun ks hheld => ?_⟩⟩
  · exact ⟨_, exec_stTail hreach v, s.postTail_tail _ _, rfl, fun n hn hold hnew => State.postTail_posts hn hold hnew⟩
  · have hexec := exec_frameTake_oldest (d := d) hmay hposted hroom
    refine ⟨hexec, fun t ht => ?_⟩
    obtain rfl := Host.Outcome.next.inj (hexec.symm.trans ht)
    exact ⟨s.frameNumber_take d.val k hk, s.posts_take d.val k⟩
  · have hexec := exec_frameReady_sound hj hsound howes
    refine ⟨hexec, fun t ht => ?_⟩
    obtain rfl := Host.Outcome.next.inj (hexec.symm.trans ht)
    exact s.smpOf_frameReady d.val j h
  · have hexec := exec_takeBatch_valid hreach hmode hvalid
    rw [hfree, Option.isSome_none, if_neg Bool.false_ne_true] at hexec
    exact ⟨_, hexec, s.bqOf_formBatch .., fun r _ hr => s.bqOf_formBatch_other _ hr, s.rbit_held_formBatch ..⟩
  · have hexec := exec_takeBatch_valid hreach hmode hvalid
    rw [hheld, if_pos rfl] at hexec
    refine ⟨⟨_, hexec, s.smpFlag_notes ..⟩, fun t ht => ?_⟩
    obtain rfl := Host.Outcome.next.inj (hexec.symm.trans ht)
    exact State.rbit_setFlag _ _ _ _ (by decide) (by decide)
  · exact ⟨_, exec_bqRelease hreach hmode, State.bqOf_freeBatch hheld, fun r _ hr => State.bqOf_freeBatch_other hheld hr,
      State.freeBatch_mem hheld⟩

end Sys2Proof.Machine
end

section
/-! PROOFS. The staging: what it shows after each change of its registers, and what the operations touch (R420 to R422, R424). -/
open Sys2Proof Sys2Proof.Machine
namespace StagingOnly
variable {s t u : State}

theorem trans (h : StagingOnly s t) (k : StagingOnly t u) : StagingOnly s u :=
  ⟨by rw [k.1, h.1], fun a hstat hfail hnote => (k.2 a hstat hfail hnote).trans (h.2 a hstat hfail hnote)⟩

theorem ofNotes (h : s.Notes t) : StagingOnly s t := ⟨h.rest.trans (by rw [h.rest]), fun a _ _ => h.regs a⟩

variable (s)

theorem sf (f : Fld) (v : Nat) : StagingOnly s (s.sf Reg.STG_STAT f v) := ⟨rfl, fun _ h _ _ => State.rr_wr_other _ _ _ _ h⟩

theorem stg (g : Staging) : StagingOnly s { s with stg := g } := ⟨rfl, fun _ _ _ _ => rfl⟩

theorem stgFail (reg : Nat) : StagingOnly s (s.stgFail reg) := ⟨rfl, fun _ _ h _ => State.rr_wr_other _ _ _ _ h⟩

theorem stgGo (n : Nat) : StagingOnly s (s.stgGo n) := (sf s _ n).trans (stg _ _)

theorem stgClose : StagingOnly s s.stgClose := ((stgGo s 0).trans (sf _ _ 0)).trans (stg _ _)

theorem stgEnd (st : Nat) : StagingOnly s (s.stgEnd st) := (sf s _ st).trans (ofNotes (State.countStatus_notes ..))

theorem setFlag (bit : Nat) : StagingOnly s (s.setFlag Reg.STG_FLAG bit) :=
  ofNotes (State.setFlag_notes _ _ _ _ (by decide) (by decide))

end StagingOnly

namespace Sys2Proof.Machine

/-! ### What a change of STG.STAT or STG.FAIL leaves of the staging -/

/-- The staging, its STATE and OWNER, and STG.FAIL are the same. -/
structure State.SameStaging (s t : State) : Prop where
  stgSt : t.stgSt = s.stgSt
  owner : t.stgOwner = s.stgOwner
  fail : t.rr Reg.STG_FAIL = s.rr Reg.STG_FAIL
  stg : t.stg = s.stg

theorem State.SameStaging.trans {s t u : State} (h : s.SameStaging t) (k : t.SameStaging u) : s.SameStaging u :=
  ⟨k.stgSt.trans h.stgSt, k.owner.trans h.owner, k.fail.trans h.fail, k.stg.trans h.stg⟩

theorem State.Notes.gf_stgStat {s t : State} (h : s.Notes t) (f : Fld) : t.gf Reg.STG_STAT f = s.gf Reg.STG_STAT f := by
  rw [State.gf, h.regs Reg.STG_STAT (by decide), State.gf]

theorem State.Notes.sameStaging {s t : State} (h : s.Notes t) : s.SameStaging t :=
  ⟨h.gf_stgStat _, h.gf_stgStat _, h.regs _ (by decide), by rw [h.rest]⟩

section
variable (s : State)

theorem State.sf_status_sameStaging (st : Nat) : s.SameStaging (s.sf Reg.STG_STAT Fld.STG_STAT_STATUS st) where
  stgSt := State.gf_sf_apart _ _ _ (by decide) (by decide) (by decide)
  owner := State.gf_sf_apart _ _ _ (by decide) (by decide) (by decide)
  fail := State.rr_wr_other _ _ _ _ (by decide)
  stg := State.sf_stg ..

theorem State.stgEnd_sameStaging (st : Nat) : s.SameStaging (s.stgEnd st) :=
  (s.sf_status_sameStaging st).trans (State.countStatus_notes ..).sameStaging

theorem State.stgFlag_sameStaging (bit : Nat) : s.SameStaging (s.setFlag Reg.STG_FLAG bit) :=
  (State.setFlag_notes _ _ _ _ (by decide) (by decide)).sameStaging

theorem State.stgStatus_sf {st : Nat} (h : st < 256) : stgStatus (s.sf Reg.STG_STAT Fld.STG_STAT_STATUS st) = st :=
  (State.gf_sf_same _ _ _ (by decide)).trans (Nat.mod_eq_of_lt h)

theorem State.stgStatus_stgEnd {st : Nat} (h : st < 256) : stgStatus (s.stgEnd st) = st :=
  ((State.countStatus_notes ..).gf_stgStat _).trans (s.stgStatus_sf h)

theorem State.stgFlag_status (bit : Nat) : stgStatus (s.setFlag Reg.STG_FLAG bit) = stgStatus s :=
  (State.setFlag_notes _ _ _ _ (by decide) (by decide)).gf_stgStat _

theorem State.rbit_stgFlag {bit : Nat} (h : bit < 32) : (s.setFlag Reg.STG_FLAG bit).rbit Reg.STG_FLAG bit = true :=
  State.rbit_setFlag _ _ _ _ h (by decide)

/-! ### STATE, OWNER and the staged values after the steps that change them -/

theorem State.stgSt_stgGo {n : Nat} (h : n < 8) : (s.stgGo n).stgSt = n :=
  (State.gf_sf_same s _ _ (by decide)).trans (Nat.mod_eq_of_lt h)

theorem State.stgOwner_stgGo (n : Nat) : (s.stgGo n).stgOwner = s.stgOwner :=
  State.gf_sf_apart s _ _ (by decide) (by decide) (by decide)

theorem State.vals_stgGo (n : Nat) : (s.stgGo n).stg.vals = s.stg.vals := rfl

theorem State.failReg_stgGo (n : Nat) : (s.stgGo n).rr Reg.STG_FAIL = s.rr Reg.STG_FAIL := State.rr_wr_other s _ _ _ (by decide)

theorem State.stgSt_sf_owner (v : Nat) : (s.sf Reg.STG_STAT Fld.STG_STAT_OWNER v).stgSt = s.stgSt :=
  State.gf_sf_apart _ _ _ (by decide) (by decide) (by decide)

theorem State.stgOwner_sf_owner {v : Nat} (h : v < 16) : (s.sf Reg.STG_STAT Fld.STG_STAT_OWNER v).stgOwner = v :=
  (State.gf_sf_same _ _ _ (by decide)).trans (Nat.mod_eq_of_lt h)

theorem State.stgSt_stgClose : s.stgClose.stgSt = 0 := ((s.stgGo 0).stgSt_sf_owner 0).trans (s.stgSt_stgGo (by decide))

theorem State.stgOwner_stgClose : s.stgClose.stgOwner = 0 := (s.stgGo 0).stgOwner_sf_owner (by decide)

theorem State.vals_stgClose : s.stgClose.stg.vals = [] := rfl

theorem State.failReg_stgClose : s.stgClose.rr Reg.STG_FAIL = s.rr Reg.STG_FAIL :=
  (State.rr_wr_other (s.stgGo 0) _ _ _ (by decide)).trans (s.failReg_stgGo 0)

theorem State.failReg_stgFail (reg : Nat) : (s.stgFail reg).rr Reg.STG_FAIL = BitVec.ofNat 32 reg := by
  rw [State.stgFail, State.rr_wr_same, Nat.div_add_mod']

end
end Sys2Proof.Machine
end

section
/-! PROOFS. BEGIN, CHECK, COMMIT and ABANDON in every state of the staging (R420 to R422, R424), and the statement. -/
namespace Sys2Proof.Machine
open Sys2Proof

/-! ### What a check leaves and answers (R12, R422, R562) -/

/-- A fold leaves what its step leaves. -/
theorem foldl_keeps {α β γ : Type} (g : β → γ) {f : β → α → β} (hf : ∀ b x, g (f b x) = g b) (xs : List α) (b : β) :
    g (xs.foldl f b) = g b := by
  induction xs generalizing b with
  | nil => rfl
  | cons x xs ih => exact (ih _).trans (hf b x)

section
variable (s : State)

theorem State.wipe_stg (a n : Nat) : (s.wipe a n).stg = s.stg := by
  have hpoison : ((s.zero a n).clearPoison a n).stg = (s.zero a n).stg := by rw [State.clearPoison_rest]
  exact hpoison.trans (State.zero_stg ..)

theorem State.setRecord_stg (c b : Nat) (r : BankRec) : (s.setRecord c b r).stg = s.stg := by
  rw [State.setRecord, State.sf_stg, State.sf_stg, State.sf_stg, State.sf_stg, State.sf_stg, State.setTc_stg]

theorem State.clearBanks_stg (c : Nat) : (s.clearBanks c).stg = s.stg := by
  rw [State.clearBanks, State.setIss, State.setTc_stg, State.setIss, State.setTc_stg, State.setRecord_stg, State.setRecord_stg]

theorem State.domWipe_stg (i : Nat) : (s.domWipe i).stg = s.stg := by
  unfold State.domWipe
  split
  case isTrue =>
    split
    · rfl
    · split
      · rw [State.clearBanks_stg, State.setTc_stg]
      · split
        · rw [State.setTc_stg, State.wr_stg]
        · rw [State.setTc_stg, State.wipe_stg]
  case isFalse =>
    split
    · exact s.wipe_stg ..
    · split
      · exact s.wipe_stg ..
      · split
        · split
          · rw [State.setIbc_stg, State.wipe_stg]
          · rfl
        · split
          · rfl
          · split
            · exact foldl_keeps State.stg (fun u p => by split <;> rfl) _ _
            · split <;> rfl

theorem State.powerNeeded_stg (need : Nat → Bool) : (s.powerNeeded need).stg = s.stg := by
  refine foldl_keeps State.stg (fun u i => ?_) _ _
  split
  · unfold State.switchDom
    split
    · rfl
    · rw [State.setDom, State.wr_stg, State.domWipe_stg]
  · rfl

theorem State.stgCheck_stg (commit : Bool) : (s.stgCheck commit).1.stg = s.stg := s.powerNeeded_stg _

theorem outcome_status_lt (cs : List Chk) : (outcome cs).1 < 256 := by
  have horder : ∀ st ∈ St.order, st < 256 := by decide
  unfold outcome
  dsimp only
  split
  · decide
  · dsimp only
    split
    · exact horder _ (List.mem_of_find?_eq_some ‹_›)
    · decide

theorem State.stgCheck_status_lt (commit : Bool) : (s.stgCheck commit).2.1 < 256 := outcome_status_lt _

end

/-! ### A write of STG.CTL (R420, R581) -/

/-- The four operations are writes of STG.CTL. -/
theorem exec_staging (who : Requester) : ∀ i ∈ [Instr.beginStg who, .checkStg who, .commitStg who, .abandonStg who],
    ∃ op, ∀ s, exec i s = .next (s.asStager who op) := by
  simp only [List.forall_mem_cons]
  exact ⟨⟨_, fun _ => rfl⟩, ⟨_, fun _ => rfl⟩, ⟨_, fun _ => rfl⟩, ⟨_, fun _ => rfl⟩, nofun⟩

/-- The requester reaches STG.CTL, may own a staging, and owns the one that is open. -/
structure State.MayStage (s : State) (who : Requester) : Prop where
  reach : s.reach who Reg.STG_CTL true = true
  code : ownerCode who ≠ 0
  owner : s.stgSt ≠ 0 → s.stgOwner = ownerCode who

section
variable {s : State} {who : Requester} (op : State → State)

theorem State.asStager_denied (h : s.reach who Reg.STG_CTL true = false) : s.asStager who op = s.deny who :=
  if_neg (Bool.eq_false_iff.1 h)

theorem State.asStager_foreign (hreach : s.reach who Reg.STG_CTL true = true) (hopen : s.stgSt ≠ 0)
    (howner : ownerCode who ≠ s.stgOwner) : s.asStager who op = s.setFlag Reg.STG_FLAG 4 :=
  (if_pos hreach).trans (if_pos ⟨hopen, howner⟩)

theorem State.asStager_cannot (hreach : s.reach who Reg.STG_CTL true = true) (hidle : s.stgSt = 0) (hcode : ownerCode who = 0) :
    s.asStager who op = s :=
  (if_pos hreach).trans ((if_neg fun h => h.1 hidle).trans (if_pos hcode))

theorem State.MayStage.asStager (h : s.MayStage who) : s.asStager who op = op s :=
  (if_pos h.reach).trans ((if_neg fun hforeign => hforeign.2 (h.owner hforeign.1).symm).trans (if_neg h.code))

theorem exec_beginStg (h : s.MayStage who) : exec (.beginStg who) s = .next (s.opBegin who) := congrArg _ (h.asStager _)

theorem exec_checkStg (h : s.MayStage who) : exec (.checkStg who) s = .next s.opCheck := congrArg _ (h.asStager _)

theorem exec_commitStg (h : s.MayStage who) : exec (.commitStg who) s = .next s.opCommit := congrArg _ (h.asStager _)

theorem exec_abandonStg (h : s.MayStage who) : exec (.abandonStg who) s = .next s.opAbandon := congrArg _ (h.asStager _)

end

/-! ### The answer of a check (R422) -/

/-- A check of u is answered: the staging is OPEN with its values as they are, STATUS and STG.FAIL give the outcome. -/
structure State.CheckAnswered (u : State) (st reg : Nat) (t : State) : Prop where
  only : StagingOnly u t
  stgSt : t.stgSt = 1
  vals : t.stg.vals = u.stg.vals
  status : stgStatus t = st
  fail : t.rr Reg.STG_FAIL = BitVec.ofNat 32 reg

theorem State.answer_checkAnswered (u : State) {st : Nat} (reg : Nat) (h : st < 256) :
    u.CheckAnswered st reg (((u.stgFail reg).stgGo 1).stgEnd st) :=
  have hend := ((u.stgFail reg).stgGo 1).stgEnd_sameStaging st
  { only := ((StagingOnly.stgFail u reg).trans (.stgGo _ 1)).trans (.stgEnd _ st)
    stgSt := hend.stgSt.trans (State.stgSt_stgGo _ (by decide))
    vals := (congrArg Staging.vals hend.stg).trans (State.vals_stgGo _ 1)
    status := State.stgStatus_stgEnd _ h
    fail := hend.fail.trans ((State.failReg_stgGo _ 1).trans (u.failReg_stgFail reg)) }

/-! ### The operations in each state of the staging -/

theorem ownerCode_lt (who : Requester) : ownerCode who < 16 := by cases who <;> simp [ownerCode]

section
variable {s : State}

theorem State.opBegin_idle (who : Requester) (h : s.stgSt = 0) :
    s.opBegin who = ((s.stgGo 1).sf Reg.STG_STAT Fld.STG_STAT_OWNER (ownerCode who)).stgEnd St.ok := if_neg (not_not_intro h)

theorem State.opBegin_open (who : Requester) (h : s.stgSt ≠ 0) : s.opBegin who = s.stgEnd St.busy := if_pos h

theorem State.opCheck_idle (h : s.stgSt = 0) : s.opCheck = s.stgEnd St.state := if_pos h

theorem State.opCheck_open (h : s.stgSt = 1) :
    s.opCheck = (((s.stgCheck false).1.stgFail (s.stgCheck false).2.2).stgGo 1).stgEnd (s.stgCheck false).2.1 := by
  rw [State.opCheck, if_neg (by rw [h]; decide), if_neg (not_not_intro h)]

theorem State.opCheck_pending (h0 : s.stgSt ≠ 0) (h1 : s.stgSt ≠ 1) : s.opCheck = s.stgEnd St.busy := by
  rw [State.opCheck, if_neg h0, if_pos h1]

theorem State.opCommit_idle (h : s.stgSt = 0) : s.opCommit = s.stgEnd St.state := if_pos h

theorem State.opCommit_pending (h0 : s.stgSt ≠ 0) (h1 : s.stgSt ≠ 1) : s.opCommit = s.stgEnd St.busy := by
  rw [State.opCommit, if_neg h0, if_pos h1]

theorem State.opAbandon_idle (h : s.stgSt = 0) : s.opAbandon = s.stgEnd St.state := if_pos h

theorem State.opAbandon_open (h : s.stgSt ≠ 0) : s.opAbandon = s.stgClose.stgEnd St.ok := if_neg h

end

theorem exec_staging_idle {s : State} {who : Requester} (h : s.MayStage who) (hidle : s.stgSt = 0) :
    ∀ i ∈ [Instr.checkStg who, .commitStg who, .abandonStg who], exec i s = .next (s.stgEnd St.state) := by
  simp only [List.forall_mem_cons]
  exact ⟨by rw [exec_checkStg h, State.opCheck_idle hidle], by rw [exec_commitStg h, State.opCommit_idle hidle],
    by rw [exec_abandonStg h, State.opAbandon_idle hidle], nofun⟩

theorem exec_staging_pending {s : State} {who : Requester} (h : s.MayStage who) (h0 : s.stgSt ≠ 0) (h1 : s.stgSt ≠ 1) :
    ∀ i ∈ [Instr.checkStg who, .commitStg who], exec i s = .next (s.stgEnd St.busy) := by
  simp only [List.forall_mem_cons]
  exact ⟨by rw [exec_checkStg h, State.opCheck_pending h0 h1], by rw [exec_commitStg h, State.opCommit_pending h0 h1], nofun⟩

/-! ### AUTO_ABANDON (R421) -/

theorem exec_autoAbandon_due {s : State} (hopen : s.stgSt = 1) (hdue : s.stg.at_ + 600000000 ≤ s.cycle) :
    exec .autoAbandon s = .next (s.stgClose.setFlag Reg.STG_FLAG 3) :=
  congrArg _ (if_pos (by rw [hopen, decide_eq_true hdue]; rfl))

theorem exec_autoAbandon_not {s : State} (h : s.stgSt ≠ 1 ∨ s.cycle < s.stg.at_ + 600000000) : exec .autoAbandon s = .next s := by
  refine congrArg _ (if_neg ?_)
  rw [Bool.and_eq_true, beq_iff_eq, decide_eq_true_eq]
  omega

/-! ### The statement -/

/-- Settles O57: the state of the staging picks the branch of each operation, and each branch is a few steps that touch the
staging, STG.STAT and STG.FAIL only. -/
theorem stagingOperations : Obligations.StagingOperations := by
  intro who s
  refine ⟨fun hdenied i hi => ?_, fun hreach => ⟨fun hopen howner i hi => ?_, fun hidle hcode i hi => ?_, fun hcode =>
    ⟨fun hidle => ?_, fun hidle i hi => ?_, fun hopen howner => ⟨?_, ?_⟩, fun hopen howner => ?_, fun hopen hpend howner i hi => ?_⟩⟩,
    fun hopen hdue => ?_, exec_autoAbandon_not⟩
  · obtain ⟨op, hop⟩ := exec_staging who i hi
    rw [hop, State.asStager_denied op hdenied]
  · obtain ⟨op, hop⟩ := exec_staging who i hi
    rw [hop, State.asStager_foreign op hreach hopen howner]
    exact ⟨_, rfl, State.setFlag_notes _ _ _ _ (by decide) (by decide), s.rbit_stgFlag (by decide)⟩
  · obtain ⟨op, hop⟩ := exec_staging who i hi
    rw [hop, State.asStager_cannot op hreach hidle hcode]
  · rw [exec_beginStg ⟨hreach, hcode, absurd hidle⟩, State.opBegin_idle who hidle]
    have hend := ((s.stgGo 1).sf Reg.STG_STAT Fld.STG_STAT_OWNER (ownerCode who)).stgEnd_sameStaging St.ok
    exact ⟨_, rfl, ((StagingOnly.stgGo s 1).trans (.sf _ _ _)).trans (.stgEnd _ _),
      hend.stgSt.trans ((State.stgSt_sf_owner _ _).trans (s.stgSt_stgGo (by decide))),
      hend.owner.trans (State.stgOwner_sf_owner _ (ownerCode_lt who)), State.stgStatus_stgEnd _ (by decide),
      (congrArg Staging.vals hend.stg).trans (s.vals_stgGo 1)⟩
  · have hend := s.stgEnd_sameStaging St.state
    exact ⟨_, exec_staging_idle ⟨hreach, hcode, absurd hidle⟩ hidle i hi, .stgEnd s _, hend.stg, hend.stgSt.trans hidle,
      s.stgStatus_stgEnd (by decide)⟩
  · rw [exec_beginStg ⟨hreach, hcode, fun _ => howner⟩, State.opBegin_open who hopen]
    have hend := s.stgEnd_sameStaging St.busy
    exact ⟨_, rfl, .stgEnd s _, hend.stg, hend.stgSt, hend.owner, s.stgStatus_stgEnd (by decide)⟩
  · rw [exec_abandonStg ⟨hreach, hcode, fun _ => howner⟩, State.opAbandon_open hopen]
    have hend := s.stgClose.stgEnd_sameStaging St.ok
    exact ⟨_, rfl, (StagingOnly.stgClose s).trans (.stgEnd _ _), hend.stgSt.trans s.stgSt_stgClose,
      hend.owner.trans s.stgOwner_stgClose, congrArg Staging.vals hend.stg, State.stgStatus_stgEnd _ (by decide)⟩
  · rw [exec_checkStg ⟨hreach, hcode, fun _ => howner⟩, State.opCheck_open hopen]
    have hans := (s.stgCheck false).1.answer_checkAnswered (s.stgCheck false).2.2 (s.stgCheck_status_lt false)
    exact ⟨_, rfl, hans.stgSt, hans.vals.trans (congrArg Staging.vals (s.stgCheck_stg false)), by rw [hans.only.1], hans.status,
      hans.fail⟩
  · have hend := s.stgEnd_sameStaging St.busy
    exact ⟨_, exec_staging_pending ⟨hreach, hcode, fun _ => howner⟩ hopen hpend i hi, .stgEnd s _, hend.stg, hend.stgSt,
      s.stgStatus_stgEnd (by decide)⟩
  · have hflag := s.stgClose.stgFlag_sameStaging 3
    exact ⟨_, exec_autoAbandon_due hopen hdue, (StagingOnly.stgClose s).trans (.setFlag _ _), hflag.stgSt.trans s.stgSt_stgClose,
      congrArg Staging.vals hflag.stg, s.stgClose.rbit_stgFlag (by decide)⟩

end Sys2Proof.Machine
end

section
/-! PROOFS. Commits: refused, live at once, pending until their instant; held resources and lodgings that have not yielded (R422 to
R425), and the statement. -/
namespace Sys2Proof.Machine
open Sys2Proof

/-! ### A commit that is live (R424) -/

/-- The staging is counted, closed and answered OK. -/
def State.closeCommit (s : State) : State := ((s.wr Reg.STG_SEQ (s.rr Reg.STG_SEQ + 1)).stgFail 0).stgClose.stgEnd St.ok

/-- COMMITTED is set, and the window of R20 closes. -/
def State.showCommitted (s : State) : State := { s.setFlag Reg.STG_FLAG 0 with stg := { s.stg with closed := true } }

/-- Once its values are live a commit only closes the staging and says so. -/
theorem State.applyCommit_eq (s : State) : s.applyCommit = (s.makeLive s.stg.vals).closeCommit.showCommitted := rfl

/-- A closed staging: IDLE, of no owner, with no value, STATUS OK and STG.FAIL 0. -/
structure State.StagingClosed (t : State) : Prop where
  stgSt : t.stgSt = 0
  owner : t.stgOwner = 0
  vals : t.stg.vals = []
  status : stgStatus t = St.ok
  fail : t.rr Reg.STG_FAIL = 0

theorem State.StagingClosed.same {s t : State} (h : s.StagingClosed) (k : s.SameStaging t) (hst : stgStatus t = stgStatus s) :
    t.StagingClosed :=
  ⟨k.stgSt.trans h.stgSt, k.owner.trans h.owner, (congrArg Staging.vals k.stg).trans h.vals, hst.trans h.status, k.fail.trans h.fail⟩

theorem State.StagingClosed.withStg {t : State} (h : t.StagingClosed) {g : Staging} (hg : g.vals = []) :
    State.StagingClosed { t with stg := g } := ⟨h.stgSt, h.owner, hg, h.status, h.fail⟩

theorem State.StagingClosed.showCommitted {s : State} (h : s.StagingClosed) : s.showCommitted.StagingClosed :=
  (h.same (s.stgFlag_sameStaging 0) (s.stgFlag_status 0)).withStg h.vals

theorem State.rbit_setStg (t : State) (g : Staging) (a i : Nat) : State.rbit { t with stg := g } a i = t.rbit a i := rfl

theorem State.showCommitted_flag (s : State) : s.showCommitted.rbit Reg.STG_FLAG 0 = true :=
  (State.rbit_setStg ..).trans (s.rbit_stgFlag (by decide))

theorem State.closeCommit_closed (s : State) : s.closeCommit.StagingClosed :=
  have hend := ((s.wr Reg.STG_SEQ (s.rr Reg.STG_SEQ + 1)).stgFail 0).stgClose.stgEnd_sameStaging St.ok
  { stgSt := hend.stgSt.trans (State.stgSt_stgClose _)
    owner := hend.owner.trans (State.stgOwner_stgClose _)
    vals := (congrArg Staging.vals hend.stg).trans (State.vals_stgClose _)
    status := State.stgStatus_stgEnd _ (by decide)
    fail := hend.fail.trans ((State.failReg_stgClose _).trans (State.failReg_stgFail _ 0)) }

theorem State.applyCommit_closed (s : State) : s.applyCommit.StagingClosed :=
  s.applyCommit_eq ▸ (State.closeCommit_closed _).showCommitted

theorem State.applyCommit_flag (s : State) : s.applyCommit.rbit Reg.STG_FLAG 0 = true :=
  s.applyCommit_eq ▸ State.showCommitted_flag _

/-! ### COMMIT of an OPEN staging -/

section
variable {s u : State} {st reg : Nat} (hopen : s.stgSt = 1) (hcheck : s.stgCheck true = (u, st, reg))
include hopen hcheck

theorem State.opCommit_refused (hst : st ≠ St.ok) : s.opCommit = u.refuseCommit st reg := by
  rw [State.opCommit, if_neg (by rw [hopen]; decide), if_neg (not_not_intro hopen), hcheck]
  exact if_pos hst

theorem State.opCommit_ok (hst : st = St.ok) : s.opCommit =
    if u.gf Reg.STG_WHEN Fld.STG_WHEN_MODE = 0 ∧ !u.innHalt then u.applyCommit
    else ((u.stgFail 0).stgGo 3).sf Reg.STG_STAT Fld.STG_STAT_STATUS St.busy := by
  rw [State.opCommit, if_neg (by rw [hopen]; decide), if_neg (not_not_intro hopen), hcheck]
  exact if_neg (not_not_intro hst)

end

theorem State.refuseCommit_answered (u : State) {st : Nat} (reg : Nat) (h : st < 256) :
    u.CheckAnswered st reg (u.refuseCommit st reg) :=
  have hans := u.answer_checkAnswered reg h
  have hflag := State.stgFlag_sameStaging (((u.stgFail reg).stgGo 1).stgEnd st) 1
  { only := hans.only.trans (.setFlag _ 1)
    stgSt := hflag.stgSt.trans hans.stgSt
    vals := (congrArg Staging.vals hflag.stg).trans hans.vals
    status := (State.stgFlag_status _ 1).trans hans.status
    fail := hflag.fail.trans hans.fail }

/-- A commit waits for its instant: PENDING with STATUS BUSY, its values still staged. -/
theorem State.pending_shows (u : State) :
    let t := ((u.stgFail 0).stgGo 3).sf Reg.STG_STAT Fld.STG_STAT_STATUS St.busy
    StagingOnly u t ∧ t.stgSt = 3 ∧ stgStatus t = St.busy ∧ t.stg.vals = u.stg.vals ∧ t.rr Reg.STG_FAIL = 0 := by
  have hsf := ((u.stgFail 0).stgGo 3).sf_status_sameStaging St.busy
  exact ⟨((StagingOnly.stgFail u 0).trans (.stgGo _ 3)).trans (.sf _ _ _), hsf.stgSt.trans (State.stgSt_stgGo _ (by decide)),
    State.stgStatus_sf _ (by decide), (congrArg Staging.vals hsf.stg).trans (State.vals_stgGo _ 3),
    hsf.fail.trans ((State.failReg_stgGo _ 3).trans (u.failReg_stgFail 0))⟩

/-! ### The instant (R423, R424) -/

section
variable {s : State}

theorem exec_commitInstant_not (h : s.stgSt ≠ 3 ∨ s.innHalt = true ∨ s.instant = false) : exec .commitInstant s = .next s := by
  refine if_pos ?_
  rcases h with h | h | h
  · rw [decide_eq_true h]; rfl
  · rw [h, Bool.or_true, Bool.true_or]
  · rw [h, Bool.not_false, Bool.or_true]

variable (hpend : s.stgSt = 3) (hinn : s.innHalt = false) (hinst : s.instant = true)
include hpend hinn hinst

theorem exec_commitInstant_eq : exec .commitInstant s =
    if s.cycle < s.stg.at_ + 60000 then .next s.applyCommit
    else .next (if (s.stgCheck false).2.1 = St.ok then (s.stgCheck false).1.applyCommit
      else (s.stgCheck false).1.refuseCommit (s.stgCheck false).2.1 (s.stgCheck false).2.2) :=
  if_neg (by rw [hpend, hinn, hinst]; decide)

theorem exec_commitInstant_first (h : s.cycle < s.stg.at_ + 60000) : exec .commitInstant s = .next s.applyCommit :=
  (exec_commitInstant_eq hpend hinn hinst).trans (if_pos h)

theorem exec_commitInstant_second (h : s.stg.at_ + 60000 ≤ s.cycle) : exec .commitInstant s =
    .next (if (s.stgCheck false).2.1 = St.ok then (s.stgCheck false).1.applyCommit
      else (s.stgCheck false).1.refuseCommit (s.stgCheck false).2.1 (s.stgCheck false).2.2) :=
  (exec_commitInstant_eq hpend hinn hinst).trans (if_neg (Nat.not_lt.2 h))

end

/-! ### RESOURCE_RELEASE (R425) -/

/-- The waybill that holds the resource runs. -/
def State.wbHolds (s : State) (r : Release) : Bool :=
  match r.wb, (s.lodgeOf r.from_).run with
  | some n, some w => w.no == n
  | _, _ => false

/-- The resource is held yet: by a carrier whose deadline has not passed, by its waybill, or because the Innkeeper is halted. -/
def State.stillHeld (s : State) (r : Release) : Bool :=
  (r.car.any fun (tb, t) => decide (s.now tb < t)) || s.wbHolds r || s.innHalt

/-- The state without the release n of a resource, the resource cleared, and with it what waited for its core. -/
def State.released (s : State) (n : Nat) (r : Release) : State :=
  ({ s with stg := { s.stg with releases := s.stg.releases.eraseIdx n } }.clearRes r).enterCores

section
variable {s : State} {n : Nat} {r : Release}

theorem State.wbHolds_iff : s.wbHolds r = true ↔ ∃ w, (s.lodgeOf r.from_).run = some w ∧ r.wb = some w.no := by
  unfold State.wbHolds
  split
  next n w hwb hrun =>
    rw [beq_iff_eq, hwb, hrun]
    exact ⟨fun hno => ⟨w, rfl, congrArg some hno.symm⟩, fun ⟨v, hv, hno⟩ => by rw [Option.some.inj hv, Option.some.inj hno]⟩
  next hnone => exact ⟨nofun, fun ⟨w, hrun, hwb⟩ => (hnone _ _ hwb hrun).elim⟩

theorem State.stillHeld_iff : s.stillHeld r = true ↔
    s.innHalt = true ∨ (∃ x ∈ r.car, s.now x.1 < x.2) ∨ ∃ w, (s.lodgeOf r.from_).run = some w ∧ r.wb = some w.no := by
  rw [State.stillHeld, Bool.or_eq_true, Bool.or_eq_true, State.wbHolds_iff, List.any_eq_true, or_comm]
  simp only [decide_eq_true_eq]

theorem exec_resourceRelease_none (h : s.stg.releases[n]? = none) : exec (.resourceRelease n) s = .next s := by
  show execResourceRelease n s = _
  unfold execResourceRelease
  rw [h]

theorem exec_resourceRelease_some (h : s.stg.releases[n]? = some r) :
    exec (.resourceRelease n) s = if s.stillHeld r then .next s
      else .next ((s.released n r).showReleasing.setFlagIf (s.released n r).stg.releases.isEmpty Reg.STG_FLAG 2) := by
  show execResourceRelease n s = _
  unfold execResourceRelease
  rw [h]
  rfl

theorem State.showReleasing_released (u : State) :
    let t := u.showReleasing.setFlagIf u.stg.releases.isEmpty Reg.STG_FLAG 2
    t.mem = u.mem ∧
      (u.stg.releases = [] → t.rbit Reg.STG_FLAG 2 = true ∧ t.gf Reg.STG_STAT Fld.STG_STAT_RELEASING = 0) ∧
      (u.stg.releases ≠ [] → t.gf Reg.STG_STAT Fld.STG_STAT_RELEASING = 1) := by
  have hnotes := State.setFlagIf_notes u.showReleasing u.stg.releases.isEmpty Reg.STG_FLAG 2 none (by decide) (by decide)
  have hshown := (hnotes.gf_stgStat Fld.STG_STAT_RELEASING).trans (State.gf_sf_same u _ _ (by decide))
  have hmem : (u.showReleasing.setFlagIf u.stg.releases.isEmpty Reg.STG_FLAG 2).mem = u.showReleasing.mem := by rw [hnotes.rest]
  refine ⟨hmem.trans (State.sf_mem u _ _ _), fun hnone => ⟨?_, hshown.trans ?_⟩, fun hsome => hshown.trans ?_⟩
  · rw [State.setFlagIf, if_pos (List.isEmpty_iff.2 hnone)]
    exact State.rbit_stgFlag _ (by decide)
  · rw [if_pos (List.isEmpty_iff.2 hnone)]; decide
  · rw [if_neg fun h => hsome (List.isEmpty_iff.1 h)]; decide

end

/-! ### YIELD_LIMIT_EXPIRY (R425) -/

section
variable {s : State} {l : Fin 16}

theorem exec_yieldLimitExpiry_none (h : (s.lodgeOf l.val).yieldAt = none) : exec (.yieldLimitExpiry l) s = .next s := by
  show execYieldLimitExpiry l s = _
  unfold execYieldLimitExpiry
  rw [h]

theorem exec_yieldLimitExpiry_some {y : Nat} (h : (s.lodgeOf l.val).yieldAt = some y) : exec (.yieldLimitExpiry l) s =
    .next (if y + 600 * s.gf (Reg.LDG_YIELD l.val) Fld.LDG_YIELD_LIMIT ≤ s.cycle && !s.innHalt then
      (s.teardown l.val 4 0xFF 0xFF 0 St.timeout).setFlag Reg.LDG_FLAG 2 (some l.val) else s) := by
  show execYieldLimitExpiry l s = _
  unfold execYieldLimitExpiry
  rw [h]

theorem exec_yieldLimitExpiry_not {y : Nat} (h : (s.lodgeOf l.val).yieldAt = some y)
    (hnot : s.innHalt = true ∨ s.cycle < y + 600 * s.gf (Reg.LDG_YIELD l.val) Fld.LDG_YIELD_LIMIT) :
    exec (.yieldLimitExpiry l) s = .next s := by
  rw [exec_yieldLimitExpiry_some h, if_neg]
  rcases hnot with hinn | hearly
  · rw [hinn, Bool.not_true, Bool.and_false]; decide
  · rw [decide_eq_false (Nat.not_le.2 hearly), Bool.false_and]; decide

theorem exec_yieldLimitExpiry_due {y : Nat} (h : (s.lodgeOf l.val).yieldAt = some y) (hinn : s.innHalt = false)
    (hdue : y + 600 * s.gf (Reg.LDG_YIELD l.val) Fld.LDG_YIELD_LIMIT ≤ s.cycle) :
    exec (.yieldLimitExpiry l) s = .next ((s.teardown l.val 4 0xFF 0xFF 0 St.timeout).setFlag Reg.LDG_FLAG 2 (some l.val)) := by
  rw [exec_yieldLimitExpiry_some h, if_pos (by rw [decide_eq_true hdue, hinn]; rfl)]

end

/-! ### The statement -/

/-- Settles O58: each row's exec lemmas, what an answered check, a pending and a live commit show, and what ends with the last
release. -/
theorem commitTakesEffect : Obligations.CommitTakesEffect := by
  intro who s l n
  refine ⟨?_, fun hreach hcode hopen howner u st reg hcheck => ⟨fun hst => ?_, fun hst hmode hinn => ?_, fun hst hwait => ?_⟩,
    exec_commitInstant_not, fun hpend hinn hinst => ⟨exec_commitInstant_first hpend hinn hinst, fun hlate u st reg hcheck => ?_⟩,
    exec_resourceRelease_none, fun r hr => ⟨fun hheld => ?_, fun hinn hcar hwb => ?_⟩, exec_yieldLimitExpiry_none,
    fun y hy => ⟨exec_yieldLimitExpiry_not hy, fun hinn hdue => ?_⟩⟩
  · have hclosed := s.applyCommit_closed
    exact ⟨hclosed.stgSt, hclosed.owner, hclosed.vals, hclosed.status, hclosed.fail, s.applyCommit_flag⟩
  · rw [exec_commitStg ⟨hreach, hcode, fun _ => howner⟩, State.opCommit_refused hopen hcheck hst]
    have hlt : st < 256 := by have hlt := s.stgCheck_status_lt true; rwa [hcheck] at hlt
    have hans := u.refuseCommit_answered reg hlt
    exact ⟨_, rfl, hans.only, hans.stgSt, hans.status, hans.vals, hans.fail, State.rbit_stgFlag _ (by decide)⟩
  · rw [exec_commitStg ⟨hreach, hcode, fun _ => howner⟩, State.opCommit_ok hopen hcheck hst, if_pos ⟨hmode, by rw [hinn]; rfl⟩]
  · rw [exec_commitStg ⟨hreach, hcode, fun _ => howner⟩, State.opCommit_ok hopen hcheck hst, if_neg fun hnow => ?_]
    · exact ⟨_, rfl, u.pending_shows⟩
    · exact hwait.elim (fun hmode => hmode hnow.1) fun hinn => by simp [hinn] at hnow
  · rw [exec_commitInstant_second hpend hinn hinst hlate, hcheck]
    exact ⟨fun hst => by rw [if_pos hst], fun hst => by rw [if_neg hst]⟩
  · rw [exec_resourceRelease_some hr, if_pos (State.stillHeld_iff.2 hheld)]
  · rw [exec_resourceRelease_some hr, if_neg fun hheld => ?_]
    · exact ⟨_, rfl, (s.released n r).showReleasing_released⟩
    · rcases State.stillHeld_iff.1 hheld with hhalt | ⟨x, hx, hlate⟩ | ⟨w, hrun, hw⟩
      · exact Bool.false_ne_true (hinn.symm.trans hhalt)
      · exact absurd (hcar x hx) (Nat.not_le.2 hlate)
      · exact hwb w hrun hw
  · exact ⟨_, exec_yieldLimitExpiry_due hy hinn hdue, State.setFlag_notes _ _ _ _ (by decide) (by decide),
      State.rbit_setFlag _ _ _ _ (by decide) (by decide)⟩

end Sys2Proof.Machine
end

section
/-! PROOFS. A switch whose counter wraps (R405, R407, R495, R497): what refutes the statement on pooled cores. -/
namespace Sys2Proof.Machine
open Sys2Proof

/-- Core 3 is pooled, lodging 1 holds it (partition 0), and it is the turn of lodging 2 (partition 1). Counter 0 of the core counts
switches (event 0x300A) and holds 2^48 - 1. -/
def switchWraps : State :=
  { State.reset with
    regs := [(Reg.LDG_POOLED 1, 8), (Reg.CNT_SEL 0x13 0, 0x300A), (Reg.CNT_LO 0x13 0, 0xFFFFFFFF), (Reg.CNT_HI 0x13 0, 0xFFFF),
        (Reg.TC_PART 3 0, setF (setF 0 Fld.TC_PART_VALID 1) Fld.TC_PART_LODGING 1),
        (Reg.TC_PART 3 1, setF (setF 0 Fld.TC_PART_VALID 1) Fld.TC_PART_LODGING 2), (Reg.TC_DEFICIT 3 1, 7)].foldl
      (fun rs r => tput RegMap.reset rs r.1 r.2) State.reset.regs
    tc := [(3, { Tc.reset with round := [1] })] }

/-- Interrupt messages sent once a command has completed. -/
def msgsAfter (i : Instr) (s : State) : List (Nat × Nat) :=
  match exec i s with
  | .next t => t.msgs
  | _ => []

/-- The wrap sets CNT_OVF of the core, and the flag sends the physical function a message (R495, R583). -/
theorem switchWraps_msgs : switchWraps.msgs = [] ∧ msgsAfter (.switchLdg 3 0 0 0) switchWraps = [(0, 2)] := by decide +kernel

theorem switchWraps_turn : switchWraps.pooled (3 : Fin 32).val = true ∧ switchWraps.turn (3 : Fin 32).val = some 1 ∧
    switchWraps.curPart (3 : Fin 32).val = 0 ∧ ∀ sl, (switchWraps.slotOf (3 : Fin 32).val 0 sl).inflight = [] := by
  refine ⟨by decide, by decide, by decide, fun sl => ?_⟩
  cases sl <;> decide

/-- Refutes O38: its third clause lets a switch change registers and tensor cores only, yet the switch is an event of the core's
counters (R497), and a counter that wraps sets CNT_OVF, which sends an interrupt message (R15, R583): the state that the clause names
leaves `msgs` out. -/
theorem not_pooledCoreRounds : ¬ Obligations.PooledCoreRounds := by
  unfold Obligations.PooledCoreRounds
  intro h
  obtain ⟨hpooled, hturn, hcur, hslots⟩ := switchWraps_turn
  obtain ⟨hbefore, hafter⟩ := switchWraps_msgs
  obtain ⟨-, -, hswitch, -⟩ := h switchWraps 3 0 0 0
  obtain ⟨t, ht, hframe, -⟩ := hswitch 1 hpooled hturn (by rw [hcur]; decide) (by decide) (by decide) (by decide)
    fun sl e he => by rw [hcur, hslots sl] at he; cases he
  have hmsgs : t.msgs = switchWraps.msgs := by rw [hframe]
  rw [msgsAfter, ht] at hafter
  exact absurd (hafter.symm.trans (hmsgs.trans hbefore)) (by decide)

end Sys2Proof.Machine
end

section
/-! PROOFS. A teardown of a number that is no lodging (R416, R428, R454): what refutes the statement on teardowns. -/
namespace Sys2Proof.Machine
open Sys2Proof

/-- 3580 is no lodging, yet a waybill without units runs under it, and a release holds sync block 0 for it. -/
def strayTeardown : State :=
  { State.reset with
    lodge := [(3580, { Lodge.idle with run := some ⟨9, 0, 0, [], 0, none, none, [], 0, 0⟩ })]
    stg := { State.reset.stg with releases := [⟨.sync 0, 3580, none, [], 0, 0, (0, 0), (0, 0), []⟩] } }

/-- LAST_STATUS of the completion record, written after the block is cleared, is read back as a threshold. -/
theorem strayTeardown_armed : strayTeardown.syncHolder 4 = some 3580 ∧
    (strayTeardown.teardown 3580 0 0 0 0 0).syncArmed 4 = 0x0C000000 := by
  decide +kernel

/-- Refutes O40: it speaks of every number l, and l need not be one of the 16 lodgings. The address that LDG.STAT has by its formula
for l = 3580 is the threshold of sync object 4, so that the status of the torn-down waybill stands there when the teardown ends. -/
theorem not_teardownStopsTheWaybill : ¬ Obligations.TeardownStopsTheWaybill := by
  unfold Obligations.TeardownStopsTheWaybill
  intro h
  obtain ⟨hholder, harmed⟩ := strayTeardown_armed
  obtain ⟨-, hstop⟩ := h strayTeardown 3580 0 0 0 0 0
  obtain ⟨-, -, hcleared, -⟩ := hstop _ rfl
  have hzero := (hcleared 4 (by decide) hholder).2
  exact absurd (harmed.symm.trans hzero) (by decide)

end Sys2Proof.Machine
end

section
/-! PROOFS. The wear loop's voltage steps (R475) and the Innkeeper's lockstep (R476). -/
namespace Sys2Proof.Machine
open Sys2Proof

/-! ### Margins (R475) -/

/-- The margin is shown in REL.WEAR. -/
def State.showMargin (s : State) (m : Int) : State := s.sf Reg.REL_WEAR Fld.REL_WEAR_MARGIN_MIN (BitVec.ofInt 16 m).toNat

/-- A margin below target, outside MANUFACTURE: the wear loop acts. -/
def State.MarginLow (s : State) (m : Int) : Prop :=
  m < 10 * s.gf Reg.REL_WEAR_CFG Fld.REL_WEAR_CFG_MARGIN_TGT ∧ s.gf Reg.SEC_LC Fld.SEC_LC_STATE ≠ 0

/-- VDD_CORE is at least one step below WEAR_VMAX. -/
def State.BelowVmax (s : State) : Prop :=
  s.gf Reg.PWR_VDD Fld.PWR_VDD_SET + 5 ≤ s.gf Reg.REL_WEAR_CFG Fld.REL_WEAR_CFG_WEAR_VMAX

/-- One step of the voltage that wear adds. -/
def State.stepVoltage (s : State) : State :=
  { s.sf Reg.REL_WEAR Fld.REL_WEAR_VWEAR (s.gf Reg.REL_WEAR Fld.REL_WEAR_VWEAR + 5) with
    wearStep := some s.cycle, wearDirty := true }

section
variable (s : State) (m : Int) (u : RelUnit)

theorem State.showMargin_rr {a : Nat} (h : a ≠ Reg.REL_WEAR) : (s.showMargin m).rr a = s.rr a := State.rr_wr_other _ _ _ _ h

theorem State.showMargin_gf {a : Nat} (f : Fld) (h : a ≠ Reg.REL_WEAR) : (s.showMargin m).gf a f = s.gf a f :=
  State.gf_wr_other _ _ _ h

theorem State.showMargin_margin : (s.showMargin m).gf Reg.REL_WEAR Fld.REL_WEAR_MARGIN_MIN = (BitVec.ofInt 16 m).toNat :=
  (State.gf_sf_same _ _ _ (by decide)).trans (Nat.mod_eq_of_lt (BitVec.isLt _))

theorem State.showMargin_vwear :
    (s.showMargin m).gf Reg.REL_WEAR Fld.REL_WEAR_VWEAR = s.gf Reg.REL_WEAR Fld.REL_WEAR_VWEAR :=
  State.gf_sf_apart _ _ _ (by decide) (by decide) (by decide)

theorem State.showMargin_belowVmax : (s.showMargin m).BelowVmax ↔ s.BelowVmax := by
  rw [State.BelowVmax, State.showMargin_gf _ _ _ (by decide), State.showMargin_gf _ _ _ (by decide), State.BelowVmax]

/-- A check of the margin does not bring the next step nearer. -/
theorem State.showMargin_since (n : Nat) : (s.showMargin m).since (s.showMargin m).wearStep n = s.since s.wearStep n := rfl

/-- Whether a unit has a spare is read from the maps, not from REL.WEAR. -/
theorem State.showMargin_hasSpare : (s.showMargin m).hasSpare u = s.hasSpare u := by
  have hmap (c : Fin 32) (f : Fld) : (s.showMargin m).gf (Reg.REL_LG_MAP c.val) f = s.gf (Reg.REL_LG_MAP c.val) f :=
    s.showMargin_gf m f (by unfold Reg.REL_LG_MAP Reg.REL_WEAR; omega)
  have hleft (k : Nat) : (s.showMargin m).left k = s.left k :=
    s.showMargin_gf m _ (by unfold Reg.REL_SPARES Reg.REL_WEAR; omega)
  cases u
  case lane c g => simp only [State.hasSpare, hmap]
  case bank c b => simp only [State.hasSpare, hmap]
  case core c =>
    have hleaves : s.LeavesBut [Reg.REL_WEAR] (s.showMargin m) := .sf _ _ (List.mem_singleton_self _) (by decide)
    have hwing := hleaves.wingSpare (k := c.val / 4) (by omega) (by unfold Reg.REL_CORE_MAP Reg.REL_WEAR; simp; omega)
    simp only [State.hasSpare, hwing]
  case iambel n =>
    simp only [State.hasSpare, s.showMargin_gf m _ (show Reg.REL_IBC_MAP ≠ Reg.REL_WEAR by decide)]
    rfl
  case engine p =>
    simp only [State.hasSpare, hleft, s.showMargin_gf m _ (show Reg.LDPC_ENG_STAT ≠ Reg.REL_WEAR by decide)]
  case object o => simp only [State.hasSpare, hleft]
  all_goals rfl

end

section
variable {s : State} {m : Int} {u : RelUnit}

theorem exec_marginCheck_enough (halive : s.alive = true) (h : ¬ s.MarginLow m) :
    exec (.marginCheck m u) s = .next (s.showMargin m) := by
  have hpass : 10 * (s.gf Reg.REL_WEAR_CFG Fld.REL_WEAR_CFG_MARGIN_TGT : Int) ≤ m ∨ s.gf Reg.SEC_LC Fld.SEC_LC_STATE = 0 := by
    rw [State.MarginLow] at h
    omega
  rw [← s.showMargin_gf m _ (show Reg.REL_WEAR_CFG ≠ Reg.REL_WEAR by decide),
    ← s.showMargin_gf m _ (show Reg.SEC_LC ≠ Reg.REL_WEAR by decide)] at hpass
  exact (if_neg (by simp [halive])).trans (congrArg _ (if_pos hpass))

theorem exec_marginCheck_low (halive : s.alive = true) (h : s.MarginLow m) :
    exec (.marginCheck m u) s = .next ((s.showMargin m).lowMargin u) := by
  have hfail : ¬ (10 * (s.gf Reg.REL_WEAR_CFG Fld.REL_WEAR_CFG_MARGIN_TGT : Int) ≤ m ∨ s.gf Reg.SEC_LC Fld.SEC_LC_STATE = 0) := by
    rw [State.MarginLow] at h
    omega
  rw [← s.showMargin_gf m _ (show Reg.REL_WEAR_CFG ≠ Reg.REL_WEAR by decide),
    ← s.showMargin_gf m _ (show Reg.SEC_LC ≠ Reg.REL_WEAR by decide)] at hfail
  exact (if_neg (by simp [halive])).trans (congrArg _ (if_neg hfail))

theorem State.lowMargin_steps (hbelow : s.BelowVmax) (hsince : s.since s.wearStep 60000000 = true) :
    s.lowMargin u =
      (s.stepVoltage.setFlag Reg.REL_FLAG 7).history (relCls u) 6 6 (s.stepVoltage.unitIx u) 0xFFFF none :=
  (if_pos hbelow).trans (if_pos hsince)

theorem State.lowMargin_waits (hbelow : s.BelowVmax) (hsince : s.since s.wearStep 60000000 = false) : s.lowMargin u = s :=
  (if_pos hbelow).trans (if_neg (by simp [hsince]))

theorem State.lowMargin_critical (hvmax : ¬ s.BelowVmax) (hspare : s.hasSpare u = false) :
    s.lowMargin u = s.setFlag Reg.REL_FLAG 9 :=
  (if_neg hvmax).trans (if_pos (by simp [hspare]))

theorem State.history_leaves (s : State) (cls mech outc ix spare : Nat) (l : Option Nat) :
    s.LeavesBut [] (s.history cls mech outc ix spare l) := .same rfl rfl rfl

theorem State.history_wearStep (s : State) (cls mech outc ix spare : Nat) (l : Option Nat) :
    (s.history cls mech outc ix spare l).wearStep = s.wearStep := rfl

theorem State.stepVoltage_vwear (s : State) :
    s.stepVoltage.gf Reg.REL_WEAR Fld.REL_WEAR_VWEAR = (s.gf Reg.REL_WEAR Fld.REL_WEAR_VWEAR + 5) % 2 ^ 16 :=
  State.gf_sf_same s Reg.REL_WEAR _ (by decide)

/-- Within 100 ms of the last step the voltage stays (R475). -/
theorem exec_marginCheck_waits (halive : s.alive = true) (hlow : s.MarginLow m) (hbelow : s.BelowVmax)
    (hsince : s.since s.wearStep 60000000 = false) : exec (.marginCheck m u) s = .next (s.showMargin m) :=
  (exec_marginCheck_low halive hlow).trans
    (congrArg _ (State.lowMargin_waits ((s.showMargin_belowVmax m).2 hbelow) ((s.showMargin_since m _).trans hsince)))

/-- At WEAR_VMAX without a spare the margin is critical (R475). -/
theorem exec_marginCheck_critical (halive : s.alive = true) (hlow : s.MarginLow m) (hvmax : ¬ s.BelowVmax)
    (hspare : s.hasSpare u = false) :
    ∃ t, exec (.marginCheck m u) s = .next t ∧ t.mem = s.mem ∧ t.rbit Reg.REL_FLAG 9 = true := by
  have hexec := exec_marginCheck_low (u := u) halive hlow
  rw [State.lowMargin_critical (mt (s.showMargin_belowVmax m).1 hvmax) ((s.showMargin_hasSpare m u).trans hspare)] at hexec
  exact ⟨_, hexec, (State.LeavesBut.relFlag (w := []) 9 none).mem, State.rbit_setFlag _ _ _ _ (by decide) (by decide)⟩

/-- A margin below target raises the voltage by one step (R475). -/
theorem exec_marginCheck_steps (halive : s.alive = true) (hlow : s.MarginLow m) (hbelow : s.BelowVmax)
    (hsince : s.since s.wearStep 60000000 = true) : ∃ t, exec (.marginCheck m u) s = .next t ∧ t.mem = s.mem ∧
      t.gf Reg.REL_WEAR Fld.REL_WEAR_VWEAR = (s.gf Reg.REL_WEAR Fld.REL_WEAR_VWEAR + 5) % 2 ^ 16 ∧
      t.rbit Reg.REL_FLAG 7 = true ∧ t.wearStep = some s.cycle := by
  let w := s.showMargin m
  have hexec := exec_marginCheck_low (u := u) halive hlow
  rw [State.lowMargin_steps ((s.showMargin_belowVmax m).2 hbelow) ((s.showMargin_since m _).trans hsince)] at hexec
  have hafter := (State.LeavesBut.relFlag (s := w.stepVoltage) 7 none).trans
    (State.history_leaves _ (relCls u) 6 6 (w.stepVoltage.unitIx u) 0xFFFF none)
  refine ⟨_, hexec, hafter.mem, ?_, ?_, ?_⟩
  · calc _ = w.stepVoltage.gf Reg.REL_WEAR Fld.REL_WEAR_VWEAR := hafter.gf _ (by decide) List.not_mem_nil
      _ = (w.gf Reg.REL_WEAR Fld.REL_WEAR_VWEAR + 5) % 2 ^ 16 := w.stepVoltage_vwear
      _ = _ := by rw [s.showMargin_vwear m]
  · exact (State.history_leaves ..).flags 7 (State.rbit_setFlag _ _ _ _ (by decide) (by decide))
  · rw [State.history_wearStep, State.setFlag_rest]
    rfl

end

/-! ### The lockstep (R476) -/

section
variable {s : State}

theorem State.setFlag_tb (s : State) (a bit : Nat) (l : Option Nat) : (s.setFlag a bit l).tb = s.tb := by
  rw [State.setFlag_rest]

/-- Entries that a filter keeps read as before. -/
theorem tget_filter_of_kept {α : Type} (d : Nat → α) (p : Nat × α → Bool) (t : Tbl α) (k : Nat) (h : p (k, tget d t k) = true) :
    tget d (t.filter p) k = tget d t k := by
  induction t with
  | nil => rfl
  | cons e t ih =>
    obtain ⟨j, v⟩ := e
    by_cases hk : k = j
    · subst hk
      rw [tget, if_pos rfl] at h
      rw [List.filter_cons_of_pos h, tget, tget, if_pos rfl, if_pos rfl]
    · rw [tget, if_neg hk] at h
      rw [List.filter_cons, tget, if_neg hk]
      split
      · rw [tget, if_neg hk, ih h]
      · exact ih h

theorem State.domsOff_tb (s : State) (keep : Nat → Bool) : (s.domsOff keep).tb = s.tb :=
  List.foldlRecOn (motive := fun u : State => u.tb = s.tb) _ _ rfl fun u hu i _ => by
    split
    · exact hu
    · exact hu

theorem State.fullRestart_state (s : State) : s.fullRestart.gf Reg.PWR_BOOT Fld.PWR_BOOT_STATE = 4 :=
  State.gf_sf_same _ _ _ (by decide)

/-- A time base that runs outlives a full restart (R545). -/
theorem State.fullRestart_tbOf {n : Nat} (h : (s.tbOf n).running = true) : s.fullRestart.tbOf n = s.tbOf n := by
  have htb : s.fullRestart.tb = s.tb.filter fun (_, b) => b.running := by
    rw [State.fullRestart, State.bootGo, State.sf_tb, State.domsOff_tb]
  rw [State.tbOf, htb]
  exact tget_filter_of_kept _ _ _ _ h

theorem State.innLost_tbOf {n : Nat} (h : (s.tbOf n).running = true) : s.innLost.tbOf n = s.tbOf n := by
  have htb : (s.noSpare 11 4 0 none).tb = s.tb := State.setFlag_tb _ _ _ _
  have hsame : (s.noSpare 11 4 0 none).tbOf n = s.tbOf n := by rw [State.tbOf, htb, State.tbOf]
  exact (State.fullRestart_tbOf (by rwa [hsame])).trans hsame

theorem State.relLasting_tbOf (s : State) (cls n : Nat) (l : Option Nat) : (s.relLasting cls l).tbOf n = s.tbOf n :=
  congrArg (tget (fun _ => TimeBase.reset) · n) (State.setFlag_tb _ _ _ _)

/-- The fault of an Innkeeper core is counted as lasting. -/
theorem State.innLasting_tallied (s : State) : s.Tallied (Reg.REL_LAST_CNT 11) 1 (s.relLasting 11 none) :=
  .of_count s (by decide) 23 (by decide) none

theorem State.innLasting_left (s : State) : (s.relLasting 11 none).left 11 = s.left 11 :=
  s.innLasting_tallied.leaves.gf _ (by decide) (by decide)

theorem exec_lockstepMismatch_agrees (h : s.alive = true) :
    exec (.lockstepMismatch .agrees) s = .next (s.draw.2.relTrans 11 4 (s.draw.1 % 3) none) :=
  if_neg (by simp [h])

theorem exec_lockstepMismatch_allDiffer (h : s.alive = true) :
    exec (.lockstepMismatch .allDiffer) s = .next (s.relLasting 11 none).innLost :=
  if_neg (by simp [h])

theorem exec_lockstepMismatch_last (h : s.alive = true) (c : Fin 3) (hleft : s.left 11 = 0) :
    exec (.lockstepMismatch (.outvoted c)) s = .next (s.relLasting 11 none).innLost :=
  (if_neg (by simp [h])).trans (if_pos (s.innLasting_left.trans hleft))

/-- An outvoted core is retired and its spare comes into service. -/
def State.replaceInn (s : State) (c : Nat) : State :=
  { s.spend 11 false none with retired := s.retired ++ [(11, c)] }

theorem exec_lockstepMismatch_outvoted (h : s.alive = true) (c : Fin 3) (hleft : s.left 11 ≠ 0) :
    exec (.lockstepMismatch (.outvoted c)) s =
      let d := (s.relLasting 11 none).draw
      .next ((d.2.replaceInn c.val).relFault 11 4 1 c.val (d.1 % 3) none) :=
  (if_neg (by simp [h])).trans (if_neg (by rwa [s.innLasting_left]))

theorem exec_lockstepMismatch_agrees_counts (h : s.alive = true) : ∃ t, exec (.lockstepMismatch .agrees) s = .next t ∧
    t.mem = s.mem ∧ t.rr (Reg.REL_TRANS 11) = s.rr (Reg.REL_TRANS 11) + 1 := by
  have hcount : s.draw.2.Tallied (Reg.REL_TRANS 11) 0 (s.draw.2.relTrans 11 4 (s.draw.1 % 3) none) :=
    (State.Tallied.of_count _ (by decide) 22 (by decide) none).before (by decide) (.relLast ..)
  exact ⟨_, exec_lockstepMismatch_agrees h, hcount.leaves.mem, hcount.count⟩

theorem exec_lockstepMismatch_retires (h : s.alive = true) (c : Fin 3) (hleft : s.left 11 ≠ 0) :
    ∃ t, exec (.lockstepMismatch (.outvoted c)) s = .next t ∧ t.mem = s.mem ∧ t.left 11 = s.left 11 - 1 ∧
      (11, c.val) ∈ t.retired ∧ t.rbit Reg.REL_FLAG 1 = true := by
  let d := (s.relLasting 11 none).draw
  have hcount := s.innLasting_tallied
  have hspend : d.2.LeavesBut [Reg.REL_SPARES 11] (d.2.spend 11 false none) := .spend _ _ (List.mem_singleton_self _)
  have hfault : (d.2.replaceInn c.val).LeavesBut [] ((d.2.replaceInn c.val).relFault 11 4 1 c.val (d.1 % 3) none) := .relFault ..
  refine ⟨_, exec_lockstepMismatch_outvoted h c hleft, hfault.mem.trans (hspend.mem.trans hcount.leaves.mem), ?_, ?_,
    hfault.flags 1 (hspend.flags 1 hcount.flag)⟩
  · calc _ = (d.2.spend 11 false none).left 11 := hfault.gf _ (by decide) List.not_mem_nil
      _ = d.2.left 11 - 1 := State.left_spend _ (by decide) _ _
      _ = s.left 11 - 1 := congrArg (· - 1) s.innLasting_left
  · rw [hfault.retired]
    exact List.mem_append_right _ (List.mem_singleton_self _)

/-- Without a spare core, or with three that differ, the device restarts; time bases that run go on (R476, R545). -/
theorem exec_lockstepMismatch_restarts (h : s.alive = true) {c : Fin 3} {v : Vote} (hv : v ∈ [Vote.outvoted c, .allDiffer])
    (hlost : v = .allDiffer ∨ s.left 11 = 0) : ∃ t, exec (.lockstepMismatch v) s = .next t ∧
      t.gf Reg.PWR_BOOT Fld.PWR_BOOT_STATE = 4 ∧ ∀ n, (s.tbOf n).running = true → t.tbOf n = s.tbOf n := by
  have hexec : exec (.lockstepMismatch v) s = .next (s.relLasting 11 none).innLost := by
    rcases hlost with rfl | hleft
    · exact exec_lockstepMismatch_allDiffer h
    · rcases List.mem_cons.1 hv with rfl | hdiffer
      · exact exec_lockstepMismatch_last h c hleft
      · rw [List.mem_singleton.1 hdiffer]
        exact exec_lockstepMismatch_allDiffer h
  refine ⟨_, hexec, State.fullRestart_state _, fun n hn => ?_⟩
  have hsame := s.relLasting_tbOf 11 n none
  exact (State.innLost_tbOf (by rwa [hsame])).trans hsame

end

end Sys2Proof.Machine
end

section
/-! PROOFS. Firmware updates (R477, R486, R539) and the wear record's writes (R479), and the statement on wear, lockstep and
firmware. -/
namespace Sys2Proof.Machine
open Sys2Proof

/-! ### A firmware update begins (R477, R486) -/

/-- What REL.FWUPD_STAT shows. -/
def State.fwStatus (s : State) : Nat := s.gf Reg.REL_FWUPD_STAT Fld.REL_FWUPD_STAT_STATUS
def State.fwPhase (s : State) : Nat := s.gf Reg.REL_FWUPD_STAT Fld.REL_FWUPD_STAT_PHASE

/-- A GO that is refused: its status is shown and counted. -/
def State.fwRefuse (s : State) (st : Nat) : State :=
  (s.sf Reg.REL_FWUPD_STAT Fld.REL_FWUPD_STAT_STATUS st).countStatus 7 st none

section
variable {s : State}

theorem State.fwShow_status (s : State) (phase : Nat) {st : Nat} (h : st < 256) : (s.fwShow phase st).fwStatus = st :=
  (State.gf_sf_same _ _ _ (by decide)).trans (Nat.mod_eq_of_lt h)

theorem State.fwShow_phase (s : State) {phase : Nat} (h : phase < 8) (st : Nat) : (s.fwShow phase st).fwPhase = phase := by
  calc (s.fwShow phase st).fwPhase
      = (s.sf Reg.REL_FWUPD_STAT Fld.REL_FWUPD_STAT_PHASE phase).fwPhase :=
        State.gf_sf_apart _ _ _ (by decide) (by decide) (by decide)
    _ = phase % 2 ^ 3 := State.gf_sf_same _ _ _ (by decide)
    _ = phase := Nat.mod_eq_of_lt h

theorem State.fwShow_mem (s : State) (phase st : Nat) : (s.fwShow phase st).mem = s.mem := rfl
theorem State.fwShow_fw (s : State) (phase st : Nat) : (s.fwShow phase st).fw = s.fw := rfl
theorem State.fwShow_fwNew (s : State) (phase st : Nat) : (s.fwShow phase st).fwNew = s.fwNew := rfl

theorem State.Notes.fwStat {s t : State} (h : s.Notes t) (f : Fld) : t.gf Reg.REL_FWUPD_STAT f = s.gf Reg.REL_FWUPD_STAT f := by
  rw [State.gf, h.regs _ (by decide), State.gf]

theorem State.countStatus_fwNew (s : State) (blk st : Nat) (l : Option Nat) : (s.countStatus blk st l).fwNew = s.fwNew := by
  rw [(s.countStatus_notes blk st l).rest]

theorem State.countStatus_mem (s : State) (blk st : Nat) (l : Option Nat) : (s.countStatus blk st l).mem = s.mem := by
  rw [(s.countStatus_notes blk st l).rest]

theorem State.fwRefuse_fwNew (s : State) (st : Nat) : (s.fwRefuse st).fwNew = s.fwNew :=
  (s.sf Reg.REL_FWUPD_STAT Fld.REL_FWUPD_STAT_STATUS st).countStatus_fwNew 7 st none

theorem State.fwRefuse_status (s : State) {st : Nat} (h : st < 256) : (s.fwRefuse st).fwStatus = st :=
  ((State.countStatus_notes ..).fwStat _).trans ((State.gf_sf_same _ _ _ (by decide)).trans (Nat.mod_eq_of_lt h))

theorem State.fwRefuse_sigFail (s : State) (st : Nat) : (s.fwRefuse st).rbit Reg.SEC_FLAG 8 = s.rbit Reg.SEC_FLAG 8 := by
  rw [State.rbit, State.fwRefuse, State.countStatus, State.event_rr _ _ _ _ _ _ (by decide), State.sf,
    State.rr_wr_other _ _ _ _ (by decide), State.rbit]

/-- The state in which GO is taken: TARGET is held. -/
def State.fwTarget (s : State) (tg : Nat) : State := s.wr Reg.REL_FWUPD_CTL (BitVec.ofNat 32 (tg % 4))

section
variable {who : Requester} {tg : Fin 4} {sig : Bool} {dg : BitVec 384}
variable (hreach : s.reach who Reg.REL_FWUPD_CTL true = true)
include hreach

theorem exec_fwupd_unheard (h : pwrHears who = false) : exec (.fwupd who tg sig dg) s = .next s :=
  congrArg _ ((if_pos hreach).trans (if_neg (by simp [h])))

theorem exec_fwupd (h : pwrHears who = true) :
    exec (.fwupd who tg sig dg) s = .next ((s.fwTarget tg.val).fwGo tg.val sig dg.toNat) :=
  congrArg _ ((if_pos hreach).trans (if_pos h))

variable (hhears : pwrHears who = true)
include hhears

theorem exec_fwupd_reserved (h : tg = 3) :
    ∃ t, exec (.fwupd who tg sig dg) s = .next t ∧ t.fwNew = s.fwNew ∧ t.fwStatus = St.format := by
  have hgo : (s.fwTarget tg.val).fwGo tg.val sig dg.toNat = (s.fwTarget tg.val).fwRefuse St.format := if_pos (by rw [h]; rfl)
  exact ⟨_, exec_fwupd hreach hhears, by rw [hgo, State.fwRefuse_fwNew]; rfl, by rw [hgo, State.fwRefuse_status _ (by decide)]⟩

theorem exec_fwupd_busy (htg : tg ≠ 3) (h : s.fwNew.isSome = true) :
    ∃ t, exec (.fwupd who tg sig dg) s = .next t ∧ t.fwNew = s.fwNew ∧ t.fwStatus = St.busy := by
  have hgo : (s.fwTarget tg.val).fwGo tg.val sig dg.toNat = (s.fwTarget tg.val).fwRefuse St.busy :=
    (if_neg fun e => htg (Fin.ext e)).trans (if_pos h)
  exact ⟨_, exec_fwupd hreach hhears, by rw [hgo, State.fwRefuse_fwNew]; rfl, by rw [hgo, State.fwRefuse_status _ (by decide)]⟩

theorem exec_fwupd_unsigned (htg : tg ≠ 3) (hnone : s.fwNew = none) (hsig : sig = false) :
    ∃ t, exec (.fwupd who tg sig dg) s = .next t ∧ t.fwNew = none ∧ t.fwStatus = St.integrity ∧ t.rbit Reg.SEC_FLAG 8 = true := by
  have hidle : ¬ (s.fwTarget tg.val).fwNew.isSome = true := by
    show ¬ s.fwNew.isSome = true
    simp [hnone]
  have hgo : (s.fwTarget tg.val).fwGo tg.val sig dg.toNat = ((s.fwTarget tg.val).setFlag Reg.SEC_FLAG 8).fwRefuse St.integrity :=
    (if_neg fun e => htg (Fin.ext e)).trans ((if_neg hidle).trans (if_pos (by simp [hsig])))
  rw [exec_fwupd hreach hhears, hgo]
  refine ⟨_, rfl, ?_, State.fwRefuse_status _ (by decide), ?_⟩
  · rw [State.fwRefuse_fwNew, State.setFlag_rest]
    exact hnone
  · rw [State.fwRefuse_sigFail]
    exact State.rbit_setFlag _ _ _ _ (by decide) (by decide)

theorem exec_fwupd_starts (htg : tg ≠ 3) (hnone : s.fwNew = none) (hsig : sig = true) :
    ∃ t, exec (.fwupd who tg sig dg) s = .next t ∧ t.fwNew = some (tg.val, dg.toNat) ∧ t.fwStatus = St.ok ∧ t.fwPhase = 1 ∧
      t.mem = s.mem := by
  let u := { s.fwTarget tg.val with fwNew := some (tg.val, dg.toNat) }.fwShow 1 St.ok
  have hidle : ¬ (s.fwTarget tg.val).fwNew.isSome = true := by
    show ¬ s.fwNew.isSome = true
    simp [hnone]
  have hgo : (s.fwTarget tg.val).fwGo tg.val sig dg.toNat = u.countStatus 7 St.ok none :=
    (if_neg fun e => htg (Fin.ext e)).trans ((if_neg hidle).trans (if_neg (by simp [hsig])))
  have hnotes : u.Notes (u.countStatus 7 St.ok none) := State.countStatus_notes ..
  rw [exec_fwupd hreach hhears, hgo]
  exact ⟨_, rfl, u.countStatus_fwNew _ _ _, (hnotes.fwStat _).trans (State.fwShow_status _ 1 (by decide)),
    (hnotes.fwStat _).trans (State.fwShow_phase _ (by decide) _), u.countStatus_mem _ _ _⟩

end

/-! ### A phase of an update ends (R477) -/

theorem exec_fwupdPhaseEnd_none (ok : Bool) (h : s.fwNew = none) : exec (.fwupdPhaseEnd ok) s = .next s := by
  show execFwupdPhaseEnd ok s = _
  rw [execFwupdPhaseEnd, h]

/-- The firmware of a processor is replaced and the update has ended. -/
def State.fwInstall (s : State) (t d : Nat) : State := { s with fwNew := none, fw := tput (fun _ => 0) s.fw t d }.fwShow 6 St.ok

theorem exec_fwupdPhaseEnd (ok : Bool) {t d : Nat} (h : s.fwNew = some (t, d)) :
    exec (.fwupdPhaseEnd ok) s =
      if t = 0 ∧ s.fwPhase = 4 ∧ !ok then .next ({ s with fwNew := none }.fwShow 7 St.failed)
      else if t = 0 ∧ s.fwPhase < 5 then .next (s.fwShow (s.fwPhase + 1) St.ok)
      else .next (s.fwInstall t d) := by
  show execFwupdPhaseEnd ok s = _
  rw [execFwupdPhaseEnd, h]
  rfl

theorem exec_fwupdPhaseEnd_moves (ok : Bool) {t d : Nat} (h : s.fwNew = some (t, d)) :
    ∃ z, exec (.fwupdPhaseEnd ok) s = .next z ∧ z.mem = s.mem ∧
      (t = 0 → s.fwPhase = 4 → ok = false → z.fwNew = none ∧ z.fw = s.fw ∧ z.fwPhase = 7) ∧
      (t = 0 → s.fwPhase < 5 → s.fwPhase ≠ 4 ∨ ok = true → z.fwNew = s.fwNew ∧ z.fwPhase = s.fwPhase + 1) ∧
      (t ≠ 0 ∨ 5 ≤ s.fwPhase → z.fwNew = none ∧ tget (fun _ => 0) z.fw t = d ∧ z.fwPhase = 6) := by
  rw [exec_fwupdPhaseEnd ok h]
  split
  case isTrue hfail =>
    obtain ⟨ht, hp, hok⟩ := hfail
    refine ⟨_, rfl, State.fwShow_mem _ _ _, fun _ _ _ =>
      ⟨State.fwShow_fwNew _ _ _, State.fwShow_fw _ _ _, State.fwShow_phase _ (by decide) _⟩, fun _ _ hgo => ?_, fun hdone => ?_⟩
    · rcases hgo with hne | rfl
      · exact absurd hp hne
      · exact absurd hok (by decide)
    · omega
  case isFalse hgo =>
    split
    case isTrue hnext =>
      obtain ⟨ht, hp⟩ := hnext
      refine ⟨_, rfl, rfl, fun _ hp4 hok => ?_, fun _ _ _ => ⟨rfl, State.fwShow_phase _ (by omega) _⟩, fun hdone => ?_⟩
      · exact absurd ⟨ht, hp4, by simp [hok]⟩ hgo
      · omega
    case isFalse hlast =>
      refine ⟨_, rfl, rfl, fun ht hp _ => ?_, fun ht hp _ => ?_, fun _ =>
        ⟨rfl, tget_tput_same _ _ _ _, State.fwShow_phase _ (by decide) _⟩⟩
      · exact absurd ⟨ht, by omega⟩ hlast
      · exact absurd ⟨ht, hp⟩ hlast

/-! ### The wear record (R479) -/

/-- Where the next record goes. -/
def State.wearTo (s : State) : Nat := if s.wearBank = 1 then s.wrec.1 else s.wrec.2

/-- A write of the wear record goes ahead. -/
def State.WearReady (s : State) : Prop := s.alive = true ∧ s.wearDue = true ∧ s.flashOp = none ∧ s.wearTo ≠ 0

/-- The write has begun: what it records is no longer due. -/
def State.wearTaken (s : State) : State := { s with wearDirty := false, wearAt := s.cycle }

/-- The record is written and reads back. -/
def State.wearWritten (s : State) : State :=
  let seq := ((s.rr Reg.REL_WREC_SEQ).toNat + 1) % 2 ^ 32
  let t := (s.wearTaken.flErase s.wearTo 65536).flSet s.wearTo (s.wearRecord seq)
  ((t.wr Reg.REL_WREC_SEQ (BitVec.ofNat 32 seq)).sf Reg.REL_WREC_STAT Fld.REL_WREC_STAT_BANK s.wearBank).sf
    Reg.REL_WREC_STAT Fld.REL_WREC_STAT_STATUS St.ok

theorem State.wearReady_iff :
    s.WearReady ↔ ¬ (!s.alive || !s.wearDue || s.flashOp.isSome || s.wearTo == 0) = true := by
  simp [State.WearReady, and_assoc]

theorem State.wearBank_lt (s : State) : s.wearBank < 4 := by
  unfold State.wearBank
  split <;> decide

theorem exec_wearRecordWrite_waits (out : Fin 3) (h : ¬ s.WearReady) : exec (.wearRecordWrite out) s = .next s :=
  if_pos (Decidable.not_not.1 (mt State.wearReady_iff.2 h))

theorem exec_wearRecordWrite_ok {out : Fin 3} (h : s.WearReady) (hout : out.val = 0) :
    exec (.wearRecordWrite out) s = .next s.wearWritten :=
  (if_neg (State.wearReady_iff.1 h)).trans (if_pos hout)

theorem State.flSet_mem (s : State) (a : Nat) (bs : List Byte) : (s.flSet a bs).mem = s.mem := rfl

theorem State.wearWritten_mem (s : State) : s.wearWritten.mem = s.mem := by
  rw [State.wearWritten, State.sf_mem, State.sf_mem, State.wr_mem, State.flSet_mem]
  rfl

theorem exec_wearRecordWrite_writes (h : s.WearReady) : ∃ t, exec (.wearRecordWrite 0) s = .next t ∧ t.wearDirty = false ∧
    t.wearAt = s.cycle ∧ t.mem = s.mem ∧ t.rr Reg.REL_WREC_SEQ = s.rr Reg.REL_WREC_SEQ + 1 ∧
    t.gf Reg.REL_WREC_STAT Fld.REL_WREC_STAT_BANK = s.wearBank ∧ t.gf Reg.REL_WREC_STAT Fld.REL_WREC_STAT_STATUS = St.ok := by
  have hbegun := exec_wearRecordWrite_ok h (out := 0) rfl
  have hseq : BitVec.ofNat 32 (((s.rr Reg.REL_WREC_SEQ).toNat + 1) % 2 ^ 32) = s.rr Reg.REL_WREC_SEQ + 1 :=
    BitVec.eq_of_toNat_eq (by simp [BitVec.toNat_add])
  refine ⟨_, hbegun, rfl, rfl, s.wearWritten_mem, ?_, ?_, State.gf_sf_same _ Reg.REL_WREC_STAT _ (by decide)⟩
  · rw [State.wearWritten, State.sf, State.rr_wr_other _ _ _ _ (by decide), State.sf, State.rr_wr_other _ _ _ _ (by decide),
      State.rr_wr_same, hseq]
  · rw [State.wearWritten, State.gf_sf_apart _ _ _ (by decide) (by decide) (by decide), State.gf_sf_same _ _ _ (by decide)]
    exact Nat.mod_eq_of_lt s.wearBank_lt

theorem exec_wearRecordWrite_fails {out : Fin 3} (h : s.WearReady) (hout : out ≠ 0) : ∃ t, exec (.wearRecordWrite out) s = .next t ∧
    t.mem = s.mem ∧ t.rbit Reg.REL_FLAG 10 = true ∧ t.rr Reg.REL_WREC_SEQ = s.rr Reg.REL_WREC_SEQ := by
  refine ⟨_, (if_neg (State.wearReady_iff.1 h)).trans (if_neg fun e => hout (Fin.ext e)), ?_,
    State.rbit_setFlag _ _ _ _ (by decide) (by decide), ?_⟩
  · exact (State.LeavesBut.relFlag (w := []) 10 none).mem
  · exact ((State.LeavesBut.relFlag (w := []) 10 none).regs _ (by decide) List.not_mem_nil).trans
      (State.rr_wr_other _ _ _ _ (by decide))

/-- Nothing happens in reset or without REFCLK. -/
theorem exec_reliability_held (m : Int) (u : RelUnit) (c : Fin 3) (h : s.alive = false) :
    ∀ i ∈ [Instr.marginCheck m u, .lockstepMismatch (.outvoted c), .lockstepMismatch .agrees, .lockstepMismatch .allDiffer,
      .wearRecordWrite 0], exec i s = .next s := by
  have hheld : (!s.alive) = true := by simp [h]
  have hwait : ¬ s.WearReady := fun ⟨halive, _⟩ => by simp [h] at halive
  simp only [List.forall_mem_cons, List.not_mem_nil, false_imp_iff, implies_true, and_true]
  exact ⟨if_pos hheld, if_pos hheld, if_pos hheld, if_pos hheld, exec_wearRecordWrite_waits 0 hwait⟩

end

/-- Settles O16, row by row: MARGIN_CHECK by what the wear loop does in each range of margin and voltage, LOCKSTEP_MISMATCH by its
votes, FWUPD by its refusals, FWUPD_PHASE_END by its phases, WEAR_RECORD_WRITE by whether a write is due and reads back. -/
theorem wearLockstepAndFirmware : Obligations.WearLockstepAndFirmware := by
  unfold Obligations.WearLockstepAndFirmware
  intro s u m c who tg sig ok dg
  refine ⟨fun i hi h => exec_reliability_held m u c h i hi, fun halive => ?_, fun hreach hhears => ?_,
    fun hreach => exec_fwupd_unheard hreach, exec_fwupdPhaseEnd_none ok, fun t d h => exec_fwupdPhaseEnd_moves ok h, ?_⟩
  · have hmargin : ∀ a, a ≠ Reg.REL_WEAR → (s.showMargin m).rr a = s.rr a := fun a ha => s.showMargin_rr m ha
    exact ⟨fun h => ⟨_, exec_marginCheck_enough halive h, rfl, s.showMargin_margin m, hmargin⟩,
      exec_marginCheck_steps halive,
      fun hlow hbelow hsince => ⟨_, exec_marginCheck_waits halive hlow hbelow hsince, rfl, hmargin⟩,
      exec_marginCheck_critical halive, exec_lockstepMismatch_agrees_counts halive, exec_lockstepMismatch_retires halive c,
      fun v hv hlost => exec_lockstepMismatch_restarts halive hv hlost⟩
  · exact ⟨exec_fwupd_reserved hreach hhears, exec_fwupd_busy hreach hhears, exec_fwupd_unsigned hreach hhears,
      exec_fwupd_starts hreach hhears⟩
  · exact ⟨fun h out => exec_wearRecordWrite_waits out h, fun h => ⟨exec_wearRecordWrite_writes h,
      fun _ => exec_wearRecordWrite_fails h⟩⟩

end Sys2Proof.Machine
end
